-- ==== Sys2Proof/Word.lean ====
section
/-!
DEFINITION. The word types: what the manual treats as bits is a bit vector, what it counts is a natural number.
-/

namespace Sys2Proof

/-- One byte of a message, a record or a block; multi-byte fields are little-endian (R10). -/
abbrev Byte := BitVec 8

/-- A 16-bit configuration word (R56, R77). -/
abbrev Word16 := BitVec 16

/-- A 32-bit register or configuration word (R66, R308, R413). -/
abbrev Word32 := BitVec 32

/-- A 64-bit word: a digest (R265), a mask of trace sources (R311), a doorbell (R361). -/
abbrev Word64 := BitVec 64

/-- The levels of the 256 event lines of one concentrator (R54), or the 256 fence lines (R296). -/
abbrev Lines := BitVec 256

end Sys2Proof
end

