-- ==== Sys2Proof/Syntax.lean ====
section
/-!
DEFINITION. What the outside world sends the block: the stamped request of a mailbox command, the images, records and
messages that commands carry as operands, and the ONE inductive of the commands and events of the part
(spec/opcode_table.json), one constructor per row.  Multi-byte layouts are given with the rule that lays them out.
-/

namespace Sys2Proof

/-! ## The stamped request -/

/-- Who issued a request, as the hardware stamps it (R358).  A relayed copy keeps the class and partition stamped at the
block where it originated, so it carries them itself. -/
inductive Issuer where
  /-- PM0 to PM3 (class 0 to 3, partition 0). -/
  | pm (n : Nat)
  /-- The sideband (class 4, partition 0). -/
  | sideband
  /-- A tenant session (class 5): stamped partition, slot and generation of `SESSION`. -/
  | tenant (partition slot generation : Nat)
  /-- A relayed copy (R374): class, partition stamped at the first block. -/
  | relay (cls partition : Nat)
  /-- A Quarter replica issuing a command of its own (class 6, partition 0). -/
  | role (quarter replica : Nat)
deriving DecidableEq, Repr

/-- The scope of a relayed command (R392); `other` is a `SKIND` the table does not define. -/
inductive Scope where
  | fleet
  | quarter (q : Nat)
  | tray (t : Nat)
  | die (d : Nat)
  | other (kind : Nat)
deriving DecidableEq, Repr

/-- The header of a request as the Steward takes it (R364), with the outcome of the byte checks that need the whole
128 bytes: `hchkOk` (HCHK passes) and `reservedOk` (every payload byte that no item names is 0, R388). -/
structure Req where
  issuer : Issuer
  /-- 32 bits, chosen by the issuer. -/
  tag : Nat
  /-- `HVER`, 8 bits; 0x01 is the one version. -/
  hver : Nat
  /-- `PLEN`, 8 bits, 0 to 112. -/
  plen : Nat
  hchkOk : Bool
  /-- The reserved header bits are 0. -/
  headerReservedOk : Bool
  reservedOk : Bool
  /-- `MFLAGS` [1]. -/
  relay : Bool
  scope : Scope
deriving DecidableEq, Repr

/-- A buffer descriptor (R372) as the Steward reads it through `BUF`; `dcrcOk` says that `DCRC` passes, `readOk` that the
`BUF` read was answered without error (R406). -/
structure Desc where
  /-- Address of the descriptor itself, 64 bits. -/
  selfAddr : Nat
  /-- `ADDR`, 64 bits. -/
  addr : Nat
  /-- `LEN`, 32 bits. -/
  len : Nat
  partition : Nat
  dkind : Nat
  /-- `DFLAGS` [0]. -/
  notify : Bool
  /-- `NEXT`, 64 bits, 0 for none. -/
  nextAddr : Nat
  descId : Nat
  dcrcOk : Bool
  readOk : Bool
deriving DecidableEq, Repr

/-! ## Ledger records (R102 to R110) -/

/-- A Leaf counter entry (R104); `flags` is [4:0] of R93. -/
structure CounterEntry where
  index : Nat
  flags : BitVec 5
  partition : Nat
  prescale : Nat
  residue : Nat
  delta : Nat
deriving DecidableEq, Repr

/-- A Leaf gauge entry (R105). -/
structure GaugeEntry where
  index : Nat
  sample : Nat
  stale : Bool
  signed : Bool
  inexact : Bool
  partition : Nat
  value : Nat
deriving DecidableEq, Repr

/-- A sum entry (R106). -/
structure SumEntry where
  index : Nat
  partition : Nat
  prescale : Nat
  repaired : Bool
  first : Bool
  last : Bool
  contrib : Nat
  void : Nat
  sum : Nat
  lost : Nat
deriving DecidableEq, Repr

/-- An aggregate entry (R107). -/
structure AggEntry where
  index : Nat
  signed : Bool
  sample : Nat
  partition : Nat
  present : Nat
  inexact : Nat
  missing : Nat
  min : Int
  max : Int
  sum : Int
deriving DecidableEq, Repr

/-- A child-status entry (R108). -/
structure ChildStatus where
  child : Nat
  epoch : Nat
  generation : Nat
  state : Nat
  lostFrags : Nat
deriving DecidableEq, Repr

/-- A coverage entry (R109): the slots of one tray. -/
structure CoverEntry where
  tray : Nat
  slots : List Nat
deriving DecidableEq, Repr

/-- A loss entry (R110); `quantity = none` is 0xFFFF_FFFF_FFFF_FFFF (unknown), `partition = none` is 0xFFFF (all). -/
structure LossEntry where
  lkind : Nat
  partition : Option Nat
  indexFirst : Nat
  indexLast : Nat
  subject : Nat
  frame : Nat
  quantity : Option Nat
deriving DecidableEq, Repr

/-- A fault report (R125): 64 bytes.  `first8` lists at most eight reporter addresses, ascending. -/
structure Report where
  isOpen : Bool
  isClose : Bool
  continued : Bool
  code : Nat
  reporter : Nat
  subject : Nat
  ft : Nat
  epoch : Nat
  count : Nat
  first8 : List Nat
  tier : Nat
  detail : Nat
  window : Nat
deriving DecidableEq, Repr

/-- A storm entry (R131). -/
structure StormEntry where
  continued : Bool
  code : Nat
  source : Nat
  ft : Nat
  window : Nat
  epoch : Nat
  reports : Nat
  first : Nat
  tier : Nat
  codesShared : Nat
deriving DecidableEq, Repr

/-- An entry of the alert section (R103). -/
inductive AlertEntry where
  | report (r : Report)
  | storm (e : StormEntry)
deriving DecidableEq, Repr

/-- A ledger record of any tier (R102, R103): header, six sections. -/
structure Record where
  timeQuality : BitVec 8
  /-- 0x01 primary, 0x02 amendment, 0x03 final. -/
  kind : Nat
  tier : Nat
  replica : Nat
  flags : BitVec 16
  frame : Nat
  period : Nat
  epoch : Nat
  source : Nat
  seq : Nat
  generation : Nat
  missFirst : Nat
  missCount : Nat
  children : List ChildStatus
  cover : List CoverEntry
  counters : List CounterEntry
  sums : List SumEntry
  gauges : List GaugeEntry
  aggs : List AggEntry
  losses : List LossEntry
  alerts : List AlertEntry
deriving DecidableEq, Repr

/-- A request entry of a ledger acknowledgement (R333). -/
structure AckReq where
  frame : Nat
  blkFirst : Nat
  blkLast : Nat
  rqkind : Nat
deriving DecidableEq, Repr

/-- A ledger acknowledgement (R333); `bodyOk` says that `BODY_CRC` passes. -/
structure Ack where
  child : Nat
  epoch : Nat
  /-- `none` is all ones: no frame is acknowledged. -/
  ackFrame : Option Nat
  reqs : List AckReq
  bodyOk : Bool
deriving DecidableEq, Repr

/-! ## Series, calendars and cohorts -/

/-- A series descriptor (R167) as written, with 0 where the issuer wrote 0. -/
structure SeriesDesc where
  index : Nat
  kind : Nat
  enable : Bool
  plaza : Bool
  cohort : Bool
  windowLog2 : Nat
  srcA : Nat
  srcB : Nat
  partition : Nat
  shift : Nat
  baseShift : Nat
  levelRun : Nat
  levelK : Nat
  block : Nat
  minDev : Int
  driftLimit : Int
  driftRun : Nat
  weightB : Nat
  ports : Nat
  target : Nat
deriving DecidableEq, Repr

/-- A series entry of a series record (R188). -/
structure SeriesEntry where
  sindex : Nat
  inexact : Bool
  missing : Bool
  sat : Bool
  sstate : Nat
  level : Bool
  drift : Bool
  value : Int
deriving DecidableEq, Repr

/-- A lateness entry (R188): `lkind` 0 present, 1 missed, 2 missing, 3 late after miss, 4 time not valid. -/
structure LateEntry where
  marker : Nat
  lkind : Nat
  cls : Nat
  occ : Nat
  lateness : Int
deriving DecidableEq, Repr

/-- A series record (R188). -/
structure SeriesRecord where
  timeQuality : BitVec 8
  srflags : BitVec 16
  frame : Nat
  period : Nat
  epoch : Nat
  die : Nat
  seq : Nat
  job : Nat
  calCrc : Nat
  series : List SeriesEntry
  late : List LateEntry
deriving DecidableEq, Repr

/-- A log-linear histogram (R177, R179): nonzero buckets ascending, with its 128-bit `SUM`. -/
structure Hist where
  buckets : List (Nat × Nat)
  underN : Nat
  overN : Nat
  n : Nat
  absent : Nat
  min : Int
  max : Int
  sum : Int
deriving DecidableEq, Repr

/-- A histogram record (R181) as it travels between tiers. -/
structure HistRecord where
  timeQuality : BitVec 8
  lateness : Bool
  scope : Nat
  cls : Nat
  job : Nat
  marker : Nat
  key : Nat
  source : Nat
  /-- `FRAME` of the record that carried it (R192). -/
  frame : Nat
  hist : Hist
deriving DecidableEq, Repr

/-- A marker entry of a calendar (R182). -/
structure MarkerEntry where
  mid : Nat
  cls : Nat
  miss : Nat
  offset : Nat
deriving DecidableEq, Repr

/-- A gate section (R337); `checkOk` says that `SEC_CRC`, `TAG`, `VERSION` and the reserved bits pass. -/
structure GateSection where
  port : Nat
  job : Nat
  rate : Nat
  gates : List (Nat × Nat)
  checkOk : Bool
deriving DecidableEq, Repr

/-- A quiet window (R288): offset, length, first and last fence line. -/
structure QuietWin where
  offset : Nat
  len : Nat
  unitFirst : Nat
  unitLast : Nat
deriving DecidableEq, Repr

/-- A calendar image (R182, R183, R288, R337).  The sections are lists so that an image with none or several can be
written; `checksOk` says that every check field of the image passes. -/
structure CalImage where
  job : Nat
  die : Nat
  partition : Nat
  step : Nat
  steps : Nat
  imageCrc : Nat
  checksOk : Bool
  markerSections : List (List MarkerEntry)
  gateSections : List GateSection
  quietSections : List (List QuietWin)
deriving DecidableEq, Repr

/-- A cohort rule (R190). -/
structure CohortRule where
  job : Nat
  rule : Nat
  scope : Nat
  classMask : BitVec 16
  q : Nat
  margin : Nat
  run : Nat
  clearRun : Nat
  minMembers : Nat
deriving DecidableEq, Repr

/-- A threshold notice (R195); `quantile` and `threshold` are Q48.16, `none` for +∞. -/
structure ThresholdNotice where
  notJudged : Bool
  qUnder : Bool
  qOver : Bool
  job : Nat
  marker : Nat
  rule : Nat
  scope : Nat
  occ : Nat
  quantile : Option Nat
  margin : Nat
  n : Nat
  threshold : Option Nat
  absent : Nat
  source : Nat
deriving DecidableEq, Repr

/-! ## Tree ensembles -/

/-- A feature descriptor (R202). -/
structure FeatDesc where
  feature : Nat
  fkind : Nat
  shift : Nat
  missingIfStale : Bool
  missingIfWarm : Bool
  src : Nat
  const : Int
deriving DecidableEq, Repr

/-- A tree directory entry (R203). -/
structure DirEntry where
  root : Nat
  n : Nat
  depth : Nat
deriving DecidableEq, Repr

/-- An ensemble image (R201 to R204): header, feature table, directory and 128-bit nodes; `reservedOk` says that every reserved
field of header and tables, which no other field here holds, is 0. -/
structure TreeImage where
  tag : Nat
  version : Nat
  model : Nat
  alertEn : Bool
  alertAbove : Bool
  partition : Nat
  base : Int
  alertLevel : Int
  scoreEvery : Nat
  maxDepth : Nat
  imageCrc : Nat
  reservedOk : Bool
  features : List FeatDesc
  dir : List DirEntry
  nodes : List (BitVec 128)
deriving DecidableEq, Repr

/-- What a block asks the Forum replicas for: an image, for the home of a tray or a helper, with the range where the block
knows it (R230, R232). -/
structure ImageAsk where
  model : Nat
  imageCrc : Nat
  tray : Nat
  home : Bool
  range : Option (Nat × Nat)
deriving DecidableEq, Repr

/-- A feature record (R219). -/
structure FeatureRecord where
  timeQuality : BitVec 8
  leafLate : Bool
  frame : Nat
  die : Nat
  epoch : Nat
  model : Nat
  imageCrc : Nat
  leafPartial : Int
  leafTrees : Nat
  values : List (Option Int)
deriving DecidableEq, Repr

/-- A score entry (R221); `scflags` [0] LATE [1] MISSING [2] SKIPPED [3] ALERT [4] MODEL_MISMATCH [5] PARTIAL. -/
structure ScoreEntry where
  model : Nat
  imageCrc : Nat
  die : Nat
  firstTree : Nat
  lastTree : Nat
  sframe : Nat
  value : Int
  scflags : BitVec 16
  doneUs : Nat
deriving DecidableEq, Repr

/-- A score record (R221); `replica` is the sending replica, which the packets' header names. -/
structure ScoreRecord where
  timeQuality : BitVec 8
  replica : Nat
  frame : Nat
  source : Nat
  epoch : Nat
  seq : Nat
  scores : List ScoreEntry
deriving DecidableEq, Repr

/-! ## Backscan -/

/-- A predicate (R249). -/
structure Pred where
  pkind : Nat
  op : Nat
  selFirst : Nat
  selLast : Nat
  operand : Int
deriving DecidableEq, Repr

/-- A query descriptor (R247). -/
structure Query where
  qtype : Nat
  logs : BitVec 8
  engines : Nat
  qflags : BitVec 8
  queryId : Nat
  ftFirst : Nat
  ftLast : Nat
  tray : Nat
  lookback : Nat
  dies : Lines
  p0 : Pred
  p1 : Pred
deriving DecidableEq, Repr

/-! ## Digests -/

/-- A collective table entry (R269). -/
structure CollEntry where
  coll : Nat
  ckind : Nat
  checkContrib : Bool
  checkResult : Bool
  scope : Nat
  policy : Nat
  fenceAfter : Nat
  ranks : Nat
  reservedOk : Bool
deriving DecidableEq, Repr

/-- A result entry of a digest record (R273). -/
structure ResultEntry where
  job : Nat
  coll : Nat
  inst : Nat
  nChunk : Nat
  result : Word64
  unchk : Nat
  incomplete : Bool
  stripes : List Word64
deriving DecidableEq, Repr

/-- A digest record (R273). -/
structure DigestRecord where
  timeQuality : BitVec 8
  dgflags : BitVec 16
  frame : Nat
  period : Nat
  epoch : Nat
  die : Nat
  seq : Nat
  chkOk : Nat
  chkBad : Nat
  chkNone : Nat
  results : List ResultEntry
deriving DecidableEq, Repr

/-- A value of a tally (R274, R276). -/
structure TallyValue where
  result : Word64
  count : Nat
  first8 : List Nat
  stripes : List Word64
deriving DecidableEq, Repr

/-- An instance block of a tally record (R276). -/
structure TallyBlock where
  job : Nat
  coll : Nat
  inst : Nat
  short : Bool
  scatter : Nat
  unchkRanks : Nat
  values : List TallyValue
deriving DecidableEq, Repr

/-- A tally record (R276). -/
structure TallyRecord where
  timeQuality : BitVec 8
  frame : Nat
  source : Nat
  epoch : Nat
  seq : Nat
  blocks : List TallyBlock
deriving DecidableEq, Repr

/-- A verdict notice (R278). -/
structure VerdictNotice where
  noMajority : Bool
  job : Nat
  coll : Nat
  inst : Nat
  result : Word64
  nMaj : Nat
  nOther : Nat
  nAbsent : Nat
  source : Nat
  stripes : List Word64
deriving DecidableEq, Repr

/-! ## Test content and firmware -/

/-- A test entry (R285). -/
structure TestEntry where
  testId : Nat
  tkind : Nat
  fenceOnFail : Bool
  failLimit : Nat
  unitFirst : Nat
  unitLast : Nat
  respKib : Nat
  duration : Nat
  interval : Nat
  patOff : Nat
  patLen : Nat
  expect : Word64
deriving DecidableEq, Repr

/-- A signature block (R377).  `pubkeyHash` is the SHA-384 of `PUBKEY`; `ecdsaOk` says whether (`SIG_R`, `SIG_S`) is a
valid ECDSA signature over the bytes R378 names. -/
structure SigBlock where
  keyIndex : Nat
  usage : Nat
  svn : Nat
  pubkeyHash : BitVec 384
  ecdsaOk : Bool
  tagOk : Bool
deriving DecidableEq, Repr

/-- A test package (R284, R285); `reservedOk` says that every reserved field of header and test table is 0, and `patDigests`
are the R265 digests of the patterns under `SIG_KEY`, in test order (R287). -/
structure TestPkg where
  tag : Nat
  version : Nat
  pkgId : Nat
  pkgRev : Nat
  dieType : Nat
  sigLen : Nat
  patBytes : Nat
  sigKey : Nat
  maxDefer : Nat
  tests : List TestEntry
  patDigests : List Word64
  hdrCrc : Nat
  reservedOk : Bool
  sig : SigBlock
deriving DecidableEq, Repr

/-- A firmware image (R376). -/
structure FwImage where
  onLeaf : Bool
  onPlaza : Bool
  fwLevel : Nat
  minBlock : Nat
  imageBytes : Nat
  raiseSvn : Bool
  hdrOk : Bool
  sig : SigBlock
deriving DecidableEq, Repr

/-! ## Placement -/

/-- An adoption, liveness or release message (R147); `crcOk` says that `CRC` passes. -/
structure AdoptMsg where
  pos : Nat
  die : Nat
  parent : Nat
  epoch : Nat
  generation : Nat
  home : Nat
  /-- `none` is all ones. -/
  frameA : Option Nat
  frameB : Nat
  period : Nat
  periodNext : Nat
  retained : Nat
  nextChip : Nat
  /-- Not of the 64 bytes: the replica of the tier role that sends it, as the fabric's own header tells (assumption 4). -/
  rep : Nat
  heard : BitVec 3
  crcOk : Bool
deriving DecidableEq, Repr

/-- An ensemble part entry of a placement table (R138). -/
structure PartEntry where
  model : Nat
  part : Nat
  firstTree : Nat
  lastTree : Nat
  host : Nat
deriving DecidableEq, Repr

/-- One block's part of a placement table (R138); tray fields hold 0xFFFF for none.  `checksOk` says that every block
arrived and both checks pass (R139).  `replica` is the replica of the Forum role that issued it: `ISSUER` has no place for it
(R102), and the block knows it from the sender's address in the fabric's own header (DESIGN CHOICE, assumption 4). -/
structure TablePart where
  replica : Nat
  toLeaf : Bool
  drained : Bool
  noHost : Bool
  generation : Nat
  issuer : Nat
  target : Nat
  issueFt : Nat
  rolePlaza : Bool
  roleQuarter : Bool
  roleForum : Bool
  qreplica : Nat
  freplica : Nat
  quarter : Nat
  standin : Nat
  ceiling : Nat
  qhosts : List Nat
  fhosts : List Nat
  succs : List Nat
  /-- Alternate lists: die, positions in order. -/
  alts : List (Nat × List Nat)
  parts : List PartEntry
  checksOk : Bool
deriving DecidableEq, Repr

/-- What the placement leader knows of a chip when it issues a table (R136, R141, R142, R161, R217): its tray, whether it is
live, the slots of its tray's census, the replicas it hosts (`SOURCE`, replica), the time that its upward gates grant in
hundredths of a percent of a port, the ensembles of its tray (model, the first tree that its home Plaza cannot hold, the last
tree), and its free trees, nodes and lane visits a second. -/
structure ChipInfo where
  tray : Nat
  live : Bool
  slots : List Nat
  hosted : List (Nat × Nat)
  gateTime : Nat
  ensembles : List (Nat × Nat × Nat)
  freeTrees : Nat
  freeNodes : Nat
  freeVisits : Nat
deriving DecidableEq, Repr

/-! ## Packets and other port events -/

/-- A packet header of `UPL` and `DNL` (R331). -/
structure Packet where
  cls : Nat
  first : Bool
  last : Bool
  resend : Bool
  src : Nat
  dst : Nat
  /-- Not of the 48 bytes: the replicas of the tier roles at `SRC` and `DST`, as the fabric's own header tells (assumption 4). -/
  srcRep : Nat
  dstRep : Nat
  cseq : Nat
  epoch : Nat
  rtag : Nat
  nBlk : Nat
  rseq : Nat
  blkFirst : Nat
  blkTotal : Nat
  rlen : Nat
  echoTrace : Nat
  echoDump : Nat
  hdrCrc : Nat
  /-- Wire bytes of the packet, header included (R330). -/
  bytes : Nat
deriving DecidableEq, Repr

/-- A trace packet as a `TRC` front presents it (R306), with the cycle of the front's clock. -/
structure TrcPacket where
  front : Nat
  channel : Nat
  info : Nat
  data : Word64
  priv : Nat
  part : Nat
  cycle : Nat
deriving DecidableEq, Repr

/-- A beat of `TAP` (R261): `words` are the little-endian 64-bit words of the valid bytes. -/
structure TapBeat where
  kind : Nat
  coll : Nat
  inst : Nat
  peer : Nat
  port : Nat
  unit : Nat
  off : Nat
  bytes : Nat
  words : List Word64
  last : Bool
deriving DecidableEq, Repr

/-- The identity of a stream (R263). -/
structure StreamId where
  kind : Nat
  coll : Nat
  inst : Nat
  peer : Nat
  port : Nat
deriving DecidableEq, Repr

/-- The role of a chip that a tier command addresses (R24): the Plaza role, the hosted Quarter replica or the hosted
Forum replica. -/
inductive RoleKind where
  | plaza
  | quarter
  | forum
deriving DecidableEq, Repr

/-- The fuse map (R423), decoded; `crcOk` says that `FUS_CRC` passes (R424). -/
structure FuseMap where
  dieType : Nat
  plaza : Bool
  trcSecure : Bool
  jtgLock : Nat
  ftiMode : Nat
  i3cSa : Nat
  i3cPid : Nat
  xmode : Word32
  xtimeout : Nat
  gatePort : Nat
  gateRate : Nat
  gateSpace : Nat
  gateLen : Nat
  alertRst : Bool
  xreqRst : Word32
  fncPwrOn : Lines
  keyRevoke : BitVec 4
  keyHash : List (BitVec 384)
  idcode : Word32
  crcOk : Bool
deriving DecidableEq, Repr

/-- A fault found in a counter when a snapshot is taken (R73, R74). -/
inductive CounterFault where
  /-- Single-bit error: corrected, moved to a spare (R73). -/
  | single (counter : Nat)
  /-- Uncorrectable error; the source's tally is good (R74). -/
  | double (counter : Nat)
  /-- Uncorrectable error in the counter and in the tally (R74). -/
  | tally (counter : Nat)
deriving DecidableEq, Repr

/-- An instrument of the 1687 network (R427). -/
inductive Instrument where
  | status
  | counts
  | memoryContent (digestRegion : Bool)
deriving DecidableEq, Repr

/-- Why the leader issues a table (R137): `ensemble`, a model was loaded or swapped (R133). -/
inductive IssueCause where
  | liveness
  | drain
  | constraints
  | ensemble
deriving DecidableEq, Repr

/-- A snapshot of one station as the dump unit captures it (R457). -/
structure DumpEntry where
  ekind : Nat
  domain : Nat
  object : Nat
  tkind : Nat
  tdomain : Nat
  tobject : Nat
  tremote : Nat
  ageUs : Nat
  captureFt : Nat
  count : Nat
  head : Nat
deriving DecidableEq, Repr

/-- A dump (R456). -/
structure Dump where
  trigger : Nat
  truncated : Bool
  auto : Bool
  stewardDown : Bool
  fwLevel : Nat
  source : Nat
  epoch : Nat
  reqFt : Nat
  firstFt : Nat
  lastFt : Nat
  nDropped : Nat
  dumpSeq : Nat
  pdSts : Word32
  generation : Nat
  entries : List DumpEntry
deriving DecidableEq, Repr

/-- What a delivered packet carries, so far as the block keeps it as it came: the dump that the packet completes, or coded blocks
(R238, R318, R460). -/
inductive PacketBody where
  | other
  | dump (d : Dump)
  | blocks (bytes : List Byte)
deriving DecidableEq, Repr

/-- The subject of a notice (R366, R396). -/
inductive NoticeSubject where
  | sessionClosed (slot : Nat)
  | watermark (comparator : Nat)
  | score (model die : Nat)
  | buffer (descId : Nat)
  | fault (code subject : Nat)
deriving DecidableEq, Repr

/-- The commands and events of the part, one constructor per row of spec/opcode_table.json, in its order.  A mailbox
command is the Steward's service of one request (R357), with the payload items of 14_command_reference.md as operands.
A timed event names no instant where the state itself says when it falls due. -/
inductive Instr where
  -- Session, 0x01
  | sessionOpen (r : Req) (ring ringN vector : Nat) (noticeEn : Bool)
  | sessionClose (r : Req)
  | sessionInfo (r : Req) (partition : Nat)
  | sessionQuotaSet (r : Req) (partition quota : Nat)
  | sessionIdleSet (r : Req) (idleS : Nat)
  | sessionWindowSet (r : Req) (partition window base len : Nat)
  | partitionRelease (r : Req) (partition : Nat)
  -- Time and frames, 0x02
  | timeStatus (r : Req)
  | timeSetMode (r : Req) (mode : Nat)
  | frameSetPeriod (r : Req) (periodUs e : Nat)
  | frameHalt (r : Req) (halt : Nat)
  -- Counters, gauges and watermarks, 0x03
  | lineSet (r : Req) (line : Nat) (config : Word16)
  | counterBind (r : Req) (counter : Nat) (binding : Word32)
  | counterUnbind (r : Req) (counter : Nat)
  | counterPrescaleSet (r : Req) (counter prescale : Nat)
  | counterRead (r : Req) (first count : Nat)
  | counterStatus (r : Req)
  | gaugeSet (r : Req) (gauge : Nat) (config : Word16)
  | watermarkSet (r : Req) (comparator : Nat) (cflags : BitVec 8) (counter threshold hyst : Nat)
  | watermarkRead (r : Req) (comparator : Nat)
  | gaugeRead (r : Req) (gauge : Nat)
  | snapshotSet (r : Req) (desc : Desc) (stride : Nat)
  -- Ledger, 0x04
  | ledgerStatus (r : Req)
  | ledgerRetainSet (r : Req) (regionKib : Nat) (desc : Desc)
  | ledgerRead (r : Req) (desc : Desc) (frame kind : Nat)
  | ledgerSinkSet (r : Req) (desc : Desc) (select : BitVec 8)
  -- Placement, 0x05
  | placeSetConstraints (r : Req) (seed separation standinMin : Nat) (locDesc nohostDesc : Desc)
      (locations : List Word32) (noHost : List Nat)
  | placeDrain (r : Req) (tray : Nat)
  | placeRestore (r : Req) (tray : Nat)
  | placeStatus (r : Req)
  | placeCensusTransfer (r : Req) (die frame : Nat)
  -- Sketches, drift and conformance, 0x06
  | seriesDefine (r : Req) (d : SeriesDesc)
  | seriesRead (r : Req) (index die : Nat) (desc : Desc)
  | histRead (r : Req) (desc : Desc) (job marker key : Nat) (lateness : Bool) (scope : Nat)
  | confCalLoad (r : Req) (desc : Desc) (image : CalImage)
  | confCalArm (r : Req) (anchor job : Nat)
  | confCohortSet (r : Req) (rule : CohortRule) (remove : Bool)
  | confStatus (r : Req) (desc : Desc) (job : Nat)
  | seriesQuotaSet (r : Req) (partition quota : Nat)
  -- Trees, 0x07
  | treeLoad (r : Req) (desc : Desc) (image : TreeImage)
  | treeArm (r : Req) (model frame : Nat)
  | treeUnload (r : Req) (model : Nat)
  | treeQuotaSet (r : Req) (partition trees nodes : Nat)
  | treeStatus (r : Req) (model : Nat)
  | treeScoreRead (r : Req) (model die : Nat)
  -- History and backscan, 0x08
  | arcadeStatus (r : Req)
  | arcadeHold (r : Req) (logs : BitVec 8) (ftFirst ftLast : Nat)
  | arcadeRelease (r : Req) (holdId : Nat)
  | arcadePortRestore (r : Req) (port : Nat)
  | arcadeLocate (r : Req) (desc : Desc) (tray frameFirst frameLast : Nat)
  | backscanSubmit (r : Req) (queryAddr : Nat) (query : Query) (desc : Desc)
  | backscanCancel (r : Req) (queryId : Nat)
  | backscanStatus (r : Req) (queryId : Nat)
  -- Digests, 0x09
  | digestArm (r : Req) (key job anchor : Nat) (desc : Desc) (n : Nat) (table : List CollEntry)
  | digestStatus (r : Req) (job : Nat)
  | digestVerdictRead (r : Req) (job coll inst : Nat)
  -- Test and fence, 0x0A
  | testPkgLoad (r : Req) (desc patDesc : Desc) (pkg : TestPkg)
  | testPkgUnload (r : Req) (pkgId : Nat)
  | testIdleGrant (r : Req) (unitFirst unitLast start lenMs : Nat)
  | testStatus (r : Req) (pkgId : Nat)
  | fenceSet (r : Req) (line : Nat)
  | fenceRelease (r : Req) (line : Nat)
  | fenceHistoryRead (r : Req) (offset : Nat) (desc : Option Desc)
  | cdsRelease (r : Req) (rkind index : Nat)
  -- Traces and buffers, 0x0B
  | traceSourceSet (r : Req) (source : Nat) (config : Word32)
  | traceGrant (r : Req) (mask : Word64) (levels : BitVec 8) (lenS : Nat)
  | traceRevoke (r : Req) (grantId : Nat)
  | traceFlush (r : Req) (mask : Word64)
  | traceChainSet (r : Req) (chain : Nat) (desc : Desc)
  | bufChainAppend (r : Req) (ckind chain : Nat) (desc : Desc)
  | traceStatus (r : Req) (source : Nat)
  -- Uplink, 0x0C
  | uplShaperSet (r : Req) (cls rate cap quantum : Nat)
  | uplStandingSet (r : Req) (gatePort gateRate gateSpace gateLen kerbMargin : Nat)
  | uplStatus (r : Req) (cls : Nat)
  -- Power and reset, 0x0D
  | pwrPark (r : Req)
  | pwrDomainSet (r : Req) (domain state : Nat)
  | engineReset (r : Req) (domain timeoutUs : Nat)
  | resetRequest (r : Req) (confirm : Nat)
  | pwrStatus (r : Req)
  -- Debug and dump, 0x0E
  | dumpTake (r : Req) (desc : Desc) (dest : BitVec 8) (atFt : Nat)
  | wfgBuild (r : Req) (desc : Desc) (atFt : Nat)
  -- Non-volatile log and firmware, 0x0F
  | nvlogRead (r : Req) (region offset : Nat) (desc : Option Desc)
  | epochReset (r : Req) (confirm : Nat)
  | fwUpdate (r : Req) (desc : Desc) (image : FwImage) (atFt : Nat)
  | fwCommit (r : Req)
  | fwStatus (r : Req)
  -- The host register window
  | pmDoorbell (n priv part : Nat) (value : Word32)
  | pmDoneClear (n priv : Nat) (value : Word32)
  | tmDb (priv part size : Nat) (value : Word64) (session : Nat)
  | ftLoRead (priv : Nat)
  | intStsClear (priv : Nat) (value : Word32)
  | wakeCtlWrite (priv : Nat) (value : Word32)
  | engRstWrite (priv : Nat) (value : Word32)
  | bootDb (priv : Nat) (value : Word32)
  | hrwRegisterWrite (offset priv part size : Nat) (value : Word64) (session : Nat)
  -- The sideband
  | sbiRequest (bytes : List Byte)
  | sbiSelectResponse
  | sbiSelectAlert
  | sbiBootSegment (segment : List Byte)
  | sbiRead
  | entdaa (addr : Nat)
  | setdasa (addr : Nat)
  | rstdaa
  | enec (events : BitVec 8)
  | disec (events : BitVec 8)
  | getpid
  | getbcr
  | getdcr
  | getstatus
  | getmwl
  | getmrl
  -- JTAG and IEEE 1687
  | extest
  | idcode
  | samplePreload
  | clamp
  | highz
  | lqIjtag
  | bypass (code : Nat)
  | ijtagInstrumentAccess (domain : Nat) (instrument : Instrument)
  | ijtagMemorySelftest (domain : Nat)
  | ijtagDumpTrigger
  | ijtagDebugReset
  -- Power and reset events
  | powerOn (fuse : FuseMap) (straps : Nat)
  | powerLoss
  | pwrOkCoreRise
  | brownOut
  | pinReset (lowNs : Nat)
  | pinResetRelease
  | samplerRelease
  | bootImageRun (image : FwImage)
  | wake
  | wakeComplete
  | parkEntryComplete
  | watchdogTimeout
  | watchdogPrewarning
  | lockup
  | clockFailure (group : Nat)
  | nvlogWriteComplete
  -- Time
  | ftiTimeWord (edges : Nat) (word : BitVec 72)
  | ftiGoodWordTimeout
  | holdoverTimeout
  | ftiRefLoss
  | frameBoundary (pace : List (Nat × Nat)) (stopped : Word32)
  | periodChangeEffect
  -- Sampler
  | evtOccurrence (conc : Nat) (levels : Lines)
  | drainWord (line : Nat) (half : Bool) (count : Nat) (parityOk : Bool)
  | sealWord (conc : Nat)
  | frameSnapshotComplete (faults : List CounterFault)
  | scoreComplete (model die : Nat) (nodeError : Bool)
  | scoreMissingTimeout (model die frame : Nat)
  | gaugeUpdate (conc idx value : Nat)
  | markerStrobe (mid : Nat)
  | strobeMatch
  | markerDeadline (mid : Nat)
  | calendarAnchor
  | digestKeyAnchor
  -- Trace
  | tracePacket (p : TrcPacket)
  | traceServe (front : Nat)
  | traceBlockAgeFlush (source : Nat)
  | traceGrantExpiry (grantId : Nat)
  -- Digests
  | tapBeat (b : TapBeat)
  | tapChunkDigest (stream : StreamId)
  | digestListTimeout (stream : StreamId)
  | unitMaskExpiry (job coll inst : Nat)
  | verdictNoticeLeaf (n : VerdictNotice)
  -- Uplink
  | gateOpen
  | packetInject
  | kerbReached
  | gateClose
  | bypSend
  | dnlPacket (p : Packet) (congested stagingFull : Bool) (body : PacketBody)
  -- Tiers
  | ledgerRecordReceive (role : RoleKind) (rec : Record) (missing : List Nat)
      (lostCounters : List CounterEntry) (lostGauges : List GaugeEntry)
  | tierCutoff (role : RoleKind) (frame period : Nat)
  | repairWindowEnd (role : RoleKind) (frame period : Nat)
  | settleHorizon (role : RoleKind) (frame period : Nat)
  | ledgerAck (a : Ack) (sender : Nat)
  | seriesRecord (role : RoleKind) (rec : SeriesRecord) (missing : List Nat)
  | histogramRecord (role : RoleKind) (h : HistRecord)
  | occurrenceCloseTimeout (role : RoleKind) (job marker occ : Nat)
  | thresholdNotice (n : ThresholdNotice)
  | thresholdHoldExpiry (job marker occ : Nat)
  | featureRecord (rec : FeatureRecord)
  | scoreRecord (role : RoleKind) (rec : ScoreRecord)
  | digestRecord (role : RoleKind) (rec : DigestRecord)
  | tallyRecord (role : RoleKind) (rec : TallyRecord)
  | verdictNoticePlaza (n : VerdictNotice)
  | resultHoldExpiry (job coll inst : Nat)
  | faultReportReceive (role : RoleKind) (rep : Report)
  | stormEntryReceive (role : RoleKind) (e : StormEntry)
  -- Placement
  | placementTablePart (p : TablePart)
  | placementTableIssue (cause : IssueCause) (chips : List ChipInfo)
  | tableResend
  | adoptReq (m : AdoptMsg)
  | adoptOffer (m : AdoptMsg)
  | adoptConfirm (m : AdoptMsg)
  | adoptAck (m : AdoptMsg)
  | adoptRefuse (m : AdoptMsg)
  | adoptTryTimeout
  | orphanRetry
  | release (m : AdoptMsg)
  | keepalive (m : AdoptMsg)
  | beacon (m : AdoptMsg)
  | keepaliveDue (peer : Nat)
  | linkSilence (peer : Nat)
  | forumSilence
  | livenessHoldComplete (tray : Nat)
  | imageRequest (ask : ImageAsk) (requester : Nat)
  | ensembleRange (image : TreeImage) (firstTree lastTree tray : Nat) (home : Bool) (activeFrom : Option Nat)
  -- Relay, sessions, notices and buffers
  | relayedCommand (cls partition tag cmd : Nat) (scope : Scope) (parent : Nat) (attachment : List Byte)
  | relayCompletion (tag cmd child nOk nFail nNoReply firstStatus : Nat) (first8 : List Nat)
  | relayTimeout (tag cmd : Nat)
  | sessionIdleTimeout (slot : Nat)
  | noticeDeliver (subject : NoticeSubject)
  | responseRingResume (slot cons : Nat)
  | bufResponse (id : Nat) (err : Bool) (next : Option Desc)
  | bufTimeout (id : Nat)
  -- Memory ports and the Arcade
  | memResponse (port tag : Nat) (err : Bool)
  | memOpTimeout (port tag : Nat)
  | memLinkLoss (port : Nat)
  | segmentSealTimeout (log : Nat)
  | arcadeHoldExpiry (holdId : Nat)
  | backscanStart
  | backscanComplete (queryId : Nat)
  | backscanTimeout (queryId : Nat)
  -- In-field test
  | quietWindowOpen (patDigest : Word64)
  | idleGrantStart
  | idleGrantEnd
  | fncTestDone (digest : Word64)
  | fncTestErr
  | testAbortTimeout
  | testOverdue (pkgId testId unit : Nat)
  | blockResourceTest (pkgId testId unit : Nat) (paceOk : Bool) (patDigest digest : Word64)
  | resourceFault (rkind index : Nat)
  -- Engine reset, Crossings, hangs
  | quiesceAck (domain : Nat)
  | quiesceTimeout (domain : Nat)
  | engineRelease (domain : Nat)
  | crossingClockStart (group : Nat)
  | dravaTimeout (group : Nat)
  | hangDeclared (domain object : Nat)
  | dumpCapture (trigger : Nat) (entries : List DumpEntry)
  -- Firmware restarts and late events
  | fwRestart
  | fwTrialTimeout
  | dbgCtlExpiry
  | softwareReset
  | domainSettle (domain : Nat)
  | testLogicReset
  | pwrOkCoreFallParked
deriving DecidableEq, Repr

end Sys2Proof
end

