-- ==== Sys2Proof/Decode.lean ====
section
/-!
DEFINITION. The command that a word spells.  No row of spec/opcode_table.json gives bits: the commands are requests, register
accesses, messages and events, so no word spells one.
-/

namespace Sys2Proof

/-- The command spelt by `nbits` bits of value `w`: none, since the table gives no row any bits. -/
def decodeTableWord (nbits w : Nat) : Option Instr :=
  match nbits, w with
  | _, _ => none

end Sys2Proof
end

