-- ==== Sys2Proof/Config.lean ====
section
/-!
DEFINITION. What the block's design fixes (levels, sizes, status codes) and the values the manual leaves open.  An open
value is an opaque constant: nothing in the model can see what it is, so a claim holds whatever it is.
-/

namespace Sys2Proof

/-! ## Free values -/

/-- A fresh value for each draw from `State.free`: whatever the manual leaves undefined at that moment. -/
opaque Config.fresh : Nat → Nat

/-- What the reserved bits of a register, and a write-only register, read: by offset and by `State.free` (R11, R413). -/
opaque Config.reservedRead : Nat → Nat → Nat

/-- Whether a non-volatile write pulse that a power loss interrupts leaves the new record (R52, R443). -/
opaque Config.pulseSurvives : Nat → Bool

/-- `BCR` of the I3C target: the manual gives no value (R383). -/
opaque Config.bcr : Nat

/-- `DCR` of the I3C target: the manual gives no value (R383). -/
opaque Config.dcr : Nat

/-- The `GETSTATUS` word, by draw: the manual gives no content (R383). -/
opaque Config.getStatus : Nat → Nat

/-- The 4-bit domain code of a Square bank group above domain 15 in a subject key (R126, R303). -/
opaque Config.domainCode : Nat → Nat

/-- The fault code of a watermark alert on `BYP`, which the manual does not number (R80). -/
opaque Config.watermarkCode : Nat

/-- The subject key of a watermark alert on `BYP`, by comparator, which the manual does not give (R80). -/
opaque Config.watermarkSubject : Nat → Nat

/-- `RTAG` of a packet of trace blocks, which the manual does not give (R331). -/
opaque Config.traceRtag : Nat

/-- The fence line of the memory controller of a `MEM` port on the Plaza chip: the integrator's (R256, R296). -/
opaque Config.memFenceLine : Nat → Nat

/-- Memory operations of the ingest allocation (R237). -/
def Config.ingestOps : Nat := 8192

/-- Memory operations of the allocation for directory, relocation and Steward (R237). -/
def Config.directoryOps : Nat := 4096

/-- Memory operations of each backscan engine (R237). -/
def Config.engineOps : Nat := 1664

/-- Bytes of the Plaza's Arcade ingest staging, which the manual does not give (R256). -/
opaque Config.ingestStaging : Nat

/-- The fault code of a replica dispute, which the manual does not number (R123). -/
opaque Config.disputeCode : Nat

/-- The fault code of a parent's silence, which the manual does not number (R154). -/
opaque Config.silenceCode : Nat

/-- The bytes of seed, role, replica and tray of which R143 takes the CRC-32C, in a layout that the manual does not give. -/
opaque Config.rankBytes : Nat → Nat → Nat → Nat → List Byte

/-- The index of each partition-0 counter of the block's own that the ledger carries, which the manual does not give (R128,
R189, R335, R350). -/
opaque Config.ownIndex : Nat → Nat

/-- The partition of a job as a Plaza holds it from the calendar arms that pass through it, which carry none (R252). -/
opaque Config.jobPartition : Nat → Nat

/-! ## Levels and limits -/

/-- Block level 2.1; R367, R413. -/
def Config.blockLevel : Nat := 0x0201

/-- Outstanding `BUF` requests: 256 at a Leaf, 1,024 at a Plaza; R406. -/
def Config.bufLimit (plaza : Bool) : Nat := if plaza then 1024 else 256

/-- Largest firmware image in bytes; R356. -/
def Config.imageLimit (plaza : Bool) : Nat := if plaza then 896 * 1024 else 224 * 1024

/-- Bypass messages a block sends in one frame; R336. -/
def Config.bypLimit (plaza : Bool) : Nat := if plaza then 1024 else 64

/-- Entries of a merge table; R129. -/
def Config.mergeEntries : Nat := 4096

/-- Entries of the reply table; R374. -/
def Config.replyEntries : Nat := 4096

/-! ## Status codes (R370) -/

def Config.ok : Nat := 0x0000
def Config.accepted : Nat := 0x0001
def Config.unsupported : Nat := 0x0100
def Config.badHeader : Nat := 0x0101
def Config.badParam : Nat := 0x0102
def Config.noSession : Nat := 0x0103
def Config.isolation : Nat := 0x0200
def Config.notFound : Nat := 0x0201
def Config.busy : Nat := 0x0300
def Config.noSpace : Nat := 0x0301
def Config.tooSoon : Nat := 0x0302
def Config.wrongState : Nat := 0x0303
def Config.invalidImage : Nat := 0x0400
def Config.signature : Nat := 0x0401
def Config.rollback : Nat := 0x0402
def Config.bufferFault : Nat := 0x0500
def Config.noReply : Nat := 0x0501
def Config.unavailable : Nat := 0x0600
def Config.aborted : Nat := 0x0700

end Sys2Proof
end

