-- ==== Sys2Proof/Machine/State.lean ====
section
/-!
DEFINITION. The state of one Leique block, Leaf or Plaza, as plain data, with its value after reset.  One structure per
subsystem, in the order of the manual's chapters; each field's docstring says its width and the rule that names it.
Arrays indexed by a number are sparse tables (`Tab`): ascending keys, no entry equal to the power-on value of the array.
-/

namespace Sys2Proof.Machine

/-- A sparse array: index and value, indices rising, no entry equal to the array's default. -/
abbrev Tab (α : Type) := List (Nat × α)

/-! ## PD00: time, grid, non-volatile log, sideband target, reset controller -/

/-- The states of the time front (R31). -/
inductive TfState where
  | unlocked
  | locked
  | holdover
  | lost
deriving DecidableEq, Repr

/-- The time front (R26 to R33, R478). -/
structure TimeFront where
  /-- State; R31. -/
  state : TfState
  /-- 2 bits, 0b01 counter or 0b10 disciplined; R28, R30, R423. -/
  mode : Nat
  /-- 64 bits, ns: the count; R26, R28. -/
  ft : Nat
  /-- Sub-ns part of the count in units of 0.002 ns, below 500; R28. -/
  frac : Nat
  /-- Reference-clock time since power-on, ns; R31. -/
  refNs : Nat
  /-- Supervisory-oscillator time since power-on, ns; R31, R439, R478. -/
  osc : Nat
  /-- The reference clock runs; R33. -/
  refOn : Bool
  /-- Backward correction still to be held, ns; R28. -/
  hold : Nat
  /-- Disciplined difference still to be slewed, in 0.002 ns; R28. -/
  slew : Int
  /-- Consecutive sync mismatches; R29. -/
  mismatchRun : Nat
  /-- First good word of a lock attempt, with its reference time; R31. -/
  candidate : Option (Nat × Nat)
  /-- Reference time of the last good word; R31. -/
  goodRef : Nat
  /-- ft of the last good word; R32. -/
  goodFt : Nat
  /-- Oscillator time at which the present state was entered; R31. -/
  since : Nat
  /-- ns counted as ft advances while ft is valid and on the oscillator otherwise: the clock of R478's other durations. -/
  timer : Nat
  /-- ns counted as ft advances while ft is valid, stopped otherwise: the clock of R478's first list. -/
  live : Nat
  /-- The front has been Locked in this epoch and is outside it now; R32. -/
  leftLocked : Bool
  /-- 64 bits: ns spent outside Locked in this epoch; 0x0201. -/
  nsOutside : Nat
  /-- 32 bits: discarded words; R27. -/
  crcDiscards : Nat
  /-- 32 bits: sync mismatches; R29. -/
  mismatches : Nat
deriving DecidableEq, Repr

/-- A frame that is open: its identity (R39) and the quality flags gathered so far (R43). -/
structure OpenFrame where
  /-- 64 bits; R38. -/
  frame : Nat
  /-- 20 bits, µs; R38. -/
  period : Nat
  /-- [7:0] of R43 gathered so far, without `MODE`. -/
  quality : BitVec 8
deriving DecidableEq, Repr

/-- The frame grid (R38 to R47, R52). -/
structure Grid where
  /-- 20 bits, µs; R47. -/
  period : Nat
  /-- Pending change: period and E; R44. -/
  pending : Option (Nat × Nat)
  /-- A change of the parent's that waits behind it; R47. -/
  next : Option (Nat × Nat)
  /-- The open frame; R40. -/
  frame : Option OpenFrame
  /-- The frame closed last: frame, period, quality, closing ft; R41, R72. -/
  closed : Option (Nat × Nat × BitVec 8 × Nat)
  /-- The closed frame still waits for its snapshot; R72. -/
  snapshotDue : Bool
  /-- A halt takes effect at the next boundary; 0x0204. -/
  haltPending : Bool
  /-- The grid is halted; 0x0204. -/
  halted : Bool
  /-- Missing range to report in the next record: first frame, count; R52, R102. -/
  missFirst : Nat
  missCount : Nat
  /-- The span in which no frame is formed: its first frame, the ft from which frames of the present period are missing,
  and the frames already missing under earlier periods; R52. -/
  gapFrom : Option (Nat × Nat × Nat)
  /-- The next record carries `EPOCHSTART`; R43. -/
  epochStartDue : Bool
  /-- The next frame carries `NEWPERIOD`; R45. -/
  newPeriodDue : Bool
  /-- The next frame carries `CARRY`; R62. -/
  carryDue : Bool
deriving DecidableEq, Repr

/-- A record of the fence history (R299). -/
structure HistoryRec where
  hkind : Nat
  hsource : Nat
  index : Nat
  epoch : Nat
  ft : Nat
  code : Nat
  rkind : Nat
  refA : Nat
  refB : Nat
deriving DecidableEq, Repr

/-- One record waiting for its write pulse (R443). -/
inductive NvRec where
  | epoch (n : Nat)
  | history (r : HistoryRec)
  | grant (ft mask levels lenS : Nat)
  | grantEnd (ft grantId : Nat)
  | svn (usage value : Nat)
  | event (ft code : Nat)
  | retired (counter : Nat)
deriving DecidableEq, Repr

/-- The non-volatile log (R48, R298 to R300, R311, R379, R443). -/
structure NvLog where
  /-- 32 bits: the stored epoch number; R48. -/
  epoch : Nat
  /-- At most 8,192 records; R300. -/
  history : List HistoryRec
  /-- Records removed by compaction; R300. -/
  removed : Nat
  /-- Records not written for want of room; R300. -/
  unwritten : Nat
  /-- Retired counters' map; R75, R301. -/
  retired : List Nat
  /-- Grants and their ends: ft, mask or id, levels, length; R311. -/
  grants : List (Nat × Nat × Nat × Nat)
  /-- Minimum SVN for firmware; R379. -/
  svnFirmware : Nat
  /-- Minimum SVN for test content; R379. -/
  svnTest : Nat
  /-- Firmware and epoch events: ft, code; 0x0F02, R381. -/
  events : List (Nat × Nat)
  /-- Records that wait, in the order in which they fell due; R443. -/
  queue : List NvRec
  /-- A write pulse is in progress, for the head of the queue; R443. -/
  pulse : Bool
deriving DecidableEq, Repr

/-- One item of a payload: offset, width in bits, value (R388). -/
structure Fld where
  off : Nat
  width : Nat
  val : Nat
deriving DecidableEq, Repr

/-- A response or a notice (R364 to R366). -/
structure Msg where
  cmd : Nat
  tag : Nat
  status : Nat
  final : Bool
  notice : Bool
  session : Nat
  payload : List Fld
  /-- Payload bytes carried whole, such as 112 bytes of a history image. -/
  bytes : List Byte
deriving DecidableEq, Repr

/-- The I3C sideband target (R383 to R385, R408). -/
structure SbiTarget where
  /-- 7-bit dynamic address; R383. -/
  addr : Option Nat
  /-- The one hot-join has been raised; R383. -/
  hotJoined : Bool
  /-- Target events enabled by `ENEC`; R383. -/
  events : BitVec 8
  /-- The alert queue is selected for the next read; R384. -/
  alertSelected : Bool
  /-- At most 32 responses; R384. -/
  responses : List Msg
  /-- At most 32 alerts; R384. -/
  alerts : List Report
  /-- Alerts merged because the queue was full; R384. -/
  merged : Nat
  /-- The interrupt of epoch exhaustion waits for an address and for interrupts to be enabled; R49, R385. -/
  exhaustDue : Bool
  /-- 128-byte requests written and not yet taken by the Steward; R384. -/
  requests : List (List Byte)
  /-- Bytes of a boot image received in segments; R380, R384. -/
  bootBytes : List Byte
deriving DecidableEq, Repr

/-- The reset controller (R439 to R443). -/
structure ResetCtl where
  /-- Code of the last source applied; R439. -/
  last : Nat
  /-- Eight counts by source, index code − 1; R439. -/
  counts : Tab Nat
  /-- Sources held behind a write pulse; R443. -/
  pending : List Nat
  /-- Sources being applied; R442. -/
  applied : List Nat
  /-- `RST_ACT`; R410. -/
  active : Bool
  /-- `RST_N` is low; R442. -/
  pinLow : Bool
  /-- ft at which the software reset falls due; 0x0D04. -/
  softwareDue : Option Nat
  /-- `PWR_OK_AON`; R410. -/
  aonOk : Bool
  /-- `PWR_OK_CORE`; R410. -/
  coreOk : Bool
  /-- Parks in this epoch; 0x0D05. -/
  parks : Nat
deriving DecidableEq, Repr

/-! ## HRW -/

/-- One PM mailbox slot pair (R360, R413). -/
structure PmSlot where
  /-- `PMn_REQ`, 128 bytes; sparse, default 0. -/
  req : Tab Byte
  /-- `PMn_RSP`; R360. -/
  rsp : Option Msg
  /-- `PMn_STS` [0]. -/
  busy : Bool
  /-- `PMn_STS` [1]. -/
  done : Bool
  /-- At most 32 further responses; R360. -/
  held : List Msg
deriving DecidableEq, Repr

/-- The register file of the host register window (R413). -/
structure Hrw where
  /-- `FT_HI`. -/
  ftHi : Nat
  /-- `INT_STS`. -/
  intSts : Word32
  /-- `INT_EN`. -/
  intEn : Word32
  /-- `INT_VEC_BLK`. -/
  vecBlk : Word32
  /-- `INT_VEC_PM0` to `INT_VEC_PM3`; default 0x0000_FFFF. -/
  vecPm : Tab Word32
  /-- `ENG_RST`. -/
  engRst : Word32
  /-- `ENG_QTO`. -/
  engQto : Word32
  /-- `XING_TMO`, saturating. -/
  xingTmo : Nat
  /-- `HRW_DISCARDS`, saturating. -/
  discards : Nat
  /-- `TM_DB_DROPS`, saturating. -/
  tmDbDrops : Nat
  /-- `DBG_CTL.OPEN`, with the timer instant at which it clears itself. -/
  dbgOpen : Option Nat
  /-- `FW_PTR_LO`, `FW_PTR_HI`. -/
  fwPtrLo : Word32
  fwPtrHi : Word32
  /-- The four PM slots; default an idle slot. -/
  pm : Tab PmSlot
deriving DecidableEq, Repr

/-! ## The Steward -/

/-- A tenant session slot (R367, R368). -/
structure Slot where
  isOpen : Bool
  partition : Nat
  /-- 10 bits. -/
  generation : Nat
  ring : Nat
  ringN : Nat
  vector : Nat
  /-- `PROD`, `CONS` of the ring as the Steward holds them; R369. -/
  prod : Nat
  cons : Nat
  /-- Responses held because the ring is full; R368. -/
  held : List Msg
  /-- Timer instant of the latest request; R368. -/
  lastUse : Nat
deriving DecidableEq, Repr

/-- Work of a Deferred command that has been accepted and not completed (R365, R389). -/
inductive Work where
  | partitionRelease (partition : Nat)
  | output (opId : Nat)
  | constraints
  | drain (tray : Nat)
  | restore (tray : Nat)
  | calLoad
  | treeLoad (model : Nat)
  | query (queryId : Nat)
  | digestArm (job : Nat)
  | pkgLoad (pkgId : Nat)
  | domainSet (domain : Nat) (on : Bool)
  | engineReset (domain : Nat)
  | dump (reqFt : Nat)
  | fwUpdate
  | relay
deriving DecidableEq, Repr

/-- A request that is accepted and in progress (R365, R386). -/
structure Deferred where
  issuer : Issuer
  tag : Nat
  cmd : Nat
  work : Work
  /-- Its session has closed, so that its completion is discarded and counted; R386. -/
  dead : Bool
deriving DecidableEq, Repr

/-- What one child answered to a relayed command (R375, R393). -/
structure RelayAnswer where
  child : Nat
  nOk : Nat
  nFail : Nat
  nNoReply : Nat
  firstStatus : Nat
  first8 : List Nat
deriving DecidableEq, Repr

/-- An entry of the reply table (R165, R374, R375). -/
structure ReplyEntry where
  /-- Class and partition stamped at the first block. -/
  cls : Nat
  partition : Nat
  tag : Nat
  cmd : Nat
  /-- Parents that sent a copy and wait for the completion. -/
  askers : List Nat
  /-- Issuer to answer, at the first block. -/
  issuer : Option Issuer
  /-- The block's own part is in scope and not yet answered. -/
  ownDue : Bool
  /-- The Steward has taken the request for the own part from the relay queue; R363. -/
  taken : Bool
  /-- Status of the own part once answered; `none` when it has none or is still due. -/
  own : Option Nat
  /-- Children not yet heard. -/
  waiting : List Nat
  /-- Children for which the table had no room; they count as `BUSY`. -/
  full : List Nat
  /-- Children that stayed silent to the end of the wait; they count as `NO_REPLY`. -/
  silent : List Nat
  answers : List RelayAnswer
  /-- Timer instant at which the wait ends. -/
  deadline : Nat
  done : Bool
deriving DecidableEq, Repr

/-- A pending notice (R366). -/
structure Notice where
  subject : NoticeSubject
  partition : Nat
  cmd : Nat
  payload : List Fld
  merged : Nat
deriving DecidableEq, Repr

/-- An entry of the doorbell queue (R361). -/
structure Doorbell where
  /-- Stamped partition. -/
  partition : Nat
  /-- What was written: [1:0] `DBKIND`, [63:6] the request's address. -/
  value : Word64
  /-- `SESSION` of the request at that address; R363, R364. -/
  session : Nat
deriving DecidableEq, Repr

/-- The Square regions of a Leaf, in the order of R16's table. -/
inductive RegionName where
  | steward
  | dumps
  | calendars
  | packages
  | snapshots
  | digests
  | markers
  | features
  | series
  | nodes
  | retention
  | staging
  | queues
deriving DecidableEq, Repr

/-- A Square region as the Steward has placed it (R16, R17). -/
structure Region where
  name : RegionName
  /-- Its size, KiB. -/
  kib : Nat
  /-- The size it has when no bank group is out, KiB; R16, R302, 0x0402. -/
  want : Nat
  /-- The domain of the one engine that writes it; `none` while the Steward holds it; R17. -/
  writer : Option Nat
deriving DecidableEq, Repr

/-- What a Plaza's Steward has counted of its own chip's events (R13, 0x0306). -/
structure ChipCounts where
  bound : Nat
  retired : Nat
  spares : Nat
  fenced : Nat
  repairs : Nat
  invalid : Nat
deriving DecidableEq, Repr

/-- The Steward's working data (R356 to R382). -/
structure Steward where
  /-- Running image; R380. -/
  running : Option FwImage
  /-- Committed image; R380, R381. -/
  committed : Option FwImage
  /-- Image staged by `FW_UPDATE`, with its ft; R381. -/
  staged : Option (FwImage × Nat)
  /-- Running in trial, with the timer instant at which the trial ends; R381. -/
  trialEnd : Option Nat
  /-- Reverts; 0x0F05. -/
  reverts : Nat
  /-- The firmware serves mailboxes; R438. -/
  serving : Bool
  /-- PM mailboxes with an open session, and those with notices enabled; R367. -/
  pmOpen : List Nat
  pmNotice : List Nat
  /-- The sideband session is open; R367. -/
  sbiOpen : Bool
  /-- 64 tenant slots; R368. -/
  slots : Tab Slot
  /-- Quotas by partition, default 1; R368. -/
  quotas : Tab Nat
  /-- Doorbell drops by partition; R361. -/
  dbDrops : Tab Nat
  /-- Isolation faults by partition; 0x0103. -/
  isolation : Tab Nat
  /-- Idle limit, s, default 60; R368. -/
  idleS : Nat
  /-- Windows by partition × 4 + window: base, length; R371. -/
  windows : Tab (Nat × Nat)
  /-- 256-entry doorbell queue; R361. -/
  doorbells : List Doorbell
  /-- Place of the round: the source at which the Steward looks next, 0 to 70; R363. -/
  place : Nat
  /-- Accepted, uncompleted requests; R365. -/
  deferred : List Deferred
  /-- 4,096 entries; R165. -/
  replies : List ReplyEntry
  /-- Relay completions that arrived late; R375. -/
  lateCompletions : Nat
  /-- Completions discarded because their session closed; R386. -/
  deadCompletions : Nat
  /-- Pending notices; R366. -/
  notices : List Notice
  /-- Oscillator time of the latest service; R439. -/
  lastService : Nat
  /-- Frames for which a domain raises no further pace alert, and the alerts suppressed; R23. -/
  paceAlerts : Tab Nat
  paceSuppressed : Nat
  /-- Partitions whose release waits for the final snapshot; R90. -/
  releasing : List Nat
  /-- The Square regions of a Leaf, empty before they are placed; R16. -/
  regions : List Region
  /-- A Plaza's counts of its own chip; R13. -/
  chip : ChipCounts
deriving DecidableEq, Repr

/-! ## Power and Crossings -/

/-- Why an engine quiesces (R433, R444): for its reset, for its switch-off, or on its regions, so that the Steward can move
those that lie in a bank group (R17, R447). -/
inductive QuiesceFor where
  | reset
  | off
  | move (group : Nat)
deriving DecidableEq, Repr

/-- Power domains, Parked and Crossings (R13, R418 to R421, R429 to R436, R444). -/
structure Power where
  /-- `PD_STS` [29:0]; R413. -/
  on : Word32
  /-- `PD_RST` [29:0]; R413. -/
  inReset : Word32
  /-- Parked; `BLK_STS` [4]. -/
  parked : Bool
  /-- A park has been commanded and waits for the boundary; R434. -/
  parkPending : Bool
  /-- Entry in progress, with its boundary; R434. -/
  parking : Option Nat
  /-- A wake came during entry; R447. -/
  wakeAfterEntry : Bool
  /-- A wake has been asked for and waits for `PWR_OK_CORE`; R436. -/
  wakeAsked : Bool
  /-- The wake sequence runs, from this oscillator instant; R436. -/
  waking : Option Nat
  /-- Engines quiescing: domain, purpose, timer deadline; R433, R444. -/
  quiescing : List (Nat × QuiesceFor × Nat)
  /-- Engines whose logic has been reset and that wait for release, with whether they quiesced; R444. -/
  releasing : List (Nat × Bool)
  /-- Stations isolated; R17. -/
  isolated : List Nat
  /-- Domains switching, with the target state; R433. -/
  settling : List (Nat × Bool)
  /-- Absent responses counted against each domain; R22. -/
  absent : Tab Nat
  /-- Requester and destination domains that have met with an absent response since the destination was last reported up: no
  retry; R22. -/
  noRetry : List (Nat × Nat)
  /-- Bank groups whose regions are being moved, and whether the group is then switched off; R17, R433. -/
  moving : List (Nat × Bool)
  /-- `WAKE_REQ[31:0]`; R410. -/
  wakeReq : Word32
  /-- `XING_STS`; R413. -/
  xingWait : Word32
  /-- Groups under Drava rules after a clock failure; R441. -/
  dravaForced : Word32
  /-- Resources of the block in the Cul-de-sac: kind, index; R301. -/
  culDeSac : List (Nat × Nat)
deriving DecidableEq, Repr

/-! ## Sampler -/

/-- A configuration change that waits for a frame boundary (R67). -/
inductive SamplerChange where
  | line (line : Nat) (config : Word16)
  | bind (counter : Nat) (binding : Word32)
  | unbind (counter : Nat)
  | prescale (counter : Nat) (k : Nat)
  | gauge (gauge : Nat) (config : Word16)
  | snapshot (partition : Nat) (desc : Option Desc) (stride : Nat)
deriving DecidableEq, Repr

/-- A concentrator (R53, R59 to R63, R76). -/
structure Conc where
  /-- The current half; R59. -/
  half : Bool
  /-- Levels at the last edge; R54. -/
  levels : Lines
  /-- The front has switched and owes this frame's seal; R60. -/
  sealDue : Bool
  /-- The seal of the closed frame has been acknowledged; R71. -/
  sealed : Bool
  /-- Boundaries have passed unswitched; R62. -/
  heldBack : Bool
  /-- Frames of parity errors, the latest 16; R76. -/
  parity : List Nat
  /-- Fenced; R76. -/
  fenced : Bool
  /-- Its seal timed out (R420): later frames close without waiting. -/
  skipSeal : Bool
  /-- The seal it owes names a frame already closed; R420. -/
  late : Bool
  /-- The line, of its 256, at which the rotation of the current half goes on; R60. -/
  turn : Nat
deriving DecidableEq, Repr

/-- A counter (R66, R70, R71). -/
structure Counter where
  /-- Binding word; R66. -/
  binding : Word32
  /-- 64 bits. -/
  value : Nat
  /-- Prescaler residue; R70. -/
  residue : Nat
  /-- Source increments of the open frame. -/
  inc : Nat
  /-- Increments copied at the seal; R71. -/
  snapInc : Option Nat
  /-- Value at the last closed frame; 0x0305. -/
  closedValue : Nat
  /-- Entry flags of the last closed frame, and `FIRST` due; R93. -/
  flags : BitVec 5
  firstDue : Bool
  /-- Marked `INVALID` for good; R75. -/
  dead : Bool
  /-- Its storage was cleared with PD02: `UNOBSERVED` until it is bound again; R431. -/
  gone : Bool
  /-- It has been bound since its storage was last cleared, so that its value can be read; R68. -/
  known : Bool
deriving DecidableEq, Repr

/-- A gauge (R77, R78). -/
structure Gauge where
  config : Word16
  value : Nat
  /-- Minimum and maximum of the frame's updates. -/
  min : Nat
  max : Nat
  updated : Bool
  /-- Latest sample: frame, value, stale; 0x030A. -/
  sample : Nat × Nat × Bool
  /-- Configuration under which that sample was taken; R79. -/
  sampled : Word16
deriving DecidableEq, Repr

/-- A comparator's latch (R84). -/
structure Latch where
  firstFt : Nat
  lastFt : Nat
  count : Nat
  extreme : Nat
  sat : Bool
deriving DecidableEq, Repr

/-- A watermark comparator (R80 to R87). -/
structure Cmp where
  enable : Bool
  srcCounter : Bool
  counter : Nat
  down : Bool
  threshold : Nat
  hyst : Nat
  notice : Nat
  /-- `none` before the first evaluation; R83. -/
  armed : Option Bool
  /-- `none` when empty; R84. -/
  latch : Option Latch
  /-- Crossing tally of the frame; R87. -/
  tally : Nat
deriving DecidableEq, Repr

/-- A partition's snapshot stream (R91 to R93, R477). -/
structure SnapBuf where
  stride : Nat
  seq : Nat
  overruns : Nat
  chain : Nat
deriving DecidableEq, Repr

/-- The Sampler (chapter 3). -/
structure Sampler where
  /-- Line configurations, 4,096 × 16 bits, default 0; R56. -/
  lines : Tab Word16
  /-- Halves A and B of each line, 40 bits each, default 0; R59.  Key line × 2 + half. -/
  acc : Tab Nat
  /-- 16 concentrators; R53. -/
  concs : Tab Conc
  /-- 32,768 counters; R66. -/
  counters : Tab Counter
  /-- Changes with the frame they take effect in; R67. -/
  pending : List (Nat × SamplerChange)
  /-- Spares used per bank, of 16; R73. -/
  sparesUsed : Tab Nat
  /-- Retired indices; R75. -/
  retired : List Nat
  /-- Repairs, and counter-frames marked `INVALID`, by partition; 0x0306. -/
  repairs : Nat
  repairsBy : Tab Nat
  invalidBy : Tab Nat
  /-- Tally of each line for the frame being drained, and for the frame sealed last; R72, R74. -/
  lineTally : Tab Nat
  sealedTally : Tab Nat
  /-- 1,024 gauges; R77. -/
  gauges : Tab Gauge
  /-- 4,096 comparators; R80. -/
  cmps : Tab Cmp
  /-- Snapshot streams by partition; R93. -/
  snaps : Tab SnapBuf
  /-- Drain words refused while the Sampler is held; R62. -/
  quiesced : Bool
deriving DecidableEq, Repr

/-! ## Ledger -/

/-- The Leaf's ledger (R98 to R112, R128, R152). -/
structure LeafLedger where
  /-- Retained records, oldest first; R98. -/
  retained : List Record
  /-- Sequence numbers of retained records that lie in the spill chain; R100. -/
  spilled : List Nat
  /-- `SEQ` of the next record; R103. -/
  seq : Nat
  /-- Records of the hosted Forum replica written to the sink chain: primaries, amendments, finals; 0x0404. -/
  sink : BitVec 8
  /-- Records that found the sink chain exhausted; 0x0404. -/
  sinkMissed : Nat
  /-- Highest frame acknowledged; R98. -/
  ackFrame : Option Nat
  /-- Open carry record; R152. -/
  carry : Option Record
  /-- Records sent with `UNRETAINED`; 0x0401. -/
  unretained : Nat
  /-- Reports to copy into the next record's alert section; R125. -/
  alerts : List AlertEntry
  /-- Losses declared by this block for its next record: R22, R76. -/
  losses : List LossEntry
  /-- The block's own partition-0 counters, increments since its last ledger record: 0 reports repeated (R128), 1 occurrences
  past the 4,096 of a frame (R189), 2 samples and occurrences withheld by the uplink stride (R350), from 16 on packets lost, by
  class and source (R335). -/
  own : Tab Nat
  /-- Reports issued: code, subject, window; R128. -/
  issued : List (Nat × Nat × Nat)
deriving DecidableEq, Repr

/-- A child record of which blocks are missing (R119). -/
structure HeldRecord where
  record : Record
  missing : List Nat
  lostCounters : List CounterEntry
  lostGauges : List GaugeEntry
deriving DecidableEq, Repr

/-- A counter of a Leaf as a merged record binds it in a frame (R110, R111). -/
structure Bind where
  index : Nat
  partition : Nat
  prescale : Nat
  /-- The counter-frame has been counted in `VOID`; R111. -/
  voided : Bool
deriving DecidableEq, Repr

/-- What a tier role has merged for one frame (R106 to R120). -/
structure TierFrame where
  frame : Nat
  /-- µs; with `frame` the identity; R39. -/
  period : Nat
  quality : BitVec 8
  cover : List CoverEntry
  sums : List SumEntry
  aggs : List AggEntry
  losses : List LossEntry
  children : List ChildStatus
  held : List HeldRecord
  /-- Coverage that each parent replica has acknowledged; R99. -/
  acked : Tab (List CoverEntry)
  /-- Children whose frame their final record has closed; R118. -/
  finals : List Nat
  /-- Leaves named by the child-status entries merged; R114, R155. -/
  census : List Nat
  /-- Bindings of each Leaf whose record is merged; R111. -/
  binds : Tab (List Bind)
  /-- Records declared void in part, by child and `SEQ`; R97. -/
  voidSeqs : List (Nat × Nat)
  /-- At the Forum, the Quarter records taken, to compare the other replica's with; R122, R123. -/
  seen : List Record
  /-- Its coverage lies in the Arcade: 64 later frames are kept in the Square; R120. -/
  spilled : Bool
  dispute : Bool
  closed : Bool
  final : Bool
deriving DecidableEq, Repr

/-- A child of a tier role (R119, R149, R153). -/
structure Child where
  source : Nat
  epoch : Nat
  seqNext : Nat
  generation : Nat
  /-- ft at which the first frame of its census membership opens; R149. -/
  joinFt : Nat
  /-- ft at which the first frame without it opens, set by a release or a census transfer; R156. -/
  leaveFt : Option Nat
  /-- Earlier spans of membership: first frame in it and first frame without it, by their openings; R114. -/
  spans : List (Nat × Nat)
  home : Nat
  /-- Gauge slots of its last merged frame, by key, counted in `missing`, and that frame with its period; R118. -/
  gauges : List AggEntry
  gaugesOf : Nat × Nat
  /-- Last binding known of each of its counters: index, partition, prescale; R110. -/
  bindings : List (Nat × Nat × Nat)
  /-- Runs of sequence numbers skipped and not come since, first and last; R119. -/
  gaps : List (Nat × Nat)
  ackFrame : Option Nat
  reqs : List AckReq
deriving DecidableEq, Repr

/-- An entry of a merge table (R129). -/
structure MergeEntry where
  code : Nat
  subject : Nat
  window : Nat
  count : Nat
  first8 : List Nat
  ft : Nat
  detail : Nat
  openSent : Bool
deriving DecidableEq, Repr

/-- A record that a role has sent and owns: the parent replicas that have acknowledged it (R98, R99). -/
structure SentRecord where
  record : Record
  ackedBy : List Nat
deriving DecidableEq, Repr

/-- A tier role of the chip (R24, R115 to R132). -/
structure Role where
  kind : RoleKind
  /-- Tray, Quarter number or 0. -/
  number : Nat
  replica : Nat
  generation : Nat
  /-- ft at which the first frame for which it is live opens; R159. -/
  liveFt : Nat
  /-- Frames that open before this ft are final, and the number of the latest of them; R118. -/
  finalTo : Nat
  lastFinal : Option Nat
  /-- Records sent that some live parent replica has not acknowledged; R98, R99. -/
  sent : List SentRecord
  /-- Census transfers sent: die, frame; R156. -/
  transfers : List (Nat × Nat)
  /-- Census of each tray in its last closed frame, at a Quarter, and as the Quarters' records show it at the Forum; R114, R157,
  R162. -/
  census : Tab (List Nat)
  children : List Child
  frames : List TierFrame
  seq : Nat
  merge : List MergeEntry
  storms : List StormEntry
  /-- Codes folded into the shared storm entry of the open windows, with their window; R131. -/
  sharedCodes : List (Nat × Nat)
  /-- Reports and storm entries already counted, so that the copy in a child's record adds nothing; R125, R129. -/
  counted : List AlertEntry
  /-- Reports and storm entries sent, to be copied into the next record's alert section; R125, R131. -/
  alerts : List AlertEntry
  /-- Windows that begin before this ft are closed; R130. -/
  closedTo : Nat
  duplicates : Nat
  lateAfterFinal : Nat
  mismatches : Nat
  stormsInEpoch : Nat
  /-- Adopted Quarter replica by Quarter, frame and period; R122. -/
  adopted : List (Nat × Nat × Nat × Nat)
deriving DecidableEq, Repr

/-! ## Placement -/

/-- The Leaf's place in the adoption handshake (R148, R151). -/
inductive LeafPhase where
  | adopted
  | requesting
  | confirming
  | orphan
deriving DecidableEq, Repr

/-- An offer made and not confirmed (R149, R150). -/
structure Offer where
  die : Nat
  home : Nat
  epoch : Nat
  /-- `FRAME_A` of the request. -/
  ackFrame : Option Nat
  /-- ft at which `FRAME_B` of the request opens, while the Leaf retains a record. -/
  keptFt : Option Nat
deriving DecidableEq, Repr

/-- The placement unit (chapter 5). -/
structure Place where
  /-- Part of the placement table held; R139. -/
  part : Option TablePart
  /-- Leaf phase; R148. -/
  phase : LeafPhase
  /-- Position of the entry tried or adopted; R148. -/
  position : Nat
  /-- `SOURCE` of the parent; R148. -/
  parent : Option Nat
  /-- `SOURCE` of the chip that the handshake addresses; R148. -/
  candidate : Option Nat
  /-- Timer instant at which an orphan starts its list again; R151. -/
  retryAt : Nat
  /-- Constraint set held by a Forum replica; R134. -/
  seed : Nat
  separation : Nat
  standinMin : Nat
  locations : List Word32
  noHost : List Nat
  /-- Drained trays; R161. -/
  drained : List Nat
  /-- Highest generation seen; R137. -/
  generation : Nat
  /-- Table as last issued by this leader: role, replica, tray; R143. -/
  hosts : List (Nat × Nat × Nat)
  /-- Offers made and not confirmed; R150. -/
  offers : List Offer
  /-- Chips as last known to this leader, the parts of its current table and the timer instant at which they were sent;
  R137, R139. -/
  chips : List ChipInfo
  issued : List TablePart
  issuedAt : Nat
  /-- ft at which a packet was last received and sent, by peer; R153. -/
  heardAt : Tab Nat
  sentAt : Tab Nat
  /-- Peers declared silent; R154. -/
  silent : List Nat
  /-- Live instant from which a returning chip has been heard, plus 1, by tray; R161. -/
  liveSince : Tab Nat
  /-- Forum replicas heard, as each Quarter replica reports; R136. -/
  heardBy : Tab (BitVec 3)
  /-- The Quarter replica's records go to the Forum successors; R160. -/
  redirected : Bool
  /-- Census transfers applied: die, frame; R156. -/
  transfers : List (Nat × Nat)
  /-- ft at which the first frame opens for which a parent replica's present host is live, by its name, once the table has moved
  it; R159. -/
  hostSince : Tab Nat
  /-- Stand-in quota lost to bank groups; R302. -/
  standinLost : Nat
deriving DecidableEq, Repr

/-! ## Series and conformance -/

/-- The state of one series (R173 to R176). -/
structure Series where
  desc : SeriesDesc
  /-- 0 Off, 1 Warm, 2 Ready; R175. -/
  sstate : Nat
  level : Bool
  drift : Bool
  /-- w in effect, after R172's doublings. -/
  w : Nat
  /-- B, S, Q32.32. -/
  b : Int
  s : Int
  lastValue : Int
  lastMissing : Bool
  samples : Nat
  missing : Nat
  sats : Nat
  levelRun : Nat
  /-- Consecutive samples that are not exceedances; R175. -/
  levelClear : Nat
  driftRun : Nat
  driftClear : Nat
  inBlock : Nat
  beta : Int
  ring : List Int
  openSum : Int
  /-- Window sums, and whether a frame of the window is lacking; R168.  For the greatest lateness of a window: that lateness,
  and 0, 1 or 2 for no occurrence, none with a lateness, one with; R169. -/
  sumA : Int
  sumB : Int
  spoilt : Bool
  /-- Frame and period fed last, and the w under which; ft at which the first frame of the definition opens; R167, R168. -/
  fed : Option (Nat × Nat)
  fedW : Nat
  since : Nat
deriving DecidableEq, Repr

/-- A calendar held by the Leaf, with its anchor once armed (R183, R184). -/
structure Calendar where
  image : CalImage
  anchor : Nat
deriving DecidableEq, Repr

/-- The matching state of a calendar entry (R186). -/
structure MatchState where
  last : Option Nat
  openOcc : Nat
deriving DecidableEq, Repr

/-- A calendar that another has replaced: the anchor of that one, and the matching state per marker (R184). -/
structure OldCalendar where
  cal : Calendar
  ends : Nat
  marks : Tab MatchState
deriving DecidableEq, Repr

/-- One version of a cohort rule, `none` when removed, with the ft of its acceptance (0x0606). -/
structure RuleSlot where
  job : Nat
  rule : Nat
  since : Nat
  value : Option CohortRule
deriving DecidableEq, Repr

/-- An open occurrence of a cohort at a tier (R192), or a closed one that waits for its verdict (R194, R195). -/
structure Occurrence where
  role : RoleKind
  job : Nat
  marker : Nat
  cls : Nat
  occ : Nat
  /-- Frame of the first entry, and its end ft. -/
  firstFrame : Nat
  firstEnd : Nat
  hist : Hist
  quality : BitVec 8
  /-- Rules that apply to it; 0x0606. -/
  rules : List CohortRule
  /-- Lateness by die: `none` for missed; R191. -/
  entries : List (Nat × Option Int)
  absent : List Nat
  /-- Trays merged, at a Quarter or the Forum. -/
  trays : List Nat
  closed : Bool
  /-- Timer instant until which the Plaza holds it for notices; R195. -/
  holdUntil : Option Nat
  /-- First notice of each wider rule. -/
  noticed : List ThresholdNotice
  /-- Rules whose verdict has been given: rule, scope; R194. -/
  settled : List (Nat × Nat)
deriving DecidableEq, Repr

/-- The tray cohort histogram of a template's window, open (R167). -/
structure WinHist where
  template : Nat
  frame : Nat
  /-- ft at which that frame ends. -/
  endFt : Nat
  dies : List Nat
  /-- Merged time quality of the records that fed it; R43, R181. -/
  quality : BitVec 8
  hist : Hist
deriving DecidableEq, Repr

/-- A die's run under a rule (R194). -/
structure Run where
  die : Nat
  job : Nat
  rule : Nat
  run : Nat
  clear : Nat
  flag : Bool
deriving DecidableEq, Repr

/-- Series, histograms, calendars and cohorts (chapter 6). -/
structure Conf where
  /-- Leaf series, or Plaza templates, by index; R167. -/
  series : Tab Series
  /-- Plaza template state by die × 1,024 + template; R170. -/
  tmpl : Tab Series
  /-- Definitions that wait for a boundary; R167. -/
  pendingDefs : List (Nat × SeriesDesc)
  /-- Quotas by partition, default 16; R170. -/
  quotas : Tab Nat
  /-- Window doublings in force, and the count of all; the period they were found for; R172. -/
  doublings : Nat
  doublingsAll : Nat
  fitPeriod : Nat
  /-- Series record sequence; R188. -/
  seq : Nat
  /-- Restarts by a Drift engine reset; R199. -/
  restarts : Nat
  /-- Active calendar; R184. -/
  active : Option Calendar
  /-- Old calendars, newest first, whose open occurrences still end at their deadlines; R184. -/
  old : List OldCalendar
  /-- Pending image, and its arm; R183. -/
  pending : Option CalImage
  armed : Option Nat
  /-- `last` and `open` per marker of the active calendar; R186. -/
  marks : Tab MatchState
  /-- 64-entry strobe queue: marker, ft, time valid; R185. -/
  strobes : List (Nat × Nat × Bool)
  /-- ft of the strobes dropped, and their count; R185. -/
  dropFts : List Nat
  drops : Nat
  /-- Unknown strobes in the frame and in all; R187. -/
  unknownFrame : Nat
  unknown : Nat
  /-- Strobes taken without valid time; R37. -/
  invalidStrobes : Nat
  /-- Lateness entries not yet reported, in order of resolution, with the ft of the resolution; R189. -/
  late : List (Nat × LateEntry)
  /-- Last lateness resolved per marker at the last frame's close, for features: `none` if not a value; R206. -/
  lastLate : Tab (Option Int)
  /-- Jobs and partitions armed through this block; R252. -/
  jobs : Tab Nat
  /-- Cohort rules; R190. -/
  rules : List RuleSlot
  /-- At most 4,096 open; R196. -/
  occs : List Occurrence
  /-- Cohort histograms of templates' windows; R167. -/
  wins : List WinHist
  /-- Histograms closed in the latest 1,000 frames, with the ft of the close; 0x0603. -/
  hists : List (Nat × HistRecord)
  /-- Occurrences closed or refused in the latest 1,000 frames: role, job, marker, occurrence, ft; R192, R196. -/
  shut : List (RoleKind × Nat × Nat × Nat × Nat)
  /-- At a Quarter or Forum replica, members of each tray as its latest histogram of a job shows them: job, tray, members; R192. -/
  trayMembers : List (Nat × Nat × Nat)
  /-- Job of each child as last reported, and the end of the latest frame of which it has reported; R191. -/
  memberJob : Tab Nat
  heard : Tab Nat
  runs : List Run
  judged : Nat
  unjudged : Nat
  /-- Missing slots counted at this tier; R189. -/
  missingSlots : Nat
  /-- Series record sequence expected from each child; R189. -/
  childSeq : Tab Nat
deriving DecidableEq, Repr

/-! ## Tree engine -/

/-- What a block holds of an ensemble image: one slot, or the header alone (R225, R226). -/
structure TreeSlot where
  image : TreeImage
  /-- First tree held, and trees held. -/
  first : Nat
  count : Nat
  /-- L of R216. -/
  leafTrees : Nat
  /-- The range of the chip as home, not as helper; R217. -/
  home : Bool
  /-- The home tray that a helper's range is part of; R217. -/
  tray : Nat
  /-- Active from this scoring frame; `none` while pending; R226. -/
  activeFrom : Option Nat
  /-- Ends before this scoring frame; R226, R228. -/
  activeTo : Option Nat
  /-- The frames from which the block's I has changed, ascending, with I; R215. -/
  intervals : List (Nat × Nat)
  /-- Dies whose vectors a helper has been sent; R215. -/
  dies : List Nat
deriving DecidableEq, Repr

/-- A vector fixed for a scoring frame (R208). -/
structure Vec where
  model : Nat
  die : Nat
  frame : Nat
  frameEnd : Nat
  period : Nat
  imageCrc : Nat
  home : Bool
  quality : BitVec 8
  leafPartial : Int
  leafTrees : Nat
  values : List (Option Int)
  /-- Features whose value waits for the frame's update of a Plaza template; R208. -/
  waits : List (Nat × FeatDesc)
deriving DecidableEq, Repr

/-- The parts of a score at a completing tier (R222): first tree, last tree, value. -/
structure ScoreParts where
  model : Nat
  die : Nat
  frame : Nat
  imageCrc : Nat
  parts : List (Nat × Nat × Int)
deriving DecidableEq, Repr

/-- The tree engine (chapter 7). -/
structure Trees where
  slots : List TreeSlot
  /-- Quotas by partition: trees, nodes; R229. -/
  quotas : Tab (Nat × Nat)
  /-- Vectors waiting for the lanes; R208. -/
  vecs : List Vec
  parts : List ScoreParts
  /-- Latest score of each model and die; R229. -/
  scores : List ScoreEntry
  /-- Score record sequence of each sending tier, 0 for the Leaf; R221. -/
  seq : Tab Nat
  /-- Images whose header alone is held: by a Quarter replica, and by a chip to which the image gives no tree; R225. -/
  headers : List TreeSlot
  /-- Models whose image a hosted Forum replica keeps in the Arcade; R225. -/
  kept : List Nat
  /-- Images asked of the Forum replicas; R230, R232. -/
  requested : List ImageAsk
  /-- Score slots completed or declared here, by model, die and frame; R213. -/
  done : List (Nat × Nat × Nat)
  /-- Feature records that have come, by model, die and frame; R220. -/
  came : List (Nat × Nat × Nat)
  /-- Models and trays of which partials have come to a Quarter replica: helpers hold ranges; R218. -/
  split : List (Nat × Nat)
  /-- The latest score of each model and die that each replica of a Quarter has sent a Forum replica; R233. -/
  rivals : List (Nat × ScoreEntry)
  /-- Law S accounts: slots present, in time or late, and skipped; R213. -/
  present : Nat
  skipped : Nat
  /-- Doublings in force, and all; R215. -/
  stretch : Nat
  doublings : Nat
  late : Nat
  missing : Nat
  mismatches : Nat
  /-- Feature records lost; R220. -/
  lostRecords : Nat
deriving DecidableEq, Repr

/-! ## Arcade and backscan -/

/-- What an Arcade entry holds (R238, R241). -/
inductive ArcData where
  | ledger (r : Record)
  | series (r : SeriesRecord)
  | scores (r : ScoreRecord)
  | hist (h : HistRecord)
  | features (r : FeatureRecord)
  | notice (n : ThresholdNotice)
  | report (r : Report)
  | storm (e : StormEntry)
  | dump (d : Dump)
  | table (p : TablePart)
  | adopt (m : AdoptMsg)
  | image (i : TreeImage)
  | digests (r : DigestRecord)
  | tallies (r : TallyRecord)
  | verdict (n : VerdictNotice)
  /-- What a packet of Trace or Dump brought. -/
  | raw (rtag seq : Nat) (bytes : List Byte)
  | accounting (frame skipped : Nat) (sources : Tab Nat)
  /-- A role's coverage of a frame older than the 64 that the Square keeps (R120). -/
  | coverage (role : RoleKind) (frame period : Nat) (cover : List CoverEntry)
deriving DecidableEq, Repr

/-- An Arcade entry (R241). -/
structure ArcEntry where
  bytes : Nat
  source : Nat
  arrival : Nat
  lateAfterFinal : Bool
  mismatch : Bool
  foreign : Bool
  hosted : Bool
  produced : Bool
  /-- Blocks of it were missing when it arrived; R465. -/
  holes : Bool
  data : ArcData
deriving DecidableEq, Repr

/-- A segment (R239, R240). -/
structure Segment where
  seq : Nat
  port : Nat
  /-- Its place among the port's 1 MiB segments; R238. -/
  slot : Nat
  log : Nat
  epoch : Nat
  firstFt : Nat
  lastFt : Nat
  fill : Nat
  sealed : Bool
  held : Bool
  recovered : Bool
  lost : Bool
  entries : List ArcEntry
deriving DecidableEq, Repr

/-- A hold (R245). -/
structure Hold where
  id : Nat
  segs : List Nat
  firstFt : Nat
  lastFt : Nat
  bytes : Nat
  /-- Timer instant at which it ends. -/
  ends : Nat
deriving DecidableEq, Repr

/-- An item that a query returns (R249, R253): kind, flags, selector, epoch, frame and value. -/
structure ResultItem where
  source : Nat
  mkind : Nat
  mflags : Nat
  selector : Nat
  epoch : Nat
  frame : Nat
  value : Int
deriving DecidableEq, Repr

/-- What a query has found (R253): header fields but `RFLAGS`, `RFLAGS`, items, whole records, histogram. -/
structure QueryResult where
  header : List Fld
  rflags : Nat
  items : List ResultItem
  records : List ArcEntry
  hist : Option Hist
deriving DecidableEq, Repr

/-- What one engine of a query reads: segments still to begin, and the one it reads with the 256-byte operations issued, all
and answered (R234, R254). -/
structure Scan where
  engine : Nat
  todo : List Nat
  cur : Option (Nat × Nat × Nat × Nat)
deriving DecidableEq, Repr

/-- A backscan query (R247, R255). -/
structure QueryState where
  query : Query
  issuer : Issuer
  tag : Nat
  chain : Nat
  desc : Desc
  /-- Snapshot point; R250. -/
  startFt : Option Nat
  /-- What it has found, while that is written; R253. -/
  result : Option QueryResult
  /-- Timer instant at which it times out. -/
  deadline : Option Nat
  running : Bool
  done : Bool
  lost : Bool
  /-- `OVERWRITTEN`, `HOLES` and MiB skipped so far; R250. -/
  overwritten : Bool
  holes : Bool
  skippedMib : Nat
  /-- The segments of its range in `SEG_SEQ` order, what each engine reads, the entries read with their segment, and the bytes
  of the segments read whole; R254. -/
  segs : List (Nat × Nat)
  scans : List Scan
  seen : List (Nat × ArcEntry)
  read : Nat
deriving DecidableEq, Repr

/-- What a memory operation is for (R237): a staged entry, the header of a segment that is sealed, its directory entry, or the
engine of a query, by the query's chain. -/
inductive MemUse where
  | entry (id : Nat)
  | header
  | directory
  | scan (chain engine : Nat)
deriving DecidableEq, Repr

/-- A memory operation: one aligned read or write of 256 bytes, in flight or waiting for its allocation (R234, R237, R407). -/
structure MemOp where
  port : Nat
  /-- Its tag, once issued. -/
  tag : Nat
  write : Bool
  /-- Address bits [38:8]. -/
  addr : Nat
  use : MemUse
  /-- Timer instant of issue; R256. -/
  issued : Nat
deriving DecidableEq, Repr

/-- An entry staged until every write of it is acknowledged (R244). -/
structure Staged where
  id : Nat
  log : Nat
  entry : ArcEntry
  /-- Operations not acknowledged yet. -/
  left : Nat
deriving DecidableEq, Repr

/-- The Arcade (chapter 8). -/
structure Arcade where
  /-- Failed or unavailable ports; R256. -/
  deadPorts : List Nat
  segments : List Segment
  nextSeq : Nat
  /-- Port of the last segment opened; R239. -/
  lastPort : Nat
  holds : List Hold
  nextHold : Nat
  queries : List QueryState
  queriesLost : Nat
  /-- Operations in flight, and those that wait for their allocation; R237. -/
  ops : List MemOp
  waiting : List MemOp
  nextTag : Nat
  /-- Entries staged; R244. -/
  staged : List Staged
  nextStaged : Nat
  /-- Uncorrectable errors by port, with their ft; R256. -/
  errors : List (Nat × Nat)
  /-- Bytes ingested in the open frame and in the latest; R243. -/
  ingestFrame : Nat
  ingestLast : Nat
  /-- Bytes of the Ledger, Series and Control logs in the open frame and in the latest, and what the latest frames have
  ingested beyond 0.8 TB/s; R236, R243. -/
  firstFrame : Nat
  firstLast : Nat
  debt : Nat
  /-- Trace and Dump bytes skipped, by source; R243. -/
  skipped : Tab Nat
  skippedTotal : Nat
deriving DecidableEq, Repr

/-! ## Digests -/

/-- A key and collective table (R266, R269). -/
structure KeyTable where
  job : Nat
  key : Nat
  anchor : Nat
  table : List CollEntry
deriving DecidableEq, Repr

/-- A stream of `TAP` (R263). -/
structure Stream where
  id : StreamId
  /-- Key under which its first beat was taken; `none`: its chunks are unchecked; R266. -/
  key : Option Nat
  /-- Job of that key, 0 for none, and the collective's entry in that job's table; R269. -/
  job : Nat
  entry : Option CollEntry
  nextOff : Nat
  /-- The current chunk: its index, its words and bytes so far, and whether it is unchecked. -/
  chunk : Nat
  words : List Word64
  bytes : Nat
  spoilt : Bool
  /-- Whole chunks waiting for the engine: index, words, length, unchecked. -/
  ready : List (Nat × List Word64 × Nat × Bool)
  /-- Digests of arrived chunks not yet compared: chunk, digest (`none` unchecked); R268. -/
  mine : List (Nat × Option Word64)
  /-- Carried words waiting for their chunk; R268. -/
  carried : List (Nat × Word64)
  ended : Bool
  /-- Timer instant of the last beat; R268. -/
  lastAt : Nat
  /-- Result streams: chunk digests so far by index, all ones for a chunk without one; chunks; units by stripe; R271. -/
  digests : Tab Word64
  chunks : Nat
  masks : Tab Lines
deriving DecidableEq, Repr

/-- A completed instance the Leaf retains (R272), with its collective's entry, under which a unit may be fenced (R280). -/
structure Retained where
  result : ResultEntry
  entry : CollEntry
  masks : Tab Lines
  /-- Timer instant at which the masks expire. -/
  ends : Nat
deriving DecidableEq, Repr

/-- An open tally (R274). -/
structure Tally where
  role : RoleKind
  job : Nat
  coll : Nat
  inst : Nat
  ranks : Nat
  scope : Nat
  /-- End of the frame in which its first entry arrived, ft; R275. -/
  firstEnd : Nat
  values : List TallyValue
  scatter : Nat
  unchkRanks : Nat
  /-- At a Plaza, the results of its ranks; R278. -/
  entries : List (Nat × Word64)
  /-- Roles whose tally has been merged: each counts once, whichever of its replicas sent it. -/
  heard : List Nat
  /-- Merged time quality of its inputs; R276. -/
  quality : BitVec 8
deriving DecidableEq, Repr

/-- A verdict held for reading (R278, 0x0903): 0 agreed, 1 minority, 2 no majority, 3 not compared. -/
structure Verdict where
  job : Nat
  coll : Nat
  inst : Nat
  verdict : Nat
  result : Word64
  nMaj : Nat
  nOther : Nat
  nAbsent : Nat
  suspects : Lines
deriving DecidableEq, Repr

/-- Result entries a Plaza holds for its ranks (R278). -/
structure HeldResults where
  job : Nat
  coll : Nat
  inst : Nat
  /-- Timer instant at which the hold ends. -/
  ends : Nat
  ranks : List (Nat × Word64)
  /-- First notice applied. -/
  noticed : Option VerdictNotice
deriving DecidableEq, Repr

/-- The digest engine (chapter 9). -/
structure Digests where
  /-- The key and table in force at a Leaf, and those armed for an anchor to come; R266. -/
  current : Option KeyTable
  next : Option KeyTable
  /-- The tables armed at a chip, for its roles' tallies; R266, R269. -/
  tables : List KeyTable
  streams : List Stream
  overruns : Nat
  overrunFrame : Bool
  tableFull : Nat
  /-- Chunks checked, mismatched and unchecked, in the frame and by job; R273, 0x0902. -/
  chkOk : Nat
  chkBad : Nat
  chkNone : Nat
  jobOk : Tab Nat
  jobBad : Tab Nat
  jobNone : Tab Nat
  retained : List Retained
  evicted : Nat
  evictFrame : Bool
  /-- Completed results to send; R273. -/
  outbox : List ResultEntry
  seq : Nat
  /-- Suspect reports: line, ft; R280. -/
  suspects : List (Nat × Nat)
  /-- Notices that raised nothing; R279. -/
  idleNotices : Nat
  tallies : List Tally
  tallyFull : Nat
  tallySeq : Tab Nat
  /-- Instances closed in the latest 1,000 frames: role, job, collective, instance, frame; R275. -/
  shut : List (RoleKind × Nat × Nat × Nat × Nat)
  heldResults : List HeldResults
  verdicts : List Verdict
deriving DecidableEq, Repr

/-! ## Test -/

/-- A (test, unit) pair (R292 to R295). -/
structure Pair where
  pkgId : Nat
  testId : Nat
  unit : Nat
  /-- Timer instant at which it is or falls due; R294, R478. -/
  due : Nat
  fails : Nat
  overdue : Bool
deriving DecidableEq, Repr

/-- The run in progress (R292). -/
structure TestRun where
  pkgId : Nat
  unit : Nat
  /-- The entry under which it started; R304. -/
  entry : TestEntry
  /-- ft of the start, and the timer instant. -/
  start : Nat
  startTimer : Nat
deriving DecidableEq, Repr

/-- An idle grant (R289). -/
structure IdleGrant where
  unitFirst : Nat
  unitLast : Nat
  /-- ft of its start. -/
  start : Nat
  /-- Length, ns. -/
  len : Nat
  /-- Timer instant at which it ends, once begun; R478. -/
  ends : Option Nat
deriving DecidableEq, Repr

/-- In-field test (chapter 10). -/
structure Tests where
  pkgs : List TestPkg
  /-- Packages disabled because a pattern changed; R287. -/
  disabled : List Nat
  pairs : List Pair
  run : Option TestRun
  grants : List IdleGrant
  /-- Overdue episodes counted; R294. -/
  overdue : Nat
  /-- By package: failures, timeouts and wrapper errors, ft of the last run; 0x0A04. -/
  failures : Tab Nat
  timeouts : Tab Nat
  lastRun : Tab Nat
deriving DecidableEq, Repr

/-! ## Trace -/

/-- A trace packet lane record in a block (R314). -/
structure TracePkt where
  ptype : Nat
  delta : Nat
  priv : Nat
  skind : Nat
  partition : Nat
  info : Nat
  source : Nat
  cls : Nat
  count : Nat
  data : Word64
  ft : Nat
deriving DecidableEq, Repr

/-- A coded block (R318). -/
structure Block where
  /-- 64, 128 or 272 bytes. -/
  size : Nat
  inexact : Bool
  flushed : Bool
  cut : Bool
  stride : Nat
  inLen : Nat
  bseq : Nat
  trunc : Nat
  widths : List Nat
  cutUnits : Nat
  payload : List Bool
deriving DecidableEq, Repr

/-- A trace source (R308 to R316). -/
structure Source where
  config : Word32
  admitted : Nat
  ingestDrops : Nat
  cut : Nat
  discarded : Nat
  overruns : Nat
  /-- Exclusions by level. -/
  excluded : Tab Nat
  /-- Packets lost by a compressor reset; R328. -/
  lostPkts : Nat
  /-- A start sync is due before the next packet that the compressor takes, or before the next that the front admits. -/
  startDue : Bool
  admitStart : Bool
  lastCycle : Nat
  sinceSync : Nat
  /-- Drops since the last packet of the stream. -/
  gap : Nat
  /-- Open block's packets and the timer instant of the first; R322. -/
  openPkts : List TracePkt
  openSince : Nat
  bseq : Nat
deriving DecidableEq, Repr

/-- A packet admitted into a front's queue, with the drops before it, its ft (0 when time was not valid) and whether it
is the source's first since the source was configured (R308). -/
structure FrontPkt where
  packet : TrcPacket
  dropped : Nat
  ft : Nat
  start : Bool
deriving DecidableEq, Repr

/-- An authorisation grant (R311). -/
structure Grant where
  id : Nat
  mask : Word64
  levels : BitVec 8
  ends : Nat
deriving DecidableEq, Repr

/-- The Trace compressor (chapter 11). -/
structure Trace where
  /-- 64 sources; R305. -/
  sources : Tab Source
  /-- Queues of the eight fronts, at most 512 packets; R307. -/
  fronts : Tab (List FrontPkt)
  /-- The front that the rotation serves next; R313. -/
  turn : Nat
  /-- At most four; R311. -/
  grants : List Grant
  nextGrant : Nat
  /-- Staged blocks: source, class, block; R323. -/
  staged : List (Nat × Nat × Block)
deriving DecidableEq, Repr

/-! ## BUF, dumps, JTAG -/

/-- A node of a wait-for graph (R464): 1 object, 2 surroundings sink, 3 instance without dump. -/
structure GNode where
  inst : Nat
  nkind : Nat
  domain : Nat
  object : Nat
  count : Nat
  ageUs : Nat
  captureFt : Nat
deriving DecidableEq, Repr

/-- An edge of a wait-for graph (R464): node indices, relation 1 waits on or 2 held by, flags. -/
structure GEdge where
  src : Nat
  dst : Nat
  reln : Nat
  old : Bool
  cross : Bool
  forbidden : Bool
  ageUs : Nat
deriving DecidableEq, Repr

/-- A finding of a wait-for graph (R464): 1 cycle, 2 starved edge, 3 forbidden edge. -/
structure GFinding where
  fkind : Nat
  sinkKind : Nat
  len : Nat
  firstEdge : Nat
  sink : Nat
  ageUs : Nat
deriving DecidableEq, Repr

/-- A wait-for graph (R464). -/
structure Graph where
  incomplete : Bool
  truncatedInput : Bool
  nDumps : Nat
  atFt : Nat
  source : Nat
  nodes : List GNode
  edges : List GEdge
  findings : List GFinding
deriving DecidableEq, Repr

/-- What the block writes through `BUF` (R93, R253, R299, R369, R373, R391). -/
inductive BufData where
  | ring (slot index : Nat) (m : Msg)
  | completion (descId fill cstatus cflags doneFt : Nat)
  | snapshot (header : List Fld) (counters : List CounterEntry) (gauges : List GaugeEntry)
  | records (rs : List Record)
  | seriesState (s : Series)
  | hist (h : HistRecord)
  | confStatus (header : List Nat) (stragglers : List (Nat × Nat))
  | history (removed : Nat) (recs : List HistoryRec)
  | nvlog (region : Nat) (values : List Nat)
  /-- A trace block, with its source. -/
  | block (source : Nat) (b : Block)
  | dump (d : Dump)
  | graph (g : Graph)
  | result (r : QueryResult)
  | locate (entries : List (Nat × Nat × Nat × Nat))
  | pattern (pkgId : Nat)
deriving DecidableEq, Repr

/-- One thing the block has put on a port (15_ports_registers_crossings.md). -/
inductive Out where
  /-- A packet on a fabric channel, with `UPL_VC` and `UPL_ROUTE`; R403. -/
  | upl (p : Packet) (port vc route : Nat)
  | byp (dst : List Nat) (a : AlertEntry)
  | buf (partition : Nat) (chain : Nat) (d : BufData)
  /-- A `BUF` read, such as of a closed buffer's `NEXT`. -/
  | bufRead (addr : Nat)
  /-- A 256-byte memory operation, with address bits [38:8]; R407. -/
  | mem (port tag : Nat) (write : Bool) (addr : Nat)
  | tapDout (digest : Word64) (coll inst peer chunk : Nat)
  | interrupt (vector : Nat)
  | ibi (bytes : List Nat)
  | sbiData (m : Option Msg) (r : Option Report)
  | i3cData (v : Nat)
  | hrwData (v : Nat)
  /-- A response for which no slot or ring exists, to a tenant without a session; the completion of a tier role's command, in
  its Control packet. -/
  | answer (i : Issuer) (m : Msg)
  | jtagData (v : Nat)
  | hotJoin
  | fncTest (unit : Nat) (go abort : Bool)
  /-- A ledger record, or some of its blocks, to a destination. -/
  | ledger (dst : Nat) (r : Record) (blkFirst blkLast : Nat)
  /-- Trace blocks with their sources. -/
  | traceRun (blocks : List (Nat × Block))
  | dumpRec (d : Dump)
  | seriesRec (r : SeriesRecord)
  | digestRec (r : DigestRecord)
  | tallyRec (r : TallyRecord)
  | scoreRec (r : ScoreRecord)
  | histRec (h : HistRecord)
  | featureRec (dst : Nat) (r : FeatureRecord)
  | ack (dst : Nat) (a : Ack)
  | threshold (n : ThresholdNotice)
  | verdict (dst : Nat) (n : VerdictNotice)
  | adopt (dst msg : Nat) (m : AdoptMsg)
  | table (dst : Nat) (p : TablePart)
  | relay (dst cls partition tag cmd : Nat) (scope : Scope)
  | attachment (dst tag : Nat) (bytes : List Byte)
  | relayDone (dst tag cmd nOk nFail nNoReply firstStatus : Nat) (first8 : List Nat)
  | transfer (dst die frame : Nat)
  | imageReq (a : ImageAsk)
  /-- What of an ensemble a home Plaza cannot hold: model, first and last tree; R217. -/
  | remainder (dst model first last : Nat)
  /-- A range of an image: model, `IMAGE_CRC`, first and last tree, tray, whether it is the home's, and the frame from which it
  serves; R217, R230. -/
  | range (dst model imageCrc first last tray : Nat) (home : Bool) (activeFrom : Option Nat)
  | selfRefresh (enter : Bool)
  /-- The chip asks the leader to move its replicas, or to drain it whole; R257, R302. -/
  | askLeader (whole : Bool)
deriving DecidableEq, Repr

/-! ## Uplink -/

/-- One Roundabout class (R343 to R351). -/
structure UplClass where
  rate : Nat
  cap : Nat
  quantum : Nat
  credit : Nat
  deficit : Nat
  /-- Law C accounts; R348. -/
  added : Nat
  charged : Nat
  lent : Nat
  forfeited : Nat
  quanta : Nat
  sent : Nat
  returned : Nat
  /-- Congestion factor; R349. -/
  f : Nat
  /-- A nonzero echo arrived since the previous refill. -/
  echoed : Bool
deriving DecidableEq, Repr

/-- A packet that waits, before its `CSEQ` is assigned (R332), with the record's identity. -/
structure QueuedPacket where
  packet : Packet
  /-- What the packet completes at its destination: the record of which it carries the last blocks. -/
  carries : Option Out
deriving DecidableEq, Repr

/-- A gate that is open (R337 to R341). -/
structure Gate where
  start : Nat
  ends : Nat
  rate : Nat
  port : Nat
  /-- The class whose visit is next, 1 to 4. -/
  cls : Nat
  /-- The visit has had its quantum. -/
  visiting : Bool
  kerbPassed : Bool
deriving DecidableEq, Repr

/-- The Uplink scheduler (chapter 12). -/
structure Uplink where
  classes : Tab UplClass
  /-- Shaper changes that wait for the next refill: class, `RATE`, `CAP`, `QUANTUM` and the ft of acceptance; R347. -/
  pendingShapers : List (Nat × Nat × Nat × Nat × Nat)
  /-- Queues of classes 1 to 4; R345. -/
  queues : Tab (List QueuedPacket)
  /-- Adoption and Control queues, and the allowance left; R342. -/
  adoption : List (Packet × AdoptMsg × Nat)
  control : List QueuedPacket
  ctlLeft : Nat
  /-- Class sequence by (class, destination); R332. -/
  cseq : List (Nat × Nat × Nat)
  /-- Standing gate: port, rate, space µs, length ns; R339. -/
  standing : Nat × Nat × Nat × Nat
  kerbMargin : Nat
  /-- Standing gate and margin that wait for the next refill; R339. -/
  pendingStanding : Option (Nat × Nat × Nat × Nat × Nat)
  gate : Option Gate
  /-- End of a gate closed by Lost, not to be reopened; R340. -/
  noReopenUntil : Nat
  /-- Uplink stride; R350. -/
  u : Nat
  strideChanges : Nat
  /-- Series bytes formed in each of the latest 64 frames, and that frame's allowance; R350. -/
  seriesBytes : List (Nat × Nat)
  backlog : Bool
  /-- Blocks sent uncoded; R112. -/
  expanded : Nat
  /-- `BYP` queue and messages sent in the frame; R336. -/
  byp : List AlertEntry
  bypSent : Nat
  bypDiscarded : Nat
  /-- Marks to echo by source: Trace, Dump; R349. -/
  marks : Tab (Nat × Nat)
  /-- Class sequence expected: class and destination, source, its epoch, `CSEQ`; R331, R335. -/
  rseq : List (Nat × Nat × Nat × Nat)
  /-- Losses by class and source; R335. -/
  losses : List (Nat × Nat × Nat)
  discards : Nat
  /-- Blocks of records under reassembly: class, source, rseq, total, blocks held; R334. -/
  assembly : List (Nat × Nat × Nat × Nat × List Nat)
  lawCFailed : Bool
deriving DecidableEq, Repr

/-! ## Operations of the buffer master -/

/-- What a `BUF` operation is for (R406). -/
inductive BufUse where
  /-- The close of a chain's buffer: its completion is written and `NEXT` is read; R373. -/
  | close (chain : Nat)
  /-- A command's output: chain, the data still to be written after this buffer, and the bytes written so far; R391. -/
  | output (chain rest fill : Nat)
  | ringWrite (slot : Nat)
  /-- A plain write of an engine, such as a snapshot: its chain, and what the owner counts as lost if it fails; R92, R406. -/
  | write (chain lost : Nat)
deriving DecidableEq, Repr

/-- An outstanding `BUF` operation (R406). -/
structure BufOp where
  id : Nat
  partition : Nat
  use : BufUse
  /-- Timer instant of issue. -/
  issued : Nat
deriving DecidableEq, Repr

/-- A chain of buffers (R372, R373). -/
structure Chain where
  /-- 0 trace, 1 snapshot, 2 ledger spill, 3 ledger sink, 4 output of a command, 5 a withdrawn snapshot chain that has yet
  to write what it holds (R90, R92). -/
  ckind : Nat
  index : Nat
  partition : Nat
  /-- The descriptor being written and its fill; `none` when exhausted. -/
  cur : Option Desc
  fill : Nat
  /-- The buffer has closed and its `NEXT` is being read; R373. -/
  closing : Option Desc
  /-- Data that waits for the next descriptor: bytes and content. -/
  held : List (Nat × BufData)
  /-- Descriptors linked behind it by the append command. -/
  queue : List Desc
  overruns : Nat
deriving DecidableEq, Repr

/-- The buffer master (R371 to R373, R406). -/
structure Buf where
  /-- Chains by number. -/
  chains : Tab Chain
  nextChain : Nat
  /-- Outstanding, at most 256 at a Leaf and 1,024 at a Plaza. -/
  ops : List BufOp
  /-- Operations that wait for room among the outstanding ones, with what each puts on the port; R417. -/
  waiting : List (BufOp × Out)
  nextId : Nat
  /-- Operations that ended with `BUFFER_FAULT`; R406. -/
  faults : Nat
  /-- Writes dropped by the partition check; R91. -/
  dropped : Nat
deriving DecidableEq, Repr

/-- A dump asked for and not yet captured (R452, R454): trigger, `REQ_FT`, destination and descriptor of a commanded one. -/
structure DumpReq where
  trigger : Nat
  reqFt : Nat
  dest : BitVec 8
  desc : Option Desc
deriving DecidableEq, Repr

/-- The dump unit and hang monitor (chapter 17). -/
structure Dumps where
  /-- Slot 0: latest automatic dump, its ft, delivered; R455. -/
  slot0 : Option (Dump × Nat × Bool)
  /-- Slot 1: latest commanded dump; R455. -/
  slot1 : Option Dump
  /-- `DUMP_SEQ`; R456. -/
  seq : Nat
  /-- ft of the latest automatic dump; R452. -/
  lastAuto : Option Nat
  /-- Triggers that took no dump; R452. -/
  suppressed : Nat
  /-- Dumps that wait for their capture; R452, R454. -/
  pending : List DumpReq
  /-- What waits for a capture: a reset source, or (true) the domain of an engine's logic reset; R453. -/
  awaiting : List (Bool × Nat)
deriving DecidableEq, Repr

/-- JTAG and 1687 (R425 to R428). -/
structure Jtag where
  /-- 8-bit instruction register. -/
  ir : Nat
  /-- Engines held in reset by `EXTEST`, `CLAMP` or `HIGHZ`. -/
  hold : Bool
  refusedTests : Nat
  selftests : Nat
deriving DecidableEq, Repr

/-! ## The state -/

/-- The state of the block. -/
structure State where
  /-- Commands that wait, first in, first out (the row's own). -/
  pending : List Instr
  /-- The fuse map held for the epoch; R423. -/
  fuse : FuseMap
  /-- The address straps, 18 bits; R422. -/
  die : Nat
  time : TimeFront
  grid : Grid
  nv : NvLog
  /-- Fence latches, 256 bits; R297. -/
  fence : Lines
  sbi : SbiTarget
  rst : ResetCtl
  hrw : Hrw
  stw : Steward
  pwr : Power
  smp : Sampler
  led : LeafLedger
  roles : List Role
  place : Place
  conf : Conf
  tree : Trees
  arc : Arcade
  dig : Digests
  test : Tests
  trc : Trace
  upl : Uplink
  buf : Buf
  dump : Dumps
  jtag : Jtag
  /-- `ID_EPOCH`: the powered epoch, 0 until written; R48, R413. -/
  epoch : Nat
  /-- The epoch is exhausted; R49. -/
  exhausted : Bool
  /-- What the block has put on its ports, oldest first (the model's own). -/
  out : List Out
  /-- The model's own counter of free values drawn (not the spec's). -/
  free : Nat
deriving DecidableEq, Repr

/-! ## How a step can stop -/

/-- The block reports nothing as a machine fault: faults of the manual are reports and statuses.  The one constructor is
raised by nobody at present. -/
inductive Fault where
  /-- Raised by no command; kept because the interface asks for the type.  Safe: it allows no extra behaviour. -/
  | none
deriving DecidableEq, Repr

/-- Reasons for which a command has no meaning. -/
inductive Refusal where
  /-- Raised by an arm of `exec` whose command is not modelled.  Safe: the block stops. -/
  | notModelled (mnemonic : String)
deriving DecidableEq, Repr


/-! ## Values after power-on -/

/-- A fuse map with every field 0 whose check passes: a Leaf in counter mode (DESIGN CHOICE, assumption 1). -/
def FuseMap.blank : FuseMap :=
  { dieType := 0, plaza := false, trcSecure := false, jtgLock := 0, ftiMode := 1, i3cSa := 0, i3cPid := 0, xmode := 0,
    xtimeout := 0, gatePort := 0, gateRate := 0, gateSpace := 0, gateLen := 0, alertRst := false, xreqRst := 0,
    fncPwrOn := 0, keyRevoke := 0, keyHash := [0, 0, 0, 0], idcode := 0, crcOk := true }

/-- The time front as it starts, in Unlocked, in a given mode; R31, R438. -/
def TimeFront.start (mode : Nat) : TimeFront :=
  { state := .unlocked, mode := mode, ft := 0, frac := 0, refNs := 0, osc := 0, refOn := true, hold := 0, slew := 0,
    mismatchRun := 0, candidate := none, goodRef := 0, goodFt := 0, since := 0, timer := 0, live := 0,
    leftLocked := false, nsOutside := 0, crcDiscards := 0, mismatches := 0 }

/-- The grid at power-on: period 1,000 µs and no change pending; R47. -/
def Grid.start : Grid :=
  { period := 1000, pending := none, next := none, frame := none, closed := none, snapshotDue := false, haltPending := false,
    halted := false, missFirst := 0, missCount := 0, gapFrom := none, epochStartDue := true, newPeriodDue := false,
    carryDue := false }

/-- A non-volatile log in which nothing has been written (DESIGN CHOICE, assumption 2). -/
def NvLog.blank : NvLog :=
  { epoch := 0, history := [], removed := 0, unwritten := 0, retired := [], grants := [], svnFirmware := 0, svnTest := 0,
    events := [], queue := [], pulse := false }

/-- The sideband target with no address; R383. -/
def SbiTarget.start : SbiTarget :=
  { addr := none, hotJoined := false, events := 0x0B, alertSelected := false, responses := [], alerts := [], merged := 0, exhaustDue := false,
    requests := [], bootBytes := [] }

/-- The reset controller after a power-on: source 0x01 counted once; R439. -/
def ResetCtl.start : ResetCtl :=
  { last := 1, counts := [(0, 1)], pending := [], applied := [], active := false, pinLow := false, softwareDue := none,
    aonOk := true, coreOk := false, parks := 0 }

/-- A PM slot with nothing in it; R360. -/
def PmSlot.idle : PmSlot := { req := [], rsp := none, busy := false, done := false, held := [] }

/-- The register file after power-on; R413. -/
def Hrw.start : Hrw :=
  { ftHi := 0, intSts := 0, intEn := 0, vecBlk := 0xFFFF, vecPm := [], engRst := 0, engQto := 0, xingTmo := 0,
    discards := 0, tmDbDrops := 0, dbgOpen := none, fwPtrLo := 0, fwPtrHi := 0, pm := [] }

/-- A tenant slot that has never been opened; R368. -/
def Slot.unused : Slot :=
  { isOpen := false, partition := 0, generation := 0, ring := 0, ringN := 0, vector := 0xFFFF, prod := 0, cons := 0,
    held := [], lastUse := 0 }

/-- The Steward before its first image: no session, no work; R380. -/
def Steward.start : Steward :=
  { running := none, committed := none, staged := none, trialEnd := none, reverts := 0, serving := false, pmOpen := [],
    pmNotice := [], sbiOpen := false, slots := [], quotas := [], dbDrops := [], isolation := [], idleS := 60,
    windows := [], doorbells := [], place := 0, deferred := [], replies := [], lateCompletions := 0, deadCompletions := 0,
    notices := [], lastService := 0, paceAlerts := [], paceSuppressed := 0, releasing := [], regions := [],
    chip := { bound := 0, retired := 0, spares := 0, fenced := 0, repairs := 0, invalid := 0 } }

/-- Domains after power-on: PD00 alone is powered; R413 (`PD_STS` 0x0000_0001). -/
def Power.start : Power :=
  { on := 1, inReset := 0, parked := false, parkPending := false, parking := none, wakeAfterEntry := false,
    wakeAsked := false, waking := none, quiescing := [], releasing := [], isolated := [], settling := [], absent := [],
    noRetry := [], moving := [], wakeReq := 0, xingWait := 0, dravaForced := 0, culDeSac := [] }

/-- A concentrator after power-on. -/
def Conc.start : Conc :=
  { half := false, levels := 0, sealDue := false, sealed := false, heldBack := false, parity := [], fenced := false,
    skipSeal := false, late := false, turn := 0 }

/-- An unbound counter at 0. -/
def Counter.unbound : Counter :=
  { binding := 0, value := 0, residue := 0, inc := 0, snapInc := none, closedValue := 0, flags := 0, firstDue := false,
    dead := false, gone := false, known := false }

/-- A gauge that is not enabled. -/
def Gauge.idle : Gauge :=
  { config := 0, value := 0, min := 0, max := 0, updated := false, sample := (0, 0, false), sampled := 0 }

/-- A comparator that is disabled, with an empty latch. -/
def Cmp.idle : Cmp :=
  { enable := false, srcCounter := false, counter := 0, down := false, threshold := 0, hyst := 0, notice := 0,
    armed := none, latch := none, tally := 0 }

/-- A partition without a snapshot buffer. -/
def SnapBuf.none : SnapBuf := { stride := 0, seq := 0, overruns := 0, chain := 0 }

/-- The Sampler with nothing configured. -/
def Sampler.start : Sampler :=
  { lines := [], acc := [], concs := [], counters := [], pending := [], sparesUsed := [], retired := [], repairs := 0,
    repairsBy := [], invalidBy := [], lineTally := [], sealedTally := [], gauges := [], cmps := [], snaps := [], quiesced := false }

/-- The Leaf's ledger with no record formed. -/
def LeafLedger.start : LeafLedger :=
  { retained := [], spilled := [], sink := 0, sinkMissed := 0, seq := 0, ackFrame := Option.none, carry := Option.none, unretained := 0,
    alerts := [], losses := [], own := [], issued := [] }

/-- The placement unit with no table: a Leaf is an orphan until it is adopted.  Of the constraint set before its first command
R134 gives a value to `STANDIN_MIN` alone; `SEED`, `SEPARATION` and `LOCATION` start at 0 and `NO_HOST` is empty (DESIGN CHOICE,
assumption 134). -/
def Place.start : Place :=
  { part := none, phase := .orphan, position := 0, parent := none, candidate := none, retryAt := 0, seed := 0,
    separation := 0, standinMin := 64, locations := [], noHost := [], drained := [],
    generation := 0, hosts := [], offers := [], chips := [], issued := [], issuedAt := 0, heardAt := [], sentAt := [], silent := [], liveSince := [], heardBy := [],
    redirected := false, transfers := [], hostSince := [], standinLost := 0 }

/-- Series, histograms, calendars and cohorts with nothing defined. -/
def Conf.start : Conf :=
  { series := [], tmpl := [], pendingDefs := [], quotas := [], doublings := 0, doublingsAll := 0, fitPeriod := 1000,
    seq := 0, restarts := 0, active := none, old := [], pending := none, armed := none, marks := [],
    strobes := [], dropFts := [], drops := 0, unknownFrame := 0, unknown := 0, invalidStrobes := 0, late := [],
    lastLate := [], jobs := [], rules := [], occs := [], wins := [], hists := [], shut := [], trayMembers := [], memberJob := [], heard := [],
    runs := [], judged := 0, unjudged := 0, missingSlots := 0, childSeq := [] }

/-- The tree engine with no image. -/
def Trees.start : Trees :=
  { slots := [], quotas := [], vecs := [], parts := [], scores := [], seq := [], headers := [], kept := [], requested := [], done := [],
    came := [], split := [], rivals := [], present := 0, skipped := 0, stretch := 0, doublings := 0, late := 0, missing := 0, mismatches := 0, lostRecords := 0 }

/-- The Arcade with no segment. -/
def Arcade.start : Arcade :=
  { deadPorts := [], segments := [], nextSeq := 0, lastPort := 7, holds := [], nextHold := 0, queries := [],
    queriesLost := 0, ops := [], waiting := [], nextTag := 0, staged := [], nextStaged := 0, errors := [], ingestFrame := 0,
    ingestLast := 0, firstFrame := 0, firstLast := 0, debt := 0, skipped := [],
    skippedTotal := 0 }

/-- The digest engine with no key. -/
def Digests.start : Digests :=
  { current := none, next := none, tables := [], streams := [], overruns := 0, overrunFrame := false, tableFull := 0,
    chkOk := 0, chkBad := 0, chkNone := 0, jobOk := [], jobBad := [], jobNone := [], retained := [], evicted := 0,
    evictFrame := false, outbox := [], seq := 0, suspects := [], idleNotices := 0, tallies := [], tallyFull := 0,
    tallySeq := [], shut := [], heldResults := [], verdicts := [] }

/-- In-field test with no package. -/
def Tests.start : Tests :=
  { pkgs := [], disabled := [], pairs := [], run := none, grants := [], overdue := 0, failures := [],
    timeouts := [], lastRun := [] }

/-- A trace source that is not configured. -/
def Source.idle : Source :=
  { config := 0, admitted := 0, ingestDrops := 0, cut := 0, discarded := 0, overruns := 0, excluded := [], lostPkts := 0,
    startDue := false, admitStart := false, lastCycle := 0, sinceSync := 0, gap := 0, openPkts := [], openSince := 0, bseq := 0 }

/-- The Trace compressor with no source. -/
def Trace.start : Trace :=
  { sources := [], fronts := [], turn := 0, grants := [], nextGrant := 0, staged := [] }

/-- A Roundabout class with nothing in any account. -/
def UplClass.zero : UplClass :=
  { rate := 0, cap := 0, quantum := 0, credit := 0, deficit := 0, added := 0, charged := 0, lent := 0, forfeited := 0,
    quanta := 0, sent := 0, returned := 0, f := 64, echoed := false }

/-- The scheduler at power-on with the shaper defaults of R343 and the fuse map's standing gate (R339). -/
def Uplink.start (fuse : FuseMap) : Uplink :=
  { classes :=
      [(1, { UplClass.zero with rate := if fuse.plaza then 750 else 1400, quantum := 262144 }),
       (2, { UplClass.zero with rate := if fuse.plaza then 250 else 500, quantum := 16384 }),
       (3, { UplClass.zero with rate := if fuse.plaza then 0 else 1000, quantum := 16384 }),
       (4, { UplClass.zero with rate := 100, quantum := 4096 })],
    pendingShapers := [], queues := [], adoption := [], control := [], ctlLeft := 0, cseq := [],
    standing := (fuse.gatePort, fuse.gateRate, fuse.gateSpace, fuse.gateLen), kerbMargin := 32, pendingStanding := none,
    gate := none, noReopenUntil := 0, u := 1, strideChanges := 0, seriesBytes := [], backlog := false, expanded := 0,
    byp := [], bypSent := 0, bypDiscarded := 0, marks := [], rseq := [], losses := [], discards := 0, assembly := [],
    lawCFailed := false }

/-- The buffer master with no chain. -/
def Buf.start : Buf := { chains := [], nextChain := 0, ops := [], waiting := [], nextId := 0, faults := 0, dropped := 0 }

/-- A chain with nothing in it. -/
def Chain.empty : Chain :=
  { ckind := 0, index := 0, partition := 0, cur := none, fill := 0, closing := none, held := [], queue := [], overruns := 0 }

/-- The dump unit with empty slots. -/
def Dumps.start : Dumps :=
  { slot0 := none, slot1 := none, seq := 0, lastAuto := none, suppressed := 0, pending := [], awaiting := [] }

/-- The TAP after test-logic reset: `IDCODE` selected; R425. -/
def Jtag.start : Jtag := { ir := 1, hold := false, refusedTests := 0, selftests := 0 }

/-- The block right after a power-on reset: PD00 powered, the time front in Unlocked, the boot ROM not yet run
(R411, R413, R438 steps 1 and 2).  The fuse map, straps and log are the surroundings' and the epoch before's: assumptions
1 and 2 name the values taken. -/
def State.reset : State :=
  { pending := [], fuse := FuseMap.blank, die := 0, time := TimeFront.start 1, grid := Grid.start, nv := NvLog.blank,
    fence := 0, sbi := SbiTarget.start, rst := ResetCtl.start, hrw := Hrw.start, stw := Steward.start,
    pwr := Power.start, smp := Sampler.start, led := LeafLedger.start, roles := [], place := Place.start,
    conf := Conf.start, tree := Trees.start, arc := Arcade.start, dig := Digests.start, test := Tests.start,
    trc := Trace.start, upl := Uplink.start FuseMap.blank, buf := Buf.start, dump := Dumps.start, jtag := Jtag.start,
    epoch := 0, exhausted := false, out := [], free := 0 }

end Sys2Proof.Machine
end

