-- ==== Sys2Proof/Machine/Operands.lean ====
section
/-!
DEFINITION. The operand forms: sparse tables, bit fields of register words and packed words, the items of a payload, who
an issuer is, the addresses and subject keys the manual builds, and the byte checks (CRC-8, message bytes).
-/

namespace Sys2Proof.Machine

/-! ## Sparse tables -/

/-- The entry of index `k`, `d` where none is listed. -/
def tget {α : Type} (d : α) (k : Nat) : Tab α → α
  | [] => d
  | (i, v) :: t => if i = k then v else tget d k t

/-- The table without index `k`. -/
def tdel {α : Type} (k : Nat) : Tab α → Tab α
  | [] => []
  | (i, v) :: t => if i = k then t else (i, v) :: tdel k t

/-- The table with `v` listed at index `k`, indices rising. -/
def tins {α : Type} (k : Nat) (v : α) : Tab α → Tab α
  | [] => [(k, v)]
  | (i, w) :: t => if k < i then (k, v) :: (i, w) :: t else if i = k then (k, v) :: t else (i, w) :: tins k v t

/-- The table with index `k` holding `v`; an entry equal to the default `d` is not listed. -/
def tput {α : Type} [DecidableEq α] (d : α) (k : Nat) (v : α) (t : Tab α) : Tab α :=
  if v = d then tdel k t else tins k v t

/-- The table with index `k` changed by `f`. -/
def tmod {α : Type} [DecidableEq α] (d : α) (k : Nat) (f : α → α) (t : Tab α) : Tab α :=
  tput d k (f (tget d k t)) t

/-- The table with what it lists at index `k` changed by `f`, which makes no entry the default. -/
def tupd {α : Type} (k : Nat) (f : α → α) (t : Tab α) : Tab α := t.map fun e => if e.1 = k then (e.1, f e.2) else e

/-- The sum of the listed entries. -/
def tsum (t : Tab Nat) : Nat := t.foldl (fun a p => a + p.2) 0

/-! ## Numbers and bits -/

/-- Counting up in 32 bits, saturating. -/
def satInc (n : Nat) : Nat := if n < 0xFFFFFFFF then n + 1 else n

/-- Division rounded up. -/
def ceilDiv (n d : Nat) : Nat := if d = 0 then 0 else (n + d - 1) / d

/-- Bits `hi` down to `lo` of a number. -/
def bits (n hi lo : Nat) : Nat := n / 2 ^ lo % 2 ^ (hi + 1 - lo)

/-- Bit `i` of a number. -/
def bitOf (n i : Nat) : Bool := n / 2 ^ i % 2 == 1

/-- 1 for true. -/
def bnat (b : Bool) : Nat := if b then 1 else 0

/-- A word with bit `i` set or cleared. -/
def putBit {w : Nat} (v : BitVec w) (i : Nat) (b : Bool) : BitVec w :=
  if b then v ||| BitVec.twoPow w i else v &&& ~~~ BitVec.twoPow w i

/-- The lowest eight of a list of addresses, ascending, each once (R125, R130). -/
def insertAsc (a : Nat) : List Nat → List Nat
  | [] => [a]
  | b :: t => if a < b then a :: b :: t else if a = b then b :: t else b :: insertAsc a t

/-- The union of two ascending lists, cut to eight. -/
def lowest8 (xs ys : List Nat) : List Nat := (xs.foldl (fun acc a => insertAsc a acc) ys).take 8

/-- A list with `x` once, at its end unless it is there already. -/
def addOnce {α : Type} [DecidableEq α] (x : α) (l : List α) : List α := if x ∈ l then l else l ++ [x]

/-- The least of a nonempty list, `d` for none. -/
def listMin (d : Nat) : List Nat → Nat
  | [] => d
  | a :: t => t.foldl min a

/-- The greatest of a list, 0 for none. -/
def listMax (l : List Nat) : Nat := l.foldl max 0

/-- A number read as two's complement in `w` bits. -/
def toSigned (w n : Nat) : Int := if n % 2 ^ w < 2 ^ (w - 1) then (n % 2 ^ w : Nat) else (n % 2 ^ w : Nat) - (2 ^ w : Nat)

/-- An integer held in `w` bits, two's complement. -/
def toField (w : Nat) (i : Int) : Nat := (i % (2 ^ w : Nat)).toNat

/-- An integer clamped to signed `w` bits. -/
def clampS (w : Nat) (i : Int) : Int := max (-(2 ^ (w - 1) : Nat)) (min i ((2 ^ (w - 1) : Nat) - 1))

/-! ## Checks over bytes -/

/-- One bit step of CRC-8, polynomial 0x07. -/
def crc8Bit (c : BitVec 8) : BitVec 8 := if c.getLsbD 7 then (c <<< 1) ^^^ 0x07#8 else c <<< 1

/-- CRC-8 of bytes, initial value 0 (R26, R364). -/
def crc8 (bytes : List Byte) : BitVec 8 :=
  bytes.foldl (fun c b => crc8Bit (crc8Bit (crc8Bit (crc8Bit (crc8Bit (crc8Bit (crc8Bit (crc8Bit (c ^^^ b))))))))) 0

/-- One bit step of CRC-32C, reflected polynomial 0x82F6_3B78. -/
def crc32Bit (c : Word32) : Word32 := if c.getLsbD 0 then (c >>> 1) ^^^ 0x82F63B78#32 else c >>> 1

/-- CRC-32C of bytes (R299; the Castagnoli check with its usual initial and final values: PRESUMED, assumption 9). -/
def crc32c (bytes : List Byte) : Word32 :=
  ~~~ (bytes.foldl (fun c b =>
    crc32Bit (crc32Bit (crc32Bit (crc32Bit (crc32Bit (crc32Bit (crc32Bit (crc32Bit (c ^^^ b.zeroExtend 32)))))))))
    0xFFFFFFFF#32)

/-- The host-ranking hash of seed, role, replica and tray (R143). -/
def hostRank (seed role replica tray : Nat) : Nat := (crc32c (Config.rankBytes seed role replica tray)).toNat

/-- The `k` bytes of a number, little-endian. -/
def bytesOf (n : Nat) : Nat → List Byte
  | 0 => []
  | k + 1 => BitVec.ofNat 8 n :: bytesOf (n / 256) k

/-- The number that little-endian bytes spell. -/
def numOf : List Byte → Nat
  | [] => 0
  | b :: t => b.toNat + 256 * numOf t

/-- `FT_VALUE` of a time word (R26). -/
def wordFt (w : BitVec 72) : Nat := w.toNat % 2 ^ 64

/-- `FT_CRC` of a time word passes (R26, R27). -/
def wordOk (w : BitVec 72) : Bool := crc8 (bytesOf (wordFt w) 8) == BitVec.ofNat 8 (w.toNat / 2 ^ 64)

/-! ## Payload items (R388) -/

def f8 (off v : Nat) : Fld := ⟨off, 8, v⟩
def f16 (off v : Nat) : Fld := ⟨off, 16, v⟩
def f32 (off v : Nat) : Fld := ⟨off, 32, v⟩
def f64 (off v : Nat) : Fld := ⟨off, 64, v⟩

/-! ## Issuers (R358, R388) -/

/-- The letter of the Issuer column a class falls under: 0 to 3 P, 4 S, 5 T, 6 Q. -/
def issuerClass : Issuer → Nat
  | .pm n => n
  | .sideband => 4
  | .tenant _ _ _ => 5
  | .relay c _ => c
  | .role _ _ => 6

/-- The partition stamped with a request. -/
def issuerPart : Issuer → Nat
  | .tenant p _ _ => p
  | .relay _ p => p
  | _ => 0

def isTenant (i : Issuer) : Bool := issuerClass i == 5

/-- The request is a relayed copy (R374, R394). -/
def isCopy : Issuer → Bool
  | .relay _ _ => true
  | _ => false

/-- The Issuer column of a command. -/
structure Allow where
  p : Bool := true
  s : Bool := false
  t : Bool := false
  q : Bool := false
deriving DecidableEq, Repr

/-- The column permits the class. -/
def Allow.permits (a : Allow) (cls : Nat) : Bool :=
  if cls < 4 then a.p else if cls == 4 then a.s else if cls == 5 then a.t else if cls == 6 then a.q else false

/-- Which configuration a command is marked for (R389). -/
inductive OnlyAt where
  | both
  | leaf
  | plaza
deriving DecidableEq, Repr

/-- A row of the command tables: code, Issuer column, relay mark, configuration (chapter 14). -/
structure Cmd where
  code : Nat
  allow : Allow
  relayable : Bool := false
  only : OnlyAt := .both
  /-- Contents of the input buffer that go down with a relayed command; R393. -/
  attachment : List Byte := []
deriving DecidableEq, Repr

/-- What the command's own part answers: status, payload, and the work a Deferred command leaves in progress. -/
structure Reply where
  status : Nat
  payload : List Fld := []
  bytes : List Byte := []
  work : Option Work := none
  /-- Issuer to answer, where the request itself has made the session. -/
  who : Option Issuer := none
  /-- What happens after the response. -/
  after : State → State := fun s => s

/-- A rejection with a status and nothing else. -/
def rejectWith (st : Nat) : Reply := { status := st }

/-- `OK` with a payload. -/
def okWith (p : List Fld) : Reply := { status := Config.ok, payload := p }

/-- `ACCEPTED` with work in progress. -/
def acceptWith (w : Work) : Reply := { status := Config.accepted, work := some w }

/-! ## Addresses and subject keys (R3, R102, R126) -/

/-- Tray of a die address. -/
def trayOf (die : Nat) : Nat := die / 256 % 1024

/-- Slot of a die address. -/
def slotOf (die : Nat) : Nat := die % 256

/-- Quarter of a tray (R4): 32 trays to a Quarter. -/
def quarterOf (tray : Nat) : Nat := tray / 32

/-- `SOURCE` of the Plaza role of a tray. -/
def plazaSource (tray : Nat) : Nat := 0x40000000 + tray

/-- `SOURCE` of a Quarter role. -/
def quarterSource (q : Nat) : Nat := 0x80000000 + q

/-- `SOURCE` of the Forum role. -/
def forumSource : Nat := 0xC0000000

/-- Kind bits of a `SOURCE`: 0 Leaf, 1 Plaza, 2 Quarter, 3 Forum. -/
def sourceKind (src : Nat) : Nat := src / 2 ^ 30

/-- Number below the kind bits. -/
def sourceNum (src : Nat) : Nat := src % 2 ^ 30

/-- Kind 0x01, a die. -/
def dieKey (die : Nat) : Nat := 0x01 * 2 ^ 56 + die

/-- Kind 0x02, a fabric link; the lower address comes first. -/
def linkKey (a pa b pb : Nat) : Nat :=
  let (lo, plo, hi, phi) := if a ≤ b then (a, pa, b, pb) else (b, pb, a, pa)
  0x02 * 2 ^ 56 + lo + plo * 2 ^ 18 + hi * 2 ^ 22 + phi * 2 ^ 40

/-- Kind 0x03, a compute unit by its fence line. -/
def unitKey (die line : Nat) : Nat := 0x03 * 2 ^ 56 + die + line * 2 ^ 18

/-- Kind 0x04, an engine by its power domain; the manual gives no code for a bank group above domain 15 in the 4 bits. -/
def engineKey (die domain : Nat) : Nat :=
  0x04 * 2 ^ 56 + die + (if domain < 16 then domain else Config.domainCode domain % 16) * 2 ^ 18

/-- Kind 0x05, a tier role. -/
def roleKey (tier num : Nat) : Nat := 0x05 * 2 ^ 56 + tier + num * 4

/-- Kind 0x06, the time input. -/
def timeKey (die : Nat) : Nat := 0x06 * 2 ^ 56 + die

end Sys2Proof.Machine
end

