-- ==== Sys2Proof/Machine/BlockCode.lean ====
section
/-!
DEFINITION. The fixed-ratio block coder and decoder (R317 to R322).
-/

namespace Sys2Proof.Machine

/-! ## Lanes (R314, R318) -/

/-- The 32-bit little-endian lanes of bytes, the last one padded with zero bytes. -/
def lanesOf : List Byte → List Word32
  | [] => []
  | a :: b :: c :: d :: t => (d ++ c ++ b ++ a) :: lanesOf t
  | [a, b, c] => [0#8 ++ c ++ b ++ a]
  | [a, b] => [0#8 ++ 0#8 ++ b ++ a]
  | [a] => [0#8 ++ 0#8 ++ 0#8 ++ a]

/-- Zigzag on 32 bits (R320). -/
def zigzag (d : Word32) : Word32 := (d <<< 1) ^^^ d.sshiftRight 31

/-- Its inverse (R319). -/
def unzigzag (z : Word32) : Word32 := (z >>> 1) ^^^ (0#32 - (z &&& 1#32))

/-- Bits of a number, 0 for 0. -/
def bitLen (n : Nat) : Nat := if n = 0 then 0 else Nat.log2 n + 1

/-- The lane `i` of a list, 0 past its end. -/
def lane (y : List Word32) (i : Nat) : Word32 := y.getD i 0#32

/-- z of lane `i` under stride `s`. -/
def zAt (y : List Word32) (s i : Nat) : Word32 := zigzag (lane y i - (if s = 0 then 0#32 else lane y (i - s)))

/-- Lanes of group `g` past the head. -/
def groupLanes (s m g : Nat) : List Nat := (List.range m).filter fun i => s ≤ i && i % 8 == g

/-- k of a group: bits of its largest z. -/
def groupWidth (y : List Word32) (s m g : Nat) : Nat := bitLen (listMax ((groupLanes s m g).map fun i => (zAt y s i).toNat))

/-- The eight widths under a stride. -/
def widthsOf (y : List Word32) (s m : Nat) : List Nat := (List.range 8).map (groupWidth y s m)

/-- Payload bits under a stride (R320). -/
def costOf (y : List Word32) (s m : Nat) : Nat :=
  32 * s + (List.range 8).foldl (fun n g => n + groupWidth y s m g * (groupLanes s m g).length) 0

/-- The stride of the least cost, the first of several (R320). -/
def bestStride (y : List Word32) (m : Nat) : Nat :=
  [1, 2, 4].foldl (fun b s => if costOf y s m < costOf y b m then s else b) 0

/-- Capacity in bits of a block size. -/
def capacityOf (size : Nat) : Nat := if size = 64 then 384 else if size = 128 then 896 else 0

/-- How a stream is coded (R317). -/
structure CodeStyle where
  sizes : List Nat
  /-- The size that may be inexact, 0 for none. -/
  inexactSize : Nat
  uncoded : Bool
  /-- Unit in bytes. -/
  unit : Nat
  truncatable : Nat → Bool

/-- A trace source's blocks. -/
def traceStyle (size : Nat) : CodeStyle :=
  { sizes := [size], inexactSize := size, uncoded := false, unit := 16, truncatable := fun i => i % 8 == 2 || i % 8 == 6 }

/-- A record's block, truncatable or not. -/
def recordStyle (trunc : Bool) : CodeStyle :=
  if trunc then
    { sizes := [64, 128], inexactSize := 128, uncoded := false, unit := 8, truncatable := fun i => i % 2 == 1 }
  else { sizes := [64, 128], inexactSize := 0, uncoded := true, unit := 8, truncatable := fun _ => false }

/-- y: the truncatable lanes shifted right by t (R320). -/
def shiftLanes (st : CodeStyle) (t : Nat) (x : List Word32) : List Word32 :=
  x.zipIdx.map fun p => if st.truncatable p.2 then BitVec.ushiftRight p.1 t else p.1

/-- The size and t tried, in order (R320). -/
def attempts (st : CodeStyle) : List (Nat × Nat) :=
  st.sizes.flatMap fun z => if z = st.inexactSize then (List.range 33).map fun t => (z, t) else [(z, 0)]

/-- The least cost of a block of `n` bytes at t. -/
def leastCost (st : CodeStyle) (x : List Word32) (n t : Nat) : Nat :=
  let y := shiftLanes st t x
  costOf y (bestStride y (ceilDiv n 4)) (ceilDiv n 4)

/-- The lowest `k` bits of a number, least significant first. -/
def bitsOf (k n : Nat) : List Bool := (List.range k).map fun i => n.testBit i

/-- The number that bits spell, least significant first. -/
def numOfBits : List Bool → Nat
  | [] => 0
  | b :: t => bnat b + 2 * numOfBits t

/-- The payload bits of a coded block (R319). -/
def payloadOf (y : List Word32) (s m : Nat) : List Bool :=
  ((List.range s).flatMap fun i => bitsOf 32 (lane y i).toNat)
    ++ (List.range 8).flatMap fun g =>
        (groupLanes s m g).flatMap fun i => bitsOf (groupWidth y s m g) (zAt y s i).toNat

/-- A coded block. -/
def codedBlock (st : CodeStyle) (x : List Word32) (n size t cut : Nat) (flushed : Bool) (bseq : Nat) : Block :=
  let y := shiftLanes st t x
  let m := ceilDiv n 4
  let s := bestStride y m
  let p := payloadOf y s m
  { size := size, inexact := t != 0 || cut != 0, flushed := flushed, cut := cut != 0, stride := s, inLen := n - 1,
    bseq := bseq % 65536, trunc := t, widths := widthsOf y s m, cutUnits := cut,
    payload := p ++ List.replicate (capacityOf size - p.length) false }

/-- An uncoded block. -/
def rawBlock (x : List Word32) (n : Nat) (flushed : Bool) (bseq : Nat) : Block :=
  { size := 272, inexact := false, flushed := flushed, cut := false, stride := 0, inLen := n - 1, bseq := bseq % 65536,
    trunc := 0, widths := List.replicate 8 0, cutUnits := 0,
    payload := (List.range 64).flatMap fun i => bitsOf 32 (lane x i).toNat }

/-- Whole units dropped from the end until the block fits at t = 32: bytes kept and units dropped (R320). -/
def cutTo (st : CodeStyle) (x : List Word32) (size : Nat) : Nat → Nat → Nat × Nat → Nat × Nat
  | 0, _, r => r
  | fuel + 1, n, (_, k) =>
    if leastCost st x n 32 ≤ capacityOf size then (n, k) else cutTo st x size fuel (n - st.unit) (n - st.unit, k + 1)

/-- Lanes past the input hold 0. -/
def padLanes (x : List Word32) (n : Nat) : List Word32 :=
  (List.range 64).map fun i => if i < ceilDiv n 4 then lane x i else 0#32

/-- The coder (R320): `bytes` is the input, at most 256 bytes. -/
def codeBlock (st : CodeStyle) (bytes : List Byte) (flushed : Bool) (bseq : Nat) : Block :=
  let n := bytes.length
  let x := padLanes (lanesOf bytes) n
  match (attempts st).find? fun a => leastCost st x n a.2 ≤ capacityOf a.1 with
  | some (size, t) => codedBlock st x n size t 0 flushed bseq
  | none =>
    if st.uncoded then rawBlock x n flushed bseq
    else
      let (n', k) := cutTo st x st.inexactSize 32 n (n, 0)
      codedBlock st (padLanes x n') n' st.inexactSize 32 k flushed bseq

/-! ## The bytes of a block, and where one begins (R318, R326) -/

/-- `SIZE` and `STRIDE` as `BFLAGS` codes them. -/
def sizeCode (size : Nat) : Nat := if size = 64 then 0 else if size = 128 then 1 else 2
def strideCode (s : Nat) : Nat := if s = 4 then 3 else s

/-- Bits in bytes, the least significant first. -/
def packBits : Nat → List Bool → List Byte
  | 0, _ => []
  | n + 1, l => BitVec.ofNat 8 (numOfBits (l.take 8)) :: packBits n (l.drop 8)

/-- The bytes of a block: 16 of header and the payload (R318). -/
def blockBytes (b : Block) : List Byte :=
  let flags := sizeCode b.size + 4 * bnat b.inexact + 8 * bnat b.flushed + 16 * strideCode b.stride + 64 * bnat b.cut
  let head := bytesOf 0xA5C3 2 ++ bytesOf flags 1 ++ bytesOf b.inLen 1 ++ bytesOf b.bseq 2 ++ bytesOf b.trunc 1
  let mid := packBits 6 (b.widths.flatMap (bitsOf 6)) ++ bytesOf b.cutUnits 1
  let load := packBits (b.size - 16) b.payload
  head ++ [crc8 head] ++ mid ++ [crc8 (mid ++ load)] ++ load

/-- The size and the `BSEQ` of a block whose header stands at the head of some bytes: `SYNC`, a passing `HCHK` and a `SIZE` other
than 0b11 (R326). -/
def blockHeader (l : List Byte) : Option (Nat × Nat) :=
  match l with
  | b0 :: b1 :: b2 :: b3 :: b4 :: b5 :: b6 :: b7 :: _ =>
    let size := b2.toNat % 4
    if b0 = 0xC3#8 ∧ b1 = 0xA5#8 ∧ crc8 [b0, b1, b2, b3, b4, b5, b6] = b7 ∧ size ≠ 3 then
      some (if size = 0 then 64 else if size = 1 then 128 else 272, b4.toNat + 256 * b5.toNat)
    else none
  | _ => none

/-- A reader may declare alignment at the head of some bytes: three headers one behind the other, whose `BSEQ` rises by one at
each step (R326). -/
def alignedHere (l : List Byte) : Bool :=
  match blockHeader l with
  | none => false
  | some (z, n) =>
    match blockHeader (l.drop z) with
    | none => false
    | some (z', n') =>
      match blockHeader (l.drop (z + z')) with
      | none => false
      | some (_, n'') => n' == (n + 1) % 65536 && n'' == (n' + 1) % 65536

/-- The offset, in steps of 16 bytes, at which a reader that has lost its place declares alignment (R326). -/
def alignAt (l : List Byte) : Option Nat :=
  ((List.range (ceilDiv l.length 16)).map (16 * ·)).find? fun x => alignedHere (l.drop x)

/-! ## The decoder (R319) -/

/-- Where in the payload the z of each lane stands: lane, offset, width. -/
def zPlaces (b : Block) (m : Nat) : List (Nat × Nat × Nat) :=
  ((List.range 8).flatMap fun g => (groupLanes b.stride m g).map fun i => (i, b.widths.getD g 0)).foldl
    (fun (acc : List (Nat × Nat × Nat) × Nat) p => (acc.1 ++ [(p.1, acc.2, p.2)], acc.2 + p.2)) ([], 32 * b.stride) |>.1

/-- The z of a lane as the payload holds it. -/
def readZ (b : Block) (m i : Nat) : Word32 :=
  match (zPlaces b m).find? fun p => p.1 == i with
  | none => 0#32
  | some (_, off, k) => BitVec.ofNat 32 (numOfBits ((b.payload.drop off).take k))

/-- The lanes y_0 to y_{m-1} of a coded block, in order. -/
def readLanes (b : Block) (m : Nat) : List Word32 :=
  (List.range m).foldl (fun y i =>
    y ++ [if i < b.stride then BitVec.ofNat 32 (numOfBits ((b.payload.drop (32 * i)).take 32))
          else unzigzag (readZ b m i) + (if b.stride = 0 then 0#32 else lane y (i - b.stride))]) []

/-- The 64 lanes a block decodes to. -/
def decodeBlock (st : CodeStyle) (b : Block) : List Word32 :=
  let m := ceilDiv (b.inLen + 1) 4
  if b.size = 272 then
    (List.range 64).map fun i => BitVec.ofNat 32 (numOfBits ((b.payload.drop (32 * i)).take 32))
  else
    let y := readLanes b m
    (List.range 64).map fun i =>
      if m ≤ i then 0#32
      else if b.inexact && st.truncatable i then lane y i <<< b.trunc else lane y i

/-! ## A record's blocks (R317, R322, R332) -/

/-- Bytes in runs of 256. -/
def chunks256 : Nat → List Byte → List (List Byte)
  | 0, _ => []
  | fuel + 1, l => if l.isEmpty then [] else l.take 256 :: chunks256 fuel (l.drop 256)

/-- The blocks of a record whose bytes `lo` to `hi` are truncatable. -/
def recordBlocks (bytes : List Byte) (lo hi : Nat) : List Block :=
  (chunks256 (ceilDiv bytes.length 256) bytes).zipIdx.map fun p =>
    codeBlock (recordStyle (lo ≤ 256 * p.2 && 256 * p.2 + p.1.length ≤ hi)) p.1 (p.1.length < 256) p.2

end Sys2Proof.Machine
end

