-- ==== Sys2Proof/Machine/Flags.lean ====
section
/-!
DEFINITION. The status words and flags that the block computes from its state: the status registers of the host register
window (R413), the time-quality field (R43), and whether an engine answers.
-/

namespace Sys2Proof.Machine

/-- ft is valid: Locked or Holdover (R31). -/
def timeValid (s : State) : Bool := s.time.state == .locked || s.time.state == .holdover

/-- Code of a time-front state in `BLK_STS` and `TIME_STATUS`. -/
def tfCode : TfState → Nat
  | .unlocked => 0
  | .locked => 1
  | .holdover => 2
  | .lost => 3

/-- A counter has joined the Cul-de-sac: its index is retired, or it stays bound and void (R75). -/
def countersOut (s : State) : Bool := !s.smp.retired.isEmpty || s.smp.counters.any fun e => e.2.dead

/-- The Cul-de-sac, counters included, is not empty (R301, R367). -/
def capacityReduced (s : State) : Bool := !s.pwr.culDeSac.isEmpty || countersOut s

/-- `BLK_STS` (R413). -/
def blkSts (s : State) : Nat :=
  (match s.stw.running with
    | none => 0
    | some _ => if s.stw.trialEnd.isSome then 2 else 1)
  + 4 * tfCode s.time.state + 16 * bnat s.pwr.parked + 32 * bnat s.grid.frame.isSome
  + 64 * bnat (capacityReduced s) + 128 * bnat s.exhausted + 256 * bnat (!s.fuse.crcOk)

/-- `PMn_STS` (R360, R413). -/
def pmSts (p : PmSlot) : Nat :=
  bnat p.busy + 2 * bnat p.done + 4 * bnat (p.held.length ≥ 32) + 256 * p.held.length

/-- The power domain that holds a Cul-de-sac resource, by the kinds of R285 and R299: bank group, tree lane, digest pipe,
backscan engine, concentrator, `MEM` port. -/
def cdsDomain (rkind index : Nat) : Nat :=
  match rkind with
  | 2 => 14 + index
  | 3 => 7
  | 4 => 8
  | 5 => 11
  | 6 => 2
  | 7 => 13
  | _ => 0

/-- Resources of a kind that the Cul-de-sac holds. -/
def deadCount (rkind : Nat) (s : State) : Nat := (s.pwr.culDeSac.filter fun r => r.1 == rkind).length

/-- `PD_CDS` (R413). -/
def pdCds (s : State) : Word32 := 
  s.pwr.culDeSac.foldl (fun w r => putBit w (cdsDomain r.1 r.2) true) (if countersOut s then 4 else 0)

/-- `ALERT_N` is driven low (R410, R411, R424, R445). -/
def alertLow (s : State) : Bool :=
  if !s.fuse.crcOk then true
  else if s.rst.active || s.stw.running.isNone then s.fuse.alertRst
  else !s.sbi.alerts.isEmpty

/-- `WAKE_REQ[31:0]` as driven (R411, R445). -/
def wakeReqOut (s : State) : Word32 :=
  if s.rst.active || s.stw.running.isNone then s.fuse.xreqRst
  else if s.pwr.parked && s.pwr.waking.isNone then 0
  else s.pwr.wakeReq

/-- An engine quiesces for its own reset or switch-off: its station answers absent (R444).  One that quiesces on its regions
alone works on (R17). -/
def goesDown (q : Nat × QuiesceFor × Nat) : Bool :=
  match q.2.1 with
  | .move _ => false
  | _ => true

/-- The engine of domain `d` works: powered, out of reset, not isolated, not quiescing, the block not Parked (R22, R431). -/
def engineUp (d : Nat) (s : State) : Bool :=
  s.pwr.on.getLsbD d && !s.pwr.inReset.getLsbD d && !s.pwr.isolated.contains d && !s.pwr.parked
    && !s.rst.active && !s.jtag.hold && !(s.pwr.quiescing.any fun q => q.1 == d && goesDown q)

/-- The domain never powered in this configuration: the backscan engines at a Leaf, the Sampler at a Plaza (R14, R432). -/
def neverPowered (d : Nat) (s : State) : Bool := if s.fuse.plaza then d == 2 else d == 11

/-- The size at which a Leaf's region is placed, KiB (R16). -/
def placedKib : RegionName → Nat
  | .steward => 192
  | .dumps => 256
  | .calendars => 512
  | .packages => 256
  | .snapshots => 512
  | .digests => 192
  | .markers => 64
  | .features => 64
  | .series => 2048
  | .nodes => 1024
  | .retention => 2048
  | .staging => 768
  | .queues => 256

/-- The size of a Leaf's region, KiB; as the table gives while the Steward has placed none (R16). -/
def regionKib (n : RegionName) (s : State) : Nat :=
  match s.stw.regions.find? fun r => r.name == n with
  | some r => r.kib
  | none => placedKib n

/-- How the block names one replica of a tier role: its `SOURCE`, plus 256 for each replica number.  The fabric's own header
tells replicas apart; the name stands in no field of R102 (DESIGN CHOICE, assumption 4). -/
def replicaKey (src replica : Nat) : Nat := if sourceKind src < 2 then src else src + 256 * replica

/-- The `SOURCE` of such a name, and its replica. -/
def plainSource (key : Nat) : Nat := if sourceKind key < 2 then key else key - 256 * (sourceNum key / 256 % 8)
def replicaIn (key : Nat) : Nat := if sourceKind key < 2 then 0 else sourceNum key / 256 % 8

/-- The Steward serves mailboxes (R380, R435, R438). -/
def stewardUp (s : State) : Bool :=
  s.stw.serving && !s.pwr.parked && !s.rst.active && !s.jtag.hold

/-- `SOURCE` of the block itself: its die address, or its chip's Plaza role. -/
def selfSource (s : State) : Nat := if s.fuse.plaza then plazaSource (trayOf s.die) else s.die

/-- `TIER` of a report raised by the block itself (R125). -/
def selfTier (s : State) : Nat := if s.fuse.plaza then 1 else 0

/-- `MODE` of the time-quality field (R37, R43). -/
def qualityMode (s : State) : Nat := if timeValid s then s.time.mode else 0

/-- The time-quality field: `MODE` with the flags gathered for a frame (R43). -/
def timeQuality (flags : BitVec 8) (s : State) : BitVec 8 :=
  (flags &&& 0xFC#8) ||| BitVec.ofNat 8 (qualityMode s)

/-- Merged time quality: flag bits OR, `MODE` 0b10 if any input is 0b10 (R43). -/
def mergeQuality (a b : BitVec 8) : BitVec 8 :=
  let mode (x : BitVec 8) : Nat := x.toNat % 4
  let m := if mode a = 2 ∨ mode b = 2 then 2 else max (mode a) (mode b)
  ((a ||| b) &&& 0xFC#8) ||| BitVec.ofNat 8 m

/-- Length of a frame in ns. -/
def frameNs (s : State) : Nat := s.grid.period * 1000

/-- The frame number of an instant at the present period (R38). -/
def frameAt (ft : Nat) (s : State) : Nat := ft / frameNs s

/-- The report window of an instant (R125). -/
def windowAt (ft : Nat) (s : State) : Nat := frameAt ft s / 2

/-- The frame number that `TIME_STATUS` gives. -/
def currentFrame (s : State) : Nat :=
  match s.grid.frame with
  | some f => f.frame
  | none => frameAt s.time.ft s

/-- The first frame that begins after now: when a configuration change takes effect (R67, R390). -/
def nextFrame (s : State) : Nat :=
  match s.grid.frame with
  | some f => f.frame + 1
  | none => frameAt s.time.ft s + 1

/-- ft at which the next frame begins: the open frame's end, or the first boundary after now. -/
def nextOpenFt (s : State) : Nat :=
  match s.grid.frame with
  | some f => (f.frame + 1) * f.period * 1000
  | none => (frameAt s.time.ft s + 1) * frameNs s

/-- The number of the frame that opens at an instant to come, under the period that is in effect by then (R45). -/
def numberAt (ft : Nat) (s : State) : Nat :=
  match s.grid.pending with
  | some (p, e) => if e ≤ ft then ft / (p * 1000) else frameAt ft s
  | none => frameAt ft s

/-- A frame number of the present grid as a response gives it: in the new period's numbers from the effect of a pending
change on (R45). -/
def shownFrame (n : Nat) (s : State) : Nat := numberAt (n * frameNs s) s

/-- The start of the next occurrence of an offset at or after an instant, under a calendar; `STEPS` bounds the markers
alone (R186, R288, R337; assumption 18). -/
def nextStart (cal : Calendar) (offset t : Nat) : Option Nat :=
  let base := cal.anchor + offset
  if cal.image.step = 0 then none
  else if t ≤ base then some base
  else some (base + ceilDiv (t - base) cal.image.step * cal.image.step)

/-- The occurrence of a span that holds an instant: its start. -/
def openStart (cal : Calendar) (offset len t : Nat) : Option Nat :=
  let base := cal.anchor + offset
  if t < base ∨ cal.image.step = 0 then none
  else
    let st := base + (t - base) / cal.image.step * cal.image.step
    if t < st + len then some st else none

/-- A die lies in the scope of a relayed command (R392). -/
def dieInScope (die : Nat) : Scope → Bool
  | .fleet => true
  | .quarter q => quarterOf (trayOf die) == q
  | .tray t => trayOf die == t
  | .die d => die == d
  | .other _ => false

/-- The block is in scope. -/
def selfInScope (sc : Scope) (s : State) : Bool := dieInScope s.die sc

/-- A child's subtree may hold a block in scope (R392).  A Quarter's Plazas may each hold a foreign Leaf of a scoped tray,
so a tray or die scope reaches every one of them (DEDUCED, assumption 3). -/
def childInScope (src : Nat) (sc : Scope) : Bool :=
  match sourceKind src, sc with
  | _, .fleet => true
  | _, .other _ => false
  | 0, _ => dieInScope src sc
  | 1, .quarter q => quarterOf (sourceNum src) == q
  | 1, .tray _ => true
  | 1, .die _ => true
  | 2, .quarter q => sourceNum src == q
  | 2, .tray t => sourceNum src == quarterOf t
  | 2, .die d => sourceNum src == quarterOf (trayOf d)
  | _, _ => false

/-- The highest tier that the chip hosts, 0 for a Leaf (R375). -/
def topTier (s : State) : Nat :=
  s.roles.foldl (fun n r => max n (match r.kind with | .plaza => 1 | .quarter => 2 | .forum => 3)) (if s.fuse.plaza then 1 else 0)

/-- Every child of the chip's roles, each once. -/
def allChildren (s : State) : List Nat :=
  s.roles.foldl (fun acc r => r.children.foldl (fun a c => addOnce c.source a) acc) []

/-- The hosted role of a kind. -/
def findRole (k : RoleKind) (s : State) : Option Role := s.roles.find? (fun r => r.kind == k)

/-- The state with the role of a kind changed. -/
def modRole (k : RoleKind) (f : Role → Role) (s : State) : State :=
  { s with roles := s.roles.map fun r => if r.kind = k then f r else r }

end Sys2Proof.Machine
end

