-- ==== Sys2Proof/Machine/Ops.lean ====
section
/-!
DEFINITION. The named operations that every command's meaning is built from: outputs and free values, the passage of
time, interrupts, the non-volatile queue, fault reports, notices, responses, and the buffer master.
-/

namespace Sys2Proof.Machine

/-- A command's effect on a block whose PD00 is powered; without `VDD_AON` nothing happens (R410, R430). -/
def run (f : State → State) (s : State) : Host.Outcome State Fault Refusal :=
  .next (if s.rst.aonOk then f s else s)

/-- `f` where a condition holds, no change elsewhere. -/
def when (b : Bool) (f : State → State) (s : State) : State := if b then f s else s

/-- `f` once for each element of a list, in order. -/
def forEach {α : Type} (l : List α) (f : α → State → State) (s : State) : State := l.foldl (fun st a => f a st) s

/-- The block puts something on a port. -/
def emit (o : Out) (s : State) : State := { s with out := s.out ++ [o] }

/-! ## One subsystem changed -/

def onTime (f : TimeFront → TimeFront) (s : State) : State := { s with time := f s.time }
def onGrid (f : Grid → Grid) (s : State) : State := { s with grid := f s.grid }
def onNv (f : NvLog → NvLog) (s : State) : State := { s with nv := f s.nv }
def onSbi (f : SbiTarget → SbiTarget) (s : State) : State := { s with sbi := f s.sbi }
def onRst (f : ResetCtl → ResetCtl) (s : State) : State := { s with rst := f s.rst }
def onHrw (f : Hrw → Hrw) (s : State) : State := { s with hrw := f s.hrw }
def onStw (f : Steward → Steward) (s : State) : State := { s with stw := f s.stw }
def onPwr (f : Power → Power) (s : State) : State := { s with pwr := f s.pwr }
def onSmp (f : Sampler → Sampler) (s : State) : State := { s with smp := f s.smp }
def onLed (f : LeafLedger → LeafLedger) (s : State) : State := { s with led := f s.led }
def onPlace (f : Place → Place) (s : State) : State := { s with place := f s.place }
def onConf (f : Conf → Conf) (s : State) : State := { s with conf := f s.conf }
def onTree (f : Trees → Trees) (s : State) : State := { s with tree := f s.tree }
def onArc (f : Arcade → Arcade) (s : State) : State := { s with arc := f s.arc }
def onDig (f : Digests → Digests) (s : State) : State := { s with dig := f s.dig }
def onTest (f : Tests → Tests) (s : State) : State := { s with test := f s.test }
def onTrc (f : Trace → Trace) (s : State) : State := { s with trc := f s.trc }
def onUpl (f : Uplink → Uplink) (s : State) : State := { s with upl := f s.upl }
def onBuf (f : Buf → Buf) (s : State) : State := { s with buf := f s.buf }
def onDump (f : Dumps → Dumps) (s : State) : State := { s with dump := f s.dump }
def onJtag (f : Jtag → Jtag) (s : State) : State := { s with jtag := f s.jtag }

/-! ## Absent responses (R22) -/

/-- The station of domain `d` answers a transfer of domain `req` absent: the data is discarded and the response counted, once
until the Steward reports `d` up, for the requester does not try again before (R22). -/
def absentAt (req d : Nat) (s : State) : State :=
  if (req, d) ∈ s.pwr.noRetry then s
  else onPwr (fun p => { p with absent := tmod 0 d (· + 1) p.absent, noRetry := p.noRetry ++ [(req, d)] }) s

/-- The Steward reports domain `d` up, and requesters turn to it again (R22). -/
def reportUp (d : Nat) (s : State) : State :=
  onPwr (fun p => { p with noRetry := p.noRetry.filter fun x => x.2 != d }) s

/-- A transfer of domain `req` reaches the engine of domain `d`, or meets with an absent response (R22). -/
def toEngine (req d : Nat) (f : State → State) (s : State) : State := if engineUp d s then f s else absentAt req d s

/-- A fresh free value: the draw and the state that has drawn it. -/
def draw (s : State) : Nat × State := (Config.fresh s.free, { s with free := s.free + 1 })

/-! ## Time (R26 to R28, R478) -/

/-- The time front through `e` edges of its running reference clock: the count advances 4 ns an edge, less what is held,
with the slew of R28, while ft is valid; the timers of R478 run beside it. -/
def TimeFront.edges (t : TimeFront) (e : Nat) : TimeFront :=
  let ns := 4 * e
  if t.state = .locked ∨ t.state = .holdover then
    let held := min t.hold ns
    let n := (ns - held) / 4
    let used := min t.slew.natAbs n
    let units := if t.slew ≥ 0 then t.frac + 2000 * n + used else t.frac + 2000 * n - used
    { t with
      ft := t.ft + units / 500, frac := units % 500, hold := t.hold - held,
      slew := if t.slew ≥ 0 then t.slew - used else t.slew + used,
      refNs := t.refNs + ns, osc := t.osc + ns, timer := t.timer + units / 500, live := t.live + units / 500,
      nsOutside := if t.state = .locked then t.nsOutside else t.nsOutside + ns }
  else
    { t with refNs := t.refNs + ns, osc := t.osc + ns, timer := t.timer + ns, nsOutside := t.nsOutside + ns }

/-- The time front through `n` ns of the supervisory oscillator while ft is not valid. -/
def TimeFront.idleNs (t : TimeFront) (n : Nat) : TimeFront :=
  { t with osc := t.osc + n, refNs := if t.refOn then t.refNs + n else t.refNs, timer := t.timer + n,
           nsOutside := t.nsOutside + n }

/-- Reference edges until the count has advanced by `d` ns, hold and slew included. -/
def TimeFront.edgesFor (t : TimeFront) (d : Nat) : Nat :=
  if d = 0 then 0 else
    let need := 500 * d - t.frac
    let m := t.slew.natAbs
    let e :=
      if t.slew ≥ 0 then
        if ceilDiv need 2001 ≤ m then ceilDiv need 2001 else ceilDiv (need - m) 2000
      else
        if ceilDiv need 1999 ≤ m then ceilDiv need 1999 else ceilDiv (need + m) 2000
    e + ceilDiv t.hold 4

/-- The block through `e` reference edges. -/
def passEdges (e : Nat) (s : State) : State := { s with time := s.time.edges e }

/-- The block through at least `n` ns of the oscillator. -/
def passNs (n : Nat) (s : State) : State :=
  if timeValid s then passEdges (ceilDiv n 4) s else { s with time := s.time.idleNs n }

/-- Time passes until the count has reached an ft; it stands while ft is not valid. -/
def untilFt (ft : Nat) (s : State) : State :=
  when (timeValid s) (passEdges (s.time.edgesFor (ft - s.time.ft))) s

/-- Time passes until a timer of R478's third list has reached an instant. -/
def untilTimer (t : Nat) (s : State) : State :=
  let d := t - s.time.timer
  if timeValid s then passEdges (s.time.edgesFor d) s else { s with time := s.time.idleNs d }

/-- Time passes until a timer of R478's first list has reached an instant; it stands while ft is not valid. -/
def untilLive (t : Nat) (s : State) : State :=
  when (timeValid s) (passEdges (s.time.edgesFor (t - s.time.live))) s

/-- Time passes until the supervisory oscillator has reached an instant. -/
def untilOsc (t : Nat) (s : State) : State := passNs (t - s.time.osc) s

/-- ft, or 0 while it is not valid (R37).  R36 lets a captured stamp be up to 4 ns and one cycle of the front late; a stamp
here is the count at the event, with no delay (DESIGN CHOICE, assumption 121). -/
def ftStamp (s : State) : Nat := if timeValid s then s.time.ft else 0

/-- What passes when no command waits: one reference edge, or 4 ns of the oscillator while ft is not valid (R26, R31;
DESIGN CHOICE, assumption 10). -/
def tick (s : State) : State := when s.rst.aonOk (passNs 4) s

/-! ## Interrupts (R413, R414) -/

/-- The vector of an `INT_STS` bit. -/
def intVector (bit : Nat) (s : State) : Nat :=
  if bit < 4 then (tget 0x0000FFFF bit s.hrw.vecPm).toNat % 65536 else s.hrw.vecBlk.toNat % 65536

/-- An `INT_STS` bit rises: a strobe leaves when the bit was clear, is enabled and has a vector. -/
def raiseInt (bit : Nat) (s : State) : State :=
  let fire := !s.hrw.intSts.getLsbD bit && s.hrw.intEn.getLsbD bit && intVector bit s != 0xFFFF
  let s' := { s with hrw := { s.hrw with intSts := putBit s.hrw.intSts bit true } }
  when fire (emit (.interrupt (intVector bit s))) s'

/-! ## The non-volatile log (R443) -/

/-- A record falls due: it joins the queue, and a pulse begins when none is in progress. -/
def nvPush (r : NvRec) (s : State) : State :=
  { s with nv := { s.nv with queue := s.nv.queue ++ [r], pulse := true } }

/-! ## The buffer master (R371 to R373, R406) -/

/-- The windows registered for a partition. -/
def windowsOf (p : Nat) (s : State) : List (Nat × Nat) :=
  ([0, 1, 2, 3].map fun w => tget (0, 0) (4 * p + w) s.stw.windows).filter fun w => w.2 != 0

/-- A span lies wholly inside the windows of a partition; partition 0 has the whole space while it has none (R371). -/
def inWindows (p addr len : Nat) (s : State) : Bool :=
  ((windowsOf p s).any fun w => w.1 ≤ addr && addr + len ≤ w.1 + w.2)
    || (p == 0 && (windowsOf p s).isEmpty && addr + len ≤ 2 ^ 64)

/-- A descriptor passes R372 for an issuer of a partition, and its read was answered. -/
def descOk (issuerPartition : Nat) (d : Desc) (s : State) : Bool :=
  d.readOk && d.dcrcOk && d.addr % 64 == 0 && d.len % 4096 == 0 && 4096 ≤ d.len && d.len ≤ 2 ^ 30
    && inWindows d.partition d.addr d.len s && inWindows d.partition d.selfAddr 64 s
    && (d.partition == issuerPartition || issuerPartition == 0)

/-- A `BUF` operation is issued, or waits for room among the outstanding ones (R406, R417). -/
def bufIssue (partition : Nat) (use : BufUse) (o : Out) (s : State) : State :=
  let op : BufOp := { id := s.buf.nextId % 1024, partition := partition, use := use, issued := s.time.timer }
  let b := { s.buf with nextId := s.buf.nextId + 1 }
  if s.buf.ops.length < Config.bufLimit s.fuse.plaza then
    emit o { s with buf := { b with ops := b.ops ++ [op] } }
  else { s with buf := { b with waiting := b.waiting ++ [(op, o)] } }

/-- An outstanding operation ends, and the oldest waiting one takes its room. -/
def bufRetire (id : Nat) (s : State) : State :=
  let rest := s.buf.ops.filter fun o => o.id != id
  match s.buf.waiting with
  | [] => { s with buf := { s.buf with ops := rest } }
  | (op, o) :: w =>
    emit o { s with buf := { s.buf with ops := rest ++ [{ op with issued := s.time.timer }], waiting := w } }

/-- A new chain with its first descriptor. -/
def chainOpen (ckind index partition : Nat) (d : Desc) (s : State) : Nat × State :=
  (s.buf.nextChain,
   { s with buf := { s.buf with
      chains := tput Chain.empty s.buf.nextChain
        { Chain.empty with ckind := ckind, index := index, partition := partition, cur := some d } s.buf.chains,
      nextChain := s.buf.nextChain + 1 } })

/-- The chain of a kind and index, with its number. -/
def chainFind (ckind index : Nat) (s : State) : Option (Nat × Chain) :=
  s.buf.chains.find? fun c => c.2.ckind == ckind && c.2.index == index

/-- A chain is taken away. -/
def chainDrop (n : Nat) (s : State) : State := { s with buf := { s.buf with chains := tdel n s.buf.chains } }

/-- A chain changed. -/
def onChain (n : Nat) (f : Chain → Chain) (s : State) : State :=
  onBuf (fun b => { b with chains := tmod Chain.empty n f b.chains }) s

/-- The open buffer of a chain closes: its `NEXT` is read once, and the completion follows the answer (R373). -/
def chainClose (n : Nat) (s : State) : State :=
  let c := tget Chain.empty n s.buf.chains
  match c.cur with
  | none => s
  | some d => bufIssue c.partition (.close n) (.bufRead d.selfAddr)
      (onChain n (fun c => { c with cur := none, closing := some d }) s)

/-- A chain takes data: a buffer is open, or the next one is being read. -/
def chainTakes (n : Nat) (s : State) : Bool :=
  let c := tget Chain.empty n s.buf.chains
  c.cur.isSome || c.closing.isSome

/-- What the owner of a chain counts as lost with data that is dropped: a snapshot with those that it was to report (R92). -/
def lostWith (d : BufData) : Nat :=
  match d with
  | .snapshot h _ _ => 1 + ((h.find? fun f => f.off == 0x24).map (·.val)).getD 0
  | _ => 1

/-- Data goes into a chain: into the open buffer when it fits, else that buffer closes and the data waits for the next
descriptor; an exhausted chain counts an overrun (R92, R325, R373). -/
def chainWrite (n bytes : Nat) (data : BufData) (s : State) : State :=
  let c := tget Chain.empty n s.buf.chains
  match c.cur with
  | some d =>
    if c.fill + bytes ≤ d.len then
      bufIssue c.partition (.write n (lostWith data)) (.buf c.partition n data)
        (onChain n (fun c => { c with fill := c.fill + bytes }) s)
    else onChain n (fun c => { c with held := c.held ++ [(bytes, data)] }) (chainClose n s)
  | none =>
    if c.closing.isSome then onChain n (fun c => { c with held := c.held ++ [(bytes, data)] }) s
    else onChain n (fun c => { c with overruns := c.overruns + 1 }) s

/-- A pending notice; one whose subject is pending is merged into it and counted (R366). -/
def notify (subject : NoticeSubject) (partition cmd : Nat) (payload : List Fld) (s : State) : State :=
  if s.stw.notices.any fun n => n.subject == subject && n.partition == partition then
    onStw (fun t => { t with notices := t.notices.map fun n =>
      if n.subject = subject ∧ n.partition = partition then { n with merged := n.merged + 1 } else n }) s
  else
    onStw (fun t => { t with notices := t.notices ++
      [{ subject := subject, partition := partition, cmd := cmd, payload := payload, merged := 0 }] }) s

/-- A descriptor is completed: `FILL`, `CSTATUS`, `DONE_FT`, then `CFLAGS` with `DONE`; the notice follows when `NOTIFY`
is set (R373, R396). -/
def descDone (n : Nat) (d : Desc) (fill cstatus : Nat) (chainEnd : Bool) (s : State) : State :=
  let flags := 1 + 2 * bnat chainEnd
  let s := emit (.buf d.partition n (.completion d.descId fill cstatus flags (ftStamp s))) s
  when d.notify
    (notify (.buffer d.descId) d.partition 0x0BF0 [f32 0 d.descId, f32 4 fill, f16 8 cstatus, f16 0xA flags]) s

/-- A chain is withdrawn: the buffer it is writing completes as at any close, and no further descriptor is read.  A snapshot
that waits for the `NEXT` already being read is delivered first (R90, R92). -/
def chainWithdraw (n : Nat) (s : State) : State :=
  let c := tget Chain.empty n s.buf.chains
  match c.cur, c.closing with
  | some d, _ => chainDrop n (descDone n d c.fill Config.ok false s)
  | none, some d =>
    if c.held.isEmpty || c.ckind != 1 then chainDrop n (descDone n d c.fill Config.ok false s)
    else onChain n (fun c => { c with ckind := 5 }) s
  | none, none => chainDrop n s

/-- A command's output into the chain that a descriptor heads (R391): the buffer takes what fits and closes. -/
def outputTo (d : Desc) (bytes : Nat) (data : BufData) (s : State) : Nat × State :=
  let (n, s) := chainOpen 4 0 d.partition d s
  let fill := min bytes d.len
  let s := onChain n (fun c => { c with cur := none, closing := some d, fill := fill }) s
  let s := emit (.buf d.partition n data) s
  (n, bufIssue d.partition (.output n (bytes - fill) fill) (.bufRead d.selfAddr) s)

/-! ## Fault reports (R125 to R128, R336) -/

/-- The payload of a `FAULT_NOTICE`: the report of R125. -/
def reportFlds (r : Report) : List Fld :=
  [f8 0 0xFA, f8 1 (bnat r.isOpen + 2 * bnat r.isClose + 4 * bnat r.continued), f16 2 r.code, f32 4 r.reporter,
   f64 8 r.subject, f64 0x10 r.ft, f32 0x18 r.epoch, f32 0x1C r.count, f8 0x32 r.tier, f8 0x33 r.detail,
   f64 0x34 r.window]

/-- A message joins the bypass queue; one that finds 256 waiting is discarded and counted (R336). -/
def bypQueue (a : AlertEntry) (s : State) : State :=
  if s.upl.byp.length < 256 then { s with upl := { s.upl with byp := s.upl.byp ++ [a] } }
  else { s with upl := { s.upl with bypDiscarded := s.upl.bypDiscarded + 1 } }

/-- In-band interrupts are possible: an address is held and target interrupts are enabled (R383, R385). -/
def ibiReady (s : State) : Bool := s.sbi.addr.isSome && s.sbi.events.getLsbD 0

/-- The in-band interrupt of epoch exhaustion, raised as soon as it can be (R49, R385). -/
def exhaustIbi (s : State) : State :=
  if s.sbi.exhaustDue && ibiReady s then emit (.ibi [3]) { s with sbi := { s.sbi with exhaustDue := false } } else s

/-- An in-band interrupt (R385). -/
def raiseIbi (bytes : List Nat) (s : State) : State := when (ibiReady s) (emit (.ibi bytes)) s

/-- An alert for the sideband: queued, or merged by subject and counted when 32 are held (R384, R385). -/
def sbiAlert (r : Report) (s : State) : State :=
  if s.sbi.alerts.length < 32 then
    raiseIbi [2, r.code % 256, r.code / 256, r.subject % 256, r.subject / 2 ^ 8 % 256, r.subject / 2 ^ 16 % 256,
              r.subject / 2 ^ 24 % 256, r.subject / 2 ^ 32 % 256]
      { s with sbi := { s.sbi with alerts := s.sbi.alerts ++ [r] } }
  else { s with sbi := { s.sbi with merged := s.sbi.merged + 1 } }

/-- A report as the block raises it at an ft (R125).  Its epoch is `ID_EPOCH`: 0 before the boot ROM has run and for the whole
of an exhausted power-on, for which R48 gives no number (DESIGN CHOICE, assumption 122). -/
def ownReport (code subject detail ft : Nat) (s : State) : Report :=
  { isOpen := false, isClose := false, continued := false, code := code, reporter := selfSource s, subject := subject,
    ft := ft, epoch := s.epoch, count := 1, first8 := [s.die], tier := selfTier s, detail := detail,
    window := windowAt ft s }

/-- The block's own partition-0 counter `k` advances: the next ledger record carries it (R128, R189, R335, R350). -/
def countOwn (k n : Nat) (s : State) : State := onLed (fun l => { l with own := tmod 0 k (· + n) l.own }) s

/-- A report is raised: at most one for each code, subject and window; a further one is counted as a repeat (R128).  It
goes to the bypass queue, to the alert section of the next ledger record and to a notice for partition 0. -/
def raiseAt (code subject detail ft : Nat) (s : State) : State :=
  let r := ownReport code subject detail ft s
  if s.led.issued.contains (code, subject, r.window) then
    countOwn 0 1 s
  else
    notify (.fault code subject) 0 0x0EF0 (reportFlds r)
      (bypQueue (.report r)
        { s with led := { s.led with issued := (code, subject, r.window) :: s.led.issued,
                                     alerts := s.led.alerts ++ [.report r] } })

/-- A report raised now. -/
def raise (code subject detail : Nat) (s : State) : State := raiseAt code subject detail s.time.ft s

/-- A report raised now and queued as a sideband alert too (R32, R151, R385). -/
def raiseSbi (code subject detail ft : Nat) (s : State) : State :=
  sbiAlert (ownReport code subject detail ft s) (raiseAt code subject detail ft s)

/-! ## The partition check of engine writes (R91, R324) -/

/-- The open buffer of a chain belongs to a partition and lies in the windows registered for it (R91, R324). -/
def bufferMine (p chain : Nat) (s : State) : Bool :=
  match (tget Chain.empty chain s.buf.chains).cur with
  | none => true
  | some d => d.partition == p && inWindows p d.addr d.len s

/-- A write that fails the check is dropped, counted as an isolation fault and reported (R91). -/
def dropForeign (p : Nat) (s : State) : State :=
  raise 0x0B01 (dieKey s.die) 0
    (onStw (fun t => { t with isolation := tmod 0 p (· + 1) t.isolation })
      (onBuf (fun b => { b with dropped := b.dropped + 1 }) s))

/-! ## Packets to the scheduler (R331, R332, R342) -/

/-- A packet as a sender makes it, before its `CSEQ` is assigned; sender and destination by their names of `replicaKey`. -/
def mkPacket (cls src dst rtag bytes : Nat) (s : State) : Packet :=
  { cls := cls, first := true, last := true, resend := false, src := plainSource src, dst := plainSource dst,
    srcRep := replicaIn src, dstRep := replicaIn dst, cseq := 0, epoch := s.epoch,
    rtag := rtag, nBlk := 0, rseq := 0, blkFirst := 0, blkTotal := 0, rlen := 0, echoTrace := 0, echoDump := 0, hdrCrc := 0,
    bytes := 48 + bytes }

/-- A Control message joins its queue; what it says leaves with its packet (R329, R342). -/
def sendControl (src dst rtag bytes : Nat) (o : Out) (s : State) : State :=
  { s with upl := { s.upl with control := s.upl.control ++ [{ packet := mkPacket 6 src dst rtag bytes s, carries := some o }] } }

/-- A 128-byte Steward message on the fabric (R331). -/
def sendMsg (dst : Nat) (o : Out) (s : State) : State := sendControl (selfSource s) dst 0x4D47 128 o s

/-! ## Records in packets (R138, R331, R332, R393) -/

/-- The packets of a record's blocks: whole blocks in ascending index, at most 4,048 bytes of them in a packet. -/
def fillPackets (base : Packet) (total : Nat) : List (Nat × Nat) → Packet → List Packet
  | [], cur => if cur.nBlk = 0 then [] else [cur]
  | (i, z) :: t, cur =>
    if cur.nBlk ≠ 0 ∧ (cur.bytes + z > 48 + 4048 ∨ cur.nBlk ≥ 63) then
      cur :: fillPackets base total t { base with first := i == 0, blkFirst := i, nBlk := 1, bytes := 48 + z, last := i + 1 == total }
    else
      fillPackets base total t
        { cur with first := cur.first || i == 0, blkFirst := if cur.nBlk = 0 then i else cur.blkFirst, nBlk := cur.nBlk + 1,
                   bytes := cur.bytes + z, last := i + 1 == total }

/-- The packets that carry some blocks of a record, in order. -/
def recordPackets (cls src dst rtag rseq rlen total : Nat) (resend : Bool) (blocks : List (Nat × Nat)) (s : State) :
    List Packet :=
  let base : Packet :=
    { mkPacket cls src dst rtag 0 s with
      first := false, last := false, resend := resend, rseq := rseq, blkTotal := total, rlen := rlen }
  fillPackets base total blocks base

/-- The packets of a record as they wait; the last of them completes it. -/
def withRecord (o : Out) : List Packet → List QueuedPacket
  | [] => []
  | [p] => [{ packet := p, carries := some o }]
  | p :: t => { packet := p, carries := none } :: withRecord o t

/-- A record's blocks as index and size. -/
def blockSizes (bs : List Block) : List (Nat × Nat) := bs.zipIdx.map fun b => (b.2, b.1.size)

/-- The packets of a record of the Control class join its queue (R138, R331). -/
def enqueueControl (ps : List Packet) (o : Out) (s : State) : State :=
  onUpl (fun u => { u with control := u.control ++ withRecord o ps }) s

/-- The attachment of a relayed command goes down after it, as a record of whole blocks (R331, R393). -/
def sendAttachment (dst tag : Nat) (bytes : List Byte) (s : State) : State :=
  let bs := recordBlocks bytes 0 0
  enqueueControl (recordPackets 6 (selfSource s) dst 0x4D41 tag bytes.length bs.length false (blockSizes bs) s)
    (.attachment dst tag bytes) s

/-! ## Responses (R360, R365, R369, R384) -/

/-- A response for a PM mailbox: posted, or held while `DONE` is set (R360). -/
def pmPost (n : Nat) (m : Msg) (s : State) : State :=
  let p := tget PmSlot.idle n s.hrw.pm
  if p.done then
    { s with hrw := { s.hrw with pm := tput PmSlot.idle n { p with held := p.held ++ [m] } s.hrw.pm } }
  else
    raiseInt n { s with hrw := { s.hrw with pm := tput PmSlot.idle n { p with rsp := some m, done := true } s.hrw.pm } }

/-- A response for the sideband is queued and announced (R384, R385). -/
def sbiPost (m : Msg) (s : State) : State :=
  raiseIbi [1] { s with sbi := { s.sbi with responses := s.sbi.responses ++ [m] } }

/-- Entries of a ring that the tenant has not consumed: `PROD` − `CONS`, 32 bits wide (R369). -/
def ringFill (sl : Slot) : Nat := if sl.cons ≤ sl.prod then sl.prod - sl.cons else 2 ^ 32 - (sl.cons - sl.prod)

/-- One entry is written into a tenant's ring, `PROD` advances, and its vector is strobed (R367, R369, R414). -/
def ringWrite (k : Nat) (m : Msg) (s : State) : State :=
  let sl := tget Slot.unused k s.stw.slots
  let s := bufIssue sl.partition (.ringWrite k) (.buf sl.partition 0 (.ring k (sl.prod % max sl.ringN 1) m)) s
  let s := { s with stw := { s.stw with slots := tput Slot.unused k { sl with prod := (sl.prod + 1) % 2 ^ 32 } s.stw.slots } }
  when (sl.vector != 0xFFFF) (emit (.interrupt sl.vector)) s

/-- A response for a tenant slot: into the ring, or held while the ring is full (R368, R369). -/
def ringPost (k : Nat) (m : Msg) (s : State) : State :=
  let sl := tget Slot.unused k s.stw.slots
  if ringFill sl < sl.ringN ∧ sl.held = [] then ringWrite k m s
  else { s with stw := { s.stw with slots := tput Slot.unused k { sl with held := sl.held ++ [m] } s.stw.slots } }

/-- The `SESSION` handle of a slot: [5:0] slot, [15:6] generation (R364). -/
def handleOf (k gen : Nat) : Nat := k + 64 * (gen % 1024)

/-- The slot is open, belongs to the partition and has that generation (R362). -/
def slotLive (p k gen : Nat) (s : State) : Bool :=
  let sl := tget Slot.unused k s.stw.slots
  k < 64 && sl.isOpen && sl.partition == p && sl.generation == gen

/-- A response travels to its issuer; one for a tenant slot that has closed is discarded and counted (R386). -/
def postTo (i : Issuer) (m : Msg) (s : State) : State :=
  match i with
  | .pm n => pmPost n m s
  | .sideband => sbiPost m s
  | .tenant p k g =>
    if slotLive p k g s then ringPost k { m with session := handleOf k g } s else emit (.answer i m) s
  | .relay _ _ => emit (.answer i m) s
  | .role q k => sendMsg (replicaKey (quarterSource q) k) (.answer i m) s

/-! ## What a Plaza keeps of a Leaf's series (R170, R199) -/

/-- The templates' state for a die and its run counts start afresh. -/
def forgetSeries (die : Nat) (s : State) : State :=
  onConf (fun c => { c with tmpl := c.tmpl.filter (fun e => e.1 / 1024 != die), runs := c.runs.filter (fun r => r.die != die) }) s

/-! ## Relay bookkeeping (R165, R374, R375, R393) -/

/-- The die or chip address of a role or die, by which the fabric routes and `FIRST8` lists it (R125, R375, R403). -/
def childAddr (src : Nat) (s : State) : Nat :=
  match sourceKind src with
  | 0 => src % 2 ^ 18
  | 1 => sourceNum src % 1024 * 256
  | _ =>
    match s.place.hosts.find? fun h => h.1 + 256 * h.2.1 == src with
    | some h => h.2.2 * 256
    | none => Config.fresh s.free % 2 ^ 18

/-- Children that send no separate counts: the two replicas of one Quarter answer for the same blocks (R393). -/
def sameBlocks (a b : RelayAnswer) : Bool := sourceKind a.child == 2 && a.child % 256 == b.child % 256

/-- A further answer beside those held: of one Quarter's two replicas the one with the greater `N_OK` + `N_FAIL`, replica
0's on a tie (R393). -/
def addAnswer (a : RelayAnswer) (l : List RelayAnswer) : List RelayAnswer :=
  match l.find? (fun b => sameBlocks a b) with
  | none => l ++ [a]
  | some b =>
    let keepNew := b.nOk + b.nFail < a.nOk + a.nFail ∨ (b.nOk + b.nFail = a.nOk + a.nFail ∧ a.child < b.child)
    if keepNew then l.map (fun c => if sameBlocks a c then a else c) else l

/-- The lower nonzero status. -/
def lowerStatus (a b : Nat) : Nat := if a = 0 then b else if b = 0 then a else min a b

/-- What a relay has come to: `N_OK`, `N_FAIL`, `N_NOREPLY`, `FIRST_STATUS`, `FIRST8`. -/
structure Tallies where
  ok : Nat
  fail : Nat
  none : Nat
  first : Nat
  first8 : List Nat
deriving DecidableEq, Repr

/-- Children still silent, one for each Quarter of which no replica has answered (R375). -/
def silentOf (e : ReplyEntry) : List Nat :=
  (e.waiting.filter fun c => !(e.answers.any fun a => sourceKind c == 2 && a.child % 256 == c % 256)).foldl
    (fun acc c => if acc.any (fun d => sourceKind c == 2 && sourceKind d == 2 && d % 256 == c % 256) then acc else acc ++ [c]) []

/-- The completion of a relay over the block's subtree (R375). -/
def relayTallies (e : ReplyEntry) (s : State) : Tallies :=
  let own : Tallies := match e.own with
    | none => ⟨0, 0, 0, 0, []⟩
    | some st => if st = Config.ok then ⟨1, 0, 0, 0, []⟩ else ⟨0, 1, 0, st, [s.die]⟩
  let t := e.answers.foldl (fun t a =>
    ⟨t.ok + a.nOk, t.fail + a.nFail, t.none + a.nNoReply, lowerStatus t.first a.firstStatus, lowest8 a.first8 t.first8⟩) own
  let t := e.full.foldl (fun t c => ⟨t.ok, t.fail + 1, t.none, lowerStatus t.first Config.busy,
    lowest8 [childAddr c s] t.first8⟩) t
  e.silent.foldl (fun t c => ⟨t.ok, t.fail, t.none + 1, lowerStatus t.first Config.noReply,
    lowest8 [childAddr c s] t.first8⟩) t

/-- `FIRST8` packed in 144 bits, unused slots all ones. -/
def packFirst8 (l : List Nat) : Nat :=
  (List.range 8).foldl (fun n i => n + (l.getD i 0x3FFFF) * 2 ^ (18 * i)) 0

/-- The payload of R393. -/
def relayPayload (t : Tallies) : List Fld :=
  [f32 0 t.ok, f32 4 t.fail, f32 8 t.none, f16 0xC t.first, ⟨0x10, 144, packFirst8 t.first8⟩]

/-- The completion's status (R375). -/
def relayStatus (t : Tallies) : Nat :=
  if t.none ≠ 0 then Config.noReply else if t.fail ≠ 0 then t.first else Config.ok

/-- A relay ends: its completion goes to the issuer, or to every parent that sent a copy; the entry stays to answer later
copies (R375). -/
def relayFinish (e : ReplyEntry) (s : State) : State :=
  let t := relayTallies e s
  let e' := { e with done := true, askers := [] }
  let s := { s with stw := { s.stw with replies := s.stw.replies.map fun x =>
              if x.cls = e.cls ∧ x.partition = e.partition ∧ x.tag = e.tag ∧ x.cmd = e.cmd ∧ x.done = false then e' else x } }
  let s := forEach e.askers (fun p => sendMsg p (.relayDone p e.tag e.cmd t.ok t.fail t.none t.first t.first8)) s
  match e.issuer with
  | none => s
  | some i =>
    postTo i { cmd := e.cmd, tag := e.tag, status := relayStatus t, final := true, notice := false, session := 0,
               payload := relayPayload t, bytes := [] } s

/-- A relay entry is changed, and ends when its own part and every child have answered. -/
def relayUpdate (sel : ReplyEntry → Bool) (f : ReplyEntry → ReplyEntry) (s : State) : State :=
  match s.stw.replies.find? fun e => sel e && !e.done with
  | none => s
  | some e =>
    let e' := f e
    let s := onStw (fun t => { t with replies := t.replies.map fun x => if sel x && !x.done then e' else x }) s
    if !e'.ownDue && e'.waiting.isEmpty then relayFinish e' s else s

/-- The block's own part of a relayed command is answered (R374, R375). -/
def ownOutcome (cls partition tag cmd status : Nat) (s : State) : State :=
  relayUpdate (fun e => e.cls == cls && e.partition == partition && e.tag == tag && e.cmd == cmd && e.ownDue)
    (fun e => { e with ownDue := false, own := some status }) s

/-- How long a block waits for its children: 20, 40 or 60 ms by its highest tier (R375). -/
def relayWait (s : State) : Nat :=
  match topTier s with
  | 3 => 60000000
  | 2 => 40000000
  | _ => 20000000

/-- Reply-table slots in use: one for each child awaited (R165, R374). -/
def replySlots (s : State) : Nat := s.stw.replies.foldl (fun n e => n + e.waiting.length) 0

/-- Children to which the relay goes: a Quarter's two replicas are told apart by bit 8 (assumption 4). -/
def relayChildren (sc : Scope) (s : State) : List Nat :=
  ((allChildren s).filter fun c => childInScope c sc).foldl
    (fun acc c =>
      if sourceKind c == 2 then addOnce (quarterSource (c % 256) + 256) (addOnce (quarterSource (c % 256)) acc)
      else addOnce c acc) []

/-- A relay is opened and forwarded, with its attachment if it has one, to each child in scope for which the reply table has a
slot (R374, R393). -/
def relayOpen (cls partition tag cmd : Nat) (sc : Scope) (issuer : Option Issuer) (askers : List Nat)
    (ownDue taken : Bool) (own : Option Nat) (att : List Byte) (s : State) : State :=
  let cs := relayChildren sc s
  let room := Config.replyEntries - replySlots s
  let e : ReplyEntry :=
    { cls := cls, partition := partition, tag := tag, cmd := cmd, askers := askers, issuer := issuer, ownDue := ownDue,
      taken := taken, own := own, waiting := cs.take room, full := cs.drop room, silent := [], answers := [], deadline := s.time.timer + relayWait s,
      done := false }
  let s := { s with stw := { s.stw with replies := s.stw.replies ++ [e] } }
  let s := forEach (cs.take room) (fun c s =>
    when (!att.isEmpty) (sendAttachment c tag att) (sendMsg c (.relay c cls partition tag cmd sc) s)) s
  if !ownDue && (cs.take room).isEmpty then relayFinish e s else s

/-! ## Answers and Deferred work (R365, R386) -/

/-- A response message. -/
def rspMsg (cmd tag status : Nat) (final : Bool) (p : List Fld) (b : List Byte) : Msg :=
  { cmd := cmd, tag := tag, status := status, final := final, notice := false, session := 0, payload := p, bytes := b }

/-- An answer to a request; a relayed copy's answer is its block's own part. -/
def answer (i : Issuer) (cmd tag status : Nat) (final : Bool) (p : List Fld) (b : List Byte) (s : State) : State :=
  match i with
  | .relay c part => if final then ownOutcome c part tag cmd status s else s
  | _ => postTo i (rspMsg cmd tag status final p b) s

/-- A Deferred command completes: its one response with `FINAL` set, discarded and counted if its session closed. -/
def finish (d : Deferred) (status : Nat) (p : List Fld) (s : State) : State :=
  if d.dead then { s with stw := { s.stw with deadCompletions := s.stw.deadCompletions + 1 } }
  else answer d.issuer d.cmd d.tag status true p [] s

/-- The Deferred commands whose work satisfies a test complete with a status and leave the table. -/
def completeWhere (t : Work → Bool) (status : Nat) (p : List Fld) (s : State) : State :=
  let ds := s.stw.deferred.filter fun d => t d.work
  let s := { s with stw := { s.stw with deferred := s.stw.deferred.filter fun d => !t d.work } }
  forEach ds (fun d => finish d status p) s

/-- The Deferred commands of one piece of work complete. -/
def complete (w : Work) (status : Nat) (p : List Fld) (s : State) : State :=
  completeWhere (fun x => x == w) status p s

/-- An intermediate response, `FINAL` clear, to whoever waits for a piece of work (R365). -/
def intermediate (w : Work) (p : List Fld) (s : State) : State :=
  forEach (s.stw.deferred.filter fun d => d.work == w && !d.dead)
    (fun d => answer d.issuer d.cmd d.tag Config.ok false p []) s

/-- Deferred work whose session closes runs on; its completion will be discarded and counted (R386). -/
def orphanWork (i : Issuer) (s : State) : State :=
  { s with stw := { s.stw with deferred := s.stw.deferred.map fun d => if d.issuer = i then { d with dead := true } else d } }

/-! ## Sessions (R367, R386) -/

/-- A tenant slot closes; a notice says why where one is due. -/
def closeSlot (k : Nat) (reason : Option Nat) (s : State) : State :=
  let sl := tget Slot.unused k s.stw.slots
  if !sl.isOpen then s else
    let s := orphanWork (.tenant sl.partition k sl.generation) s
    let m : Msg := { cmd := 0x01F0, tag := 0, status := 0, final := false, notice := true,
                     session := handleOf k sl.generation, payload := [f8 0 (reason.getD 0)], bytes := [] }
    let s := if reason.isSome then ringPost k m s else s
    { s with stw := { s.stw with
        slots := tput Slot.unused k { Slot.unused with generation := sl.generation } s.stw.slots,
        dbDrops := tdel sl.partition s.stw.dbDrops } }

/-- A PM mailbox's session closes; a notice says why where one is due. -/
def closePm (n : Nat) (reason : Option Nat) (s : State) : State :=
  if !s.stw.pmOpen.contains n then s else
    let s := orphanWork (.pm n) s
    let s := match reason with
      | none => s
      | some r => pmPost n { cmd := 0x01F0, tag := 0, status := 0, final := false, notice := true, session := 0,
                             payload := [f8 0 r], bytes := [] } s
    { s with stw := { s.stw with pmOpen := s.stw.pmOpen.filter (· != n), pmNotice := s.stw.pmNotice.filter (· != n) } }

/-- The sideband's session closes; a notice says why where one is due. -/
def closeSbi (reason : Option Nat) (s : State) : State :=
  if !s.stw.sbiOpen then s else
    let s := orphanWork .sideband s
    let s := match reason with
      | none => s
      | some r => sbiPost { cmd := 0x01F0, tag := 0, status := 0, final := false, notice := true, session := 0,
                            payload := [f8 0 r], bytes := [] } s
    { s with stw := { s.stw with sbiOpen := false } }

/-- Every session closes for a reason (R382, R386). -/
def closeAll (reason : Nat) (s : State) : State :=
  closeSbi (some reason)
    (forEach [0, 1, 2, 3] (fun n => closePm n (some reason))
      (forEach (s.stw.slots.map (·.1)) (fun k => closeSlot k (some reason)) s))

/-- Sessions of a partition that are open. -/
def openCount (p : Nat) (s : State) : Nat := (s.stw.slots.filter fun x => x.2.isOpen && x.2.partition == p).length

/-- Tenant slots that are free. -/
def freeSlots (s : State) : Nat := 64 - (s.stw.slots.filter fun x => x.2.isOpen).length

/-- The lowest free tenant slot. -/
def lowestFree (s : State) : Option Nat :=
  (List.range 64).find? fun k => !(tget Slot.unused k s.stw.slots).isOpen

/-- Requests of a slot that are accepted and not completed (R362). -/
def slotPending (i : Issuer) (s : State) : Nat := (s.stw.deferred.filter fun d => d.issuer == i).length

/-- An isolation fault: counted against a partition, `INT_STS`[6], report 0x0101 at most once per window (R359, R387). -/
def isolationFault (p : Nat) (s : State) : State :=
  raise 0x0101 (dieKey s.die) 0
    (raiseInt 6 { s with stw := { s.stw with isolation := tmod 0 p (· + 1) s.stw.isolation } })

end Sys2Proof.Machine
end

