-- ==== Sys2Proof/Machine/Serve.lean ====
section
/-!
DEFINITION. The Steward's service of one request (R363 to R365, R388 to R394): the checks in the order of R389, the
command's own part, the responses and the relay.  Every mailbox command is one call of `serve`.
-/

namespace Sys2Proof.Machine

/-- The mailbox of an issuer can be served: it has room for a further response (R360, R368; for the sideband's 32
responses DESIGN CHOICE, assumption 5). -/
def mailboxOpen (i : Issuer) (s : State) : Bool :=
  match i with
  | .pm n => (tget PmSlot.idle n s.hrw.pm).held.length < 32
  | .sideband => s.sbi.responses.length < 32
  | .tenant p k g => !(slotLive p k g s) || (tget Slot.unused k s.stw.slots).held.isEmpty
  | _ => true

/-! ## Rounds (R363) -/

/-- The doorbell asks for the service of a tenant slot, or, at `opening`, for a session (R361, R363). -/
def ringsFor (opening : Bool) (k : Nat) (d : Doorbell) : Bool :=
  if opening then d.value.toNat % 4 == 1 else d.value.toNat % 4 == 0 && d.session % 64 == k

/-- The place of a request's source in a round (R363). -/
def sourceIndex (i : Issuer) (opening : Bool) : Nat :=
  match i with
  | .pm n => n
  | .sideband => 4
  | .tenant _ k _ => if opening then 69 else 5 + k % 64
  | _ => 70

/-- The source at a place of the round holds a request that the Steward may take (R360, R363, R368). -/
def holdsAt (j : Nat) (s : State) : Bool :=
  if j < 4 then (tget PmSlot.idle j s.hrw.pm).busy && mailboxOpen (.pm j) s
  else if j = 4 then !s.sbi.requests.isEmpty && mailboxOpen .sideband s
  else if j < 69 then s.stw.doorbells.any (ringsFor false (j - 5)) && (tget Slot.unused (j - 5) s.stw.slots).held.isEmpty
  else if j = 69 then s.stw.doorbells.any (ringsFor true 0)
  else s.stw.replies.any fun e => e.ownDue && !e.taken && !e.done

/-- How far a source's place lies ahead in the round. -/
def roundsTo (j : Nat) (s : State) : Nat := (j + 71 - s.stw.place) % 71

/-- No other source that holds a request comes before this one in the round (R363). -/
def inTurn (i : Issuer) (opening : Bool) (s : State) : Bool :=
  (List.range 71).all fun j => !holdsAt j s || roundsTo (sourceIndex i opening) s ≤ roundsTo j s

/-- The round goes on behind the source served, or ends where no source holds a request (R363). -/
def passPlace (k : Nat) (s : State) : State :=
  onStw (fun t => { t with place := if (List.range 71).any (fun j => holdsAt j s) then (k + 1) % 71 else 0 }) s

/-- The doorbell of a tenant request leaves the doorbell queue. -/
def dropDoorbell (p : Nat) (opening : Bool) (k : Nat) : List Doorbell → List Doorbell
  | [] => []
  | d :: t => if d.partition = p ∧ ringsFor opening k d then t else d :: dropDoorbell p opening k t

/-- The request that a tenant's doorbell names lies outside the windows of its partition (R362). -/
def fetchOutside (i : Issuer) (opening : Bool) (s : State) : Bool :=
  match i with
  | .tenant p k _ =>
    (match s.stw.doorbells.find? fun d => d.partition == p && ringsFor opening k d with
    | none => false
    | some d => !inWindows p (d.value.toNat / 64 * 64) 128 s)
  | _ => false

/-- A request leaves its source: the watchdog is served, a PM mailbox's `BUSY` clears, a tenant's doorbell leaves the queue and
its slot counts as used, a copy leaves the relay queue (R360, R361, R363, R368, R439). -/
def takeFrom (r : Req) (code : Nat) (s : State) : State :=
  let s := onStw (fun t => { t with lastService := s.time.osc }) s
  match r.issuer with
  | .pm n => onHrw (fun h => { h with pm := tmod PmSlot.idle n (fun p => { p with busy := false }) h.pm }) s
  | .tenant p k g =>
    onStw (fun t => { t with
      doorbells := dropDoorbell p (code == 0x0101) (k % 64) t.doorbells,
      slots := if slotLive p k g s then tupd k (fun sl => { sl with lastUse := s.time.timer }) t.slots
               else t.slots }) s
  | .sideband => onSbi (fun b => { b with requests := b.requests.tail }) s
  | .relay c p => onStw (fun t => { t with replies := t.replies.map fun e =>
      if e.cls = c ∧ e.partition = p ∧ e.tag = r.tag ∧ e.cmd = code then { e with taken := true } else e }) s
  | .role _ _ => s

/-- The Steward takes a request, and the round goes on behind its source (R363). -/
def takeRequest (r : Req) (code : Nat) (s : State) : State :=
  passPlace (sourceIndex r.issuer (code == 0x0101)) (takeFrom r code s)

/-! ## The checks (R389) -/

/-- The session check (R362, R367, R389): `none` when it passes.  `opening` marks `SESSION_OPEN`. -/
def sessionReject (i : Issuer) (opening : Bool) (s : State) : Option Nat :=
  match i with
  | .pm n => if opening || s.stw.pmOpen.contains n then none else some Config.noSession
  | .sideband => if opening || s.stw.sbiOpen then none else some Config.noSession
  | .tenant p k g =>
    if opening then
      if openCount p s ≥ tget 1 p s.stw.quotas ∨ (lowestFree s).isNone then some Config.busy else none
    else if !slotLive p k g s then some Config.noSession
    else if slotPending i s ≥ 4 then some Config.busy else none
  | _ => none

/-- The command exists in this configuration (R1, R389). -/
def presentAt (o : OnlyAt) (plaza : Bool) : Bool :=
  match o with
  | .both => true
  | .leaf => !plaza
  | .plaza => plaza

/-- The header is right (R364, R396). -/
def headerOk (r : Req) : Bool := r.hver == 1 && r.hchkOk && r.headerReservedOk && r.plen ≤ 112

/-- The scope bytes are 0 or name a scope of R392. -/
def scopeOk (r : Req) : Bool :=
  match r.scope with
  | .other _ => false
  | .quarter q => q < 32
  | .tray t => t < 1024
  | .die d => d < 2 ^ 18
  | .fleet => true

/-- The first failing check of steps 1 to 4 of R389.  `UNSUPPORTED` stands after the session check (DEDUCED,
assumption 6), and is no ground on which a first block rejects a relayed request as a whole (R374). -/
def formReject (c : Cmd) (r : Req) (form : Bool) (s : State) : Option Nat :=
  if !headerOk r then some Config.badHeader else
  match sessionReject r.issuer (c.code == 0x0101) s with
  | some st => some st
  | none =>
    if !presentAt c.only s.fuse.plaza && (!r.relay || isCopy r.issuer) then some Config.unsupported
    else if !c.allow.permits (issuerClass r.issuer) then some Config.isolation
    else if !form || !r.reservedOk || (r.relay && !(c.relayable && scopeOk r)) then some Config.badParam
    else none

/-- The payload of an answer to a request that the first block rejects as a whole: `N_FAIL` 1 for a relay (R374). -/
def rejectPayload (r : Req) (st : Nat) (s : State) : List Fld :=
  if r.relay ∧ isCopy r.issuer = false then relayPayload ⟨0, 1, 0, st, [s.die]⟩ else []

/-- The request is at its turn, the Steward takes it, and it passes the checks of steps 1 to 4 of R389. -/
def requestPasses (c : Cmd) (r : Req) (form : Bool) (s : State) : Bool :=
  stewardUp s && mailboxOpen r.issuer s && inTurn r.issuer (c.code == 0x0101) s
    && !fetchOutside r.issuer (c.code == 0x0101) s && (formReject c r form s).isNone

/-- The answer to a rejected request. -/
def answerReject (c : Cmd) (r : Req) (st : Nat) (s : State) : State :=
  answer r.issuer c.code r.tag st true (rejectPayload r st s) [] s

/-- Deferred work of a request joins the table of accepted requests. -/
def defer (c : Cmd) (r : Req) (i : Issuer) (w : Option Work) (s : State) : State :=
  match w with
  | none => s
  | some w =>
    onStw (fun t => { t with deferred := t.deferred ++
      [{ issuer := i, tag := r.tag, cmd := c.code, work := w, dead := false }] }) s

/-- A request that stays in this block: one response with `FINAL`, or `ACCEPTED` and a completion later (R365). -/
def serveHere (c : Cmd) (r : Req) (own : State → State × Reply) (s : State) : State :=
  let (s, rep) := own s
  rep.after (defer c r r.issuer rep.work
    (answer (rep.who.getD r.issuer) c.code r.tag rep.status (rep.work.isNone) rep.payload rep.bytes s))

/-- The own part of a relayed command at its first block, which a block of the other configuration does not have (R374, R389). -/
def ownPart (c : Cmd) (own : State → State × Reply) (s : State) : State × Reply :=
  if presentAt c.only s.fuse.plaza then own s else (s, rejectWith Config.unsupported)

/-- A relayed request at its first block: its own part, if in scope, then the relay; a lead time that is too short ends it
here, in scope or not (R374, R394). -/
def serveRelay (c : Cmd) (r : Req) (own : State → State × Reply) (s : State) : State :=
  let cls := issuerClass r.issuer
  let part := issuerPart r.issuer
  let inScope := selfInScope r.scope s
  if (ownPart c own s).2.status = Config.tooSoon then answerReject c r Config.tooSoon s
  else
    let (s', rep) := if inScope then ownPart c own s else (s, okWith [])
    let s' := answer r.issuer c.code r.tag Config.accepted false [] [] s'
    let s' := defer c r (.relay cls part) (if inScope then rep.work else none) s'
    rep.after (relayOpen cls part r.tag c.code r.scope (some r.issuer) [] (inScope && rep.work.isSome) true
      (if inScope && rep.work.isNone then some rep.status else none) c.attachment s')

/-- The Steward's service of one request, at its turn in the round.  `form` says whether the payload items lie in their ranges;
`own` is the command's own part, with its own checks. -/
def serve (c : Cmd) (r : Req) (form : Bool) (own : State → State × Reply) (s : State) : State :=
  let opening := c.code == 0x0101
  if !stewardUp s || !mailboxOpen r.issuer s || !inTurn r.issuer opening s then s
  else if fetchOutside r.issuer opening s then isolationFault (issuerPart r.issuer) (takeRequest r c.code s)
  else
    let s := takeRequest r c.code s
    match formReject c r form s with
    | some st => answerReject c r st s
    | none => if r.relay && !isCopy r.issuer then serveRelay c r own s else serveHere c r own s

/-- A rejection by the command's own checks: nothing changes. -/
def deny (st : Nat) (s : State) : State × Reply := (s, rejectWith st)

/-- `OK` with a payload. -/
def done (p : List Fld) (s : State) : State × Reply := (s, okWith p)

/-- `ACCEPTED`, with work in progress. -/
def later (w : Work) (s : State) : State × Reply := (s, acceptWith w)

/-- The own part of a command that an engine other than the Steward serves: `UNAVAILABLE` while it does not answer
(R389). -/
def engineServed (domain : Nat) (own : State → State × Reply) (s : State) : State × Reply :=
  if engineUp domain s then own s else deny Config.unavailable s

/-- A lead-time check: `lead` ns ahead of now at the first block, not passed at a relayed copy (R394). -/
def leadOk (i : Issuer) (at_ lead : Nat) (s : State) : Bool :=
  if isCopy i then s.time.ft ≤ at_ else s.time.ft + lead ≤ at_

/-- `EFFECT_FRAME` (R390). -/
def effectFrame (s : State) : List Fld := [f64 0 (numberAt (nextOpenFt s) s)]

/-- A relayed command may name no output descriptor, and no input buffer above 64 MiB (R393). -/
def inputRelayOk (r : Req) (d : Desc) : Bool := !r.relay || d.len ≤ 64 * 2 ^ 20

/-- The contents of the input buffer of a relayed command, which the first block reads and sends down (R393). -/
def attachedTo (r : Req) (d : Desc) (bytes : List Byte) (s : State) : List Byte :=
  if r.relay ∧ isCopy r.issuer = false ∧ descOk (issuerPart r.issuer) d s then bytes else []

/-- An input descriptor is good; a relayed copy uses the attachment in its place (R372, R393). -/
def inputOk (r : Req) (d : Desc) (s : State) : Bool := isCopy r.issuer || descOk (issuerPart r.issuer) d s

/-- 112 bytes of an image from an offset (0x0A07, 0x0F01). -/
def inlineBytes (image : List Byte) (offset : Nat) : List Byte := (image.drop offset).take 112

/-- A command that writes its result into a descriptor's chain (R391): checked, written, completed when the last buffer
has `DONE`. -/
def outputReply (r : Req) (d : Desc) (bytes : Nat) (data : BufData) (s : State) : State × Reply :=
  if !descOk (issuerPart r.issuer) d s then deny Config.bufferFault s
  else
    let (n, s) := outputTo d bytes data s
    later (.output n) s

end Sys2Proof.Machine
end

