-- ==== Sys2Proof/Machine/PowerOps.lean ====
section
/-!
DEFINITION. Operations of the power and reset controller that other families call: wake requests, the start of an engine's
quiesce, and the image and signature checks (R378, R379, R436, R444).
-/

namespace Sys2Proof.Machine

/-- The wake sequence starts (R436): concentrator groups ask for their clocks, or the `MEM` ports leave self-refresh. -/
def beginWake (s : State) : State :=
  let s := onPwr (fun p => { p with
    waking := some s.time.osc, wakeAsked := false,
    wakeReq := if s.fuse.plaza then p.wakeReq else p.wakeReq ||| 0x0000FFFF }) s
  when s.fuse.plaza (emit (.selfRefresh false)) s

/-- A wake request (R436): it starts the sequence from Parked once `PWR_OK_CORE` is 1, and waits for the end of an entry
in progress (R447). -/
def wakeRequest (s : State) : State :=
  if s.pwr.parking.isSome then onPwr (fun p => { p with wakeAfterEntry := true }) s
  else if s.pwr.parked && s.pwr.waking.isNone then
    if s.rst.coreOk then beginWake s else onPwr (fun p => { p with wakeAsked := true }) s
  else s

/-- An engine is asked to quiesce, for a reset or a switch-off, with a timeout in ns; a second request while one is in
progress has no effect (R433, R444, R447). -/
def startQuiesce (d : Nat) (why : QuiesceFor) (timeout : Nat) (s : State) : State :=
  if s.pwr.quiescing.any (fun q => q.1 == d && goesDown q) || s.pwr.releasing.any (fun q => q.1 == d) then s
  else onPwr (fun p => { p with quiescing := p.quiescing ++ [(d, why, s.time.timer + timeout)] }) s

/-- The signature check of R378 for a usage. -/
def sigOk (g : SigBlock) (usage : Nat) (s : State) : Bool :=
  s.fuse.crcOk && g.tagOk && g.keyIndex < 4 && s.fuse.keyHash[g.keyIndex]? == some g.pubkeyHash
    && !s.fuse.keyRevoke.getLsbD g.keyIndex && g.usage == usage && g.ecdsaOk

/-- The first check that a firmware image fails (R378, R379): its form, its signature, its security version. -/
def imageReject (i : FwImage) (s : State) : Option Nat :=
  if !i.hdrOk || !(if s.fuse.plaza then i.onPlaza else i.onLeaf) || i.minBlock > Config.blockLevel
      || i.imageBytes > Config.imageLimit s.fuse.plaza then some Config.invalidImage
  else if !sigOk i.sig 1 s then some Config.signature
  else if i.sig.svn < s.nv.svnFirmware then some Config.rollback
  else none

end Sys2Proof.Machine
end

