-- ==== Sys2Proof/Machine/FenceOps.lean ====
section
/-!
DEFINITION. Fence lines, the fence history and the Cul-de-sac (R296 to R302).
-/

namespace Sys2Proof.Machine

/-- A history record of the block, now (R299). -/
def historyRec (hkind hsource index code rkind refA refB : Nat) (s : State) : NvRec :=
  .history { hkind := hkind, hsource := hsource, index := index, epoch := s.epoch, ft := ftStamp s, code := code,
             rkind := rkind, refA := refA, refB := refB }

/-- A line is asserted at the source's decision and its record falls due (R296, R298, R304). -/
def assertFence (line hsource code refA refB : Nat) (s : State) : State :=
  nvPush (historyRec 1 hsource line code 0 refA refB s) { s with fence := putBit s.fence line true }

/-- A line is released and its record falls due; a line that is not asserted changes nothing (0x0A06). -/
def releaseFence (line : Nat) (s : State) : State :=
  if s.fence.getLsbD line then
    nvPush (historyRec 2 3 line 0 0 0 0 s) { s with fence := putBit s.fence line false }
  else s

/-- A fence record of a line whose release stands later in the history. -/
def releasedLater (r : HistoryRec) (rest : List HistoryRec) : Bool :=
  r.hkind == 1 && rest.any fun x => x.hkind == 2 && x.index == r.index

/-- Compaction (R300): each fence record whose release has been written goes, with that release; every other record stays, the
older revisions of a package and released resources among them (DEDUCED, assumption 151). -/
def compactHistory (fenced : List Nat) : List HistoryRec → List HistoryRec
  | [] => []
  | r :: rest =>
    if releasedLater r rest then compactHistory (r.index :: fenced) rest
    else if r.hkind = 2 ∧ r.index ∈ fenced then compactHistory fenced rest
    else r :: compactHistory fenced rest

/-- A history record is written, after compaction when the history is full; with no room it is counted and 0x0A07 is
raised (R300). -/
def writeHistory (r : HistoryRec) (s : State) : State :=
  if s.nv.history.length < 8192 then onNv (fun n => { n with history := n.history ++ [r] }) s
  else
    let kept := compactHistory [] s.nv.history
    if kept.length < 8192 then
      onNv (fun n => { n with history := kept ++ [r], removed := n.removed + (n.history.length - kept.length) }) s
    else raise 0x0A07 (dieKey s.die) 0 (onNv (fun n => { n with unwritten := n.unwritten + 1 }) s)

/-- Lines that the history records as fenced and not released (R297). -/
def fencedInHistory : List HistoryRec → List Nat
  | [] => []
  | r :: rest => if r.hkind = 1 ∧ releasedLater r rest = false then r.index :: fencedInHistory rest else fencedInHistory rest

/-- Resources that the history lists in the Cul-de-sac and not as released (R301). -/
def cdsInHistory : List HistoryRec → List (Nat × Nat)
  | [] => []
  | r :: rest =>
    if r.hkind = 3 ∧ (rest.any fun x => x.hkind == 4 && x.rkind == r.rkind && x.index == r.index) = false then
      (r.rkind, r.index) :: cdsInHistory rest
    else cdsInHistory rest

/-- Highest revision of a package that the log records, written or falling due (R286). -/
def highestRev (pkg : Nat) (s : State) : Nat :=
  let q := s.nv.queue.filterMap fun r => match r with
    | .history h => some h
    | _ => none
  listMax ((s.nv.history ++ q).filterMap fun h => if h.hkind = 5 ∧ h.refA = pkg then some h.refB else none)

/-- The 32 bytes of a history record (R299). -/
def historyBytes (r : HistoryRec) : List Byte :=
  let b := [0xFE#8] ++ bytesOf r.hkind 1 ++ bytesOf r.hsource 1 ++ bytesOf r.index 1 ++ bytesOf r.epoch 4
    ++ bytesOf r.ft 8 ++ bytesOf r.code 2 ++ bytesOf r.rkind 1 ++ [0#8] ++ bytesOf r.refA 4 ++ bytesOf r.refB 4
  b ++ bytesOf (crc32c b).toNat 4

/-- The history image (0x0A07): a 32-byte header and the records. -/
def historyImage (s : State) : List Byte :=
  bytesOf s.nv.history.length 4 ++ bytesOf s.nv.removed 4 ++ bytesOf 0 24 ++ s.nv.history.flatMap historyBytes

/-- Square bank groups that are out: in the Cul-de-sac, or switched off (R302, R431). -/
def groupsOut (s : State) : Nat :=
  ((List.range 16).filter fun g => s.pwr.culDeSac.contains (2, g) || s.pwr.isolated.contains (14 + g)).length

/-! ## A Leaf's regions (R16, R302) -/

/-- The engine that writes a Leaf's region: the one whose chapter describes its data (DEDUCED, assumption 123). -/
def regionWriter : RegionName → Nat
  | .snapshots => 2
  | .digests => 8
  | .markers => 6
  | .features => 7
  | .series => 4
  | .retention => 3
  | .staging => 9
  | .queues => 10
  | _ => 1

/-- The regions of R16's table, in its order. -/
def regionNames : List RegionName :=
  [.steward, .dumps, .calendars, .packages, .snapshots, .digests, .markers, .features, .series, .nodes, .retention, .staging,
   .queues]

/-- The Steward places a Leaf's regions at power-on, which fill the 8 MiB (R16). -/
def placeRegions (s : State) : State :=
  onStw (fun t => { t with regions := regionNames.map fun n =>
    { name := n, kib := placedKib n, want := placedKib n, writer := some (regionWriter n) } }) s

/-- A region takes another size. -/
def resizeRegion (n : RegionName) (kib : Nat) (s : State) : State :=
  onStw (fun t => { t with regions := t.regions.map fun r => if r.name = n then { r with kib := kib } else r }) s

/-- The size that a region is to have. -/
def wantRegion (n : RegionName) (kib : Nat) (s : State) : State :=
  onStw (fun t => { t with regions := t.regions.map fun r => if r.name = n then { r with want := kib } else r }) s

/-- The regions that an engine writes pass to the Steward, or back to it (R17, R433). -/
def takeRegions (d : Nat) (s : State) : State :=
  onStw (fun t => { t with regions := t.regions.map fun r => if r.writer = some d then { r with writer := none } else r }) s
def giveRegions (d : Nat) (s : State) : State :=
  onStw (fun t => { t with regions := t.regions.map fun r =>
    if r.writer.isNone && regionWriter r.name == d then { r with writer := some d } else r }) s

/-- KiB of a Leaf's regions together, and of the bank groups that hold them. -/
def usedKib (s : State) : Nat := (regionNames.map fun n => regionKib n s).foldl (· + ·) 0
def liveKib (s : State) : Nat := 512 * (16 - groupsOut s)

/-- Ensemble images whose slots have gone with their part of the node store leave, highest slots first (R302). -/
def dropSlots (s : State) : State :=
  onTree (fun t => { t with slots := t.slots.take (regionKib .nodes s / 256) }) s

/-- Series beyond the region are removed (R302). -/
def dropSeries (s : State) : State :=
  onConf (fun c => { c with series := c.series.filter fun e => e.1 < 4 * regionKib .series s }) s

/-- A Leaf's functions shrink where the live bank groups are too small for its regions, in the order of R302: ledger retention
down to 512 KiB, the node store, local series. -/
def shrinkLeaf (s : State) : State :=
  let short := usedKib s - liveKib s
  let a := min short (regionKib .retention s - 512)
  let b := min (short - a) (regionKib .nodes s)
  let c := min (short - a - b) (regionKib .series s)
  let s := resizeRegion .retention (regionKib .retention s - a) s
  let s := when (b != 0) (fun s => dropSlots (resizeRegion .nodes (regionKib .nodes s - b) s)) s
  when (c != 0) (fun s => dropSeries (resizeRegion .series (regionKib .series s - c) s)) s

/-- A region grows towards the size it is to have, into space that is free (R16). -/
def regrow (n : RegionName) (s : State) : State :=
  let want := ((s.stw.regions.find? fun r => r.name == n).map (·.want)).getD (regionKib n s)
  resizeRegion n (regionKib n s + min (want - regionKib n s) (liveKib s - usedKib s)) s

/-- Leaves of the chip's own tray in its census. -/
def ownLeaves (s : State) : Nat :=
  match findRole .plaza s with
  | none => 0
  | some r => (r.children.filter fun c => trayOf c.source == trayOf s.die).length

/-- At a Plaza the first two groups cost the margin, further ones 64 Leaves of stand-in quota each, down to the tray's own
census; then the leader is asked to move the hosted replicas, and at last to drain the chip (R302). -/
def shrinkPlaza (s : State) : State :=
  if groupsOut s ≤ 2 then s
  else if s.place.standinLost < 256 - ownLeaves s then onPlace (fun p => { p with standinLost := p.standinLost + 64 }) s
  else emit (.askLeader (s.roles.all fun r => r.kind == .plaza)) s

/-- What a shrunken Leaf or Plaza takes back with a bank group, last lost first (R302, R433). -/
def unshrink (s : State) : State :=
  if s.fuse.plaza then onPlace (fun p => { p with standinLost := p.standinLost - 64 }) s
  else regrow .retention (regrow .nodes (regrow .series s))

/-- A concentrator is fenced: what it has not sealed is unobserved for every counter whose source lies in it (R76). -/
def fenceConc (c : Nat) (s : State) : State :=
  let kept := (tget Conc.start c s.smp.concs).sealed
  let f (k : Counter) : Counter := if bits k.binding.toNat 12 1 / 256 = c ∧ kept = false then { k with snapInc := none } else k
  onSmp (fun m => { m with
    concs := tmod Conc.start c (fun k => { k with fenced := true }) m.concs, counters := m.counters.map fun e => (e.1, f e.2) }) s

/-- A bank group's regions have moved to the others, and what no longer fits shrinks (R302). -/
def shrinkGroup (s : State) : State := if s.fuse.plaza then shrinkPlaza s else shrinkLeaf s

/-- The engines that write Square regions: at a Leaf those of the table of R16, at a Plaza every engine that is up.  Which
regions lie in which bank group is not given, and each is taken to have a part of every region (DESIGN CHOICE, assumption
123). -/
def squareWriters (s : State) : List Nat :=
  ((List.range 13).filter fun d => 2 ≤ d && engineUp d s).filter fun d =>
    s.fuse.plaza || s.stw.regions.any fun r => r.writer == some d

/-- The regions of a bank group have moved: the group settles to be switched off, or the block goes on without it (R302,
R433). -/
def endMove (group : Nat) (off : Bool) (s : State) : State :=
  let s := onPwr (fun p => { p with moving := p.moving.filter fun m => m.1 != group }) s
  if off then
    onPwr (fun p => { p with settling := p.settling ++ [(14 + group, false)], isolated := addOnce (14 + group) p.isolated }) s
  else shrinkGroup s

/-- The Steward moves the regions of a bank group once every engine that writes one has quiesced on them, or has been isolated
(R17, R447). -/
def startMove (group : Nat) (off : Bool) (s : State) : State :=
  let ws := squareWriters s
  let s := onPwr (fun p => { p with moving := p.moving ++ [(group, off)] }) s
  if ws.isEmpty then endMove group off s
  else onPwr (fun p => { p with quiescing := p.quiescing ++ ws.map fun d => (d, .move group, s.time.timer + 200000) }) s

/-- An engine's quiesce on the regions of a bank group has ended; the last one lets them move (R17). -/
def moveOn (d group : Nat) (s : State) : State :=
  let s := onPwr (fun p => { p with quiescing := p.quiescing.filter fun q => !(q.1 == d && q.2.1 == .move group) }) s
  if s.pwr.quiescing.any fun q => q.2.1 == .move group then s
  else match s.pwr.moving.find? fun m => m.1 == group with
    | none => s
    | some m => endMove group m.2 s

/-- What shrinks when a resource joins (R76, R301, R302). -/
def shrinkFor (rkind index : Nat) (s : State) : State :=
  match rkind with
  | 2 => startMove index false s
  | 6 => fenceConc index s
  | 7 => onArc (fun a => { a with deadPorts := addOnce index a.deadPorts }) s
  | _ => s

/-- The configuration has resources of a kind: a Leaf has neither backscan engines nor `MEM` ports, a Plaza no concentrators
(R1, R301). -/
def hasResource (rkind : Nat) (s : State) : Bool :=
  if s.fuse.plaza then rkind != 6 else rkind != 5 && rkind != 7

/-- A resource joins the Cul-de-sac: listed, recorded, reported, and the block goes on with less (R301). -/
def joinCds (rkind index hsource refA refB : Nat) (s : State) : State :=
  if (rkind, index) ∈ s.pwr.culDeSac || !hasResource rkind s then s
  else
    let s := onPwr (fun p => { p with culDeSac := p.culDeSac ++ [(rkind, index)] }) s
    let s := nvPush (historyRec 3 hsource index 0x0A06 rkind refA refB s) s
    raise 0x0A06 (engineKey s.die (cdsDomain rkind index)) 0 (raiseInt 5 (shrinkFor rkind index s))

/-- Fewer than seven Square bank groups are live, so that the Leaf forms no records (R302). -/
def leafFailed (s : State) : Bool := !s.fuse.plaza && 9 < groupsOut s

end Sys2Proof.Machine
end

