-- ==== Sys2Proof/Machine/SamplerOps.lean ====
section
/-!
DEFINITION. The concentrator fronts, counters, gauges, comparators and snapshot buffers as shared operations
(R53 to R95, R477).
-/

namespace Sys2Proof.Machine

/-! ## Fields of the configuration words (R56, R66, R77) -/

def lineMode (c : Word16) : Nat := c.toNat % 4
def bindSrcCmp (b : Word32) : Bool := b.getLsbD 0
def bindSrc (b : Word32) : Nat := bits b.toNat 12 1
def bindPrescale (b : Word32) : Nat := bits b.toNat 16 13
def bindPartition (b : Word32) : Nat := bits b.toNat 26 17
def bindEnable (b : Word32) : Bool := b.getLsbD 27
def gaugeEnable (c : Word16) : Bool := c.getLsbD 0
def gaugeSigned (c : Word16) : Bool := c.getLsbD 1
def gaugeSample (c : Word16) : Nat := bits c.toNat 3 2
def gaugePartition (c : Word16) : Nat := bits c.toNat 13 4

/-- A binding with its prescaler replaced. -/
def withPrescale (b : Word32) (k : Nat) : Word32 :=
  BitVec.ofNat 32 (b.toNat - bindPrescale b * 2 ^ 13 + k * 2 ^ 13)

def conc (c : Nat) (s : State) : Conc := tget Conc.start c s.smp.concs
def counter (i : Nat) (s : State) : Counter := tget Counter.unbound i s.smp.counters
def gauge (g : Nat) (s : State) : Gauge := tget Gauge.idle g s.smp.gauges
def cmp (k : Nat) (s : State) : Cmp := tget Cmp.idle k s.smp.cmps

def onConc (c : Nat) (f : Conc → Conc) (s : State) : State :=
  onSmp (fun m => { m with concs := tmod Conc.start c f m.concs }) s
def onCounter (i : Nat) (f : Counter → Counter) (s : State) : State :=
  onSmp (fun m => { m with counters := tmod Counter.unbound i f m.counters }) s
def onGauge (g : Nat) (f : Gauge → Gauge) (s : State) : State :=
  onSmp (fun m => { m with gauges := tmod Gauge.idle g f m.gauges }) s
def onCmp (k : Nat) (f : Cmp → Cmp) (s : State) : State :=
  onSmp (fun m => { m with cmps := tmod Cmp.idle k f m.cmps }) s

/-- The accumulator half of a line. -/
def accKey (line : Nat) (half : Bool) : Nat := 2 * line + bnat half
def accOf (line : Nat) (half : Bool) (s : State) : Nat := tget 0 (accKey line half) s.smp.acc

/-- The fronts observe: PD02 is powered and the Leaf is not Parked; no reset stops them (R62, R64, R65). -/
def frontOn (s : State) : Bool := !s.fuse.plaza && s.pwr.on.getLsbD 2 && !s.pwr.parked

/-- The Sampler works and acknowledges words (R62). -/
def samplerUp (s : State) : Bool := !s.fuse.plaza && engineUp 2 s && !s.smp.quiesced

/-! ## Accumulation (R54, R56, R59) -/

/-- The count of one line in one cycle, from its level before and now, with its qualifier. -/
def lineCount (cfg : Word16) (i : Nat) (prev now : Lines) : Nat :=
  let hit := match lineMode cfg with
    | 0 => false
    | 1 => now.getLsbD i
    | 2 => !prev.getLsbD i && now.getLsbD i
    | _ => prev.getLsbD i && !now.getLsbD i
  let pass := !cfg.getLsbD 2 || (now.getLsbD (bits cfg.toNat 11 4) != cfg.getLsbD 3)
  bnat (hit && pass)

/-- One rising edge of a concentrator's clock: every line's count is added to the current half. -/
def countEdge (c : Nat) (levels : Lines) (s : State) : State :=
  let k := conc c s
  let s' := forEach (s.smp.lines.filter fun e => e.1 / 256 == c)
    (fun e => onSmp fun m => { m with
      acc := tmod 0 (accKey e.1 k.half) (fun n => (n + lineCount e.2 (e.1 % 256) k.levels levels) % 2 ^ 40) m.acc }) s
  onConc c (fun k => { k with levels := levels }) s'

/-! ## Frame at which a change takes effect (R58, R67, R79) -/

/-- A change accepted before the Sampler has closed frame n begins with frame n + 1, one accepted later with n + 2. -/
def changeFrame (s : State) : Nat :=
  match s.grid.frame with
  | some f => if s.grid.snapshotDue then f.frame else f.frame + 1
  | none => nextFrame s

/-- The object of a change: a later change of one object replaces an earlier one at the same boundary (R390). -/
def sameObject : SamplerChange → SamplerChange → Bool
  | .line a _, .line b _ => a == b
  | .bind a _, .bind b _ => a == b
  | .bind a _, .unbind b => a == b
  | .unbind a, .bind b _ => a == b
  | .unbind a, .unbind b => a == b
  | .prescale a _, .prescale b _ => a == b
  | .gauge a _, .gauge b _ => a == b
  | .snapshot a _ _, .snapshot b _ _ => a == b
  | _, _ => false

/-- A change joins those that wait for a boundary. -/
def addChange (frame : Nat) (ch : SamplerChange) (s : State) : State :=
  onSmp (fun m => { m with
    pending := (m.pending.filter fun p => !(p.1 == frame && sameObject p.2 ch)) ++ [(frame, ch)] }) s

/-- A snapshot stream is set, replaced or withdrawn (R92, R93). -/
def setSnapshot (p : Nat) (desc : Option Desc) (stride : Nat) (s : State) : State :=
  let old := tget SnapBuf.none p s.smp.snaps
  let s := if old.stride = 0 then s else chainWithdraw old.chain s
  match desc with
  | none => onSmp (fun m => { m with snaps := tdel p m.snaps }) s
  | some d =>
    let (n, s) := chainOpen 1 p p d s
    onSmp (fun m => { m with snaps := tput SnapBuf.none p { stride := stride, seq := 0, overruns := 0, chain := n } m.snaps }) s

/-- A change takes effect.  A newly bound counter starts from 0 with the words of the opening frame already taken (R68); one
whose physical counter is in the Cul-de-sac stays void (R75). -/
def applyChange (ch : SamplerChange) (s : State) : State :=
  match ch with
  | .line l c => onSmp (fun m => { m with lines := tput 0 l c m.lines }) s
  | .bind i b =>
    let first := if bindSrcCmp b then 0 else tget 0 (bindSrc b) s.smp.lineTally
    onCounter i (fun c => { Counter.unbound with binding := b, inc := first, firstDue := true, dead := c.dead, known := true }) s
  | .unbind i => onCounter i (fun c => { c with binding := putBit c.binding 27 false, inc := 0, snapInc := none }) s
  | .prescale i k => onCounter i (fun c => { c with binding := withPrescale c.binding k }) s
  | .gauge g c => onGauge g (fun x => { x with config := c, updated := x.updated && gaugeEnable x.config }) s
  | .snapshot p d n => setSnapshot p d n s

/-- Changes due for a frame, of the kinds a test selects, take effect in the order of acceptance. -/
def applyChanges (frame : Nat) (sel : SamplerChange → Bool) (s : State) : State :=
  let now := s.smp.pending.filter fun p => p.1 ≤ frame && sel p.2
  let s := onSmp (fun m => { m with pending := m.pending.filter fun p => !(p.1 ≤ frame && sel p.2) }) s
  forEach now (fun p => applyChange p.2) s

/-- Lines and gauges change at the front's boundary; the rest at the Sampler's close of the frame before. -/
def isFrontChange : SamplerChange → Bool
  | .line _ _ => true
  | .gauge _ _ => true
  | _ => false

/-! ## Comparators (R80 to R87) -/

/-- The gauge of a comparator. -/
def cmpGauge (k : Nat) (s : State) : Gauge := gauge (k / 4) s

/-- The partition of a comparator: its source's (R81). -/
def cmpPartition (k : Nat) (s : State) : Nat :=
  let c := cmp k s
  if c.srcCounter then bindPartition (counter c.counter s).binding else gaugePartition (cmpGauge k s).config

/-- A level under a comparison type. -/
def asLevel (signed : Bool) (v : Nat) : Int := if signed then toSigned 32 v else (v % 2 ^ 32 : Nat)

/-- Clamped to the comparison type (R82). -/
def clampLevel (signed : Bool) (i : Int) : Int :=
  if signed then clampS 32 i else max 0 (min i (2 ^ 32 - 1))

/-- The level is past the threshold: at or above it upward, at or below it downward. -/
def pastThreshold (c : Cmp) (signed : Bool) (v : Nat) : Bool :=
  if c.down then decide (asLevel signed v ≤ asLevel signed c.threshold)
  else decide (asLevel signed c.threshold ≤ asLevel signed v)

/-- The level re-arms the comparator. -/
def rearms (c : Cmp) (signed : Bool) (v : Nat) : Bool :=
  if c.down then decide (clampLevel signed (asLevel signed c.threshold + c.hyst) < asLevel signed v)
  else decide (asLevel signed v < clampLevel signed (asLevel signed c.threshold - c.hyst))

/-- A level lies further beyond the threshold than another. -/
def furtherThan (c : Cmp) (signed : Bool) (v w : Nat) : Bool :=
  if c.down then decide (asLevel signed v < asLevel signed w) else decide (asLevel signed w < asLevel signed v)

/-- The latch after a crossing (R84). -/
def latchCross (c : Cmp) (signed : Bool) (v ft : Nat) : Latch :=
  match c.latch with
  | none => { firstFt := ft, lastFt := ft, count := 1, extreme := v, sat := false }
  | some l =>
    { firstFt := l.firstFt, lastFt := ft, count := satInc l.count,
      extreme := if furtherThan c signed v l.extreme then v else l.extreme,
      sat := l.sat || l.count == 0xFFFFFFFF }

/-- The latch after an evaluation that is no crossing (R84). -/
def latchWatch (c : Cmp) (signed : Bool) (v : Nat) : Option Latch :=
  c.latch.map fun l => { l with extreme := if furtherThan c signed v l.extreme then v else l.extreme }

/-- What one evaluation does: the comparator after it, and whether it crossed (R82 to R84, R87). -/
def evalCmp (c : Cmp) (signed : Bool) (v ft : Nat) : Cmp × Bool :=
  match c.armed with
  | none => ({ c with armed := some (!pastThreshold c signed v), latch := latchWatch c signed v }, false)
  | some true =>
    if pastThreshold c signed v then
      ({ c with armed := some false, latch := some (latchCross c signed v ft), tally := c.tally + 1 }, true)
    else ({ c with latch := latchWatch c signed v }, false)
  | some false => ({ c with armed := some (rearms c signed v), latch := latchWatch c signed v }, false)

/-- A notice of the comparator, once for an empty latch (R80, R86). -/
def cmpNotice (k : Nat) (s : State) : State :=
  let c := cmp k s
  let s := when (bitOf c.notice 0) (notify (.watermark k) (cmpPartition k s) 0x03F0 [f16 0 k]) s
  when (bitOf c.notice 1) (raise Config.watermarkCode (Config.watermarkSubject k) 0) s

/-- A comparator evaluates a level. -/
def evaluate (k : Nat) (signed : Bool) (v ft : Nat) (s : State) : State :=
  let c := cmp k s
  let (c', crossed) := evalCmp c signed v ft
  let s := onCmp k (fun _ => c') s
  when (crossed && c.latch.isNone) (cmpNotice k) s

/-! ## Gauges (R55, R77, R78) -/

/-- The lesser and the greater of two levels under the gauge's type. -/
def gaugeMin (signed : Bool) (a b : Nat) : Nat := if asLevel signed a ≤ asLevel signed b then a else b
def gaugeMax (signed : Bool) (a b : Nat) : Nat := if asLevel signed a ≤ asLevel signed b then b else a

/-- An update of an enabled gauge. -/
def takeUpdate (v : Nat) (g : Gauge) : Gauge :=
  let sg := gaugeSigned g.config
  { g with value := v, updated := true, min := if g.updated then gaugeMin sg g.min v else v,
           max := if g.updated then gaugeMax sg g.max v else v }

/-- The sample of a gauge at the close of a frame: the held value, stale, when the frame had no update. -/
def sampleOf (frame : Nat) (g : Gauge) : Nat × Nat × Bool :=
  if !g.updated then (frame, g.value, true)
  else match gaugeSample g.config with
    | 1 => (frame, g.min, false)
    | 2 => (frame, g.max, false)
    | _ => (frame, g.value, false)

/-- Every enabled gauge of a live concentrator is sampled at a boundary. -/
def sampleGauges (frame : Nat) (s : State) : State :=
  forEach (s.smp.gauges.filter fun e => gaugeEnable e.2.config && !(conc (e.1 / 64) s).fenced)
    (fun e => onGauge e.1 (fun g => { g with sample := sampleOf frame g, sampled := g.config, updated := false })) s

/-- Updates strobed while no frame was open belong to none: the frame that opens starts without any (R78). -/
def clearUpdates (s : State) : State :=
  forEach (s.smp.gauges.filter fun e => e.2.updated) (fun e => onGauge e.1 (fun g => { g with updated := false })) s

/-! ## The boundary at the fronts (R59, R60, R62) -/

/-- One front at a boundary: it makes the other half current and owes a seal, unless the drain is stopped or an earlier
seal is still owed, when it keeps its half. -/
def switchHalf (up : Bool) (k : Conc) : Conc :=
  if up && !k.sealDue then { k with half := !k.half, sealDue := true, sealed := false, heldBack := false, late := false }
  else { k with heldBack := true }

/-- A front that seals several boundaries as one makes the frame carry `CARRY`. -/
def anyHeldBack (s : State) : Bool :=
  (List.range 16).any fun c => (conc c s).heldBack && !(conc c s).sealDue && !(conc c s).fenced

/-- Crossing tallies of the closing frame pass to the counters bound to comparators of live concentrators, with those of frames
that were not formed (R66, R76, R87, R94). -/
def closeTallies (s : State) : State :=
  let s := forEach (s.smp.counters.filter fun e =>
      bindEnable e.2.binding && bindSrcCmp e.2.binding && !(conc (bindSrc e.2.binding / 256) s).fenced)
    (fun e => onCounter e.1 (fun c => { c with snapInc := some (c.inc + (cmp (bindSrc c.binding) s).tally), inc := 0 })) s
  onSmp (fun m => { m with cmps := m.cmps.map fun e => (e.1, { e.2 with tally := 0 }) }) s

/-- The Leaf's fronts at the boundary that closes a frame. -/
def samplerBoundary (frame : Nat) (s : State) : State :=
  if s.fuse.plaza || !s.pwr.on.getLsbD 2 then s
  else
    let up := samplerUp s
    let s := forEach (List.range 16) (fun c => onConc c (switchHalf up)) s
    when up (fun s => applyChanges (frame + 1) isFrontChange (closeTallies (sampleGauges frame s))) s

/-- The counters bound to lines of a concentrator. -/
def boundTo (c : Nat) (k : Counter) : Bool :=
  bindEnable k.binding && !bindSrcCmp k.binding && bindSrc k.binding / 256 == c

/-- A word's count reaches every counter bound to its line, and the line's tally (R66, R72). -/
def applyWord (line count : Nat) (s : State) : State :=
  onSmp (fun m => { m with
    counters := m.counters.map (fun e =>
      if bindEnable e.2.binding && !e.2.gone && !bindSrcCmp e.2.binding && bindSrc e.2.binding == line then
        (e.1, { e.2 with inc := e.2.inc + count }) else e),
    lineTally := tmod 0 line (· + count) m.lineTally }) s

/-- A seal copies the counters of its concentrator, and the lines' tallies, for the closed frame (R71). -/
def sealConc (c : Nat) (s : State) : State :=
  onSmp (fun m => { m with
    counters := m.counters.map (fun e => if boundTo c e.2 then (e.1, { e.2 with snapInc := some e.2.inc, inc := 0 }) else e),
    sealedTally := (m.sealedTally.filter fun e => e.1 / 256 != c) ++ (m.lineTally.filter fun e => e.1 / 256 == c),
    lineTally := m.lineTally.filter fun e => e.1 / 256 != c,
    concs := tmod Conc.start c (fun k => { k with sealDue := false, sealed := true }) m.concs }) s

/-- Parity errors of the latest 1,000 frames (R76). -/
def recentParity (now : Nat) (l : List Nat) : List Nat := l.filter fun f => now < f + 1000

/-! ## Spares (R73 to R75) -/

/-- The counter's index is unbound and not retired. -/
def indexFree (s : State) (i : Nat) : Bool :=
  !bindEnable (counter i s).binding && !s.smp.retired.contains i

/-- An index is retired: listed, recorded, and the Cul-de-sac has changed (R75). -/
def retireIndex (i : Nat) (s : State) : State :=
  raiseInt 5 (nvPush (.retired i) (onSmp (fun m => { m with retired := m.retired ++ [i] }) s))

/-- The highest-numbered unbound index (R75). -/
def donorIndex (s : State) : Option Nat := (List.range 32768).reverse.find? fun i => indexFree s i

/-- A failing counter moves to a spare of its bank; with none left, R75 applies.  The physical counter joins the Cul-de-sac in
each of its cases; with every index bound the log lists it under the index that stays bound and void. -/
def moveToSpare (i : Nat) (s : State) : State :=
  let bank := i / 2048
  if tget 0 bank s.smp.sparesUsed < 16 then
    onSmp (fun m => { m with sparesUsed := tmod 0 bank (· + 1) m.sparesUsed }) s
  else if !bindEnable (counter i s).binding then retireIndex i s
  else
    match donorIndex s with
    | some d => retireIndex d s
    | none =>
      raise 0x0301 (engineKey s.die 2) 0
        (raiseInt 5 (nvPush (.retired i) (onCounter i (fun c => { c with dead := true }) s)))

/-- A counter was repaired: counted in all and for its partition (0x0306). -/
def countRepair (i : Nat) (s : State) : State :=
  let p := bindPartition (counter i s).binding
  moveToSpare i (onSmp (fun m => { m with repairs := m.repairs + 1, repairsBy := tmod 0 p (· + 1) m.repairsBy }) s)

/-- One fault found at the close of a frame (R73, R74). -/
def handleFault (f : CounterFault) (s : State) : State :=
  match f with
  | .single i => countRepair i s
  | .double i =>
    let c := counter i s
    let tally := if bindSrcCmp c.binding then c.snapInc.getD 0 else tget 0 (bindSrc c.binding) s.smp.sealedTally
    countRepair i (onCounter i (fun c => { c with snapInc := c.snapInc.map fun _ => tally }) s)
  | .tally i => countRepair i s

/-- The failure of a counter moves its binding under R75: it is bound, its bank has no spare, another index is free. -/
def movesBinding (f : CounterFault) (s : State) : Option Nat :=
  let i := match f with
    | .single i => i
    | .double i => i
    | .tally i => i
  if 16 ≤ tget 0 (i / 2048) s.smp.sparesUsed ∧ bindEnable (counter i s).binding = true ∧ (donorIndex s).isSome = true then some i
  else none

/-- A bind to an index that this fault moves waits for the boundary after the move (R94).  For a bind already accepted for an
unbound index, which R75 retires without a move, the manual gives no boundary to wait for: it is applied at its own (DESIGN
CHOICE, assumption 124). -/
def postponeBinds (frame : Nat) (f : CounterFault) (s : State) : State :=
  match movesBinding f s with
  | none => s
  | some i =>
    let late (c : SamplerChange) : Bool := match c with
      | .bind j _ => i == j
      | _ => false
    onSmp (fun m => { m with
      pending := m.pending.map fun p => if p.1 ≤ frame + 1 ∧ late p.2 = true then (frame + 2, p.2) else p }) s

/-- The faults found at the close of a frame, one after the other, each with the bind that waits for its move. -/
def handleFaults (frame : Nat) (fs : List CounterFault) (s : State) : State :=
  forEach fs (fun f s => handleFault f (postponeBinds frame f s)) s

/-- Counters repaired in a frame, and those whose frame is void. -/
def repairedIn (fs : List CounterFault) (i : Nat) : Bool :=
  fs.any fun f => match f with
    | .single j => i == j
    | .double j => i == j
    | .tally _ => false
def voidIn (fs : List CounterFault) (i : Nat) : Bool :=
  fs.any fun f => match f with
    | .tally j => i == j
    | _ => false

/-! ## The close of a frame (R70 to R74, R93) -/

/-- The counter has a last frame here: an unbind or a new bind waits for the next (R68). -/
def lastDue (i next : Nat) (s : State) : Bool :=
  s.smp.pending.any fun p => p.1 ≤ next && match p.2 with
    | .bind j _ => i == j
    | .unbind j => i == j
    | _ => false

/-- The counter is not observed in the closed frame: its concentrator was fenced before its seal (R76), or PD02 has been
switched off since it was bound (R431). -/
def unobserved (k : Counter) (s : State) : Bool :=
  k.gone || k.snapInc.isNone && (conc (bindSrc k.binding / 256) s).fenced

/-- The entry of a counter for the closed frame, and the counter after it (R70). -/
def closeCounter (i next : Nat) (fs : List CounterFault) (s : State) : CounterEntry × Counter :=
  let c := counter i s
  let k := bindPrescale c.binding
  let void := c.dead || voidIn fs i
  let unobs := unobserved c s
  let total := if void || unobs then c.residue else c.residue + c.snapInc.getD 0
  let delta := if void || unobs then 0 else total / 2 ^ k
  let residue := if void || unobs then c.residue else total % 2 ^ k
  let flags : BitVec 5 := BitVec.ofNat 5 (bnat c.firstDue + 2 * bnat (lastDue i next s)
    + 4 * bnat (repairedIn fs i) + 8 * bnat void + 16 * bnat unobs)
  let value := (c.value + delta) % 2 ^ 64
  ({ index := i, flags := flags, partition := bindPartition c.binding, prescale := k, residue := residue, delta := delta },
   { c with value := value, residue := residue, snapInc := none, closedValue := value, flags := flags, firstDue := false })

/-- Indices of enabled counters, ascending. -/
def enabledCounters (s : State) : List Nat :=
  (s.smp.counters.filter fun e => bindEnable e.2.binding).map (·.1)

/-- Gauge entries of the closed frame, ascending, each under the configuration of that frame (R79, R105). -/
def gaugeEntries (frame : Nat) (s : State) : List GaugeEntry :=
  (s.smp.gauges.filter fun e => gaugeEnable e.2.sampled && e.2.sample.1 == frame && !(conc (e.1 / 64) s).fenced).map
    fun e => { index := e.1, sample := gaugeSample e.2.sampled, stale := e.2.sample.2.2,
               signed := gaugeSigned e.2.sampled, inexact := false, partition := gaugePartition e.2.sampled,
               value := e.2.sample.2.1 }

/-- Losses that a Leaf's own entries declare: invalid counters, and counters of a fenced concentrator (R74, R76, R110). -/
def entryLosses (frame : Nat) (es : List CounterEntry) (s : State) : List LossEntry :=
  es.filterMap fun e =>
    if e.flags.getLsbD 3 then
      some { lkind := 2, partition := some e.partition, indexFirst := e.index, indexLast := e.index, subject := s.die,
             frame := frame, quantity := none }
    else if e.flags.getLsbD 4 then
      some { lkind := 3, partition := some e.partition, indexFirst := e.index, indexLast := e.index, subject := s.die,
             frame := frame, quantity := none }
    else none

/-- A snapshot of a frame is due for a partition (R477), or is its final one (R90). -/
def snapshotDueFor (p frame : Nat) (b : SnapBuf) (s : State) : Bool :=
  s.stw.releasing.contains p || frame % b.stride == b.stride - 1

/-- The bytes of a header's fields, in their order (R10). -/
def headerBytes (l : List Fld) : List Byte := l.flatMap fun f => bytesOf f.val (f.width / 8)

/-- A counter entry and a gauge entry of a snapshot, 16 and 8 bytes (R93). -/
def snapCounterBytes (e : CounterEntry) : List Byte :=
  bytesOf e.index 2 ++ bytesOf e.flags.toNat 2 ++ bytesOf e.residue 4 ++ bytesOf e.delta 8
def snapGaugeBytes (e : GaugeEntry) : List Byte :=
  bytesOf (e.index + 1024 * e.sample + 4096 * bnat e.stale) 2 ++ bytesOf 0 2 ++ bytesOf e.value 4

/-- One partition's snapshot is written, or dropped and counted when its chain has no room (R92, R93). -/
def writeSnapshot (p frame period closeFt missFirst missCount : Nat) (quality : BitVec 8) (es : List CounterEntry)
    (gs : List GaugeEntry) (s : State) : State :=
  let b := tget SnapBuf.none p s.smp.snaps
  let cs := es.filter fun e => e.partition == p
  let gs := gs.filter fun e => e.partition == p
  let fields := [f16 0 0x534E, f8 2 1, f8 3 quality.toNat, f16 4 p,
    f16 6 (bnat (b.overruns != 0) + 2 * bnat (countersOut s || deadCount 6 s != 0)), f64 8 frame, f32 0x10 period,
    f32 0x14 s.epoch, f32 0x18 s.die, f16 0x1C cs.length, f16 0x1E gs.length, f32 0x20 b.seq, f32 0x24 b.overruns,
    f64 0x28 closeFt, f64 0x30 missFirst, f32 0x38 missCount]
  let header := fields ++ [f32 0x3C (crc32c (headerBytes fields)).toNat]
  let mine := bufferMine p b.chain s
  let takes := mine && chainTakes b.chain s
  let b' : SnapBuf := { b with seq := b.seq + 1, overruns := if takes then 0 else b.overruns + 1 }
  let s := onSmp (fun m => { m with snaps := tput SnapBuf.none p b' m.snaps }) s
  let s := when (!mine) (dropForeign p) s
  let bytes := 64 + (cs.flatMap snapCounterBytes).length + (gs.flatMap snapGaugeBytes).length
  when takes (chainWrite b.chain bytes (.snapshot header cs gs)) s

/-- What a release changes at the boundary: the partition's counters unbound, its gauges disabled (R90). -/
def releaseChanges (p frame : Nat) (s : State) : State :=
  let s := forEach (s.smp.counters.filter fun e => bindEnable e.2.binding && bindPartition e.2.binding == p)
    (fun e => addChange frame (.unbind e.1)) s
  forEach (s.smp.gauges.filter fun e => gaugeEnable e.2.config && gaugePartition e.2.config == p)
    (fun e => addChange frame (.gauge e.1 (putBit e.2.config 0 false))) s

/-- A partition whose final snapshot has been delivered is released (R90, R386). -/
def finishRelease (p : Nat) (s : State) : State :=
  let s := setSnapshot p none 0 s
  let s := forEach (s.smp.cmps.filter fun e => cmpPartition e.1 s == p)
    (fun e => onCmp e.1 (fun c => { c with enable := false, latch := none })) s
  let s := onStw (fun t => { t with releasing := t.releasing.filter (· != p) }) s
  let s := forEach (s.stw.slots.filter fun x => x.2.isOpen && x.2.partition == p) (fun x => closeSlot x.1 (some 1)) s
  complete (.partitionRelease p) Config.ok [] s

/-- Counter-delta comparators evaluate once at the close, at the closing boundary's ft (R80, R84). -/
def evalDeltas (es : List CounterEntry) (closeFt : Nat) (s : State) : State :=
  forEach (s.smp.cmps.filter fun e => e.2.enable && e.2.srcCounter && !(conc (e.1 / 256) s).fenced)
    (fun e s => match es.find? fun x => x.index == e.2.counter with
      | none => s
      | some x => evaluate e.1 false (min x.delta 0xFFFFFFFF) closeFt s) s

/-- Every concentrator has sealed the closed frame, or need not be waited for (R71, R76, R420). -/
def allSealed (s : State) : Bool :=
  (List.range 16).all fun c => (conc c s).sealed || (conc c s).fenced || (conc c s).skipSeal

end Sys2Proof.Machine
end

