-- ==== Sys2Proof/Machine/TraceOps.lean ====
section
/-!
DEFINITION. The Trace compressor's operations: source configuration fields, exclusion and admission, deltas and syncs,
blocks and where they go (R305 to R325).
-/

namespace Sys2Proof.Machine

/-! ## Configuration (R308) -/

def trcEnable (c : Word32) : Bool := c.getLsbD 0
def trcClass (c : Word32) : Nat := bits c.toNat 2 1
def trcDest (c : Word32) : Nat := bits c.toNat 4 3
def trcRatio (c : Word32) : Bool := c.getLsbD 5
def trcLevel (c : Word32) (l : Nat) : Bool := c.getLsbD (6 + l)
def trcPartition (c : Word32) : Nat := bits c.toNat 19 10
def trcChain (c : Word32) : Nat := bits c.toNat 23 20

/-- A configuration whose fields hold values of R308. -/
def trcFormOk (c : Word32) : Bool := bits c.toNat 31 24 == 0 && trcDest c != 0 && trcPartition c ≤ 512

/-- Level bits 1 to 3 are set. -/
def trcPrivileged (c : Word32) : Bool := trcLevel c 1 || trcLevel c 2 || trcLevel c 3

def sourceOf (n : Nat) (s : State) : Source := tget Source.idle n s.trc.sources

def onSource (n : Nat) (f : Source → Source) (s : State) : State :=
  onTrc (fun t => { t with sources := tmod Source.idle n f t.sources }) s

/-! ## Admission (R309 to R312) -/

/-- A grant in force covers a source at a level (R311). -/
def granted (src level : Nat) (s : State) : Bool :=
  s.trc.grants.any fun g => g.mask.getLsbD src && g.levels.getLsbD level

/-- A front may admit a packet (R309). -/
def mayAdmit (src : Nat) (p : TrcPacket) (s : State) : Bool :=
  let c := (sourceOf src s).config
  trcEnable c && (trcPartition c == 0 || trcPartition c == p.part) && trcLevel c p.priv
    && (p.priv == 0 || granted src p.priv s) && (p.priv != 3 || s.fuse.trcSecure)

/-- The queue of a front. -/
def frontQueue (f : Nat) (s : State) : List FrontPkt := tget [] f s.trc.fronts

/-- A packet arrives at a front: excluded, dropped or admitted in its cycle (R307, R309, R312). -/
def admitPacket (p : TrcPacket) (s : State) : State :=
  let src := 8 * p.front + p.channel
  if !mayAdmit src p s then onSource src (fun x => { x with excluded := tmod 0 p.priv (· + 1) x.excluded }) s
  else
    let so := sourceOf src s
    if (frontQueue p.front s).length < (4 - trcClass so.config) * 128 then
      let e : FrontPkt := { packet := p, dropped := so.gap, ft := ftStamp s, start := so.admitStart }
      onTrc (fun t => { t with fronts := tmod [] p.front (fun q => q ++ [e]) t.fronts })
        (onSource src (fun x => { x with admitted := x.admitted + 1, gap := 0, admitStart := false }) s)
    else onSource src (fun x => { x with ingestDrops := x.ingestDrops + 1, gap := x.gap + 1 }) s

/-! ## Lanes of a packet (R314) -/

/-- The 16 bytes of a trace packet. -/
def tracePktBytes (p : TracePkt) : List Byte :=
  let low := p.delta % 65536 + 65536 * p.ptype
  let tail1 := p.source * 2 ^ 24 + p.cls * 2 ^ 30
  match p.ptype with
  | 1 => bytesOf (low + p.skind * 2 ^ 20 + p.ft / 2 ^ 56 % 256 * 2 ^ 24) 4 ++ bytesOf (p.ft / 2 ^ 32 % 2 ^ 24 + tail1) 4
      ++ bytesOf 0 4 ++ bytesOf p.ft 4
  | 2 => bytesOf (low + p.partition % 1024 * 2 ^ 22) 4 ++ bytesOf (min p.count 0xFFFFFF + tail1) 4 ++ bytesOf 0 8
  | _ => bytesOf (low + p.priv % 4 * 2 ^ 20 + p.partition % 1024 * 2 ^ 22) 4 ++ bytesOf (p.info % 2 ^ 24 + tail1) 4
      ++ bytesOf p.data.toNat 8

/-! ## Blocks out (R317, R322 to R325) -/

/-- Bytes that wait in staging. -/
def stagedSize (s : State) : Nat := s.trc.staged.foldl (fun n b => n + b.2.2.size) 0

/-- The lowest class present among staged blocks: the highest number. -/
def lowestStaged (s : State) : Nat := listMax (s.trc.staged.map fun b => b.2.1)

/-- The newest staged block of a class leaves. -/
def dropNewest (cls : Nat) (l : List (Nat × Nat × Block)) : List (Nat × Nat × Block) :=
  ((l.reverse.takeWhile fun b => b.2.1 != cls) ++ (l.reverse.dropWhile fun b => b.2.1 != cls).tail).reverse

/-- The source of the newest staged block of a class. -/
def newestSource (cls : Nat) (s : State) : Nat :=
  match s.trc.staged.reverse.find? fun b => b.2.1 == cls with
  | some b => b.1
  | none => 0

/-- A discarded block counts against its source (R323, R325). -/
def countDiscard (src : Nat) (s : State) : State := onSource src (fun x => { x with discarded := x.discarded + 1 }) s

/-- A block for the uplink waits in staging; where that is full, the newest block of the lowest class present gives way
unless that class is higher than the arriving block's, which is then discarded (R323). -/
def stageBlock : Nat → Nat → Nat → Block → State → State
  | 0, src, _, _, s => countDiscard src s
  | fuel + 1, src, cls, b, s =>
    if stagedSize s + b.size ≤ 1024 * regionKib .staging s then
      onTrc (fun t => { t with staged := t.staged ++ [(src, cls, b)] }) s
    else
      let low := lowestStaged s
      if s.trc.staged.isEmpty || low < cls then countDiscard src s
      else
        let victim := newestSource low s
        stageBlock fuel src cls b
          (onTrc (fun t => { t with staged := dropNewest low t.staged }) (countDiscard victim s))

/-- A block for `BUF` goes to the source's chain under the partition check of R91; a chain with no further descriptor
discards it (R324, R325). -/
def chainBlock (src : Nat) (b : Block) (s : State) : State :=
  let c := (sourceOf src s).config
  let lost (s : State) : State :=
    onSource src (fun x => { x with discarded := x.discarded + 1, overruns := x.overruns + 1 }) s
  match chainFind 0 (trcChain c) s with
  | none => lost s
  | some (n, _) =>
    if !bufferMine (trcPartition c) n s then dropForeign (trcPartition c) s
    else if chainTakes n s then chainWrite n b.size (.block src b) s
    else lost s

/-- The open block of a source is coded and put out, `FLUSHED` where it ends early; `BSEQ` advances (R318, R320, R322). -/
def emitTraceBlock (src : Nat) (flushed : Bool) (s : State) : State :=
  let so := sourceOf src s
  if so.openPkts.isEmpty then s
  else
    let size := if trcRatio so.config then 128 else 64
    let b := codeBlock (traceStyle size) (so.openPkts.flatMap tracePktBytes) flushed so.bseq
    let s := onSource src (fun x => { x with openPkts := [], bseq := x.bseq + 1, cut := x.cut + b.cutUnits }) s
    let s := when (trcDest so.config == 1 || trcDest so.config == 3) (chainBlock src b) s
    when (trcDest so.config == 2 || trcDest so.config == 3)
      (stageBlock (s.trc.staged.length + 1) src (trcClass so.config) b) s

/-- A packet joins its source's open block; a block whose input reaches 256 bytes is full (R322). -/
def addTracePkt (p : TracePkt) (s : State) : State :=
  let s := onSource p.source (fun x => { x with
    openPkts := x.openPkts ++ [p], openSince := if x.openPkts.isEmpty then s.time.timer else x.openSince }) s
  when ((sourceOf p.source s).openPkts.length ≥ 16) (emitTraceBlock p.source false) s

/-! ## Deltas and syncs (R315, R316) -/

/-- What precedes a data packet, with the data packet itself.  A start sync is a sync of the stream, so that no periodic one
falls due beside it (DEDUCED, assumption 153). -/
def streamPackets (src : Nat) (e : FrontPkt) (so : Source) : List TracePkt :=
  let cls := trcClass so.config
  let start := so.startDue || e.start
  let d := e.packet.cycle - so.lastCycle
  let ovf := !start && 65535 < d
  let periodic := !start && !ovf && 4096 ≤ so.sinceSync
  let sync := start || ovf || periodic
  let gap := e.dropped != 0
  let blank : TracePkt :=
    { ptype := 1, delta := 0, priv := 0, skind := 0, partition := trcPartition so.config, info := 0, source := src,
      cls := cls, count := 0, data := 0, ft := e.ft }
  let syncs : List TracePkt :=
    if start then [blank]
    else if ovf then [{ blank with skind := 2 }]
    else if periodic then [{ blank with skind := 1, delta := d }]
    else []
  let gaps : List TracePkt := if gap then [{ blank with ptype := 2, count := e.dropped, delta := if sync then 0 else d }] else []
  syncs ++ gaps ++
    [{ blank with ptype := 0, priv := e.packet.priv, partition := e.packet.part, info := e.packet.info,
                  data := e.packet.data, delta := if sync || gap then 0 else d }]

/-- The compressor takes a front's oldest packet into its source's stream (R313, R315). -/
def servePacket (f : Nat) (s : State) : State :=
  match frontQueue f s with
  | [] => s
  | e :: rest =>
    let src := 8 * e.packet.front + e.packet.channel
    let so := sourceOf src s
    let ps := streamPackets src e so
    let synced := ps.any fun p => p.ptype == 1
    let s := onTrc (fun t => { t with fronts := tput [] f rest t.fronts }) s
    let s := onSource src (fun x => { x with
      startDue := false, lastCycle := e.packet.cycle, sinceSync := if synced then 1 else x.sinceSync + 1 }) s
    forEach ps addTracePkt s

/-- The front that the rotation serves next: of those that hold packets, the first from the turn on (R313). -/
def nextFront (s : State) : Option Nat :=
  ((List.range 8).map fun k => (s.trc.turn + k) % 8).find? fun f => !(frontQueue f s).isEmpty

/-- A front in its turn is served, and the turn passes on; a front out of turn waits (R313). -/
def serveFront (f : Nat) (s : State) : State :=
  if nextFront s = some f then onTrc (fun t => { t with turn := (f + 1) % 8 }) (servePacket f s) else s

/-- Sources that a mask names. -/
def maskSources (mask : Word64) : List Nat := (List.range 64).filter fun i => mask.getLsbD i

/-- The sources of a chain restart with a start sync (R315, R325). -/
def restartChain (chain : Nat) (s : State) : State :=
  let mark (e : Nat × Source) : Nat × Source :=
    if trcChain e.2.config == chain then (e.1, { e.2 with startDue := true }) else e
  onTrc (fun t => { t with sources := t.sources.map mark }) s

/-- Every configured source restarts with a start sync (R328). -/
def restartSources (s : State) : State :=
  onTrc (fun t => { t with sources := t.sources.map fun e => (e.1, { e.2 with startDue := true }) }) s

/-- The open blocks of every source end, before the compressor quiesces (R322, R434). -/
def flushTrace (s : State) : State :=
  forEach ((s.trc.sources.filter fun e => !e.2.openPkts.isEmpty).map (·.1)) (fun i => emitTraceBlock i true) s

/-- A compressor reset: open blocks are lost and their data packets counted; staged blocks and `BSEQ` survive (R328). -/
def resetTrace (s : State) : State :=
  restartSources (onTrc (fun t => { t with sources := t.sources.map fun e =>
    (e.1, { e.2 with openPkts := [], lostPkts := e.2.lostPkts + (e.2.openPkts.filter fun p => p.ptype == 0).length }) }) s)

end Sys2Proof.Machine
end

