-- ==== Sys2Proof/Machine/BufCmd.lean ====
section
/-!
DEFINITION. Answers of the surroundings on `BUF` (R373, R391, R406), and the append command (0x0B06).
-/

namespace Sys2Proof.Machine

/-- Trace blocks that are dropped count against their sources (R325). -/
def countBlocks (l : List (Nat × BufData)) (s : State) : State :=
  forEach l (fun h s => match h.2 with
    | .block src _ => onSource src (fun x => { x with discarded := x.discarded + 1, overruns := x.overruns + 1 }) s
    | _ => s) s

/-- The partition of data that waits in a chain: a trace block's source's, else the chain's own (R91, R324). -/
def dataPartition (c : Chain) (d : BufData) (s : State) : Nat :=
  match d with
  | .block src _ => trcPartition (sourceOf src s).config
  | _ => c.partition

/-- Data that waited goes into the buffer that is open now, which for the Sampler's and the compressor's chains is checked
again (R91, R324). -/
def chainPut (n : Nat) (h : Nat × BufData) (s : State) : State :=
  let c := tget Chain.empty n s.buf.chains
  let p := dataPartition c h.2 s
  if (c.ckind ≤ 1 || c.ckind == 5) && !bufferMine p n s then dropForeign p s else chainWrite n h.1 h.2 s

/-- Dropped snapshots count against their partition's stream (R92). -/
def countDropped (c : Chain) (k : Nat) (s : State) : State :=
  if c.ckind = 1 then
    onSmp (fun m => { m with snaps := tmod SnapBuf.none c.partition (fun b => { b with overruns := b.overruns + k }) m.snaps }) s
  else s

/-- A chain goes on in its next descriptor, with the data that waited; one withdrawn meanwhile ends once that is written. -/
def chainResume (n : Nat) (d : Desc) (s : State) : State :=
  let c := tget Chain.empty n s.buf.chains
  let s := onChain n (fun c => { c with cur := some d, closing := none, fill := 0, held := [] }) s
  let s := forEach c.held (chainPut n) s
  when (c.ckind == 5) (chainWithdraw n) s

/-- What the owner of a chain counts as lost with all that waits in it. -/
def heldLost (c : Chain) : Nat := c.held.foldl (fun k h => k + lostWith h.2) 0

/-- A chain with no further descriptor is exhausted: what waited is dropped and counted (R92, R325, R373). -/
def chainExhaust (n : Nat) (s : State) : State :=
  let c := tget Chain.empty n s.buf.chains
  if c.ckind = 5 then chainDrop n s
  else countDropped c (heldLost c) <| countBlocks c.held
    (onChain n (fun c => { c with cur := none, closing := none, fill := 0, held := [], overruns := c.overruns + c.held.length }) s)

/-- The next descriptor of a chain: `NEXT` as it was read, else one linked by the append command. -/
def nextDesc (c : Chain) (next : Option Desc) : Option (Desc × List Desc) :=
  match next, c.queue with
  | some d, q => some (d, q)
  | none, d :: q => some (d, q)
  | none, [] => none

/-- The close of a chain's buffer is answered. -/
def closeAnswered (n : Nat) (err : Bool) (next : Option Desc) (s : State) : State :=
  let c := tget Chain.empty n s.buf.chains
  match c.closing with
  | none => s
  | some d =>
    if err then chainExhaust n (descDone n d c.fill Config.bufferFault true s)
    else
      match nextDesc c next with
      | none => chainExhaust n (descDone n d c.fill Config.ok true s)
      | some (d', q) =>
        let s := descDone n d c.fill Config.ok false s
        if descOk c.partition d' s then chainResume n d' (onChain n (fun c => { c with queue := q }) s)
        else chainExhaust n (onBuf (fun b => { b with faults := b.faults + 1 }) s)

/-- The last buffer of a query's result has closed: the result is out, `TRUNCATED` if the chain was full, and the query
completes with its header (R253). -/
def queryWritten (n rest status : Nat) (s : State) : State :=
  match s.arc.queries.find? fun q => q.chain == n && q.result.isSome with
  | none => s
  | some q =>
    match q.result with
    | none => s
    | some res =>
      let flags := res.rflags + bnat (rest != 0)
      let r : QueryResult := { res with rflags := flags }
      let s := emit (.buf q.desc.partition n (.result r)) s
      let mark (x : QueryState) : QueryState := if x.chain = n then { x with done := true, result := none } else x
      let s := onArc (fun a => { a with queries := a.queries.map mark }) s
      complete (.query q.query.queryId) status (res.header ++ [f16 0x34 flags]) s

/-- The close of a command's output buffer is answered: the rest follows `NEXT`, or the command completes with what it
wrote (R391). -/
def outputAnswered (n rest fill : Nat) (err : Bool) (next : Option Desc) (s : State) : State :=
  let c := tget Chain.empty n s.buf.chains
  match c.closing with
  | none => s
  | some d =>
    let finishWith (st : Nat) (s : State) : State :=
      chainDrop n (complete (.output n) st [f32 0 d.descId, f32 4 fill] (queryWritten n rest st s))
    if err then finishWith Config.bufferFault (descDone n d c.fill Config.bufferFault true s)
    else
      match next with
      | none => finishWith Config.ok (descDone n d c.fill Config.ok true s)
      | some d' =>
        let s := descDone n d c.fill Config.ok false s
        if rest = 0 then finishWith Config.ok s
        else if !descOk c.partition d' s then finishWith Config.bufferFault s
        else
          let part := min rest d'.len
          let s := onChain n (fun c => { c with closing := some d', fill := part }) s
          bufIssue c.partition (.output n (rest - part) (fill + part)) (.bufRead d'.selfAddr) s

/-- A failed operation ends with `BUFFER_FAULT` and its owner counts it (R92, R406). -/
def bufFailed (op : BufOp) (s : State) : State :=
  let s := onBuf (fun b => { b with faults := b.faults + 1 }) s
  match op.use with
  | .close n => closeAnswered n true none s
  | .output n rest fill => outputAnswered n rest fill true none s
  | .write n lost =>
    countDropped (tget Chain.empty n s.buf.chains) lost
      (onChain n (fun c => { c with overruns := c.overruns + 1 }) s)
  | .ringWrite _ => s

/-- A completed operation. -/
def bufDone (op : BufOp) (next : Option Desc) (s : State) : State :=
  match op.use with
  | .close n => closeAnswered n false next s
  | .output n rest fill => outputAnswered n rest fill false next s
  | _ => s

/-- `BUF_RESPONSE`: an outstanding operation completes, or ends with `BUFFER_FAULT` (R406). -/
def execBufResponse (id : Nat) (err : Bool) (next : Option Desc) (s : State) : Host.Outcome State Fault Refusal :=
  run (fun s =>
    match s.buf.ops.find? fun o => o.id == id with
    | none => s
    | some op => (if err then bufFailed op else bufDone op next) (bufRetire id s)) s

/-- `BUF_TIMEOUT`: an operation unanswered for 1 ms ends with `BUFFER_FAULT` (R406). -/
def execBufTimeout (id : Nat) (s : State) : Host.Outcome State Fault Refusal :=
  run (fun s =>
    match s.buf.ops.find? fun o => o.id == id with
    | none => s
    | some op => bufFailed op (bufRetire id (untilTimer (op.issued + 1000000) s))) s

/-- A descriptor is linked at the tail of a chain; an exhausted chain resumes in it (R325, R373). -/
def chainAppend (n : Nat) (d : Desc) (s : State) : State :=
  let c := tget Chain.empty n s.buf.chains
  if c.cur.isNone && c.closing.isNone then
    chainResume n d (when (c.ckind == 0) (restartChain c.index) s)
  else onChain n (fun c => { c with queue := c.queue ++ [d] }) s

/-- A tenant may append to its own trace chains and snapshot chain (0x0B06). -/
def mayAppend (i : Issuer) (c : Chain) : Bool := !isTenant i || (c.partition == issuerPart i && c.ckind ≤ 1)

/-- `BUF_CHAIN_APPEND` (0x0B06). -/
def execBufChainAppend (r : Req) (ckind chain : Nat) (desc : Desc) (s : State) : Host.Outcome State Fault Refusal :=
  run (serve { code := 0x0B06, allow := { t := true } } r (ckind ≤ 3) fun s =>
    let index := if ckind = 0 then chain else if ckind = 1 then issuerPart r.issuer else 0
    match chainFind ckind index s with
    | none => deny Config.notFound s
    | some (n, c) =>
      if !mayAppend r.issuer c then deny Config.notFound s
      else if !descOk (issuerPart r.issuer) desc s then deny Config.bufferFault s
      else done [] (chainAppend n desc s)) s

end Sys2Proof.Machine
end

