-- ==== Sys2Proof/Machine/ArcadeOps.lean ====
section
/-!
DEFINITION. The Arcade's logs and segments: ingest, reclaim, sealing, memory operations and the failure of a port (R234 to
R246, R256, R257).
-/

namespace Sys2Proof.Machine

/-- Bytes of a segment (1 MiB), segments on a port (R238). -/
def segmentBytes : Nat := 1048576
def segmentsPerPort : Nat := 524272

/-- Live `MEM` ports. -/
def livePorts (s : State) : List Nat := (List.range 8).filter fun p => !s.arc.deadPorts.contains p

/-- Bytes an entry takes: its header and its payload padded to 16 (R241). -/
def entrySpace (bytes : Nat) : Nat := 16 + 16 * ceilDiv bytes 16

/-- Segments that hold space: those not lost with their port. -/
def heldSegments (s : State) : List Segment := s.arc.segments.filter fun g => !g.lost

/-- The lowest place on a port where no segment lies (DESIGN CHOICE, assumption 147). -/
def freeSlot (port : Nat) (s : State) : Option Nat :=
  let used := ((heldSegments s).filter fun g => g.port == port).map (·.slot)
  ((List.range (min (used.length + 1) segmentsPerPort)).find? fun k => !used.contains k)

/-- The next live port with a free place after a port, in ascending order (R239). -/
def nextPort (after : Nat) (s : State) : Option Nat :=
  ((List.range 8).map fun k => (after + 1 + k) % 8).find? fun p => !s.arc.deadPorts.contains p && (freeSlot p s).isSome

/-! ## Memory operations (R234, R237, R407) -/

/-- Address bits [38:8] of a segment's first 256 bytes: segments lie above the 16 MiB of the port's directory (R238). -/
def segmentLine (g : Segment) : Nat := 65536 + 4096 * g.slot

/-- Those of its directory entry of 32 bytes (R242). -/
def directoryLine (g : Segment) : Nat := g.slot / 8

/-- An operation of the ingest allocation, or of the directory's. -/
def isIngest (o : MemOp) : Bool :=
  match o.use with
  | .entry _ => true
  | .header => true
  | _ => false
def isDirectory (o : MemOp) : Bool := o.use == .directory

/-- An operation's allocation has room (R237). -/
def mayIssue (s : State) (o : MemOp) : Bool :=
  if isIngest o then (s.arc.ops.filter isIngest).length < Config.ingestOps
  else if isDirectory o then (s.arc.ops.filter isDirectory).length < Config.directoryOps
  else true

/-- A tag that no operation in flight on the port has (R407). -/
def freeTag (port : Nat) (s : State) : Nat :=
  let used := (s.arc.ops.filter fun o => o.port == port).map (·.tag)
  (((List.range (used.length + 1)).map fun k => (s.arc.nextTag + k) % 65536).find? fun t => !used.contains t).getD 0

/-- An operation is issued. -/
def memStart (o : MemOp) (s : State) : State :=
  let t := freeTag o.port s
  emit (.mem o.port t o.write o.addr) (onArc (fun a => { a with
    nextTag := (t + 1) % 65536, ops := a.ops ++ [{ o with tag := t, issued := s.time.timer }] }) s)

/-- Operations that wait are issued while their allocations last, oldest first (R237). -/
def issueWaiting : Nat → State → State
  | 0, s => s
  | fuel + 1, s =>
    match s.arc.waiting.find? (mayIssue s) with
    | none => s
    | some o => issueWaiting fuel (memStart o (onArc (fun a => { a with waiting := a.waiting.erase o }) s))

/-- Operations join those that wait, and go out as their allocations allow. -/
def memQueue (l : List MemOp) (s : State) : State :=
  let s := onArc (fun a => { a with waiting := a.waiting ++ l }) s
  issueWaiting s.arc.waiting.length s

/-- One write operation. -/
def memWrite (g : Segment) (addr : Nat) (use : MemUse) : MemOp :=
  { port := g.port, tag := 0, write := true, addr := addr, use := use, issued := 0 }

/-! ## What the engines of a query read (R250, R254) -/

/-- A query that runs, by its chain. -/
def runningQuery (chain : Nat) (s : State) : Option QueryState := s.arc.queries.find? fun q => q.chain == chain && q.running

/-- A query changed, by its chain. -/
def onQuery (chain : Nat) (f : QueryState → QueryState) (s : State) : State :=
  onArc (fun a => { a with queries := a.queries.map fun q => if q.chain = chain then f q else q }) s

/-- One engine of a query changed. -/
def onScan (chain engine : Nat) (f : Scan → Scan) (s : State) : State :=
  onQuery chain (fun q => { q with scans := q.scans.map fun c => if c.engine = engine then f c else c }) s

/-- A segment is skipped by a query: taken by reclaim, or a hole (R250). -/
def skipSegment (hole : Bool) (q : QueryState) : QueryState :=
  { q with skippedMib := q.skippedMib + 1, overwritten := q.overwritten || !hole, holes := q.holes || hole }

/-- An engine goes on: it begins its next segment, or issues a further read within its allocation. -/
def driveScan (chain engine : Nat) : Nat → State → State
  | 0, s => s
  | fuel + 1, s =>
    match (runningQuery chain s).bind fun q => q.scans.find? fun c => c.engine == engine with
    | none => s
    | some c =>
      match c.cur, c.todo with
      | none, [] => s
      | none, x :: t =>
        let s := onScan chain engine (fun c => { c with todo := t }) s
        match s.arc.segments.find? fun g => g.seq == x with
        | none => driveScan chain engine fuel (onQuery chain (skipSegment false) s)
        | some g =>
          if g.lost then driveScan chain engine fuel (onQuery chain (skipSegment true) s)
          else driveScan chain engine fuel (onScan chain engine (fun c => { c with cur := some (x, 0, ceilDiv g.fill 256, 0) }) s)
      | some (x, next, lines, got), _ =>
        let flying := (s.arc.ops.filter fun o => o.use == .scan chain engine).length
        match s.arc.segments.find? fun g => g.seq == x with
        | none => s
        | some g =>
          if next < lines ∧ flying < Config.engineOps then
            driveScan chain engine fuel (memStart
              { port := g.port, tag := 0, write := false, addr := segmentLine g + next, use := .scan chain engine, issued := 0 }
              (onScan chain engine (fun c => { c with cur := some (x, next + 1, lines, got) }) s))
          else s

/-- Steps that an engine can take before it waits for an answer. -/
def driveFuel (s : State) : Nat := Config.engineOps + 2 * s.arc.segments.length + 2

/-- An engine goes on. -/
def drive (chain engine : Nat) (s : State) : State := driveScan chain engine (driveFuel s) s

/-- A read of an engine is answered; a segment of which every read is answered has been seen (R250). -/
def scanAnswered (chain engine : Nat) (s : State) : State :=
  match (runningQuery chain s).bind fun q => q.scans.find? fun c => c.engine == engine with
  | none => s
  | some c =>
    match c.cur with
    | none => s
    | some (x, next, lines, got) =>
      match s.arc.segments.find? fun g => g.seq == x with
      | none => s
      | some g =>
        if got + 1 < lines then drive chain engine (onScan chain engine (fun c => { c with cur := some (x, next, lines, got + 1) }) s)
        else drive chain engine (onQuery chain (fun q => { q with
          seen := q.seen ++ g.entries.map (fun e => (x, e)), read := q.read + g.fill })
          (onScan chain engine (fun c => { c with cur := none }) s))

/-- A segment leaves under the engines that have still to read it: overwritten, or a hole (R250). -/
def markSkipped (g : Segment) (hole : Bool) (s : State) : State :=
  let reads (c : Scan) : Bool := c.todo.contains g.seq || (match c.cur with
    | some x => x.1 == g.seq
    | none => false)
  let drop (c : Scan) : Scan :=
    { c with todo := c.todo.filter (· != g.seq), cur := c.cur.filter fun x => x.1 != g.seq }
  let hit := s.arc.queries.filter fun q => q.running && q.scans.any reads
  let s := forEach hit (fun q => onQuery q.chain fun q => skipSegment hole { q with scans := q.scans.map drop }) s
  forEach hit (fun q s => forEach (q.scans.filter reads) (fun c => drive q.chain c.engine) s) s

/-! ## Segments (R239, R244) -/

/-- The oldest sealed segment that is not held is reclaimed; its place, for the segment that takes it (R244). -/
def reclaim (s : State) : Option (Nat × Nat) × State :=
  match (heldSegments s).find? fun g => g.sealed && !g.held with
  | none => (none, s)
  | some g => (some (g.port, g.slot), onArc (fun a => { a with segments := a.segments.filter (· != g) }) (markSkipped g false s))

/-- Where a new segment goes: on the next live port in rotation, or in the place of a reclaimed one when none is free. -/
def placeSegment (s : State) : Option (Nat × Nat) × State :=
  match nextPort s.arc.lastPort s with
  | some p => ((freeSlot p s).map fun k => (p, k), s)
  | none => reclaim s

/-- A segment changed. -/
def onSegment (seq : Nat) (f : Segment → Segment) (s : State) : State :=
  onArc (fun a => { a with segments := a.segments.map fun g => if g.seq = seq then f g else g }) s

/-- The open segment of a log. -/
def openSegment (log : Nat) (s : State) : Option Segment :=
  s.arc.segments.find? fun g => g.log == log && !g.sealed && !g.lost

/-- The open segment of a log is sealed: its header and its directory entry are written (R239, R242). -/
def sealLog (log : Nat) (s : State) : State :=
  match openSegment log s with
  | none => s
  | some g => memQueue [memWrite g (segmentLine g) .header, memWrite g (directoryLine g) .directory]
      (onSegment g.seq (fun g => { g with sealed := true }) s)

/-- The segment that takes an entry: the open one while the entry fits, else a new one; `none` when no port is live. -/
def segmentFor (log bytes : Nat) (s : State) : Option Segment × State :=
  let fits : Bool := match openSegment log s with
    | some g => g.fill + entrySpace bytes ≤ segmentBytes
    | none => false
  if fits then (openSegment log s, s)
  else
    match placeSegment (sealLog log s) with
    | (none, s) => (none, s)
    | (some p, s) =>
      let g : Segment :=
        { seq := s.arc.nextSeq, port := p.1, slot := p.2, log := log, epoch := s.epoch, firstFt := s.time.ft,
          lastFt := s.time.ft, fill := 64, sealed := false, held := false, recovered := false, lost := false, entries := [] }
      (some g, onArc (fun a => { a with segments := a.segments ++ [g], nextSeq := a.nextSeq + 1, lastPort := p.1 }) s)

/-- The 256-byte lines of a segment that an entry lies in. -/
def entryLines (g : Segment) (bytes : Nat) : List Nat :=
  let first := g.fill / 256
  let last := (g.fill + entrySpace bytes - 1) / 256
  (List.range (last + 1 - first)).map (first + ·)

/-- An entry is skipped whole, its bytes counted against its source (R243, R256). -/
def arcSkip (source bytes : Nat) (s : State) : State :=
  onArc (fun a => { a with skipped := tmod 0 source (· + bytes) a.skipped, skippedTotal := a.skippedTotal + bytes }) s

/-- An entry is written from its staged copy; where every segment is held, it is skipped (R234, R244). -/
def arcWrite (log : Nat) (e : ArcEntry) (s : State) : State :=
  match segmentFor log e.bytes s with
  | (none, s) => arcSkip e.source e.bytes s
  | (some g, s) =>
    let ls := entryLines g e.bytes
    let id := s.arc.nextStaged
    memQueue (ls.map fun k => memWrite g (segmentLine g + k) (.entry id))
      (onArc (fun a => { a with nextStaged := id + 1, staged := a.staged ++ [{ id := id, log := log, entry := e, left := ls.length }] })
        (onSegment g.seq (fun g =>
          { g with entries := g.entries ++ [e], fill := g.fill + entrySpace e.bytes,
                   firstFt := if g.entries.isEmpty then e.arrival else g.firstFt, lastFt := e.arrival }) s))

/-- An operation is over: what waits for its allocation is issued; a staged entry is released with its last acknowledgement
(R237, R244). -/
def opDone (o : MemOp) (s : State) : State :=
  let s := onArc (fun a => { a with ops := a.ops.filter fun x => !(x.port == o.port && x.tag == o.tag) }) s
  let s := match o.use with
    | .entry id => onArc (fun a => { a with
        staged := (a.staged.map fun x => if x.id = id then { x with left := x.left - 1 } else x).filter fun x => x.left != 0 }) s
    | .scan chain engine => scanAnswered chain engine s
    | _ => s
  issueWaiting s.arc.waiting.length s

/-- Record bytes that a frame may ingest: 0.8 TB/s (R243). -/
def ingestLimit (s : State) : Nat := 800000 * s.grid.period

/-- Bytes that wait for their write to be acknowledged. -/
def stagedBytes (s : State) : Nat := s.arc.staged.foldl (fun n x => n + entrySpace x.entry.bytes) 0

/-- A Trace or Dump entry lies beyond what the other logs leave of the frame's 0.8 TB/s: theirs are taken as the more of this
frame's so far and of the latest frame's, and what went beyond in the latest frames counts against this one (R236, R243; DESIGN
CHOICE, assumption 148). -/
def overBudget (bytes : Nat) (s : State) : Bool :=
  let a := s.arc
  ingestLimit s < a.debt + (a.ingestFrame - a.firstFrame) + bytes + max a.firstFrame a.firstLast

/-- Subject of the Arcade's reports (R259). -/
def arcadeKey (s : State) : Nat := engineKey s.die 13

/-- A record reaches its log: Trace and Dump entries beyond the frame's 0.8 TB/s are skipped whole (R238, R243), and so is
any entry that finds the staging full (R256). -/
def arcIngest (log : Nat) (e : ArcEntry) (s : State) : State :=
  if !s.fuse.plaza || (livePorts s).isEmpty then s
  else if (log == 2 || log == 3) && overBudget e.bytes s then
    raise 0x0803 (arcadeKey s) 0 (arcSkip e.source e.bytes s)
  else if Config.ingestStaging < stagedBytes s + entrySpace e.bytes then arcSkip e.source e.bytes s
  else arcWrite log e (onArc (fun a => { a with
    ingestFrame := a.ingestFrame + e.bytes, firstFrame := a.firstFrame + (if log = 2 ∨ log = 3 then 0 else e.bytes) }) s)

/-- The ingest counts of a frame that closes (R243). -/
def closeIngest (s : State) : State :=
  let limit := ingestLimit s
  onArc (fun a => { a with
    ingestLast := a.ingestFrame, firstLast := a.firstFrame, debt := a.debt + a.ingestFrame - limit, ingestFrame := 0,
    firstFrame := 0 }) s

/-- An entry as it arrives at this chip: a Leaf of another tray is foreign (R241, R258). -/
def mkEntry (source bytes : Nat) (data : ArcData) (s : State) : ArcEntry :=
  { bytes := bytes, source := source, arrival := s.time.ft, lateAfterFinal := false, mismatch := false,
    foreign := sourceKind source == 0 && trayOf source != trayOf s.die, hosted := false, produced := false, holes := false,
    data := data }

/-! ## Port failure (R256, R257) -/

/-- Errors of a port within the latest second of ft. -/
def recentErrors (port : Nat) (s : State) : Nat :=
  (s.arc.errors.filter fun e => e.1 == port && s.time.ft < e.2 + 1000000000).length

/-- What the chip does with few live ports (R257). -/
def portShortage (s : State) : State :=
  match (livePorts s).length with
  | 0 => emit (.askLeader true) s
  | 1 => emit (.askLeader false) (raise 0x0802 (arcadeKey s) 0 s)
  | _ => s

/-- A port has failed. -/
def failPort (port : Nat) (s : State) : State :=
  if 8 ≤ port ∨ s.arc.deadPorts.contains port ∨ s.fuse.plaza = false then s
  else
    let s := assertFence (Config.memFenceLine port % 256) 4 0x0801 0 0 s
    let s := joinCds 7 port 4 0 0 s
    let gone := s.arc.segments.filter fun g => g.port == port && !g.lost
    let s := forEach gone (fun g => onSegment g.seq fun g => { g with lost := true, sealed := true, entries := [] }) s
    let here (o : MemOp) : Bool := o.port == port
    let lostOps := (s.arc.ops ++ s.arc.waiting).filter here
    let cut (x : Staged) : Bool := lostOps.any fun o => o.use == .entry x.id
    let again := s.arc.staged.filter cut
    let s := onArc (fun a => { a with
      ops := a.ops.filter (fun o => !here o), waiting := a.waiting.filter (fun o => !here o),
      staged := a.staged.filter (fun x => !cut x), errors := a.errors.filter (fun e => e.1 != port) }) s
    let s := forEach gone (fun g => markSkipped g true) s
    let s := forEach again (fun x => arcWrite x.log x.entry) s
    let s := issueWaiting s.arc.waiting.length s
    portShortage (raise 0x0801 (arcadeKey s) 0 s)

/-- An uncorrectable error of a port; 16 within 1 s fail it. -/
def portError (port : Nat) (s : State) : State :=
  let s := onArc (fun a => { a with errors := a.errors ++ [(port, s.time.ft)] }) s
  when (16 ≤ recentErrors port s) (failPort port) s

end Sys2Proof.Machine
end

