-- ==== Sys2Proof/Machine/RecordBytes.lean ====
section
/-!
DEFINITION. The bytes of the records that travel upward, by the layouts of R102 to R110, R125, R131, R138, R181, R188, R219,
R221, R273 and R276.  Their blocks decide how many bytes a record takes on the wire.
-/

namespace Sys2Proof.Machine

/-- Little-endian fields, each a width in bytes and a value. -/
def fields (l : List (Nat × Nat)) : List Byte := l.flatMap fun f => bytesOf f.2 f.1

/-- Bytes followed by their CRC-32C. -/
def withCrc (b : List Byte) : List Byte := b ++ bytesOf (crc32c b).toNat 4

/-! ## Ledger records -/

def reportBytes (r : Report) : List Byte :=
  withCrc (fields [(1, 0xFA), (1, bnat r.isOpen + 2 * bnat r.isClose + 4 * bnat r.continued), (2, r.code),
    (4, r.reporter), (8, r.subject), (8, r.ft), (4, r.epoch), (4, r.count), (18, packFirst8 r.first8), (1, r.tier),
    (1, r.detail), (8, r.window)])

def stormBytes (e : StormEntry) : List Byte :=
  withCrc (fields [(1, 0xFB), (1, bnat e.continued), (2, e.code), (4, e.source), (8, e.ft), (8, e.window), (4, e.epoch),
    (4, e.reports), (4, e.first), (1, e.tier), (1, 0), (2, e.codesShared), (20, 0)])

def alertBytes : AlertEntry → List Byte
  | .report r => reportBytes r
  | .storm e => stormBytes e

def childBytes (c : ChildStatus) : List Byte :=
  fields [(4, c.child), (4, c.epoch), (4, c.generation), (1, c.state), (1, c.lostFrags), (2, 0)]

/-- Slots as a bit map. -/
def slotMap (l : List Nat) : Nat := l.foldl (fun n i => n ||| 2 ^ i) 0

def coverBytes (c : CoverEntry) : List Byte := fields [(2, c.tray), (2, c.slots.length), (4, 0), (32, slotMap c.slots)]

def counterBytes (c : CounterEntry) : List Byte :=
  fields [(2, c.index), (2, c.flags.toNat), (2, c.partition + 1024 * c.prescale), (2, c.residue), (8, c.delta)]

def sumBytes (e : SumEntry) : List Byte :=
  fields [(2, e.index), (2, e.partition), (2, e.prescale + 16 * bnat e.repaired + 32 * bnat e.first + 64 * bnat e.last),
    (2, 0), (4, e.contrib), (4, e.void), (16, e.sum), (16, e.lost)]

def gaugeBytes (g : GaugeEntry) : List Byte :=
  fields [(2, g.index + 1024 * g.sample + 4096 * bnat g.stale + 8192 * bnat g.signed + 16384 * bnat g.inexact),
    (2, g.partition), (4, g.value)]

def aggBytes (a : AggEntry) : List Byte :=
  fields [(2, a.index + 1024 * bnat a.signed + 2048 * a.sample), (2, a.partition), (4, a.present), (4, a.inexact),
    (4, a.missing), (4, toField 32 a.min), (4, toField 32 a.max), (8, 0), (16, toField 128 a.sum)]

def lossBytes (l : LossEntry) : List Byte :=
  fields [(1, l.lkind), (1, 0), (2, l.partition.getD 0xFFFF), (2, l.indexFirst), (2, l.indexLast), (4, l.subject), (4, 0),
    (8, l.frame), (8, l.quantity.getD 0xFFFFFFFFFFFFFFFF)]

/-- The header of a ledger record (R102). -/
def ledgerHeader (r : Record) : List Byte :=
  withCrc (fields [(2, 0x4C47), (1, 1), (1, r.timeQuality.toNat), (1, r.kind), (1, r.tier + 4 * r.replica),
    (2, r.flags.toNat), (8, r.frame), (4, r.period), (4, r.epoch), (4, r.source), (4, r.seq), (4, r.generation),
    (4, r.counters.length + r.sums.length), (2, r.gauges.length + r.aggs.length), (2, r.losses.length),
    (2, r.children.length), (2, r.cover.length), (8, r.missFirst), (4, r.missCount)])

/-- The sections before the gauge section (R103). -/
def ledgerFront (r : Record) : List Byte :=
  r.children.flatMap childBytes ++ r.cover.flatMap coverBytes ++ r.counters.flatMap counterBytes ++ r.sums.flatMap sumBytes

/-- The sections after the Leaf gauge section. -/
def ledgerBack (r : Record) : List Byte :=
  r.aggs.flatMap aggBytes ++ r.losses.flatMap lossBytes ++ r.alerts.flatMap alertBytes

/-- A ledger record: header, sections, trailer (R102, R103). -/
def ledgerBytes (r : Record) : List Byte :=
  let body := ledgerFront r ++ r.gauges.flatMap gaugeBytes ++ ledgerBack r
  ledgerHeader r ++ body ++ bytesOf (crc32c body).toNat 4 ++ bytesOf r.alerts.length 2 ++ bytesOf 0 10

/-- Bytes of a record: what it takes of the retention region (R100). -/
def ledgerSize (r : Record) : Nat :=
  64 + 16 * r.children.length + 40 * r.cover.length + 16 * r.counters.length + 48 * r.sums.length + 8 * r.gauges.length
    + 48 * r.aggs.length + 32 * r.losses.length + 64 * r.alerts.length + 16

/-- A ledger record's blocks: its Leaf gauge section alone is truncatable (R317). -/
def ledgerBlocks (r : Record) : List Block :=
  let lo := 64 + (ledgerFront r).length
  recordBlocks (ledgerBytes r) lo (lo + 8 * r.gauges.length)

/-! ## Records of the Series class -/

def seriesEntryBytes (e : SeriesEntry) : List Byte :=
  fields [(2, e.sindex + 8192 * bnat e.inexact + 16384 * bnat e.missing + 32768 * bnat e.sat),
    (2, e.sstate + 4 * bnat e.level + 8 * bnat e.drift), (4, toField 32 e.value)]

def lateEntryBytes (e : LateEntry) : List Byte :=
  fields [(4, e.marker + 2 ^ 24 * e.lkind + 2 ^ 28 * e.cls), (4, e.occ), (8, toField 64 e.lateness)]

/-- A series record (R188). -/
def seriesBytes (r : SeriesRecord) : List Byte :=
  withCrc (fields [(2, 0x5352), (1, 1), (1, r.timeQuality.toNat), (2, r.srflags.toNat), (2, r.series.length), (8, r.frame),
    (4, r.period), (4, r.epoch), (4, r.die), (4, r.seq), (4, r.job), (2, r.late.length), (2, 0), (4, r.calCrc)])
  ++ r.series.flatMap seriesEntryBytes ++ r.late.flatMap lateEntryBytes

/-- Its blocks: the series section alone is truncatable (R317). -/
def seriesBlocks (r : SeriesRecord) : List Block := recordBlocks (seriesBytes r) 48 (48 + 8 * r.series.length)

/-- A histogram between tiers (R181): dense when more than 1,024 buckets are nonzero. -/
def histBytes (h : HistRecord) : List Byte :=
  let dense := 1024 < h.hist.buckets.length
  let entry (i n : Nat) : List Byte := fields [(8, i + 65536 * n)]
  let es := if dense then (List.range 2048).flatMap fun i => entry i (tget 0 i h.hist.buckets)
            else h.hist.buckets.flatMap fun b => entry b.1 b.2
  withCrc (fields [(2, 0x4853), (1, 1), (1, h.timeQuality.toNat),
    (1, bnat dense + 2 * bnat h.lateness + 4 * h.scope), (1, h.cls),
    (2, if dense then 2048 else h.hist.buckets.length), (4, h.job), (4, h.marker), (8, h.key), (4, h.hist.n),
    (4, h.hist.underN), (4, h.hist.overN), (4, h.hist.absent), (8, toField 64 h.hist.min), (8, toField 64 h.hist.max),
    (4, h.source)]) ++ es

/-- A feature descriptor (R202). -/
def featDescBytes (f : FeatDesc) : List Byte :=
  fields [(2, f.feature), (1, f.fkind), (1, f.shift + 32 * bnat f.missingIfStale + 64 * bnat f.missingIfWarm), (2, f.src),
    (2, 0), (4, toField 32 f.const), (4, 0)]

/-- An ensemble image, with 0 for `IMAGE_CRC` (R201 to R204). -/
def imageBytes (i : TreeImage) : List Byte :=
  fields [(2, i.tag), (1, i.version), (1, bnat i.alertEn + 2 * bnat i.alertAbove), (4, i.model), (2, i.partition),
    (2, i.features.length), (4, i.dir.length), (4, i.nodes.length), (4, toField 32 i.base), (8, toField 64 i.alertLevel),
    (2, i.scoreEvery), (1, i.maxDepth), (1, 0), (24, 0), (4, 0)]
  ++ i.features.flatMap featDescBytes
  ++ i.dir.flatMap (fun e => bytesOf (e.root + 2 ^ 32 * e.n + 2 ^ 49 * e.depth) 8)
  ++ i.nodes.flatMap fun n => bytesOf n.toNat 16

/-- An ensemble image as it lies in a buffer, with its `IMAGE_CRC`. -/
def imageFile (i : TreeImage) : List Byte := (imageBytes i).take 60 ++ bytesOf i.imageCrc 4 ++ (imageBytes i).drop 64

/-- An entry of a collective table (R269). -/
def collEntryBytes (e : CollEntry) : List Byte :=
  fields [(4, e.coll), (1, e.ckind), (1, bnat e.checkContrib + 2 * bnat e.checkResult + 4 * e.scope),
    (1, e.policy + 4 * e.fenceAfter), (1, 0), (4, e.ranks), (4, 0)]

/-- Bytes of an ensemble image (R201). -/
def imageSize (i : TreeImage) : Nat := 64 + 16 * i.features.length + 8 * i.dir.length + 16 * i.nodes.length

/-- A feature record (R219). -/
def featureBytes (r : FeatureRecord) : List Byte :=
  let bitmap := bytesOf (r.values.zipIdx.foldl (fun n v => if v.1.isSome then n ||| 2 ^ v.2 else n) 0)
    (8 * ceilDiv r.values.length 64)
  let body := bitmap ++ r.values.flatMap fun v => bytesOf (toField 32 (v.getD 0)) 4
  withCrc (fields [(2, 0x4656), (1, 1), (1, r.timeQuality.toNat), (2, bnat r.leafLate), (2, r.values.length), (8, r.frame), (4, r.die),
    (4, r.epoch), (4, r.model), (4, r.imageCrc), (8, toField 64 r.leafPartial), (2, r.leafTrees), (2, 0)])
  ++ withCrc body

def scoreEntryBytes (e : ScoreEntry) : List Byte :=
  fields [(4, e.model), (4, e.imageCrc), (4, e.die), (2, e.firstTree), (2, e.lastTree), (8, e.sframe),
    (8, toField 64 e.value), (2, e.scflags.toNat), (2, 0), (4, e.doneUs)]

/-- A score record (R221). -/
def scoreBytes (r : ScoreRecord) : List Byte :=
  withCrc (fields [(2, 0x5343), (1, 1), (1, r.timeQuality.toNat), (2, r.scores.length), (2, 0), (8, r.frame), (4, r.source),
    (4, r.epoch), (4, r.seq)]) ++ r.scores.flatMap scoreEntryBytes

def resultBytes (e : ResultEntry) : List Byte :=
  fields ([(4, e.job), (4, e.coll), (4, e.inst), (4, e.nChunk), (8, e.result.toNat), (4, e.unchk), (4, bnat e.incomplete)]
    ++ (List.range 16).map fun i => (8, (e.stripes.getD i 0).toNat))

/-- A digest record (R273). -/
def digestBytes (r : DigestRecord) : List Byte :=
  withCrc (fields [(2, 0x4447), (1, 1), (1, r.timeQuality.toNat), (2, r.dgflags.toNat), (2, r.results.length), (8, r.frame),
    (4, r.period), (4, r.epoch), (4, r.die), (4, r.seq), (4, r.chkOk), (4, r.chkBad), (4, r.chkNone)])
  ++ r.results.flatMap resultBytes

def tallyValueBytes (v : TallyValue) : List Byte :=
  fields ([(8, v.result.toNat), (4, v.count), (4, 0), (18, packFirst8 v.first8), (14, 0)]
    ++ (List.range 16).map fun i => (8, (v.stripes.getD i 0).toNat))

def tallyBlockBytes (b : TallyBlock) : List Byte :=
  fields [(4, b.job), (4, b.coll), (4, b.inst), (1, b.values.length), (1, bnat b.short), (2, 0), (4, b.scatter),
    (4, b.unchkRanks), (8, 0)] ++ b.values.flatMap tallyValueBytes

/-- A tally record (R276). -/
def tallyBytes (r : TallyRecord) : List Byte :=
  withCrc (fields [(2, 0x4454), (1, 1), (1, r.timeQuality.toNat), (2, r.blocks.length), (2, 0), (8, r.frame), (4, r.source),
    (4, r.epoch), (4, r.seq)]) ++ r.blocks.flatMap tallyBlockBytes

/-! ## Placement table parts (R138) -/

def altBytes (a : Nat × List Nat) : List Byte :=
  fields ([(4, a.1), (1, a.2.length), (3, 0)] ++ (List.range 8).map fun i => (4, a.2.getD i 0xFFFFFFFF))

def partEntryBytes (e : PartEntry) : List Byte :=
  fields [(4, e.model), (1, e.part), (3, 0), (4, e.firstTree), (4, e.lastTree), (4, e.host), (4, 0)]

/-- The header of a part (R138). -/
def partHeader (p : TablePart) : List Byte :=
  withCrc (fields ([(2, 0x5054), (1, 1), (1, bnat p.toLeaf + 2 * bnat p.drained + 4 * bnat p.noHost), (4, p.generation),
    (4, p.issuer), (4, p.target), (8, p.issueFt), (1, bnat p.rolePlaza + 2 * bnat p.roleQuarter + 4 * bnat p.roleForum),
    (1, p.qreplica), (1, p.freplica), (1, 0), (2, p.quarter), (2, p.standin), (4, p.ceiling), (2, p.alts.length),
    (2, p.parts.length)]
    ++ ([0, 1].map fun i => (2, p.qhosts.getD i 0xFFFF)) ++ ([0, 1, 2].map fun i => (2, p.fhosts.getD i 0xFFFF))
    ++ ([0, 1, 2].map fun i => (2, p.succs.getD i 0xFFFF)) ++ [(4, 0)]))

/-- A part: header, alternate lists, ensemble parts, trailer (R138). -/
def partBytes (p : TablePart) : List Byte :=
  let body := p.alts.flatMap altBytes ++ p.parts.flatMap partEntryBytes
  partHeader p ++ body ++ bytesOf (crc32c body).toNat 4 ++ bytesOf 0 12

/-- Its blocks, none coded inexactly (R138). -/
def partBlocks (p : TablePart) : List Block := recordBlocks (partBytes p) 0 0

/-- Bytes 0x00 to 0x2B of a packet's header (R331). -/
def packetHeader (p : Packet) : List Byte :=
  fields [(2, 0x4C50), (1, p.cls), (1, bnat p.first + 2 * bnat p.last + 4 * bnat p.resend), (4, p.src), (4, p.dst), (4, p.cseq),
    (4, p.epoch), (2, p.rtag), (1, p.nBlk), (1, 0), (4, p.rseq), (2, p.blkFirst), (2, p.blkTotal), (4, p.rlen), (1, p.echoTrace),
    (1, p.echoDump), (2, 0), (4, 0)]

/-- `HDR_CRC` of a packet (R331). -/
def packetCrc (p : Packet) : Nat := (crc32c (packetHeader p)).toNat

/-- Bytes of a part: header, alternate lists, ensemble parts, trailer. -/
def partSize (p : TablePart) : Nat := 64 + 40 * p.alts.length + 24 * p.parts.length + 16

/-! ## Messages (R364) -/

/-- The 112 bytes of a payload. -/
def payloadBytes (m : Msg) : List Byte :=
  if m.bytes.isEmpty then bytesOf (m.payload.foldl (fun n f => n ||| (f.val % 2 ^ f.width) <<< (8 * f.off)) 0) 112
  else (m.bytes ++ List.replicate 112 0).take 112

/-- `PLEN`: payload bytes used. -/
def payloadLen (m : Msg) : Nat :=
  if m.bytes.isEmpty then m.payload.foldl (fun n f => max n (f.off + ceilDiv f.width 8)) 0 else min 112 m.bytes.length

/-- The 128 bytes of a response or notice; `ORIGIN` bears what was stamped on the request (DEDUCED, assumption 156). -/
def msgBytes (origin : Nat) (m : Msg) : List Byte :=
  let hdr (o : Nat) : List Byte := fields [(2, m.cmd), (1, 1), (1, 1 + 4 * bnat m.final + 8 * bnat m.notice), (2, o),
    (2, m.session), (4, m.tag), (2, m.status), (1, payloadLen m)]
  hdr origin ++ [crc8 (hdr 0)] ++ payloadBytes m

end Sys2Proof.Machine
end

