-- ==== Sys2Proof/Machine/UplinkOps.lean ====
section
/-!
DEFINITION. The Uplink scheduler as shared operations: packets and queues, gates and the Kerb, the Roundabout, refills and
Law C (R329 to R352).
-/

namespace Sys2Proof.Machine

/-! ## Queues (R332, R345) -/

/-- The packets of a record join a class's queue. -/
def enqueue (cls : Nat) (ps : List Packet) (o : Out) (s : State) : State :=
  onUpl (fun u => { u with queues := tmod [] cls (fun q => q ++ withRecord o ps) u.queues }) s

/-- A record is queued to a destination. -/
def enqueueRecord (cls src dst rtag rseq rlen : Nat) (resend : Bool) (bs : List Block) (o : Out) (s : State) : State :=
  enqueue cls (recordPackets cls src dst rtag rseq rlen bs.length resend (blockSizes bs) s) o s

/-- Bytes of a record of the Series class formed in this frame (R350). -/
def countSeries (bytes : Nat) (s : State) : State :=
  onUpl (fun u => { u with seriesBytes := match u.seriesBytes with
    | [] => [(bytes, 0)]
    | a :: t => (a.1 + bytes, a.2) :: t }) s

/-- Wire bytes of packets. -/
def wireBytes (ps : List Packet) : Nat := ps.foldl (fun n p => n + p.bytes) 0

/-- A record of the Series class is queued and counted. -/
def enqueueSeries (src dst rtag rseq rlen : Nat) (bs : List Block) (o : Out) (s : State) : State :=
  let ps := recordPackets 2 src dst rtag rseq rlen bs.length false (blockSizes bs) s
  countSeries (wireBytes ps) (enqueue 2 ps o s)

/-- A ledger record with `EXPANDED` set when some block goes uncoded, and the number of such blocks (R112, R317). -/
def markExpanded (r : Record) : Record × Nat :=
  let n := ((ledgerBlocks r).filter fun b => b.size == 272).length
  if n = 0 then (r, 0) else ({ r with flags := r.flags ||| 0x20#16 }, n)

/-- The name of the role that sends a record. -/
def recordKey (r : Record) : Nat := replicaKey r.source r.replica

/-- A ledger record is queued to a destination. -/
def enqueueLedger (r : Record) (dst : Nat) (resend : Bool) (s : State) : State :=
  enqueueRecord 1 (recordKey r) dst 0x4C47 r.seq (ledgerSize r) resend (ledgerBlocks r) (.ledger dst r 0 0xFFFF) s

/-- Requested blocks of a record are queued again (R333). -/
def resendBlocks (r : Record) (dst first last : Nat) (s : State) : State :=
  let bs := ledgerBlocks r
  let sel := (blockSizes bs).filter fun b => first ≤ b.1 && b.1 ≤ last
  enqueue 1 (recordPackets 1 (recordKey r) dst 0x4C47 r.seq (ledgerSize r) bs.length true sel s) (.ledger dst r first last) s

/-- The sender of an adoption message by its kind: the child of a request, a confirm or a beacon, else the parent (R147). -/
def adoptSender (msg : Nat) (m : AdoptMsg) : Nat :=
  replicaKey (if msg = 1 ∨ msg = 3 ∨ msg = 8 then m.die else m.parent) m.rep

/-- An adoption message joins its queue (R147, R342). -/
def sendAdopt (dst msg : Nat) (m : AdoptMsg) (s : State) : State :=
  onUpl (fun u => { u with adoption := u.adoption ++ [(mkPacket 5 (adoptSender msg m) dst 0x4144 64 s, m, msg)] }) s

/-- The queue of a class. -/
def queueOf (cls : Nat) (s : State) : List QueuedPacket := tget [] cls s.upl.queues

/-- The account of a class. -/
def classOf (cls : Nat) (s : State) : UplClass := tget UplClass.zero cls s.upl.classes

/-- An account changed. -/
def onClass (cls : Nat) (f : UplClass → UplClass) (s : State) : State :=
  onUpl (fun u => { u with classes := tmod UplClass.zero cls f u.classes }) s

/-- The oldest staged blocks that one packet holds (R323, R331). -/
def stagedRun : Nat → Nat → List (Nat × Nat × Block) → List (Nat × Nat × Block)
  | _, _, [] => []
  | room, left, b :: t =>
    if left = 0 ∨ room < b.2.2.size then [] else b :: stagedRun (room - b.2.2.size) (left - 1) t

/-- The packet at the head of a class; Trace's is made of the blocks that wait in staging. -/
def headOf (cls : Nat) (s : State) : Option Packet :=
  if cls = 3 then
    match s.place.parent, stagedRun 4048 63 s.trc.staged with
    | some p, b :: t =>
      some { mkPacket 3 s.die p Config.traceRtag ((b :: t).foldl (fun n x => n + x.2.2.size) 0) s with nBlk := (b :: t).length }
    | _, _ => none
  else (queueOf cls s).head?.map fun q => q.packet

/-- What the packet at the head of a class completes at its destination. -/
def headCarries (cls : Nat) (s : State) : Option Out :=
  if cls = 3 then some (.traceRun ((stagedRun 4048 63 s.trc.staged).map fun b => (b.1, b.2.2)))
  else (queueOf cls s).head?.bind fun q => q.carries

/-- Something leaves the block where there is something. -/
def emitSome (o : Option Out) (s : State) : State :=
  match o with
  | none => s
  | some o => emit o s

/-- The head of a class leaves its queue. -/
def popHead (cls : Nat) (s : State) : State :=
  if cls = 3 then onTrc (fun t => { t with staged := t.staged.drop (stagedRun 4048 63 t.staged).length }) s
  else onUpl (fun u => { u with queues := tmod [] cls List.tail u.queues }) s

/-! ## Injection (R332, R335, R349) -/

/-- The key under which a class sequence is kept: class and source (R331). -/
def seqKey (cls src : Nat) : Nat := cls + 8 * src

/-- The names of a packet's sender and destination. -/
def srcKey (p : Packet) : Nat := replicaKey p.src p.srcRep
def dstKey (p : Packet) : Nat := replicaKey p.dst p.dstRep

/-- The next `CSEQ` of a class, source and destination. -/
def nextCseq (cls src dst : Nat) (s : State) : Nat :=
  match s.upl.cseq.find? fun c => c.1 == seqKey cls src && c.2.1 == dst with
  | some c => c.2.2
  | none => 0

/-- The sequence advances. -/
def bumpCseq (cls src dst : Nat) (s : State) : State :=
  let n := nextCseq cls src dst s
  onUpl (fun u => { u with cseq :=
    (seqKey cls src, dst, n + 1) :: u.cseq.filter fun c => !(c.1 == seqKey cls src && c.2.1 == dst) }) s

/-- The packet goes down the tiers. -/
def isDownward (p : Packet) : Bool := sourceKind p.dst < sourceKind p.src

/-- `UPL_VC`: the upward channel, that of downward Control, that of Adoption (R329, R403). -/
def virtualChannel (p : Packet) : Nat := if p.cls = 5 then 2 else if isDownward p then 1 else 0

/-- A packet is injected: `CSEQ` is assigned, a downward one carries the echo of its destination's marks (R332, R349), `HDR_CRC`
follows (R331, R352), and the link's send time is noted (R153). -/
def inject (p : Packet) (port : Nat) (s : State) : State :=
  let marks := tget (0, 0) (dstKey p) s.upl.marks
  let echo := isDownward p
  let p := { p with cseq := nextCseq p.cls (srcKey p) (dstKey p) s,
                    echoTrace := if echo then min marks.1 255 else 0, echoDump := if echo then min marks.2 255 else 0 }
  let s := bumpCseq p.cls (srcKey p) (dstKey p) s
  let s := when echo (onUpl fun u => { u with marks := tdel (dstKey p) u.marks }) s
  let s := onPlace (fun q => { q with sentAt := tput 0 (dstKey p) (s.time.live + 1) q.sentAt }) s
  emit (.upl { p with hdrCrc := packetCrc p } port (virtualChannel p) (childAddr (dstKey p) s)) s

/-! ## Gates and the Kerb (R337 to R341) -/

/-- The Kerb of a gate at a rate, ns (R341). -/
def kerbOf (rate margin : Nat) : Nat := ceilDiv 40960 (max rate 1) + margin

/-- The gate section of a calendar. -/
def gateSection (i : CalImage) : Option GateSection := i.gateSections.head?

/-- Every gate is at least twice its Kerb long (R338). -/
def gatesLongEnough (margin : Nat) (i : CalImage) : Bool :=
  i.gateSections.all fun g => g.gates.all fun e => 2 * kerbOf g.rate margin ≤ e.2

/-- The gate whose span holds an instant, or the next one: start, end, rate, port (R337, R339). -/
def gateAt (t : Nat) (s : State) : Option (Nat × Nat × Nat × Nat) :=
  match s.conf.active with
  | some cal =>
    match gateSection cal.image with
    | none => none
    | some g =>
      let spans := g.gates.filterMap fun e =>
        match openStart cal e.1 e.2 t with
        | some st => some (st, st + e.2)
        | none => (nextStart cal e.1 t).map fun st => (st, st + e.2)
      match spans with
      | [] => none
      | a :: l =>
        let best := l.foldl (fun b x => if x.1 < b.1 then x else b) a
        some (best.1, best.2, g.rate, g.port)
  | none =>
    let (port, rate, space, len) := s.upl.standing
    if len = 0 ∨ space = 0 then none
    else
      let sp := space * 1000
      let st := t / sp * sp
      if t < st + len then some (st, st + len, rate, port) else some (st + sp, st + sp + len, rate, port)

/-- The scheduler works (R353). -/
def uplinkUp (s : State) : Bool := engineUp 10 s

/-- The last ft at which a packet of a gate may start. -/
def lastStart (g : Gate) (s : State) : Nat := g.ends - kerbOf g.rate s.upl.kerbMargin

/-- A packet may start now in the open gate (R340, R341). -/
def mayInject (g : Gate) (s : State) : Bool :=
  uplinkUp s && timeValid s && !g.kerbPassed && g.start ≤ s.time.ft
    && s.time.ft + kerbOf g.rate s.upl.kerbMargin ≤ g.ends

/-! ## The Roundabout (R345, R346) -/

/-- Credit that covers a class's head packet: Ledger may borrow from Trace and Dump (R346). -/
def creditOf (cls : Nat) (s : State) : Nat :=
  if cls = 1 then (classOf 1 s).credit + (classOf 3 s).credit + (classOf 4 s).credit else (classOf cls s).credit

/-- The class has a packet that its credit covers. -/
def eligible (cls : Nat) (s : State) : Bool :=
  match headOf cls s with
  | none => false
  | some p => p.bytes ≤ creditOf cls s

/-- The bytes of a packet leave its class's deficit and are charged: Ledger's to its own credit first, then lent by Trace, then
by Dump; any other class's to itself (R345, R346, R348). -/
def charge (cls n : Nat) (s : State) : State :=
  let own := min n (classOf cls s).credit
  let s' := onClass cls (fun c =>
    { c with deficit := c.deficit - n, sent := c.sent + n, credit := c.credit - own, charged := c.charged + own }) s
  if cls ≠ 1 then s'
  else
    let fromTrace := min (n - own) (classOf 3 s').credit
    let fromDump := n - own - fromTrace
    onClass 4 (fun c => { c with credit := c.credit - fromDump, lent := c.lent + fromDump })
      (onClass 3 (fun c => { c with credit := c.credit - fromTrace, lent := c.lent + fromTrace }) s')

/-- The class after a class in the round. -/
def nextClass (c : Nat) : Nat := if c = 4 then 1 else c + 1

/-- The open gate changed. -/
def onGate (f : Gate → Gate) (s : State) : State := onUpl (fun u => { u with gate := u.gate.map f }) s

/-- The class has a packet that its deficit covers. -/
def fits (c : Nat) (s : State) : Bool :=
  match headOf c s with
  | none => false
  | some p => p.bytes ≤ (classOf c s).deficit

/-- The Roundabout's choice from class `c`: the class whose head is sent, with quanta given on the way; `none` when no
class is eligible. -/
def roundabout : Nat → State → Option Nat × State
  | 0, s => (none, s)
  | fuel + 1, s =>
    match s.upl.gate with
    | none => (none, s)
    | some g =>
      let c := g.cls
      let s := when (!g.visiting && eligible c s)
        (fun s => onGate (fun g => { g with visiting := true })
          (onClass c (fun a => { a with deficit := a.deficit + a.quantum, quanta := a.quanta + a.quantum }) s)) s
      let visiting := g.visiting || eligible c s
      if visiting && eligible c s && fits c s then (some c, s)
      else roundabout fuel (onGate (fun g => { g with cls := nextClass c, visiting := false }) s)

/-- A class's head is sent, charged, and its visit ends when its queue is empty (R345). -/
def sendHead (c port : Nat) (s : State) : State :=
  match headOf c s with
  | none => s
  | some p =>
    let o := headCarries c s
    let s := emitSome o (inject p port (popHead c s))
    let s := charge c p.bytes s
    if (headOf c s).isSome then s
    else
      onGate (fun g => { g with cls := nextClass c, visiting := false })
        (onClass c (fun a => { a with returned := a.returned + a.deficit, deficit := 0 }) s)

/-- The Roundabout's packet: its bytes, 0 for none, and the state after it. -/
def viaRoundabout (port : Nat) (s : State) : Nat × State :=
  match roundabout 9 s with
  | (some c, s) => (((headOf c s).map (·.bytes)).getD 0, sendHead c port s)
  | (none, s) => (0, s)

/-- The next packet of the gate: Adoption, then Control within the frame's allowance, then the Roundabout (R342, R345). -/
def nextPacket (port : Nat) (s : State) : Nat × State :=
  match s.upl.adoption, s.upl.control with
  | (p, m, msg) :: t, _ =>
    if p.bytes ≤ s.upl.ctlLeft then
      (p.bytes, emit (.adopt p.dst msg m)
        (inject p port (onUpl (fun u => { u with adoption := t, ctlLeft := u.ctlLeft - p.bytes }) s)))
    else viaRoundabout port s
  | [], q :: t =>
    if q.packet.bytes ≤ s.upl.ctlLeft then
      (q.packet.bytes, emitSome q.carries
        (inject q.packet port (onUpl (fun u => { u with control := t, ctlLeft := u.ctlLeft - q.packet.bytes }) s)))
    else viaRoundabout port s
  | [], [] => viaRoundabout port s

/-! ## The refill (R343, R344, R347 to R351) -/

/-- Roles the chip hosts, as the Ledger and Series rates count them at a Plaza. -/
def hostedRoles (s : State) : Nat := s.roles.length

/-- A class's allowance for a frame, before the congestion factor (R343). -/
def baseAllowance (cls : Nat) (s : State) : Nat :=
  let a := (classOf cls s).rate * s.grid.period
  if s.fuse.plaza ∧ cls ≤ 2 then a * hostedRoles s else a

/-- Scaled by the class's congestion factor (R349). -/
def scaled (cls n : Nat) (s : State) : Nat := if cls = 3 ∨ cls = 4 then n * (classOf cls s).f / 64 else n

/-- The effective allowance and burst cap. -/
def allowanceOf (cls : Nat) (s : State) : Nat := scaled cls (baseAllowance cls s) s
def capOf (cls : Nat) (s : State) : Nat :=
  scaled cls (if (classOf cls s).cap = 0 then 2 * baseAllowance cls s else (classOf cls s).cap) s

/-- The congestion factor at a refill (R349). -/
def stepFactor (c : UplClass) : UplClass :=
  { c with f := if c.echoed then max 1 (c.f / 2) else min 64 (c.f + 4), echoed := false }

/-- One class's credit at a refill: the excess above the cap is forfeited and counted (R344). -/
def refillClass (cls : Nat) (s : State) : State :=
  let s := when (cls == 3 || cls == 4) (onClass cls stepFactor) s
  let a := allowanceOf cls s
  let cap := capOf cls s
  onClass cls (fun c =>
    { c with added := c.added + a, credit := min (c.credit + a) cap,
             forfeited := c.forfeited + (c.credit + a - min (c.credit + a) cap) }) s

/-- Shaper and standing-gate changes apply at the refill after their acceptance; a shaper change accepted in the refill's own
instant waits for the next (R339, R347). -/
def applyShapers (s : State) : State :=
  let due (p : Nat × Nat × Nat × Nat × Nat) : Bool := p.2.2.2.2 != s.time.ft
  let s := forEach (s.upl.pendingShapers.filter due)
    (fun p => onClass p.1 (fun c => { c with rate := p.2.1, cap := p.2.2.1, quantum := p.2.2.2.1 })) s
  let s := onUpl (fun u => { u with pendingShapers := u.pendingShapers.filter fun p => !due p }) s
  match s.upl.pendingStanding with
  | none => s
  | some (port, rate, space, len, margin) =>
    onUpl (fun u => { u with standing := (port, rate, space, len), kerbMargin := margin, pendingStanding := none }) s

/-- Law C of a class: both identities (R348). -/
def lawC (c : UplClass) : Bool :=
  c.added == c.charged + c.lent + c.forfeited + c.credit && c.quanta == c.sent + c.returned + c.deficit

/-- Ledger's bytes sent equal its charges and what Trace and Dump lent. -/
def lawCLedger (s : State) : Bool :=
  (classOf 1 s).sent == (classOf 1 s).charged + (classOf 3 s).lent + (classOf 4 s).lent

/-- Subject of the scheduler's reports (R354). -/
def uplinkKey (s : State) : Nat := engineKey s.die 10

/-- The identities are checked and a failure reported (R348). -/
def checkLawC (s : State) : State :=
  let ok := ([1, 2, 3, 4].all fun c => lawC (classOf c s)) && lawCLedger s
  when (!ok) (fun s => raise 0x0C04 (uplinkKey s) 0 (onUpl (fun u => { u with lawCFailed := true }) s)) s

/-- Bytes that wait in a class's queue. -/
def queuedBytes (cls : Nat) (s : State) : Nat := wireBytes ((queueOf cls s).map (·.packet))

/-- The uplink stride is set; each change is counted and reported (R350). -/
def setStride (u : Nat) (s : State) : State :=
  if u = s.upl.u then s
  else raise 0x0C01 (uplinkKey s) 0 (onUpl (fun x => { x with u := u, strideChanges := x.strideChanges + 1 }) s)

/-- Ledger backlog: reported once an episode (R351). -/
def checkBacklog (s : State) : State :=
  let q := queuedBytes 1 s
  let a := allowanceOf 1 s
  if 4 * a < q ∧ s.upl.backlog = false then raise 0x0C02 (uplinkKey s) 0 (onUpl (fun u => { u with backlog := true }) s)
  else if q < a then onUpl (fun u => { u with backlog := false }) s
  else s

/-- The stride at a refill: doubled at most once, by a Series queue above one frame's allowance or a Ledger queue above
four; halved when twice the Series bytes of the latest 64 frames were within their allowance (R350, R351). -/
def checkStride (s : State) : State :=
  let a := allowanceOf 2 s
  if a < queuedBytes 2 s ∨ 4 * allowanceOf 1 s < queuedBytes 1 s then setStride (min 64 (2 * s.upl.u)) s
  else if s.upl.seriesBytes.length ≥ 64 ∧ s.upl.seriesBytes.foldl (fun n x => n + 2 * x.1) 0 ≤ s.upl.seriesBytes.foldl (fun n x => n + x.2) 0 then
    setStride (max 1 (s.upl.u / 2)) s
  else s

/-- The refill at a frame's opening boundary. -/
def refill (s : State) : State :=
  let s := applyShapers s
  let s := forEach [1, 2, 3, 4] refillClass s
  let s := onUpl (fun u => { u with ctlLeft := if s.fuse.plaza then 65536 else 8192, bypSent := 0 }) s
  let s := checkStride (checkBacklog (checkLawC s))
  onUpl (fun u => { u with seriesBytes := ((0, allowanceOf 2 s) :: u.seriesBytes).take 64 }) s

/-! ## Re-placement (R352) -/

/-- A packet that waits at a Leaf, with what it carries, goes to a new parent. -/
def toParent (parent : Nat) (q : QueuedPacket) : QueuedPacket :=
  { packet := { q.packet with dst := parent },
    carries := q.carries.map fun o => match o with
      | .ledger _ r lo hi => .ledger parent r lo hi
      | .featureRec _ r => .featureRec parent r
      | o => o }

/-- Queued packets of a Leaf are readdressed to the new parent; Adoption messages to anyone else are discarded. -/
def readdress (parent : Nat) (s : State) : State :=
  onUpl (fun u => { u with
    queues := u.queues.map fun q => (q.1, q.2.map (toParent parent)),
    adoption := u.adoption.filter fun a => a.1.dst == parent }) s

end Sys2Proof.Machine
end

