-- ==== Sys2Proof/Machine/MergeOps.lean ====
section
/-!
DEFINITION. The arithmetic of ledger merging: sum, aggregate, loss and coverage entries (R104 to R113, R119).
-/

namespace Sys2Proof.Machine

/-! ## Sum entries (R106, R111) -/

/-- Order of the keys (`INDEX`, partition, `PRESCALE`). -/
def sumLt (a b : SumEntry) : Bool :=
  a.index < b.index || (a.index == b.index && (a.partition < b.partition
    || (a.partition == b.partition && a.prescale < b.prescale)))

def sameSum (a b : SumEntry) : Bool := a.index == b.index && a.partition == b.partition && a.prescale == b.prescale

/-- Two sum entries of one key: 128-bit sums, 32-bit counts (R113). -/
def joinSum (a b : SumEntry) : SumEntry :=
  { a with repaired := a.repaired || b.repaired, first := a.first || b.first, last := a.last || b.last,
           contrib := (a.contrib + b.contrib) % 2 ^ 32, void := (a.void + b.void) % 2 ^ 32,
           sum := (a.sum + b.sum) % 2 ^ 128, lost := (a.lost + b.lost) % 2 ^ 128 }

/-- A sum entry added to an ascending list. -/
def addSum (e : SumEntry) : List SumEntry → List SumEntry
  | [] => [e]
  | x :: t => if sumLt e x then e :: x :: t else if sameSum x e then joinSum x e :: t else x :: addSum e t

/-- The sum entry that a Leaf counter entry makes: a flagged one counts in `VOID` alone (R111). -/
def leafSum (c : CounterEntry) : SumEntry :=
  let void := c.flags.getLsbD 3 || c.flags.getLsbD 4
  { index := c.index, partition := c.partition, prescale := c.prescale, repaired := c.flags.getLsbD 2,
    first := c.flags.getLsbD 0, last := c.flags.getLsbD 1, contrib := if void then 0 else 1, void := bnat void,
    sum := if void then 0 else c.delta, lost := 0 }

/-- A sum entry of one key that holds nothing. -/
def blankSum (index partition prescale : Nat) : SumEntry :=
  { index := index, partition := partition, prescale := prescale, repaired := false, first := false, last := false,
    contrib := 0, void := 0, sum := 0, lost := 0 }

/-- A loss entry covers a counter of a partition. -/
def lossCovers (l : LossEntry) (index partition : Nat) : Bool :=
  l.indexFirst ≤ index && index ≤ l.indexLast && (l.partition.isNone || l.partition == some partition)

/-- A counter entry is flagged `INVALID` or `UNOBSERVED`. -/
def isVoid (c : CounterEntry) : Bool := c.flags.getLsbD 3 || c.flags.getLsbD 4

/-- The binding that a counter entry shows. -/
def bindOf (c : CounterEntry) : Bind :=
  { index := c.index, partition := c.partition, prescale := c.prescale, voided := isVoid c }

/-- The counter-frames that unknown losses cover and nothing has counted yet: one in `VOID` of each key, and the bindings with
those counted (R111). -/
def voidBinds (ls : List LossEntry) (bs : List Bind) : List SumEntry × List Bind :=
  let hit (b : Bind) : Bool := !b.voided && ls.any fun l => l.quantity.isNone && lossCovers l b.index b.partition
  ((bs.filter hit).map fun b => { blankSum b.index b.partition b.prescale with void := 1 },
   bs.map fun b => if hit b then { b with voided := true } else b)

/-- What a Leaf record's losses and counters come to at the first tier that merges it: its sum entries, the bindings of its
frame, and those of earlier frames. -/
structure Folded where
  sums : List SumEntry
  own : List Bind
  held : List (Nat × List Bind)
deriving DecidableEq, Repr

/-- A frame lies in the range that a carry record folds, before its own (R62, R152). -/
def inRange (r : Record) (frame : Nat) : Bool :=
  r.timeQuality.getLsbD 5 && r.missCount != 0 && r.missFirst ≤ frame && frame < r.frame

/-- The binding under which a known quantity is counted (R110): that of its frame, else the last one known of the counter. -/
def lossBind (r : Record) (held : List (Nat × List Bind)) (last : List (Nat × Nat × Nat)) (l : LossEntry) :
    Option (Nat × Nat × Nat) :=
  let here (bs : List Bind) : Option (Nat × Nat × Nat) :=
    (bs.find? fun b => b.index == l.indexFirst && some b.partition == l.partition).map fun b => (b.index, b.partition, b.prescale)
  let own := if l.frame = r.frame ∨ inRange r l.frame then here (r.counters.map bindOf) else none
  match own, (held.find? fun h => h.1 == l.frame).bind fun h => here h.2 with
  | some b, _ => some b
  | none, some b => some b
  | none, none => last.find? fun b => b.1 == l.indexFirst && some b.2.1 == l.partition

/-- The frames of a carry record's range that its losses name. -/
def rangeFrames (r : Record) : List Nat :=
  (r.losses.filter fun l => inRange r l.frame).foldl (fun fs l => addOnce l.frame fs) []

/-- A Leaf record folded as the first tier that merges it folds it (R111): `held` are the Leaf's bindings in the frames that the
tier keeps open, by number, `last` the last binding known of each counter. -/
def foldLeaf (r : Record) (held : List (Nat × List Bind)) (last : List (Nat × Nat × Nat)) : Folded :=
  let at_ (n : Nat) : List LossEntry := r.losses.filter fun l => l.frame == n
  let (mine, own) := voidBinds (at_ r.frame) (r.counters.map bindOf)
  let range := (rangeFrames r).flatMap fun n =>
    (voidBinds (at_ n) (r.counters.map fun c => { bindOf c with voided := false })).1
  let others := held.map fun h =>
    if h.1 = r.frame ∨ inRange r h.1 then ([], h)
    else ((voidBinds (at_ h.1) h.2).1, (h.1, (voidBinds (at_ h.1) h.2).2))
  let known := r.losses.filterMap fun l =>
    match l.quantity, lossBind r held last l with
    | some q, some b => some { blankSum b.1 b.2.1 b.2.2 with lost := q }
    | _, _ => none
  { sums := (r.counters.map leafSum ++ mine ++ range ++ others.flatMap (·.1) ++ known).foldl (fun l e => addSum e l) [],
    own := own, held := others.map (·.2) }

/-- The last binding known of each counter, after a record. -/
def learnBinds (r : Record) (last : List (Nat × Nat × Nat)) : List (Nat × Nat × Nat) :=
  if r.tier ≠ 0 then last
  else
    (last.filter fun b => !(r.counters.any fun c => c.index == b.1 && c.partition == b.2.1))
      ++ r.counters.map fun c => (c.index, c.partition, c.prescale)

/-! ## Aggregate entries (R107) -/

def aggLt (a b : AggEntry) : Bool :=
  a.index < b.index || (a.index == b.index && (a.partition < b.partition
    || (a.partition == b.partition && (bnat a.signed < bnat b.signed
      || (a.signed == b.signed && a.sample < b.sample)))))

def sameAgg (a b : AggEntry) : Bool :=
  a.index == b.index && a.partition == b.partition && a.signed == b.signed && a.sample == b.sample

/-- The entry holds some present slot. -/
def aggPresent (a : AggEntry) : Bool := a.present + a.inexact != 0

/-- Two aggregates of one key; nothing is taken from the extremes of an entry with no present slot. -/
def joinAgg (a b : AggEntry) : AggEntry :=
  { a with present := a.present + b.present, inexact := a.inexact + b.inexact, missing := a.missing + b.missing,
           min := if aggPresent a then (if aggPresent b then min a.min b.min else a.min) else b.min,
           max := if aggPresent a then (if aggPresent b then max a.max b.max else a.max) else b.max,
           sum := a.sum + b.sum }

/-- An aggregate joins a list.  R107 gives its entries a key and no order: the model keeps them ascending by index, partition,
`SIGNED` and `SAMPLE` (DESIGN CHOICE, assumption 126). -/
def addAgg (e : AggEntry) : List AggEntry → List AggEntry
  | [] => [e]
  | x :: t => if aggLt e x then e :: x :: t else if sameAgg x e then joinAgg x e :: t else x :: addAgg e t

/-- The aggregate of one gauge slot. -/
def leafAgg (g : GaugeEntry) : AggEntry :=
  let v : Int := if g.signed then toSigned 32 g.value else (g.value : Int)
  { index := g.index, signed := g.signed, sample := g.sample, partition := g.partition, present := bnat (!g.inexact),
    inexact := bnat g.inexact, missing := 0, min := v, max := v, sum := v }

/-- An aggregate that only marks slots missing. -/
def missingAgg (index : Nat) (signed : Bool) (sample partition n : Nat) : AggEntry :=
  { index := index, signed := signed, sample := sample, partition := partition, present := 0, inexact := 0, missing := n,
    min := 0, max := 0, sum := 0 }

/-- The gauge slots of a record, by key, counted in `missing`: what a child reported (R118). -/
def gaugeSlots (r : Record) : List AggEntry :=
  if r.tier = 0 then
    (r.gauges.map fun g => missingAgg g.index g.signed g.sample g.partition 1).foldl (fun l e => addAgg e l) []
  else r.aggs.map fun a => missingAgg a.index a.signed a.sample a.partition (a.present + a.inexact + a.missing)

/-- The aggregates of a record, with every slot of its missing range marked missing (R119); a carry record has no gauge
entries of its own, so that its slots are those the child last reported (R152). -/
def recordAggs (r : Record) (last : List AggEntry) : List AggEntry :=
  let own := if r.tier = 0 then r.gauges.foldl (fun l g => addAgg (leafAgg g) l) [] else r.aggs
  let slots := if (gaugeSlots r).isEmpty then last else gaugeSlots r
  (slots.map fun a => { a with missing := a.missing * r.missCount }).foldl
    (fun l e => if e.missing = 0 then l else addAgg e l) own

/-! ## Loss and coverage entries (R109, R110) -/

def lossLe (a b : LossEntry) : Bool :=
  a.frame < b.frame || (a.frame == b.frame && (a.subject < b.subject
    || (a.subject == b.subject && a.indexFirst ≤ b.indexFirst)))

/-- A loss entry in its place: ascending (`FRAME`, `SUBJECT`, `INDEX_FIRST`). -/
def addLoss (e : LossEntry) : List LossEntry → List LossEntry
  | [] => [e]
  | x :: t => if lossLe x e then x :: addLoss e t else e :: x :: t

/-- A coverage entry joins, ascending by tray. -/
def addCover (c : CoverEntry) : List CoverEntry → List CoverEntry
  | [] => [c]
  | x :: t =>
    if c.tray < x.tray then c :: x :: t
    else if x.tray = c.tray then { x with slots := c.slots.foldl (fun l i => insertAsc i l) x.slots } :: t
    else x :: addCover c t

/-- A slot of a tray is covered. -/
def covers (l : List CoverEntry) (tray slot : Nat) : Bool := l.any fun c => c.tray == tray && c.slots.contains slot

/-- Leaves covered. -/
def coverSize (l : List CoverEntry) : Nat := l.foldl (fun n c => n + c.slots.length) 0

/-- Coverage of a record: a Leaf's own slot, or a tier's entries. -/
def recordCover (r : Record) : List CoverEntry :=
  if r.tier = 0 then [{ tray := trayOf r.source, slots := [slotOf r.source] }] else r.cover

/-- Every covered Leaf of `a` is in `b`; some is. -/
def coverInside (a b : List CoverEntry) : Bool := a.all fun c => c.slots.all fun i => covers b c.tray i
def coverMeets (a b : List CoverEntry) : Bool := a.any fun c => c.slots.any fun i => covers b c.tray i

/-- A loss entry over a whole child (R110). -/
def childLoss (kind child frame : Nat) : LossEntry :=
  { lkind := kind, partition := none, indexFirst := 0, indexLast := 0xFFFF, subject := child, frame := frame, quantity := none }

/-- What a record adds to a tier's frame. -/
structure Added where
  sums : List SumEntry := []
  aggs : List AggEntry := []
  losses : List LossEntry := []
  cover : List CoverEntry := []
  quality : BitVec 8 := 0
deriving DecidableEq, Repr

/-- A record's contribution, by its sums and the gauge slots that its child last reported. -/
def addedOf (r : Record) (sums : List SumEntry) (last : List AggEntry) : Added :=
  { sums := sums, aggs := recordAggs r last, losses := r.losses, cover := recordCover r, quality := r.timeQuality }

/-- The contribution of a record as it is held: counters in lost blocks are void, loss kind 0x04, gauge slots in lost or cut
blocks are missing (R112, R119). -/
def addedHeld (h : HeldRecord) (sums : List SumEntry) (last : List AggEntry) : Added :=
  let r := h.record
  let a := addedOf r sums last
  let voids := h.lostCounters.map fun c => { blankSum c.index c.partition c.prescale with void := 1 }
  let gone := h.lostGauges.map fun g => missingAgg g.index g.signed g.sample g.partition 1
  { a with sums := voids.foldl (fun l e => addSum e l) a.sums, aggs := gone.foldl (fun l e => addAgg e l) a.aggs,
           losses := (h.lostCounters.map fun c =>
             { lkind := 4, partition := some c.partition, indexFirst := c.index, indexLast := c.index,
               subject := plainSource r.source, frame := r.frame, quantity := none }).foldl (fun l e => addLoss e l) a.losses }

/-- A contribution added to what a tier has merged for a frame. -/
def mergeInto (a : Added) (t : TierFrame) : TierFrame :=
  { t with sums := a.sums.foldl (fun l e => addSum e l) t.sums, aggs := a.aggs.foldl (fun l e => addAgg e l) t.aggs,
           losses := a.losses.foldl (fun l e => addLoss e l) t.losses,
           cover := a.cover.foldl (fun l e => addCover e l) t.cover, quality := mergeQuality t.quality a.quality }

/-- A child's status in a frame.  R108 gives the entries of a record no order: the model keeps them in the order in which each was
last set (DESIGN CHOICE, assumption 127). -/
def setStatus (c : ChildStatus) (t : TierFrame) : TierFrame :=
  { t with children := (t.children.filter fun x => x.child != c.child) ++ [c] }

end Sys2Proof.Machine
end

