-- ==== Sys2Proof/Machine/LedgerOps.lean ====
section
/-!
DEFINITION. The Leaf's ledger: a record is formed, retained or spilled, sent and acknowledged; an orphan without room folds
frames into a carry record (R98 to R103, R112, R152, R333).
-/

namespace Sys2Proof.Machine

/-- Bytes of the retention region in use: the retained records that do not lie in the spill chain (R100). -/
def regionUse (s : State) : Nat :=
  (s.led.retained.filter fun r => !s.led.spilled.contains r.seq).foldl (fun n r => n + ledgerSize r) 0

/-- The spill chain takes that many bytes more: in its open buffer, or in a buffer behind it. -/
def spillTakes (bytes : Nat) (s : State) : Bool :=
  match chainFind 2 0 s with
  | none => false
  | some (_, c) =>
    match c.cur with
    | some d => c.fill + bytes ≤ d.len || !c.queue.isEmpty || d.nextAddr != 0
    | none => c.closing.isSome

/-- There is room to retain a record. -/
def roomFor (r : Record) (s : State) : Bool :=
  regionUse s + ledgerSize r ≤ 1024 * regionKib .retention s || spillTakes (ledgerSize r) s

/-- A record is retained: in the region, else in the spill chain, else it is marked `UNRETAINED` and counted (R100). -/
def retainRecord (r : Record) (s : State) : Record × State :=
  if regionUse s + ledgerSize r ≤ 1024 * regionKib .retention s then
    (r, onLed (fun l => { l with retained := l.retained ++ [r] }) s)
  else
    match chainFind 2 0 s with
    | some (n, _) =>
      if spillTakes (ledgerSize r) s then
        (r, chainWrite n (ledgerSize r) (.records [r])
          (onLed (fun l => { l with retained := l.retained ++ [r], spilled := l.spilled ++ [r.seq] }) s))
      else ({ r with flags := r.flags ||| 0x8#16 }, onLed (fun l => { l with unretained := l.unretained + 1 }) s)
    | none => ({ r with flags := r.flags ||| 0x8#16 }, onLed (fun l => { l with unretained := l.unretained + 1 }) s)

/-- A record goes to the parent, when there is one. -/
def sendToParent (r : Record) (resend : Bool) (s : State) : State :=
  match s.place.parent with
  | none => s
  | some p => enqueueLedger r p resend s

/-- An alert section that holds storm summaries sets `STORM` (R102). -/
def hasStorm (l : List AlertEntry) : Bool :=
  l.any fun a => match a with
    | .storm _ => true
    | .report _ => false

/-- `FLAGS` of a record from its alerts and the block's capacity (R102). -/
def recordFlags (alerts : List AlertEntry) (s : State) : BitVec 16 :=
  (if capacityReduced s then 0x4#16 else 0) ||| (if hasStorm alerts then 0x10#16 else 0)

/-- A Leaf record takes the next `SEQ`, is marked, retained and sent (R98, R103, R112). -/
def issueRecord (r : Record) (s : State) : State :=
  let (r, n) := markExpanded { r with seq := s.led.seq }
  let s := onUpl (fun u => { u with expanded := u.expanded + n }) (onLed (fun l => { l with seq := l.seq + 1 }) s)
  let (r, s) := retainRecord r s
  sendToParent r false s

/-- A counter entry of a further frame folded into a carry record's: deltas add, flags gather, the residue is the latest.  A
frame in which the counter is void adds nothing: its loss entry declares it, and the entry is flagged only while every frame
of it is void (R104, R111, R152). -/
def joinCounter (x e : CounterEntry) : CounterEntry :=
  { x with delta := (x.delta + e.delta) % 2 ^ 64, residue := e.residue,
           flags := if isVoid x = isVoid e then x.flags ||| e.flags else (x.flags ||| e.flags) &&& 0x7#5 }

/-- A counter entry in its place, ascending by index. -/
def foldCounter (e : CounterEntry) : List CounterEntry → List CounterEntry
  | [] => [e]
  | x :: t =>
    if x.index = e.index ∧ x.partition = e.partition ∧ x.prescale = e.prescale then joinCounter x e :: t
    else if e.index < x.index then e :: x :: t
    else x :: foldCounter e t

/-- The block's own partition-0 counters as counter entries (R128, R189, R335, R350). -/
def ownEntries (s : State) : List CounterEntry :=
  s.led.own.map fun e =>
    { index := Config.ownIndex e.1 % 32768, partition := 0, prescale := 0, flags := 0, residue := 0, delta := e.2 }

/-- The counter entries of a record: those of the snapshot, and the block's own. -/
def withOwn (cs : List CounterEntry) (s : State) : List CounterEntry := (ownEntries s).foldl (fun l e => foldCounter e l) cs

/-- The record of a frame as the Leaf forms it (R102). -/
def leafRecord (frame period : Nat) (quality : BitVec 8) (cs : List CounterEntry) (gs : List GaugeEntry)
    (ls : List LossEntry) (s : State) : Record :=
  { timeQuality := quality, kind := 1, tier := 0, replica := 0, flags := recordFlags s.led.alerts s, frame := frame,
    period := period, epoch := s.epoch, source := s.die, seq := 0, generation := 0, missFirst := s.grid.missFirst,
    missCount := s.grid.missCount, children := [], cover := [], counters := withOwn cs s, sums := [], gauges := gs, aggs := [],
    losses := (ls ++ s.led.losses).foldl (fun l e => addLoss e l) [], alerts := s.led.alerts }

/-- What waited for the next record has gone into it. -/
def takeIntoRecord (s : State) : State :=
  onGrid (fun g => { g with missFirst := 0, missCount := 0 })
    (onLed (fun l => { l with alerts := [], losses := [], own := [] }) s)

/-- A frame folded into the open carry record (R152). -/
def foldCarry (r c : Record) : Record :=
  { c with
    frame := r.frame, period := r.period, timeQuality := mergeQuality c.timeQuality r.timeQuality,
    counters := r.counters.foldl (fun l e => foldCounter e l) c.counters,
    missCount := c.missCount + r.missCount + 1,
    losses := r.losses.foldl (fun l e => addLoss e l) c.losses, alerts := c.alerts ++ r.alerts, flags := c.flags ||| r.flags }

/-- A frame opens a carry record: its gauge slots, and those of a missing range before it, are the record's range. -/
def openCarry (r : Record) : Record :=
  { r with gauges := [], missFirst := if r.missCount = 0 then r.frame else r.missFirst, missCount := r.missCount + 1 }

/-- The Leaf forms its record of a frame: retained and sent; without a parent and without room it goes into the carry
record; a Leaf with too few bank groups forms none (R98, R100, R152, R302). -/
def formLedger (frame period : Nat) (quality : BitVec 8) (cs : List CounterEntry) (gs : List GaugeEntry)
    (ls : List LossEntry) (s : State) : State :=
  if s.fuse.plaza || leafFailed s then s
  else
    let r := leafRecord frame period quality cs gs ls s
    let s := takeIntoRecord s
    match s.led.carry with
    | some c => onLed (fun l => { l with carry := some (foldCarry r c) }) s
    | none =>
      if s.place.parent.isNone && !roomFor r s then onLed (fun l => { l with carry := some (openCarry r) }) s
      else issueRecord r s

/-- The carry record closes at adoption, with `CARRY` in its time quality (R152). -/
def closeCarry (s : State) : State :=
  match s.led.carry with
  | none => s
  | some c => issueRecord { c with timeQuality := c.timeQuality ||| 0x20#8 } (onLed (fun l => { l with carry := none }) s)

/-- A record waits in the Ledger queue. -/
def isQueued (seq : Nat) (s : State) : Bool := (queueOf 1 s).any fun q => q.packet.rseq == seq && q.packet.src == s.die

/-- Every retained record that does not wait in the queue is sent again (R98, R149). -/
def resendRetained (s : State) : State :=
  forEach (s.led.retained.filter fun r => !isQueued r.seq s) (fun r => sendToParent r true) s

/-- The retained records after the one that a frame number names; where none has that number, those that are not before it
in the period of the first, unless the number has been acknowledged already (R39, DEDUCED, assumption 116). -/
def keptAfter (frame : Nat) (s : State) : List Record :=
  let l := s.led.retained
  if l.any fun r => r.frame == frame then l.drop (l.findIdx (fun r => r.frame == frame) + 1)
  else if s.led.ackFrame = some frame then l
  else match l with
    | [] => []
    | r :: _ => l.dropWhile fun x => x.period == r.period && x.frame ≤ frame

/-- The highest frame acknowledged, after an acknowledgement that released something or not. -/
def ackOf (frame : Nat) (released : Bool) (held : Option Nat) : Option Nat :=
  if released then some frame else some (max frame (held.getD 0))

/-- Records up to a frame are acknowledged: the Leaf's ownership ends, and a spill chain that holds no retained record is
empty again (R98). -/
def releaseTo (frame : Nat) (s : State) : State :=
  let kept := keptAfter frame s
  let spilled := s.led.spilled.filter fun q => kept.any fun r => r.seq == q
  let empties := !s.led.spilled.isEmpty && spilled.isEmpty
  let s := onLed (fun l => { l with retained := kept, spilled := spilled,
                                    ackFrame := ackOf frame (kept.length < l.retained.length) l.ackFrame }) s
  match chainFind 2 0 s with
  | some (n, _) => when empties (onChain n fun c => { c with fill := 0 }) s
  | none => s

/-- A request of an acknowledgement is answered from the retained records; a Leaf's record is its own single-Leaf
contribution, so that a split request gets the whole record (R119, R333). -/
def answerRequest (q : AckReq) (s : State) : State :=
  forEach (s.led.retained.filter fun r => r.frame == q.frame) (fun r s =>
    match s.place.parent with
    | none => s
    | some p => if q.rqkind = 1 then resendBlocks r p q.blkFirst q.blkLast s else sendToParent r true s) s

/-- A Leaf takes an acknowledgement of its parent for its own epoch (R98, R333). -/
def leafAck (a : Ack) (sender : Nat) (s : State) : State :=
  if a.child ≠ s.die ∨ a.epoch ≠ s.epoch ∨ s.place.parent ≠ some sender then s
  else
    let s := match a.ackFrame with
      | none => s
      | some f => releaseTo f s
    forEach a.reqs answerRequest s

/-! ## Retention size (R16, 0x0402) -/

/-- The tree node store can be taken: no image is loaded. -/
def treeStoreFree (s : State) : Bool := s.tree.slots.isEmpty && s.tree.headers.isEmpty

/-- Trace staging can be taken: every source is disabled and nothing waits in it. -/
def stagingFree (s : State) : Bool :=
  (s.trc.sources.all fun e => !e.2.config.getLsbD 0) && s.trc.staged.isEmpty

/-- The sizes that the node store and trace staging are left with beside a retention region of a size.  It draws on the free
space, on what retention had, and on what the node store and staging give up while they may be taken, the node store first;
`none` when they cannot give it (R16, 0x0402). -/
def retainSplit (kib : Nat) (s : State) : Option (Nat × Nat) :=
  let nodes := if treeStoreFree s then regionKib .nodes s else 0
  let staging := if stagingFree s then regionKib .staging s else 0
  let pool := (liveKib s - usedKib s) + regionKib .retention s + nodes + staging
  if pool < kib then none
  else
    let left := pool - kib
    let st := if stagingFree s then min 768 left else regionKib .staging s
    let nd := if treeStoreFree s then min 1024 (left - (if stagingFree s then st else 0)) else regionKib .nodes s
    some (nd, st)

/-- The three regions take the sizes of a split. -/
def setRetention (kib nodes staging : Nat) (s : State) : State :=
  let set (n : RegionName) (k w : Nat) (s : State) : State := resizeRegion n k (wantRegion n (max k w) s)
  set .retention kib kib (set .nodes nodes (1024 - (kib - 2048)) (set .staging staging (768 - (kib - 2048)) s))

end Sys2Proof.Machine
end

