-- ==== Sys2Proof/Machine/TierOps.lean ====
section
/-!
DEFINITION. Tier roles as shared operations: frames, records out, acknowledgements, collection, closure, settlement and the
merge of fault reports (R97 to R132, R149, R155 to R157).
-/

namespace Sys2Proof.Machine

/-! ## Who is who -/

/-- Tier number of a role. -/
def tierOf : RoleKind → Nat
  | .plaza => 1
  | .quarter => 2
  | .forum => 3

/-- `SOURCE` of a role. -/
def roleSource (r : Role) : Nat :=
  match r.kind with
  | .plaza => plazaSource r.number
  | .quarter => quarterSource r.number
  | .forum => forumSource

/-- The child that a record comes from. -/
def childKey (r : Record) : Nat := recordKey r

/-- The name of a hosted role. -/
def selfKey (r : Role) : Nat := replicaKey (roleSource r) r.replica

/-- `SUBJECT_KEY` of a role (R126). -/
def keyOfRole (r : Role) : Nat := roleKey (tierOf r.kind) (if r.kind = .forum then 0 else r.number)

/-- The name of Forum successor k: a chip of its own beside the host of Forum replica k (R160; DESIGN CHOICE, assumption 4). -/
def successorKey (k : Nat) : Nat := forumSource + 256 * (4 + k)

/-- The name under which a chip knows a parent replica that has sent it something: of a Forum replica that a successor has taken
up, the successor's (R160). -/
def parentName (key : Nat) (s : State) : Nat :=
  if s.place.redirected && sourceKind key == 3 && replicaIn key < 4 then successorKey (replicaIn key) else key

/-- The parent replicas of a role, as the placement table or the Forum successors give them (R121, R138, R160). -/
def parentsOf (r : Role) (s : State) : List Nat :=
  match s.place.part with
  | none => []
  | some p =>
    let pick (hosts : List Nat) (name : Nat → Nat) : List Nat :=
      (hosts.zipIdx.filter fun h => h.1 != 0xFFFF).map fun h => name h.2
    match r.kind with
    | .plaza => pick p.qhosts (replicaKey (quarterSource p.quarter))
    | .quarter => if s.place.redirected then pick p.succs successorKey else pick p.fhosts (replicaKey forumSource)
    | .forum => []

/-- The names of the Forum replicas, or of the successors in their place (R138, R160). -/
def forumNames (s : State) : List Nat :=
  match s.place.part with
  | none => []
  | some p =>
    let pick (hosts : List Nat) (name : Nat → Nat) : List Nat :=
      (hosts.zipIdx.filter fun h => h.1 != 0xFFFF).map fun h => name h.2
    if s.place.redirected then pick p.succs successorKey else pick p.fhosts (replicaKey forumSource)

/-- The parent replicas that are not silent. -/
def liveParents (r : Role) (s : State) : List Nat := (parentsOf r s).filter fun p => !s.place.silent.contains p

/-- Those that are live for a frame that opens at an ft: a replica that the table has moved is so from the first frame that
opened after the move (R159). -/
def parentsFor (opens : Nat) (r : Role) (s : State) : List Nat :=
  (liveParents r s).filter fun p => tget 0 p s.place.hostSince ≤ opens

/-- A child of a role changed. -/
def onChild (k : RoleKind) (src : Nat) (f : Child → Child) (s : State) : State :=
  modRole k (fun r => { r with children := r.children.map fun c => if c.source = src then f c else c }) s

/-- A child as it joins. -/
def newChild (src epoch generation join home : Nat) (ack : Option Nat) : Child :=
  { source := src, epoch := epoch, seqNext := 0, generation := generation, joinFt := join, leaveFt := none, spans := [],
    home := home, gauges := [], gaugesOf := (0, 0), bindings := [], gaps := [], ackFrame := ack, reqs := [] }

/-- The child of a role. -/
def childOf (src : Nat) (r : Role) : Option Child := r.children.find? fun c => c.source == src

/-! ## Frames of a role (R39, R115) -/

/-- A frame of which nothing is merged. -/
def TierFrame.blank (frame period : Nat) : TierFrame :=
  { frame := frame, period := period, quality := 0, cover := [], sums := [], aggs := [], losses := [], children := [],
    held := [], acked := [], finals := [], census := [], binds := [], voidSeqs := [], seen := [], spilled := false,
    dispute := false, closed := false, final := false }

/-- ft at which a frame opens and ends. -/
def frameOpens (frame period : Nat) : Nat := frame * period * 1000
def frameEnds (frame period : Nat) : Nat := (frame + 1) * period * 1000

/-- A frame in its place, by its opening. -/
def addFrame (t : TierFrame) : List TierFrame → List TierFrame
  | [] => [t]
  | x :: l =>
    if x.frame = t.frame ∧ x.period = t.period then x :: l
    else if frameOpens t.frame t.period < frameOpens x.frame x.period then t :: x :: l
    else x :: addFrame t l

/-- The frame is the one of an identity (R39). -/
def isFrame (frame period : Nat) (t : TierFrame) : Bool := t.frame == frame && t.period == period

/-- The frame of an identity that a role keeps open (R39). -/
def frameOf (frame period : Nat) (r : Role) : Option TierFrame := r.frames.find? (isFrame frame period)

/-- The frame that a role keeps open under a number alone, the latest where two periods give the same number. -/
def frameNamed (frame : Nat) (r : Role) : Option TierFrame := r.frames.reverse.find? fun t => t.frame == frame

/-- The frame that a role keeps open and that holds an ft. -/
def frameHolding (ft : Nat) (r : Role) : Option TierFrame :=
  r.frames.find? fun t => frameOpens t.frame t.period ≤ ft && ft < frameEnds t.frame t.period

/-- A frame of a role changed. -/
def onFrame (k : RoleKind) (frame period : Nat) (f : TierFrame → TierFrame) (s : State) : State :=
  modRole k (fun r => { r with frames := r.frames.map fun t => if isFrame frame period t then f t else t }) s

/-- The frames whose coverage leaves the Square: all but the latest 64 (R120). -/
def spillDue (r : Role) : List TierFrame := (r.frames.take (r.frames.length - 64)).filter fun t => !t.spilled

/-- Coverage older than the latest 64 frames goes to the chip's Arcade (R120). -/
def spillCover (k : RoleKind) (s : State) : State :=
  match findRole k s with
  | none => s
  | some r =>
    forEach (spillDue r) (fun t s =>
      arcIngest 4 { mkEntry (roleSource r) (40 * t.cover.length) (.coverage k t.frame t.period t.cover) s with
          produced := true, hosted := k != .plaza }
        (onFrame k t.frame t.period (fun t => { t with spilled := true }) s)) s

/-- Each hosted role opens the frame that the chip has closed, from the first for which it is live (R159). -/
def openTierFrame (frame period : Nat) (s : State) : State :=
  let f (r : Role) : Role :=
    if frameOpens frame period < r.liveFt ∨ frameOpens frame period < r.finalTo then r
    else { r with frames := addFrame (TierFrame.blank frame period) r.frames }
  forEach [.plaza, .quarter, .forum] spillCover { s with roles := s.roles.map f }

/-- The census holds a frame that ends at an ft (R149, R156). -/
def inCensus (end_ : Nat) (c : Child) : Bool :=
  (c.joinFt < end_ && c.leaveFt.all fun f => end_ ≤ f) || c.spans.any fun x => x.1 < end_ && end_ ≤ x.2

/-- Children whose census holds a frame, by its end. -/
def censusOf (end_ : Nat) (r : Role) : List Child := r.children.filter (inCensus end_)

/-- The status entry of a child, under its `SOURCE` (R102, R108). -/
def statusOf (src : Nat) (t : TierFrame) : Option ChildStatus := t.children.find? fun x => x.child == plainSource src

/-- A child's contribution has been merged. -/
def isMerged (src : Nat) (t : TierFrame) : Bool := (statusOf src t).any fun x => x.state == 0 || x.state == 4

/-- Something has been declared or merged for the child, so that it is pending no longer. -/
def isSettled (src : Nat) (t : TierFrame) : Bool := (statusOf src t).any fun x => x.state != 1

/-- What the child had for the frame has been declared void whole (R97). -/
def isDeclared (src : Nat) (t : TierFrame) : Bool :=
  (statusOf src t).any fun x => x.state == 2 || x.state == 3 || x.state == 5

/-- Status of a child of a role; the count of lost fragments saturates. -/
def statusEntry (c : Child) (state lost : Nat) : ChildStatus :=
  { child := plainSource c.source, epoch := c.epoch, generation := c.generation, state := state, lostFrags := min 255 lost }

/-! ## Records out (R103, R117, R118, R121) -/

/-- The header of a role's record. -/
def roleRecord (r : Role) (kind : Nat) (t : TierFrame) (alerts : List AlertEntry) (s : State) : Record :=
  { timeQuality := t.quality, kind := kind, tier := tierOf r.kind, replica := r.replica,
    flags := recordFlags alerts s ||| (if t.dispute then 0x2#16 else 0), frame := t.frame, period := t.period, epoch := s.epoch,
    source := roleSource r, seq := r.seq, generation := r.generation, missFirst := 0, missCount := 0, children := [],
    cover := [], counters := [], sums := [], gauges := [], aggs := [], losses := [], alerts := alerts }

/-- Bit of the sink's selection for a record kind (0x0404). -/
def sinkBit (kind : Nat) : Nat := if kind = 1 then 0 else if kind = 2 then 1 else 2

/-- A record of the hosted Forum replica goes to the sink chain; one that finds it exhausted is counted (0x0404, R166). -/
def sinkRecord (r : Record) (s : State) : State :=
  match chainFind 3 0 s with
  | none => s
  | some (n, _) =>
    if !s.led.sink.getLsbD (sinkBit r.kind) then s
    else if chainTakes n s then chainWrite n (ledgerSize r) (.records [r]) s
    else onLed (fun l => { l with sinkMissed := l.sinkMissed + 1 }) s

/-- A role's record leaves: kept in the Arcade, queued to every parent replica, and owned until each has acknowledged it
(R98, R121, R238). -/
def sendRoleRecord (k : RoleKind) (r0 : Record) (resend : Bool) (s : State) : State :=
  match findRole k s with
  | none => s
  | some role =>
    let (r, n) := markExpanded { r0 with seq := role.seq }
    let s := onUpl (fun u => { u with expanded := u.expanded + n }) s
    let f (q : Role) : Role :=
      { q with seq := q.seq + 1, sent := if k = .forum then q.sent else q.sent ++ [{ record := r, ackedBy := [] }] }
    let s := modRole k f s
    let s := arcIngest 0 { mkEntry r.source (ledgerSize r) (.ledger r) s with produced := true, hosted := k != .plaza } s
    let s := forEach (parentsOf role s) (fun p => enqueueLedger r p resend) s
    when (k == .forum) (sinkRecord r) s

/-- Alerts that a role's next record copies: its own, and at the Plaza role those the chip itself raised (R125). -/
def takeAlerts (k : RoleKind) (s : State) : List AlertEntry × State :=
  match findRole k s with
  | none => ([], s)
  | some r =>
    let s := modRole k (fun r => { r with alerts := [] }) s
    if k = .plaza then (s.led.alerts ++ r.alerts, onLed (fun l => { l with alerts := [] }) s) else (r.alerts, s)

/-- The chip's own partition-0 counters, which the Plaza role's record carries (R128, R335); they are of no Leaf. -/
def takeOwn (k : RoleKind) (s : State) : List SumEntry × State :=
  if k = .plaza then
    ((ownEntries s).map fun c => { leafSum c with contrib := 0 }, onLed (fun l => { l with own := [] }) s)
  else ([], s)

/-- An amendment that carries a contribution and changed child-status entries (R117). -/
def amend (k : RoleKind) (frame period : Nat) (a : Added) (st : List ChildStatus) (s : State) : State :=
  match findRole k s with
  | none => s
  | some r =>
    match frameOf frame period r with
    | none => s
    | some t =>
      let (alerts, s) := takeAlerts k s
      sendRoleRecord k { roleRecord r 2 t alerts s with
        timeQuality := a.quality, children := st, cover := a.cover, sums := a.sums, aggs := a.aggs, losses := a.losses } false s

/-- A contribution joins a frame of a role: before closure it waits for the primary, afterwards it leaves by amendment
(R116, R117). -/
def contribute (k : RoleKind) (frame period : Nat) (a : Added) (st : List ChildStatus) (s : State) : State :=
  let closed : Bool := (((findRole k s).bind (frameOf frame period)).map (·.closed)).getD false
  let s := onFrame k frame period (fun t => st.foldl (fun t c => setStatus c t) (mergeInto a t)) s
  when closed (amend k frame period a st) s

/-! ## Acknowledgements (R98, R99, R119, R333) -/

/-- A frame of a child needs no more of the child: merged by the role, and at a Plaza acknowledged with that Leaf in its
coverage by every Quarter replica that is live for the frame (R99, R159). -/
def framePasses (role : Role) (parents : Nat → List Nat) (c : Child) (t : TierFrame) : Bool :=
  if role.kind = .plaza then
    let ps := parents (frameOpens t.frame t.period)
    !ps.isEmpty && ps.all fun p => covers (tget [] p t.acked) (trayOf c.source) (slotOf c.source)
  else isMerged c.source t

/-- The frames of a list, in the order in which they opened, up to the one that a number names; where none has that number,
those before it in the period of the first (R39, DEDUCED, assumption 116). -/
def throughFrame (n : Nat) (l : List TierFrame) : List TierFrame :=
  if l.any fun t => t.frame == n then l.take (l.findIdx (fun t => t.frame == n) + 1)
  else match l with
    | [] => []
    | t :: _ => l.takeWhile fun x => x.period == t.period && x.frame ≤ n

/-- The highest frame up to which every record of a child is acknowledged: what is final, then the open frames in order
while they pass (R99; for declared frames DEDUCED, assumption 19). -/
def ackUpTo (role : Role) (parents : Nat → List Nat) (c : Child) : Option Nat :=
  let base : Option Nat := match role.lastFinal with
    | none => c.ackFrame
    | some f => if c.joinFt < role.finalTo then some f else c.ackFrame
  let past := match c.ackFrame with
    | none => []
    | some n => throughFrame n role.frames
  let next := (role.frames.drop past.length).takeWhile fun t => framePasses role parents c t
  (past ++ next).foldl
    (fun b t => if c.joinFt < frameEnds t.frame t.period ∨ c.ackFrame.isSome then some t.frame else b) base

/-- An acknowledgement goes to a child, with at most 240 of the requests that wait (R333). -/
def sendAck (k : RoleKind) (src : Nat) (s : State) : State :=
  match findRole k s with
  | none => s
  | some r =>
    match childOf src r with
    | none => s
    | some c =>
      let reqs := c.reqs.take 240
      let a : Ack := { child := plainSource src, epoch := c.epoch, ackFrame := c.ackFrame, reqs := reqs, bodyOk := true }
      sendControl (selfKey r) src 0x414B (24 + 16 * reqs.length) (.ack src a)
        (onChild k src (fun c => { c with reqs := c.reqs.drop 240 }) s)

/-- A child's acknowledged frame is brought up to date; one that advances is sent. -/
def updateAck (k : RoleKind) (src : Nat) (s : State) : State :=
  match findRole k s with
  | none => s
  | some r =>
    match childOf src r with
    | none => s
    | some c =>
      let a := ackUpTo r (fun opens => parentsFor opens r s) c
      if a = c.ackFrame then s else sendAck k src (onChild k src (fun c => { c with ackFrame := a }) s)

/-- A child's record has been dealt with: what is acknowledged to the child is brought up to date and sent, also where the frame
does not advance, as for an amendment (R99, R119). -/
def ackRecord (k : RoleKind) (src : Nat) (s : State) : State :=
  match findRole k s with
  | none => s
  | some r =>
    match childOf src r with
    | none => s
    | some c =>
      let a := ackUpTo r (fun opens => parentsFor opens r s) c
      sendAck k src (onChild k src (fun c => { c with ackFrame := a }) s)

/-- Every child's. -/
def updateAcks (k : RoleKind) (s : State) : State :=
  match findRole k s with
  | none => s
  | some r => forEach (r.children.map (·.source)) (updateAck k) s

/-- A request joins those for a child's next acknowledgement. -/
def request (k : RoleKind) (src : Nat) (q : AckReq) (s : State) : State :=
  onChild k src (fun c => { c with reqs := addOnce q c.reqs }) s

/-- Requests for missing blocks, one for each run of consecutive blocks. -/
def runsOf : List Nat → List (Nat × Nat)
  | [] => []
  | b :: t =>
    match runsOf t with
    | (lo, hi) :: rest => if lo = b + 1 then (b, hi) :: rest else (b, b) :: (lo, hi) :: rest
    | [] => [(b, b)]

/-! ## Alerts at a tier (R125, R128 to R131) -/

/-- A role sends a report or storm entry upward and copies it into its next record; the Forum's go to partition 0 as
notices. -/
def roleAlert (k : RoleKind) (a : AlertEntry) (s : State) : State :=
  let s := modRole k (fun r => { r with alerts := r.alerts ++ [a] }) s
  match k, a with
  | .forum, .report r => notify (.fault r.code r.subject) 0 0x0EF0 (reportFlds r) s
  | .forum, .storm _ => s
  | _, _ => bypQueue a s

/-- A report of a merging role. -/
def roleReport (r : Role) (e : MergeEntry) (isOpen isClose continued : Bool) (count : Nat) (s : State) : Report :=
  { isOpen := isOpen, isClose := isClose, continued := continued, code := e.code, reporter := roleSource r,
    subject := e.subject, ft := e.ft, epoch := s.epoch, count := count, first8 := e.first8, tier := tierOf r.kind + 4 * r.replica,
    detail := e.detail, window := e.window }

/-- The merge entry that a report makes. -/
def entryOfReport (p : Report) : MergeEntry :=
  { code := p.code, subject := p.subject, window := p.window, count := if p.isOpen then 0 else p.count, first8 := lowest8 p.first8 [],
    ft := p.ft, detail := p.detail, openSent := true }

/-- The key of a report has this entry. -/
def sameKey (p : Report) (e : MergeEntry) : Bool := e.code == p.code && e.subject == p.subject && e.window == p.window

/-- A counted report added to an entry: counts add, the eight lowest addresses stay, `FT` keeps the earliest and `DETAIL`
goes with it (R130). -/
def joinReport (p : Report) (e : MergeEntry) : MergeEntry :=
  let earlier : Bool := p.ft < e.ft || e.count == 0
  { e with count := e.count + p.count, first8 := if e.count = 0 then lowest8 p.first8 [] else lowest8 p.first8 e.first8,
           ft := if earlier then p.ft else e.ft, detail := if earlier then p.detail else e.detail }

/-- Two storm entries of one code: the earlier ft with its reporter, the lower address on a tie (R131). -/
def joinStorm (a b : StormEntry) : StormEntry :=
  let bFirst : Bool := b.ft < a.ft || (b.ft == a.ft && b.first < a.first)
  { a with reports := a.reports + b.reports, ft := min a.ft b.ft, first := if bFirst then b.first else a.first,
           codesShared := min 0xFFFF (a.codesShared + b.codesShared) }

/-- The storm entry that one report makes. -/
def stormOf (r : Role) (p : Report) (s : State) : StormEntry :=
  { continued := false, code := p.code, source := roleSource r, ft := p.ft, window := p.window, epoch := s.epoch,
    reports := p.count, first := listMin 0 p.first8, tier := tierOf r.kind + 4 * r.replica, codesShared := 0 }

/-- Codes of a window's storm summary that have an entry of their own. -/
def stormCodes (w : Nat) (r : Role) : List StormEntry := r.storms.filter fun e => e.window == w && e.code != 0xFFFF

/-- A storm entry joins the summary of its window: under its code while there are fewer than 256 codes, else in the shared
entry, which counts each code this role folds once (R131). -/
def stormAdd (k : RoleKind) (e0 : StormEntry) (s : State) : State :=
  match findRole k s with
  | none => s
  | some r =>
    let e := { e0 with source := roleSource r, tier := tierOf r.kind + 4 * r.replica, epoch := s.epoch, continued := false }
    let has (c : Nat) : Bool := r.storms.any fun x => x.window == e.window && x.code == c
    let own : Bool := e.code == 0xFFFF || has e.code || (stormCodes e.window r).length < 256
    let code := if own then e.code else 0xFFFF
    let new : Bool := !own && !r.sharedCodes.contains (e.code, e.window)
    let x := { e with code := code, codesShared := if own then e.codesShared else e.codesShared + bnat new }
    let put (q : Role) : Role :=
      { q with
        storms := if has code then q.storms.map (fun y => if y.window = x.window ∧ y.code = code then joinStorm y x else y)
                  else q.storms ++ [x],
        stormsInEpoch := if has code then q.stormsInEpoch else q.stormsInEpoch + 1,
        sharedCodes := if new then q.sharedCodes ++ [(e.code, e.window)] else q.sharedCodes }
    modRole k put s

/-- A counted report at a role (R129 to R131). -/
def mergeCounted (k : RoleKind) (p : Report) (r : Role) (s : State) : State :=
  if p.ft < r.closedTo then
    let e := entryOfReport p
    roleAlert k (.report (roleReport r e false true true p.count s)) s
  else if r.merge.any (sameKey p) then
    modRole k (fun r => { r with merge := r.merge.map fun e => if sameKey p e then joinReport p e else e }) s
  else if r.merge.length < Config.mergeEntries then
    let e := entryOfReport p
    roleAlert k (.report (roleReport r e true false false 1 s)) (modRole k (fun r => { r with merge := r.merge ++ [e] }) s)
  else stormAdd k (stormOf r p s) s

/-- An `OPEN` notice at a role: the first for a key opens an entry without a count and goes on; later ones, and one that
finds the table full, are discarded (R129). -/
def mergeOpen (k : RoleKind) (p : Report) (r : Role) (s : State) : State :=
  if p.ft < r.closedTo || r.merge.any (sameKey p) || Config.mergeEntries ≤ r.merge.length then s
  else
    let e := entryOfReport p
    roleAlert k (.report (roleReport r e true false false 1 s)) (modRole k (fun r => { r with merge := r.merge ++ [e] }) s)

/-- The Forum has counted the same report of a Quarter from its other replica: both merge the same inputs, and COUNT is of
distinct reporters (R125, R130; DEDUCED, assumption 128). -/
def twinReport (k : RoleKind) (p : Report) (r : Role) : Bool :=
  k == .forum && !p.isOpen && r.counted.any fun a => match a with
    | .report x => !x.isOpen && x.code == p.code && x.subject == p.subject && x.window == p.window
        && x.reporter == p.reporter && x.tier != p.tier
    | .storm _ => false

/-- The same of a storm entry (R131). -/
def twinStorm (k : RoleKind) (e : StormEntry) (r : Role) : Bool :=
  k == .forum && r.counted.any fun a => match a with
    | .report _ => false
    | .storm x => x.code == e.code && x.window == e.window && x.source == e.source && x.tier != e.tier

/-- A report reaches a role, once: its copy in a child's record adds nothing (R125, R129). -/
def takeReport (k : RoleKind) (p : Report) (s : State) : State :=
  match findRole k s with
  | none => s
  | some r =>
    if r.counted.contains (.report p) || twinReport k p r then s
    else
      let s := modRole k (fun r => { r with counted := .report p :: r.counted }) s
      if p.isOpen then mergeOpen k p r s else mergeCounted k p r s

/-- A storm entry reaches a role, once; one for a window already closed goes on with `CONTINUED` (R131). -/
def takeStorm (k : RoleKind) (e : StormEntry) (s : State) : State :=
  match findRole k s with
  | none => s
  | some r =>
    if r.counted.contains (.storm e) || twinStorm k e r then s
    else
      let s := modRole k (fun r => { r with counted := .storm e :: r.counted }) s
      if e.ft < r.closedTo then
        roleAlert k (.storm { e with continued := true, source := roleSource r, tier := tierOf r.kind + 4 * r.replica,
                                     epoch := s.epoch }) s
      else stormAdd k e s

/-- The alerts of a child's record. -/
def takeRecordAlerts (k : RoleKind) (l : List AlertEntry) (s : State) : State :=
  forEach l (fun a => match a with
    | .report p => takeReport k p
    | .storm e => takeStorm k e) s

/-- The windows up to an ft close: one `CLOSE` for each entry with a counted report, and the storm entries (R130, R131). -/
def closeWindow (k : RoleKind) (end_ : Nat) (s : State) : State :=
  match findRole k s with
  | none => s
  | some r =>
    if end_ ≤ r.closedTo then s
    else
      let es := r.merge.filter fun e => e.ft < end_
      let st := r.storms.filter fun e => e.ft < end_
      let f (q : Role) : Role :=
        let left := q.storms.filter fun e => end_ ≤ e.ft
        { q with merge := q.merge.filter (fun e => end_ ≤ e.ft), storms := left,
                 sharedCodes := q.sharedCodes.filter (fun c => left.any fun e => e.window == c.2), closedTo := end_ }
      let s := modRole k f s
      let s := forEach (es.filter fun e => e.count != 0)
        (fun e s => roleAlert k (.report (roleReport r e false true false e.count s)) s) s
      forEach st (fun e => roleAlert k (.storm e)) s

end Sys2Proof.Machine
end

