-- ==== Sys2Proof/Machine/DumpOps.lean ====
section
/-!
DEFINITION. Hangs, dumps and the wait-for graph as shared operations (R449 to R464), with `DUMP_TAKE` and `WFG_BUILD`.
-/

namespace Sys2Proof.Machine

/-! ## Triggers (R452) -/

/-- An automatic dump was taken within the latest 10 s of ft. -/
def autoLimited (s : State) : Bool :=
  match s.dump.lastAuto with
  | none => false
  | some f => s.time.ft < f + 10000000000

/-- Slot 0 holds a dump that is undelivered and younger than 10 s (R455). -/
def slotBusy (s : State) : Bool :=
  match s.dump.slot0 with
  | some (_, f, false) => s.time.ft < f + 10000000000
  | _ => false

/-- A trigger of an automatic dump is accepted. -/
def autoAccepted (s : State) : Bool := !autoLimited s && !slotBusy s

/-- A trigger asks for an automatic dump, or is counted (R452, R465). -/
def autoDump (trigger : Nat) (s : State) : State :=
  if autoAccepted s then
    onDump (fun d => { d with pending := d.pending ++ [{ trigger := trigger, reqFt := s.time.ft, dest := 0, desc := none }] }) s
  else onDump (fun d => { d with suppressed := d.suppressed + 1 }) s

/-! ## The capture (R454 to R459) -/

/-- The station of a domain is powered down, in reset or in the Cul-de-sac. -/
def stationAbsent (d : Nat) (s : State) : Bool :=
  !s.pwr.on.getLsbD d || s.pwr.inReset.getLsbD d || s.pwr.isolated.contains d
    || s.pwr.quiescing.any (fun q => q.1 == d && goesDown q)
    || (14 ≤ d && s.pwr.culDeSac.contains (2, d - 14))

/-- The entry of an absent station, which PD13 makes. -/
def absentEntry (d : Nat) (s : State) : DumpEntry :=
  { ekind := 5, domain := d, object := 0, tkind := 0, tdomain := 0, tobject := 0, tremote := 0, ageUs := 0, captureFt := ftStamp s,
    count := 0, head := 0 }

/-- An entry in its place among waits, the oldest first. -/
def insertWait (e : DumpEntry) : List DumpEntry → List DumpEntry
  | [] => [e]
  | x :: t => if x.ageUs < e.ageUs then e :: x :: t else x :: insertWait e t

/-- The order in which a dump that is too long is written (R459). -/
def dumpOrder (l : List DumpEntry) : List DumpEntry :=
  let kind (k : Nat) : List DumpEntry := l.filter fun e => e.ekind == k
  (kind 2).foldl (fun acc e => insertWait e acc) [] ++ kind 3 ++ kind 4 ++ kind 1 ++ kind 5

/-- Entries that a slot holds. -/
def slotEntries (s : State) : Nat := if s.fuse.plaza then 65533 else 4093

/-- A dump of what the stations captured; a domain never powered has no station (R14). -/
def makeDump (trigger reqFt : Nat) (entries : List DumpEntry) (s : State) : Dump :=
  let live := entries.filter fun e => !stationAbsent e.domain s
  let gone := ((List.range 29).map (· + 1)).filter fun d => stationAbsent d s && !neverPowered d s
  let all := live ++ gone.map fun d => absentEntry d s
  let tooMany := slotEntries s < all.length
  let kept := if tooMany then (dumpOrder all).take (slotEntries s) else all
  let fts := kept.map (·.captureFt)
  { trigger := trigger, truncated := tooMany, auto := 3 ≤ trigger, stewardDown := !stewardUp s,
    fwLevel := (s.stw.running.map (·.fwLevel)).getD 0, source := selfSource s, epoch := s.epoch, reqFt := reqFt,
    firstFt := listMin (ftStamp s) fts, lastFt := fts.foldl max 0, nDropped := all.length - kept.length, dumpSeq := s.dump.seq,
    pdSts := s.pwr.on &&& 0x3FFFFFFF, generation := (s.place.part.map (·.generation)).getD 0, entries := kept }

/-- Bytes of a dump (R456). -/
def dumpSize (d : Dump) : Nat := 64 + 32 * d.entries.length + 16

/-- One dump entry's 32 bytes (R457). -/
def dumpEntryBytes (e : DumpEntry) : List Byte :=
  bytesOf e.ekind 1 ++ bytesOf e.domain 1 ++ bytesOf e.object 2 ++ bytesOf e.tkind 1 ++ bytesOf e.tdomain 1 ++ bytesOf e.tobject 2
    ++ bytesOf e.tremote 4 ++ bytesOf (min e.ageUs 0xFFFFFFFF) 4 ++ bytesOf e.captureFt 8 ++ bytesOf e.count 4 ++ bytesOf e.head 4

/-- The bytes of a dump (R456). -/
def dumpBytes (d : Dump) : List Byte :=
  let hdr := bytesOf 0x4455 2 ++ bytesOf 1 1 ++ bytesOf d.trigger 1
    ++ bytesOf (bnat d.truncated + 2 * bnat d.auto + 4 * bnat d.stewardDown) 2 ++ bytesOf d.fwLevel 2 ++ bytesOf d.source 4
    ++ bytesOf d.epoch 4 ++ bytesOf d.reqFt 8 ++ bytesOf d.firstFt 8 ++ bytesOf d.lastFt 8 ++ bytesOf d.entries.length 4
    ++ bytesOf d.nDropped 4 ++ bytesOf d.dumpSeq 4 ++ bytesOf d.pdSts.toNat 4 ++ bytesOf d.generation 4
  let body := d.entries.flatMap dumpEntryBytes
  hdr ++ bytesOf (crc32c hdr).toNat 4 ++ body ++ bytesOf (crc32c body).toNat 4 ++ bytesOf 0 12

/-! ## Delivery (R460) -/

/-- Where a block's Dump class goes: a Leaf's parent, the parents of a chip's Plaza role. -/
def dumpParents (s : State) : List Nat :=
  if s.fuse.plaza then
    match findRole .plaza s with
    | none => []
    | some r => parentsOf r s
  else s.place.parent.toList

/-- A dump goes up in the Dump class; a chip keeps its own in its Dump log. -/
def dumpUp (d : Dump) (s : State) : State :=
  let bytes := dumpBytes d
  let s := arcIngest 3 { mkEntry d.source bytes.length (.dump d) s with produced := true } s
  forEach (dumpParents s) (fun p => enqueueRecord 4 d.source p 0x4455 d.dumpSeq bytes.length false (recordBlocks bytes 0 0) (.dumpRec d)) s

/-- The dump in slot 0 goes up as soon as the Steward serves and a parent is there (R460). -/
def deliverAuto (s : State) : State :=
  match s.dump.slot0 with
  | some (d, f, false) =>
    if stewardUp s && (s.fuse.plaza || s.place.parent.isSome) then
      dumpUp d (onDump (fun x => { x with slot0 := some (d, f, true) }) s)
    else s
  | _ => s

/-- The first request that waits for a piece of work waits for another instead. -/
def turnWork (a b : Work) : List Deferred → List Deferred
  | [] => []
  | x :: t => if x.work = a then { x with work := b } :: t else x :: turnWork a b t

/-- A commanded dump goes into its chain, and its command completes with the chain. -/
def dumpToChain (d : Dump) (q : DumpReq) (desc : Desc) (s : State) : State :=
  let (n, s) := outputTo desc (dumpSize d) (.dump d) s
  onStw (fun t => { t with deferred := turnWork (.dump q.reqFt) (.output n) t.deferred }) s

/-- A commanded dump goes where `DEST` sends it. -/
def deliverCommanded (d : Dump) (q : DumpReq) (s : State) : State :=
  let s := when (q.dest.getLsbD 1) (dumpUp d) s
  match q.desc with
  | some desc => if q.dest.getLsbD 0 then dumpToChain d q desc s else complete (.dump q.reqFt) Config.ok [] s
  | none => complete (.dump q.reqFt) Config.ok [] s

/-- A dump reaches its slot; an automatic one that pushes out one never delivered is reported (R455, R466). -/
def storeDump (d : Dump) (s : State) : State :=
  let next (x : Dumps) : Dumps := { x with seq := x.seq + 1 }
  let s := onDump next s
  if d.auto then
    let lost : Bool := match s.dump.slot0 with
      | some (_, _, b) => !b
      | none => false
    let s := when lost (raise 0x0E02 (engineKey s.die 13) 0) s
    onDump (fun x => { x with slot0 := some (d, s.time.ft, false), lastAuto := some s.time.ft }) s
  else onDump (fun x => { x with slot1 := some d }) s

/-- The dump unit captures every station for the requests that are due: one dump, under the lowest trigger (R454, R465). -/
def captureDump (trigger : Nat) (entries : List DumpEntry) (s : State) : State :=
  match s.dump.pending.find? fun q => q.trigger == trigger with
  | none => s
  | some q =>
    let s := untilFt q.reqFt s
    if s.pwr.parked || s.time.ft < q.reqFt then s
    else
      let due := s.dump.pending.filter fun x => x.reqFt ≤ s.time.ft
      let t := (due.map (·.trigger)).foldl min trigger
      let d := makeDump t q.reqFt entries s
      let anyAuto := due.any fun x => 3 ≤ x.trigger
      let s := onDump (fun x => { x with
        pending := x.pending.filter (fun y => !(y.reqFt ≤ s.time.ft)),
        lastAuto := if anyAuto then some s.time.ft else x.lastAuto }) s
      let s := storeDump d s
      let s := when d.truncated (raise 0x0E02 (engineKey s.die 13) 0) s
      let s := forEach (due.filter fun x => x.trigger ≤ 2) (deliverCommanded d) s
      deliverAuto s

/-- `DUMP_TAKE` (0x0E01). -/
def execDumpTake (r : Req) (desc : Desc) (dest : BitVec 8) (atFt : Nat) (s : State) : Host.Outcome State Fault Refusal :=
  run (serve { code := 0x0E01, allow := { s := true }, relayable := true } r
      (1 ≤ dest.toNat && dest.toNat ≤ 3 && (!r.relay || dest == 2#8)) fun s =>
    if atFt ≠ 0 ∧ atFt < s.time.ft then deny Config.tooSoon s
    else if dest.getLsbD 0 && !descOk (issuerPart r.issuer) desc s then deny Config.bufferFault s
    else
      let t := if atFt = 0 then s.time.ft else atFt
      let q : DumpReq :=
        { trigger := if isCopy r.issuer then 2 else 1, reqFt := t, dest := dest,
          desc := if dest.getLsbD 0 then some desc else none }
      later (.dump t) (onDump (fun d => { d with pending := d.pending ++ [q] }) s)) s

/-! ## The wait-for graph (R462 to R464) -/

/-- The dumps of the Arcade within 100 µs of an ft; one that arrived with blocks missing counts as truncated (R462, R465). -/
def dumpsNear (atFt : Nat) (s : State) : List Dump :=
  ((s.arc.segments.filter fun g => !g.lost).flatMap (·.entries)).filterMap fun e =>
    match e.data with
    | .dump d =>
      if atFt ≤ d.reqFt + 100000 ∧ d.reqFt ≤ atFt + 100000 then some { d with truncated := d.truncated || e.holes } else none
    | _ => none

/-- The node of an object, with what its dump says of it. -/
def objectNode (ds : List Dump) (inst domain object : Nat) : GNode :=
  let mine := (ds.filter fun d => d.source == inst).flatMap (·.entries)
  match mine.find? fun e => e.domain == domain && e.object == object with
  | some e =>
    { inst := inst, nkind := 1, domain := domain, object := object, count := e.count, ageUs := e.ageUs, captureFt := e.captureFt }
  | none => { inst := inst, nkind := 1, domain := domain, object := object, count := 0, ageUs := 0, captureFt := 0 }

/-- What an entry waits on, or who holds it. -/
def targetNode (ds : List Dump) (inst : Nat) (e : DumpEntry) : GNode :=
  if e.tkind = 1 then objectNode ds inst e.tdomain e.tobject
  else if e.tkind = 2 then
    let n := objectNode ds e.tremote e.tdomain e.tobject
    if ds.any fun d => d.source == e.tremote then n else { n with nkind := 3 }
  else { inst := inst, nkind := 2, domain := e.tkind, object := e.tobject, count := 0, ageUs := 0, captureFt := 0 }

/-- The place of a node, which joins the list when it is new. -/
def placeNode (n : GNode) : List GNode → Nat × List GNode
  | [] => (0, [n])
  | x :: t =>
    if x.inst = n.inst ∧ x.nkind = n.nkind ∧ x.domain = n.domain ∧ x.object = n.object then (0, x :: t)
    else
      let (i, l) := placeNode n t
      (i + 1, x :: l)

/-- One entry's edge joins the graph. -/
def placeEdge (ds : List Dump) (g : List GNode × List GEdge) (x : Nat × DumpEntry) : List GNode × List GEdge :=
  let dst := targetNode ds x.1 x.2
  let (i, ns) := placeNode (objectNode ds x.1 x.2.domain x.2.object) g.1
  let (j, ns) := placeNode dst ns
  (ns, g.2 ++ [{ src := i, dst := j, reln := if x.2.ekind = 2 then 1 else 2, old := 1000 ≤ x.2.ageUs,
                 cross := dst.nkind != 2 && dst.inst != x.1, forbidden := false, ageUs := x.2.ageUs }])

/-- A node that R166 counts downward: the Control queue. -/
def downward (n : GNode) : Bool := n.domain == 10 && n.object == 6

/-- An edge breaks R21 or R166 (R463). -/
def edgeForbidden (ns : List GNode) (es : List GEdge) (e : GEdge) : Bool :=
  match ns[e.src]?, ns[e.dst]? with
  | some a, some b =>
    if e.reln ≠ 1 ∨ b.nkind = 2 then false
    else if e.cross then downward b || sourceKind b.inst != sourceKind a.inst + 1
    else es.any fun h => h.reln == 2 && h.dst == e.src && h.src != e.dst
  | _, _ => false

/-- Nodes that old edges reach from some nodes, in so many further steps. -/
def reachOld (es : List GEdge) : Nat → List Nat → List Nat
  | 0, l => l
  | k + 1, l => reachOld es k ((es.filter fun e => e.old && l.contains e.src).foldl (fun l e => addOnce e.dst l) l)

/-- Nodes that a node reaches by one or more old edges. -/
def reachFrom (n : Nat) (es : List GEdge) (v : Nat) : List Nat :=
  reachOld es n ((es.filter fun e => e.old && e.src == v).foldl (fun l e => addOnce e.dst l) [])

/-- The lowest node of a component that holds a cycle. -/
def leadsCycle (n : Nat) (es : List GEdge) (v : Nat) : Bool :=
  let r := reachFrom n es v
  r.contains v && (List.range v).all fun u => !(r.contains u && (reachFrom n es u).contains v)

/-- The shortest way back to a node by old edges: indices of edges, first to last. -/
def wayBack (es : List GEdge) (v : Nat) : Nat → List Nat → List (Nat × List Nat) → Option (List Nat)
  | 0, _, _ => none
  | k + 1, seen, front =>
    let ext := front.flatMap fun x => (es.zipIdx.filter fun e => e.1.old && e.1.src == x.1).map fun e => (e.1.dst, x.2 ++ [e.2])
    match ext.find? fun x => x.1 == v with
    | some x => some x.2
    | none =>
      let new := ext.foldl (fun (acc : List (Nat × List Nat)) x =>
        if seen.contains x.1 ∨ acc.any (fun y => y.1 == x.1) then acc else acc ++ [x]) []
      if new.isEmpty then none else wayBack es v k (seen ++ new.map (·.1)) new

/-- The cycles, one for each component: edge indices. -/
def cyclesOf (n : Nat) (es : List GEdge) : List (List Nat) :=
  ((List.range n).filter (leadsCycle n es)).filterMap fun v => wayBack es v (n + 1) [v] [(v, [])]

/-- Edges in the order in which they are written: those of each cycle together (R464). -/
def edgeOrder (n : Nat) (es : List GEdge) : List Nat :=
  let c := (cyclesOf n es).flatten
  c ++ (List.range es.length).filter fun i => !c.contains i

/-- The place of an edge among those written. -/
def edgeAt (order : List Nat) (i : Nat) : Nat := (order.findIdx? (· == i)).getD 0

/-- The findings of a graph; a field that the manual does not give for a finding holds a free value. -/
def findingsOf (ns : List GNode) (es : List GEdge) (order : List Nat) (free : Nat) : List GFinding :=
  let age (l : List Nat) : Nat := l.foldl (fun m i => max m ((es[i]?.map (·.ageUs)).getD 0)) 0
  let cycles := (cyclesOf ns.length es).map fun c =>
    { fkind := 1, sinkKind := free, len := c.length, firstEdge := edgeAt order (c.headD 0), sink := free, ageUs := age c }
  let starved := (es.zipIdx.filter fun e => e.1.old && !(es.any fun x => x.old && x.src == e.1.dst)).map fun e =>
    { fkind := 2, sinkKind := match ns[e.1.dst]? with
        | some n => if n.nkind = 2 then n.domain else free
        | none => free,
      len := 1, firstEdge := edgeAt order e.2, sink := e.1.dst, ageUs := e.1.ageUs : GFinding }
  let bad := (es.zipIdx.filter fun e => e.1.forbidden).map fun e =>
    { fkind := 3, sinkKind := free, len := 1, firstEdge := edgeAt order e.2, sink := free, ageUs := e.1.ageUs : GFinding }
  cycles ++ starved ++ bad

/-- The graph of some dumps (R462). -/
def buildGraph (ds : List Dump) (atFt free : Nat) (s : State) : Graph :=
  let xs := ds.flatMap fun d => (d.entries.filter fun e => (e.ekind == 2 || e.ekind == 4) && e.tkind != 0).map fun e => (d.source, e)
  let (ns, es0) := xs.foldl (placeEdge ds) ([], [])
  let es := es0.map fun e => { e with forbidden := edgeForbidden ns es0 e }
  let order := edgeOrder ns.length es
  { incomplete := ns.any (fun n => n.nkind == 3), truncatedInput := ds.any (·.truncated), nDumps := ds.length, atFt := atFt,
    source := selfSource s, nodes := ns, edges := order.filterMap fun i => es[i]?, findings := findingsOf ns es order free }

/-- Bytes of a graph. -/
def graphSize (g : Graph) : Nat := 64 + 32 * (g.nodes.length + g.edges.length + g.findings.length)

/-- `WFG_BUILD` (0x0E02): the graph goes into the chain; a cycle or forbidden edge is reported (R463). -/
def execWfgBuild (r : Req) (desc : Desc) (atFt : Nat) (s : State) : Host.Outcome State Fault Refusal :=
  run (serve { code := 0x0E02, allow := {}, only := .plaza } r true fun s =>
    let ds := dumpsNear atFt s
    if ds.isEmpty then deny Config.notFound s
    else if !descOk (issuerPart r.issuer) desc s then deny Config.bufferFault s
    else
      let (f, s) := draw s
      let g := buildGraph ds atFt f s
      let s := when (g.findings.any fun x => x.fkind != 2) (raise 0x0E03 (roleKey 1 (trayOf s.die)) 0) s
      outputReply r desc (graphSize g) (.graph g) s) s

end Sys2Proof.Machine
end

