-- ==== Sys2Proof/Machine/HistOps.lean ====
section
/-!
DEFINITION. Log-linear histograms: buckets, representatives, entry, merge and quantile (R177 to R181, R191).
-/

namespace Sys2Proof.Machine

/-- An empty histogram (R179). -/
def Hist.empty : Hist :=
  { buckets := [], underN := 0, overN := 0, n := 0, absent := 0, min := 2 ^ 63 - 1, max := -(2 ^ 63), sum := 0 }

/-- j of R177: the number of k from 1 to 63 with `MB`[k] ≤ f.  `MB`[k] is the least integer whose 64th power reaches
2^(1472 + k), so the test is made on f itself. -/
def bucketStep (f : Nat) : Nat := ((List.range 63).filter fun k => 2 ^ (1473 + k) ≤ f ^ 64).length

/-- f of R177. -/
def bucketFrac (v o : Nat) : Nat := if o ≤ 23 then v * 2 ^ (23 - o) else v / 2 ^ (o - 23)

/-- The bucket of a value from 1 to 2³² − 1. -/
def bucketOf (v : Nat) : Nat :=
  let o := Nat.log2 v
  64 * o + bucketStep (bucketFrac v o)

/-- `MREP` (R178): 2^(16 + (j + 0.5)/64) rounded, for j from 0 to 63. -/
def mrepTable : List Nat :=
  [65892, 66609, 67335, 68068, 68809, 69558, 70316, 71082, 71856, 72638, 73429,
   74229, 75037, 75854, 76680, 77515, 78359, 79212, 80075, 80947, 81828, 82719,
   83620, 84531, 85451, 86382, 87322, 88273, 89234, 90206, 91188, 92181, 93185,
   94200, 95226, 96263, 97311, 98370, 99442, 100524, 101619, 102726, 103844, 104975,
   106118, 107274, 108442, 109623, 110816, 112023, 113243, 114476, 115723, 116983, 118257,
   119544, 120846, 122162, 123492, 124837, 126197, 127571, 128960, 130364]

/-- The representative of a bucket, Q48.16 (R178). -/
def bucketRep (i : Nat) : Nat := mrepTable.getD (i % 64) 0 * 2 ^ (i / 64)

/-- A value enters (R177, R179). -/
def Hist.enter (h : Hist) (v : Int) : Hist :=
  let h := { h with n := h.n + 1, min := min h.min v, max := max h.max v, sum := h.sum + v }
  if v ≤ 0 then { h with underN := h.underN + 1 }
  else if 2 ^ 32 ≤ v then { h with overN := h.overN + 1 }
  else { h with buckets := tmod 0 (bucketOf v.toNat) (· + 1) h.buckets }

/-- A missed occurrence enters as +∞: it counts in `OVER` and `N` and sets `MAX` (R181, R191). -/
def Hist.enterMissed (h : Hist) : Hist := { h with n := h.n + 1, overN := h.overN + 1, max := 2 ^ 63 - 1 }

/-- A member with no entry. -/
def Hist.enterAbsent (h : Hist) (k : Nat) : Hist := { h with absent := h.absent + k }

/-- Two histograms merged (R179). -/
def Hist.merge (a b : Hist) : Hist :=
  { buckets := b.buckets.foldl (fun t e => tmod 0 e.1 (· + e.2) t) a.buckets, underN := a.underN + b.underN,
    overN := a.overN + b.overN, n := a.n + b.n, absent := a.absent + b.absent, min := min a.min b.min,
    max := max a.max b.max, sum := a.sum + b.sum }

/-- A quantile: its value, `none` for +∞, with `Q_UNDER` and `Q_OVER` (R180). -/
structure Quantile where
  value : Option Nat
  qUnder : Bool
  qOver : Bool
deriving DecidableEq, Repr

/-- The bucket that holds a rank, counted from 1 among the buckets. -/
def rankBucket : Nat → List (Nat × Nat) → Option Nat
  | _, [] => none
  | r, (i, k) :: t => if r ≤ k then some i else rankBucket (r - k) t

/-- The q-quantile, q in parts per million; none of an empty histogram (R180). -/
def Hist.quantile (h : Hist) (q : Nat) : Option Quantile :=
  if h.n = 0 then none
  else
    let r := max 1 (ceilDiv (q * h.n) 1000000)
    if r ≤ h.underN then some ⟨some 0, true, false⟩
    else
      match rankBucket (r - h.underN) h.buckets with
      | some i => some ⟨some (bucketRep i), false, false⟩
      | none => some ⟨none, false, true⟩

end Sys2Proof.Machine
end

