-- ==== Sys2Proof/Machine/SeriesOps.lean ====
section
/-!
DEFINITION. Series: samples, baseline, scale, drift, verdicts, window doubling, the series record, Plaza templates and their
cohort histograms (R167 to R176, R188, R197).
-/

namespace Sys2Proof.Machine

/-! ## One sample (R173 to R175) -/

/-- A series that has just been enabled or restarted with nothing kept (R175). -/
def freshSeries (d : SeriesDesc) (w since : Nat) : Series :=
  { desc := d, sstate := bnat d.enable, level := false, drift := false, w := w, b := 0, s := 0, lastValue := 0,
    lastMissing := false, samples := 0, missing := 0, sats := 0, levelRun := 0, levelClear := 0,
    driftRun := 0, driftClear := 0, inBlock := 0, beta := 0, ring := [], openSum := 0, sumA := 0, sumB := 0, spoilt := false,
    fed := none, fedW := w, since := since }

/-- A restart into Warm that keeps B, S, the sample count and `level_run` (R172, R175). -/
def rewindow (w : Nat) (x : Series) : Series :=
  { x with w := w, sstate := if x.sstate = 0 then 0 else 1, level := false, drift := false, levelClear := 0, driftRun := 0,
           driftClear := 0, inBlock := 0, ring := [], openSum := 0, sumA := 0, sumB := 0, spoilt := true }

/-- A restart that clears them too, counts of what was lost kept (R175). -/
def restartSeries (x : Series) : Series :=
  { freshSeries x.desc x.w x.since with
    sstate := if x.sstate = 0 then 0 else 1, missing := x.missing, sats := x.sats, spoilt := true, fed := x.fed, fedW := x.fedW }

/-- The limit of the level test, Q32.32 (R173). -/
def levelLimit (x : Series) : Int := max (x.desc.levelK * x.s / 256) (x.desc.minDev * 65536)

/-- The level detector on one test: run and flag, and whether the flag has just been set (R173, R175). -/
def levelTest (dev : Int) (x : Series) : Series × List Nat :=
  let exceeds := levelLimit x < dev
  let run := if exceeds then x.levelRun + 1 else 0
  let clear := if exceeds then 0 else x.levelClear + 1
  let x := { x with levelRun := run, levelClear := clear }
  if x.desc.levelRun = 0 ∨ x.sstate ≠ 2 then (x, [])
  else if !x.level && x.desc.levelRun ≤ run then ({ x with level := true, levelClear := 0 }, [0x0605])
  else if x.level && x.desc.levelRun ≤ clear then ({ x with level := false }, [])
  else (x, [])

/-- The slope of 15 block sums (R174). -/
def slopeOf (ring : List Int) (n w : Nat) : Int :=
  clampS 32 (Int.tdiv (ring.zipIdx.foldl (fun a p => a + ((p.2 : Int) - 7) * p.1) 0) (280 * n * n * 2 ^ w : Nat))

/-- β lies beyond the limit (R167). -/
def beyond (limit beta : Int) : Bool := if limit > 0 then limit < beta else if limit < 0 then beta < limit else false

/-- The drift detector on a close (R174, R175). -/
def driftTest (beta : Int) (x : Series) : Series × List Nat :=
  let out := beyond x.desc.driftLimit beta
  let run := if out then x.driftRun + 1 else 0
  let clear := if out then 0 else x.driftClear + 1
  let x := { x with driftRun := run, driftClear := clear, beta := beta }
  if x.desc.driftLimit = 0 then (x, [])
  else if !x.drift && x.desc.driftRun ≤ run then
    ({ x with drift := true, driftClear := 0 }, [if x.desc.kind = 6 then 0x0606 else 0x0603])
  else if x.drift && x.desc.driftRun ≤ clear then ({ x with drift := false }, [0x0604])
  else (x, [])

/-- The open block closes: 15 sums are kept, and with 15 the series is Ready and its slope is tested (R174, R175). -/
def closeBlock (x : Series) : Series × List Nat :=
  let ring := (if x.ring.length < 15 then x.ring else x.ring.drop 1) ++ [x.openSum]
  let x := { x with ring := ring, openSum := 0, inBlock := 0 }
  if ring.length < 15 then (x, [])
  else driftTest (slopeOf ring x.desc.block x.w) { x with sstate := 2 }

/-- A present sample, raw Q16.16, updates the series (R173). -/
def onSample (v : Int) (x : Series) : Series × List Nat :=
  let big := v * 65536
  let first := x.samples = 0
  let dev : Int := (big - x.b).natAbs
  let (x, c1) := if !first && 2 ^ x.desc.baseShift ≤ x.samples then levelTest dev x else (x, [])
  let x := if first then { x with b := big, s := 0 }
           else { x with b := x.b + (big - x.b) / (2 ^ x.desc.baseShift : Nat),
                         s := x.s + (dev - x.s) / (2 ^ x.desc.baseShift : Nat) }
  let x := { x with openSum := x.openSum + v, samples := x.samples + 1, inBlock := x.inBlock + 1 }
  let (x, c2) := if x.inBlock = x.desc.block then closeBlock x else (x, [])
  (x, c1 ++ c2)

/-- One slot of a series: its entry, and the codes of the reports it raises. -/
structure Fed where
  series : Series
  slots : List SeriesEntry
  codes : List Nat
deriving DecidableEq, Repr

/-- The entry of the latest slot (R188). -/
def entryOf (x : Series) (missing sat : Bool) (v : Int) : SeriesEntry :=
  { sindex := x.desc.index, inexact := false, missing := missing, sat := sat, sstate := x.sstate, level := x.level,
    drift := x.drift, value := v }

/-- A slot: a value saturated to 32 bits (R168), or a missing one, which changes nothing and is counted.  `det` says that
the Drift engine works. -/
def takeSlot (det : Bool) (v : Option Int) (f : Fed) : Fed :=
  match v with
  | none =>
    let x := { f.series with missing := f.series.missing + 1, lastMissing := true }
    { series := x, slots := f.slots ++ [entryOf x true false 0], codes := f.codes }
  | some raw =>
    let val := clampS 32 raw
    let sat := val != raw
    let x := { f.series with lastValue := val, lastMissing := false, sats := f.series.sats + bnat sat }
    let (x, codes) := if det then onSample val x else (x, [])
    { series := x, slots := f.slots ++ [entryOf x false sat val], codes := f.codes ++ codes }

/-! ## Windows (R168, R169) -/

/-- What a frame offers to series: counter entries, gauge entries, lateness entries with the partition of their job; `lost` where
some of it did not arrive (R189). -/
structure SeriesIn where
  es : List CounterEntry := []
  gs : List GaugeEntry := []
  late : List LateEntry := []
  part : Nat := 0
  lost : Bool := false
deriving DecidableEq, Repr

/-- A counter's delta in the frame; none where it is invalid, unobserved, absent or another partition's (R168, R170). -/
def srcCounter (d : SeriesDesc) (i : Nat) (x : SeriesIn) : Option Int :=
  match x.es.find? fun e => e.index == i with
  | some e =>
    if e.flags.getLsbD 3 || e.flags.getLsbD 4 || (d.partition != 0 && e.partition != d.partition) then none
    else some (e.delta : Nat)
  | none => none

/-- A gauge's sample in the frame. -/
def srcGauge (d : SeriesDesc) (x : SeriesIn) : Option Int :=
  match x.gs.find? fun e => e.index == d.srcA % 1024 with
  | some e => if d.partition != 0 && e.partition != d.partition then none else some (asLevel e.signed e.value)
  | none => none

/-- The kind has a second source. -/
def twoSources (k : Nat) : Bool := k == 2 || k == 4 || k == 6

/-- The sums of a window with one frame more (R168). -/
def addSources (x : SeriesIn) (r : Series) : Series :=
  let a := if r.desc.kind = 3 then srcGauge r.desc x else srcCounter r.desc r.desc.srcA x
  let b := if twoSources r.desc.kind then srcCounter r.desc r.desc.srcB x else some 0
  match a, b with
  | some a, some b => { r with sumA := r.sumA + a, sumB := r.sumB + b }
  | _, _ => { r with spoilt := true }

/-- The lateness entries that a descriptor may take: those of its own partition's job (R170). -/
def lateOf (d : SeriesDesc) (x : SeriesIn) : List LateEntry := if d.partition = 0 ∨ d.partition = x.part then x.late else []

/-- The lateness that an entry carries: present or late after miss. -/
def lateValue (e : LateEntry) : Option Int := if e.lkind = 0 ∨ e.lkind = 3 then some e.lateness else none

/-- The greatest lateness of a window with one frame more; a frame whose entries were lost spoils it (R169, R189). -/
def addLateness (x : SeriesIn) (r : Series) : Series :=
  (lateOf r.desc x).foldl (fun r e => match lateValue e with
    | some l => { r with sumA := if r.sumB = 2 then max r.sumA l else l, sumB := 2 }
    | none => { r with sumB := max r.sumB 1 }) { r with spoilt := r.spoilt || x.lost }

/-- The window's value by kind; none where it has none (R168). -/
def windowValue (r : Series) : Option Int :=
  let sh : Int := (2 ^ (r.w + r.desc.shift) : Nat)
  if r.spoilt then none
  else
    match r.desc.kind with
    | 1 | 3 => some (r.sumA * 65536 / sh)
    | 2 => if r.sumB = 0 then none else some (Int.tdiv (r.sumA * 65536) r.sumB / (2 ^ r.desc.shift : Nat))
    | 4 => some ((r.sumA - r.sumB) * 65536 / sh)
    | 6 => some ((r.sumA + r.desc.weightB * r.sumB) * 65536 / sh)
    | _ => if r.sumB = 2 then some (r.sumA * 65536 / (2 ^ r.desc.shift : Nat)) else none

/-- A series of one marker's lateness: one slot for each occurrence (R169). -/
def feedMarker (det : Bool) (x : SeriesIn) (f : Fed) : Fed :=
  ((lateOf f.series.desc x).filter fun e => e.marker == f.series.desc.target).foldl
    (fun f e => takeSlot det ((lateValue e).map fun l => l * 65536 / (2 ^ f.series.desc.shift : Nat)) f) f

/-- A window was begun that ends without the frame that would have ended it: the period changed within it, or that frame was not
formed (R168, R199). -/
def cutShort (frame period : Nat) (r : Series) : Bool :=
  match r.fed with
  | some (n, p) => n % 2 ^ r.fedW != 2 ^ r.fedW - 1 && (p != period || n / 2 ^ r.fedW != frame / 2 ^ r.fedW)
  | none => false

/-- A series of windows: a frame is added, and the window that it ends yields its slot; one cut short yields a missing slot
(R168, R199). -/
def feedWindow (det : Bool) (frame period : Nat) (x : SeriesIn) (f : Fed) : Fed :=
  let r := f.series
  let wn := 2 ^ r.w
  let f := if cutShort frame period r then takeSlot det none f else f
  let r := f.series
  let fresh := match r.fed with
    | some (n, p) => p != period || n / wn != frame / wn
    | none => true
  let gap := match r.fed with
    | some (n, _) => n + 1 != frame
    | none => false
  let r := if fresh then { r with sumA := 0, sumB := 0, spoilt := frame % wn != 0 }
           else if gap then { r with spoilt := true } else r
  let r := if r.desc.kind = 5 then addLateness x r else addSources x r
  let r := { r with fed := some (frame, period), fedW := r.w }
  let f := { f with series := r }
  if frame % wn ≠ wn - 1 then f
  else if r.desc.kind = 5 ∧ r.sumB = 0 ∧ r.spoilt = false then f
  else takeSlot det (windowValue r) f

/-- A lateness series of one marker, which ignores `WINDOW_LOG2` (R169). -/
def oneMarker (d : SeriesDesc) : Bool := d.kind == 5 && d.target != 0xFFFFFF

/-- One frame fed to a series. -/
def feedSeries (det : Bool) (frame period : Nat) (x : SeriesIn) (r : Series) : Fed :=
  let f : Fed := { series := r, slots := [], codes := [] }
  if r.sstate = 0 then f
  else if oneMarker r.desc then
    let f := feedMarker det x f
    { f with series := { f.series with fed := some (frame, period), fedW := r.w } }
  else feedWindow det frame period x f

/-! ## Reports (R175, R197, R198) -/

/-- The subject of a series' reports: the die, or the link of a link-health series. -/
def seriesSubject (die : Nat) (d : SeriesDesc) : Nat :=
  if d.kind = 6 then linkKey die (d.ports % 16) (d.target % 2 ^ 18) (d.ports / 16 % 16) else dieKey die

/-- The reports of a slot. -/
def raiseCodes (die : Nat) (f : Fed) (s : State) : State :=
  forEach f.codes (fun c => raise c (seriesSubject die f.series.desc) 0) s

/-! ## Definitions and doubling (R167, R171, R172) -/

/-- w under the doublings in force; a series of one marker has no window (R169, R172). -/
def effectiveW (d : SeriesDesc) (doublings : Nat) : Nat := if oneMarker d then 0 else min 8 (d.windowLog2 + doublings)

/-- Copies of each series: a Plaza applies a template to every Leaf it has adopted. -/
def seriesCopies (s : State) : Nat :=
  if s.fuse.plaza then (match findRole .plaza s with
    | some r => r.children.length
    | none => 0)
  else 1

/-- Updates of 256 frames, over all enabled series, under a number of doublings (R171). -/
def updates256 (ds : List SeriesDesc) (doublings : Nat) : Nat :=
  (ds.filter (·.enable)).foldl (fun n d => n + 256 / 2 ^ effectiveW d doublings) 0

/-- The demand at a period lies within the guarantee (R171). -/
def demandFits (ds : List SeriesDesc) (doublings period : Nat) (s : State) : Bool :=
  seriesCopies s * updates256 ds doublings * 1000000
    ≤ 256 * period * (if s.fuse.plaza then 1000000000 else 200000000)

/-- The doublings at a new period: none where the defined windows fit, else those in force and as many more as it takes, at most
8 (R172). -/
def fitDoublings (ds : List SeriesDesc) (period now : Nat) (s : State) : Nat :=
  if demandFits ds 0 period s then 0
  else ((List.range 9).find? fun k => now ≤ k && demandFits ds k period s).getD 8

/-- The series of the block as defined. -/
def definedSeries (s : State) : List SeriesDesc := s.conf.series.map (·.2.desc)

/-- A series under a number of doublings: a change of its w restarts its drift blocks (R172). -/
def refit (k : Nat) (x : Series) : Series := if effectiveW x.desc k = x.w then x else rewindow (effectiveW x.desc k) x

/-- A change of the windows in force.  The state of a Plaza's template for a die follows with the first frame of the new period
that is fed to it (R172). -/
def applyDoublings (k : Nat) (s : State) : State :=
  onConf (fun c => { c with doublings := k, series := c.series.map fun e => (e.1, refit k e.2) }) s

/-- The first frame at a new period: windows double until the demand fits, or return to those defined (R172). -/
def fitWindows (period : Nat) (s : State) : State :=
  if period = s.conf.fitPeriod then s
  else
    let old := s.conf.doublings
    let k := fitDoublings (definedSeries s) period old s
    let s := onConf (fun c => { c with fitPeriod := period, doublingsAll := c.doublingsAll + (k - old) }) s
    let s := if k = old then s else applyDoublings k s
    when (old < k) (raise 0x0608 (engineKey s.die 5) 0) s

/-- A definition takes effect at an ft: the series restarts in Warm with its flags clear (R167, R199). -/
def applyDef (opens : Nat) (d : SeriesDesc) (s : State) : State :=
  let x := freshSeries d (effectiveW d s.conf.doublings) opens
  onConf (fun c => { c with
    series := tins d.index x c.series, tmpl := c.tmpl.filter fun e => !s.fuse.plaza || e.1 % 1024 != d.index }) s

/-- Definitions due for a frame, which opens at an ft, take effect in the order of their acceptance. -/
def applyDefs (frame opens : Nat) (s : State) : State :=
  let due := s.conf.pendingDefs.filter fun p => p.1 ≤ frame
  forEach due (fun p => applyDef opens p.2)
    (onConf (fun c => { c with pendingDefs := c.pendingDefs.filter fun p => !(p.1 ≤ frame) }) s)

/-! ## The Leaf's series update and record (R168, R188, R189, R350) -/

/-- Every series of the Leaf takes a frame; their entries come out in ascending index. -/
def updateSeries (frame period : Nat) (x : SeriesIn) (s : State) : List SeriesEntry × State :=
  let det := engineUp 5 s
  let s := when (!det && !s.conf.series.isEmpty) (absentAt 4 5) s
  s.conf.series.foldl (fun acc e =>
    let f := feedSeries det frame period x e.2
    (acc.1 ++ f.slots,
     raiseCodes acc.2.die f (onConf (fun c => { c with series := tins e.1 f.series c.series }) acc.2))) ([], s)

/-- A strobe was dropped within a frame (R185). -/
def droppedIn (frame period : Nat) (s : State) : Bool :=
  s.conf.dropFts.any fun t => frameOpens frame period ≤ t && t < frameEnds frame period

/-- The Leaf's series record of a frame. -/
def seriesRecordOf (frame period : Nat) (quality : BitVec 8) (entries : List SeriesEntry) (late : List LateEntry) (s : State) :
    SeriesRecord :=
  let strided := frame % s.upl.u != s.upl.u - 1
  let cal := s.conf.active.map (·.image)
  { timeQuality := quality,
    srflags := BitVec.ofNat 16 (bnat (droppedIn frame period s) + 2 * bnat (s.conf.doublings != 0) + 4 * bnat cal.isNone
      + 8 * bnat (4096 < late.length)),
    frame := frame, period := period, epoch := s.epoch, die := s.die, seq := s.conf.seq, job := (cal.map (·.job)).getD 0,
    calCrc := (cal.map (·.imageCrc)).getD 0, series := if strided then [] else entries, late := late.take 4096 }

/-- What the record leaves out goes to the ledger's partition-0 counters: occurrences past its limit, and samples of a frame
that the uplink stride leaves out (R189, R350). -/
def countWithheld (r : SeriesRecord) (entries : List SeriesEntry) (late : List LateEntry) (s : State) : State :=
  countOwn 2 (entries.length - r.series.length) (countOwn 1 (late.length - r.late.length) s)

/-- An occurrence past the 4,096 that a record holds counts as missing at every tier (R189). -/
def pastLimit (e : LateEntry) : LateEntry := { e with lkind := 2, lateness := 0 }

/-- Lateness entries resolved before a frame closed are taken out, those past 4,096 as missing; the latest of each marker
resolved by the close is kept for features (R189, R206). -/
def takeLate (closeFt : Nat) (s : State) : List LateEntry × State :=
  let due := (s.conf.late.filter fun e => e.1 < closeFt).map (·.2)
  let due := due.take 4096 ++ (due.drop 4096).map pastLimit
  let seen := due ++ (s.conf.late.filter fun e => e.1 == closeFt).map (·.2)
  (due, onConf (fun c => { c with
    late := c.late.filter (fun e => !(e.1 < closeFt)),
    lastLate := seen.foldl (fun t e => tput none e.marker (lateValue e) t) c.lastLate }) s)

/-- The Leaf's series at the close of a frame: updates, definitions that begin with the next frame, and the record. -/
def seriesFrame (frame period closeFt : Nat) (quality : BitVec 8) (es : List CounterEntry) (gs : List GaugeEntry)
    (s : State) : State :=
  let (late, s) := takeLate closeFt s
  let s := fitWindows period s
  let jobPart := (s.conf.active.map (·.image.partition)).getD 0
  let (entries, s) :=
    if engineUp 4 s then updateSeries frame period { es := es, gs := gs, late := late, part := jobPart } s
    else ([], absentAt 2 4 s)
  let s := applyDefs (frame + 1) (frameEnds frame period) s
  let r := seriesRecordOf frame period quality entries late s
  let s := onConf (fun c => { c with seq := c.seq + 1 }) s
  let s := countWithheld r entries late s
  match s.place.parent with
  | none => s
  | some p => enqueueSeries s.die p 0x5352 r.seq (seriesBytes r).length (seriesBlocks r) (.seriesRec r) s

/-! ## Plaza templates and cohort histograms (R167, R170, R179) -/

def tmplKey (die t : Nat) : Nat := 1024 * die + t

/-- A template's state for a die. -/
def tmplOf (die : Nat) (e : Nat × Series) (s : State) : Series :=
  match s.conf.tmpl.find? fun x => x.1 == tmplKey die e.1 with
  | some x => x.2
  | none => e.2

/-- A template's state for a die as a frame of a period is to be fed to it (R172). -/
def tmplFor (die period : Nat) (e : Nat × Series) (s : State) : Series :=
  let x := tmplOf die e s
  if period = s.conf.fitPeriod then refit s.conf.doublings x else x

/-- A slot of a die joins the template's cohort histogram: its raw value, or an absent member (R179, R191). -/
def joinWin (t frame endFt die : Nat) (quality : BitVec 8) (e : SeriesEntry) (l : List WinHist) : List WinHist :=
  let put (w : WinHist) : WinHist :=
    { w with dies := addOnce die w.dies, quality := mergeQuality w.quality quality,
             hist := if e.missing then Hist.enterAbsent w.hist 1 else Hist.enter w.hist e.value }
  if l.any fun w => w.template == t && w.endFt == endFt then
    l.map fun w => if w.template == t && w.endFt == endFt then put w else w
  else l ++ [put { template := t, frame := frame, endFt := endFt, dies := [], quality := 0, hist := Hist.empty }]

/-- The latest sample of a series, as features see it (R206). -/
def seriesSample (f : FeatDesc) (x : Series) : Option Int :=
  if x.sstate = 0 ∨ x.lastMissing ∨ x.samples = 0 ∨ (x.sstate = 1 ∧ f.missingIfWarm) then none else some x.lastValue

/-- The value of a Plaza template for a die (R206, R220). -/
def templateValue (f : FeatDesc) (die : Nat) (s : State) : Option Int :=
  match s.conf.series.find? fun e => e.1 == f.src with
  | some e => (seriesSample f (tmplOf die e s)).map (clampS 32)
  | none => none

/-- Values of a vector that wait for a template are fixed, where `due` says so (R208). -/
def fixVec (due : FeatDesc → Bool) (s : State) (v : Vec) : Vec :=
  let f (l : List (Option Int)) (w : Nat × FeatDesc) : List (Option Int) := l.set w.1 (templateValue w.2 v.die s)
  { v with values := (v.waits.filter fun w => due w.2).foldl f v.values, waits := v.waits.filter fun w => !due w.2 }

/-- A template has taken a frame of a die: the vectors of that frame that waited for it have their value (R208). -/
def fixVectors (t die frame : Nat) (s : State) : State :=
  onTree (fun x => { x with vecs := x.vecs.map fun v =>
    if v.die = die ∧ v.frame ≤ frame then fixVec (fun f => f.src == t) s v else v }) s

/-- One frame of a die fed to one template. -/
def feedTemplate (die frame period : Nat) (quality : BitVec 8) (x : SeriesIn) (e : Nat × Series) (s : State) : State :=
  let f := feedSeries (engineUp 5 s) frame period x (tmplFor die period e s)
  let s := fixVectors e.1 die frame (onConf (fun c => { c with tmpl := tins (tmplKey die e.1) f.series c.tmpl }) s)
  let s := raiseCodes die f s
  when e.2.desc.cohort (fun s => forEach f.slots (fun y =>
    onConf (fun c => { c with wins := joinWin e.1 frame (frameEnds frame period) die quality y c.wins })) s) s

/-- A template takes a frame of a die once, and none before its definition. -/
def tmplDue (die frame period : Nat) (e : Nat × Series) (s : State) : Bool :=
  e.2.sstate != 0 && e.2.since ≤ frameOpens frame period && (match (tmplOf die e s).fed with
    | none => true
    | some (n, p) => frameOpens n p < frameOpens frame period)

/-- What a Plaza merges of a Leaf feeds its templates: `lateness` for a series record, the other kinds for a ledger record
(R170). -/
def feedTemplates (die frame period : Nat) (quality : BitVec 8) (lateness : Bool) (x : SeriesIn) (s : State) : State :=
  toEngine 3 4 (fun s =>
    forEach (s.conf.series.filter fun e => (e.2.desc.kind == 5) == lateness)
      (fun e s => when (tmplDue die frame period e s) (feedTemplate die frame period quality x e) s) s) s

/-- A template's window ends with a frame; a lateness template of one marker has a slot in any. -/
def endsWindow (frame : Nat) (x : Series) : Bool :=
  oneMarker x.desc || frame % 2 ^ x.w == 2 ^ x.w - 1

/-- At the Plaza's cut-off for a frame, Leaves that have not been heard lack it in every template, and the cohort histograms
of the frame close (R191, 0x0603). -/
def closeTemplates (frame period : Nat) (s : State) : State :=
  match findRole .plaza s with
  | none => s
  | some r =>
    let s := if !engineUp 4 s then s else
      forEach (censusOf (frameEnds frame period) r) (fun c s =>
        forEach (s.conf.series.filter fun e => !oneMarker e.2.desc)
          (fun e s => when (tmplDue c.source frame period e s && endsWindow frame (tmplFor c.source period e s))
            (feedTemplate c.source frame period 0 { lost := true } e) s) s) s
    let s := onTree (fun x => { x with vecs := x.vecs.map fun v => if v.frame ≤ frame then fixVec (fun _ => true) s v else v }) s
    let ends := frameEnds frame period
    let now := s.time.ft
    let span := 1000 * frameNs s
    let shut := s.conf.wins.filter fun w => w.endFt ≤ ends
    let rec_ (w : WinHist) : Nat × HistRecord :=
      (now, { timeQuality := w.quality, lateness := false, scope := 0, cls := 0, job := w.template, marker := 0, key := w.frame,
                source := plazaSource (trayOf s.die), frame := w.frame, hist := w.hist })
    onConf (fun c => { c with
      wins := c.wins.filter (fun w => !(w.endFt ≤ ends)),
      hists := (c.hists.filter fun h => now < h.1 + span) ++ shut.map rec_ }) s

end Sys2Proof.Machine
end

