-- ==== Sys2Proof/Machine/TierMerge.lean ====
section
/-!
DEFINITION. What a tier role does with its children's records: merging, adoption of Quarter replicas, cut-off, repair window,
settlement, and the acknowledgements of its own parents (R97 to R123, R132, R155 to R162).
-/

namespace Sys2Proof.Machine

/-! ## A child record (R97, R99, R117 to R120, R122, R123, R156) -/

/-- A record as it arrives goes to the Ledger log (R238, R241). -/
def keepRecord (rec : Record) (late mismatch : Bool) (k : RoleKind) (s : State) : State :=
  arcIngest 0 { mkEntry rec.source (ledgerSize rec) (.ledger rec) s with
    lateAfterFinal := late, mismatch := mismatch, hosted := k != .plaza } s

/-- A record whose data has been declared already, or whose frame is final: counted and kept (R97). -/
def lateRecord (k : RoleKind) (rec : Record) (s : State) : State :=
  keepRecord rec true false k (modRole k (fun r => { r with lateAfterFinal := r.lateAfterFinal + 1 }) s)

/-- The child's epoch has ended: what is pending under it in the frames that open before an ft is declared at once, and its
sequence starts again (R50, R119). -/
def endChildEpoch (k : RoleKind) (c : Child) (epoch opens : Nat) (s : State) : State :=
  match findRole k s with
  | none => s
  | some r =>
    let open_ := r.frames.filter fun t =>
      frameOpens t.frame t.period < opens && inCensus (frameEnds t.frame t.period) c && !isSettled c.source t
    let s := forEach open_ (fun t s =>
      contribute k t.frame t.period { losses := [childLoss 7 (plainSource c.source) t.frame] } [statusEntry c 5 0]
        (onFrame k t.frame t.period
          (fun t => { t with held := t.held.filter fun h => childKey h.record != c.source }) s)) s
    let s := when (k == .plaza) (fun s => onConf (fun x => { x with
      tmpl := x.tmpl.filter (fun e => e.1 / 1024 != c.source), childSeq := tdel c.source x.childSeq }) s) s
    onChild k c.source (fun c => { c with epoch := epoch, seqNext := 0, gaps := [], ackFrame := none, reqs := [] }) s

/-- A census transfer to a Leaf's home role, while that role is live, once a reply-table slot for its completion is reserved
(R156, R165). -/
def sendTransfer (die frame : Nat) (s : State) : State :=
  let home := plazaSource (trayOf die)
  match findRole .quarter s with
  | none => s
  | some r =>
    if r.transfers.any (fun x => x.1 == die && x.2 ≤ frame) || s.place.silent.contains home
        || !(r.children.any fun c => c.source == home) || Config.replyEntries ≤ replySlots s then s
    else
      let f (q : Role) : Role := { q with transfers := (q.transfers.filter fun x => x.1 != die) ++ [(die, frame)] }
      let (tag, s) := draw s
      let e : ReplyEntry :=
        { cls := 6, partition := 0, tag := tag, cmd := 0x0505, askers := [], issuer := none, ownDue := false, taken := true,
          own := none, waiting := [home], full := [], silent := [], answers := [], deadline := s.time.timer + relayWait s, done := false }
      let s := onStw (fun t => { t with replies := t.replies ++ [e] }) s
      sendControl (selfKey r) home 0x4D47 128 (.transfer home die frame) (modRole .quarter f s)

/-- What a Quarter replica takes from the child-status entries of a Plaza's record: the census, and transfers for the
foreign Leaves it covers (R114, R155, R156). -/
def takeCensus (rec : Record) (s : State) : State :=
  let dies := (rec.children.filter fun c => sourceKind c.child == 0).map (·.child)
  let s := onFrame .quarter rec.frame rec.period
    (fun t => { t with census := dies.foldl (fun l d => addOnce d l) t.census }) s
  let tray := sourceNum rec.source
  let home := dies.filter fun d => trayOf d == tray
  let back (q : Role) : Role := { q with transfers := q.transfers.filter fun x => !home.contains x.1 }
  let s := modRole .quarter back s
  forEach (rec.children.filter fun c =>
      sourceKind c.child == 0 && (c.state == 0 || c.state == 4) && trayOf c.child != tray)
    (fun c => sendTransfer c.child rec.frame) s

/-- Leaves that a Quarter's record covers or names as lost: what the Forum knows of the census of their trays (R114, R162). -/
def leavesIn (rec : Record) : List Nat :=
  (rec.cover.flatMap fun c => c.slots.map fun i => 256 * c.tray + i)
    ++ ((rec.losses.filter fun l => (l.lkind == 5 || l.lkind == 6 || l.lkind == 7) && sourceKind l.subject == 0).map (·.subject))

/-- The Leaves of a Quarter's record join the frame's census. -/
def takeLeaves (rec : Record) (s : State) : State :=
  onFrame .forum rec.frame rec.period
    (fun t => { t with census := (leavesIn rec).foldl (fun l d => addOnce d l) t.census }) s

/-- The bindings of a Leaf in the frames that a role keeps open, by number. -/
def bindsHeld (src : Nat) (r : Role) : List (Nat × List Bind) :=
  r.frames.filterMap fun t => if tget [] src t.binds = [] then none else some (t.frame, tget [] src t.binds)

/-- What a record comes to in sums: a Leaf's is folded here, a tier's is taken as it is (R111). -/
def foldRecord (rec : Record) (c : Child) (r : Role) : Folded :=
  if rec.tier = 0 then foldLeaf rec (bindsHeld c.source r) c.bindings else { sums := rec.sums, own := [], held := [] }

/-- The bindings of a Leaf's frames after a record: the losses it brought have been counted. -/
def putBinds (rec : Record) (src : Nat) (x : Folded) (r : Role) : Role :=
  let f (t : TierFrame) : TierFrame :=
    if isFrame rec.frame rec.period t then { t with binds := tput [] src x.own t.binds }
    else match x.held.find? fun h => h.1 == t.frame with
      | some h => if tget [] src t.binds = [] then t else { t with binds := tput [] src h.2 t.binds }
      | none => t
  if rec.tier = 0 then { r with frames := r.frames.map f } else r

/-- The gauge slots of a child's last merged frame, after a record: those of one frame's records add up, and an older frame's
change nothing (R118). -/
def keepGauges (rec : Record) (c : Child) : Child :=
  let slots := gaugeSlots rec
  if slots.isEmpty then c
  else if c.gaugesOf = (rec.frame, rec.period) then { c with gauges := slots.foldl (fun l e => addAgg e l) c.gauges }
  else if c.gauges.isEmpty ∨ frameOpens c.gaugesOf.1 c.gaugesOf.2 < frameOpens rec.frame rec.period then
    { c with gauges := slots, gaugesOf := (rec.frame, rec.period) }
  else c

/-- A record is merged as it is held, with the status of whole or of merged with void fragments (R117, R119). -/
def mergeHeld (k : RoleKind) (h : HeldRecord) (c : Child) (s : State) : State :=
  match findRole k s with
  | none => s
  | some r =>
    let rec_ := h.record
    let src := c.source
    let x := foldRecord rec_ c r
    let s := modRole k (putBinds rec_ src x) s
    let s := onFrame k rec_.frame rec_.period (fun t =>
      { t with held := t.held.filter (fun y => childKey y.record != src || y.record.seq != rec_.seq),
               voidSeqs := if h.missing.isEmpty then t.voidSeqs else t.voidSeqs ++ [(src, rec_.seq)],
               finals := if rec_.kind = 3 then addOnce src t.finals else t.finals }) s
    let st := statusEntry { c with generation := rec_.generation } (if h.missing.isEmpty then 0 else 4) h.missing.length
    let s := contribute k rec_.frame rec_.period (addedHeld h x.sums c.gauges) [st] s
    let upd (c : Child) : Child :=
      { keepGauges rec_ c with bindings := learnBinds rec_ c.bindings, generation := rec_.generation }
    let s := onChild k src upd s
    let s := takeRecordAlerts k rec_.alerts s
    let s := when (k == .quarter) (takeCensus rec_) s
    let s := when (k == .forum) (takeLeaves rec_) s
    if k = .plaza then s else ackRecord k src s

/-- Two records of a Quarter's replicas that say different things: equal coverage, of the same kind; an amendment that covers
nothing has none to be compared with (R123). -/
def recordsDiffer (a b : Record) : Bool :=
  a.source == b.source && isSame a b && a.kind == b.kind && a.replica != b.replica && a.cover == b.cover
    && (a.kind != 2 || !a.cover.isEmpty) && (a.sums != b.sums || a.aggs != b.aggs || a.losses != b.losses)
where
  isSame (a b : Record) : Bool := a.frame == b.frame && a.period == b.period

/-- A dispute between a Quarter's replicas: flagged on the frame, and reported at most once in a window (R123, R128). -/
def noteDispute (rec : Record) (s : State) : State :=
  match findRole .forum s with
  | none => s
  | some r =>
    let subject := roleKey 2 (sourceNum rec.source)
    let s := onFrame .forum rec.frame rec.period (fun t => { t with dispute := true }) s
    let w := windowAt s.time.ft s
    if s.led.issued.contains (Config.disputeCode, subject, w) then countOwn 0 1 s
    else
      let p : Report :=
        { isOpen := false, isClose := false, continued := false, code := Config.disputeCode, reporter := forumSource,
          subject := subject, ft := s.time.ft, epoch := s.epoch, count := 1, first8 := [s.die], tier := 3 + 4 * r.replica,
          detail := 0, window := w }
      roleAlert .forum (.report p)
        (bypQueue (.report p) (onLed (fun l => { l with issued := (Config.disputeCode, subject, w) :: l.issued }) s))

/-- The replica of a Quarter that the Forum has adopted for a frame. -/
def adoptedOf (q frame period : Nat) (r : Role) : Option Nat :=
  (r.adopted.find? fun a => a.1 == q && a.2.1 == frame && a.2.2.1 == period).map (·.2.2.2)

/-- The Forum adopts a replica of a Quarter for a frame. -/
def adopt (q frame period replica : Nat) (s : State) : State :=
  modRole .forum (fun r => { r with adopted := r.adopted ++ [(q, frame, period, replica)] }) s

/-- A whole record against the coverage already merged (R119): a duplicate is acknowledged and discarded, a partial overlap
is rejected with a split request.  A record without coverage is judged by its sequence number alone, so that one sent again is
not merged twice (DEDUCED, assumption 129). -/
def judgeCover (k : RoleKind) (h : HeldRecord) (again : Bool) (c : Child) (s : State) : State :=
  let rec_ := h.record
  match (findRole k s).bind (frameOf rec_.frame rec_.period) with
  | none => s
  | some t =>
    let cov := recordCover rec_
    let duplicate := fun s => ackRecord k c.source (modRole k (fun r => { r with duplicates := r.duplicates + 1 }) s)
    if coverSize cov = 0 then (if again then duplicate s else mergeHeld k h c s)
    else if coverInside cov t.cover then
      duplicate (if isSettled c.source t then s else onFrame k rec_.frame rec_.period (setStatus (statusEntry c 0 0)) s)
    else if coverMeets cov t.cover then
      sendAck k c.source (request k c.source { frame := rec_.frame, blkFirst := 0, blkLast := 0xFFFF, rqkind := 3 } s)
    else mergeHeld k h c s

/-- A record leaves those that wait in its frame. -/
def unhold (k : RoleKind) (rec_ : Record) (s : State) : State :=
  onFrame k rec_.frame rec_.period (fun t =>
    { t with held := t.held.filter fun y => childKey y.record != childKey rec_ || y.record.seq != rec_.seq }) s

/-- The Forum takes a whole Quarter record: kept until the cut-off; then the adopted replica's records alone are merged, and
the other's are compared against them (R122, R123).  Where no primary had come by the cut-off, the replica of the first whole
record to come is adopted (R122 gives no rule for that; DESIGN CHOICE, assumption 125). -/
def forumRecord (h : HeldRecord) (again : Bool) (c : Child) (s : State) : State :=
  let rec_ := h.record
  let q := sourceNum rec_.source
  match (findRole .forum s).bind (frameOf rec_.frame rec_.period), findRole .forum s with
  | some t, some r =>
    if t.seen.contains rec_ then
      ackRecord .forum c.source (modRole .forum (fun r => { r with duplicates := r.duplicates + 1 }) s)
    else
      let s := when (t.seen.any fun x => recordsDiffer x rec_) (noteDispute rec_) s
      let s := onFrame .forum rec_.frame rec_.period (fun t => { t with seen := t.seen ++ [rec_] }) (unhold .forum rec_ s)
      if !t.closed then onFrame .forum rec_.frame rec_.period (fun t => { t with held := t.held ++ [h] }) s
      else match adoptedOf q rec_.frame rec_.period r with
        | some x => if x = rec_.replica then judgeCover .forum h again c s else ackRecord .forum c.source s
        | none => judgeCover .forum h again c (adopt q rec_.frame rec_.period rec_.replica s)
  | _, _ => s

/-- A record of which blocks are missing: held, the child pending, the blocks requested (R119). -/
def holdRecord (k : RoleKind) (h : HeldRecord) (c : Child) (s : State) : State :=
  let src := c.source
  let r := h.record
  let s := onFrame k r.frame r.period (fun t =>
    let t' := { t with held := t.held ++ [h] }
    if isSettled src t' then t' else setStatus (statusEntry c 1 h.missing.length) t') (unhold k r s)
  sendAck k src (forEach (runsOf h.missing) (fun b =>
    request k src { frame := r.frame, blkFirst := b.1, blkLast := b.2, rqkind := 1 }) s)

/-- Something of a child waits in a frame. -/
def holdsFrom (src : Nat) (t : TierFrame) : Bool := t.held.any fun h => childKey h.record == src

/-- A gap of some numbers in `SEQ` (R119): the frames before this record of which nothing has come are requested.  Where they
are fewer than the numbers skipped, amendments are among what was lost, and a tier child is asked for the frames merged too
(DEDUCED, assumption 130). -/
def requestGap (k : RoleKind) (rec : Record) (lost : Nat) (c : Child) (s : State) : State :=
  match findRole k s with
  | none => s
  | some r =>
    let mine := r.frames.filter fun t => inCensus (frameEnds t.frame t.period) c
    let fresh := mine.filter fun t =>
      frameOpens t.frame t.period < frameOpens rec.frame rec.period && !isSettled c.source t && !holdsFrom c.source t
    let old := if rec.tier = 0 ∨ lost ≤ fresh.length then []
      else mine.filter fun t => frameOpens t.frame t.period ≤ frameOpens rec.frame rec.period && isMerged c.source t
    forEach (fresh ++ old)
      (fun t => request k c.source { frame := t.frame, blkFirst := 0, blkLast := 0xFFFF, rqkind := 2 }) s

/-- The period that a role has for an ft: that of the frame it keeps there, else the grid's. -/
def periodExpected (ft : Nat) (r : Role) (s : State) : Nat :=
  match frameHolding ft r with
  | some t => t.period
  | none => s.grid.period

/-- A period mismatch: the record is kept whole and declared lost to this tier's sums, in the tier's own frame that holds the
opening of the child's (R46, R119; for that frame DEDUCED, assumption 131). -/
def mismatchRecord (k : RoleKind) (rec : Record) (c : Child) (s : State) : State :=
  let at_ := frameOpens rec.frame rec.period
  let s := modRole k (fun r => { r with mismatches := r.mismatches + 1 }) (keepRecord rec false true k s)
  match findRole k s with
  | none => s
  | some r =>
    let p := periodExpected at_ r s
    let n := at_ / (p * 1000)
    let s := modRole k (fun r => { r with frames := addFrame (TierFrame.blank n p) r.frames }) s
    let merged := ((frameOf n p r).map (isMerged c.source)).getD false
    contribute k n p { losses := [childLoss 6 (plainSource c.source) rec.frame] } (if merged then [] else [statusEntry c 3 0]) s

/-- A skipped sequence number has come. -/
def dropGap (n : Nat) (l : List (Nat × Nat)) : List (Nat × Nat) :=
  l.flatMap fun g =>
    if g.1 ≤ n ∧ n ≤ g.2 then (if g.1 < n then [(g.1, n - 1)] else []) ++ (if n < g.2 then [(n + 1, g.2)] else []) else [g]

/-- A sequence number is among those skipped. -/
def inGaps (n : Nat) (l : List (Nat × Nat)) : Bool := l.any fun g => g.1 ≤ n && n ≤ g.2

/-- The child's sequence after a record: what it skips is a gap (R103, R119). -/
def noteSeq (seq : Nat) (c : Child) : Child :=
  if c.seqNext ≤ seq then
    { c with seqNext := seq + 1, gaps := if c.seqNext < seq then c.gaps ++ [(c.seqNext, seq - 1)] else c.gaps }
  else { c with gaps := dropGap seq c.gaps }

/-- What has been declared of a child's record in its frame: the whole frame, this record in part, or what comes after the
child's final (R97, R118). -/
def declaredOf (rec : Record) (src : Nat) (t : TierFrame) : Bool :=
  isDeclared src t || t.voidSeqs.contains (src, rec.seq)
    || (t.finals.contains src && !(coverSize (recordCover rec) != 0 && coverInside (recordCover rec) t.cover))

/-- A record of a child in its present epoch (R119). -/
def takeRecord (k : RoleKind) (h : HeldRecord) (r : Role) (c : Child) (s : State) : State :=
  let rec_ := h.record
  let opens := frameOpens rec_.frame rec_.period
  let frame := frameOf rec_.frame rec_.period r
  let waits := (frame.map fun t => t.held.any fun y => childKey y.record == c.source && y.record.seq == rec_.seq).getD false
  let again := rec_.seq < c.seqNext && !inGaps rec_.seq c.gaps && !waits
  let s := onChild k c.source (noteSeq rec_.seq) s
  let s := when (c.seqNext < rec_.seq) (requestGap k rec_ (rec_.seq - c.seqNext) c) s
  if opens < r.finalTo then lateRecord k rec_ s
  else if frame.isNone ∧ rec_.period ≠ periodExpected opens r s then mismatchRecord k rec_ c s
  else if (frame.map (declaredOf rec_ c.source)).getD false && !again then lateRecord k rec_ s
  else
    let s := keepRecord rec_ false false k s
    let s := modRole k (fun r => { r with frames := addFrame (TierFrame.blank rec_.frame rec_.period) r.frames }) s
    if h.missing ≠ [] then holdRecord k h c s
    else if k = .forum then forumRecord h again c s
    else judgeCover k h again c (unhold k rec_ s)

/-- A Quarter or Forum role takes up a child on its first record; a Plaza's children are the Leaves it has adopted. -/
def ensureChild (k : RoleKind) (rec : Record) (s : State) : State :=
  match findRole k s with
  | none => s
  | some r =>
    if k = .plaza ∨ (childOf (childKey rec) r).isSome then s
    else
      let c := { newChild (childKey rec) rec.epoch rec.generation (frameOpens rec.frame rec.period) 0 none with seqNext := rec.seq }
      modRole k (fun r => { r with children := r.children ++ [c] }) s

/-- A generation of the placement table has been seen (R137). -/
def seeGeneration (g : Nat) (s : State) : State := onPlace (fun p => { p with generation := max p.generation g }) s

/-- A record reaches a role (R119): one of another epoch ends the epoch held. -/
def receiveRecord (k : RoleKind) (h : HeldRecord) (s : State) : State :=
  let rec_ := h.record
  let s := ensureChild k rec_ (seeGeneration rec_.generation s)
  match findRole k s with
  | none => s
  | some r =>
    match childOf (childKey rec_) r with
    | none => s
    | some c =>
      if frameOpens rec_.frame rec_.period < r.liveFt then s
      else if c.epoch ≠ rec_.epoch then
        let s := endChildEpoch k c rec_.epoch (frameOpens rec_.frame rec_.period) s
        match findRole k s, (findRole k s).bind (childOf (childKey rec_)) with
        | some r, some c => takeRecord k h r c s
        | _, _ => s
      else takeRecord k h r c s

/-! ## Cut-off, repair window and horizon (R115 to R119, R157) -/

/-- Times after the end of a frame, ns: cut-off and settle horizon. -/
def cutoffNs : RoleKind → Nat
  | .plaza => 110000
  | .quarter => 600000
  | .forum => 1300000
def horizonNs : RoleKind → Nat
  | .plaza => 150000000
  | .quarter => 200000000
  | .forum => 250000000

/-- The better of two primaries: more Leaves covered, replica 0's on a tie (R122). -/
def betterPrimary (a b : Record) : Record :=
  if coverSize a.cover < coverSize b.cover then b
  else if coverSize a.cover = coverSize b.cover ∧ b.replica < a.replica then b else a

/-- The whole Quarter records that wait in a Forum frame. -/
def wholeHeld (frame period : Nat) (s : State) : List HeldRecord :=
  (((findRole .forum s).bind (frameOf frame period)).map fun t => t.held.filter fun h => h.missing.isEmpty).getD []

/-- The Forum adopts one replica of each Quarter of which a primary is here, and merges its records; the other's wait no longer
(R122). -/
def adoptQuarters (frame period : Nat) (s : State) : State :=
  let hs := wholeHeld frame period s
  let primaries := (hs.map (·.record)).filter fun r => r.kind == 1
  let qs := primaries.foldl (fun l r => addOnce (sourceNum r.source) l) []
  forEach qs (fun q s =>
    match primaries.filter fun r => sourceNum r.source == q with
    | [] => s
    | a :: t =>
      let best := t.foldl betterPrimary a
      let s := adopt q frame period best.replica s
      forEach (hs.filter fun h => sourceNum h.record.source == q) (fun h s =>
        let s := unhold .forum h.record s
        match (findRole .forum s).bind (childOf (childKey h.record)) with
        | none => s
        | some c => if h.record.replica = best.replica then judgeCover .forum h false c s else ackRecord .forum c.source s) s) s

/-- Children of the census that have not delivered a complete record are pending (R116); at the Forum a Quarter is one child,
whichever of its replicas delivers (R122). -/
def pendingAt (t : TierFrame) (r : Role) : List Child :=
  (censusOf (frameEnds t.frame t.period) r).filter fun c => !isSettled c.source t

/-- The status of a child still pending at the cut-off, with the fragments that its held record lacks. -/
def pendingStatus (t : TierFrame) (c : Child) : ChildStatus :=
  statusEntry c 1 (((t.held.find? fun h => childKey h.record == c.source).map fun h => h.missing.length).getD 0)

/-- The primary record is closed: pending children are flagged and requested (R115, R116, R119). -/
def closePrimary (k : RoleKind) (frame period : Nat) (s : State) : State :=
  let s := when (k == .forum) (adoptQuarters frame period) s
  match findRole k s with
  | none => s
  | some r =>
    match frameOf frame period r with
    | none => s
    | some t =>
      let (alerts, s) := takeAlerts k s
      let (own, s) := takeOwn k s
      let late := pendingAt t r
      let t' := late.foldl (fun t c => setStatus (pendingStatus t c) t) t
      let t' := { t' with sums := own.foldl (fun l e => addSum e l) t'.sums, closed := true }
      let anyPending := t'.children.any fun x => x.state == 1
      let rec_ := roleRecord r 1 t' alerts s
      let rec_ := { rec_ with
        flags := rec_.flags ||| (if anyPending then 0x1#16 else 0), children := t'.children, cover := t'.cover, sums := t'.sums,
        aggs := t'.aggs, losses := t'.losses }
      let s := onFrame k frame period (fun _ => t') s
      let s := forEach (late.filter fun c => !holdsFrom c.source t)
        (fun c => request k c.source { frame := frame, blkFirst := 0, blkLast := 0xFFFF, rqkind := 2 }) s
      let s := sendRoleRecord k rec_ false s
      forEach late (fun c => sendAck k c.source) s

/-- A held record at the end of the repair window: merged with its gaps declared when its header block is here and nothing of it
is merged; a child without it stays pending (R119). -/
def repairRecord (k : RoleKind) (h : HeldRecord) (s : State) : State :=
  let s := unhold k h.record s
  match (findRole k s).bind (childOf (childKey h.record)), (findRole k s).bind (frameOf h.record.frame h.record.period) with
  | some c, some t =>
    if h.missing.contains 0 then onChild k c.source (fun c => { c with gaps := c.gaps ++ [(h.record.seq, h.record.seq)] }) s
    else if isDeclared c.source t ∨ coverMeets (recordCover h.record) t.cover then s
    else mergeHeld k h c s
  | _, _ => s

/-- A held record at the end of the repair window; the Forum merges those of adopted replicas alone, and adopts the first to be
merged where none is adopted (R122, assumption 125). -/
def repairHeld (k : RoleKind) (h : HeldRecord) (s : State) : State :=
  let rec_ := h.record
  let q := sourceNum rec_.source
  if k ≠ .forum then repairRecord k h s
  else match (findRole .forum s).bind (adoptedOf q rec_.frame rec_.period) with
    | some x => if x = rec_.replica then repairRecord k h s else unhold k rec_ s
    | none => repairRecord k h (when (!h.missing.contains 0) (adopt q rec_.frame rec_.period rec_.replica) s)

/-- The repair window of a frame ends (R119). -/
def endRepair (k : RoleKind) (frame period : Nat) (s : State) : State :=
  match findRole k s with
  | none => s
  | some r =>
    match frameOf frame period r with
    | none => s
    | some t =>
      forEach (t.held.filter fun h => !h.missing.isEmpty) (repairHeld k) s

/-- Leaves of a tray that a frame names in its census, else those of the tray's last closed frame (R114). -/
def trayCensus (t : TierFrame) (r : Role) (tray : Nat) : List Nat :=
  let now := t.census.filter fun d => trayOf d == tray
  if now.isEmpty then tget [] tray r.census else now

/-- Trays of which a role knows a census. -/
def traysKnown (t : TierFrame) (r : Role) : List Nat :=
  ((t.census.map trayOf) ++ (r.census.map (·.1))).foldl (fun l x => addOnce x l) []

/-- Some entry declares the Leaf void already. -/
def isNamed (die : Nat) (t : TierFrame) : Bool :=
  t.losses.any fun l => l.subject == die && (l.lkind == 5 || l.lkind == 6 || l.lkind == 7)

/-- Leaves that a role declares beside its children at its horizon: at a Quarter those of trays without a live home role (R157), at
the Forum those of Quarters of which nothing has come (R99, R162); each only while nothing covers or names it. -/
def homelessLeaves (t : TierFrame) (r : Role) (s : State) : List Nat :=
  let live (tray : Nat) : Bool :=
    r.children.any (fun c => c.source == plazaSource tray) && !s.place.silent.contains (plazaSource tray)
  let lost (tray : Nat) : Bool := match r.kind with
    | .plaza => false
    | .quarter => !live tray
    | .forum => !isMerged (quarterSource (quarterOf tray)) t
  (((traysKnown t r).filter lost).flatMap (trayCensus t r)).filter fun d =>
    !covers t.cover (trayOf d) (slotOf d) && !isNamed d t

/-- Census of each tray as the frame closes it. -/
def closeCensus (t : TierFrame) (old : Tab (List Nat)) : Tab (List Nat) :=
  let trays := (t.census.map trayOf).foldl (fun l x => addOnce x l) []
  trays.foldl (fun tab x => tput [] x (t.census.filter fun d => trayOf d == x) tab) old

/-- One child for each `SOURCE`: the replicas of a Quarter are one child of the Forum (R108, R122). -/
def onePerSource (l : List Child) : List Child :=
  l.foldl (fun acc c => if acc.any fun x => plainSource x.source == plainSource c.source then acc else acc ++ [c]) []

/-- A frame settles: what is pending is declared void-absent, and the final record leaves with the declarations alone
(R118, R157, R162). -/
def settleFrame (k : RoleKind) (frame period : Nat) (s : State) : State :=
  match findRole k s with
  | none => s
  | some r =>
    match frameOf frame period r with
    | none => s
    | some t =>
      let (alerts, s) := takeAlerts k s
      let late := onePerSource (pendingAt t r)
      let named := late.filter fun c => !(k == .quarter && s.place.silent.contains c.source)
      let homeless := homelessLeaves t r s
      let losses := (named.map (fun c => childLoss 5 (plainSource c.source) frame)
        ++ homeless.map fun d => childLoss 5 d frame).foldl (fun l e => addLoss e l) []
      let aggs := (late.flatMap (·.gauges)).foldl (fun l e => if e.missing = 0 then l else addAgg e l) []
      let st := late.map fun c => statusEntry c 2 0
      let rec_ := { roleRecord r 3 t alerts s with children := st, losses := losses, aggs := aggs }
      let s := sendRoleRecord k rec_ false s
      let f (q : Role) : Role :=
        { q with
          frames := q.frames.filter (fun x => !isFrame frame period x),
          finalTo := max q.finalTo (frameEnds frame period), lastFinal := some frame, census := closeCensus t q.census,
          adopted := q.adopted.filter fun a => !(a.2.1 == frame && a.2.2.1 == period) }
      updateAcks k (modRole k f s)

/-! ## A parent's acknowledgement of a role's records (R99, R119, R333) -/

/-- The Leaf contributions of which a role's record was made, as single-Leaf amendments (R119). -/
def leafParts (k : RoleKind) (frame : Nat) (s : State) : List Record :=
  match findRole k s with
  | none => []
  | some r =>
    (s.arc.segments.flatMap (·.entries)).filterMap fun e =>
      match e.data with
      | .ledger l =>
        if l.frame = frame ∧ l.tier = 0 ∧ e.produced = false ∧ e.lateAfterFinal = false ∧ e.mismatch = false then
          let c := newChild l.source l.epoch l.generation (frameOpens frame l.period) 0 none
          let a := addedOf l (foldLeaf l [] []).sums []
          some { roleRecord r 2 (TierFrame.blank frame l.period) [] s with
            timeQuality := l.timeQuality, children := [statusEntry c 0 0], cover := a.cover, sums := a.sums, aggs := a.aggs,
            losses := a.losses }
        else none
      | _ => none

/-- A request of a parent replica is answered with `RESEND` (R119, R333).  A split goes to every parent replica, as every record
of the role does, so that none sees a gap in `SEQ` (R103, R121). -/
def answerRole (k : RoleKind) (parent : Nat) (q : AckReq) (s : State) : State :=
  match findRole k s with
  | none => s
  | some r =>
    let recs := (r.sent.map (·.record)).filter fun x => x.frame == q.frame
    if q.rqkind = 3 then forEach (leafParts k q.frame s) (fun p => sendRoleRecord k p true) s
    else if q.rqkind = 1 then forEach recs (fun x => resendBlocks x parent q.blkFirst q.blkLast) s
    else forEach recs (fun x => enqueueLedger x parent true) s

/-- Packets of a record wait for a destination, so that it cannot have been acknowledged there. -/
def stillQueued (x : Record) (dst : Nat) (s : State) : Bool :=
  (queueOf 1 s).any fun q => q.packet.rseq == x.seq && srcKey q.packet == recordKey x && dstKey q.packet == dst

/-- The records of a role that an acknowledgement up to a frame number can mean: those of the frames up to it, or of frames that
are final and numbered so, that have left for the parent (R99, R333; for an amendment in flight DEDUCED, assumption 132). -/
def ackedNow (r : Role) (n : Nat) (sender : Nat) (s : State) (x : SentRecord) : Bool :=
  let past := throughFrame n r.frames
  let open_ := r.frames.any (isFrame x.record.frame x.record.period)
  (if open_ then past.any (isFrame x.record.frame x.record.period) else !past.isEmpty || x.record.frame ≤ n)
    && !stillQueued x.record sender s

/-- A record is acknowledged by every parent replica that is live for its frame. -/
def fullyAcked (r : Role) (x : SentRecord) (s : State) : Bool :=
  (parentsFor (frameOpens x.record.frame x.record.period) r s).all x.ackedBy.contains

/-- A role takes an acknowledgement of a parent replica: the records up to `ACK_FRAME` count as acknowledged there, and the
coverage they bring; those that every live parent has acknowledged are no longer owned, and the Leaves of a Plaza are
acknowledged in turn (R99). -/
def roleAck (k : RoleKind) (a : Ack) (sender : Nat) (s : State) : State :=
  match findRole k s with
  | none => s
  | some r =>
    let sender := parentName sender s
    if a.child ≠ roleSource r ∨ a.epoch ≠ s.epoch ∨ !(parentsOf r s).contains sender then s
    else
      let now (x : SentRecord) : Bool := a.ackFrame.any fun n => ackedNow r n sender s x
      let sent := r.sent.map fun x => if now x then { x with ackedBy := addOnce sender x.ackedBy } else x
      let mine (t : TierFrame) : List SentRecord := r.sent.filter fun x => now x && isFrame x.record.frame x.record.period t
      let put (tab : Tab (List CoverEntry)) (x : SentRecord) : Tab (List CoverEntry) :=
        tput [] sender (x.record.cover.foldl (fun l c => addCover c l) (tget [] sender tab)) tab
      let f (t : TierFrame) : TierFrame := { t with acked := (mine t).foldl put t.acked }
      let upd (q : Role) : Role := { q with frames := q.frames.map f, sent := sent.filter fun x => !fullyAcked q x s }
      let s := modRole k upd s
      let s := forEach a.reqs (answerRole k sender) s
      when (k == .plaza) (updateAcks k) s

/-! ## Roles that come and go (R137, R159, R160) -/

/-- A hosted replica as the table first places it here: live from the next frame that opens (R137, R159). -/
def newRole (k : RoleKind) (number replica gen live : Nat) : Role :=
  { kind := k, number := number, replica := replica, generation := gen, liveFt := live, finalTo := 0, lastFinal := none,
    sent := [], transfers := [], census := [], children := [], frames := [], seq := 0, merge := [], storms := [],
    sharedCodes := [], counted := [], alerts := [], closedTo := 0, duplicates := 0, lateAfterFinal := 0,
    mismatches := 0, stormsInEpoch := 0, adopted := [] }

/-- A role is here as the table says: taken up, kept or given up. -/
def setRole (k : RoleKind) (want : Bool) (number replica gen : Nat) (s : State) : State :=
  match findRole k s with
  | none =>
    when want (fun s => { s with roles := s.roles ++ [newRole k number replica gen (nextOpenFt s)] }) s
  | some r =>
    if want && r.number == number && r.replica == replica then s
    else
      let s := { s with roles := s.roles.filter fun x => x.kind != k }
      when want (fun s => { s with roles := s.roles ++ [newRole k number replica gen (nextOpenFt s)] }) s

/-- Quarter replicas that are heard, with what each says it hears of the Forum. -/
def quarterBeacons (s : State) : Tab (BitVec 3) := s.place.heardBy.filter fun e => !s.place.silent.contains e.1

/-- The chip is named as a Forum successor: its replica number (R160). -/
def successorOf (s : State) : Option Nat :=
  s.place.part.bind fun p => p.succs.findIdx? (· == trayOf s.die)

/-- A successor that hears replicas of more than half the live Quarters takes up its Forum replica; how many Quarters are
live is not in its part of the table, so that the number is a free value (R160, assumption 75). -/
def takeSuccession (s : State) : State :=
  match successorOf s, findRole .forum s with
  | some k, none =>
    let (live, s) := draw s
    let heard := (quarterBeacons s).foldl (fun l e => addOnce (e.1 % 256) l) ([] : List Nat)
    when (live < 2 * heard.length) (setRole .forum true 0 k s.place.generation) s
  | _, _ => s

/-- A record of a Quarter replica reaches a chip that hosts no Forum replica: it counts towards a succession (R160). -/
def hearQuarter (key : Nat) (s : State) : State :=
  takeSuccession (onPlace (fun p => { p with heardBy := if p.heardBy.any (fun e => e.1 == key) then p.heardBy else tins key 0 p.heardBy }) s)

end Sys2Proof.Machine
end

