-- ==== Sys2Proof/Machine/LedgerCmd.lean ====
section
/-!
DEFINITION. Commands of group 0x04 and the events of ledger records, acknowledgements and alerts (R96 to R132, R333).
-/

namespace Sys2Proof.Machine

/-! ## Commands -/

/-- The least of a list of frames; all ones for none. -/
def firstFrame (l : List Nat) : Nat := listMin 0xFFFFFFFFFFFFFFFF l

/-- `LEDGER_STATUS` of a Leaf. -/
def leafLedgerStatus (s : State) : List Fld :=
  [f64 0 (s.led.ackFrame.getD 0xFFFFFFFFFFFFFFFF), f64 8 (firstFrame (s.led.retained.map (·.frame))),
   f32 0x10 (ceilDiv (s.led.retained.foldl (fun n r => n + ledgerSize r) 0) 1024), f32 0x14 s.led.unretained, f32 0x18 0,
   f32 0x1C 0, f32 0x20 0, f32 0x24 0, f32 0x28 0, f32 0x2C 0]

/-- `LEDGER_STATUS` of a Plaza chip: its Plaza role's frames, and the counts of every role it hosts. -/
def tierLedgerStatus (s : State) : List Fld :=
  let sum (f : Role → Nat) : Nat := s.roles.foldl (fun n r => n + f r) 0
  let sent := (s.roles.flatMap (·.sent)).map (·.record)
  let closed : Nat := match findRole .plaza s with
    | none => 0xFFFFFFFFFFFFFFFF
    | some r =>
      match r.frames.reverse.find? (fun t => t.closed) with
      | some t => t.frame
      | none => r.lastFinal.getD 0xFFFFFFFFFFFFFFFF
  let pending (r : Role) : Nat :=
    (r.frames.flatMap fun t => t.children.filter fun c => c.state == 1).foldl (fun l c => addOnce c.child l) ([] : List Nat)
      |>.length
  [f64 0 closed, f64 8 (firstFrame (sent.map (·.frame))), f32 0x10 (ceilDiv (sent.foldl (fun n r => n + ledgerSize r) 0) 1024),
   f32 0x14 0, f32 0x18 (sum (·.duplicates)), f32 0x1C (sum (·.lateAfterFinal)), f32 0x20 (sum (·.mismatches)),
   f32 0x24 (sum pending), f32 0x28 (sum (·.merge.length)), f32 0x2C (sum (·.stormsInEpoch))]

/-- `LEDGER_STATUS` (0x0401). -/
def execLedgerStatus (r : Req) (s : State) : Host.Outcome State Fault Refusal :=
  run (serve { code := 0x0401, allow := { s := true } } r true
    (engineServed 3 fun s => done (if s.fuse.plaza then tierLedgerStatus s else leafLedgerStatus s) s)) s

/-- `LEDGER_RETAIN_SET` (0x0402). -/
def execLedgerRetainSet (r : Req) (regionKib : Nat) (desc : Desc) (s : State) : Host.Outcome State Fault Refusal :=
  run (serve { code := 0x0402, allow := {}, only := .leaf } r (512 ≤ regionKib && regionKib ≤ 4096)
    (engineServed 3 fun s =>
      if !descOk (issuerPart r.issuer) desc s then deny Config.bufferFault s
      else if 1024 * regionKib < regionUse s then deny Config.busy s
      else
        match retainSplit regionKib s with
        | none => deny Config.noSpace s
        | some (nodes, staging) =>
          let s := match chainFind 2 0 s with
            | some (n, _) => chainWithdraw n s
            | none => s
          let s := (chainOpen 2 0 desc.partition desc s).2
          done [] (setRetention regionKib nodes staging s))) s

/-- The records of a frame and kind that the block holds: a Leaf's retained ones, a chip's own in the Square and the
Arcade. -/
def recordsHeld (frame kind : Nat) (s : State) : List Record :=
  if s.fuse.plaza then
    let arc := ((s.arc.segments.filter fun g => !g.lost).flatMap (·.entries)).filterMap fun e =>
      match e.data with
      | .ledger l => if e.produced then some l else none
      | _ => none
    ((arc ++ (s.roles.flatMap (·.sent)).map (·.record)).filter fun r => r.frame == frame && r.kind == kind).foldl (fun l r => addOnce r l) []
  else s.led.retained.filter fun r => r.frame == frame && r.kind == kind

/-- `LEDGER_READ` (0x0403). -/
def execLedgerRead (r : Req) (desc : Desc) (frame kind : Nat) (s : State) : Host.Outcome State Fault Refusal :=
  run (serve { code := 0x0403, allow := { s := true } } r (1 ≤ kind && kind ≤ 3)
    (engineServed 3 fun s =>
      let rs := recordsHeld frame kind s
      if rs.isEmpty then deny Config.notFound s
      else outputReply r desc (rs.foldl (fun n x => n + ledgerSize x) 0) (.records rs) s)) s

/-- `LEDGER_SINK_SET` (0x0404): a new chain takes the place of the old one. -/
def execLedgerSinkSet (r : Req) (desc : Desc) (select : BitVec 8) (s : State) : Host.Outcome State Fault Refusal :=
  run (serve { code := 0x0404, allow := {}, only := .plaza } r (select.toNat < 8)
    (engineServed 3 fun s =>
      if (findRole .forum s).isNone then deny Config.wrongState s
      else if !descOk (issuerPart r.issuer) desc s then deny Config.bufferFault s
      else
        let s := match chainFind 3 0 s with
          | some (n, _) => chainWithdraw n s
          | none => s
        done [] (onLed (fun l => { l with sink := select }) (chainOpen 3 0 desc.partition desc s).2))) s

/-! ## Events -/

/-- The Ledger merger of a Plaza chip works. -/
def mergerUp (s : State) : Bool := s.fuse.plaza && engineUp 3 s

/-- What a packet brings to the Ledger merger of a Plaza chip (R22). -/
def atMerger (f : State → State) (s : State) : State := when s.fuse.plaza (toEngine 13 3 f) s

/-- The record's child has been merged into its frame. -/
def mergedOf (role : RoleKind) (rec_ : Record) (s : State) : Bool :=
  match (findRole role s).bind (frameOf rec_.frame rec_.period) with
  | none => false
  | some t => isMerged (childKey rec_) t

/-- `LEDGER_RECORD_RECEIVE`: a parent takes a child's record, with the blocks it lacks and the entries in them (R119). -/
def execLedgerRecordReceive (role : RoleKind) (rec_ : Record) (missing : List Nat) (lostCounters : List CounterEntry)
    (lostGauges : List GaugeEntry) (s : State) : Host.Outcome State Fault Refusal :=
  run (atMerger fun s =>
    let s := when (role == .forum && (findRole .forum s).isNone) (hearQuarter (childKey rec_)) s
    let before := mergedOf role rec_ s
    let s := receiveRecord role { record := rec_, missing := missing, lostCounters := lostCounters, lostGauges := lostGauges } s
    when (role == .plaza && !before && mergedOf role rec_ s)
      (feedTemplates rec_.source rec_.frame rec_.period rec_.timeQuality false { es := rec_.counters, gs := rec_.gauges }) s) s

/-- The end of a frame that a role keeps open, in ft. -/
def endOf (role : RoleKind) (frame period : Nat) (s : State) : Option Nat :=
  (findRole role s).bind fun r => (frameOf frame period r).map fun t => frameEnds t.frame t.period

/-- `REPAIR_WINDOW_END`: 10 ms after the end of a frame (R115, R119). -/
def execRepairWindowEnd (role : RoleKind) (frame period : Nat) (s : State) : Host.Outcome State Fault Refusal :=
  run (fun s =>
    match endOf role frame period s with
    | none => s
    | some e => when (mergerUp s && timeValid s) (fun s => endRepair role frame period (untilFt (e + 10000000) s)) s) s

/-- `SETTLE_HORIZON`: 150, 200 or 250 ms after the end of a frame (R115, R118). -/
def execSettleHorizon (role : RoleKind) (frame period : Nat) (s : State) : Host.Outcome State Fault Refusal :=
  run (fun s =>
    match endOf role frame period s with
    | none => s
    | some e =>
      when (mergerUp s && timeValid s) (fun s => settleFrame role frame period (untilFt (e + horizonNs role) s)) s) s

/-- `LEDGER_ACK`: a child takes an acknowledgement of a parent replica (R98, R99, R333). -/
def execLedgerAck (a : Ack) (sender : Nat) (s : State) : Host.Outcome State Fault Refusal :=
  run (fun s =>
    when a.bodyOk (toEngine 13 3 fun s =>
      if s.fuse.plaza then forEach [.plaza, .quarter] (fun k => roleAck k a sender) s else leafAck a sender s) s) s

/-- `FAULT_REPORT_RECEIVE`: a tier merges a report, which the chip keeps (R129, R130, R131, R238). -/
def execFaultReportReceive (role : RoleKind) (rep : Report) (s : State) : Host.Outcome State Fault Refusal :=
  run (atMerger (fun s =>
    takeReport role rep (arcIngest 4 (mkEntry rep.reporter 64 (.report rep) s) s))) s

/-- `STORM_ENTRY_RECEIVE`: a tier adds a storm entry to its summary, which the chip keeps (R131, R238). -/
def execStormEntryReceive (role : RoleKind) (e : StormEntry) (s : State) : Host.Outcome State Fault Refusal :=
  run (atMerger (fun s =>
    takeStorm role e (arcIngest 4 (mkEntry e.source 64 (.storm e) s) s))) s

end Sys2Proof.Machine
end

