-- ==== Sys2Proof/Machine/PlaceOps.lean ====
section
/-!
DEFINITION. The adoption handshake, orphans, liveness and releases (R145 to R161).
-/

namespace Sys2Proof.Machine

/-! ## The Leaf's list (R145, R148) -/

/-- The Leaf's alternate list: its table part's, or its home chip alone before any table (DEDUCED, assumption 20). -/
def altList (s : State) : List Nat :=
  match s.place.part with
  | none => [plazaSource (trayOf s.die)]
  | some p =>
    match p.alts.find? fun a => a.1 == s.die with
    | some a => a.2
    | none => [plazaSource (trayOf s.die)]

/-- The chip at position 1, to which a Leaf without a parent sends its reports (R150, R336). -/
def positionOne (s : State) : Option Nat := ((altList s)[1]?).filter (· != 0xFFFFFFFF)

/-- An adoption message as the block makes it, between a child and a parent named as in `replicaKey`: `DIE` and `PARENT` hold their
`SOURCE`, and `HOME` the home tray where the child is a Leaf (R147). -/
def ownMsg (pos child parent : Nat) (s : State) : AdoptMsg :=
  { pos := pos, die := plainSource child, parent := plainSource parent, epoch := s.epoch, generation := (s.place.part.map (·.generation)).getD 0,
    home := if sourceKind child = 0 then trayOf child else 0, frameA := none, frameB := 0, period := s.grid.period, periodNext := (s.grid.pending.map (·.1)).getD 0,
    retained := 0, nextChip := 0xFFFFFFFF, rep := 0, heard := 0, crcOk := true }

/-- An adoption message joins its queue; a chip keeps what it sends (R238). -/
def sendMsgAdopt (dst msg : Nat) (m : AdoptMsg) (s : State) : State :=
  arcIngest 4 { mkEntry (selfSource s) 64 (.adopt m) s with produced := true } (sendAdopt dst msg m s)

/-- `FRAME_A` and `FRAME_B` of a request: the highest frame acknowledged and the first retained. -/
def requestMsg (pos chip : Nat) (s : State) : AdoptMsg :=
  { ownMsg pos s.die chip s with
    frameA := s.led.ackFrame, frameB := (s.led.retained.head?.map (·.frame)).getD 0,
    retained := ceilDiv (s.led.retained.foldl (fun n r => n + ledgerSize r) 0) 1024 }

/-- A try begins: the request waits for the next gate (R148). -/
def startTry (pos chip : Nat) (s : State) : State :=
  sendMsgAdopt chip 1 (requestMsg pos chip s)
    (onPlace (fun p => { p with phase := .requesting, position := pos, candidate := some chip, parent := none })
      (onUpl (fun u => { u with adoption := [] }) s))

/-- Every entry has failed: the Leaf is an orphan, and says so on the sideband (R150, R151). -/
def enterOrphan (s : State) : State :=
  raiseSbi 0x0501 (dieKey s.die) 0 s.time.ft
    (onPlace (fun p => { p with phase := .orphan, parent := none, candidate := none, retryAt := s.time.timer + 1000000000 })
      (onUpl (fun u => { u with adoption := [] }) s))

/-- The first chip of the list from a position on, with its position; an unused position names none (R138). -/
def entryFrom (pos : Nat) (s : State) : Option (Nat × Nat) :=
  ((altList s).zipIdx.drop pos).find? fun e => e.1 != 0xFFFFFFFF

/-- A try at a position of the list; past its end the Leaf is an orphan. -/
def tryAt (pos : Nat) (s : State) : State :=
  match entryFrom pos s with
  | none => enterOrphan s
  | some (chip, at_) => startTry at_ chip s

/-- The try has failed: the next entry (R148). -/
def nextTry (s : State) : State := tryAt (s.place.position + 1) s

/-- The Leaf is in a handshake. -/
def trying (s : State) : Bool := s.place.phase == .requesting || s.place.phase == .confirming

/-- A message comes from the chip that the handshake addresses, for this Leaf. -/
def fromCandidate (m : AdoptMsg) (s : State) : Bool :=
  m.crcOk && m.die == s.die && s.place.candidate == some m.parent && trying s

/-- A message that fails its check is discarded and counted (R147). -/
def badMsg (s : State) : State := onUpl (fun u => { u with discards := u.discards + 1 }) s

/-- A peer has been heard (R153). -/
def heardFrom (peer0 : Nat) (s : State) : State :=
  let peer := parentName peer0 s
  onPlace (fun p => { p with heardAt := tput 0 peer (s.time.live + 1) p.heardAt, silent := p.silent.filter (· != peer) }) s

/-- The least common multiple of two periods, ns. -/
def commonNs (a b : Nat) : Nat := Nat.lcm a b * 1000

/-- The child takes up its parent's period and pending change (R47): at once while no frame is open, else by a change of its
own at the next boundary of both grids, which the parent's pending change follows where its E lies later (DESIGN CHOICE, assumption
21). -/
def takeGrid (m : AdoptMsg) (s : State) : State :=
  let change := if m.periodNext = 0 then none else some (m.periodNext, m.frameB)
  if m.period = s.grid.period ∨ m.period = 0 then
    when change.isSome (onGrid fun g => { g with pending := change, next := none }) s
  else if s.grid.frame.isNone then onGrid (fun g => { g with period := m.period, pending := change, next := none }) s
  else
    let l := commonNs m.period s.grid.period
    let e := (s.time.ft / l + 1) * l
    if m.periodNext ≠ 0 ∧ m.frameB ≤ e then onGrid (fun g => { g with pending := change, next := none }) s
    else onGrid (fun g => { g with pending := some (m.period, e), next := change }) s

/-- The Leaf is adopted: queued packets go to the new parent, the carry record closes and every retained record is sent
again (R98, R149, R152, R352). -/
def becomeAdopted (parent : Nat) (s : State) : State :=
  let s := onPlace (fun p => { p with phase := .adopted, parent := some parent, candidate := none }) s
  resendRetained (closeCarry (readdress parent s))

/-- The Leaf has lost its parent and starts its list (R153, R154). -/
def loseParent (s : State) : State := tryAt 0 (onPlace (fun p => { p with parent := none }) s)

/-! ## The candidate (R140 to R150) -/

/-- Leaves of the Plaza role's census: those that no transfer has removed (R142). -/
def plazaCensus (s : State) : List Child :=
  match findRole .plaza s with
  | none => []
  | some r => r.children.filter fun c => c.leaveFt.isNone

/-- The census ceiling, less what lost bank groups cost in stand-in quota (R142, R302). -/
def ceilingFor (home : Nat) (s : State) : Nat :=
  match s.place.part with
  | none => if home = trayOf s.die then 256 else 0
  | some p => if home = trayOf s.die then p.ceiling else p.ceiling - s.place.standinLost

/-- Square and merger share that a number of Leaves and roles reserve fit the chip (R140): KiB, and hundredths of a
percent. -/
def reservationsFit (leaves replicas : Nat) : Bool :=
  65536 + 49152 * replicas + 256 * leaves ≤ 229376 && 1000 + 1200 * replicas + 25 * leaves ≤ 10000

/-- Quarter and Forum replicas hosted. -/
def hostedReplicas (s : State) : Nat := (s.roles.filter fun r => r.kind != .plaza).length

/-- The chip is drained. -/
def isDrained (s : State) : Bool :=
  match s.place.part with
  | none => false
  | some p => p.drained

/-- The reason for which the chip refuses a Leaf (R146, R150), the table's reasons in their order. -/
def refusal (m : AdoptMsg) (s : State) : Option Nat :=
  let n := ((plazaCensus s).filter fun c => c.source != m.die).length
  let replicas := hostedReplicas s
  if ceilingFor m.home s < n + 1 then some 1
  else if m.pos ≠ 1 ∧ 256 ≤ n then some 2
  else if m.pos ≠ 1 ∧ reservationsFit (n + 1) replicas = false then some 3
  else if isDrained s then some 4
  else if quarterOf m.home ≠ quarterOf (trayOf s.die) then some 5
  else none

/-- A message to a Leaf. -/
def parentMsg (m : AdoptMsg) (pos : Nat) (s : State) : AdoptMsg := ownMsg pos m.die (plazaSource (trayOf s.die)) s

/-- A refusal goes back. -/
def refuse (m : AdoptMsg) (reason : Nat) (s : State) : State := sendMsgAdopt m.die 5 (parentMsg m reason s) s

/-- A Leaf's membership as it confirms: what it had before stays for the frames before the join (R114, R149). -/
def rejoin (o : Offer) (join finalTo : Nat) (c : Child) : Child :=
  let before := (c.joinFt, match c.leaveFt with
    | none => join
    | some f => min f join)
  { c with
    joinFt := join, leaveFt := none, spans := (c.spans ++ [before]).filter fun x => x.1 < x.2 && finalTo < x.2, home := o.home,
    ackFrame := if o.ackFrame.isSome then o.ackFrame else c.ackFrame }

/-- A child joins the census (R142, R149).  Its membership of frames before stays, a new epoch ends the one before from the first
frame that the Leaf retains (R50, R119), and the series of a Leaf that is new here, or had left, start afresh (R158). -/
def joinCensus (o : Offer) (join : Nat) (s : State) : State :=
  let s := onPlace (fun p => { p with offers := p.offers.filter fun x => x.die != o.die }) s
  match findRole .plaza s with
  | none => s
  | some r =>
    match childOf o.die r with
    | none =>
      modRole .plaza (fun r => { r with children := r.children ++ [newChild o.die o.epoch 0 join o.home o.ackFrame] })
        (forgetSeries o.die s)
    | some c =>
      let s := when c.leaveFt.isSome (forgetSeries o.die) s
      let s := when (c.epoch != o.epoch) (endChildEpoch .plaza c o.epoch (min join (o.keptFt.getD join))) s
      onChild .plaza o.die (rejoin o join r.finalTo) s

/-- Frames from an ft on leave a child's membership; what it has joined since stays (R156). -/
def leaveFrom (opens : Nat) (c : Child) : Child :=
  let spans := (c.spans.filter fun x => x.1 < opens).map fun x => (x.1, min x.2 opens)
  if opens < c.joinFt then { c with spans := spans }
  else { c with spans := spans, leaveFt := some (match c.leaveFt with
    | some f => min f opens
    | none => opens) }

/-- A `RELEASE` to each of some Leaves, naming the chip to adopt next (R161). -/
def releaseLeaves (dies : List Nat) (next : Nat) (s : State) : State :=
  forEach dies (fun d s =>
    let m := { ownMsg 0 d (plazaSource (trayOf s.die)) s with
      frameA := some (currentFrame s), nextChip := next }
    let next := nextOpenFt s
    onChild .plaza d (fun c => { c with leaveFt := some next }) (sendMsgAdopt d 6 m s)) s

/-- Leaves carried for another tray. -/
def foreignOf (tray : Nat) (s : State) : List Nat :=
  ((plazaCensus s).filter fun c => trayOf c.source == tray && tray != trayOf s.die).map (·.source)

/-! ## The placement leader (R136) -/

/-- A Forum replica is treated as silent: more than half of the Quarter replicas heard say so (R136). -/
def forumSilent (r : Nat) (s : State) : Bool :=
  let b := quarterBeacons s
  b.length < 2 * (b.filter fun e => !e.2.getLsbD r).length

/-- The chip hosts the leader: the lowest Forum replica that is not silent (R136). -/
def isLeader (s : State) : Bool :=
  match findRole .forum s with
  | none => false
  | some r => !forumSilent r.replica s && (List.range r.replica).all fun k => forumSilent k s

end Sys2Proof.Machine
end

