-- ==== Sys2Proof/Machine/PlaceIssue.lean ====
section
/-!
DEFINITION. The placement leader's table: hosts, quotas, ceilings, alternate lists and ensemble parts (R134 to R145, R160,
R217).
-/

namespace Sys2Proof.Machine

/-! ## What the leader knows of a chip -/

/-- A returning chip is held for 10 s of continuous liveness (R161). -/
def underHold (tray : Nat) (s : State) : Bool := (tget 0 tray s.place.liveSince) != 0

/-- Chips that take part in placement: live, not drained, not held; ascending tray. -/
def placeable (s : State) : List ChipInfo :=
  s.place.chips.filter fun c => c.live && !s.place.drained.contains c.tray && !underHold c.tray s

/-- A chip can be a home: it is live, not drained and not held, as those that take part in placement are (R161). -/
def canHost (tray : Nat) (s : State) : Bool := (placeable s).any fun c => c.tray == tray

/-- Census of a chip's own tray. -/
def ownCensus (c : ChipInfo) : Nat := c.slots.length

/-- `LOCATION` of a tray (R134). -/
def locationOf (tray : Nat) (s : State) : Nat := (s.place.locations.getD tray 0).toNat

/-- A field of `LOCATION` by level: 0 power feed, 1 rack, 2 row, 3 section. -/
def locationField (level tray : Nat) (s : State) : Nat := locationOf tray s / 256 ^ level % 256

/-- Two hosts are separated: they differ in the field that `SEPARATION` names or in one above it (R135). -/
def separated (a b : Nat) (s : State) : Bool :=
  [0, 1, 2, 3].any fun l => s.place.separation ≤ l && locationField l a s != locationField l b s

/-- The distance between two trays (R135). -/
def trayDistance (a b : Nat) (s : State) : Nat :=
  let same (l : Nat) : Bool := locationField l a s == locationField l b s
  if same 3 && same 2 && same 1 then 0 else if same 3 && same 2 then 1 else if same 3 then 2 else 3

/-- Replicas that an assignment list puts on a tray. -/
def replicasOn (tray : Nat) (hosts : List (Nat × Nat × Nat)) : List (Nat × Nat × Nat) := hosts.filter fun h => h.2.2 == tray

/-- Further Leaves whose reservations fit beside a census and some replicas (R140). -/
def furtherLeaves (census replicas : Nat) : Nat :=
  min ((229376 - 65536 - 49152 * replicas) / 256 - census) ((10000 - 1000 - 1200 * replicas) / 25 - census)

/-- Stand-in quota of a chip with some replicas (R141). -/
def quotaOf (c : ChipInfo) (replicas : Nat) : Nat := min (256 - ownCensus c) (furtherLeaves (ownCensus c) replicas)

/-- The upward gate time that a chip's Plaza role and some replicas reserve lies within what its gates grant, in hundredths of a
percent of a port (R140). -/
def gatesFit (c : ChipInfo) (replicas : Nat) : Bool := 100 * (1 + replicas) ≤ c.gateTime

/-- One more replica of a kind fits a chip (R24, R140, R141). -/
def roleFits (c : ChipInfo) (src : Nat) (hosts : List (Nat × Nat × Nat)) (s : State) : Bool :=
  let here := replicasOn c.tray hosts
  !(here.any fun h => sourceKind h.1 == sourceKind src)
    && reservationsFit (ownCensus c) (here.length + 1) && gatesFit c (here.length + 1) && s.place.standinMin ≤ quotaOf c (here.length + 1)

/-- A chip can host a replica of a role beside the assignments so far (R143). -/
def hostable (c : ChipInfo) (src : Nat) (hosts : List (Nat × Nat × Nat)) (excluded : List Nat) (s : State) : Bool :=
  !s.place.noHost.contains c.tray && !excluded.contains c.tray && roleFits c src hosts s
    && hosts.all fun h => h.1 != src || separated c.tray h.2.2 s

/-- `role_id` of a role: the subject identity of R126. -/
def roleId (src : Nat) : Nat := if sourceKind src = 3 then 3 else sourceKind src + 4 * sourceNum src

/-- The greatest rank among candidates (R143). -/
def bestHost (id replica : Nat) (s : State) : List ChipInfo → Option Nat
  | [] => none
  | c :: t =>
    let w (tray : Nat) : Nat := hostRank s.place.seed id replica tray
    match bestHost id replica s t with
    | none => some c.tray
    | some b => if w b < w c.tray then some c.tray else some b

/-- `choose_host` (R143): a Quarter's replicas stay in its own trays while one of them can host. -/
def chooseHost (src replica : Nat) (hosts : List (Nat × Nat × Nat)) (excluded : List Nat) (s : State) : Option Nat :=
  let can := (placeable s).filter fun c => hostable c src hosts excluded s
  let own := can.filter fun c => quarterOf c.tray == sourceNum src
  bestHost (roleId src) replica s (if sourceKind src = 2 ∧ own.isEmpty = false then own else can)

/-- Quarters of the fleet: 32 trays each. -/
def fleetQuarters (s : State) : List Nat := s.place.chips.foldl (fun l c => insertAsc (quarterOf c.tray) l) []

/-- Every replica in the order of placing: Forum 0 to 2, then each Quarter's 0 and 1 (R143). -/
def allReplicas (s : State) : List (Nat × Nat) :=
  [(forumSource, 0), (forumSource, 1), (forumSource, 2)]
    ++ (fleetQuarters s).flatMap fun q => [(quarterSource q, 0), (quarterSource q, 1)]

/-- The assignments that stand: those of this leader's own latest table, and where it has issued none those that the chips are
known to hold (R143). -/
def standing (s : State) : List (Nat × Nat × Nat) :=
  if s.place.hosts.isEmpty then s.place.chips.flatMap fun c => c.hosted.map fun h => (h.1, h.2, c.tray) else s.place.hosts

/-- Assignments that stand on: the host is placeable and meets the constraints beside those kept before it (R143). -/
def keepHosts (s : State) : List (Nat × Nat × Nat) :=
  (allReplicas s).foldl (fun kept r =>
    match (standing s).find? fun h => h.1 == r.1 && h.2.1 == r.2 with
    | none => kept
    | some h =>
      if (placeable s).any fun c => c.tray == h.2.2 && hostable c h.1 kept [] s then kept ++ [h] else kept) []

/-- The remaining replicas are placed in order (R143). -/
def placeReplicas (s : State) : List (Nat × Nat × Nat) :=
  (allReplicas s).foldl (fun hosts r =>
    if hosts.any fun h => h.1 == r.1 && h.2.1 == r.2 then hosts
    else match chooseHost r.1 r.2 hosts [] s with
      | none => hosts
      | some tray => hosts ++ [(r.1, r.2, tray)]) (keepHosts s)

/-- The three Forum successors: chosen as Forum hosts are, with the Forum's hosts excluded (R160). -/
def chooseSuccessors (hosts : List (Nat × Nat × Nat)) (s : State) : List Nat :=
  let forum := (hosts.filter fun h => h.1 == forumSource).map (·.2.2)
  let others := hosts.filter fun h => h.1 != forumSource
  ([0, 1, 2].foldl (fun (acc : List (Nat × Nat × Nat)) r =>
    match chooseHost forumSource r (others ++ acc) forum s with
    | none => acc
    | some tray => acc ++ [(forumSource, r, tray)]) []).map (·.2.2)

/-! ## Ceilings (R142) -/

/-- Ceilings: own census and stand-in quota, lowered from the highest tray down until the fleet's limit holds. -/
def lowerCeilings (excess : Nat) : List (Nat × Nat × Nat) → List (Nat × Nat × Nat)
  | [] => []
  | (tray, census, quota) :: t =>
    let cut := min excess quota
    (tray, census, quota - cut) :: lowerCeilings (excess - cut) t

/-- Live chips with census and stand-in quota, by ascending tray: every one of them has a ceiling, also one that is drained or held
(R142). -/
def quotas (hosts : List (Nat × Nat × Nat)) (s : State) : List (Nat × Nat × Nat) :=
  let raw := (s.place.chips.filter (·.live)).map fun c => (c.tray, ownCensus c, quotaOf c (replicasOn c.tray hosts).length)
  let total := raw.foldl (fun n c => n + c.2.1 + c.2.2) 0
  (lowerCeilings (total - 131072) raw.reverse).reverse

/-- The quota of a tray's chip. -/
def quotaAt (tray : Nat) (q : List (Nat × Nat × Nat)) : Nat :=
  match q.find? fun x => x.1 == tray with
  | some x => x.2.2
  | none => 0

/-! ## Alternate lists (R145) -/

/-- A candidate in its place: ascending distance, then ascending tray. -/
def insertRanked (home : Nat) (s : State) (c : Nat) : List Nat → List Nat
  | [] => [c]
  | x :: t =>
    let d := trayDistance home c s
    let e := trayDistance home x s
    if d < e ∨ (d = e ∧ c < x) then c :: x :: t else x :: insertRanked home s c t

/-- Candidates for a tray's Leaves. -/
def rankedFor (tray : Nat) (s : State) : List Nat :=
  (((placeable s).map (·.tray)).filter fun t => t != tray && quarterOf t == quarterOf tray).foldl
    (fun l c => insertRanked tray s c l) []

/-- The tray's Leaves shared out over its candidates' quotas: one assigned chip for each, while quotas last. -/
def assignLeaves (q : List (Nat × Nat × Nat)) (cands : List Nat) (n : Nat) : List Nat :=
  (cands.flatMap fun c => List.replicate (quotaAt c q) c).take n

/-- One Leaf's list.  Position 0 names no chip while the home is out of placement, and names it again when it is back (R161;
DEDUCED, assumption 137).  A Leaf to which the assignment gives no chip, because every quota is spent, has the first ranked candidate
at position 1, for which R145 gives no rule (DESIGN CHOICE, assumption 138). -/
def listFor (home : Option Nat) (assigned : Option Nat) (cands : List Nat) : List Nat :=
  let first := match home with
    | some t => plazaSource t
    | none => 0xFFFFFFFF
  match assigned with
  | some a => first :: (a :: (cands.filter (· != a)).take 6).map plazaSource
  | none => first :: (cands.take 7).map plazaSource

/-- The lists of a tray's census. -/
def listsOf (c : ChipInfo) (q : List (Nat × Nat × Nat)) (s : State) : List (Nat × List Nat) :=
  let cands := rankedFor c.tray s
  let assigned := assignLeaves q cands c.slots.length
  c.slots.zipIdx.map fun e => (256 * c.tray + e.1, listFor (if canHost c.tray s then some c.tray else none) assigned[e.2]? cands)

/-! ## Ensemble parts (R216, R217) -/

/-- The images that a Forum replica's chip keeps: the latest of each model. -/
def keptImages (s : State) : List TreeImage :=
  ((s.arc.segments.filter fun g => g.log == 4 && !g.lost).flatMap (·.entries)).reverse.filterMap fun e =>
    match e.data with
    | .image i => if s.tree.kept.contains i.model then some i else none
    | _ => none

/-- Nodes and worst-case visits of a run of trees. -/
def runNodes (l : List DirEntry) : Nat := l.foldl (fun n e => n + e.n) 0
def runVisits (l : List DirEntry) : Nat := l.foldl (fun n e => n + e.depth + 1) 0

/-- Visits a second that a run costs for a number of vectors at an interval (R215). -/
def runDemand (l : List DirEntry) (vectors interval period : Nat) : Nat :=
  ceilDiv (vectors * runVisits l * 1000000) (max 1 (interval * period))

/-- Trees of a run from `first` that fit a chip (R217). -/
def helperRun (i : TreeImage) (first last vectors : Nat) (c : ChipInfo) (s : State) : Nat :=
  let trees := (i.dir.drop first).take (last + 1 - first)
  let fits (k : Nat) : Bool :=
    k ≤ c.freeTrees && runNodes (trees.take k) ≤ c.freeNodes
      && runDemand (trees.take k) vectors i.scoreEvery s.grid.period ≤ c.freeVisits
  ((List.range (trees.length + 1)).filter fits).foldl max 0

/-- What one table has already reserved on the chips: tray, trees, nodes, visits (R217). -/
abbrev Reserved := List (Nat × Nat × Nat × Nat)

/-- A chip with what is reserved on it taken from its free capacity. -/
def lessReserved (rs : Reserved) (c : ChipInfo) : ChipInfo :=
  let mine := rs.filter fun x => x.1 == c.tray
  { c with
    freeTrees := c.freeTrees - mine.foldl (fun n x => n + x.2.1) 0,
    freeNodes := c.freeNodes - mine.foldl (fun n x => n + x.2.2.1) 0,
    freeVisits := c.freeVisits - mine.foldl (fun n x => n + x.2.2.2) 0 }

/-- What a helper part takes of its chip: the demand of its range for the home tray's census at `SCORE_EVERY` (R217). -/
def takes (i : TreeImage) (home : ChipInfo) (h : Nat × Nat × Nat × Nat) (s : State) : Nat × Nat × Nat × Nat :=
  let run := (i.dir.drop h.2.1).take (h.2.2.1 + 1 - h.2.1)
  (h.2.2.2, run.length, runNodes run, runDemand run home.slots.length i.scoreEvery s.grid.period)

/-- A chip can take a helper part of a tray beside the other helpers of the ensemble, as `choose_host` has it (R143, R217). -/
def canHelp (i : TreeImage) (home c : ChipInfo) (first last : Nat) (used : List Nat) (s : State) : Bool :=
  !s.place.noHost.contains c.tray && quarterOf c.tray == quarterOf home.tray && c.tray != home.tray && !used.contains c.tray
    && (used.all fun u => separated c.tray u s) && helperRun i first last home.slots.length c s != 0

/-- Helper parts for one tray's remainder of a model: part, first tree, last tree, tray; `none` when three do not hold it. -/
def placeHelpers (i : TreeImage) (home : ChipInfo) (last : Nat) (rs : Reserved) (s : State) :
    Nat → Nat → List Nat → Option (List (Nat × Nat × Nat × Nat))
  | 0, _, _ => none
  | fuel + 1, first, used =>
    if last < first then some []
    else if fuel = 0 then none
    else
      let k := 4 - fuel
      let can := ((placeable s).map (lessReserved rs)).filter fun c => canHelp i home c first last used s
      match bestHost i.model k s can with
      | none => none
      | some tray =>
        match can.find? fun c => c.tray == tray with
        | none => none
        | some c =>
          let n := helperRun i first last home.slots.length c s
          (placeHelpers i home last rs s fuel (first + n) (tray :: used)).map fun l => (k + 1, first, first + n - 1, tray) :: l

/-- Helper parts that the latest table gave a tray's ensemble, while they still hold its remainder on chips that take part in
placement: they stand (R143, R217). -/
def heldHelpers (i : TreeImage) (home : ChipInfo) (first last : Nat) (s : State) : Option (List (Nat × Nat × Nat × Nat)) :=
  let me := plazaSource home.tray
  let hs := ((s.place.issued.filter fun p => p.target == me).flatMap (·.parts)).filterMap fun e =>
    if e.model = i.model ∧ 2 ≤ e.part ∧ e.host ≠ me then some (e.part, e.firstTree, e.lastTree, sourceNum e.host) else none
  let joined : List (Nat × Nat × Nat × Nat) → Nat → Option Nat := fun l a =>
    l.foldl (fun n h => n.bind fun n => if h.2.1 = n then some (h.2.2.1 + 1) else none) (some a)
  if !hs.isEmpty && joined hs first == some (last + 1) && (hs.all fun h => canHost h.2.2.2 s) then some hs else none

/-- The Leaf range of an image: L of R216. -/
def leafRange (i : TreeImage) : Nat :=
  if i.features.length > 256 ∨ (i.features.any fun f => f.fkind == 8) then 0
  else
    let ok (k : Nat) : Bool := runNodes (i.dir.take k) ≤ 16384 && (i.dir.take k).all fun e => e.depth ≤ 12
    ((List.range (min 64 i.dir.length + 1)).filter ok).foldl max 0

/-- What a table makes of ensembles: entries with the tray they are for, models unplaced with their tray, and what is reserved. -/
structure Placing where
  entries : List (Nat × PartEntry)
  unplaced : List (Nat × Nat)
  reserved : Reserved
deriving DecidableEq, Repr

/-- One ensemble of a tray: the model, the first tree that its home chip does not hold, and its last tree (R216, R217). -/
def placeEnsemble (home : ChipInfo) (acc : Placing) (m : Nat × Nat × Nat) (s : State) : Placing :=
  let fails : Placing := { acc with unplaced := addOnce (home.tray, m.1) acc.unplaced }
  match (keptImages s).find? fun i => i.model == m.1 with
  | none => if m.2.1 ≤ m.2.2 then fails else acc
  | some i =>
    let l := leafRange i
    let helpers : Option (List (Nat × Nat × Nat × Nat)) :=
      if m.2.2 < m.2.1 then some []
      else if i.features.any fun f => f.fkind == 8 then none
      else match heldHelpers i home m.2.1 m.2.2 s with
        | some hs => some hs
        | none => placeHelpers i home m.2.2 acc.reserved s 4 m.2.1 []
    match helpers with
    | none => fails
    | some hs =>
      let leaf : List PartEntry :=
        if l = 0 then [] else [{ model := i.model, part := 0, firstTree := 0, lastTree := l - 1, host := 0xFFFFFFFF }]
      let own : List PartEntry :=
        if m.2.1 ≤ l then []
        else [{ model := i.model, part := 1, firstTree := l, lastTree := m.2.1 - 1, host := plazaSource home.tray }]
      let far : List PartEntry := hs.map fun h =>
        { model := i.model, part := h.1, firstTree := h.2.1, lastTree := h.2.2.1, host := plazaSource h.2.2.2 }
      { acc with entries := acc.entries ++ (leaf ++ own ++ far).map (fun e => (home.tray, e)),
                 reserved := acc.reserved ++ hs.map fun h => takes i home h s }

/-- Every ensemble of every tray that takes part in placement, by ascending tray. -/
def placeEnsembles (s : State) : Placing :=
  (placeable s).foldl (fun acc home => home.ensembles.foldl (fun acc m => placeEnsemble home acc m s) acc)
    { entries := [], unplaced := [], reserved := [] }

/-! ## The table (R137 to R139) -/

/-- The tray of a replica's host, 0xFFFF for none. -/
def hostTray (src replica : Nat) (hosts : List (Nat × Nat × Nat)) : Nat :=
  match hosts.find? fun h => h.1 == src && h.2.1 == replica with
  | some h => h.2.2
  | none => 0xFFFF

/-- What every part of one table shares, and the fields of a tray. -/
def basePart (gen replica tray : Nat) (hosts : List (Nat × Nat × Nat)) (succs : List Nat) (s : State) : TablePart :=
  { toLeaf := false, drained := s.place.drained.contains tray, noHost := s.place.noHost.contains tray, generation := gen,
    replica := replica, issuer := forumSource, target := plazaSource tray, issueFt := s.time.ft, rolePlaza := false,
    roleQuarter := false, roleForum := false, qreplica := 0, freplica := 0, quarter := quarterOf tray, standin := 0,
    ceiling := 0,
    qhosts := [0, 1].map fun r => hostTray (quarterSource (quarterOf tray)) r hosts,
    fhosts := [0, 1, 2].map fun r => hostTray forumSource r hosts,
    succs := [0, 1, 2].map fun r => succs.getD r 0xFFFF, alts := [], parts := [], checksOk := true }

/-- A chip's part. -/
def chipPart (c : ChipInfo) (gen replica : Nat) (hosts : List (Nat × Nat × Nat)) (succs : List Nat)
    (q : List (Nat × Nat × Nat)) (lists : List (Nat × List Nat)) (parts : List (Nat × PartEntry)) (s : State) : TablePart :=
  let b := basePart gen replica c.tray hosts succs s
  let here := replicasOn c.tray hosts
  let quarter := here.find? fun h => sourceKind h.1 == 2
  let forum := here.find? fun h => sourceKind h.1 == 3
  let me := plazaSource c.tray
  { b with
    rolePlaza := !b.drained, roleQuarter := quarter.isSome, roleForum := forum.isSome,
    qreplica := (quarter.map (·.2.1)).getD 0, freplica := (forum.map (·.2.1)).getD 0,
    standin := quotaAt c.tray q, ceiling := ownCensus c + quotaAt c.tray q,
    alts := lists.filter fun l => l.2.head? == some me || l.2[1]? == some me,
    parts := (parts.filter fun p => p.2.host == me || p.1 == c.tray).map (·.2) }

/-- A Leaf's part. -/
def leafPart (l : Nat × List Nat) (gen replica : Nat) (hosts : List (Nat × Nat × Nat)) (succs : List Nat)
    (parts : List (Nat × PartEntry)) (s : State) : TablePart :=
  let tray := trayOf l.1
  let mine := (parts.filter fun p => p.1 == tray).map (·.2)
  { basePart gen replica tray hosts succs s with
    toLeaf := true, drained := false, noHost := false, target := l.1, alts := [l],
    parts := mine.filter fun p => mine.any fun q => q.part == 0 && q.model == p.model }

/-- A part leaves in the Control class, in whole blocks as a record does; the chip keeps it (R138, R238, R332).  A part has no
sequence number of its own, and `RSEQ` holds its table's generation (DESIGN CHOICE, assumption 139). -/
def sendPartFrom (src : Nat) (p : TablePart) (s : State) : State :=
  let bs := partBlocks p
  enqueueControl (recordPackets 6 src p.target 0x5054 p.generation (partSize p) bs.length false (blockSizes bs) s) (.table p.target p)
    (arcIngest 4 { mkEntry p.issuer (partSize p) (.table p) s with produced := true } s)

/-- The leader sends a part. -/
def sendPart (p : TablePart) (s : State) : State := sendPartFrom (replicaKey forumSource p.replica) p s

/-- A parent hands a Leaf that it has adopted, and that holds an older table, its list (R150, R163). -/
def handList (die held : Nat) (s : State) : State :=
  match s.place.part with
  | none => s
  | some p =>
    match p.alts.find? fun a => a.1 == die with
    | none => s
    | some a =>
      if p.generation ≤ held then s
      else
        let mine := if trayOf die = trayOf s.die then p.parts.filter fun e => p.parts.any fun q => q.part == 0 && q.model == e.model
          else []
        sendPartFrom (selfSource s) { p with
          toLeaf := true, drained := false, noHost := false, target := die, rolePlaza := false, roleQuarter := false,
          roleForum := false, qreplica := 0, freplica := 0, quarter := quarterOf (trayOf die), standin := 0, ceiling := 0,
          alts := [a], parts := mine } s

/-- What a table says of roles that run short, and of ensembles it could not place (R144, R224). -/
def reportShortage (hosts : List (Nat × Nat × Nat)) (unplaced : List (Nat × Nat)) (s : State) : State :=
  let missing := (allReplicas s).filter fun r => !(hosts.any fun h => h.1 == r.1 && h.2.1 == r.2)
  let s := forEach missing (fun r s =>
    let left := (hosts.filter fun h => h.1 == r.1).length
    raise 0x0502 (roleKey (sourceKind r.1) (if sourceKind r.1 = 3 then 0 else sourceNum r.1)) left s) s
  forEach unplaced (fun u => raise 0x0704 (roleKey 1 u.1) 0) s

/-- Every part of a table. -/
def tableParts (gen replica : Nat) (hosts : List (Nat × Nat × Nat)) (s : State) : List TablePart × List (Nat × Nat) :=
  let q := quotas hosts s
  let succs := chooseSuccessors hosts s
  let lists := s.place.chips.flatMap fun c => listsOf c q s
  let x := placeEnsembles s
  let parts := x.entries
  let unplaced := x.unplaced
  let chips := s.place.chips.filter fun c => c.live
  (chips.map (fun c => chipPart c gen replica hosts succs q lists parts s)
    ++ lists.map (fun l => leafPart l gen replica hosts succs parts s), unplaced)

/-- The drained chips that every role has left (R161). -/
def drainedEmpty (hosts : List (Nat × Nat × Nat)) (s : State) : List Nat :=
  s.place.drained.filter fun t => (replicasOn t hosts).isEmpty && s.place.chips.all fun c => c.tray != t || c.slots.isEmpty

/-- The helper parts of a table, with the home tray of each: a chip's part names those of its own ensembles. -/
def helperParts (l : List TablePart) : List (Nat × PartEntry) :=
  (l.filter fun p => !p.toLeaf).flatMap fun p =>
    (p.parts.filter fun e => 2 ≤ e.part && e.host != p.target).map fun e => (sourceNum p.target % 1024, e)

/-- Those that the table before did not place so: their ranges are sent (R217, R231). -/
def newHelpers (old new : List TablePart) : List (Nat × PartEntry) :=
  (helperParts new).filter fun p => !(helperParts old).contains p

/-- The frame from which an image that the chip holds or keeps the header of is active; none while it is pending (R226). -/
def activeSince (i : TreeImage) (s : State) : Option Nat :=
  (((s.tree.slots ++ s.tree.headers).filter fun t => t.image.model == i.model && t.image.imageCrc == i.imageCrc)).findSome?
    (·.activeFrom)

/-- A range of an image leaves the Forum, with the frame from which it serves (R225, R226, R230; assumption 140). -/
def sendRange (replica host : Nat) (i : TreeImage) (first last tray : Nat) (home : Bool) (s : State) : State :=
  sendControl (replicaKey forumSource replica) host 0x5445 (16 * runNodes ((i.dir.drop first).take (last + 1 - first)))
    (.range host i.model i.imageCrc first last tray home (activeSince i s)) s

/-- The range of a helper part leaves the Forum. -/
def sendHelper (replica : Nat) (p : Nat × PartEntry) (s : State) : State :=
  match (keptImages s).find? fun i => i.model == p.2.model with
  | none => s
  | some i => sendRange replica p.2.host i p.2.firstTree p.2.lastTree p.1 false s

/-- The leader issues a table: the commands that waited for it complete with its generation (R137, R395). -/
def issueTable (s : State) : State :=
  match findRole .forum s with
  | none => s
  | some role =>
    let gen := s.place.generation + 1
    let hosts := placeReplicas s
    let (parts, unplaced) := tableParts gen role.replica hosts s
    let helpers := newHelpers s.place.issued parts
    let s := onPlace (fun p => { p with generation := gen, hosts := hosts, issued := parts, issuedAt := s.time.timer }) s
    let s := forEach helpers (sendHelper role.replica) s
    let s := reportShortage hosts unplaced (forEach parts sendPart s)
    let s := complete .constraints Config.ok [f32 0 gen] s
    let s := completeWhere (fun w => match w with | .restore t => !s.place.drained.contains t | _ => false) Config.ok [] s
    let gone := drainedEmpty hosts s
    completeWhere (fun w => match w with | .drain t => gone.contains t | _ => false) Config.ok [] s

/-- A chip in its place, by ascending tray. -/
def insertChip (c : ChipInfo) : List ChipInfo → List ChipInfo
  | [] => [c]
  | x :: t => if c.tray < x.tray then c :: x :: t else if c.tray = x.tray then c :: t else x :: insertChip c t

/-- What the leader learns of the chips: one that comes back from silence is held for 10 s (R161). -/
def learnChips (chips : List ChipInfo) (s : State) : State :=
  let was (t : Nat) : Bool := s.place.chips.any fun c => c.tray == t && !c.live
  let since := chips.foldl (fun tab c =>
    if !c.live then tdel c.tray tab
    else if was c.tray then tput 0 c.tray (s.time.live + 1) tab
    else tab) s.place.liveSince
  onPlace (fun p => { p with chips := chips.foldl (fun l c => insertChip c l) [], liveSince := since }) s

end Sys2Proof.Machine
end

