-- ==== Sys2Proof/Machine/PlaceCmd.lean ====
section
/-!
DEFINITION. Commands of group 0x05 and the events of tables, adoption and liveness (R133 to R163).
-/

namespace Sys2Proof.Machine

/-! ## Commands -/

/-- A placement command at a Forum replica's host: what is kept, then a table if this is the leader; a replica that is not
completes at once with `GENERATION` 0 (R395). -/
def forumCommand (w : Work) (keep : State → State) (s : State) : State × Reply :=
  if (findRole .forum s).isNone then deny Config.wrongState s
  else if isLeader s then
    (keep s, { status := Config.accepted, work := some w, after := issueTable })
  else
    (keep s, { status := Config.accepted, work := some w, after := complete w Config.ok [f32 0 0] })

/-- `PLACE_SET_CONSTRAINTS` (0x0501). -/
def execPlaceSetConstraints (r : Req) (seed separation standinMin : Nat) (locDesc nohostDesc : Desc)
    (locations : List Word32) (noHost : List Nat) (s : State) : Host.Outcome State Fault Refusal :=
  run (serve { code := 0x0501, allow := {}, only := .plaza } r (separation ≤ 3 && standinMin ≤ 256)
    (engineServed 12 fun s =>
      if !descOk (issuerPart r.issuer) locDesc s || !descOk (issuerPart r.issuer) nohostDesc s then deny Config.bufferFault s
      else forumCommand .constraints (onPlace fun p => { p with
        seed := seed, separation := separation, standinMin := standinMin, locations := locations, noHost := noHost }) s)) s

/-- The tray is one the leader knows. -/
def knownTray (tray : Nat) (s : State) : Bool := s.place.chips.any fun c => c.tray == tray

/-- `PLACE_DRAIN` (0x0502): every role moves off the tray's chip (R161). -/
def execPlaceDrain (r : Req) (tray : Nat) (s : State) : Host.Outcome State Fault Refusal :=
  run (serve { code := 0x0502, allow := {}, only := .plaza } r (tray < 1024)
    (engineServed 12 fun s =>
      if (findRole .forum s).isSome && !knownTray tray s then deny Config.notFound s
      else forumCommand (.drain tray) (onPlace fun p => { p with drained := addOnce tray p.drained }) s)) s

/-- `PLACE_RESTORE` (0x0503). -/
def execPlaceRestore (r : Req) (tray : Nat) (s : State) : Host.Outcome State Fault Refusal :=
  run (serve { code := 0x0503, allow := {}, only := .plaza } r (tray < 1024)
    (engineServed 12 fun s =>
      if (findRole .forum s).isSome && !s.place.drained.contains tray then deny Config.notFound s
      else forumCommand (.restore tray) (onPlace fun p => { p with drained := p.drained.filter (· != tray) }) s)) s

/-- The roles that the chip holds, as bits. -/
def rolesHeld (s : State) : Nat :=
  bnat (findRole .plaza s).isSome + 2 * bnat (findRole .quarter s).isSome + 4 * bnat (findRole .forum s).isSome

/-- Leaf state of `PLACE_STATUS`. -/
def leafStateCode (s : State) : Nat :=
  if s.fuse.plaza then 0 else match s.place.phase with
    | .adopted => 0
    | .requesting => 1
    | .confirming => 1
    | .orphan => 2

/-- The payload of `PLACE_STATUS`. -/
def placeStatusPayload (s : State) : List Fld :=
  let part := s.place.part
  let quarter := (part.map (·.quarter)).getD (quarterOf (trayOf s.die))
  let census := plazaCensus s
  let alts := if s.fuse.plaza then [] else altList s
  let parent := if s.fuse.plaza then 0xFFFFFFFF else s.place.parent.getD 0xFFFFFFFF
  [f32 0 ((part.map (·.generation)).getD 0), f8 4 (rolesHeld s), f8 5 (((findRole .quarter s).map (·.replica)).getD 0),
   f8 6 (((findRole .forum s).map (·.replica)).getD 0), f8 7 (leafStateCode s), f16 8 quarter, f16 0xA census.length,
   f16 0xC ((part.map (·.standin)).getD 0 - s.place.standinLost),
   f16 0xE (census.filter fun c => trayOf c.source != trayOf s.die).length, f32 0x10 parent, f8 0x14 s.place.position]
  ++ (List.range 8).map (fun i => f32 (0x18 + 4 * i) (alts.getD i 0xFFFFFFFF))
  ++ (List.range 3).map fun i => f32 (0x38 + 4 * i) ((part.map fun p => p.fhosts.getD i 0xFFFF).getD 0xFFFF)

/-- `PLACE_STATUS` (0x0504). -/
def execPlaceStatus (r : Req) (s : State) : Host.Outcome State Fault Refusal :=
  run (serve { code := 0x0504, allow := { s := true } } r true
    (engineServed 12 fun s => done (placeStatusPayload s) s)) s

/-- `PLACE_CENSUS_TRANSFER` (0x0505): the home role drops a Leaf from a frame on, once (R156). -/
def execPlaceCensusTransfer (r : Req) (die frame : Nat) (s : State) : Host.Outcome State Fault Refusal :=
  run (serve { code := 0x0505, allow := { p := false, q := true }, only := .plaza } r (die < 2 ^ 18)
    (engineServed 12 fun s =>
      if s.place.transfers.contains (die, frame) then done [] s
      else
        let opens := match (findRole .plaza s).bind (frameNamed frame) with
          | some t => frameOpens t.frame t.period
          | none => frame * frameNs s
        done [] (onChild .plaza die (leaveFrom opens) (onPlace (fun p => { p with transfers := p.transfers ++ [(die, frame)] }) s)))) s

/-! ## Tables (R137, R139) -/

/-- A part follows the one held: a higher generation, or the same one from a lower replica (R137). -/
def followsHeld (p : TablePart) (s : State) : Bool :=
  match s.place.part with
  | none => true
  | some h => h.generation < p.generation || (h.generation == p.generation && p.replica < h.replica)

/-- The number of a Quarter replica that a part places here: the addressed block's own Quarter where the part lists the chip as its
host.  Else it is of another Quarter, which the part has no field for: the one held stays, and a new one is a free value (R138,
R143, assumption 22). -/
def quarterHosted (p : TablePart) (s : State) : Nat × State :=
  if p.qhosts.contains (trayOf s.die) then (p.quarter, s)
  else match findRole .quarter s with
    | some r => if r.replica = p.qreplica then (r.number, s) else ((draw s).1 % 32, (draw s).2)
    | none => ((draw s).1 % 32, (draw s).2)

/-- A chip takes its part: its roles change, and a drained chip releases its Leaves to their own lists (R161).  Where another leader
issued it, what this one knew of its own table's hosts is past. -/
def chipTakesPart (p : TablePart) (s : State) : State :=
  let s := arcIngest 4 (mkEntry p.issuer (partSize p) (.table p) s) s
  let s := when p.drained (fun s => releaseLeaves ((plazaCensus s).map (·.source)) 0xFFFFFFFF s) s
  let (q, s) := if p.roleQuarter then quarterHosted p s else (0, s)
  let s := setRole .quarter p.roleQuarter q p.qreplica p.generation s
  let s := setRole .forum p.roleForum 0 p.freplica p.generation s
  let mine := (findRole .forum s).any fun r => r.replica == p.replica
  onPlace (fun q => { q with redirected := false, hosts := if mine then q.hosts else [] }) s

/-- Names of the parent replicas whose host a part moves (R159). -/
def movedParents (old new : TablePart) : List Nat :=
  let moved (a b : List Nat) (src : Nat) : List Nat :=
    ((List.range b.length).filter fun i => a.getD i 0xFFFF != b.getD i 0xFFFF).map (replicaKey src)
  moved old.qhosts new.qhosts (quarterSource new.quarter) ++ moved old.fhosts new.fhosts forumSource

/-- A part is held: a parent replica that it moves is live from the first frame that opens from now on (R159; DEDUCED, assumption
133).  A Leaf keeps its ensemble parts where the new part names none, as one from a stand-in does (R230; DEDUCED, assumption
144). -/
def holdPart (p : TablePart) (s : State) : State :=
  let moved := match s.place.part with
    | none => []
    | some old => movedParents old p
  let opens := nextOpenFt s
  onPlace (fun q => { q with
    part := some { p with parts := if p.toLeaf && p.parts.isEmpty then (s.place.part.map (·.parts)).getD [] else p.parts },
    generation := max q.generation p.generation,
    hostSince := moved.foldl (fun t k => tput 0 k opens t) q.hostSince }) s

/-- `PLACEMENT_TABLE_PART`: a whole and checked part of a newer table is taken; a Leaf in a handshake keeps its old list
(R139, R163). -/
def execPlacementTablePart (p : TablePart) (s : State) : Host.Outcome State Fault Refusal :=
  run (fun s =>
    if !p.checksOk || !engineUp 12 s || p.target != selfSource s || !followsHeld p s || (!s.fuse.plaza && trying s) then s
    else
      let s := holdPart p s
      if s.fuse.plaza then chipTakesPart p s else s) s

/-- `PLACEMENT_TABLE_ISSUE`: the leader issues a table from what it knows of the chips (R137). -/
def execPlacementTableIssue (cause : IssueCause) (chips : List ChipInfo) (s : State) : Host.Outcome State Fault Refusal :=
  run (fun s =>
    if !isLeader s || !engineUp 12 s then s
    else match cause with
      | .liveness => issueTable (learnChips chips s)
      | .drain => issueTable (learnChips chips s)
      | .constraints => issueTable (learnChips chips s)
      | .ensemble => issueTable (learnChips chips s)) s

/-- `TABLE_RESEND`: every 1 s of ft the leader sends each live block its part again (R139). -/
def execTableResend (s : State) : Host.Outcome State Fault Refusal :=
  run (fun s =>
    if !isLeader s || !engineUp 12 s || s.place.issued.isEmpty then s
    else
      let s := untilTimer (s.place.issuedAt + 1000000000) s
      onPlace (fun p => { p with issuedAt := s.time.timer }) (forEach s.place.issued sendPart s)) s

/-! ## Adoption (R146 to R150) -/

/-- A message that a chip takes is kept in its Control log (R238), and its sender has been heard. -/
def chipHears (peer : Nat) (m : AdoptMsg) (s : State) : State :=
  heardFrom peer (seeGeneration m.generation (arcIngest 4 (mkEntry m.die 64 (.adopt m) s) s))

/-- A chip's Plaza role can answer. -/
def candidateUp (s : State) : Bool := s.fuse.plaza && engineUp 12 s && (findRole .plaza s).isSome

/-- `ADOPT_REQ`: the candidate offers or refuses (R146, R149, R150). -/
def execAdoptReq (m : AdoptMsg) (s : State) : Host.Outcome State Fault Refusal :=
  run (fun s =>
    if !candidateUp s then s
    else if !m.crcOk then badMsg s
    else if m.parent ≠ plazaSource (trayOf s.die) then s
    else
      let s := chipHears m.die m s
      match refusal m s with
      | some reason => refuse m reason s
      | none =>
        let o : Offer :=
          { die := m.die, home := m.home, epoch := m.epoch, ackFrame := m.frameA,
            keptFt := if m.retained = 0 then none else some (frameOpens m.frameB m.period) }
        let s := onPlace (fun p => { p with offers := (p.offers.filter fun x => x.die != m.die) ++ [o] }) s
        sendMsgAdopt m.die 2 { parentMsg m 0 s with frameB := (s.grid.pending.map (·.2)).getD 0 } s) s

/-- `ADOPT_OFFER`: the Leaf takes period and pending change, and confirms in its next gate (R47, R148). -/
def execAdoptOffer (m : AdoptMsg) (s : State) : Host.Outcome State Fault Refusal :=
  run (fun s =>
    if s.fuse.plaza then s
    else if !m.crcOk then badMsg s
    else if !fromCandidate m s || s.place.phase != .requesting then s
    else
      let s := takeGrid m (heardFrom m.parent s)
      sendMsgAdopt m.parent 3 (ownMsg s.place.position s.die m.parent s)
        (onPlace (fun p => { p with phase := .confirming }) s)) s

/-- `ADOPT_CONFIRM`: the parent takes the Leaf into its census from join frame J, and hands it its list where its own table is
newer; an offer made to another epoch is discarded (R142, R149, R150, R163). -/
def execAdoptConfirm (m : AdoptMsg) (s : State) : Host.Outcome State Fault Refusal :=
  run (fun s =>
    if !candidateUp s then s
    else if !m.crcOk then badMsg s
    else
      let s := chipHears m.die m s
      match s.place.offers.find? fun o => o.die == m.die with
      | none => s
      | some o =>
        if o.epoch ≠ m.epoch then onPlace (fun p => { p with offers := p.offers.filter fun x => x.die != m.die }) s
        else
          let others := ((plazaCensus s).filter fun c => c.source != m.die).length
          if ceilingFor o.home s < others + 1 then
            refuse m 1 (onPlace (fun p => { p with offers := p.offers.filter fun x => x.die != m.die }) s)
          else
            let j := nextOpenFt s
            handList m.die m.generation
              (sendMsgAdopt m.die 4 { parentMsg m 0 s with frameA := some (numberAt j s) } (joinCensus o j s))) s

/-- `ADOPT_ACK`: the Leaf is adopted (R149). -/
def execAdoptAck (m : AdoptMsg) (s : State) : Host.Outcome State Fault Refusal :=
  run (fun s =>
    if s.fuse.plaza then s
    else if !m.crcOk then badMsg s
    else if !fromCandidate m s || s.place.phase != .confirming then s
    else deliverAuto (becomeAdopted m.parent (heardFrom m.parent s))) s

/-- `ADOPT_REFUSE`: the next entry (R150). -/
def execAdoptRefuse (m : AdoptMsg) (s : State) : Host.Outcome State Fault Refusal :=
  run (fun s =>
    if s.fuse.plaza then s
    else if !m.crcOk then badMsg s
    else when (fromCandidate m s) nextTry s) s

/-- `ADOPT_TRY_TIMEOUT`: 2 ms after the request or the confirm left, the try has failed (R148). -/
def execAdoptTryTimeout (s : State) : Host.Outcome State Fault Refusal :=
  run (fun s =>
    match s.place.candidate with
    | none => s
    | some chip =>
      let sent := tget 0 chip s.place.sentAt
      if s.fuse.plaza || !trying s || !s.upl.adoption.isEmpty || sent = 0 || !timeValid s then s
      else nextTry (untilLive (sent - 1 + 2000000) s)) s

/-- `ORPHAN_RETRY`: once a second an orphan starts its list again (R151). -/
def execOrphanRetry (s : State) : Host.Outcome State Fault Refusal :=
  run (fun s =>
    if s.fuse.plaza || s.place.phase != .orphan then s else tryAt 0 (untilTimer s.place.retryAt s)) s

/-- `RELEASE`: the Leaf adopts the named chip or its own list; an orphan starts its list again (R151, R161). -/
def execRelease (m : AdoptMsg) (s : State) : Host.Outcome State Fault Refusal :=
  run (fun s =>
    if !m.crcOk then badMsg s
    else if s.fuse.plaza || m.die ≠ s.die then s
    else if s.place.phase = .orphan then tryAt 0 s
    else if s.place.phase = .adopted ∧ s.place.parent = some m.parent then
      if m.nextChip = 0xFFFFFFFF then loseParent s
      else startTry (((altList s).findIdx? (· == m.nextChip)).getD 0) m.nextChip s
    else s) s

/-! ## Liveness (R153, R154, R160, R161) -/

/-- `KEEPALIVE`: the parent has been heard; an orphan starts its list again (R151, R153). -/
def execKeepalive (m : AdoptMsg) (s : State) : Host.Outcome State Fault Refusal :=
  run (fun s =>
    if !m.crcOk then badMsg s
    else if s.fuse.plaza then heardFrom (replicaKey m.parent m.rep) (seeGeneration m.generation s)
    else if m.die ≠ s.die then s
    else if s.place.phase = .orphan then tryAt 0 (heardFrom m.parent s)
    else heardFrom m.parent s) s

/-- `BEACON`: a child has been heard; a Quarter replica's says which Forum replicas it hears (R136, R153, R160). -/
def execBeacon (m : AdoptMsg) (s : State) : Host.Outcome State Fault Refusal :=
  run (fun s =>
    if !m.crcOk then badMsg s
    else if !s.fuse.plaza then s
    else
      let key := replicaKey m.die m.rep
      let s := heardFrom key (seeGeneration m.generation s)
      if sourceKind m.die = 2 then takeSuccession (onPlace (fun p => { p with heardBy := tins key m.heard p.heardBy }) s)
      else s) s

/-- Gate spacings of a calendar: the greatest distance between the starts of two gates. -/
def gateSpacing (s : State) : Nat :=
  match s.conf.active with
  | some c =>
    match gateSection c.image with
    | none => 0
    | some g =>
      let starts := g.gates.foldl (fun l e => insertAsc (e.1 % max 1 c.image.step) l) []
      match starts with
      | [] => 0
      | a :: t => (t.foldl (fun (p : Nat × Nat) x => (x, max p.2 (x - p.1))) (a, 0)).2
          |> max (a + c.image.step - listMax starts)
  | none => s.upl.standing.2.2.1 * 1000

/-- The silence limit: 3 ms, or three gate spacings where gates are rarer than once a millisecond (R153). -/
def silenceLimit (s : State) : Nat := if 1000000 < gateSpacing s then 3 * gateSpacing s else 3000000

/-- Forum replicas heard within the silence limit. -/
def forumHeard (s : State) : BitVec 3 :=
  [0, 1, 2].foldl (fun (b : BitVec 3) r =>
    let at_ := max (tget 0 (replicaKey forumSource r) s.place.heardAt) (tget 0 (successorKey r) s.place.heardAt)
    if at_ ≠ 0 ∧ s.time.live < at_ + silenceLimit s then putBit b r true else b) 0

/-- A beacon of a role to a parent. -/
def sendBeacon (src peer : Nat) (s : State) : State :=
  sendMsgAdopt peer 8
    { ownMsg 0 src peer s with rep := replicaIn src, heard := if sourceKind src = 2 then forumHeard s else 0 } s

/-- A keepalive of a role to a child. -/
def sendKeepalive (src peer : Nat) (s : State) : State :=
  sendMsgAdopt peer 7 { ownMsg 0 peer src s with rep := replicaIn src } s

/-- Every role's message on a link: a beacon upward, a keepalive downward. -/
def linkMessages (peer : Nat) (s : State) : State :=
  if !s.fuse.plaza then when (s.place.parent == some peer) (sendBeacon s.die peer) s
  else
    forEach s.roles (fun r s =>
      let s := when (r.children.any fun c => c.source == peer) (sendKeepalive (selfKey r) peer) s
      when ((parentsOf r s).contains peer) (sendBeacon (selfKey r) peer) s) s

/-- The peer is at the other end of one of the block's links. -/
def isPeer (peer : Nat) (s : State) : Bool :=
  if !s.fuse.plaza then s.place.parent == some peer
  else s.roles.any fun r => (r.children.any fun c => c.source == peer) || (parentsOf r s).contains peer

/-- `KEEPALIVE_DUE`: a link on which nothing has been sent for 1 ms of ft gets a beacon or a keepalive (R153). -/
def execKeepaliveDue (peer : Nat) (s : State) : Host.Outcome State Fault Refusal :=
  run (fun s =>
    if !isPeer peer s || !timeValid s || !engineUp 12 s then s
    else linkMessages peer (untilLive (tget 0 peer s.place.sentAt - 1 + 1000000) s)) s

/-- `LINK_SILENCE`: a Leaf reports its parent's silence and goes on to its next entry; a chip marks the peer silent (R153,
R154). -/
def execLinkSilence (peer : Nat) (s : State) : Host.Outcome State Fault Refusal :=
  run (fun s =>
    if !isPeer peer s || !timeValid s then s
    else
      let s := untilLive (tget 0 peer s.place.heardAt - 1 + silenceLimit s) s
      if !s.fuse.plaza then
        nextTry (raise Config.silenceCode (roleKey 1 (sourceNum peer)) 0
          (onPlace (fun p => { p with parent := none, silent := addOnce peer p.silent }) s))
      else onPlace (fun p => { p with silent := addOnce peer p.silent }) s) s

/-- Live instant at which a Forum replica was last heard. -/
def lastForum (s : State) : Nat :=
  listMax ([0, 1, 2].map fun r => tget 0 (replicaKey forumSource r) s.place.heardAt)

/-- `FORUM_SILENCE`: after 10 ms without any Forum replica a Quarter replica turns to the successors, and sends them what
it still owns (R160). -/
def execForumSilence (s : State) : Host.Outcome State Fault Refusal :=
  run (fun s =>
    match findRole .quarter s with
    | none => s
    | some r =>
      if !timeValid s || s.place.redirected then s
      else
        let s := untilLive (lastForum s - 1 + 10000000) s
        let s := onPlace (fun p => { p with redirected := true }) s
        forEach (parentsOf r s) (fun p s =>
          sendBeacon (selfKey r) p (forEach r.sent (fun x => enqueueLedger x.record p true) s)) s) s

/-- `LIVENESS_HOLD_COMPLETE`: after 10 s of continuous liveness the leader lists a chip again, and a stand-in releases that
tray's Leaves to it (R161; for the stand-in's instant DEDUCED, assumption 23). -/
def execLivenessHoldComplete (tray : Nat) (s : State) : Host.Outcome State Fault Refusal :=
  run (fun s =>
    if !s.fuse.plaza || !timeValid s || !engineUp 12 s then s
    else
      let since := tget 0 tray s.place.liveSince
      let s :=
        if since ≠ 0 ∧ isLeader s then
          let s := untilLive (since - 1 + 10000000000) s
          issueTable (onPlace (fun p => { p with liveSince := tdel tray p.liveSince }) s)
        else s
      releaseLeaves (foreignOf tray s) (plazaSource tray) s) s

end Sys2Proof.Machine
end

