-- ==== Sys2Proof/Machine/ArcadeCmd.lean ====
section
/-!
DEFINITION. Commands of group 0x08 for the Arcade, and the events of memory ports, segments and holds (R234 to R246, R256 to
R258, R407).
-/

namespace Sys2Proof.Machine

/-! ## Commands -/

/-- Segments that hold something and are not lost. -/
def liveSegments (s : State) : List Segment := s.arc.segments.filter fun g => !g.lost

/-- Bytes held by holds. -/
def heldBytes (s : State) : Nat := segmentBytes * ((liveSegments s).filter (·.held)).length

/-- `ARCADE_STATUS` (0x0801). -/
def execArcadeStatus (r : Req) (s : State) : Host.Outcome State Fault Refusal :=
  run (serve { code := 0x0801, allow := { s := true }, only := .plaza } r true
    (engineServed 13 fun s =>
      done [f8 0 ((livePorts s).foldl (fun n p => n + 2 ^ p) 0),
            f64 8 (segmentBytes * segmentsPerPort * (livePorts s).length - heldBytes s), f64 0x10 s.arc.ingestLast,
            f64 0x18 (listMin 0 ((liveSegments s).map (·.firstFt))), f64 0x20 s.arc.skippedTotal, f8 0x28 s.arc.holds.length,
            f64 0x30 (heldBytes s)] s)) s

/-- A segment of the named logs overlaps a range of ft. -/
def inHold (logs : BitVec 8) (a b : Nat) (g : Segment) : Bool :=
  !g.lost && logs.getLsbD g.log && !g.entries.isEmpty && a ≤ g.lastFt && g.firstFt ≤ b

/-- `ARCADE_HOLD` (0x0802): the segments that exist now and overlap the range (R245). -/
def execArcadeHold (r : Req) (logs : BitVec 8) (ftFirst ftLast : Nat) (s : State) : Host.Outcome State Fault Refusal :=
  run (serve { code := 0x0802, allow := {}, only := .plaza } r (logs.toNat < 32 && ftFirst ≤ ftLast)
    (engineServed 13 fun s =>
      let gs := s.arc.segments.filter (inHold logs ftFirst ftLast)
      let fresh := gs.filter fun g => !g.held
      if 8 ≤ s.arc.holds.length then deny Config.busy s
      else if 2 ^ 40 < heldBytes s + segmentBytes * fresh.length then deny Config.noSpace s
      else
        let lo := listMin 0 (gs.map (·.firstFt))
        let hi := listMax (gs.map (·.lastFt))
        let h : Hold := { id := s.arc.nextHold % 256, segs := gs.map (·.seq), firstFt := lo, lastFt := hi,
                          bytes := segmentBytes * gs.length, ends := s.time.timer + 3600000000000 }
        let mark (g : Segment) : Segment := if h.segs.contains g.seq then { g with held := true } else g
        done [f8 0 h.id, f64 8 lo, f64 0x10 hi, f64 0x18 h.bytes]
          (onArc (fun a => { a with
            holds := a.holds ++ [h], nextHold := a.nextHold + 1, segments := a.segments.map mark }) s))) s

/-- A hold ends: its segments that no other hold names may be reclaimed again. -/
def endHold (id : Nat) (s : State) : State :=
  let rest := s.arc.holds.filter fun h => h.id != id
  let unmark (g : Segment) : Segment := { g with held := g.held && rest.any fun h => h.segs.contains g.seq }
  onArc (fun a => { a with holds := rest, segments := a.segments.map unmark }) s

/-- `ARCADE_RELEASE` (0x0803). -/
def execArcadeRelease (r : Req) (holdId : Nat) (s : State) : Host.Outcome State Fault Refusal :=
  run (serve { code := 0x0803, allow := {}, only := .plaza } r true
    (engineServed 13 fun s =>
      if s.arc.holds.any fun h => h.id == holdId then done [] (endHold holdId s) else deny Config.notFound s)) s

/-- `ARCADE_PORT_RESTORE` (0x0804): a repaired port returns to rotation, empty (R257). -/
def execArcadePortRestore (r : Req) (port : Nat) (s : State) : Host.Outcome State Fault Refusal :=
  run (serve { code := 0x0804, allow := {}, only := .plaza } r (port < 8)
    (engineServed 13 fun s =>
      if s.fence.getLsbD (Config.memFenceLine port % 256) then deny Config.wrongState s
      else done [] (onArc (fun a => { a with
        deadPorts := a.deadPorts.filter (· != port),
        segments := if a.deadPorts.contains port then a.segments.filter (fun g => g.port != port) else a.segments }) s))) s

/-- What one merged Plaza record says of a tray's slots: slot, chip tray, frame. -/
def carriedBy (tray lo hi : Nat) (e : ArcEntry) : List (Nat × Nat × Nat) :=
  match e.data with
  | .ledger l =>
    if l.tier = 1 ∧ lo ≤ l.frame ∧ l.frame ≤ hi then
      (l.children.filter fun c => sourceKind c.child == 0 && trayOf c.child == tray && (c.state == 0 || c.state == 4)).map
        fun c => (slotOf c.child, sourceNum l.source, l.frame)
    else []
  | _ => []

/-- One slot and carrying chip with the first and last frame. -/
def addCarried (x : Nat × Nat × Nat) : List (Nat × Nat × Nat × Nat) → List (Nat × Nat × Nat × Nat)
  | [] => [(x.1, x.2.1, x.2.2, x.2.2)]
  | y :: t =>
    if y.1 = x.1 ∧ y.2.1 = x.2.1 then (y.1, y.2.1, min y.2.2.1 x.2.2, max y.2.2.2 x.2.2) :: t
    else if x.1 < y.1 ∨ (x.1 = y.1 ∧ x.2.1 < y.2.1) then (x.1, x.2.1, x.2.2, x.2.2) :: y :: t
    else y :: addCarried x t

/-- `ARCADE_LOCATE` (0x0805): which chips carried a tray's slots over a range of frames (R258). -/
def execArcadeLocate (r : Req) (desc : Desc) (tray frameFirst frameLast : Nat) (s : State) : Host.Outcome State Fault Refusal :=
  run (serve { code := 0x0805, allow := { s := true }, only := .plaza } r (tray < 1024 && frameFirst ≤ frameLast)
    (engineServed 13 fun s =>
      let hosts : Bool := match findRole .quarter s with
        | none => false
        | some q => q.number == quarterOf tray
      if !hosts then deny Config.wrongState s
      else
        let xs := ((liveSegments s).flatMap (·.entries)).flatMap (carriedBy tray frameFirst frameLast)
        let es := xs.foldl (fun l x => addCarried x l) []
        outputReply r desc (32 * es.length) (.locate es) s)) s

/-! ## Events -/

/-- An operation ended in error: counted against its port; while the port lives, it is issued again, a write from its staged
copy (R244, R256; of a read, DESIGN CHOICE, assumption 146). -/
def opFailed (o : MemOp) (s : State) : State :=
  let s := portError o.port s
  if s.arc.deadPorts.contains o.port then s
  else
    let s := onArc (fun a => { a with
      ops := a.ops.filter (fun x => !(x.port == o.port && x.tag == o.tag)), waiting := { o with tag := 0 } :: a.waiting }) s
    issueWaiting s.arc.waiting.length s

/-- `MEM_RESPONSE`: the operation is over, a write with its staged copy and a read for its engine, or ends in error (R15, R237,
R244, R254, R256). -/
def execMemResponse (port tag : Nat) (err : Bool) (s : State) : Host.Outcome State Fault Refusal :=
  run (fun s =>
    match s.arc.ops.find? fun o => o.port == port && o.tag == tag with
    | none => s
    | some o => if err then opFailed o s else opDone o s) s

/-- `MEM_OP_TIMEOUT`: 100 ms without an answer count as one uncorrectable error (R256). -/
def execMemOpTimeout (port tag : Nat) (s : State) : Host.Outcome State Fault Refusal :=
  run (fun s =>
    match s.arc.ops.find? fun o => o.port == port && o.tag == tag with
    | none => s
    | some o => opFailed o (untilTimer (o.issued + 100000000) s)) s

/-- Queries that are running end with `HOLES` once no port is live (R257); they complete as their engines do. -/
def holeQueries (s : State) : State :=
  let mark (q : QueryState) : QueryState := if q.running then { q with holes := true } else q
  when (livePorts s).isEmpty (onArc fun a => { a with queries := a.queries.map mark }) s

/-- `MEM_LINK_LOSS`: a port whose link falls has failed (R256). -/
def execMemLinkLoss (port : Nat) (s : State) : Host.Outcome State Fault Refusal :=
  run (fun s => holeQueries (failPort port s)) s

/-- `SEGMENT_SEAL_TIMEOUT`: 1 s of ft after its first entry an open segment is sealed (R239). -/
def execSegmentSealTimeout (log : Nat) (s : State) : Host.Outcome State Fault Refusal :=
  run (fun s =>
    match openSegment log s with
    | none => s
    | some g => if g.entries.isEmpty || !timeValid s then s else sealLog log (untilFt (g.firstFt + 1000000000) s)) s

/-- `ARCADE_HOLD_EXPIRY`: a hold ends 1 h after its acceptance (R245). -/
def execArcadeHoldExpiry (holdId : Nat) (s : State) : Host.Outcome State Fault Refusal :=
  run (fun s =>
    match s.arc.holds.find? fun h => h.id == holdId with
    | none => s
    | some h => endHold holdId (untilTimer h.ends s)) s

end Sys2Proof.Machine
end

