-- ==== Sys2Proof/Machine/Backscan.lean ====
section
/-!
DEFINITION. Backscan queries: submission, start, evaluation and end (R247 to R255).
-/

namespace Sys2Proof.Machine

/-! ## Items (R249) -/

/-- An item of a record, with whether a comparison may match it, its partition or job and its die. -/
structure Item where
  item : ResultItem
  plain : Bool
  part : Option Nat
  job : Option Nat
  model : Option Nat
  entry : ArcEntry
deriving DecidableEq, Repr

/-- Flags of an item from its entry: late-after-final, foreign, inexact, bad. -/
def itemFlags (e : ArcEntry) (inexact bad : Bool) : Nat :=
  bnat e.lateAfterFinal + 2 * bnat e.foreign + 4 * bnat inexact + 8 * bnat bad

/-- One item. -/
def mkItem (e : ArcEntry) (src kind sel epoch frame : Nat) (value : Int) (inexact bad : Bool) (part job model : Option Nat) :
    Item :=
  { item := { source := src, mkind := kind, mflags := itemFlags e inexact bad, selector := sel, epoch := epoch, frame := frame,
              value := value },
    plain := !inexact && !bad, part := part, job := job, model := model, entry := e }

/-- The item of a report; its frame is the one in which its ft lies at the present period (R249 gives a report none; DESIGN
CHOICE, assumption 145). -/
def reportItem (e : ArcEntry) (r : Report) (frame : Nat) : Item :=
  mkItem e r.reporter 6 r.code r.epoch frame (r.count : Int) false false none none none

/-- The items of a stored record, each with its source, epoch and frame. -/
def itemsOf (e : ArcEntry) (s : State) : List Item :=
  match e.data with
  | .ledger l =>
    (l.counters.map fun c => mkItem e l.source 1 c.index l.epoch l.frame (c.delta : Int) false
      (c.flags.getLsbD 3 || c.flags.getLsbD 4) (some c.partition) none none)
    ++ (l.sums.map fun x => mkItem e l.source 1 x.index l.epoch l.frame (x.sum : Int) false false (some x.partition) none none)
    ++ (l.gauges.map fun g => mkItem e l.source 2 g.index l.epoch l.frame
          (if g.signed then toSigned 32 g.value else (g.value : Int)) g.inexact false (some g.partition) none none)
    ++ l.alerts.filterMap fun a => match a with
        | .report r => some (reportItem e r (frameAt r.ft s))
        | .storm _ => none
  | .series r =>
    (r.series.map fun x => mkItem e r.die 3 x.sindex r.epoch r.frame x.value x.inexact x.missing none none none)
    ++ r.late.map fun x => mkItem e r.die 4 x.marker r.epoch r.frame x.lateness false (x.lkind != 0 && x.lkind != 3) none
        (some r.job) none
  | .scores r =>
    (r.scores.filter fun x => !x.scflags.getLsbD 5).map fun x =>
      mkItem e x.die 5 x.model r.epoch x.sframe x.value false (x.scflags.getLsbD 1 || x.scflags.getLsbD 2) none none (some x.model)
  | .report r => [reportItem e r (frameAt r.ft s)]
  | _ => []

/-- The comparison of a predicate (R249). -/
def opHolds (op : Nat) (v operand : Int) : Bool :=
  match op with
  | 0 => true
  | 1 => v == operand
  | 2 => v != operand
  | 3 => decide (v < operand)
  | 4 => decide (v ≤ operand)
  | 5 => decide (operand < v)
  | 6 => decide (operand ≤ v)
  | _ => (BitVec.ofInt 64 v &&& BitVec.ofInt 64 operand) != 0#64

/-- An item satisfies a predicate. -/
def satisfies (p : Pred) (x : Item) : Bool :=
  p.pkind == 0 || (x.item.mkind == p.pkind && p.selFirst ≤ x.item.selector && x.item.selector ≤ p.selLast
    && (p.op == 0 || (x.plain && opHolds p.op x.item.value p.operand)))

/-! ## What a query sees (R247, R250 to R252) -/

/-- The end of the range, clipped to the instant before the snapshot point. -/
def lastFtOf (q : QueryState) : Nat := min q.query.ftLast (q.startFt.getD 0 - 1)

/-- The source of an entry as the query selects it: dies by tray and slot, roles only while every slot is selected. -/
def sourceSelected (q : Query) (foreign : Bool) (src : Nat) : Bool :=
  if sourceKind src = 0 then
    trayOf src == q.tray && (q.dies == 0 || q.dies.getLsbD (slotOf src)) && (!foreign || q.qflags.getLsbD 1)
  else q.dies == 0 && (sourceKind src != 1 || sourceNum src == q.tray)

/-- The segments that a query reads, with their logs: of its logs and of this epoch, with arrivals in its range, in `SEG_SEQ` order (R242, R246).
The time index and the directory lead there. -/
def querySegments (q : QueryState) (s : State) : List (Nat × Nat) :=
  ((liveSegments s).filter fun g => bitOf q.query.logs.toNat g.log && g.epoch == s.epoch && !g.entries.isEmpty
    && q.query.ftFirst ≤ g.lastFt && g.firstFt ≤ lastFtOf q).map fun g => (g.seq, g.log)

/-- Each engine takes a contiguous part of the segments (R254). -/
def dealScans (engines : Nat) (segs : List Nat) : List Scan :=
  let n := segs.length
  (List.range engines).map fun j =>
    let a := j * n / engines
    { engine := j, todo := (segs.drop a).take ((j + 1) * n / engines - a), cur := none }

/-- The segments that the engines of a query have still to read. -/
def unread (q : QueryState) : List Nat := q.scans.flatMap fun c => (c.cur.map (·.1)).toList ++ c.todo

/-- The entries of a segment. -/
def entriesOf (seq : Nat) (s : State) : List ArcEntry :=
  ((liveSegments s).filter fun g => g.seq == seq).flatMap (·.entries)

/-- What the engines have read when a query ends: all of its segments, or where it ends early those read whole and of each one
begun a number of entries that nothing gives (R253, R255). -/
def readBy (early : Bool) (q : QueryState) (s : State) : List (Nat × ArcEntry) × State :=
  if early then
    (q.scans.filterMap (·.cur)).foldl (fun acc x =>
      let (k, s) := draw acc.2
      let es := entriesOf x.1 s
      (acc.1 ++ (es.take (k % (es.length + 1))).map fun e => (x.1, e), s)) (q.seen, s)
  else (q.seen ++ (unread q).flatMap fun x => (entriesOf x s).map fun e => (x, e), s)

/-- Entries that a query has read in its range: arrival and late flag. -/
def entriesFor (q : QueryState) : List ArcEntry :=
  ((q.segs.flatMap fun x => q.seen.filter fun e => e.1 == x.1).map (·.2)).filter fun e =>
    q.query.ftFirst ≤ e.arrival && e.arrival ≤ lastFtOf q && (!e.lateAfterFinal || q.query.qflags.getLsbD 0)

/-- The powered epoch of the producer of a stored record, where the record carries one. -/
def epochOfEntry (e : ArcEntry) : Option Nat :=
  match e.data with
  | .ledger l => some l.epoch
  | .series r => some r.epoch
  | .scores r => some r.epoch
  | .features r => some r.epoch
  | .digests r => some r.epoch
  | .report r => some r.epoch
  | .storm x => some x.epoch
  | .dump d => some d.epoch
  | .adopt m => some m.epoch
  | _ => none

/-- An entry of a die from an epoch before the die's latest among the entries in range; tier records are not clipped
(R251). -/
def fromEarlier (l : List ArcEntry) (e : ArcEntry) : Bool :=
  sourceKind e.source == 0 && match epochOfEntry e with
    | none => false
    | some n => n < listMax ((l.filter fun x => x.source == e.source).filterMap epochOfEntry)

/-- A tenant's query sees items of its own partition alone (R252). -/
def tenantSees (i : Issuer) (x : Item) (s : State) : Bool :=
  if !isTenant i then true
  else
    let p := issuerPart i
    match x.item.mkind with
    | 1 => x.part == some p
    | 2 => x.part == some p
    | 4 => (match x.job with | none => false | some j => tget 0 j s.conf.jobs == p)
    | 5 => (match x.model with
            | none => false
            | some m => (s.tree.slots ++ s.tree.headers).any fun t => t.image.model == m && t.image.partition == p)
    | _ => false

/-- Ascending (frame, source, selector). -/
def itemLe (a b : Item) : Bool :=
  a.item.frame < b.item.frame || (a.item.frame == b.item.frame && (a.item.source < b.item.source
    || (a.item.source == b.item.source && a.item.selector ≤ b.item.selector)))

/-- An item in its place. -/
def insertItem (x : Item) : List Item → List Item
  | [] => [x]
  | y :: t => if itemLe y x then y :: insertItem x t else x :: y :: t

/-- The items of an entry that a query may see: of the dies selected, and of a tenant's own partition. -/
def itemsSeen (q : QueryState) (s : State) (e : ArcEntry) : List Item :=
  (itemsOf e s).filter fun x => sourceSelected q.query e.foreign x.item.source && tenantSees q.issuer x s

/-! ## A trace stream after a break (R326) -/

/-- What a stored packet of a trace stream holds. -/
def traceBytes (e : ArcEntry) : List Byte :=
  match e.data with
  | .raw _ _ bytes => bytes
  | _ => []

/-- The stored trace of a source as a query has read it, in runs between the segments that were skipped or not read. -/
def traceRuns (q : QueryState) (source : Nat) : List (List ArcEntry) :=
  ((q.segs.filter fun x => x.2 == 2).foldl (fun (acc : List (List ArcEntry) × List ArcEntry) x =>
    let es := (q.seen.filter fun e => e.1 == x.1).map (·.2)
    if es.isEmpty then (acc.1 ++ [acc.2], []) else (acc.1, acc.2 ++ es.filter fun e => e.source == source)) ([], [])
    |> fun acc => acc.1 ++ [acc.2])

/-- The entries of a run that end before a place in its bytes. -/
def entriesBefore : Nat → List ArcEntry → List ArcEntry
  | _, [] => []
  | x, e :: t => if (traceBytes e).length ≤ x then e :: entriesBefore (x - (traceBytes e).length) t else []

/-- The entries of a run that follows a break in which no block can be told: those before the place at which alignment is
declared, and all of them where it is nowhere (R326). -/
def unaligned (run : List ArcEntry) : List ArcEntry :=
  match alignAt (run.flatMap traceBytes) with
  | none => run
  | some x => entriesBefore x run

/-- Trace entries that a Raw query passes over, its engines having lost their place in the stream (R326). -/
def passedOver (q : QueryState) : List ArcEntry :=
  let dies := q.seen.foldl (fun l e => addOnce e.2.source l) []
  dies.flatMap fun d => (traceRuns q d).tail.flatMap unaligned

/-- The entries that a query evaluates, and those that the epoch rule excludes: a Raw query's by their source, less the trace in
which its engines have no place, else those of which it sees an item (R251, R252, R326). -/
def evaluated (q : QueryState) (s : State) : List ArcEntry × Nat :=
  let past := if q.query.qtype = 5 then passedOver q else []
  let all := (entriesFor q).filter fun e =>
    if q.query.qtype = 5 then sourceSelected q.query e.foreign e.source && !past.contains e else !(itemsSeen q s e).isEmpty
  let keep := all.filter fun e => !fromEarlier all e
  (keep, all.length - keep.length)

/-- The precursor's match: the earliest by frame and then by arrival (R248). -/
def precursorMatch (l : List Item) : Option Item :=
  match l with
  | [] => none
  | a :: t => some (t.foldl (fun b x =>
      if x.item.frame < b.item.frame ∨ (x.item.frame = b.item.frame ∧ x.entry.arrival < b.entry.arrival) then x else b) a)

/-- What a query finds: items, histogram, the frame of a precursor's match. -/
def findItems (q : QueryState) (items : List Item) : List Item × Option Hist × Nat × Bool :=
  let both := items.filter fun x => satisfies q.query.p0 x && satisfies q.query.p1 x
  let sorted := both.foldl (fun l x => insertItem x l) []
  match q.query.qtype with
  | 1 => (sorted, none, 0, false)
  | 2 => (sorted, none, 0, false)
  | 3 => (sorted, some (both.foldl (fun h x => Hist.enter h x.item.value) Hist.empty), 0, false)
  | 4 =>
    match precursorMatch (items.filter (satisfies q.query.p0)) with
    | none => ([], none, 0, true)
    | some m =>
      let back := items.filter fun x => satisfies q.query.p1 x && x.item.frame < m.item.frame
        && m.item.frame ≤ x.item.frame + q.query.lookback
      let it := { m with item := { m.item with mflags := m.item.mflags + 16 } }
      (it :: back.foldl (fun l x => insertItem x l) [], none, m.item.frame, false)
  | _ => ([], none, 0, false)

/-- Arcade bytes that a query's engines have read: whole segments, and the operations answered of those begun (R253). -/
def bytesScanned (early : Bool) (q : QueryState) (s : State) : Nat :=
  q.read + (if early then (q.scans.filterMap (·.cur)).foldl (fun n x => n + 256 * x.2.2.2) 0
    else ((liveSegments s).filter fun g => (unread q).contains g.seq).foldl (fun n g => n + g.fill) 0)

/-- The result of a query from what its engines have read (R253).  How far the engines of a precursor read depends on their pace,
so that its `BYTES_SCANNED` is a free value. -/
def resultOf (q : QueryState) (flags bytes : Nat) (s : State) : QueryResult × State :=
  let (entries, excluded) := evaluated q s
  let raw := if q.query.qtype = 5 then entries else []
  let (its, hist, frame, noMatch) := findItems q (entries.flatMap (itemsSeen q s))
  let n := if q.query.qtype = 5 then raw.length else its.length
  let (free, s) := draw s
  let bytes := if q.query.qtype = 4 then free else bytes
  let arrivals := (entriesFor q).map (·.arrival)
  let rflags := flags + 2 * bnat q.overwritten + 4 * bnat (excluded != 0) + 32 * bnat q.holes + 64 * bnat noMatch
  let header := [f16 0 0x4251, f8 2 1, f8 3 q.query.qtype, f32 4 q.query.queryId,
    f64 8 (listMin q.query.ftFirst arrivals), f64 0x10 (if arrivals.isEmpty then lastFtOf q else listMax arrivals),
    f64 0x18 frame, f64 0x20 bytes, f32 0x28 n, f32 0x2C q.skippedMib, f32 0x30 excluded, f8 0x36 q.query.engines]
  let out := if q.query.qtype = 2 ∨ q.query.qtype = 3 then [] else its
  let stored := q.query.qflags.getLsbD 2
  ({ header := header, rflags := rflags, items := if stored then [] else out.map (·.item),
     records := if q.query.qtype = 5 then raw
                else if stored then entries.filter fun e => out.any fun x => x.entry == e else [],
     hist := hist }, s)

/-- Bytes that a result takes in the chain. -/
def queryBytes (r : QueryResult) : Nat :=
  64 + 32 * r.items.length + r.records.foldl (fun n e => n + entrySpace e.bytes) 0
    + (match r.hist with
       | none => 0
       | some h => 80 + 8 * (if 1024 < h.buckets.length then 2048 else h.buckets.length))

/-- A query ends: its engines are free, its result is written to its chain, and it completes with the last buffer. -/
def endQuery (id flags : Nat) (early : Bool) (s : State) : State :=
  match s.arc.queries.find? fun q => q.query.queryId == id && !q.done && q.result.isNone with
  | none => s
  | some q =>
    let (seen, s) := readBy early q s
    let (res, s) := resultOf { q with seen := seen } flags (bytesScanned early q s) s
    let s := onArc (fun a => { a with ops := a.ops.filter fun o => match o.use with
      | .scan c _ => early || c != q.chain
      | _ => true }) s
    let n := queryBytes res
    let fill := min n q.desc.len
    let mark (x : QueryState) : QueryState :=
      if x.chain = q.chain then { x with running := false, result := some res, scans := [], seen := [] } else x
    let s := onArc (fun a => { a with queries := a.queries.map mark }) s
    let s := onChain q.chain (fun c => { c with cur := none, closing := some q.desc, fill := fill }) s
    bufIssue q.desc.partition (.output q.chain (n - fill) fill) (.bufRead q.desc.selfAddr) s

/-! ## Engines (R254, R255) -/

/-- Engines of queries that run. -/
def enginesBusy (sel : QueryState → Bool) (s : State) : Nat :=
  (s.arc.queries.filter fun q => q.running && sel q).foldl (fun n q => n + q.query.engines) 0

/-- Engines free: 32 less those in the Cul-de-sac and those running. -/
def enginesFree (s : State) : Nat := 32 - deadCount 5 s - enginesBusy (fun _ => true) s

/-- Queries that wait. -/
def isWaiting (q : QueryState) : Bool := q.startFt.isNone && !q.done && !q.lost && q.result.isNone

/-- The query that may start now: the oldest privileged one, else the oldest tenant's. -/
def nextQuery (s : State) : Option QueryState :=
  let tenant := s.arc.queries.find? fun q => isWaiting q && isTenant q.issuer
  let priv := s.arc.queries.find? fun q => isWaiting q && !isTenant q.issuer
  let fits (q : QueryState) : Bool := q.query.engines ≤ enginesFree s
  let pOk (q : QueryState) : Bool :=
    fits q && (tenant.isNone || enginesBusy (fun x => !isTenant x.issuer) s + q.query.engines ≤ 24)
  match priv, tenant with
  | some p, t => if pOk p then some p else t.filter fits
  | none, t => t.filter fits

/-- `BACKSCAN_START`: a query starts, its snapshot point is now, an intermediate response says so, and its engines begin to read
their parts (R250, R254, R255). -/
def execBackscanStart (s : State) : Host.Outcome State Fault Refusal :=
  run (fun s =>
    if !s.fuse.plaza || !engineUp 11 s then s
    else
      match nextQuery s with
      | none => s
      | some q =>
        let q' := { q with startFt := some s.time.ft, running := true, deadline := some (s.time.timer + 10000000000) }
        let segs := querySegments q' s
        let scans := dealScans q.query.engines (segs.map (·.1))
        let s := onQuery q.chain (fun _ => { q' with segs := segs, scans := scans }) s
        forEach scans (fun c => drive q.chain c.engine) (intermediate (.query q.query.queryId) [] s)) s

/-- `BACKSCAN_COMPLETE`: the engines finish, and the result is written (R253). -/
def execBackscanComplete (queryId : Nat) (s : State) : Host.Outcome State Fault Refusal :=
  run (fun s =>
    if engineUp 11 s && s.arc.queries.any (fun q => q.query.queryId == queryId && q.running) then endQuery queryId 0 false s
    else s) s

/-- `BACKSCAN_TIMEOUT`: 10 s after its start a query ends with `TIMEOUT` and what it has found (R255). -/
def execBackscanTimeout (queryId : Nat) (s : State) : Host.Outcome State Fault Refusal :=
  run (fun s =>
    match s.arc.queries.find? fun q => q.query.queryId == queryId && q.running with
    | none => s
    | some q => endQuery queryId 8 true (untilTimer (q.deadline.getD 0) s)) s

/-! ## Commands -/

/-- A query descriptor's own form (R247, R248). -/
def queryFormOk (q : Query) : Bool :=
  1 ≤ q.qtype && q.qtype ≤ 5 && 1 ≤ q.engines && q.engines ≤ 32 && q.qflags.toNat < 8 && q.logs.toNat < 32 && q.tray < 1024
    && (if q.qtype = 4 then 1 ≤ q.lookback && q.lookback < 1048576 else q.lookback == 0)
    && (q.qtype == 5 || (q.p0.pkind ≤ 6 && q.p1.pkind ≤ 6 && q.p0.op ≤ 7 && q.p1.op ≤ 7))

/-- What a tenant may not ask (R252). -/
def tenantQueryBad (q : Query) : Bool :=
  q.qtype == 5 || 4 ≤ q.logs.toNat || q.p0.pkind == 3 || q.p0.pkind == 6 || q.p1.pkind == 3 || q.p1.pkind == 6

/-- The queue has no room for a further query of an issuer (R255). -/
def queueFull (i : Issuer) (s : State) : Bool :=
  let w := s.arc.queries.filter isWaiting
  256 ≤ w.length || (isTenant i && 16 ≤ (w.filter fun q => isTenant q.issuer && issuerPart q.issuer == issuerPart i).length)

/-- `BACKSCAN_SUBMIT` (0x0806). -/
def execBackscanSubmit (r : Req) (queryAddr : Nat) (query : Query) (desc : Desc) (s : State) : Host.Outcome State Fault Refusal :=
  run (serve { code := 0x0806, allow := { t := true }, only := .plaza } r (queryAddr % 64 == 0)
    (engineServed 11 fun s =>
      let p := issuerPart r.issuer
      if isTenant r.issuer && tenantQueryBad query then deny Config.isolation s
      else if !inWindows p queryAddr 112 s || !descOk p desc s then deny Config.bufferFault s
      else if !queryFormOk query then deny Config.badParam s
      else if queueFull r.issuer s then deny Config.busy s
      else
        let (n, s) := chainOpen 4 0 desc.partition desc s
        let query := if isTenant r.issuer then { query with engines := min 4 query.engines } else query
        let q : QueryState :=
          { query := query, issuer := r.issuer, tag := r.tag, chain := n, desc := desc, startFt := none, result := none,
            deadline := none, running := false, done := false, lost := false, overwritten := false, holes := false, skippedMib := 0,
            segs := [], scans := [], seen := [], read := 0 }
        later (.query query.queryId) (onArc (fun a => { a with queries := a.queries ++ [q] }) s))) s

/-- A query that an issuer may name. -/
def mayName (i : Issuer) (q : QueryState) : Bool := !isTenant i || (isTenant q.issuer && issuerPart q.issuer == issuerPart i)

/-- `BACKSCAN_CANCEL` (0x0807): the query ends with `CANCELLED` and what it has found (R255). -/
def execBackscanCancel (r : Req) (queryId : Nat) (s : State) : Host.Outcome State Fault Refusal :=
  run (serve { code := 0x0807, allow := { t := true }, only := .plaza } r true
    (engineServed 11 fun s =>
      if s.arc.queries.any fun q => q.query.queryId == queryId && !q.done && q.result.isNone && mayName r.issuer q then
        (s, { status := Config.ok, after := endQuery queryId 16 true })
      else deny Config.notFound s)) s

/-- State of a query: 0 queued, 1 running, 2 done, 3 lost. -/
def queryCode (q : QueryState) : Nat := if q.lost then 3 else if q.done then 2 else if isWaiting q then 0 else 1

/-- `BACKSCAN_STATUS` (0x0808). -/
def execBackscanStatus (r : Req) (queryId : Nat) (s : State) : Host.Outcome State Fault Refusal :=
  run (serve { code := 0x0808, allow := { s := true, t := true }, only := .plaza } r true
    (engineServed 11 fun s =>
      let own := s.arc.queries.filter (mayName r.issuer)
      let tail := [f16 4 (own.filter isWaiting).length, f8 6 (enginesFree s), f32 8 s.arc.queriesLost]
      if queryId = 0 then done (f8 0 0 :: tail) s
      else
        match own.reverse.find? fun q => q.query.queryId == queryId with
        | none => deny Config.notFound s
        | some q => done (f8 0 (queryCode q) :: tail) s)) s

end Sys2Proof.Machine
end

