-- ==== Sys2Proof/Machine/CohortOps.lean ====
section
/-!
DEFINITION. Calendars, strobe matching, cohorts, occurrences and straggler verdicts (R183 to R196).
-/

namespace Sys2Proof.Machine

/-! ## Calendars (R183, R184, R288, R337, R338) -/

/-- Ascending numbers, equal ones allowed. -/
def ascends : List Nat → Bool
  | a :: b :: t => a ≤ b && ascends (b :: t)
  | _ => true

/-- No number twice. -/
def noRepeat : List Nat → Bool
  | [] => true
  | a :: t => !t.contains a && noRepeat t

/-- Spans follow one another without overlap. -/
def disjointSpans : List (Nat × Nat) → Bool
  | a :: b :: t => a.1 + a.2 ≤ b.1 && disjointSpans (b :: t)
  | _ => true

/-- A miss limit of 0 is the frame period at the load (R183). -/
def fixMiss (s : State) (i : CalImage) : CalImage :=
  { i with markerSections := i.markerSections.map fun l => l.map fun e =>
      { e with miss := if e.miss = 0 then s.grid.period else e.miss } }

/-- The markers of an image. -/
def markersOf (i : CalImage) : List MarkerEntry := i.markerSections.flatten

/-- The marker section passes R182 and R183. -/
def markersOk (i : CalImage) : Bool :=
  let ms := markersOf i
  1 ≤ ms.length && ms.length ≤ 16384 && 1000 ≤ i.step && i.step ≤ 2 ^ 40
    && noRepeat (ms.map (·.mid)) && ascends (ms.map (·.offset))
    && ms.all fun e => e.offset < i.step && 2000 * e.miss < i.step && e.mid != 0xFFFFFF

/-- A gate section passes R337 and R338. -/
def gatesOk (i : CalImage) (g : GateSection) : Bool :=
  g.checkOk && g.port ≤ 11 && g.job == i.job && 1 ≤ g.rate && g.rate ≤ 10000 && 1 ≤ g.gates.length
    && g.gates.length ≤ 4096 && ascends (g.gates.map (·.1)) && disjointSpans g.gates
    && g.gates.all fun e => e.1 < i.step && e.1 + e.2 ≤ i.step

/-- A quiet-window section passes R288. -/
def quietOk (i : CalImage) (q : List QuietWin) : Bool :=
  q.length ≤ 4096 && ascends (q.map (·.offset))
    && q.all fun w => w.offset < i.step && w.offset + w.len ≤ i.step && w.unitFirst ≤ w.unitLast

/-- A calendar image is accepted (R183, R338). -/
def calOk (i : CalImage) (s : State) : Bool :=
  i.checksOk && i.markerSections.length == 1 && i.gateSections.length == 1 && i.quietSections.length ≤ 1
    && i.die == s.die && markersOk (fixMiss s i) && i.gateSections.all (gatesOk i) && i.quietSections.all (quietOk i)
    && gatesLongEnough s.upl.kerbMargin i

/-- The longest interval between consecutive gate openings of a step repeated (R338). -/
def longestGap (step : Nat) (starts : List Nat) : Nat :=
  match starts with
  | [] => 0
  | a :: t => ((t ++ [a + step]).foldl (fun p b => (b, max p.2 (b - p.1))) (a, 0)).2

/-- An image enters the pending slot (R183, R184, R338). -/
def loadCalendar (i : CalImage) (s : State) : State :=
  let s := onConf (fun c => { c with pending := some (fixMiss s i), armed := none }) s
  when (i.gateSections.any fun g => 1000000 < longestGap i.step (g.gates.map (·.1))) (raise 0x0C03 (uplinkKey s) 0) s

/-! ## Matching (R185, R186) -/

/-- E(k) of a marker entry. -/
def expectedAt (cal : Calendar) (e : MarkerEntry) (k : Nat) : Nat := cal.anchor + k * cal.image.step + e.offset

/-- The occurrence k of a calendar exists: within `STEPS`, and before the anchor of the calendar that has replaced it
(R184). -/
def occExists (cal : Calendar) (e : MarkerEntry) (before : Option Nat) (k : Nat) : Bool :=
  (cal.image.steps == 0 || k < cal.image.steps)
    && (match before with
        | none => true
        | some a => expectedAt cal e k < a)

/-- The occurrence whose E is nearest an instant, the lower of two (R186). -/
def nearestOcc (cal : Calendar) (e : MarkerEntry) (t : Nat) : Nat :=
  let base := cal.anchor + e.offset
  if t ≤ base ∨ cal.image.step = 0 then 0
  else
    let k := (t - base) / cal.image.step
    if cal.image.step < 2 * (t - base - k * cal.image.step) then k + 1 else k

/-- The last occurrence of a calendar before the anchor of the one that has replaced it. -/
def lastBefore (cal : Calendar) (e : MarkerEntry) (a : Nat) : Nat :=
  let base := cal.anchor + e.offset
  if cal.image.step = 0 then 0 else (a - 1 - base) / cal.image.step

/-- Which calendar a marker is matched under: the active one, or the old one with the anchor that ended it. -/
structure Under where
  cal : Calendar
  before : Option Nat
deriving DecidableEq, Repr

/-- The state of a marker of which no occurrence has been resolved (R186). -/
def MatchState.start : MatchState := { last := none, openOcc := 0 }

/-- The matching state of a marker. -/
def markOf (u : Under) (mid : Nat) (s : State) : MatchState :=
  match u.before with
  | none => tget MatchState.start mid s.conf.marks
  | some a => match s.conf.old.find? fun o => o.ends == a with
    | none => MatchState.start
    | some o => tget MatchState.start mid o.marks

def setMark (u : Under) (mid : Nat) (m : MatchState) (s : State) : State :=
  match u.before with
  | none => onConf (fun c => { c with marks := tput MatchState.start mid m c.marks }) s
  | some a =>
    let f (o : OldCalendar) : OldCalendar := if o.ends = a then { o with marks := tput MatchState.start mid m o.marks } else o
    onConf (fun c => { c with old := c.old.map f }) s

/-- An occurrence is resolved now (R188, R189). -/
def resolve (e : MarkerEntry) (kind occ : Nat) (lateness : Int) (s : State) : State :=
  onConf (fun c => { c with late := c.late ++
    [(s.time.ft, { marker := e.mid, lkind := kind, cls := e.cls, occ := occ % 2 ^ 32, lateness := lateness })] }) s

/-- An occurrence without a strobe is missed, or missing when a strobe was dropped in its reach (R185, R186). -/
def declareMissed (u : Under) (e : MarkerEntry) (k : Nat) (s : State) : State :=
  let lost := s.conf.dropFts.any fun t => 2 * expectedAt u.cal e k ≤ 2 * t + u.cal.image.step && t ≤ s.time.ft
  resolve e (if lost then 2 else 1) k 0 s

/-- An unknown strobe (R186, R187). -/
def countUnknown (s : State) : State :=
  let s := onConf (fun c => { c with unknown := c.unknown + 1, unknownFrame := c.unknownFrame + 1 }) s
  when (1000 < s.conf.unknownFrame) (raise 0x0607 (dieKey s.die) 0) s

/-- An old calendar to match under. -/
def underOld (o : OldCalendar) : Under := { cal := o.cal, before := some o.ends }

/-- The calendar that a strobe captured at an instant belongs to: the one in force then (R184, R199). -/
def calendarFor (t : Nat) (valid : Bool) (s : State) : Option Under :=
  match s.conf.active with
  | none => none
  | some a =>
    if valid && t < a.anchor then
      match s.conf.old.find? fun o => o.cal.anchor ≤ t with
      | some o => some (underOld o)
      | none => s.conf.old.getLast?.map underOld
    else some { cal := a, before := none }

/-- A strobe with valid time is matched to its nearest occurrence (R186). -/
def matchAt (u : Under) (e : MarkerEntry) (t : Nat) (s : State) : State :=
  let m := markOf u e.mid s
  let low := match m.last with
    | none => 0
    | some l => l + 1
  let k0 := max low (nearestOcc u.cal e t)
  let k := match u.before with
    | none => k0
    | some a => min k0 (lastBefore u.cal e a)
  if k < low ∨ occExists u.cal e u.before k = false then countUnknown s
  else
    let s := forEach ((List.range (k - m.openOcc)).map (· + m.openOcc)) (fun j => declareMissed u e j) s
    let s := resolve e (if k < m.openOcc then 3 else 0) k ((t : Int) - (expectedAt u.cal e k : Nat)) s
    setMark u e.mid { last := some k, openOcc := max m.openOcc (k + 1) } s

/-- A strobe taken while time was not valid goes to the lowest open occurrence (R37, R186). -/
def matchInvalid (u : Under) (e : MarkerEntry) (s : State) : State :=
  let m := markOf u e.mid s
  setMark u e.mid { last := some m.openOcc, openOcc := m.openOcc + 1 }
    (resolve e 4 m.openOcc 0 (onConf (fun c => { c with invalidStrobes := c.invalidStrobes + 1 }) s))

/-- One strobe is matched. -/
def matchStrobe (x : Nat × Nat × Bool) (s : State) : State :=
  match calendarFor x.2.1 x.2.2 s with
  | none => countUnknown s
  | some u =>
    match (markersOf u.cal.image).find? fun e => e.mid == x.1 with
    | none => countUnknown s
    | some e => if x.2.2 then matchAt u e x.2.1 s else matchInvalid u e s

/-- A marker of an old calendar has an occurrence that is open. -/
def oldOpen (o : OldCalendar) : Bool :=
  (markersOf o.cal.image).any fun e => occExists o.cal e (some o.ends) (tget MatchState.start e.mid o.marks).openOcc

/-- The armed calendar becomes active at its anchor, the previous one ceases and idle grants end (R184, R289). -/
def activate (i : CalImage) (a : Nat) (s : State) : State :=
  let ceased : List OldCalendar := match s.conf.active with
    | none => []
    | some c => [{ cal := c, ends := a, marks := s.conf.marks }]
  onTest (fun t => { t with grants := [] })
    (onConf (fun c => { c with
      old := ceased ++ c.old.filter oldOpen, active := some { image := i, anchor := a }, marks := [], pending := none,
      armed := none }) s)

/-- An anchor that ft has reached has taken effect before a strobe is matched (R184). -/
def activateDue (s : State) : State :=
  match s.conf.pending, s.conf.armed with
  | some i, some a => when (timeValid s && a ≤ s.time.ft) (activate i a) s
  | _, _ => s

/-- Strobes that wait are matched, oldest first. -/
def drainStrobes (s : State) : State :=
  let s := activateDue s
  forEach s.conf.strobes matchStrobe (onConf (fun c => { c with strobes := [] }) s)

/-- The marker's lowest open occurrence: an old calendar's first, the oldest before the others, while one of its own is open. -/
def openUnder (mid : Nat) (s : State) : Option (Under × MarkerEntry) :=
  let tryCal (u : Under) : Option (Under × MarkerEntry) :=
    match (markersOf u.cal.image).find? fun e => e.mid == mid with
    | none => none
    | some e => if occExists u.cal e u.before (markOf u mid s).openOcc then some (u, e) else none
  match s.conf.active with
  | none => none
  | some a =>
    match s.conf.old.reverse.findSome? fun o => tryCal (underOld o) with
    | some x => some x
    | none => tryCal { cal := a, before := none }

/-- The deadline of a marker's lowest open occurrence passes: a strobe at the deadline still counts (R186, R199). -/
def passDeadline (mid : Nat) (s : State) : State :=
  let s := drainStrobes s
  match openUnder mid s with
  | none => s
  | some (u, e) =>
    let m := markOf u mid s
    let s := untilFt (expectedAt u.cal e m.openOcc + 1000 * e.miss + 1) s
    setMark u mid { m with openOcc := m.openOcc + 1 } (declareMissed u e m.openOcc s)

/-- ft reaches the anchor of the armed calendar (R184). -/
def activateCalendar (s : State) : State :=
  match s.conf.pending, s.conf.armed with
  | some i, some a => when (timeValid s) (fun s => activate i a (untilFt a s)) s
  | _, _ => s

/-! ## Cohort rules (R190, 0x0606) -/

/-- The rule that a job without one of its own uses (R190). -/
def defaultRule (job : Nat) : CohortRule :=
  { job := job, rule := 0, scope := 0, classMask := 0xFFFF, q := 950000, margin := 2000, run := 4, clearRun := 4,
    minMembers := 8 }

/-- The version of a rule that a frame opening at an instant sees: the latest accepted before. -/
def ruleAt (job rule opens : Nat) (s : State) : Option CohortRule :=
  ((s.conf.rules.filter fun r => r.job == job && r.rule == rule && r.since < opens).getLast?).bind (·.value)

/-- The rules of a job for an occurrence whose first entry arrives in a frame. -/
def rulesFor (job opens : Nat) (s : State) : List CohortRule :=
  match [0, 1, 2, 3].filterMap fun k => ruleAt job k opens s with
  | [] => [defaultRule job]
  | l => l

/-- The rules of an occurrence at a scope that cover its class. -/
def covering (o : Occurrence) : List CohortRule := o.rules.filter fun r => r.classMask.getLsbD o.cls

/-! ## Verdicts (R193, R194) -/

/-- The margin in effect for a histogram of a time quality (R193). -/
def effectiveMargin (r : CohortRule) (quality : BitVec 8) : Nat :=
  if quality.toNat % 4 = 2 then max r.margin 5000 else r.margin

/-- What a rule makes of a closed histogram: the quantile, and whether members are judged. -/
def judgedBy (r : CohortRule) (h : Hist) : Option Quantile × Bool :=
  let q := Hist.quantile h r.q
  (q, h.n != 0 && r.minMembers ≤ h.n && (match q with
    | some x => x.value.isSome
    | none => false))

/-- A lateness lies beyond a threshold in Q48.16; a missed occurrence does. -/
def isCandidate (threshold : Nat) (l : Option Int) : Bool :=
  match l with
  | none => true
  | some v => (threshold : Int) < v * 65536

/-- The notice of a straggler report to the tenants of the job (R196, R366). -/
def raiseStraggler (code die job : Nat) (s : State) : State :=
  let p := tget 0 job s.conf.jobs
  let s := raise code (dieKey die) 0 s
  when (p != 0) (notify (.fault code (dieKey die)) p 0x0EF0 (reportFlds (ownReport code (dieKey die) 0 s.time.ft s))) s

/-- A die's run takes one judged occurrence (R194). -/
def stepRun (r : CohortRule) (die : Nat) (cand : Bool) (s : State) : State :=
  let same (x : Run) : Bool := x.die == die && x.job == r.job && x.rule == r.rule
  let x := (s.conf.runs.find? same).getD { die := die, job := r.job, rule := r.rule, run := 0, clear := 0, flag := false }
  let x := if cand then { x with run := x.run + 1, clear := 0 } else { x with run := 0, clear := x.clear + 1 }
  let onset := !x.flag && r.run ≤ x.run
  let cleared := x.flag && r.clearRun ≤ x.clear
  let x := { x with flag := if onset then true else if cleared then false else x.flag }
  let s := onConf (fun c => { c with runs := (c.runs.filter fun y => !same y) ++ [x] }) s
  if onset then raiseStraggler 0x0601 die r.job s
  else when cleared (raiseStraggler 0x0602 die r.job) s

/-- Every member with an entry is judged by a threshold. -/
def judgeMembers (r : CohortRule) (threshold : Nat) (entries : List (Nat × Option Int)) (s : State) : State :=
  forEach entries (fun e => stepRun r e.1 (isCandidate threshold e.2)) s

/-- A tray-scope rule on a closed occurrence. -/
def judgeTray (o : Occurrence) (r : CohortRule) (s : State) : State :=
  let (q, ok) := judgedBy r o.hist
  match q.bind (·.value) with
  | some v =>
    if ok then
      judgeMembers r (v + 65536 * effectiveMargin r o.quality) o.entries
        (onConf (fun c => { c with judged := c.judged + 1 }) s)
    else onConf (fun c => { c with unjudged := c.unjudged + 1 }) s
  | none => onConf (fun c => { c with unjudged := c.unjudged + 1 }) s

/-! ## Occurrences (R191, R192, R196) -/

/-- The key of an occurrence. -/
def isOcc (k : RoleKind) (job marker occ : Nat) (o : Occurrence) : Bool :=
  o.role == k && o.job == job && o.marker == marker && o.occ == occ

def findOcc (k : RoleKind) (job marker occ : Nat) (s : State) : Option Occurrence :=
  s.conf.occs.find? (isOcc k job marker occ)

def onOcc (k : RoleKind) (job marker occ : Nat) (f : Occurrence → Occurrence) (s : State) : State :=
  onConf (fun c => { c with occs := c.occs.map fun o => if isOcc k job marker occ o then f o else o }) s

/-- Occurrences still open. -/
def openOccs (s : State) : Nat := (s.conf.occs.filter fun o => !o.closed).length

/-- The occurrence has been closed or refused. -/
def isShut (k : RoleKind) (job marker occ : Nat) (s : State) : Bool :=
  s.conf.shut.any fun x => x.1 == k && x.2.1 == job && x.2.2.1 == marker && x.2.2.2.1 == occ

/-- An occurrence is noted as shut, for as long as its histogram is kept. -/
def shutOcc (k : RoleKind) (job marker occ : Nat) (s : State) : State :=
  let now := s.time.ft
  let span := 1000 * frameNs s
  onConf (fun c => { c with shut := (c.shut.filter fun x => now < x.2.2.2.2 + span) ++ [(k, job, marker, occ, now)] }) s

/-- An occurrence opens on its first entry; one that finds the table full is counted as unjudged (R196). -/
def openOcc (k : RoleKind) (job marker cls occ frame period : Nat) (s : State) : State :=
  if (findOcc k job marker occ s).isSome || isShut k job marker occ s then s
  else if 4096 ≤ openOccs s then
    shutOcc k job marker occ (onConf (fun c => { c with unjudged := c.unjudged + 1 }) s)
  else
    onConf (fun c => { c with occs := c.occs ++
      [{ role := k, job := job, marker := marker, cls := cls, occ := occ, firstFrame := frame,
         firstEnd := frameEnds frame period, hist := Hist.empty, quality := 0,
         rules := rulesFor job (frameOpens frame period) s, entries := [], absent := [], trays := [], closed := false,
         holdUntil := none, noticed := [], settled := [] }] }) s

/-- A member's lateness entry joins an open occurrence; a late one replaces its missed entry (R191, R192). -/
def addEntry (die : Nat) (e : LateEntry) (quality : BitVec 8) (o : Occurrence) : Occurrence :=
  let rest := o.entries.filter fun x => x.1 != die
  let q := mergeQuality o.quality quality
  match e.lkind with
  | 0 | 3 => { o with entries := rest ++ [(die, some e.lateness)], absent := o.absent.filter (· != die), quality := q }
  | 1 => { o with entries := rest ++ [(die, none)], quality := q }
  | _ => { o with absent := addOnce die o.absent, quality := q }

/-- Members of a job at the Plaza: Leaves of the census that last reported it (R191). -/
def membersOf (job end_ : Nat) (s : State) : List Nat :=
  match findRole .plaza s with
  | none => []
  | some r => ((censusOf end_ r).map (·.source)).filter fun d => tget 0 d s.conf.memberJob == job

/-- The histogram of a Plaza's occurrence: its entries, and the members without one (R191, R192). -/
def trayHist (o : Occurrence) (s : State) : Hist :=
  let h := o.entries.foldl (fun h e => match e.2 with
    | some v => Hist.enter h v
    | none => Hist.enterMissed h) Hist.empty
  let gone := (membersOf o.job o.firstEnd s).filter fun d => !(o.entries.any fun e => e.1 == d)
  Hist.enterAbsent h (gone.foldl (fun l d => addOnce d l) o.absent).length

/-- Every member has an entry or is known absent, every Leaf of the census having reported its job since the first entry's
frame (R192). -/
def plazaComplete (o : Occurrence) (s : State) : Bool :=
  match findRole .plaza s with
  | none => false
  | some r =>
    ((censusOf o.firstEnd r).map (·.source)).all fun d =>
      o.firstEnd ≤ tget 0 d s.conf.heard
        && (tget 0 d s.conf.memberJob != o.job || (o.entries.any fun e => e.1 == d) || o.absent.contains d)

/-- Trays of a role's scope that have sent a histogram of a job, with the members that the latest of them shows: a tier reads no
`JOB` of a Leaf, so that this is what it knows of the members (R191, R192; DEDUCED, assumption 135). -/
def memberTrays (r : Role) (job : Nat) (s : State) : List (Nat × Nat) :=
  (s.conf.trayMembers.filter fun x => x.1 == job && (r.kind == .forum || quarterOf x.2.1 == r.number)).map (·.2)

/-- Every tray known to have members of the job has an entry, once an occurrence of the job has closed here and so shown which
those are (R192, assumption 135). -/
def tierComplete (k : RoleKind) (o : Occurrence) (s : State) : Bool :=
  match findRole k s with
  | none => false
  | some r => (s.conf.shut.any fun x => x.1 == k && x.2.1 == o.job) && (memberTrays r o.job s).all fun t => o.trays.contains t.1

/-- A closed histogram is kept for reading (0x0603). -/
def keepHist (h : HistRecord) (s : State) : State :=
  let now := s.time.ft
  let span := 1000 * frameNs s
  onConf (fun c => { c with hists := (c.hists.filter fun x => now < x.1 + span) ++ [(now, h)] }) s

/-- A tier's histogram of an occurrence. -/
def histRecordOf (o : Occurrence) (scope source : Nat) (s : State) : HistRecord :=
  { timeQuality := o.quality, lateness := true, scope := scope, cls := o.cls, job := o.job, marker := o.marker, key := o.occ,
    source := source, frame := (match s.grid.closed with
      | some c => c.1
      | none => o.firstFrame), hist := o.hist }

/-- A histogram goes to every parent replica of a role, without its `SUM`, and to the Arcade (R181). -/
def sendHist (r : Role) (h0 : HistRecord) (s : State) : State :=
  let h := { h0 with hist := { h0.hist with sum := 0 } }
  let s := arcIngest 1 { mkEntry h.source (histBytes h).length (.hist h) s with produced := true, hosted := r.kind != .plaza } s
  forEach (parentsOf r s) (fun p =>
    enqueueSeries (selfKey r) p 0x4853 0 (histBytes h).length (recordBlocks (histBytes h) 0 0) (.histRec h)) s

/-- Time for which a Plaza holds lateness for a wider verdict, ns (R195). -/
def noticeHold : Nat := 20000000

/-- The occurrence's verdict under a rule has been given. -/
def isJudged (r : CohortRule) (o : Occurrence) : Bool := o.settled.contains (r.rule, r.scope)

/-- The notice held for a rule. -/
def noticeFor (r : CohortRule) (o : Occurrence) : Option ThresholdNotice :=
  o.noticed.find? fun n => n.rule == r.rule && n.scope == r.scope

/-- No lower occurrence of the marker waits for its verdict under the rule: verdicts go in ascending k (R194). -/
def lowestFor (r : CohortRule) (o : Occurrence) (s : State) : Bool :=
  s.conf.occs.all fun x => !(x.role == .plaza && x.job == o.job && x.marker == o.marker && x.occ < o.occ)
    || !(covering x).contains r || isJudged r x

/-- A rule's verdict on a closed occurrence: under its own histogram at tray scope, else under the notice held. -/
def giveVerdict (o : Occurrence) (r : CohortRule) (s : State) : State :=
  let s := onOcc .plaza o.job o.marker o.occ (fun o => { o with settled := o.settled ++ [(r.rule, r.scope)] }) s
  let unjudged := onConf (fun c => { c with unjudged := c.unjudged + 1 })
  if r.scope = 0 then judgeTray o r s
  else match noticeFor r o with
    | none => s
    | some n => match n.threshold with
      | some t => if n.notJudged then unjudged s else judgeMembers r t o.entries (onConf (fun c => { c with judged := c.judged + 1 }) s)
      | none => unjudged s

/-- The first verdict that can be given. -/
def verdictDue (s : State) : Option (Occurrence × CohortRule) :=
  s.conf.occs.findSome? fun o =>
    if o.role != .plaza || !o.closed then none
    else ((covering o).find? fun r =>
      !isJudged r o && (r.scope == 0 || (noticeFor r o).isSome) && lowestFor r o s).map fun r => (o, r)

/-- Every verdict that can be given is given (R194). -/
def giveVerdicts : Nat → State → State
  | 0, s => s
  | fuel + 1, s =>
    match verdictDue s with
    | none => s
    | some (o, r) => giveVerdicts fuel (giveVerdict o r s)

/-- The occurrences that the Plaza holds have had every verdict that can be given, and those of which no wider one can come any
more are held no longer (R194, R195). -/
def settleVerdicts (s : State) : State :=
  let s := giveVerdicts (4 * s.conf.occs.length + 4) s
  let finished (o : Occurrence) : Bool := o.role == .plaza && o.closed && o.holdUntil.isNone && (covering o).all fun r => isJudged r o
  onConf (fun c => { c with occs := c.occs.filter fun o => !finished o }) s

/-- A Plaza closes an occurrence: tray rules are judged; for wider ones the histogram goes up and the members' lateness is
held for a notice (R192, R194, R195).  From when its 20 ms run the manual does not say; they run from this close (DESIGN CHOICE,
assumption 136). -/
def closeAtPlaza (o : Occurrence) (r : Role) (s : State) : State :=
  let o := { o with hist := trayHist o s, closed := true }
  let wide := (covering o).any fun x => x.scope != 0
  let h := histRecordOf o 0 (roleSource r) s
  let s := shutOcc .plaza o.job o.marker o.occ (keepHist h s)
  let hold := if wide then some (s.time.timer + noticeHold) else none
  settleVerdicts (when wide (sendHist r h) (onOcc .plaza o.job o.marker o.occ (fun _ => { o with holdUntil := hold }) s))

/-- The notice that a replica sends for a rule (R195); with no entry the quantile has no value, which is free. -/
def noticeOf (o : Occurrence) (r : CohortRule) (source : Nat) (s : State) : ThresholdNotice × State :=
  let (q, ok) := judgedBy r o.hist
  let margin := effectiveMargin r o.quality
  let (v, s) := match q with
    | some x => (x.value, s)
    | none => ((some ((draw s).1 % 2 ^ 64), (draw s).2) : Option Nat × State)
  ({ notJudged := !ok, qUnder := (q.map (·.qUnder)).getD false, qOver := (q.map (·.qOver)).getD false, job := o.job,
     marker := o.marker, rule := r.rule, scope := r.scope, occ := o.occ, quantile := v, margin := margin, n := o.hist.n,
     threshold := v.map fun x => x + 65536 * margin, absent := o.hist.absent, source := source }, s)

/-- A notice goes down to the children of a role. -/
def sendNotice (r : Role) (n : ThresholdNotice) (s : State) : State :=
  forEach r.children (fun c => sendControl (selfKey r) c.source 0x5448 64 (.threshold n))
    (arcIngest 1 { mkEntry (roleSource r) 64 (.notice n) s with produced := true, hosted := true } s)

/-- Scope that a role judges at. -/
def scopeOf : RoleKind → Nat
  | .plaza => 0
  | .quarter => 1
  | .forum => 2

/-- Members of the trays of which no histogram has come (R192, assumption 135). -/
def absentTrays (o : Occurrence) (r : Role) (s : State) : Nat :=
  ((memberTrays r o.job s).filter fun t => !o.trays.contains t.1).foldl (fun n t => n + t.2) 0

/-- A Quarter or Forum replica closes an occurrence and sends its threshold down (R192, R195). -/
def closeAtTier (o0 : Occurrence) (r : Role) (s : State) : State :=
  let o := { o0 with hist := Hist.enterAbsent o0.hist (absentTrays o0 r s) }
  let s := onConf (fun c => { c with occs := c.occs.filter fun x => !isOcc r.kind o.job o.marker o.occ x }) s
  let s := shutOcc r.kind o.job o.marker o.occ (keepHist (histRecordOf o (scopeOf r.kind) (roleSource r) s) s)
  forEach ((covering o).filter fun x => x.scope == scopeOf r.kind) (fun x s =>
    let (n, s) := noticeOf o x (roleSource r) s
    sendNotice r n (onConf (fun c =>
      if n.notJudged then { c with unjudged := c.unjudged + 1 } else { c with judged := c.judged + 1 }) s)) s

/-- An occurrence closes. -/
def closeOcc (o : Occurrence) (s : State) : State :=
  match findRole o.role s with
  | none => s
  | some r => if o.role = .plaza then closeAtPlaza o r s else closeAtTier o r s

/-- Every complete occurrence closes. -/
def closeComplete (k : RoleKind) : Nat → State → State
  | 0, s => s
  | fuel + 1, s =>
    let ready (o : Occurrence) : Bool :=
      o.role == k && !o.closed && (if k = .plaza then plazaComplete o s else tierComplete k o s)
    match s.conf.occs.find? ready with
    | none => s
    | some o => closeComplete k fuel (closeOcc o s)

/-- The ft at which an occurrence closes if its members are not complete: the cut-off of the first frame that ends 10 ms, or
12 ms, after the end of the first entry's frame (R192). -/
def closeFtOf (o : Occurrence) (s : State) : Nat :=
  let wait := if o.role = .plaza then 10000000 else 12000000
  ceilDiv (o.firstEnd + wait) (frameNs s) * frameNs s + cutoffNs o.role

/-! ## Records and notices that arrive (R189, R191, R192, R195) -/

/-- Bytes of an entry lie in a block that is missing. -/
def entryLost (missing : List Nat) (off len : Nat) : Bool := missing.any fun b => off / 256 ≤ b && b ≤ (off + len - 1) / 256

/-- The entries of a series record that arrived, and how many did not (R189, R321). -/
def arrived (r : SeriesRecord) (missing : List Nat) : SeriesRecord × Nat × Nat :=
  let lateOff := 48 + 8 * r.series.length
  let ss := (r.series.zipIdx.filter fun e => !entryLost missing (48 + 8 * e.2) 8).map (·.1)
  let ls := (r.late.zipIdx.filter fun e => !entryLost missing (lateOff + 16 * e.2) 16).map (·.1)
  ({ r with series := ss, late := ls }, r.series.length - ss.length, r.late.length - ls.length)

/-- One lateness entry of a member at its Plaza. -/
def plazaLate (rec_ : SeriesRecord) (e : LateEntry) (s : State) : State :=
  let s := openOcc .plaza rec_.job e.marker e.cls e.occ rec_.frame rec_.period s
  match findOcc .plaza rec_.job e.marker e.occ s with
  | none => s
  | some o => if o.closed then s else onOcc .plaza rec_.job e.marker e.occ (addEntry rec_.die e rec_.timeQuality) s

/-- A series record of an adopted Leaf reaches its Plaza. -/
def plazaSeries (rec0 : SeriesRecord) (missing : List Nat) (c : Child) (s : State) : State :=
  let (rec_, lostSeries, lostLate) := arrived rec0 missing
  let next := tget 0 rec_.die s.conf.childSeq
  let gap := rec_.seq - next
  let s := onConf (fun x => { x with
    missingSlots := x.missingSlots + lostSeries + lostLate + (if next = 0 then 0 else gap),
    childSeq := tput 0 rec_.die (max next (rec_.seq + 1)) x.childSeq,
    memberJob := tput 0 rec_.die rec_.job x.memberJob,
    heard := tput 0 rec_.die (max (tget 0 rec_.die x.heard) (frameEnds rec_.frame rec_.period)) x.heard }) s
  let s := feedTemplates rec_.die rec_.frame rec_.period rec_.timeQuality true
    { late := rec_.late, part := tget 0 rec_.job s.conf.jobs, lost := lostLate != 0 } s
  toEngine 13 4 (fun s =>
    let s := when (rec_.job != 0 && c.joinFt ≤ frameOpens rec_.frame rec_.period) (forEach rec_.late (plazaLate rec_)) s
    closeComplete .plaza (s.conf.occs.length + 1) s) s

/-- A histogram shows the members of its tray (R192, assumption 135). -/
def noteMembers (h : HistRecord) (s : State) : State :=
  let tray := sourceNum h.source
  onConf (fun c => { c with
    trayMembers := (c.trayMembers.filter fun x => !(x.1 == h.job && x.2.1 == tray)) ++ [(h.job, tray, h.hist.n + h.hist.absent)] }) s

/-- A histogram as it joins a tier's: its `SUM` has not travelled, and is free (R179, R181). -/
def joinHist (h : HistRecord) (o : Occurrence) (sum : Nat) : Occurrence :=
  { o with trays := o.trays ++ [sourceNum h.source], hist := Hist.merge o.hist { h.hist with sum := (sum : Int) },
           quality := mergeQuality o.quality h.timeQuality }

/-- A tray histogram at a Quarter or Forum replica: merged once for a rule of its scope; a Quarter replica passes one that a
fleet rule covers up unchanged (R192, R195). -/
def takeHist (k : RoleKind) (h : HistRecord) (r : Role) (s : State) : State :=
  let period := s.grid.period
  let rules := (rulesFor h.job (frameOpens h.frame period) s).filter fun x => x.classMask.getLsbD h.cls
  let tray := sourceNum h.source
  let s := noteMembers h (when (k == .quarter && rules.any fun x => x.scope == 2) (sendHist r h) s)
  if !(rules.any fun x => x.scope == scopeOf k) then s
  else
    let s := openOcc k h.job h.marker h.cls h.key h.frame period s
    match findOcc k h.job h.marker h.key s with
    | none => s
    | some o =>
      if o.trays.contains tray then s
      else
        let (sum, s) := draw s
        closeComplete k (s.conf.occs.length + 1) (onOcc k h.job h.marker h.key (fun o => joinHist h o sum) s)

/-- A later notice says other than the first, whichever replica sent it (R195). -/
def noticesDiffer (a b : ThresholdNotice) : Bool := { a with source := b.source } != b

/-- A notice reaches a Plaza: the first for a rule stands, kept with the occurrence until it has closed here and its verdict can be
given; a differing one is a dispute (R194, R195). -/
def applyNotice (n : ThresholdNotice) (s : State) : State :=
  match findOcc .plaza n.job n.marker (n.occ % 2 ^ 32) s with
  | none => s
  | some o =>
    match o.noticed.find? fun x => x.rule == n.rule && x.scope == n.scope with
    | some x =>
      when (noticesDiffer n x)
        (raise Config.disputeCode (roleKey (if n.scope = 2 then 3 else 2) (if n.scope = 2 then 0 else sourceNum n.source)) 0) s
    | none =>
      if o.rules.any fun r => r.rule == n.rule && r.scope == n.scope then
        settleVerdicts (onOcc .plaza o.job o.marker o.occ (fun o => { o with noticed := o.noticed ++ [n] }) s)
      else s

/-- The hold of an occurrence ends: a notice received is applied, and each wider rule without one leaves it not judged (R195,
R199). -/
def endNoticeHold (o : Occurrence) (s : State) : State :=
  let left := (covering o).filter fun r => r.scope != 0 && !isJudged r o
  let s := forEach (left.filter fun r => (noticeFor r o).isSome) (giveVerdict o) s
  let without := left.filter fun r => (noticeFor r o).isNone
  settleVerdicts (onConf (fun c => { c with
    unjudged := c.unjudged + without.length,
    occs := c.occs.filter fun x => !isOcc o.role o.job o.marker o.occ x }) s)

end Sys2Proof.Machine
end

