-- ==== Sys2Proof/Machine/ConfCmd.lean ====
section
/-!
DEFINITION. Commands of group 0x06 and the events of series, calendars and cohorts.
-/

namespace Sys2Proof.Machine

/-! ## SERIES_DEFINE (R167, R170, R171) -/

/-- The fields of a descriptor lie in their ranges (R167). -/
def seriesFormOk (d : SeriesDesc) (plaza : Bool) : Bool :=
  d.index < (if plaza then 1024 else 8192) && 1 ≤ d.kind && d.kind ≤ 6 && d.windowLog2 ≤ 8 && d.partition ≤ 512
    && d.shift ≤ 31 && d.baseShift ≤ 16 && d.block ≤ 4096 && d.weightB ≤ 255 && d.ports < 256
    && (d.kind != 5 || d.target < 2 ^ 24) && (d.kind != 6 || d.target < 2 ^ 18)

/-- The defaults that 0 selects (R167). -/
def withDefaults (d : SeriesDesc) : SeriesDesc :=
  { d with baseShift := if d.baseShift = 0 then 6 else d.baseShift, block := if d.block = 0 then 40 else d.block,
           driftRun := if d.driftRun = 0 then 2 else d.driftRun }

/-- The partition of the armed calendar's job (R170). -/
def calendarPartition (s : State) : Option Nat :=
  match s.conf.armed, s.conf.pending, s.conf.active with
  | some _, some i, _ => some i.partition
  | _, _, some c => some c.image.partition
  | _, _, none => none

/-- A source counter belongs to a partition. -/
def counterOf (p i : Nat) (s : State) : Bool := bindEnable (counter i s).binding && bindPartition (counter i s).binding == p

/-- A descriptor of a partition names sources of that partition alone (R170); a Plaza judges its sources as the entries
arrive. -/
def sourcesOk (d : SeriesDesc) (s : State) : Bool :=
  if d.kind = 6 then d.partition == 0
  else if d.partition = 0 ∨ s.fuse.plaza then true
  else
    match d.kind with
    | 3 => gaugePartition (gauge (d.srcA % 1024) s).config == d.partition
    | 5 => calendarPartition s == some d.partition
    | 1 => counterOf d.partition d.srcA s
    | _ => counterOf d.partition d.srcA s && counterOf d.partition d.srcB s

/-- Definitions as they will stand: those in force, then those that wait. -/
def definedAfter (s : State) : List SeriesDesc :=
  s.conf.pendingDefs.foldl (fun l p => (l.filter fun d => d.index != p.2.index) ++ [p.2]) (definedSeries s)

/-- Enabled series of a partition, one index apart. -/
def seriesOf (p but : Nat) (s : State) : Nat :=
  ((definedAfter s).filter fun d => d.enable && d.partition == p && d.index != but).length

/-- A tenant defines Leaf series of its own partition, and takes none from another (R170). -/
def mayDefine (i : Issuer) (d : SeriesDesc) (s : State) : Bool :=
  !isTenant i || (!d.plaza && d.partition == issuerPart i
    && (definedAfter s).all fun x => x.index != d.index || !x.enable || x.partition == d.partition)

/-- The own part of `SERIES_DEFINE`; the quota binds tenants (R170, assumption 99).  A relayed descriptor for the other configuration concerns this block not at all. -/
def seriesDefine (r : Req) (d0 : SeriesDesc) (s : State) : State × Reply :=
  let d := withDefaults d0
  if d.plaza != s.fuse.plaza then deny (if r.relay then Config.ok else Config.badParam) s
  else if !mayDefine r.issuer d s || !sourcesOk d s then deny Config.isolation s
  else
    let others := (definedAfter s).filter fun x => x.index != d.index
    let quota := tget 16 d.partition s.conf.quotas
    if 4 * regionKib .series s ≤ d.index then deny Config.noSpace s
    else if d.enable && ((isTenant r.issuer && quota ≤ seriesOf d.partition d.index s) || !demandFits (d :: others) s.conf.doublings s.grid.period s)
    then deny Config.noSpace s
    else
      let f := changeFrame s
      done [f64 0 (shownFrame f s)] (onConf (fun c => { c with
        pendingDefs := (c.pendingDefs.filter fun p => !(p.1 == f && p.2.index == d.index)) ++ [(f, d)] }) s)

/-- `SERIES_DEFINE` (0x0601). -/
def execSeriesDefine (r : Req) (d : SeriesDesc) (s : State) : Host.Outcome State Fault Refusal :=
  run (serve { code := 0x0601, allow := { t := true }, relayable := true } r (seriesFormOk d d.plaza)
    (engineServed 4 (seriesDefine r d))) s

/-! ## Reads -/

/-- The series, or the template's state for a die, that an issuer may read. -/
def seriesFor (i : Issuer) (index die : Nat) (s : State) : Option Series :=
  match s.conf.series.find? fun e => e.1 == index with
  | none => none
  | some e =>
    if isTenant i && e.2.desc.partition != issuerPart i then none
    else if s.fuse.plaza then
      if (match findRole .plaza s with
          | some r => r.children.any fun c => c.source == die
          | none => false) then some (tmplOf die e s) else none
    else some e.2

/-- `SERIES_READ` (0x0602). -/
def execSeriesRead (r : Req) (index die : Nat) (desc : Desc) (s : State) : Host.Outcome State Fault Refusal :=
  run (serve { code := 0x0602, allow := { s := true, t := true } } r (s.fuse.plaza || die == 0)
    (engineServed 4 fun s =>
      match seriesFor r.issuer index die s with
      | none => deny Config.notFound s
      | some x => outputReply r desc 256 (.seriesState x) s)) s

/-- The partition of a job as the block holds it (R196, R252). -/
def jobOf (job : Nat) (s : State) : Option Nat :=
  match s.conf.active with
  | some c => if c.image.job = job then some c.image.partition else none
  | none => if s.fuse.plaza then some (tget 0 job s.conf.jobs) else none

/-- The issuer may name a job. -/
def jobVisible (i : Issuer) (job : Nat) (s : State) : Bool := !isTenant i || jobOf job s == some (issuerPart i)

/-- A template histogram is the template's partition's. -/
def histVisible (i : Issuer) (h : HistRecord) (s : State) : Bool :=
  if h.lateness then jobVisible i h.job s
  else !isTenant i || (s.conf.series.any fun e => e.1 == h.job && e.2.desc.partition == issuerPart i)

/-- `HIST_READ` (0x0603). -/
def execHistRead (r : Req) (desc : Desc) (job marker key : Nat) (lateness : Bool) (scope : Nat) (s : State) :
    Host.Outcome State Fault Refusal :=
  run (serve { code := 0x0603, allow := { s := true, t := true } } r (marker < 2 ^ 24 && scope ≤ 2)
    (engineServed 4 fun s =>
      let now := s.time.ft
      let span := 1000 * frameNs s
      let held := s.conf.hists.find? fun x => now < x.1 + span && x.2.lateness == lateness && x.2.scope == scope
        && x.2.job == job && x.2.key == key && (!lateness || x.2.marker == marker)
      match held with
      | none => deny Config.notFound s
      | some (_, h) =>
        if histVisible r.issuer h s then outputReply r desc ((histBytes h).length + 16) (.hist h) s
        else deny Config.notFound s)) s

/-! ## Calendars and cohorts -/

/-- `CONF_CAL_LOAD` (0x0604). -/
def execConfCalLoad (r : Req) (desc : Desc) (image : CalImage) (s : State) : Host.Outcome State Fault Refusal :=
  run (serve { code := 0x0604, allow := {}, only := .leaf } r true (engineServed 6 fun s =>
    if !descOk (issuerPart r.issuer) desc s then deny Config.bufferFault s
    else if !calOk image s then deny Config.invalidImage s
    else
      (loadCalendar image s,
       { status := Config.accepted, work := some .calLoad, after := complete .calLoad Config.ok [] }))) s

/-- A Plaza through which an arm passes holds the job's partition (R252). -/
def noteJob (job : Nat) (s : State) : State :=
  onConf (fun c => { c with jobs := tput 0 job (Config.jobPartition job % 1024) c.jobs }) s

/-- The own part of `CONF_CAL_ARM` (R184, R394). -/
def calArm (r : Req) (anchor job : Nat) (s : State) : State × Reply :=
  let s := when (s.fuse.plaza && isCopy r.issuer) (noteJob job) s
  if !leadOk r.issuer anchor 10000000 s then deny Config.tooSoon s
  else
    match s.conf.pending with
    | none => deny Config.wrongState s
    | some i =>
      if i.job ≠ job then deny Config.wrongState s
      else done [] (onConf (fun c => { c with armed := some anchor }) s)

/-- `CONF_CAL_ARM` (0x0605). -/
def execConfCalArm (r : Req) (anchor job : Nat) (s : State) : Host.Outcome State Fault Refusal :=
  let c : Cmd := { code := 0x0605, allow := {}, relayable := true }
  run (fun s => serve c r true (engineServed 6 (calArm r anchor job))
    (when (s.fuse.plaza && r.relay && !isCopy r.issuer && requestPasses c r true s) (noteJob job) s)) s

/-- A rule's fields lie in their ranges (R190). -/
def ruleOk (x : CohortRule) : Bool :=
  x.rule ≤ 3 && x.scope ≤ 2 && 1 ≤ x.q && x.q ≤ 1000000 && 100 ≤ x.margin && 1 ≤ x.run && x.run ≤ 255
    && x.clearRun ≤ 255

/-- `CONF_COHORT_SET` (0x0606): the rule applies to occurrences whose first entry arrives in a frame that opens later; its
run counts restart. -/
def execConfCohortSet (r : Req) (rule : CohortRule) (remove : Bool) (s : State) : Host.Outcome State Fault Refusal :=
  run (serve { code := 0x0606, allow := { t := true }, relayable := true, only := .plaza } r
      (if remove then rule.rule ≤ 3 else ruleOk rule) (engineServed 6 fun s =>
    if !jobVisible r.issuer rule.job s then deny Config.notFound s
    else if remove && (ruleAt rule.job rule.rule (s.time.ft + 1) s).isNone then deny Config.notFound s
    else
      let v : RuleSlot := { job := rule.job, rule := rule.rule, since := s.time.ft, value := if remove then none else some rule }
      done [] (onConf (fun c => { c with
        rules := c.rules ++ [v], runs := c.runs.filter fun x => !(x.job == rule.job && x.rule == rule.rule) }) s))) s

/-- A job is known to the block. -/
def jobKnown (job : Nat) (s : State) : Bool :=
  (match s.conf.active with
    | some c => c.image.job == job
    | none => false)
  || (s.fuse.plaza && ((s.conf.jobs.any fun j => j.1 == job) || (s.conf.memberJob.any fun m => m.2 == job)
        || s.conf.rules.any fun x => x.job == job))

/-- The header of `CONF_STATUS`. -/
def confHeader (job : Nat) (s : State) : List Nat :=
  [job, (s.conf.active.map (·.image.imageCrc)).getD 0, s.conf.unknown, s.conf.drops, s.conf.judged, s.conf.unjudged, openOccs s]

/-- `CONF_STATUS` (0x0607): a Leaf writes the header alone. -/
def execConfStatus (r : Req) (desc : Desc) (job : Nat) (s : State) : Host.Outcome State Fault Refusal :=
  run (serve { code := 0x0607, allow := { s := true, t := true } } r true (engineServed 6 fun s =>
    if !jobKnown job s || !jobVisible r.issuer job s then deny Config.notFound s
    else
      let flagged := (s.conf.runs.filter fun x => x.flag && x.job == job).map fun x => (x.die, x.rule)
      let flagged := if s.fuse.plaza then flagged else []
      outputReply r desc (32 + 8 * flagged.length) (.confStatus (confHeader job s) flagged) s)) s

/-- `SERIES_QUOTA_SET` (0x0608). -/
def execSeriesQuotaSet (r : Req) (partition quota : Nat) (s : State) : Host.Outcome State Fault Refusal :=
  run (serve { code := 0x0608, allow := {}, relayable := true } r (partition ≤ 512 && quota ≤ 8192)
    (engineServed 4 fun s =>
      done [] (onConf (fun c => { c with quotas := tput 16 partition quota c.quotas }) s))) s

/-! ## The marker port and the calendar -/

/-- The Conformance unit works at a Leaf. -/
def confUp (s : State) : Bool := !s.fuse.plaza && engineUp 6 s

/-- The `MRK` front observes: PD06 is powered at a Leaf that is not Parked. -/
def mrkFrontOn (s : State) : Bool := !s.fuse.plaza && s.pwr.on.getLsbD 6 && !s.pwr.parked && !s.rst.active

/-- `MARKER_STROBE`: captured with its ft, or dropped and counted when 64 wait (R37, R185).  R35 names 4 ns ticks and not the ns
within a tick; the stamp is the exact count, which need not be a multiple of 4 (DESIGN CHOICE, assumption 121). -/
def execMarkerStrobe (mid : Nat) (s : State) : Host.Outcome State Fault Refusal :=
  run (when (mrkFrontOn s) fun s =>
    if s.conf.strobes.length < 64 then
      onConf (fun c => { c with strobes := c.strobes ++ [(mid % 2 ^ 24, ftStamp s, timeValid s)] }) s
    else onConf (fun c => { c with drops := c.drops + 1, dropFts := c.dropFts ++ [ftStamp s] }) s) s

/-- `STROBE_MATCH`: the oldest strobe is matched (R186). -/
def execStrobeMatch (s : State) : Host.Outcome State Fault Refusal :=
  run (when (confUp s) fun s =>
    match s.conf.strobes with
    | [] => s
    | x :: t => matchStrobe x (activateDue (onConf (fun c => { c with strobes := t }) s))) s

/-- `MARKER_DEADLINE`: ft passes the deadline of a marker's lowest open occurrence (R186). -/
def execMarkerDeadline (mid : Nat) (s : State) : Host.Outcome State Fault Refusal :=
  run (when (confUp s && timeValid s) (passDeadline mid)) s

/-- `CALENDAR_ANCHOR`: ft reaches the anchor of the armed calendar (R184). -/
def execCalendarAnchor (s : State) : Host.Outcome State Fault Refusal :=
  run (when (!s.fuse.plaza) activateCalendar) s

/-! ## Tiers -/

/-- A series record whose header block is lost: its sequence number alone is known, and it is counted once (R189). -/
def loseRecord (rec_ : SeriesRecord) (s : State) : State :=
  onConf (fun x => { x with
    missingSlots := x.missingSlots + 1,
    childSeq := tput 0 rec_.die (max (tget 0 rec_.die x.childSeq) (rec_.seq + 1)) x.childSeq }) s

/-- `SERIES_RECORD`: the Plaza of a Leaf takes its series record, with the blocks it lacks (R189, R192). -/
def execSeriesRecord (role : RoleKind) (rec_ : SeriesRecord) (missing : List Nat) (s : State) :
    Host.Outcome State Fault Refusal :=
  run (when (s.fuse.plaza && role == .plaza) fun s =>
    let s := arcIngest 1 (mkEntry rec_.die (seriesBytes rec_).length (.series rec_) s) s
    match (findRole .plaza s).bind (childOf rec_.die) with
    | none => s
    | some c =>
      if missing.contains 0 then loseRecord rec_ s
      else plazaSeries rec_ missing c s) s

/-- `HISTOGRAM_RECORD`: a tray histogram at a Quarter or Forum replica (R192). -/
def execHistogramRecord (role : RoleKind) (h : HistRecord) (s : State) : Host.Outcome State Fault Refusal :=
  run (when (s.fuse.plaza && role != .plaza) fun s =>
    let s := arcIngest 1 { mkEntry h.source (histBytes h).length (.hist h) s with hosted := true } s
    match findRole role s with
    | none => s
    | some r => toEngine 13 4 (takeHist role h r) s) s

/-- `OCCURRENCE_CLOSE_TIMEOUT`: the cut-off at which an occurrence closes whoever is absent (R192). -/
def execOccurrenceCloseTimeout (role : RoleKind) (job marker occ : Nat) (s : State) :
    Host.Outcome State Fault Refusal :=
  run (fun s =>
    match findOcc role job marker occ s with
    | none => s
    | some o =>
      when (!o.closed && engineUp 4 s && timeValid s) (fun s => closeOcc o (untilFt (closeFtOf o s) s)) s) s

/-- `THRESHOLD_NOTICE`: a Quarter replica passes a fleet notice down; a Plaza applies one to the occurrence it holds
(R195). -/
def execThresholdNotice (n : ThresholdNotice) (s : State) : Host.Outcome State Fault Refusal :=
  run (when s.fuse.plaza fun s =>
    let s := arcIngest 1 (mkEntry n.source 64 (.notice n) s) s
    let s := match findRole .quarter s with
      | some r => when (sourceKind n.source == 3) (forEach r.children fun c =>
          sendControl (selfKey r) c.source 0x5448 64 (.threshold n)) s
      | none => s
    when (findRole .plaza s).isSome (toEngine 13 6 (applyNotice n)) s) s

/-- `THRESHOLD_HOLD_EXPIRY`: 20 ms have passed since an occurrence closed (R195). -/
def execThresholdHoldExpiry (job marker occ : Nat) (s : State) : Host.Outcome State Fault Refusal :=
  run (fun s =>
    match findOcc .plaza job marker occ s with
    | none => s
    | some o =>
      match o.holdUntil with
      | none => s
      | some t => endNoticeHold o (untilTimer t s)) s

end Sys2Proof.Machine
end

