-- ==== Sys2Proof/Machine/CounterCmd.lean ====
section
/-!
DEFINITION. Commands of group 0x03, counters, gauges and watermarks, and `PARTITION_RELEASE` (R56, R66 to R93, R477).
-/

namespace Sys2Proof.Machine

/-- An item of a partition is visible to an issuer: a tenant sees its own partition's alone (R88, R89). -/
def seesPart (i : Issuer) (p : Nat) : Bool := !isTenant i || issuerPart i == p

/-- A configuration change that waits for its frame; the answer carries `EFFECT_FRAME` (R67, R390). -/
def changeAt (frame : Nat) (ch : SamplerChange) (s : State) : State × Reply :=
  done [f64 0 (shownFrame frame s)] (addChange frame ch s)

/-- `LINE_SET` (0x0301): the change falls on the first boundary the front sees (R58). -/
def execLineSet (r : Req) (line : Nat) (config : Word16) (s : State) : Host.Outcome State Fault Refusal :=
  run (serve { code := 0x0301, allow := {}, relayable := true, only := .leaf } r
    (line < 4096 && bits config.toNat 15 12 == 0)
    (engineServed 2 fun s =>
      if (conc (line / 256) s).fenced then deny Config.unavailable s
      else changeAt (nextFrame s) (.line line config) s)) s

/-- The partition of a bind: `ISOLATION` for a tenant's counter on another partition's comparator (R69). -/
def bindIsolated (b : Word32) (s : State) : Bool :=
  bindSrcCmp b && bindPartition b != 0 && cmpPartition (bindSrc b) s != bindPartition b

/-- `COUNTER_BIND` (0x0302). -/
def execCounterBind (r : Req) (counter : Nat) (binding : Word32) (s : State) : Host.Outcome State Fault Refusal :=
  run (serve { code := 0x0302, allow := {}, relayable := true, only := .leaf } r
    (counter < 32768 && bits binding.toNat 31 28 == 0 && bindPartition binding ≤ 512)
    (engineServed 2 fun s =>
      if s.smp.retired.contains counter then deny Config.unavailable s
      else if bindIsolated binding s then deny Config.isolation s
      else changeAt (changeFrame s) (.bind counter binding) s)) s

/-- The counter is bound. -/
def isBound (i : Nat) (s : State) : Bool :=
  i < 32768 && bindEnable (counter i s).binding && !s.smp.retired.contains i

/-- `COUNTER_UNBIND` (0x0303). -/
def execCounterUnbind (r : Req) (counter : Nat) (s : State) : Host.Outcome State Fault Refusal :=
  run (serve { code := 0x0303, allow := {}, relayable := true, only := .leaf } r true
    (engineServed 2 fun s =>
      if !isBound counter s then deny Config.notFound s
      else changeAt (changeFrame s) (.unbind counter) s)) s

/-- `COUNTER_PRESCALE_SET` (0x0304): the residue is kept. -/
def execCounterPrescaleSet (r : Req) (counter prescale : Nat) (s : State) : Host.Outcome State Fault Refusal :=
  run (serve { code := 0x0304, allow := { t := true }, only := .leaf } r (prescale ≤ 15)
    (engineServed 2 fun s =>
      if !isBound counter s || !seesPart r.issuer (bindPartition (Sys2Proof.Machine.counter counter s).binding) then
        deny Config.notFound s
      else changeAt (changeFrame s) (.prescale counter prescale) s)) s

/-- The issuer may see a counter: it is bound, or keeps the final value of its last binding (R68, R89). -/
def counterVisible (i : Issuer) (k : Nat) (s : State) : Bool :=
  k < 32768 && (counter k s).known && !s.smp.retired.contains k
    && seesPart i (bindPartition (counter k s).binding)

/-- One 16-byte entry of `COUNTER_READ`: as R104 with `VALUE` for `DELTA`; an index that is not visible is all else 0. -/
def readEntry (off : Nat) (i : Issuer) (k : Nat) (s : State) : List Fld :=
  if counterVisible i k s then
    let c := counter k s
    [f16 off k, f16 (off + 2) c.flags.toNat,
     f16 (off + 4) (bindPartition c.binding + 1024 * bindPrescale c.binding), f16 (off + 6) c.residue,
     f64 (off + 8) c.closedValue]
  else [f16 off k, f16 (off + 2) 0, f16 (off + 4) 0, f16 (off + 6) 0, f64 (off + 8) 0]

/-- `COUNTER_READ` (0x0305). -/
def execCounterRead (r : Req) (first count : Nat) (s : State) : Host.Outcome State Fault Refusal :=
  run (serve { code := 0x0305, allow := { s := true, t := true }, only := .leaf } r (1 ≤ count && count ≤ 6)
    (engineServed 2 fun s =>
      let ks := (List.range count).map (first + ·)
      if ks.all fun k => !counterVisible r.issuer k s then deny Config.notFound s
      else done (f8 0 count :: (List.range count).flatMap
        (fun j => readEntry (0x10 + 16 * j) r.issuer (first + j) s)) s)) s

/-- Bound counters of a partition, or of all. -/
def boundCount (p : Option Nat) (s : State) : Nat :=
  (s.smp.counters.filter fun e => bindEnable e.2.binding && (p.isNone || p == some (bindPartition e.2.binding))).length

/-- The Leaf's `COUNTER_STATUS`: a tenant receives its own partition's counts and 0 elsewhere (R88). -/
def counterStatusPayload (i : Issuer) (s : State) : List Fld :=
  if isTenant i then
    let p := issuerPart i
    [f32 0 (boundCount (some p) s), f32 4 0, f32 8 0, f16 0xC 0, f32 0x10 (tget 0 p s.smp.repairsBy),
     f32 0x14 (tget 0 p s.smp.invalidBy)]
  else
    [f32 0 (boundCount none s), f32 4 s.smp.retired.length, f32 8 (256 - tsum s.smp.sparesUsed),
     f16 0xC ((List.range 16).foldl (fun n c => n + if (conc c s).fenced then 2 ^ c else 0) 0),
     f32 0x10 s.smp.repairs, f32 0x14 (tsum s.smp.invalidBy)]

/-- The Steward of a Plaza takes up what it has counted of its own chip's events since it last did: the manual does not say
which events those are, so each count is free, repairs and void counter-frames never falling (R13; assumption 16). -/
def countChip (s : State) : State :=
  let (a, s) := draw s
  let (b, s) := draw s
  let (c, s) := draw s
  let (d, s) := draw s
  let (e, s) := draw s
  let (f, s) := draw s
  onStw (fun t => { t with chip :=
    { bound := a, retired := b, spares := c, fenced := d, repairs := t.chip.repairs + e, invalid := t.chip.invalid + f } }) s

/-- A Plaza's `COUNTER_STATUS` counts the chip's own counters; a tenant receives its own partition's part of three of them,
which is free too, and 0 in the other fields (R13, R88). -/
def plazaCounterStatus (i : Issuer) (s : State) : State × Reply :=
  let s := countChip s
  if isTenant i then
    let (a, s) := draw s
    let (b, s) := draw s
    let (c, s) := draw s
    done [f32 0 a, f32 4 0, f32 8 0, f16 0xC 0, f32 0x10 b, f32 0x14 c] s
  else
    let k := s.stw.chip
    done [f32 0 k.bound, f32 4 k.retired, f32 8 k.spares, f16 0xC k.fenced, f32 0x10 k.repairs, f32 0x14 k.invalid] s

/-- `COUNTER_STATUS` (0x0306). -/
def execCounterStatus (r : Req) (s : State) : Host.Outcome State Fault Refusal :=
  run (serve { code := 0x0306, allow := { s := true, t := true } } r true fun s =>
    if s.fuse.plaza then plazaCounterStatus r.issuer s
    else engineServed 2 (fun s => done (counterStatusPayload r.issuer s) s) s) s

/-- `GAUGE_SET` (0x0307). -/
def execGaugeSet (r : Req) (gauge : Nat) (config : Word16) (s : State) : Host.Outcome State Fault Refusal :=
  run (serve { code := 0x0307, allow := {}, relayable := true, only := .leaf } r
    (gauge < 1024 && bits config.toNat 15 14 == 0 && gaugeSample config != 3 && gaugePartition config ≤ 512)
    (engineServed 2 fun s => changeAt (changeFrame s) (.gauge gauge config) s)) s

/-- The comparator exists and belongs to a partition the issuer sees (R81, R89). -/
def cmpVisible (i : Issuer) (k : Nat) (s : State) : Bool := k < 4096 && seesPart i (cmpPartition k s)

/-- The comparator as `WATERMARK_SET` writes it: the latch is kept, the arming state starts again (R83). -/
def setCmp (cflags : BitVec 8) (counter threshold hyst : Nat) (c : Cmp) : Cmp :=
  { c with enable := cflags.getLsbD 0, srcCounter := cflags.getLsbD 1, down := cflags.getLsbD 2,
           notice := bits cflags.toNat 4 3, counter := counter, threshold := threshold, hyst := hyst, armed := none }

/-- `WATERMARK_SET` (0x0308): a tenant changes neither `SRC_TYPE` nor `COUNTER`. -/
def execWatermarkSet (r : Req) (comparator : Nat) (cflags : BitVec 8) (counter threshold hyst : Nat) (s : State) :
    Host.Outcome State Fault Refusal :=
  run (serve { code := 0x0308, allow := { t := true }, only := .leaf } r
    (bits cflags.toNat 7 5 == 0 && counter < 32768)
    (engineServed 2 fun s =>
      let c := cmp comparator s
      if !cmpVisible r.issuer comparator s then deny Config.notFound s
      else if isTenant r.issuer && (c.srcCounter != cflags.getLsbD 1 || c.counter != counter) then
        deny Config.isolation s
      else done [] (onCmp comparator (setCmp cflags counter threshold hyst) s))) s

/-- The response of `WATERMARK_READ`: the latch as it stood. -/
def latchPayload (l : Option Latch) : List Fld :=
  match l with
  | none => [f64 0 0, f64 8 0, f32 0x10 0, f32 0x14 0, f8 0x18 2]
  | some l => [f64 0 l.firstFt, f64 8 l.lastFt, f32 0x10 l.count, f32 0x14 l.extreme, f8 0x18 (bnat l.sat)]

/-- `WATERMARK_READ` (0x0309): the latch is returned and emptied in one step (R85). -/
def execWatermarkRead (r : Req) (comparator : Nat) (s : State) : Host.Outcome State Fault Refusal :=
  run (serve { code := 0x0309, allow := { s := true, t := true }, only := .leaf } r true
    (engineServed 2 fun s =>
      if !cmpVisible r.issuer comparator s then deny Config.notFound s
      else done (latchPayload (cmp comparator s).latch) (onCmp comparator (fun c => { c with latch := none }) s))) s

/-- `CFLAGS` of a comparator as `WATERMARK_SET` lays them out. -/
def cmpFlags (c : Cmp) : Nat := bnat c.enable + 2 * bnat c.srcCounter + 4 * bnat c.down + 8 * c.notice

/-- The four comparator entries of `GAUGE_READ`; the place of the fields inside 16 bytes is that of `WATERMARK_SET`
(DESIGN CHOICE, assumption 17). -/
def cmpEntries (g : Nat) (s : State) : List Fld :=
  (List.range 4).flatMap fun j =>
    let c := cmp (4 * g + j) s
    let off := 0x10 + 16 * j
    [f8 off (cmpFlags c), f16 (off + 2) c.counter, f32 (off + 4) c.threshold, f32 (off + 8) c.hyst]

/-- `GAUGE_READ` (0x030A): the configuration, the latest sample and the comparators. -/
def execGaugeRead (r : Req) (gauge : Nat) (s : State) : Host.Outcome State Fault Refusal :=
  run (serve { code := 0x030A, allow := { s := true, t := true }, only := .leaf } r true
    (engineServed 2 fun s =>
      let g := Sys2Proof.Machine.gauge gauge s
      if gauge ≥ 1024 ∨ seesPart r.issuer (gaugePartition g.config) = false then deny Config.notFound s
      else done ([f16 0 g.config.toNat, f16 2 (gauge + 1024 * gaugeSample g.config + 4096 * bnat g.sample.2.2),
                  f32 4 g.sample.2.1, f64 8 g.sample.1] ++ cmpEntries gauge s) s)) s

/-- `SNAPSHOT_SET` (0x030B): `STRIDE` 0 withdraws the buffer. -/
def execSnapshotSet (r : Req) (desc : Desc) (stride : Nat) (s : State) : Host.Outcome State Fault Refusal :=
  run (serve { code := 0x030B, allow := { t := true }, only := .leaf } r (stride ≤ 65535)
    (engineServed 2 fun s =>
      let p := issuerPart r.issuer
      if stride = 0 then changeAt (changeFrame s) (.snapshot p none 0) s
      else if !descOk p desc s then deny Config.bufferFault s
      else changeAt (changeFrame s) (.snapshot p (some desc) stride) s)) s

/-- `PARTITION_RELEASE` (0x0107): at a Leaf the final frame's snapshot comes first (R90); a Plaza holds no counters, so
its sessions of the partition close at once (R386). -/
def execPartitionRelease (r : Req) (partition : Nat) (s : State) : Host.Outcome State Fault Refusal :=
  run (serve { code := 0x0107, allow := {}, relayable := true } r (1 ≤ partition && partition ≤ 512) fun s =>
    if s.fuse.plaza then
      (s, { status := Config.accepted, work := some (.partitionRelease partition), after := finishRelease partition })
    else
      later (.partitionRelease partition)
        (onStw (fun t => { t with releasing := addOnce partition t.releasing })
          (releaseChanges partition (changeFrame s) s))) s

end Sys2Proof.Machine
end

