-- ==== Sys2Proof/Machine/TestFence.lean ====
section
/-!
DEFINITION. In-field test and fencing: commands of group 0x0A and the events of a run (R284 to R304).
-/

namespace Sys2Proof.Machine

/-! ## Packages -/

/-- Targets that a `TKIND` allows on this configuration (R285, R301). -/
def targetLimit (tkind : Nat) (plaza : Bool) : Nat :=
  match tkind with
  | 1 => 256
  | 2 => 16
  | 3 => if plaza then 64 else 4
  | 4 => 16
  | 5 => if plaza then 32 else 0
  | _ => 0

/-- A test entry is within the ranges of R285, its pattern inside the pattern data and its targets allowed (R286). -/
def testEntryOk (p : TestPkg) (plaza : Bool) (t : TestEntry) : Bool :=
  t.unitFirst ≤ t.unitLast && t.unitLast < targetLimit t.tkind plaza && t.patOff + t.patLen ≤ p.patBytes
    && 1 ≤ t.failLimit && t.failLimit ≤ 7 && 1 ≤ t.respKib && t.respKib ≤ 65535
    && 1000 ≤ t.duration && t.duration ≤ 100000000 && 1 ≤ t.interval && t.interval ≤ 2592000

/-- Test identifiers rise. -/
def idsAscend : List TestEntry → Bool
  | a :: b :: t => a.testId < b.testId && idsAscend (b :: t)
  | _ => true

/-- Bytes 0x00 to 0x3B of a package header (R284). -/
def pkgHeader (p : TestPkg) : List Byte :=
  bytesOf p.tag 2 ++ bytesOf p.version 1 ++ [0#8] ++ bytesOf p.pkgId 4 ++ bytesOf p.pkgRev 4 ++ bytesOf p.dieType 4
    ++ bytesOf p.tests.length 2 ++ bytesOf p.sigLen 2 ++ bytesOf p.patBytes 4 ++ bytesOf p.sigKey 8 ++ bytesOf p.maxDefer 4
    ++ bytesOf 0 24

/-- `TAG`, `VERSION`, the reserved fields and `HDR_CRC` pass (R284, R286). -/
def pkgChecksOk (p : TestPkg) : Bool :=
  p.tag == 0x5450 && p.version == 1 && p.reservedOk && p.hdrCrc == (crc32c (pkgHeader p)).toNat

/-- The form of a package (R284 to R286). -/
def pkgFormOk (p : TestPkg) (s : State) : Bool :=
  pkgChecksOk p && p.dieType == s.fuse.dieType && 1 ≤ p.tests.length && p.tests.length ≤ 256
    && 2 ≤ p.sigKey && p.sigKey ≤ 2 ^ 61 - 2 && p.maxDefer ≤ 86400 && idsAscend p.tests
    && p.tests.all (testEntryOk p s.fuse.plaza)

/-- Why a package is rejected (R286, R287). -/
def pkgReject (p : TestPkg) (s : State) : Option Nat :=
  if !pkgFormOk p s then some Config.invalidImage
  else if !sigOk p.sig 2 s then some Config.signature
  else if p.sig.svn < s.nv.svnTest ∨ p.pkgRev ≤ highestRev p.pkgId s then some Config.rollback
  else none

/-- Room for a package beside the others: eight packages, 1,024 entries (R287). -/
def pkgRoom (p : TestPkg) (s : State) : Bool :=
  let others := s.test.pkgs.filter fun q => q.pkgId != p.pkgId
  others.length < 8 && (others.foldl (fun n q => n + q.tests.length) 0) + p.tests.length ≤ 1024

/-- The pairs of a package: due state carries over by test, and a new pair is due at once (R294, R304). -/
def newPairs (p : TestPkg) (now : Nat) (old : List Pair) : List Pair :=
  p.tests.flatMap fun t => (List.range (t.unitLast + 1 - t.unitFirst)).map fun k =>
    match old.find? fun x => x.pkgId == p.pkgId && x.testId == t.testId && x.unit == t.unitFirst + k with
    | some x => x
    | none => { pkgId := p.pkgId, testId := t.testId, unit := t.unitFirst + k, due := now, fails := 0, overdue := false }

/-- A package is installed in place of any older revision (R286, R287). -/
def installPkg (p : TestPkg) (s : State) : State :=
  let s := onTest (fun t => { t with
    pkgs := (t.pkgs.filter fun q => q.pkgId != p.pkgId) ++ [p],
    disabled := t.disabled.filter (· != p.pkgId),
    pairs := (t.pairs.filter fun x => x.pkgId != p.pkgId) ++ newPairs p s.time.timer t.pairs }) s
  nvPush (historyRec 5 3 0 0 0 p.pkgId p.pkgRev s) (emit (.buf 0 0 (.pattern p.pkgId)) s)

/-- `TEST_PKG_LOAD` (0x0A01): a rejected package raises 0x0A04 and leaves the one held (R286).  A region too small for the
pattern data is answered `NO_SPACE` (DEDUCED from the statuses of the command, assumption 149). -/
def execTestPkgLoad (r : Req) (desc patDesc : Desc) (pkg : TestPkg) (s : State) : Host.Outcome State Fault Refusal :=
  run (serve { code := 0x0A01, allow := {} } r true fun s =>
    if !descOk (issuerPart r.issuer) desc s || !descOk (issuerPart r.issuer) patDesc s || patDesc.partition != 0 then
      deny Config.bufferFault s
    else
      match pkgReject pkg s with
      | some st => deny st (raise 0x0A04 (dieKey s.die) 0 s)
      | none =>
        if !pkgRoom pkg s || patDesc.len < pkg.patBytes then deny Config.noSpace s
        else (installPkg pkg s, { status := Config.accepted, work := some (.pkgLoad pkg.pkgId),
                                  after := complete (.pkgLoad pkg.pkgId) Config.ok [] })) s

/-- `TEST_PKG_UNLOAD` (0x0A02): a run in progress completes, the due state goes. -/
def execTestPkgUnload (r : Req) (pkgId : Nat) (s : State) : Host.Outcome State Fault Refusal :=
  run (serve { code := 0x0A02, allow := {} } r true fun s =>
    if s.test.pkgs.all fun q => q.pkgId != pkgId then deny Config.notFound s
    else
      done [] (onTest (fun t => { t with
        pkgs := t.pkgs.filter fun q => q.pkgId != pkgId, disabled := t.disabled.filter (· != pkgId),
        pairs := t.pairs.filter fun x => x.pkgId != pkgId }) s)) s

/-- `TEST_IDLE_GRANT` (0x0A03): only with no calendar active, at least 1 ms ahead (R289). -/
def execTestIdleGrant (r : Req) (unitFirst unitLast start lenMs : Nat) (s : State) : Host.Outcome State Fault Refusal :=
  run (serve { code := 0x0A03, allow := {} } r
      (unitFirst ≤ unitLast && unitLast ≤ 255 && 1 ≤ lenMs && lenMs ≤ 60000) fun s =>
    if s.conf.active.isSome then deny Config.wrongState s
    else if start < s.time.ft + 1000000 then deny Config.tooSoon s
    else
      done [] (onTest (fun t => { t with grants := t.grants ++
        [{ unitFirst := unitFirst, unitLast := unitLast, start := start, len := lenMs * 1000000, ends := none }] }) s)) s

/-- The response of `TEST_STATUS` over some packages. -/
def testStatusPayload (sel : Nat → Bool) (rev : Nat) (s : State) : List Fld :=
  let pairs := s.test.pairs.filter fun x => sel x.pkgId
  let sum (t : Tab Nat) : Nat := tsum (t.filter fun e => sel e.1)
  [f8 0 (s.test.pkgs.filter fun q => sel q.pkgId).length,
   f32 4 (pairs.filter fun x => x.due ≤ s.time.timer).length, f32 8 (pairs.filter fun x => x.overdue).length,
   f32 0xC (sum s.test.failures), f32 0x10 (sum s.test.timeouts),
   f64 0x18 (listMax ((s.test.lastRun.filter fun e => sel e.1).map (·.2))), f32 0x20 rev]

/-- `TEST_STATUS` (0x0A04): one package, or the summary for 0. -/
def execTestStatus (r : Req) (pkgId : Nat) (s : State) : Host.Outcome State Fault Refusal :=
  run (serve { code := 0x0A04, allow := { s := true } } r true fun s =>
    if pkgId = 0 then done (testStatusPayload (fun _ => true) 0 s) s
    else
      match s.test.pkgs.find? fun q => q.pkgId == pkgId with
      | none => deny Config.notFound s
      | some q => done (testStatusPayload (fun k => k == pkgId) q.pkgRev s) s) s

/-! ## Fence commands -/

/-- `FENCE_SET` (0x0A05): the line is asserted, with a history record of source 0x03. -/
def execFenceSet (r : Req) (line : Nat) (s : State) : Host.Outcome State Fault Refusal :=
  run (serve { code := 0x0A05, allow := {} } r (line ≤ 255) fun s => done [] (assertFence line 3 0 0 0 s)) s

/-- `FENCE_RELEASE` (0x0A06): the one command that releases a line (R296). -/
def execFenceRelease (r : Req) (line : Nat) (s : State) : Host.Outcome State Fault Refusal :=
  run (serve { code := 0x0A06, allow := {} } r (line ≤ 255) fun s => done [] (releaseFence line s)) s

/-- `FENCE_HISTORY_READ` (0x0A07): 112 bytes inline, or the image from the offset into the chain (R300). -/
def execFenceHistoryRead (r : Req) (offset : Nat) (desc : Option Desc) (s : State) : Host.Outcome State Fault Refusal :=
  run (serve { code := 0x0A07, allow := { s := true } } r true fun s =>
    match desc with
    | none => (s, { status := Config.ok, bytes := inlineBytes (historyImage s) offset })
    | some d =>
      outputReply r d ((historyImage s).length - offset) (.history s.nv.removed s.nv.history) s) s

/-- What comes back when a resource is released (R301). -/
def restoreResource (rkind index : Nat) (s : State) : State :=
  match rkind with
  | 2 => when (s.pwr.on.getLsbD (14 + index)) unshrink s
  | 6 => onSmp (fun m => { m with concs := tmod Conc.start index (fun c => { c with fenced := false, parity := [] }) m.concs }) s
  | _ => s

/-- `CDS_RELEASE` (0x0A08): takes a listed resource back, with a history record of kind 0x04. -/
def execCdsRelease (r : Req) (rkind index : Nat) (s : State) : Host.Outcome State Fault Refusal :=
  run (serve { code := 0x0A08, allow := {} } r true fun s =>
    if (rkind, index) ∈ s.pwr.culDeSac then
      let s' := onPwr (fun p => { p with culDeSac := p.culDeSac.filter (· != (rkind, index)) }) s
      done [] (raiseInt 5 (nvPush (historyRec 4 3 index 0 rkind 0 0 s) (restoreResource rkind index s')))
    else deny Config.notFound s) s

/-! ## Runs -/

/-- Spans in which compute-unit tests may run now: first and last line, and the ft at which each ends (R288, R289). -/
def openSpans (s : State) : List (Nat × Nat × Nat) :=
  match s.conf.active with
  | some cal =>
    (cal.image.quietSections.flatten).filterMap fun w =>
      (openStart cal w.offset w.len s.time.ft).map fun st => (w.unitFirst, w.unitLast, st + w.len)
  | none =>
    s.test.grants.filterMap fun g => g.ends.map fun e => (g.unitFirst, g.unitLast, s.time.ft + (e - s.time.timer))

/-- The package and entry of a pair. -/
def pairEntry (x : Pair) (s : State) : Option (TestPkg × TestEntry) :=
  match s.test.pkgs.find? fun q => q.pkgId == x.pkgId with
  | none => none
  | some q => (q.tests.find? fun t => t.testId == x.testId).map fun t => (q, t)

/-- A pair may start now on a compute unit (R292). -/
def mayStart (s : State) (x : Pair) : Bool :=
  match pairEntry x s with
  | none => false
  | some (q, t) =>
    t.tkind == 1 && x.due ≤ s.time.timer && !s.test.disabled.contains q.pkgId && !s.fence.getLsbD x.unit
      && (openSpans s).any fun w => w.1 ≤ x.unit && x.unit ≤ w.2.1 && s.time.ft + t.duration + 2000 ≤ w.2.2

/-- The order of R292: earliest due, then lower unit, then lower test. -/
def earlier (a b : Pair) : Bool :=
  a.due < b.due || (a.due == b.due && (a.unit < b.unit || (a.unit == b.unit && a.testId < b.testId)))

/-- The pair that runs next. -/
def pickPair : List Pair → Option Pair
  | [] => none
  | a :: t =>
    match pickPair t with
    | none => some a
    | some b => if earlier b a then some b else some a

/-- The digest recorded for the pattern of a test. -/
def patternDigest (q : TestPkg) (t : TestEntry) : Option Word64 :=
  (q.tests.zip q.patDigests).find? (fun e => e.1.testId == t.testId) |>.map (·.2)

/-- A package whose pattern has changed is disabled and raises 0x0A04 (R287). -/
def disablePkg (q : Nat) (s : State) : State :=
  raise 0x0A04 (dieKey s.die) 0 (onTest (fun t => { t with disabled := addOnce q t.disabled }) s)

/-- A pair changed. -/
def onPair (pkgId testId unit : Nat) (f : Pair → Pair) (s : State) : State :=
  onTest (fun t => { t with pairs := t.pairs.map fun x =>
    if x.pkgId = pkgId ∧ x.testId = testId ∧ x.unit = unit then f x else x }) s

/-- The earliest due fitting pair starts, its pattern unchanged (R287, R292). -/
def startRun (patDigest : Word64) (s : State) : State :=
  if s.test.run.isSome || !stewardUp s then s
  else
    match pickPair (s.test.pairs.filter (mayStart s)) with
    | none => s
    | some x =>
      match pairEntry x s with
      | none => s
      | some (q, t) =>
        if patternDigest q t ≠ some patDigest then disablePkg q.pkgId s
        else
          let s := onPair x.pkgId x.testId x.unit (fun x => { x with overdue := false }) s
          let s := onTest (fun u => { u with
            run := some { pkgId := x.pkgId, unit := x.unit, entry := t, start := s.time.ft, startTimer := s.time.timer },
            lastRun := tput 0 x.pkgId s.time.ft u.lastRun }) s
          emit (.fncTest x.unit true false) s

/-- The next opening of a quiet window, when none is open now. -/
def nextWindow (s : State) : Option Nat :=
  match s.conf.active with
  | none => none
  | some cal =>
    if cal.image.step = 0 then none
    else
      match (cal.image.quietSections.flatten).filterMap fun w => nextStart cal w.offset s.time.ft with
      | [] => none
      | a :: t => some (listMin 0 (a :: t))

/-- `QUIET_WINDOW_OPEN`: a window opens, or a run has ended inside one, and the next pair starts; `patDigest` is what the
pattern digests to when it is read again (R287, R292). -/
def execQuietWindowOpen (patDigest : Word64) (s : State) : Host.Outcome State Fault Refusal :=
  run (fun s =>
    if !(openSpans s).isEmpty then startRun patDigest s
    else
      match nextWindow s with
      | none => s
      | some t => startRun patDigest (untilFt t s)) s

/-- The grant that begins next: of those that have not begun, the one of the earliest start (R289). -/
def nextGrant : List IdleGrant → Option IdleGrant
  | [] => none
  | a :: t =>
    if a.ends.isSome then nextGrant t
    else match nextGrant t with
      | none => some a
      | some b => some (if b.start < a.start then b else a)

/-- `IDLE_GRANT_START`: the earliest grant that has not begun starts at its ft (R289). -/
def execIdleGrantStart (s : State) : Host.Outcome State Fault Refusal :=
  run (fun s =>
    match nextGrant s.test.grants with
    | none => s
    | some g =>
      if !timeValid s then s
      else
        let s := untilFt g.start s
        onTest (fun t => { t with grants := t.grants.map fun x =>
          if x = g then { x with ends := some (s.time.timer + x.len) } else x }) s) s

/-- `IDLE_GRANT_END`: the oldest begun grant ends at its length; a calendar that has become active ends it early (R289,
R478). -/
def execIdleGrantEnd (s : State) : Host.Outcome State Fault Refusal :=
  run (fun s =>
    match s.test.grants.find? fun g => g.ends.isSome with
    | none => s
    | some g =>
      let s := when s.conf.active.isNone (untilTimer (g.ends.getD 0)) s
      onTest (fun t => { t with grants := t.grants.filter (· != g) }) s) s

/-- The subject of a test's reports (R303). -/
def testSubject (t : TestEntry) (unit : Nat) (s : State) : Nat :=
  if t.tkind = 1 then unitKey s.die unit else engineKey s.die (cdsDomain t.tkind unit)

/-- A run has failed: the pair counts it, is due again at once, and at `FAIL_LIMIT` its target is fenced when
`FENCE_ON_FAIL` is set (R292, R295). -/
def countFail (pkgId : Nat) (t : TestEntry) (unit : Nat) (s : State) : State :=
  let fails := match s.test.pairs.find? fun x => x.pkgId == pkgId && x.testId == t.testId && x.unit == unit with
    | some x => x.fails + 1
    | none => 1
  let s := onPair pkgId t.testId unit (fun x => { x with fails := fails, due := s.time.timer }) s
  let s := onTest (fun u => { u with failures := tmod 0 pkgId (· + 1) u.failures }) s
  if t.fenceOnFail ∧ t.failLimit ≤ fails then
    if t.tkind = 1 then raise 0x0A03 (unitKey s.die unit) 0 (assertFence unit 2 0x0A03 pkgId t.testId s)
    else joinCds t.tkind unit 2 pkgId t.testId s
  else s

/-- A response is judged against `EXPECT` (R292). -/
def judgeRun (pkgId : Nat) (t : TestEntry) (unit startTimer : Nat) (digest : Word64) (s : State) : State :=
  if digest = t.expect then
    onPair pkgId t.testId unit (fun x => { x with fails := 0, due := startTimer + t.interval * 1000000000 }) s
  else countFail pkgId t unit (raise 0x0A01 (testSubject t unit s) 0 s)

/-- The run in progress ends: `FNC_TEST_GO` falls. -/
def endRun (f : TestRun → State → State) (abort : Bool) (s : State) : State :=
  match s.test.run with
  | none => s
  | some u => f u (emit (.fncTest u.unit false abort) (onTest (fun t => { t with run := none }) s))

/-- A wrapper error: counted, reported, not a fail; due again at once (R292). -/
def wrapperError (u : TestRun) (s : State) : State :=
  let s := onTest (fun t => { t with timeouts := tmod 0 u.pkgId (· + 1) t.timeouts }) s
  let s := onPair u.pkgId u.entry.testId u.unit (fun x => { x with due := s.time.timer }) s
  raise 0x0A05 (unitKey s.die u.unit) 0 s

/-- The run in progress is aborted and counted as a wrapper error (R304, R434). -/
def abortRun (s : State) : State := endRun wrapperError true s

/-- `FNC_TEST_DONE`: the response is read, digested and judged (R292). -/
def execFncTestDone (digest : Word64) (s : State) : Host.Outcome State Fault Refusal :=
  run (endRun (fun u => judgeRun u.pkgId u.entry u.unit u.startTimer digest) false) s

/-- `FNC_TEST_ERR`: a wrapper error (R292). -/
def execFncTestErr (s : State) : Host.Outcome State Fault Refusal := run (endRun wrapperError false) s

/-- `TEST_ABORT_TIMEOUT`: no done by start + `DURATION` + 1 µs: the run is aborted and counted as a fail, with 0x0A05
(R292). -/
def execTestAbortTimeout (s : State) : Host.Outcome State Fault Refusal :=
  run (fun s =>
    match s.test.run with
    | none => s
    | some u =>
      endRun (fun u s =>
        let s := onTest (fun t => { t with timeouts := tmod 0 u.pkgId (· + 1) t.timeouts }) s
        countFail u.pkgId u.entry u.unit (raise 0x0A05 (unitKey s.die u.unit) 0 s)) true
        (untilTimer (u.startTimer + u.entry.duration + 1000) s)) s

/-- `MAX_DEFER` in ns (R284). -/
def deferNs (q : TestPkg) : Nat := (if q.maxDefer = 0 then 600 else q.maxDefer) * 1000000000

/-- `TEST_OVERDUE`: a pair due for `MAX_DEFER` without a run becomes overdue, once for the episode (R294). -/
def execTestOverdue (pkgId testId unit : Nat) (s : State) : Host.Outcome State Fault Refusal :=
  run (fun s =>
    match s.test.pairs.find? fun x => x.pkgId == pkgId && x.testId == testId && x.unit == unit with
    | none => s
    | some x =>
      match pairEntry x s with
      | none => s
      | some (q, t) =>
        if x.overdue || !stewardUp s then s
        else
          let s := untilTimer (x.due + deferNs q) s
          let s := onPair pkgId testId unit (fun x => { x with overdue := true }) s
          raise 0x0A02 (testSubject t unit s) 0 (onTest (fun t => { t with overdue := t.overdue + 1 }) s)) s

/-- `BLOCK_RESOURCE_TEST`: a due block resource is tested when the pace allows; otherwise, or while its domain is not up, the
test waits (R287, R293).  Quiesce, run and comparison are one step, before and after which the resource does its work (DESIGN
CHOICE, assumption 150). -/
def execBlockResourceTest (pkgId testId unit : Nat) (paceOk : Bool) (patDigest digest : Word64) (s : State) :
    Host.Outcome State Fault Refusal :=
  run (fun s =>
    match s.test.pairs.find? fun x => x.pkgId == pkgId && x.testId == testId && x.unit == unit with
    | none => s
    | some x =>
      match pairEntry x s with
      | none => s
      | some (q, t) =>
        if t.tkind = 1 ∨ s.time.timer < x.due ∨ paceOk = false ∨ s.test.disabled.contains pkgId = true
            ∨ stewardUp s = false ∨ engineUp (cdsDomain t.tkind unit) s = false ∨ (t.tkind, unit) ∈ s.pwr.culDeSac then s
        else if patternDigest q t ≠ some patDigest then disablePkg pkgId s
        else
          let s := onPair pkgId testId unit (fun x => { x with overdue := false }) s
          let s := onTest (fun u => { u with lastRun := tput 0 pkgId s.time.ft u.lastRun }) s
          judgeRun pkgId t unit s.time.timer digest s) s

/-- `RESOURCE_FAULT`: a block resource fails beyond its spares and joins the Cul-de-sac (R301). -/
def execResourceFault (rkind index : Nat) (s : State) : Host.Outcome State Fault Refusal :=
  run (joinCds rkind index 4 0 0) s

end Sys2Proof.Machine
end

