-- ==== Sys2Proof/Machine/DigestOps.lean ====
section
/-!
DEFINITION. The digest engine's operations: the digest, streams and chunks, comparison with carried words, result
instances, tallies, verdicts and suspects (R260 to R283).
-/

namespace Sys2Proof.Machine

/-! ## The digest (R264, R265) -/

/-- p of R265. -/
def digestP : Nat := 2 ^ 61 - 1

/-- No digest. -/
def noDigest : Word64 := 0xFFFFFFFFFFFFFFFF#64

/-- r(w). -/
def digestReduce (w : Word64) : Nat := (w.toNat % 2 ^ 61 + w.toNat / 2 ^ 61) % digestP

/-- One Horner step. -/
def hornerStep (key h x : Nat) : Nat := (h + x) * key % digestP

/-- The XOR of the words' top three bits. -/
def digestTop (ws : List Word64) : Word64 := ws.foldl (fun (t w : Word64) => t ^^^ BitVec.ushiftRight w 61) 0#64

/-- The digest of a chunk of words with a length. -/
def digestOf (ws : List Word64) (len key : Nat) : Word64 :=
  (digestTop ws <<< 61)
    ||| BitVec.ofNat 64 (hornerStep key (ws.foldl (fun h w => hornerStep key h (digestReduce w)) 0) len)

/-! ## Tables (R266, R269, R270) -/

/-- The entry of a collective. -/
def collEntry (coll : Nat) (t : KeyTable) : Option CollEntry := t.table.find? fun e => e.coll == coll

/-- Collectives ascend. -/
def collsAscend : List CollEntry → Bool
  | a :: b :: t => a.coll < b.coll && collsAscend (b :: t)
  | _ => true

/-- An entry is well formed, and compares results only where every rank holds one result. -/
def collEntryOk (e : CollEntry) : Bool :=
  e.reservedOk && e.coll < 2 ^ 24 && 1 ≤ e.ckind && e.ckind ≤ 6 && e.scope ≤ 2 && e.policy ≤ 2 && e.fenceAfter ≤ 15
    && 1 ≤ e.ranks && e.ranks ≤ 131072 && !(e.checkResult && 4 ≤ e.ckind)

/-- Fewest of a limit and a census; a role that holds no census yet checks against the limit. -/
def censusLimit (n : Nat) : Nat := if n = 0 then 131072 else min n 131072

/-- `RANKS` fits the census of its scope at the roles that hold that census (R270). -/
def ranksFit (e : CollEntry) (s : State) : Bool :=
  let home := ((plazaCensus s).filter fun c => trayOf c.source == trayOf s.die).length
  let tray := (findRole .plaza s).isNone || e.scope != 0 || e.ranks ≤ home
  let quarter := match findRole .quarter s with
    | none => true
    | some r => e.scope != 1 || e.ranks ≤ censusLimit (r.census.foldl (fun n x => n + x.2.length) 0)
  let fleet := (findRole .forum s).isNone || e.scope != 2
    || e.ranks ≤ censusLimit (s.place.chips.foldl (fun n c => n + c.slots.length) 0)
  tray && quarter && fleet

/-- The table is accepted. -/
def collTableOk (t : List CollEntry) (s : State) : Bool :=
  t.length ≤ 4096 && collsAscend t && t.all fun e => collEntryOk e && ranksFit e s

/-- The table under which a chip's roles tally a job: of those armed, the latest whose anchor has passed, else the first. -/
def tableFor (job : Nat) (s : State) : Option KeyTable :=
  let mine := s.dig.tables.filter fun t => t.job == job
  match (mine.filter fun t => t.anchor ≤ s.time.ft).getLast? with
  | some t => some t
  | none => mine.head?

/-- A Leaf's key and table that have waited for their anchor come into force at it, whatever its event does (R266). -/
def dueKey (s : State) : State :=
  match s.dig.next with
  | none => s
  | some t => when (timeValid s && t.anchor ≤ s.time.ft) (onDig fun d => { d with current := some t, next := none }) s

/-! ## The tap (R260 to R263) -/

/-- The tap front takes beats: the Leaf is not Parked, and PD08 is powered. -/
def tapFrontOn (s : State) : Bool := !s.fuse.plaza && s.pwr.on.getLsbD 8 && !s.pwr.parked

/-- The Leaf's digest engine works. -/
def digestUp (s : State) : Bool := engineUp 8 s

/-- Bytes of whole chunks that the engine has not digested. -/
def tapQueued (s : State) : Nat :=
  s.dig.streams.foldl (fun n x => x.ready.foldl (fun n r => n + r.2.2.1) n) 0

/-- The queue and the chunks that the live pipes hold, 16 KiB and 4 KiB each (R260, R263). -/
def tapRoom (s : State) : Nat := 16384 + 4096 * (16 - deadCount 4 s)

/-- Counts of a chunk, in the frame and by job. -/
def countOk (job : Nat) (s : State) : State :=
  onDig (fun d => { d with chkOk := d.chkOk + 1, jobOk := tmod 0 job (· + 1) d.jobOk }) s
def countBad (job : Nat) (s : State) : State :=
  onDig (fun d => { d with chkBad := d.chkBad + 1, jobBad := tmod 0 job (· + 1) d.jobBad }) s
def countNone (job k : Nat) (s : State) : State :=
  onDig (fun d => { d with chkNone := d.chkNone + k, jobNone := tmod 0 job (· + k) d.jobNone }) s

/-- Tap overrun or stream table full: reported under domain 8 (R263, R281). -/
def tapReport (s : State) : State := raise 0x0906 (engineKey s.die 8) 0 s

/-- A stream changed. -/
def onStream (id : StreamId) (f : Stream → Stream) (s : State) : State :=
  onDig (fun d => { d with streams := d.streams.map fun x => if x.id = id then f x else x }) s

/-- The stream of an identity. -/
def streamOf (id : StreamId) (s : State) : Option Stream := s.dig.streams.find? fun x => x.id == id

/-- A stream leaves the table. -/
def dropStream (id : StreamId) (s : State) : State :=
  onDig (fun d => { d with streams := d.streams.filter fun x => x.id != id }) s

/-- The identity of a beat's stream. -/
def beatId (b : TapBeat) : StreamId := { kind := b.kind, coll := b.coll, inst := b.inst, peer := b.peer, port := b.port }

/-- Contributions of a collective are digested: no table is in force, or its entry says so (R269). -/
def contribChecked (coll : Nat) (s : State) : Bool :=
  match s.dig.current with
  | none => true
  | some t => match collEntry coll t with
    | none => false
    | some e => e.checkContrib

/-- A beat's stream is digested at all (R269). -/
def beatWanted (b : TapBeat) (s : State) : Bool :=
  if b.kind = 2 then
    match s.dig.current.bind (collEntry b.coll) with
    | none => false
    | some e => e.checkResult
  else contribChecked b.coll s

/-- A stream as its first beat opens it (R266). -/
def openStream (b : TapBeat) (s : State) : Stream :=
  { id := beatId b, key := s.dig.current.map (·.key), job := (s.dig.current.map (·.job)).getD 0,
    entry := s.dig.current.bind (collEntry b.coll), nextOff := 0, chunk := 0, words := [], bytes := 0, spoilt := false,
    ready := [], mine := [], carried := [], ended := false, lastAt := s.time.timer, digests := [], chunks := 0, masks := [] }

/-- The chunk in progress closes: it waits for the engine. -/
def closeChunk (spoilt : Bool) (x : Stream) : Stream :=
  if x.words.isEmpty && !x.spoilt then x
  else { x with ready := x.ready ++ [(x.chunk, x.words, x.bytes, x.spoilt || spoilt)], words := [], bytes := 0, spoilt := false }

/-- A beat reaches its stream: out of place it makes the current chunk unchecked, and one for another chunk closes the chunk
in progress; one that the queue dropped leaves its chunk unchecked (R263, R264). -/
def takeBeat (b : TapBeat) (dropped : Bool) (now : Nat) (x : Stream) : Stream :=
  let gap := b.off != x.nextOff
  let j := b.off / 4096
  let x := if x.chunk = j then x else closeChunk true x
  let stripe := j % 16
  let x := { x with
    chunk := j, words := if dropped then x.words else x.words ++ b.words, bytes := if dropped then x.bytes else x.bytes + b.bytes,
    spoilt := x.spoilt || gap || dropped,
    nextOff := b.off + b.bytes, lastAt := now, ended := b.last,
    chunks := max x.chunks (j + 1),
    masks := if b.kind = 2 then tmod 0 stripe (fun m => putBit m b.unit true) x.masks else x.masks }
  if b.last || (b.off + b.bytes) % 4096 == 0 then closeChunk false x else x

/-! ## Carried words (R268) -/

/-- A recomputed digest meets its carried word. -/
def compareWord (x : Stream) (mine : Option Word64) (carried : Word64) (s : State) : State :=
  match mine with
  | none => countNone x.job 1 s
  | some d =>
    if carried = noDigest then countNone x.job 1 s
    else if carried = d then countOk x.job s
    else raise 0x0901 (linkKey s.die x.id.port x.id.peer 0xF) 0 (countBad x.job s)

/-- The arriving stream is over: nothing of it is left to digest or compare, and carried words for chunks that never
arrived are unchecked. -/
def endArrival (id : StreamId) (s : State) : State :=
  match streamOf id s with
  | none => s
  | some x =>
    if x.ended && x.ready.isEmpty && x.words.isEmpty then
      let s := countNone x.job x.carried.length (onStream id (fun x => { x with carried := [] }) s)
      if x.mine.isEmpty then dropStream id s else s
    else s

/-- One carried word reaches its chunk, or waits for it (R268). -/
def takeCarried (id : StreamId) (chunk : Nat) (w : Word64) (s : State) : State :=
  match streamOf id s with
  | none => countNone ((s.dig.current.map (·.job)).getD 0) 1 s
  | some x =>
    match x.mine.find? fun m => m.1 == chunk with
    | some m =>
      let s := compareWord x m.2 w (onStream id (fun x => { x with mine := x.mine.filter fun y => y.1 != chunk }) s)
      endArrival id s
    | none =>
      if x.ended && x.ready.isEmpty then countNone x.job 1 s
      else onStream id (fun x => { x with carried := x.carried ++ [(chunk, w)] }) s

/-- A beat of a digest list: its words are those of chunks `off` ÷ 8 onward (R267). -/
def takeListBeat (b : TapBeat) (s : State) : State :=
  let id := { beatId b with kind := 1 }
  forEach (b.words.zipIdx) (fun w => takeCarried id (b.off / 8 + w.2) w.1) s

/-! ## A chunk (R265, R267, R268, R271) -/

/-- The digest of a whole chunk, unless it is unchecked. -/
def chunkDigest (x : Stream) (words : List Word64) (len : Nat) (spoilt : Bool) : Option Word64 :=
  match x.key with
  | none => none
  | some k => if spoilt then none else some (digestOf words len k)

/-- Chunk digests of a stripe, in order. -/
def stripeWords (x : Stream) (stripe : Nat) : List Word64 :=
  ((List.range x.chunks).filter fun j => j % 16 == stripe).map fun j => tget noDigest j x.digests

/-- The result entry of a complete instance (R271); without a key there is no digest. -/
def resultEntry (x : Stream) : ResultEntry :=
  let unchk := ((List.range x.chunks).filter fun j => tget noDigest j x.digests == noDigest).length
  let stripes := (List.range 16).map fun i =>
    match x.key with
    | none => noDigest
    | some k => digestOf (stripeWords x i) (stripeWords x i).length k
  { job := x.job, coll := x.id.coll, inst := x.id.inst, nChunk := x.chunks,
    result := match x.key with
      | none => noDigest
      | some k => digestOf stripes x.chunks k,
    unchk := unchk, incomplete := unchk != 0, stripes := stripes }

/-- The latest 64 instances are retained; one that leaves before its 20 ms is counted (R272). -/
def retain (r : Retained) (s : State) : State :=
  let f (d : Digests) : Digests :=
    if d.retained.length < 64 then { d with retained := d.retained ++ [r] }
    else { d with retained := d.retained.drop 1 ++ [r], evicted := d.evicted + 1, evictFrame := true }
  onDig f s

/-- A result instance is complete: its entry waits for the frame's record, its unit masks are kept (R271, R272). -/
def completeResult (x : Stream) (s : State) : State :=
  let e := resultEntry x
  let s := onDig (fun d => { d with outbox := d.outbox ++ [e] }) (dropStream x.id s)
  match x.entry with
  | none => s
  | some c => retain { result := e, entry := c, masks := x.masks, ends := s.time.timer + 20000000 } s

/-- The oldest whole chunk of a stream is digested. -/
def digestChunk (x : Stream) (chunk : Nat) (words : List Word64) (len : Nat) (spoilt : Bool) (s : State) : State :=
  let d := chunkDigest x words len spoilt
  let s := onStream x.id (fun x => { x with ready := x.ready.drop 1 }) s
  let last : Bool := x.ended && x.ready.length == 1 && x.words.isEmpty
  if x.id.kind = 0 then
    let s := match d with
      | some v => emit (.tapDout v x.id.coll x.id.inst x.id.peer chunk) s
      | none => countNone x.job 1 s
    when last (dropStream x.id) s
  else if x.id.kind = 1 then
    match x.carried.find? fun c => c.1 == chunk with
    | some c =>
      endArrival x.id (compareWord x d c.2
        (onStream x.id (fun x => { x with carried := x.carried.filter fun y => y.1 != chunk }) s))
    | none =>
      if x.ended && x.lastAt + 50000 ≤ s.time.timer then endArrival x.id (countNone x.job 1 s)
      else endArrival x.id (onStream x.id (fun x => { x with mine := x.mine ++ [(chunk, d)] }) s)
  else
    let f (y : Stream) : Stream := { y with digests := tput noDigest chunk (d.getD noDigest) y.digests }
    let s := onStream x.id f s
    if last then completeResult (f x) s else s

/-! ## The frame's record (R273) -/

/-- The digest record of a frame leaves, with at most 256 instances. -/
def sendDigestRecord (frame period : Nat) (quality : BitVec 8) (s : State) : State :=
  let s := dueKey s
  if !digestUp s then absentAt 3 8 s
  else
    let d := s.dig
    let flags : BitVec 16 := BitVec.ofNat 16 (bnat d.overrunFrame + 2 * bnat d.current.isNone + 4 * bnat d.evictFrame)
    let r : DigestRecord :=
      { timeQuality := quality, dgflags := flags, frame := frame, period := period, epoch := s.epoch, die := s.die, seq := d.seq,
        chkOk := d.chkOk, chkBad := d.chkBad, chkNone := d.chkNone, results := d.outbox.take 256 }
    let f (d : Digests) : Digests :=
      { d with overrunFrame := false, evictFrame := false, chkOk := 0, chkBad := 0, chkNone := 0, seq := d.seq + 1,
               outbox := d.outbox.drop 256 }
    let bytes := digestBytes r
    let s := onDig f s
    match s.place.parent with
    | none => s
    | some p => enqueueSeries s.die p 0x4447 r.seq bytes.length (recordBlocks bytes 0 0) (.digestRec r) s

/-! ## Tallies (R274, R275) -/

/-- A result joins a tally's values: counts add, the eight lowest addresses stay, with the stripes of the lowest. -/
def joinValue (v : TallyValue) : List TallyValue → Option (List TallyValue)
  | [] => none
  | x :: t =>
    if x.result = v.result then
      let low := lowest8 v.first8 x.first8
      let newFirst : Bool := low.head? != x.first8.head?
      some ({ x with count := x.count + v.count, first8 := low, stripes := if newFirst then v.stripes else x.stripes } :: t)
    else (joinValue v t).map (x :: ·)

/-- A value reaches a tally. -/
def addValue (v : TallyValue) (t : Tally) : Tally :=
  match joinValue v t.values with
  | some l => { t with values := l }
  | none => if t.values.length < 8 then { t with values := t.values ++ [v] } else { t with scatter := t.scatter + v.count }

/-- Ranks with a vote. -/
def tallyVotes (t : Tally) : Nat := t.values.foldl (fun n v => n + v.count) t.scatter

/-- The tally of an instance. -/
def isTally (k : RoleKind) (job coll inst : Nat) (t : Tally) : Bool :=
  t.role == k && t.job == job && t.coll == coll && t.inst == inst

/-- The tally of an instance is closed already. -/
def tallyShut (k : RoleKind) (job coll inst : Nat) (s : State) : Bool :=
  s.dig.shut.any fun x => x.1 == k && x.2.1 == job && x.2.2.1 == coll && x.2.2.2.1 == inst

/-! ## Verdicts (R277, R278) -/

/-- A verdict is held for reading: the latest for its instance. -/
def keepVerdict (v : Verdict) (s : State) : State :=
  onDig (fun d => { d with verdicts := (d.verdicts.filter fun x => !(x.job == v.job && x.coll == v.coll && x.inst == v.inst)) ++ [v] }) s

/-- A report of a job, with its notice to the job's partition (R366). -/
def raiseForJob (code subject job : Nat) (s : State) : State :=
  let p := (jobOf job s).getD 0
  let s := raise code subject 0 s
  when (p != 0) (notify (.fault code subject) p 0x0EF0 (reportFlds (ownReport code subject 0 s.time.ft s))) s

/-- The results that a Plaza holds for an instance. -/
def heldFor (n : VerdictNotice) (s : State) : Option HeldResults :=
  s.dig.heldResults.find? fun h => h.job == n.job && h.coll == n.coll && h.inst == n.inst && s.time.timer < h.ends

/-- The verdict that a notice tells. -/
def verdictOf (n : VerdictNotice) (suspects : Lines) : Verdict :=
  { job := n.job, coll := n.coll, inst := n.inst, verdict := if n.noMajority then 2 else 1, result := n.result, nMaj := n.nMaj,
    nOther := n.nOther, nAbsent := n.nAbsent, suspects := suspects }

/-- The stripe bytes of a verdict notice go with it; it leaves in the Control class. -/
def sendVerdict (src dst : Nat) (n : VerdictNotice) (s : State) : State := sendControl src dst 0x4456 192 (.verdict dst n) s

/-- A Plaza applies the first notice of an instance that it holds: each of its ranks with another result is reported and told;
a later notice that differs is a dispute (R278). -/
def applyVerdict (n : VerdictNotice) (s : State) : State :=
  match heldFor n s with
  | none => s
  | some h =>
    match h.noticed with
    | some n0 =>
      when ({ n0 with source := n.source } != n)
        (raise Config.disputeCode (roleKey (sourceKind n.source) (sourceNum n.source % 256)) 0) s
    | none =>
      let f (x : HeldResults) : HeldResults := if x = h then { x with noticed := some n } else x
      let s := onDig (fun d => { d with heldResults := d.heldResults.map f }) s
      let s := keepVerdict (verdictOf n 0) s
      when (!n.noMajority) (forEach (h.ranks.filter fun r => r.2 != n.result) fun r s =>
        sendVerdict (selfSource s) r.1 n (raiseForJob 0x0902 (dieKey r.1) n.job s)) s

/-- A notice goes down to every Plaza of the scope: from a Quarter to its Plazas, from the Forum to the Quarters. -/
def spreadVerdict (r : Role) (n : VerdictNotice) (s : State) : State :=
  forEach r.children (fun c => sendVerdict (selfKey r) c.source n) s

/-- The completing tier judges a closed tally (R277). -/
def judgeTally (t : Tally) (r : Role) (s : State) : State :=
  let votes := tallyVotes t
  let absent := t.ranks - votes
  match t.values.find? fun v => t.ranks < 2 * v.count with
  | none =>
    keepVerdict { job := t.job, coll := t.coll, inst := t.inst, verdict := 2, result := noDigest, nMaj := 0, nOther := votes,
                  nAbsent := absent, suspects := 0 } (raise 0x0903 (keyOfRole r) 0 s)
  | some m =>
    let other := votes - m.count
    let s := keepVerdict { job := t.job, coll := t.coll, inst := t.inst, verdict := if other = 0 then 0 else 1, result := m.result,
                           nMaj := m.count, nOther := other, nAbsent := absent, suspects := 0 } s
    if other = 0 then s
    else
      let n : VerdictNotice :=
        { noMajority := false, job := t.job, coll := t.coll, inst := t.inst, result := m.result, nMaj := m.count,
          nOther := other, nAbsent := absent, source := roleSource r, stripes := m.stripes }
      if t.role = .plaza then applyVerdict n s else spreadVerdict r n s

/-- A closed tally goes up in a tally record (R275, R276). -/
def sendTally (t : Tally) (r : Role) (s : State) : State :=
  let b : TallyBlock :=
    { job := t.job, coll := t.coll, inst := t.inst, short := tallyVotes t + t.unchkRanks < t.ranks, scatter := t.scatter,
      unchkRanks := t.unchkRanks, values := t.values }
  let rec_ : TallyRecord :=
    { timeQuality := t.quality, frame := currentFrame s, source := roleSource r, epoch := s.epoch,
      seq := tget 0 (tierOf r.kind) s.dig.tallySeq, blocks := [b] }
  let bytes := tallyBytes rec_
  let s := onDig (fun d => { d with tallySeq := tmod 0 (tierOf r.kind) (· + 1) d.tallySeq }) s
  let s := arcIngest 1 { mkEntry rec_.source bytes.length (.tallies rec_) s with produced := true, hosted := r.kind != .plaza } s
  forEach (parentsOf r s) (fun d s =>
    enqueueSeries (selfKey r) d 0x4454 rec_.seq bytes.length (recordBlocks bytes 0 0) (.tallyRec rec_) s) s

/-- The tier completes the instance: `SCOPE` names it or a tier below it, and a tray's instance short of `RANKS` goes on to
the Quarter (R275). -/
def completesHere (t : Tally) : Bool :=
  match t.role with
  | .plaza => t.scope == 0 && t.ranks ≤ tallyVotes t + t.unchkRanks
  | .quarter => t.scope ≤ 1
  | .forum => true

/-- A tally closes: at a Plaza its ranks' results are held for 20 ms; then it is judged here or goes up (R275, R278). -/
def closeTally (t : Tally) (s : State) : State :=
  match findRole t.role s with
  | none => s
  | some r =>
    let now := s.time.ft
    let hold : HeldResults :=
      { job := t.job, coll := t.coll, inst := t.inst, ends := s.time.timer + 20000000, ranks := t.entries, noticed := none }
    let f (d : Digests) : Digests :=
      { d with tallies := d.tallies.filter (fun x => !isTally t.role t.job t.coll t.inst x),
               shut := (d.shut.filter fun x => now < x.2.2.2.2 + 1000 * frameNs s) ++ [(t.role, t.job, t.coll, t.inst, now)],
               heldResults := if t.role = .plaza then d.heldResults ++ [hold] else d.heldResults }
    let s := onDig f s
    if completesHere t then judgeTally t r s else sendTally t r s

/-- Something reaches the tally of an instance, which opens if need be and closes when every rank is heard; an instance that
finds 1,024 open is not compared (R274, R275). -/
def onTally (k : RoleKind) (job coll inst : Nat) (e : CollEntry) (g : Tally → Tally) (s : State) : State :=
  if tallyShut k job coll inst s then s
  else
    let old := s.dig.tallies.find? (isTally k job coll inst)
    if old.isNone && 1024 ≤ (s.dig.tallies.filter fun t => t.role == k).length then
      let v : Verdict :=
        { job := job, coll := coll, inst := inst, verdict := 3, result := noDigest, nMaj := 0, nOther := 0,
          nAbsent := e.ranks, suspects := 0 }
      let now := s.time.ft
      keepVerdict v (onDig (fun d => { d with
        tallyFull := d.tallyFull + 1, shut := d.shut ++ [(k, job, coll, inst, now)] }) s)
    else
      let new : Tally :=
        { role := k, job := job, coll := coll, inst := inst, ranks := e.ranks, scope := e.scope,
          firstEnd := nextOpenFt s, values := [], scatter := 0, unchkRanks := 0, entries := [], heard := [], quality := 0 }
      let t := g (old.getD new)
      let s := onDig (fun d => { d with tallies := (d.tallies.filter fun x => !isTally k job coll inst x) ++ [t] }) s
      if t.ranks ≤ tallyVotes t + t.unchkRanks then closeTally t s else s

/-- A rank's result at a Plaza. -/
def takeResult (die : Nat) (quality : BitVec 8) (x : ResultEntry) (s : State) : State :=
  match (tableFor x.job s).bind (collEntry x.coll) with
  | none => s
  | some e =>
    if !e.checkResult then s
    else
      onTally .plaza x.job x.coll x.inst e (fun t =>
        let t := { t with quality := mergeQuality t.quality quality }
        if x.incomplete then { t with unchkRanks := t.unchkRanks + 1 }
        else addValue { result := x.result, count := 1, first8 := [die], stripes := x.stripes }
          { t with entries := t.entries ++ [(die, x.result)] }) s

/-- A child's instance block at a Quarter or the Forum. -/
def takeBlock (k : RoleKind) (src : Nat) (quality : BitVec 8) (b : TallyBlock) (s : State) : State :=
  match (tableFor b.job s).bind (collEntry b.coll) with
  | none => s
  | some e =>
    if !e.checkResult then s
    else
      onTally k b.job b.coll b.inst e (fun t =>
        if t.heard.contains src then t
        else b.values.foldl (fun t v => addValue v t)
          { t with scatter := t.scatter + b.scatter, unchkRanks := t.unchkRanks + b.unchkRanks, heard := t.heard ++ [src],
                   quality := mergeQuality t.quality quality }) s

/-- Tallies close at a tier's cut-off for the frame after the one in which their first entry arrived (R275). -/
def cutTallies (k : RoleKind) (opens : Nat) (s : State) : State :=
  if !digestUp s then s
  else forEach (s.dig.tallies.filter fun t => t.role == k && t.firstEnd ≤ opens) closeTally s

/-! ## Suspects (R279, R280) -/

/-- Units of a mask. -/
def unitsOf (m : Lines) : List Nat := (List.range 256).filter fun i => m.getLsbD i

/-- The units that wrote the stripes in which a Leaf differs. -/
def suspectMask (r : Retained) (stripes : List Word64) : Lines :=
  ((List.range 16).filter fun i => r.result.stripes.getD i 0 != stripes.getD i 0).foldl
    (fun m i => m ||| tget 0 i r.masks) 0

/-- Suspect reports against a unit within the latest 10 s of ft. -/
def suspectCount (line : Nat) (s : State) : Nat :=
  (s.dig.suspects.filter fun x => x.1 == line && s.time.ft ≤ x.2 + 10000000000).length

/-- The policy fences one of a number of suspects (R280). -/
def mayFence (e : CollEntry) (n : Nat) : Bool := (e.policy == 1 && n == 1) || (e.policy == 2 && n ≤ 4)

/-- A unit is suspect: reported, and fenced when the policy and its earlier reports say so; a test of it is aborted
(R280, R304). -/
def suspectUnit (r : Retained) (n line : Nat) (s : State) : State :=
  let s := onDig (fun d => { d with suspects := d.suspects ++ [(line, s.time.ft)] }) s
  let s := raiseForJob 0x0904 (unitKey s.die line) r.result.job s
  let after := if r.entry.fenceAfter = 0 then 2 else r.entry.fenceAfter
  if mayFence r.entry n && after ≤ suspectCount line s && !s.fence.getLsbD line then
    let s := assertFence line 1 0x0905 r.result.job r.result.inst s
    let s := raise 0x0905 (unitKey s.die line) 0 s
    match s.test.run with
    | some u => when (u.entry.tkind == 1 && u.unit == line) abortRun s
    | none => s
  else s

/-- A Leaf takes a verdict notice (R279). -/
def leafVerdict (n : VerdictNotice) (s : State) : State :=
  match s.dig.retained.find? fun r =>
      r.result.job == n.job && r.result.coll == n.coll && r.result.inst == n.inst && s.time.timer < r.ends with
  | none => onDig (fun d => { d with idleNotices := d.idleNotices + 1 }) s
  | some r =>
    let m := suspectMask r n.stripes
    let us := unitsOf m
    let s := keepVerdict (verdictOf n m) s
    if us = [] then onDig (fun d => { d with idleNotices := d.idleNotices + 1 }) s
    else if us.length ≤ 8 then forEach us (suspectUnit r us.length) s
    else raiseForJob 0x0904 (dieKey s.die) n.job s

end Sys2Proof.Machine
end

