-- ==== Sys2Proof/Machine/CrossingOps.lean ====
section
/-!
DEFINITION. Crossing groups and their clocks: what a group is for, whether it has outbound work, and the wake requests of
native groups (R418 to R421).
-/

namespace Sys2Proof.Machine

/-- What a Crossing group serves (R398, R418). -/
inductive GroupUse where
  | conc (c : Nat)
  | tap
  | fabric (port : Nat)
  | byp
  | buf
  | hrw
  | fnc
  | mem (port : Nat)
  /-- No outbound work, or a number that the configuration does not use. -/
  | none
deriving DecidableEq, Repr

/-- The use of group `g` in the Leaf and the Plaza numbering. -/
def groupUse (g : Nat) (plaza : Bool) : GroupUse :=
  if plaza then
    if g < 12 then .fabric g
    else match g with
      | 12 => .byp
      | 13 => .buf
      | 14 => .hrw
      | 15 => .fnc
      | _ => if 16 ≤ g ∧ g ≤ 23 then .mem (g - 16) else .none
  else if g < 16 then .conc g
  else match g with
    | 25 => .tap
    | 26 => .fabric 0
    | 27 => .byp
    | 28 => .buf
    | 29 => .hrw
    | 30 => .fnc
    | _ => .none

/-- A group holds outbound work that needs its clock. -/
def groupWork (g : Nat) (s : State) : Bool :=
  match groupUse g s.fuse.plaza with
  | .conc c => (conc c s).sealDue && !(conc c s).fenced
  | .fabric p => match s.upl.gate with
    | some x => x.port == p || !s.fuse.plaza
    | none => false
  | .byp => !s.upl.byp.isEmpty
  | .buf => !s.buf.ops.isEmpty
  | .fnc => s.test.run.isSome
  | .mem p => s.arc.ops.any fun o => o.port == p
  | .tap => false
  | .hrw => false
  | .none => false

/-- The group is in native mode: by its fuse bit, unless a clock failure has put it under the Drava rules (R418, R441). -/
def nativeGroup (g : Nat) (s : State) : Bool := !s.fuse.xmode.getLsbD g && !s.pwr.dravaForced.getLsbD g

/-- One group with a stopped clock: with work, it waits on its clock, and in native mode asks for it (R419, R420). -/
def stopGroup (g : Nat) (s : State) : State :=
  if !groupWork g s then s
  else onPwr (fun p => { p with
    xingWait := putBit p.xingWait g true,
    wakeReq := if nativeGroup g s then putBit p.wakeReq g true else p.wakeReq }) s

/-- The groups whose clocks are stopped. -/
def stopGroups (stopped : Word32) (s : State) : State :=
  forEach ((List.range 32).filter fun g => stopped.getLsbD g) stopGroup s

/-- A group waits no longer; its wake request falls once it holds no work (R419). -/
def settleGroup (g : Nat) (s : State) : State :=
  if s.pwr.xingWait.getLsbD g || groupWork g s then s
  else onPwr (fun p => { p with wakeReq := putBit p.wakeReq g false }) s

/-- A group's clock delivers an edge that can be used: its wait ends, and so does a failure of its clock (R419, R441). -/
def groupRuns (g : Nat) (s : State) : State :=
  settleGroup g (onPwr (fun p => { p with
    xingWait := putBit p.xingWait g false, dravaForced := putBit p.dravaForced g false }) s)

end Sys2Proof.Machine
end

