-- ==== Sys2Proof/Machine/SamplerEvt.lean ====
section
/-!
DEFINITION. Events at the concentrators: clock edges, drain and seal words, gauge updates (R54, R55, R59 to R63, R76 to
R84).
-/

namespace Sys2Proof.Machine

/-- The frame in which the Sampler finds a parity error: the one it is collecting. -/
def collectingFrame (s : State) : Nat :=
  match s.grid.closed with
  | some c => if s.grid.snapshotDue then c.1 else currentFrame s
  | none => currentFrame s

/-- The front observes on this edge (R54, R64, R76). -/
def frontSees (c : Nat) (s : State) : Bool := c < 16 && frontOn s && !(conc c s).fenced

/-- `EVT_OCCURRENCE`: a rising edge of `EVT_CLK[c]` with the levels on the concentrator's lines (R54, R56, R59). -/
def execEvtOccurrence (conc : Nat) (levels : Lines) (s : State) : Host.Outcome State Fault Refusal :=
  run (fun s => when (frontSees conc s) (countEdge conc levels) s) s

/-- A word with a parity error is not acknowledged; 16 from one concentrator within 1,000 frames fence it (R76). -/
def parityError (c : Nat) (s : State) : State :=
  let now := collectingFrame s
  let l := recentParity now ((conc c s).parity ++ [now])
  let s := onConc c (fun k => { k with parity := l }) s
  when (16 ≤ l.length) (joinCds 6 c 4 0 0) s

/-- The half whose words a front sends: the closed one until its seal, then the current one (R60). -/
def drainHalf (k : Conc) : Bool := if k.sealDue then !k.half else k.half

/-- The lines of a concentrator whose half holds a count, ascending. -/
def fullLines (c : Nat) (half : Bool) (s : State) : List Nat :=
  (s.smp.acc.filter fun e => e.1 / 512 == c && e.1 % 2 == bnat half && e.2 != 0).map fun e => e.1 / 2

/-- The line that the rotation of the current half serves next; it rises through the numbers and starts at line 0 (R60; the
sense of the rotation and its start are a DESIGN CHOICE, assumption 113). -/
def nextLine (c : Nat) (half : Bool) (s : State) : Option Nat :=
  let l := fullLines c half s
  match l.find? fun i => (conc c s).turn ≤ i % 256 with
  | some i => some i
  | none => l.head?

/-- It is a line's turn: any line of the closed half, and of the current half one whose count has reached 2^23 or, without
such a line, the next of the rotation (R60). -/
def lineTurn (line : Nat) (half : Bool) (s : State) : Bool :=
  let c := line / 256
  if (conc c s).sealDue then true
  else if (fullLines c half s).any fun i => 2 ^ 23 ≤ accOf i half s then 2 ^ 23 ≤ accOf line half s
  else nextLine c half s == some line

/-- A front can send this word: its half, its line's turn, up to 24 bits, and no more than the half holds (R60). -/
def wordPossible (line : Nat) (half : Bool) (count : Nat) (s : State) : Bool :=
  let k := conc (line / 256) s
  line < 4096 && half == drainHalf k && lineTurn line half s && 0 < count && count < 2 ^ 24 && count ≤ accOf line half s

/-- The rotation goes on behind a line of the current half that it has served; a line that went ahead of it leaves it where it
stands (R60). -/
def turnOn (line : Nat) (half : Bool) (s : State) : State :=
  let k := conc (line / 256) s
  if k.sealDue || 2 ^ 23 ≤ accOf line half s then s
  else onConc (line / 256) (fun k => { k with turn := (line + 1) % 256 }) s

/-- An acknowledged word leaves its half and reaches the counters (R61, R66). -/
def ackWord (line : Nat) (half : Bool) (count : Nat) (s : State) : State :=
  applyWord line count
    (onConc (line / 256) (fun k => { k with skipSeal := false })
      (onSmp (fun m => { m with acc := tmod 0 (accKey line half) (· - count) m.acc }) (turnOn line half s)))

/-- `DRAIN_WORD`: the Sampler takes a word, or leaves it unacknowledged (R60 to R63, R76). -/
def execDrainWord (line : Nat) (half : Bool) (count : Nat) (parityOk : Bool) (s : State) :
    Host.Outcome State Fault Refusal :=
  run (fun s =>
    if !samplerUp s || !frontSees (line / 256) s || !wordPossible line half count s then s
    else if parityOk then ackWord line half count s
    else parityError (line / 256) s) s

/-- The closed half of a concentrator is empty. -/
def halfDrained (c : Nat) (half : Bool) (s : State) : Bool :=
  s.smp.acc.all fun e => !(e.1 / 512 == c && e.1 % 2 == bnat half && e.2 != 0)

/-- `SEAL_WORD`: the seal follows the closed half's last word (R60); one that names a frame already closed is merged into
the next frame, which carries `CARRY` (R420). -/
def execSealWord (conc : Nat) (s : State) : Host.Outcome State Fault Refusal :=
  run (fun s =>
    let k := Sys2Proof.Machine.conc conc s
    if !samplerUp s || !frontSees conc s || !k.sealDue || !halfDrained conc (!k.half) s then s
    else if k.late then
      settleGroup conc (onConc conc (fun k => { k with sealDue := false, late := false, skipSeal := false })
        (onGrid (fun g => { g with carryDue := true }) s))
    else settleGroup conc (sealConc conc s)) s

/-- The comparators of a gauge evaluate an update in its cycle, in their order (R80). -/
def evalGauge (g value : Nat) (s : State) : State :=
  forEach ((List.range 4).map (4 * g + ·))
    (fun k s => when ((cmp k s).enable && !(cmp k s).srcCounter)
      (evaluate k (gaugeSigned (gauge g s).config) value (ftStamp s)) s) s

/-- `GAUGE_UPDATE`: a strobe of `GAU_STB[c]`; one that names a disabled gauge is ignored (R55). -/
def execGaugeUpdate (conc idx value : Nat) (s : State) : Host.Outcome State Fault Refusal :=
  run (fun s =>
    let g := 64 * conc + idx % 64
    when (frontSees conc s && gaugeEnable (gauge g s).config)
      (fun s => evalGauge g (value % 2 ^ 32) (onGauge g (takeUpdate (value % 2 ^ 32)) s)) s) s

end Sys2Proof.Machine
end

