-- ==== Sys2Proof/Machine/TreeOps.lean ====
section
/-!
DEFINITION. The tree engine's operations: image checks, feature values, walks and sums, capacities, intervals, scores and
their records (R200 to R233).
-/

namespace Sys2Proof.Machine

/-! ## Nodes (R204) -/

def nodeType (n : BitVec 128) : Nat := n.toNat % 4
def nodeDefaultRight (n : BitVec 128) : Bool := n.getLsbD 2
def nodeFeature (n : BitVec 128) : Nat := bits n.toNat 13 4
def nodeRight (n : BitVec 128) : Nat := bits n.toNat 31 15
def nodeWord (n : BitVec 128) : Int := toSigned 32 (bits n.toNat 63 32)
def nodeCat (n : BitVec 128) (c : Nat) : Bool := n.getLsbD (64 + c)

/-- The reserved bits of a node are 0, and a split's feature is in the table (R204, R205). -/
def nodeOk (nFeat : Nat) (n : BitVec 128) : Bool :=
  match nodeType n with
  | 0 => bits n.toNat 3 3 == 0 && bits n.toNat 14 14 == 0 && bits n.toNat 127 64 == 0 && nodeFeature n < nFeat
  | 1 => bits n.toNat 3 3 == 0 && bits n.toNat 14 14 == 0 && bits n.toNat 63 32 == 0 && nodeFeature n < nFeat
  | 2 => bits n.toNat 31 2 == 0 && bits n.toNat 127 64 == 0
  | _ => false

/-- A subtree in pre-order from an offset, within a number of split levels: the offset after it and its depth; `none` when a
`RIGHT` does not name the node that follows the left subtree, or the tree ends too soon (R205). -/
def subtree (tree : List (BitVec 128)) : Nat → Nat → Option (Nat × Nat)
  | 0, _ => none
  | fuel + 1, i =>
    match tree[i]? with
    | none => none
    | some n =>
      if nodeType n = 2 then some (i + 1, 0)
      else
        match subtree tree fuel (i + 1) with
        | none => none
        | some (r, dl) =>
          if nodeRight n ≠ r then none
          else (subtree tree fuel r).map fun x => (x.1, 1 + max dl x.2)

/-! ## The image (R201 to R205) -/

/-- The nodes of a tree of the directory. -/
def treeNodes (i : TreeImage) (e : DirEntry) : List (BitVec 128) := (i.nodes.drop e.root).take e.n

/-- One tree: its nodes form one pre-order tree of its depth. -/
def treeOk (i : TreeImage) (e : DirEntry) : Bool :=
  1 ≤ e.n && e.n ≤ 131071 && e.depth ≤ 16 && e.root + e.n ≤ i.nodes.length
    && subtree (treeNodes i e) 17 0 == some (e.n, e.depth)

/-- No two trees overlap. -/
def treesApart : List DirEntry → Bool
  | [] => true
  | a :: t => (t.all fun b => a.root + a.n ≤ b.root || b.root + b.n ≤ a.root) && treesApart t

/-- A power of two from 1 to 32,768. -/
def scoreEveryOk (n : Nat) : Bool := (List.range 16).any fun k => n == 2 ^ k

/-- A feature of a kind that R206 gives, with 0 in the part of `CONST` that its kind does not use (R202). -/
def featureOk (f : FeatDesc) : Bool :=
  1 ≤ f.fkind && f.fkind ≤ 9 && f.shift ≤ 31
    && (if f.fkind = 7 then 0 ≤ f.const && f.const < 2 ^ 24 else f.fkind == 9 || f.const == 0)

/-- `IMAGE_CRC` is CRC-32C over the whole image (R201). -/
def imageCrcOk (i : TreeImage) : Bool := i.imageCrc == (crc32c (imageBytes i)).toNat

/-- The image passes every check of R205. -/
def imageOk (i : TreeImage) : Bool :=
  i.tag == 0x5445 && i.version == 1 && i.reservedOk && imageCrcOk i && scoreEveryOk i.scoreEvery && i.model != 0 && i.partition ≤ 512
    && 1 ≤ i.features.length && i.features.length ≤ 1024 && i.features.all featureOk && i.features.map (·.feature) == List.range i.features.length
    && 1 ≤ i.dir.length && i.dir.length ≤ 65536
    && i.nodes.all (nodeOk i.features.length) && i.dir.all (treeOk i) && treesApart i.dir
    && runNodes i.dir == i.nodes.length && i.maxDepth == listMax (i.dir.map (·.depth))

/-! ## Walks and sums (R209 to R211) -/

/-- A split sends the walk right. -/
def goesRight (n : BitVec 128) (v : Option Int) : Bool :=
  match v with
  | none => nodeDefaultRight n
  | some x =>
    if nodeType n = 0 then !(x < nodeWord n)
    else
      let c := x / 65536
      if 0 ≤ c ∧ c ≤ 63 then nodeCat n c.toNat else nodeDefaultRight n

/-- A walk of one tree from an offset; 0 where the tree has no such node, which R205 rules out. -/
def walk (tree : List (BitVec 128)) (values : List (Option Int)) : Nat → Nat → Int
  | 0, _ => 0
  | fuel + 1, i =>
    match tree[i]? with
    | none => 0
    | some n =>
      if nodeType n = 2 then nodeWord n
      else if goesRight n (values.getD (nodeFeature n) none) then walk tree values fuel (nodeRight n)
      else walk tree values fuel (i + 1)

/-- The partial of a range of trees, in ascending index. -/
def partialOf (i : TreeImage) (first count : Nat) (values : List (Option Int)) : Int :=
  ((i.dir.drop first).take count).foldl (fun a e => a + walk (treeNodes i e) values 17 0) 0

/-! ## Features (R206, R207) -/

/-- A state value of a series that is not Off. -/
def seriesState (f : FeatDesc) (x : Series) (v : Int) : Option Int :=
  if x.sstate = 0 ∨ (x.sstate = 1 ∧ f.missingIfWarm) then none else some v

/-- The value of a feature at the Leaf for the frame just closed, saturated; none where missing. -/
def featureValue (f : FeatDesc) (x : SeriesIn) (s : State) : Option Int :=
  let sh : Int := (2 ^ f.shift : Nat)
  let series (g : Series → Option Int) : Option Int :=
    match s.conf.series.find? fun e => e.1 == f.src with
    | some e => g e.2
    | none => none
  let v : Option Int := match f.fkind with
    | 1 => series (seriesSample f)
    | 2 => series fun y => seriesState f y (y.b / 65536)
    | 3 => series fun y => seriesState f y (y.s / 65536)
    | 4 => series fun y => if y.sstate = 2 then some y.beta else none
    | 5 => match x.gs.find? fun e => e.index == f.src % 1024 with
      | some e => if e.stale && f.missingIfStale then none else some (asLevel e.signed e.value * 65536 / sh)
      | none => none
    | 6 => match x.es.find? fun e => e.index == f.src with
      | some e => if e.flags.getLsbD 3 || e.flags.getLsbD 4 then none else some ((e.delta : Nat) * 65536 / sh)
      | none => none
    | 7 => (tget none (toField 24 f.const) s.conf.lastLate).map fun l => l * 65536 / sh
    | 9 => some f.const
    | _ => none
  v.map (clampS 32)

/-- A feature's source belongs to the image's partition; each configuration checks the sources it has (R207). -/
def featureMine (p : Nat) (f : FeatDesc) (s : State) : Bool :=
  let series := s.conf.series.any fun e => e.1 == f.src && e.2.desc.partition == p
  if p = 0 then true
  else if s.fuse.plaza then f.fkind != 8 || series
  else
    match f.fkind with
    | 1 | 2 | 3 | 4 => series
    | 5 => gaugePartition (gauge (f.src % 1024) s).config == p
    | 6 => bindEnable (counter f.src s).binding && bindPartition (counter f.src s).binding == p
    | 7 => (match s.conf.active with
        | some c => c.image.partition == p
        | none => false)
    | _ => true

/-! ## Capacities (R200) -/

def slotLimit (s : State) : Nat := if s.fuse.plaza then 64 else 4
def treeLimit (s : State) : Nat := if s.fuse.plaza then 16384 else 256
def nodeLimit (s : State) : Nat := if s.fuse.plaza then 2097152 else 64 * regionKib .nodes s

/-- Nodes of the range a slot holds. -/
def slotNodes (t : TreeSlot) : Nat := runNodes ((t.image.dir.drop t.first).take t.count)

def treesUsed (s : State) : Nat := s.tree.slots.foldl (fun n t => n + t.count) 0
def nodesUsed (s : State) : Nat := s.tree.slots.foldl (fun n t => n + slotNodes t) 0

/-- What a partition's slots hold: trees, nodes. -/
def quotaUse (p : Nat) (s : State) : Nat × Nat :=
  (s.tree.slots.filter fun t => t.image.partition == p).foldl (fun n t => (n.1 + t.count, n.2 + slotNodes t)) (0, 0)

/-- The largest run of trees from L upward that fits the chip (R217). -/
def homeRun (i : TreeImage) (l : Nat) (s : State) : Nat :=
  let trees := i.dir.drop l
  let freeT := treeLimit s - treesUsed s
  let freeN := nodeLimit s - nodesUsed s
  ((List.range (min freeT trees.length + 1)).filter fun k => runNodes (trees.take k) ≤ freeN).foldl max 0

/-- A slot as a load makes it: pending, with I under the doublings in force (R215, R225, R233). -/
def pendingSlot (i : TreeImage) (first count l : Nat) (home : Bool) (tray : Nat) (s : State) : TreeSlot :=
  { image := i, first := first, count := count, leafTrees := l, home := home, tray := tray, activeFrom := none,
    activeTo := none, intervals := [(0, min 32768 (i.scoreEvery * 2 ^ s.tree.stretch))], dies := [] }

/-- A header as a load makes it. -/
def pendingHeader (i : TreeImage) (s : State) : TreeSlot :=
  pendingSlot { i with nodes := [] } 0 0 (leafRange i) false (trayOf s.die) s

/-- I in effect for a frame (R215). -/
def intervalAt (frame : Nat) (t : TreeSlot) : Nat :=
  t.intervals.foldl (fun i x => if x.1 ≤ frame then x.2 else i) t.image.scoreEvery

/-- The slot serves a scoring frame (R226, R228). -/
def activeAt (frame : Nat) (t : TreeSlot) : Bool :=
  (match t.activeFrom with
    | none => false
    | some a => a ≤ frame)
  && (match t.activeTo with
    | none => true
    | some z => frame < z)

/-- A scoring frame of an interval (R213). -/
def isScoring (frame interval : Nat) : Bool := frame % interval == interval - 1

/-! ## Demand and intervals (R215) -/

/-- Vectors that a Plaza scores for a slot in a scoring frame. -/
def slotVectors (t : TreeSlot) (s : State) : Nat :=
  if t.home then (match findRole .plaza s with
    | some r => r.children.length
    | none => 0)
  else t.dies.length

/-- I under a number of doublings. -/
def stretched (t : TreeSlot) (k : Nat) : Nat := min 32768 (t.image.scoreEvery * 2 ^ k)

/-- Visits a second of every slot that is active for a frame under a number of doublings. -/
def visitDemand (k frame : Nat) (s : State) : Nat :=
  (s.tree.slots.filter (activeAt frame)).foldl (fun n t =>
    n + runDemand ((t.image.dir.drop t.first).take t.count) (slotVectors t s) (stretched t k) s.grid.period) 0

/-- Node visits a second of a Plaza's live lanes. -/
def visitLimit (s : State) : Nat := 48000000000 * (64 - deadCount 3 s) / 64

/-- A new number of doublings: each slot's I changes from the first frame that is a multiple of the larger I; a change that
had not begun gives way. -/
def setStretch (k : Nat) (next : Nat) (s : State) : State :=
  let f (t : TreeSlot) : TreeSlot :=
    let i := stretched t k
    let big := max 1 (max i (intervalAt next t))
    let at_ := ceilDiv next big * big
    { t with intervals := (t.intervals.filter fun x => x.1 ≤ next && x.1 != at_) ++ [(at_, i)] }
  onTree (fun x => { x with stretch := k, slots := x.slots.map f }) s

/-- Demand is recomputed for a Plaza: intervals double until it fits, and return to the image's when it fits there. -/
def restretch (next : Nat) (s : State) : State :=
  if !s.fuse.plaza then s
  else
    let fits (k : Nat) : Bool := visitDemand k next s ≤ visitLimit s
    let k := s.tree.stretch
    if fits k then
      if k != 0 && fits 0 then setStretch 0 next s else s
    else
      let k' := ((List.range 16).find? fun j => k < j && fits j).getD 15
      if k' ≤ k then s
      else
        raise 0x0702 (engineKey s.die 7) 0
          (onTree (fun x => { x with doublings := x.doublings + (k' - k) }) (setStretch k' next s))

/-! ## Scores out (R214, R221 to R223) -/

/-- T of the tier that completes a score, ns (R214). -/
def tierDelay : RoleKind → Nat
  | .plaza => 150000
  | _ => 700000

/-- A score flag. -/
def scLate : BitVec 16 := 0x01
def scMissing : BitVec 16 := 0x02
def scSkipped : BitVec 16 := 0x04
def scAlert : BitVec 16 := 0x08
def scMismatch : BitVec 16 := 0x10
def scPartial : BitVec 16 := 0x20

/-- µs since the end of a frame, saturated. -/
def doneUs (frameEnd : Nat) (s : State) : Nat := min 0xFFFFFFFF ((s.time.ft - frameEnd) / 1000)

/-- A score entry of a range. -/
def scoreEntry (model crc die first last frame : Nat) (v : Int) (flags : BitVec 16) (us : Nat) : ScoreEntry :=
  { model := model, imageCrc := crc, die := die, firstTree := first, lastTree := last, sframe := frame, value := v,
    scflags := flags, doneUs := us }

/-- The score alert applies to a value (R223). -/
def alerts (i : TreeImage) (v : Int) : Bool :=
  i.alertEn && (if i.alertAbove then i.alertLevel < v else v < i.alertLevel)

/-- The time quality of the open frame so far (R43). -/
def openQuality (s : State) : BitVec 8 := timeQuality ((s.grid.frame.map (·.quality)).getD 0) s

/-- Entries leave in a score record: a Leaf's to its parent, a role's to its parent replicas. -/
def sendScores (k : Option RoleKind) (es : List ScoreEntry) (s : State) : State :=
  let role := k.bind fun x => findRole x s
  let src := (role.map roleSource).getD s.die
  let tier := (k.map tierOf).getD 0
  let key := (role.map selfKey).getD s.die
  let dsts := match role with
    | some r => parentsOf r s
    | none => s.place.parent.toList
  let r : ScoreRecord :=
    { timeQuality := openQuality s, replica := replicaIn key, frame := currentFrame s, source := src, epoch := s.epoch,
      seq := tget 0 tier s.tree.seq, scores := es }
  let bytes := scoreBytes r
  let s := onTree (fun t => { t with seq := tmod 0 tier (· + 1) t.seq }) s
  let s := when k.isSome (arcIngest 1 { mkEntry src bytes.length (.scores r) s with
    produced := true, hosted := k == some .quarter || k == some .forum }) s
  forEach dsts (fun d s => enqueueSeries key d 0x5343 r.seq bytes.length (recordBlocks bytes 0 0) (.scoreRec r) s) s

/-- The latest score of a model and die. -/
def latestScore (model die : Nat) (s : State) : Option ScoreEntry :=
  s.tree.scores.find? fun e => e.model == model && e.die == die

/-- The score slot of a frame is completed or declared here (R213). -/
def settled (model die frame : Nat) (s : State) : Bool := s.tree.done.contains (model, die, frame)

/-- A score is kept as the latest, its slot settled. -/
def keepScore (e : ScoreEntry) (s : State) : State :=
  let older : Bool := match latestScore e.model e.die s with
    | some x => e.sframe < x.sframe
    | none => false
  let s := onTree (fun t => { t with done := addOnce (e.model, e.die, e.sframe) t.done }) s
  if older then s
  else onTree (fun t => { t with scores := (t.scores.filter fun x => !(x.model == e.model && x.die == e.die)) ++ [e] }) s

/-- A completed slot is kept, counted and sent upward (R213, R214, R223). -/
def finishScore (k : Option RoleKind) (e : ScoreEntry) (s : State) : State :=
  let f := e.scflags
  let s := onTree (fun t => { t with
    present := t.present + bnat (!f.getLsbD 1 && !f.getLsbD 2), late := t.late + bnat (f.getLsbD 0),
    missing := t.missing + bnat (f.getLsbD 1), skipped := t.skipped + bnat (f.getLsbD 2) }) s
  sendScores k [e] (keepScore e s)

/-- A value is completed: `LATE` after its due time, `ALERT` with its report and notice (R214, R223). -/
def completeScore (k : Option RoleKind) (i : TreeImage) (die frame frameEnd period delay : Nat) (v : Int) (s : State) : State :=
  let late := frameEnd + i.scoreEvery * period * 1000 + delay < s.time.ft
  let al := alerts i v
  let flags := (if late then scLate else 0) ||| (if al then scAlert else 0)
  let s := when al (fun s =>
    let s := raise 0x0701 (dieKey die) 0 s
    when (i.partition != 0) (notify (.score i.model die) i.partition 0x07F0
      [f32 0 i.model, f32 4 die, f64 8 frame, f64 0x10 (toField 64 v)]) s) s
  finishScore k (scoreEntry i.model i.imageCrc die 0 (i.dir.length - 1) frame v flags (doneUs frameEnd s)) s

/-- A slot without a value: missing, skipped or mismatched (R213, R214, R227). -/
def failScore (k : Option RoleKind) (i : TreeImage) (die frame frameEnd : Nat) (flags : BitVec 16) (s : State) : State :=
  finishScore k (scoreEntry i.model i.imageCrc die 0 (i.dir.length - 1) frame 0 flags (doneUs frameEnd s)) s

/-- A block asks the Forum replicas for an image or a range of one, once until it comes (R230, R232). -/
def askImage (a : ImageAsk) (s : State) : State :=
  if s.tree.requested.contains a then s
  else
    let s := onTree (fun t => { t with requested := t.requested ++ [a] }) s
    forEach (forumNames s) (fun d => sendControl (selfSource s) d 0x4D47 128 (.imageReq a)) s

/-- What the block asks for to have a slot's range again (R232). -/
def reloadOf (t : TreeSlot) : ImageAsk :=
  { model := t.image.model, imageCrc := t.image.imageCrc, tray := t.tray, home := t.home,
    range := some (t.first, t.first + t.count - 1) }

/-! ## The Leaf (R208, R216, R219) -/

/-- Vectors are fixed for the frame just closed, in every slot for which it is a scoring frame (R208, R213). -/
def assembleVectors (frame period closeFt : Nat) (quality : BitVec 8) (x : SeriesIn) (s : State) : State :=
  if !engineUp 7 s then absentAt 2 7 s
  else
    let due := s.tree.slots.filter fun t => activeAt frame t && isScoring frame t.image.scoreEvery
    onTree (fun t => { t with vecs := t.vecs ++ due.map fun d =>
      { model := d.image.model, die := s.die, frame := frame, frameEnd := closeFt, period := period,
        imageCrc := d.image.imageCrc, home := true, quality := quality, leafPartial := 0, leafTrees := d.leafTrees,
        values := d.image.features.map (fun f => featureValue f x s), waits := [] } }) s

/-- Helpers that the Leaf's part table names for a model. -/
def helpersFor (model : Nat) (s : State) : List Nat :=
  match s.place.part with
  | none => []
  | some p => ((p.parts.filter fun e => e.model == model && 2 ≤ e.part).map (·.host)).foldl (fun l h => addOnce h l) []

/-- The feature record of a vector goes to the parent and to each helper (R219). -/
def forwardVector (v : Vec) (part : Int) (late : Bool) (s : State) : State :=
  let r : FeatureRecord :=
    { timeQuality := v.quality, leafLate := late, frame := v.frame, die := v.die, epoch := s.epoch, model := v.model, imageCrc := v.imageCrc,
      leafPartial := part, leafTrees := v.leafTrees, values := v.values }
  let bytes := featureBytes r
  match s.place.parent with
  | none => s
  | some p =>
    forEach (addOnce p [] ++ (helpersFor v.model s).filter (· != p)) (fun d s =>
      enqueueSeries s.die d 0x4656 0 bytes.length (recordBlocks bytes 0 0) (.featureRec d r) s) s

/-- The slot of a vector. -/
def slotForVec (v : Vec) (s : State) : Option TreeSlot :=
  s.tree.slots.find? fun t => t.image.model == v.model && t.image.imageCrc == v.imageCrc && t.home == v.home
    && (t.home || t.tray == trayOf v.die) && activeAt v.frame t

/-- The lanes finish a vector at the Leaf. -/
def leafScore (v : Vec) (t : TreeSlot) (nodeError : Bool) (s : State) : State :=
  let part := partialOf t.image 0 t.leafTrees v.values
  if nodeError then
    let s := askImage (reloadOf t) s
    if t.leafTrees = t.image.dir.length then failScore none t.image v.die v.frame v.frameEnd scMissing s else s
  else if t.leafTrees = t.image.dir.length then
    completeScore none t.image v.die v.frame v.frameEnd v.period 0 (t.image.base + part) s
  else forwardVector v part (v.frameEnd + t.image.scoreEvery * v.period * 1000 < s.time.ft) s

/-! ## The Plaza (R217, R218, R220, R222, R227, R230) -/

/-- A partial entry. -/
def partialEntry (v : Vec) (first count : Nat) (x : Int) (flags : BitVec 16) (s : State) : ScoreEntry :=
  scoreEntry v.model v.imageCrc v.die first (first + count - 1) v.frame x (scPartial ||| flags) (doneUs v.frameEnd s)

/-- The lanes finish a vector at a Plaza chip: the home completes a score when it holds every tree from L on, and else sends
its partial and the Leaf's; a helper sends its own. -/
def plazaScore (v : Vec) (t : TreeSlot) (nodeError : Bool) (s : State) : State :=
  let part := partialOf t.image t.first t.count v.values
  let whole := t.home && t.first + t.count == t.image.dir.length && v.leafTrees == t.first
  if nodeError then
    let s := askImage (reloadOf t) s
    if whole then failScore (some .plaza) t.image v.die v.frame v.frameEnd scMissing s
    else sendScores (some .plaza) [partialEntry v t.first t.count 0 scMissing s] s
  else if whole then
    completeScore (some .plaza) t.image v.die v.frame v.frameEnd v.period (tierDelay .plaza)
      (t.image.base + v.leafPartial + part) s
  else
    let own := partialEntry v t.first t.count part 0 s
    let leaf := if t.home && v.leafTrees != 0 then [partialEntry v 0 v.leafTrees v.leafPartial 0 s] else []
    sendScores (some .plaza) (leaf ++ [own]) s

/-- The Leaf is adopted here. -/
def adoptedHere (die : Nat) (s : State) : Bool :=
  match findRole .plaza s with
  | some r => r.children.any fun c => c.source == die
  | none => false

/-- The period of a frame that the block knows: a hosted role's, the closed frame's, or the grid's. -/
def framePeriod (frame : Nat) (s : State) : Nat :=
  match s.roles.findSome? fun r => (frameNamed frame r).map (·.period) with
  | some p => p
  | none =>
    match s.grid.closed with
    | some (n, p, _, _) => if n = frame then p else s.grid.period
    | none => s.grid.period

/-- Trees L to the last: the home Plaza completes the score (R218). -/
def wholeHere (t : TreeSlot) : Bool := t.home && t.first + t.count == t.image.dir.length

/-- The slot that serves a die's vector: the home's, or that of a helper for the die's home tray (R217, R230). -/
def slotForRecord (model die frame : Nat) (home : Bool) (s : State) : Option TreeSlot :=
  s.tree.slots.find? fun t => t.image.model == model && t.home == home && (home || t.tray == trayOf die) && activeAt frame t

/-- A vector that this block cannot score: a score without a value where it would complete it, else a partial without one
(R213, R215, R227). -/
def failVector (v : Vec) (t : TreeSlot) (flags : BitVec 16) (s : State) : State :=
  if wholeHere t then failScore (some .plaza) t.image v.die v.frame v.frameEnd flags s
  else sendScores (some .plaza) [partialEntry v t.first t.count 0 flags s] s

/-- A feature record for which a Plaza holds no active range: the score is missing, and that of a foreign Leaf carries `LATE`
while its image is asked for (R225, R230). -/
def noSlot (r : FeatureRecord) (frameEnd : Nat) (s : State) : State :=
  let foreign := trayOf r.die != trayOf s.die
  let bare : TreeImage :=
    { tag := 0x5445, version := 1, model := r.model, alertEn := false, alertAbove := false, partition := 0, base := 0,
      alertLevel := 0, scoreEvery := 1, maxDepth := 0, imageCrc := r.imageCrc, reservedOk := true, features := [], dir := [],
      nodes := [] }
  let held := s.tree.slots.any fun t => t.image.model == r.model && t.home
  let s := when (foreign && !held)
    (askImage { model := r.model, imageCrc := r.imageCrc, tray := trayOf r.die, home := true, range := none }) s
  failScore (some .plaza) bare r.die r.frame frameEnd (if foreign then scMissing ||| scLate else scMissing) s

/-- A template of a feature waits for a frame of a die: the Plaza has still to feed it that frame (R208). -/
def templateWaits (die frame period : Nat) (s : State) (f : FeatDesc) : Bool :=
  f.fkind == 8 && (s.conf.series.any fun e => e.1 == f.src && tmplDue die frame period e s)
    && s.time.ft < frameEnds frame period + cutoffNs .plaza

/-- The vector of a feature record at a slot: its values of Plaza templates are those that the frame's update leaves (R208,
R220). -/
def vectorOf (r : FeatureRecord) (t : TreeSlot) (period frameEnd : Nat) (s : State) : Vec :=
  let all := (t.image.features.zipIdx.filter fun f => f.1.fkind == 8).map fun f => (f.2, f.1)
  let v : Vec :=
    { model := r.model, die := r.die, frame := r.frame, frameEnd := frameEnd, period := period, imageCrc := r.imageCrc,
      home := t.home, quality := r.timeQuality, leafPartial := r.leafPartial, leafTrees := r.leafTrees,
      values := (List.range t.image.features.length).map fun k => r.values.getD k none, waits := all }
  fixVec (fun f => !templateWaits r.die r.frame period s f) s v

/-- A feature record at a Plaza chip. -/
def takeVector (rec_ : FeatureRecord) (s : State) : State :=
  let home := adoptedHere rec_.die s
  let period := framePeriod rec_.frame s
  let frameEnd := frameEnds rec_.frame period
  let s := onTree (fun x => { x with came := addOnce (rec_.model, rec_.die, rec_.frame) x.came }) s
  match slotForRecord rec_.model rec_.die rec_.frame home s with
  | none => if home then noSlot rec_ frameEnd s else s
  | some t =>
    let v := vectorOf rec_ t period frameEnd s
    if t.image.imageCrc ≠ rec_.imageCrc then
      raise 0x0703 (dieKey rec_.die) 0
        (failVector v t (scMissing ||| scMismatch) (onTree (fun x => { x with mismatches := x.mismatches + 1 }) s))
    else if !isScoring rec_.frame (intervalAt rec_.frame t) then failVector v t scSkipped s
    else
      let note (x : TreeSlot) : TreeSlot := if x = t && !home then { x with dies := addOnce rec_.die x.dies } else x
      onTree (fun x => { x with vecs := x.vecs ++ [v], slots := x.slots.map note }) s

/-! ## The Quarter and the Forum (R222, R227, R233) -/

/-- The parts cover every tree once. -/
def partsCover (n : Nat) : Nat → List (Nat × Nat × Int) → Bool
  | at_, [] => at_ == n
  | at_, p :: t => p.1 == at_ && p.1 ≤ p.2.1 && partsCover n (p.2.1 + 1) t

/-- A part in its place, by first tree. -/
def insertPart (p : Nat × Nat × Int) : List (Nat × Nat × Int) → List (Nat × Nat × Int)
  | [] => [p]
  | x :: t => if p.1 = x.1 then x :: t else if p.1 < x.1 then p :: x :: t else x :: insertPart p t

/-- The parts of a slot leave the table. -/
def dropParts (model die frame : Nat) (s : State) : State :=
  onTree (fun t => { t with parts := t.parts.filter fun x => !(x.model == model && x.die == die && x.frame == frame) }) s

/-- A partial entry at a Quarter replica: it shows that helpers hold ranges, and joins the parts of its score.  One of another
image is counted and reported, also when the score is settled already (R218, R222, R227; DEDUCED, assumption 141). -/
def takePartial (e : ScoreEntry) (s : State) : State :=
  match s.tree.headers.find? fun h => h.image.model == e.model && activeAt e.sframe h with
  | none => s
  | some h =>
    let period := framePeriod e.sframe s
    let frameEnd := frameEnds e.sframe period
    let s := onTree (fun x => { x with split := addOnce (e.model, trayOf e.die) x.split }) s
    let ended := settled e.model e.die e.sframe s
    if h.image.imageCrc ≠ e.imageCrc then
      let s := raise 0x0703 (dieKey e.die) 0 (onTree (fun x => { x with mismatches := x.mismatches + 1 }) s)
      if ended then s
      else failScore (some .quarter) h.image e.die e.sframe frameEnd (scMissing ||| scMismatch)
        (dropParts e.model e.die e.sframe s)
    else if ended then s
    else if e.scflags.getLsbD 1 || e.scflags.getLsbD 2 then
      failScore (some .quarter) h.image e.die e.sframe frameEnd (e.scflags &&& (scMissing ||| scSkipped ||| scMismatch))
        (dropParts e.model e.die e.sframe s)
    else
      let old := (s.tree.parts.find? fun x => x.model == e.model && x.die == e.die && x.frame == e.sframe).getD
        { model := e.model, die := e.die, frame := e.sframe, imageCrc := e.imageCrc, parts := [] }
      let new := { old with parts := insertPart (e.firstTree, e.lastTree, e.value) old.parts }
      let s := dropParts e.model e.die e.sframe s
      if partsCover h.image.dir.length 0 new.parts then
        completeScore (some .quarter) h.image e.die e.sframe frameEnd period (tierDelay .quarter)
          (new.parts.foldl (fun a p => a + p.2.2) h.image.base) s
      else onTree (fun t => { t with parts := t.parts ++ [new] }) s

/-- A completed entry at a Forum replica: the one of the replica that it has adopted for the frame stands, replica 0's where it
has adopted none; one that differs is a dispute (R122, R123, R233). -/
def forumScore (r : ScoreRecord) (e : ScoreEntry) (s : State) : State :=
  let q := sourceNum r.source % 256
  let period := framePeriod e.sframe s
  let chosen := ((findRole .forum s).bind (adoptedOf q e.sframe period)).getD 0
  let same (x : Nat × ScoreEntry) : Bool := x.2.model == e.model && x.2.die == e.die
  let other := s.tree.rivals.find? fun x => same x && x.1 != r.replica && x.2.sframe == e.sframe
  let s := onTree (fun t => { t with rivals := (t.rivals.filter fun x => !(same x && x.1 == r.replica)) ++ [(r.replica, e)] }) s
  let s := match other with
    | some x => when (x.2.value != e.value || x.2.scflags != e.scflags) (raise Config.disputeCode (roleKey 2 q) 0) s
    | none => s
  if r.replica = chosen || other.isNone then keepScore e s else s

/-- A completed entry passes up from a Quarter replica, which then has no part in it; a Forum replica compares the two
replicas' (R222, R233). -/
def takeScore (k : RoleKind) (r : ScoreRecord) (e : ScoreEntry) (s : State) : State :=
  match k with
  | .forum => forumScore r e s
  | _ =>
    let f (t : Trees) : Trees := { t with split := t.split.filter (· != (e.model, trayOf e.die)) }
    sendScores (some k) [e] (keepScore e (onTree f s))

end Sys2Proof.Machine
end

