-- ==== Sys2Proof/Machine/TreeCmd.lean ====
section
/-!
DEFINITION. Commands of group 0x07 and the events of the tree engine (R200 to R233).
-/

namespace Sys2Proof.Machine

/-! ## TREE_LOAD (R205, R207, R216, R217, R225, R229) -/

/-- A pending image of a model gives way to a further load. -/
def dropPending (model : Nat) (s : State) : State :=
  let keep (t : TreeSlot) : Bool := !(t.image.model == model && t.activeFrom.isNone)
  onTree (fun x => { x with slots := x.slots.filter fun t => !t.home || keep t, headers := x.headers.filter keep }) s

/-- A home Plaza reports upward the trees that it cannot hold (R217; the message's form is a DESIGN CHOICE, assumption 142). -/
def reportRemainder (t : TreeSlot) (s : State) : State :=
  let next := t.first + t.count
  match findRole .plaza s with
  | some r => when (next < t.image.dir.length) (forEach (parentsOf r s) fun p =>
      sendControl (selfSource s) p 0x4D47 64 (.remainder p t.image.model next (t.image.dir.length - 1))) s
  | none => s

/-- A slot fits what the chip has free (R200). -/
def slotFits (t : TreeSlot) (s : State) : Bool :=
  s.tree.slots.length < slotLimit s && treesUsed s + t.count ≤ treeLimit s && nodesUsed s + slotNodes t ≤ nodeLimit s

/-- A further slot fits a tenant partition's quota (R229). -/
def quotaFits (p : Nat) (t : TreeSlot) (s : State) : Bool :=
  let u := quotaUse p s
  let q := tget (0, 0) p s.tree.quotas
  u.1 + t.count ≤ q.1 && u.2 + slotNodes t ≤ q.2

/-- The home chip of a scope: its tray's, also where the scope names one die of the tray. -/
def homeOfScope (r : Req) (s : State) : Bool :=
  if r.relay then
    selfInScope r.scope s || (match r.scope with
      | .die d => trayOf d == trayOf s.die
      | _ => false)
  else true

/-- The slot that a load makes here, if any: a Leaf's range, or a home Plaza's (R216, R217). -/
def loadSlot (r : Req) (i : TreeImage) (s : State) : Option TreeSlot :=
  let l := leafRange i
  if !s.fuse.plaza then some (pendingSlot i 0 l l true (trayOf s.die) s)
  else if (findRole .plaza s).isSome && homeOfScope r s && l < i.dir.length then
    some (pendingSlot i l (homeRun i l s) l true (trayOf s.die) s)
  else none

/-- What a chip's wider roles keep: a Quarter replica the header, a Forum replica the whole image in the Arcade (R225). -/
def loadTiers (i : TreeImage) (s : State) : State :=
  let s := when (s.fuse.plaza) (onTree (fun t => { t with headers := t.headers ++ [pendingHeader i s] })) s
  when (findRole .forum s).isSome (fun s =>
    arcIngest 4 { mkEntry forumSource (imageSize i) (.image i) s with hosted := true }
      (onTree (fun t => { t with kept := addOnce i.model t.kept }) s)) s

/-- The status that a load ends with, with the state it leaves. -/
def loadImage (r : Req) (i : TreeImage) (s0 : State) : Nat × State :=
  let s := dropPending i.model s0
  match loadSlot r i s with
  | none => (Config.ok, loadTiers i s)
  | some t =>
    let tenantShort := isTenant r.issuer && !quotaFits (issuerPart r.issuer) t s
    if !slotFits t s || tenantShort || (s.fuse.plaza && t.count == 0) then (Config.noSpace, s0)
    else (Config.ok, loadTiers i (reportRemainder t (onTree (fun x => { x with slots := x.slots ++ [t] }) s)))

/-- The own part of `TREE_LOAD`. -/
def treeLoad (r : Req) (d : Desc) (i : TreeImage) (s : State) : State × Reply :=
  if !inputOk r d s then deny Config.bufferFault s
  else if !imageOk i then deny Config.invalidImage s
  else if (isTenant r.issuer && i.partition != issuerPart r.issuer) || !(i.features.all fun f => featureMine i.partition f s)
  then deny Config.isolation s
  else
    match loadImage r i s with
    | (0, s) => (s, { status := Config.accepted, work := some (.treeLoad i.model), after := complete (.treeLoad i.model) Config.ok [] })
    | (st, s) => deny st s

/-- A relayed command at a first block outside its scope, which the block's engine and its checks let pass: its tiers still
follow it (R225, R226, R228). -/
def passesOn (c : Cmd) (r : Req) (form : Bool) (s : State) : Bool :=
  engineUp 7 s && r.relay && !isCopy r.issuer && !selfInScope r.scope s && requestPasses c r form s

/-- `TREE_LOAD` (0x0701).  A chip through which the load passes on its way to the scope keeps what its roles need. -/
def execTreeLoad (r : Req) (desc : Desc) (image : TreeImage) (s : State) : Host.Outcome State Fault Refusal :=
  let form := inputRelayOk r desc
  run (fun s =>
    let c : Cmd := { code := 0x0701, allow := { t := true }, relayable := true, attachment := attachedTo r desc (imageFile image) s }
    let passes := passesOn c r form s && imageOk image && (!isTenant r.issuer || image.partition == issuerPart r.issuer)
    serve c r form (engineServed 7 (treeLoad r desc image)) (when passes (fun s => (loadImage r image s).2) s)) s

/-! ## TREE_ARM and TREE_UNLOAD (R226, R228) -/

/-- Every image of a model that the block holds or keeps. -/
def imagesOf (model : Nat) (s : State) : List TreeImage :=
  ((s.tree.slots ++ s.tree.headers).map (·.image) ++ keptImages s).filter fun i => i.model == model

/-- The images of a model that an issuer may name. -/
def imagesFor (i : Issuer) (model : Nat) (s : State) : List TreeImage :=
  (imagesOf model s).filter fun x => !isTenant i || x.partition == issuerPart i

/-- The pending image of a model becomes active from a frame, and the previous one ends before it; a helper's range of another
image of the model stays until its own successor comes. -/
def armSlots (model f : Nat) (l : List TreeSlot) : List TreeSlot :=
  let succeeds (t p : TreeSlot) : Bool :=
    p.image.model == model && p.activeFrom.isNone && p.home == t.home && (t.home || p.tray == t.tray)
  l.map fun t =>
    if t.image.model ≠ model then t
    else if t.activeFrom.isNone then { t with activeFrom := some f }
    else if l.any (succeeds t) then { t with activeTo := some (min f (t.activeTo.getD f)) }
    else t

/-- The leader sends the helpers of a model that is armed their ranges, with the frame from which they serve (R226; assumption
140). -/
def armHelpers (model : Nat) (s : State) : State :=
  match findRole .forum s with
  | none => s
  | some r => forEach ((helperParts s.place.issued).filter fun p => p.2.model == model) (sendHelper r.replica) s

/-- The own part of `TREE_ARM`. -/
def treeArm (r : Req) (model f : Nat) (s : State) : State × Reply :=
  let mine := imagesFor r.issuer model s
  let pending := (s.tree.slots ++ s.tree.headers).find? fun t => t.image.model == model && t.activeFrom.isNone
  match mine with
  | [] => deny Config.notFound s
  | i :: _ =>
    let every := ((pending.map (·.image)).getD i).scoreEvery
    if f % every ≠ 0 then deny Config.badParam s
    else if !leadOk r.issuer (f * frameNs s) 10000000 s then deny Config.tooSoon s
    else if pending.isNone && !s.tree.kept.contains model then deny Config.notFound s
    else if pending.isNone then done [] s
    else done [] (armHelpers model (restretch (nextFrame s) (onTree (fun t => { t with
      slots := armSlots model f t.slots, headers := armSlots model f t.headers }) s)))

/-- `TREE_ARM` (0x0702).  A chip through which it passes checks its lead time and arms the headers of its tiers. -/
def execTreeArm (r : Req) (model frame : Nat) (s : State) : Host.Outcome State Fault Refusal :=
  let c : Cmd := { code := 0x0702, allow := { t := true }, relayable := true }
  run (fun s =>
    let own := engineServed 7 (treeArm r model frame)
    if passesOn c r true s then
      let (s', rep) := treeArm r model frame s
      if rep.status = Config.tooSoon then answerReject c r Config.tooSoon (takeRequest r c.code s)
      else serve c r true own s'
    else serve c r true own s) s

/-- An image's slots end before a frame; a pending one leaves with it (R228). -/
def unloadSlots (model f : Nat) (l : List TreeSlot) : List TreeSlot :=
  l.map fun t =>
    if t.image.model ≠ model then t
    else { t with activeTo := some (min f (t.activeTo.getD f)) }

/-- The own part of `TREE_UNLOAD`. -/
def treeUnload (r : Req) (model : Nat) (s : State) : State × Reply :=
  if (imagesFor r.issuer model s).isEmpty then deny Config.notFound s
  else
    let f := changeFrame s
    done [f64 0 (shownFrame f s)] (onTree (fun t => { t with
      slots := unloadSlots model f t.slots, headers := unloadSlots model f t.headers }) s)

/-- `TREE_UNLOAD` (0x0703).  A chip through which it passes drops the headers of its tiers and the image that it keeps. -/
def execTreeUnload (r : Req) (model : Nat) (s : State) : Host.Outcome State Fault Refusal :=
  let c : Cmd := { code := 0x0703, allow := { t := true }, relayable := true }
  run (fun s =>
    serve c r true (engineServed 7 (treeUnload r model))
      (when (passesOn c r true s) (fun s => (treeUnload r model s).1) s)) s

/-! ## Quotas and reads (R229) -/

/-- `TREE_QUOTA_SET` (0x0704). -/
def execTreeQuotaSet (r : Req) (partition trees nodes : Nat) (s : State) : Host.Outcome State Fault Refusal :=
  run (serve { code := 0x0704, allow := {}, relayable := true } r (partition ≤ 512)
    (engineServed 7 fun s => done [] (onTree (fun t => { t with quotas := tput (0, 0) partition (trees, nodes) t.quotas }) s))) s

/-- What `TREE_STATUS` says of a slot, or a header; the last tree of an empty range and the check of an image that is not
active are free values. -/
def treeStatusPayload (t : TreeSlot) (model : Nat) (s : State) : List Fld × State :=
  let all := (s.tree.slots ++ s.tree.headers).filter fun x => x.image.model == model && x.home == t.home
  let live := all.find? fun x => x.activeFrom.isSome
  let code := if live.isNone then 0 else if all.any fun x => x.activeFrom.isNone then 2 else 1
  let (a, s) := draw s
  let (b, s) := draw s
  ([f16 0 s.tree.slots.length, f32 4 (treeLimit s - treesUsed s), f32 8 (nodeLimit s - nodesUsed s), f8 0xC code,
    f16 0xE t.leafTrees, f32 0x10 t.first, f32 0x14 (if t.count = 0 then a else t.first + t.count - 1), f16 0x18 (intervalAt (currentFrame s) t),
    f32 0x1C s.tree.doublings, f32 0x20 s.tree.late, f32 0x24 s.tree.missing,
    f32 0x28 (match live with
      | some x => x.image.imageCrc
      | none => b)], s)

/-- `TREE_STATUS` (0x0705). -/
def execTreeStatus (r : Req) (model : Nat) (s : State) : Host.Outcome State Fault Refusal :=
  run (serve { code := 0x0705, allow := { s := true, t := true } } r true (engineServed 7 fun s =>
    let mine := (s.tree.slots ++ s.tree.headers).filter fun t =>
      t.image.model == model && (!isTenant r.issuer || t.image.partition == issuerPart r.issuer)
    match mine.find? fun t => t.activeFrom.isSome, mine.head? with
    | some t, _ => let (p, s) := treeStatusPayload t model s; done p s
    | none, some t => let (p, s) := treeStatusPayload t model s; done p s
    | none, none => deny Config.notFound s)) s

/-- `TREE_SCORE_READ` (0x0706). -/
def execTreeScoreRead (r : Req) (model die : Nat) (s : State) : Host.Outcome State Fault Refusal :=
  run (serve { code := 0x0706, allow := { t := true } } r true (engineServed 7 fun s =>
    let die := if s.fuse.plaza then die else s.die
    match latestScore model die s with
    | none => deny Config.notFound s
    | some e =>
      if isTenant r.issuer && (imagesFor r.issuer model s).isEmpty then deny Config.notFound s
      else done [f64 0 e.sframe, f64 8 (toField 64 e.value), f16 0x10 e.scflags.toNat, f32 0x14 e.imageCrc] s)) s

/-! ## Scores -/

/-- The first vector of a model and die of which every value is fixed, and the others (R208). -/
def takeVec (model die : Nat) : List Vec → Option (Vec × List Vec)
  | [] => none
  | v :: t => if v.model = model ∧ v.die = die ∧ v.waits = [] then some (v, t) else (takeVec model die t).map fun x => (x.1, v :: x.2)

/-- `SCORE_COMPLETE`: the lanes finish the oldest vector of a model and die (R209 to R211, R218, R222, R232). -/
def execScoreComplete (model die : Nat) (nodeError : Bool) (s : State) : Host.Outcome State Fault Refusal :=
  run (when (engineUp 7 s) fun s =>
    match takeVec model die s.tree.vecs with
    | none => s
    | some (v, rest) =>
      let s := onTree (fun t => { t with vecs := rest }) s
      match slotForVec v s with
      | none => s
      | some t => if s.fuse.plaza then plazaScore v t nodeError s else leafScore v t nodeError s) s

/-- The tier of this chip that completes a die's score of a frame, with the slot or header that says so; a Quarter replica does
so where partials have shown that helpers hold ranges (R213, R218; DEDUCED, assumption 141). -/
def completingHere (model die frame : Nat) (s : State) : Option (Option RoleKind × TreeSlot) :=
  let serves (t : TreeSlot) : Bool := t.image.model == model && activeAt frame t && isScoring frame t.image.scoreEvery
  if !s.fuse.plaza then
    if die = s.die then (s.tree.slots.find? fun t => serves t && wholeHere t).map fun t => (none, t) else none
  else
    match s.tree.slots.find? fun t => serves t && wholeHere t && adoptedHere die s with
    | some t => some (some .plaza, t)
    | none =>
      match findRole .quarter s with
      | none => none
      | some q =>
        if quarterOf (trayOf die) = q.number && s.tree.split.contains (model, trayOf die) then
          (s.tree.headers.find? serves).map fun t => (some .quarter, t)
        else none

/-- What is still gathered for a score leaves. -/
def dropScore (model die frame : Nat) (s : State) : State :=
  dropParts model die frame
    (onTree (fun t => { t with vecs := t.vecs.filter fun v => !(v.model == model && v.die == die && v.frame == frame) }) s)

/-- A slot of this chip that serves a die's frame: the home's, or a helper's that has had the die's vectors (R217). -/
def expectsVector (model die frame : Nat) (s : State) : Bool :=
  s.fuse.plaza && s.tree.slots.any fun t =>
    t.image.model == model && activeAt frame t && isScoring frame (intervalAt frame t)
      && (if t.home then adoptedHere die s else t.tray == trayOf die && t.dies.contains die)

/-- A feature record that has not come to a block that expects it counts as lost there, once (R220; DEDUCED, assumption 118). -/
def countLostVector (model die frame : Nat) (s : State) : State :=
  if expectsVector model die frame s && !s.tree.came.contains (model, die, frame) then
    onTree (fun t => { t with lostRecords := t.lostRecords + 1, came := t.came ++ [(model, die, frame)] }) s
  else s

/-- `SCORE_MISSING_TIMEOUT`: D + 10 ms has passed for a score of which some part may not have come (R214, R220). -/
def execScoreMissingTimeout (model die frame : Nat) (s : State) : Host.Outcome State Fault Refusal :=
  run (when (timeValid s) fun s =>
    let p := framePeriod frame s
    let e := frameEnds frame p
    let wait (every : Nat) (k : Option RoleKind) (s : State) : State :=
      untilFt (e + every * p * 1000 + (match k with | none => 0 | some x => tierDelay x) + 10000000) s
    match completingHere model die frame s with
    | some (k, t) =>
      let s := countLostVector model die frame (wait t.image.scoreEvery k s)
      if settled model die frame s then s else failScore k t.image die frame e scMissing (dropScore model die frame s)
    | none =>
      match s.tree.slots.find? fun t => t.image.model == model && activeAt frame t with
      | none => s
      | some t => when (expectsVector model die frame s)
          (fun s => countLostVector model die frame (wait t.image.scoreEvery (some .quarter) s)) s) s

/-- `FEATURE_RECORD`: a Plaza chip takes a Leaf's vector, as its home, its stand-in or a helper (R219, R220, R227, R230). -/
def execFeatureRecord (rec_ : FeatureRecord) (s : State) : Host.Outcome State Fault Refusal :=
  run (when s.fuse.plaza fun s =>
    let bytes := (featureBytes rec_).length
    let s := arcIngest 1 (mkEntry rec_.die bytes (.features rec_) s) s
    toEngine 13 7 (takeVector rec_) s) s

/-- `SCORE_RECORD`: a role takes scores and partials from below (R221, R222, R227, R233). -/
def execScoreRecord (role : RoleKind) (rec_ : ScoreRecord) (s : State) : Host.Outcome State Fault Refusal :=
  run (when s.fuse.plaza fun s =>
    let bytes := (scoreBytes rec_).length
    let s := arcIngest 1 { mkEntry rec_.source bytes (.scores rec_) s with hosted := role != .plaza } s
    when (findRole role s).isSome (toEngine 13 7 (forEach rec_.scores fun e s =>
      if e.scflags.getLsbD 5 then (if role = .quarter then takePartial e s else s) else takeScore role rec_ e s)) s) s

/-! ## Images on request (R230 to R232) -/

/-- The range that a request stands for: the one it names, the Leaf range, or the range of a tray's home (R216, R217, R230). -/
def askedRange (a : ImageAsk) (requester : Nat) (i : TreeImage) (s : State) : Nat × Nat :=
  let l := leafRange i
  let rest := (s.place.chips.find? fun c => c.tray == a.tray).bind fun c => c.ensembles.find? fun m => m.1 == a.model
  match a.range with
  | some x => x
  | none => if sourceKind requester = 0 then (0, l - 1) else (l, (rest.map (·.2.1)).getD i.dir.length - 1)

/-- `IMAGE_REQUEST`: a Forum replica sends the range that a Leaf, a stand-in or a helper asks for (R230, R232). -/
def execImageRequest (ask : ImageAsk) (requester : Nat) (s : State) : Host.Outcome State Fault Refusal :=
  run (when (stewardUp s) fun s =>
    match findRole .forum s, (keptImages s).find? fun i => i.model == ask.model && i.imageCrc == ask.imageCrc with
    | some r, some i =>
      let x := askedRange ask requester i s
      sendRange r.replica requester i x.1 x.2 ask.tray ask.home s
    | _, _ => s) s

/-- A slot holds the range that has come. -/
def holdsRange (image : TreeImage) (firstTree lastTree tray : Nat) (home : Bool) (t : TreeSlot) : Bool :=
  t.image.imageCrc == image.imageCrc && t.image.model == image.model && t.first == firstTree
    && t.count == lastTree + 1 - firstTree && t.home == home && (home || t.tray == tray)

/-- A range that comes takes the place of one that is pending, of the same model and for the same home; where it is active from
a frame, it ends the one before it. -/
def endPrevious (t : TreeSlot) (l : List TreeSlot) : List TreeSlot :=
  let same (x : TreeSlot) : Bool := x.image.model == t.image.model && x.home == t.home && (t.home || x.tray == t.tray)
  (l.filter fun x => !(same x && x.activeFrom.isNone)).map fun x =>
    match t.activeFrom with
    | none => x
    | some f => if same x then { x with activeTo := some (min f (x.activeTo.getD f)) } else x

/-- `ENSEMBLE_RANGE`: a range that a block asked for, or that the leader gave it as a helper, serves every frame that opens
later, from the frame at which its image is active; a copy of a range held takes its place (R217, R225, R226, R230 to R232). -/
def execEnsembleRange (image : TreeImage) (firstTree lastTree tray : Nat) (home : Bool) (activeFrom : Option Nat) (s : State) :
    Host.Outcome State Fault Refusal :=
  run (when (engineUp 7 s && imageOk image && firstTree ≤ lastTree && lastTree < image.dir.length) fun s =>
    let same := holdsRange image firstTree lastTree tray home
    let came (a : ImageAsk) : Bool := a.imageCrc == image.imageCrc && a.model == image.model && a.home == home && a.tray == tray
    let s := onTree (fun t => { t with requested := t.requested.filter fun a => !came a }) s
    let from_ := activeFrom.map fun f => max f (nextFrame s)
    match s.tree.slots.find? same with
    | some t =>
      if t.activeFrom.isSome || from_.isNone then s
      else
        let t' := { t with activeFrom := from_ }
        restretch (nextFrame s) (onTree (fun x => { x with
          slots := endPrevious t' (x.slots.filter fun y => !same y) ++ [t'] }) s)
    | none =>
      let t := { pendingSlot image firstTree (lastTree + 1 - firstTree) (leafRange image) home tray s with activeFrom := from_ }
      if slotFits t s then
        restretch (nextFrame s) (onTree (fun x => { x with slots := endPrevious t x.slots ++ [t] }) s)
      else s) s

/-! ## At a boundary (R213, R215, R226, R228) -/

/-- The dies whose scores a slot's block completes or declares: the Leaf, or the Leaves that a whole home has adopted. -/
def slotDies (t : TreeSlot) (s : State) : List Nat :=
  if !wholeHere t then []
  else if !s.fuse.plaza then [s.die]
  else match findRole .plaza s with
    | some r => r.children.map (·.source)
    | none => []

/-- The scoring frames below a frame that may still wait for a value: those that closed within I × P + T + 10 ms (R214). -/
def openScores (t : TreeSlot) (z : Nat) (s : State) : List Nat :=
  let n := ceilDiv (t.image.scoreEvery * frameNs s + 710000 + 10000000) (max 1 (frameNs s)) + t.image.scoreEvery
  let first := (t.activeFrom.getD z)
  ((List.range n).map fun k => z - 1 - k).filter fun f => first ≤ f && f < z && isScoring f t.image.scoreEvery

/-- Something of the slot still waits here: a vector, or parts. -/
def slotWaits (t : TreeSlot) (z : Nat) (s : State) : Bool :=
  (s.tree.vecs.any fun v => v.model == t.image.model && v.imageCrc == t.image.imageCrc && v.frame < z)
    || s.tree.parts.any fun p => p.model == t.image.model && p.imageCrc == t.image.imageCrc && p.frame < z

/-- A slot whose scores below its end are all completed or declared here (R226); a pending one has none.  A block that does not
complete the scores, and so declares none, keeps its range until D + 10 ms (DEDUCED, assumption 143). -/
def slotDone (closed : Nat) (t : TreeSlot) (s : State) : Bool :=
  match t.activeTo with
  | none => false
  | some z =>
    z ≤ closed + 1 && (t.activeFrom.isNone || (!slotWaits t z s
      && (if (slotDies t s).isEmpty then
          frameEnds (z - 1) s.grid.period + t.image.scoreEvery * frameNs s + 710000 + 10000000 ≤ s.time.ft
        else (slotDies t s).all fun d => (openScores t z s).all fun f => settled t.image.model d f s)))

/-- The models that a Forum replica keeps no longer: those of which every header has ended (R225, R228). -/
def keptOf (closed : Nat) (s : State) : List Nat :=
  s.tree.kept.filter fun m => s.tree.headers.any fun h =>
    h.image.model == m && (match h.activeTo with
      | none => true
      | some z => closed + 1 < z)

/-- A boundary at the tree engine: demand, and images whose frames are over. -/
def treeBoundary (closed : Nat) (s : State) : State :=
  let keep (t : TreeSlot) : Bool := !slotDone closed t s
  restretch (closed + 1) (onTree (fun x => { x with
    kept := keptOf closed s, slots := x.slots.filter keep, headers := x.headers.filter keep }) s)

end Sys2Proof.Machine
end

