-- ==== Sys2Proof/Machine/FrameOps.lean ====
section
/-!
DEFINITION. The frame grid as shared operations: opening and losing frames, the span in which none is formed, and the change
of period (R38 to R47, R52, R62).
-/

namespace Sys2Proof.Machine

/-! ## When frames are formed -/

/-- The Sampler lets frames be formed: it works; a Plaza has none.  A span without it, its power-down included, is a range of
missing frames (R62, R65, R94). -/
def samplerLets (s : State) : Bool := s.fuse.plaza || samplerUp s

/-- The new epoch's number still waits for its write pulse (R48, R52). -/
def epochDue (s : State) : Bool :=
  s.nv.queue.any fun r => match r with
    | .epoch _ => true
    | _ => false

/-- Frames can be formed: ft is valid, an image runs, the epoch is written, and neither a halt, a reset, a park nor the
Sampler stops the grid (R40, R48, R52, R438). -/
def gridMayRun (s : State) : Bool :=
  timeValid s && !s.exhausted && s.stw.running.isSome && !epochDue s && !s.grid.halted && !s.rst.active && !s.pwr.parked && s.pwr.parking.isNone
    && samplerLets s

/-! ## Frames that are not formed (R52) -/

/-- A span without frames begins, unless one has begun already: its first frame, and the ft from which frames of the present
period are missing. -/
def startGap (first base : Nat) (s : State) : State :=
  onGrid (fun g => { g with gapFrom := match g.gapFrom with
    | some x => some x
    | none => some (first, base, 0) }) s

/-- The earliest frame that is lost when the open one, and one whose snapshot has not completed, are not formed. -/
def lostFrom (alsoClosed : Bool) (g : Grid) : Option (Nat × Nat × Nat) :=
  let at_ (n p : Nat) : Nat × Nat × Nat :=
    if p = g.period then (n, n * p * 1000, 0) else (n, (n + 1) * p * 1000, 1)
  match (if alsoClosed && g.snapshotDue then g.closed else none), g.frame with
  | some (n, p, _, _), _ => some (at_ n p)
  | none, some f => some (at_ f.frame f.period)
  | none, none => none

/-- Increments copied at seals of a frame that is not formed stay with their counters, and their lines' tallies with the lines;
the seals still owed name a frame that is over (R61, R62, R74). -/
def foldSeals (s : State) : State :=
  let f (c : Counter) : Counter := { c with inc := c.inc + c.snapInc.getD 0, snapInc := none }
  let g (k : Conc) : Conc := { k with sealed := false, late := k.late || k.sealDue }
  let back := s.smp.sealedTally.filter fun e => (conc (e.1 / 256) s).sealed
  onSmp (fun m => { m with
    counters := m.counters.map fun e => (e.1, f e.2), concs := m.concs.map fun e => (e.1, g e.2),
    lineTally := back.foldl (fun t e => tmod 0 e.1 (· + e.2) t) m.lineTally,
    sealedTally := m.sealedTally.filter fun e => !(conc (e.1 / 256) s).sealed }) s

/-- The open frame is not formed, nor, where asked, one that waits for its snapshot; the first frame afterwards carries
their counts (R34, R52, R94). -/
def loseFrames (alsoClosed : Bool) (s : State) : State :=
  let s := when (alsoClosed && s.grid.snapshotDue) foldSeals s
  onGrid (fun g => { g with
    gapFrom := match g.gapFrom with
      | some x => some x
      | none => lostFrom alsoClosed g,
    carryDue := g.carryDue || (lostFrom alsoClosed g).isSome,
    frame := none, snapshotDue := g.snapshotDue && !alsoClosed }) s

/-- The fronts or the counters hold increments of a span with no frames. -/
def holdsCounts (s : State) : Bool :=
  !s.fuse.plaza && (s.smp.acc.any (fun e => e.2 != 0) || s.smp.counters.any fun e => e.2.inc != 0)

/-- The span ends with frame `n`: what is missing goes into the next record. -/
def endGap (n : Nat) (s : State) : State :=
  match s.grid.gapFrom with
  | none => s
  | some (first, base, before) =>
    let c := before + (n - base / frameNs s)
    let carry := holdsCounts s
    onGrid (fun g => { g with
      gapFrom := none, carryDue := g.carryDue || carry,
      missFirst := if g.missCount = 0 ∧ c ≠ 0 then first else g.missFirst, missCount := g.missCount + c }) s

/-! ## Opening a frame (R38, R43) -/

/-- The flags with which a frame opens. -/
def openFlags43 (partial_ : Bool) (s : State) : BitVec 8 :=
  BitVec.ofNat 8 (4 * bnat (s.time.state == .holdover) + 8 * bnat (s.time.mode == 2 && s.time.slew != 0)
    + 16 * bnat partial_ + 32 * bnat s.grid.carryDue + 64 * bnat s.grid.newPeriodDue
    + 128 * bnat s.grid.epochStartDue)

/-- The frame of an instant opens, at that instant: the span without frames is over, changes that waited take effect, and
each class is refilled (R43, R67, R344). -/
def openFrame (openFt : Nat) (partial_ : Bool) (s : State) : State :=
  let n := frameAt openFt s
  let gap := s.grid.gapFrom.isSome || s.grid.epochStartDue || partial_
  let s := endGap n s
  let f : OpenFrame := { frame := n, period := s.grid.period, quality := openFlags43 partial_ s }
  let s := onGrid (fun g => { g with
    frame := some f, epochStartDue := false, newPeriodDue := false, carryDue := false }) s
  let s := when gap (fun s => clearUpdates (applyChanges n (fun _ => true) s)) s
  refill s

/-! ## The period (R44, R45, R172, R215) -/

/-- A frame number of the old period that lies at or after the change, in the new period's numbers. -/
def rekey (oldFirst newFirst n : Nat) : Nat := newFirst + (n - oldFirst)

/-- The first frame of the new period that opens no earlier than a frame of the old one did. -/
def rescale (old new n : Nat) : Nat := ceilDiv (n * old) (max 1 new)

/-- Changes of an interval in the new period's numbers, each from a multiple of the larger I. -/
def rescaleIntervals (old new prev : Nat) : List (Nat × Nat) → List (Nat × Nat)
  | [] => []
  | x :: t =>
    let big := max 1 (max prev x.2)
    (ceilDiv (rescale old new x.1) big * big, x.2) :: rescaleIntervals old new x.2 t

/-- Frames between which a slot serves, and from which its interval changes, in the new period's numbers (DEDUCED, assumption
117). -/
def rescaleSlot (old new : Nat) (t : TreeSlot) : TreeSlot :=
  { t with
    activeFrom := t.activeFrom.map (rescale old new), activeTo := t.activeTo.map (rescale old new),
    intervals := rescaleIntervals old new t.image.scoreEvery t.intervals }

/-- The pending change takes effect at its E. -/
def changePeriod (p e : Nat) (s : State) : State :=
  let old := s.grid.period
  let oldFirst := e / (old * 1000)
  let newFirst := e / (p * 1000)
  let s := onGrid (fun g => { g with
    period := p, pending := g.next, next := none, newPeriodDue := true,
    gapFrom := g.gapFrom.map fun x => (x.1, e, x.2.2 + (e - x.2.1) / (old * 1000)) }) s
  let s := onSmp (fun m => { m with pending := m.pending.map fun c => (rekey oldFirst newFirst c.1, c.2) }) s
  let s := onConf (fun c => { c with pendingDefs := c.pendingDefs.map fun d => (rekey oldFirst newFirst d.1, d.2) }) s
  let s := onTree (fun t => { t with slots := t.slots.map (rescaleSlot old p), headers := t.headers.map (rescaleSlot old p) }) s
  let s := onLed (fun l => { l with issued := [] }) s
  let s := when (s.fuse.plaza || s.grid.frame.isNone) (fitWindows p) s
  restretch newFirst s

/-- A change whose E has come takes effect. -/
def dueChange (upTo : Nat) (s : State) : State :=
  match s.grid.pending with
  | none => s
  | some (p, e) => if e ≤ upTo then changePeriod p e s else s

/-- Changes whose E has come take effect, whatever the block's state: the pending one and one that waits behind it (R45, R47). -/
def duePeriod (upTo : Nat) (s : State) : State := dueChange upTo (dueChange upTo s)

/-! ## Closing a frame (R41, R42, R59, R60, R72) -/

/-- The next boundary that has not been processed: the open frame's end, or the first after now. -/
def boundaryAt (s : State) : Nat := nextOpenFt s

/-- A frame that waits for its snapshot at the next boundary is missing, and its counts go into the frame that closes now
(R62). -/
def missOverdue (s : State) : State :=
  match s.grid.snapshotDue, s.grid.closed with
  | true, some (n, _, _, _) =>
    onGrid (fun g => { g with
      snapshotDue := false, carryDue := true,
      missFirst := if g.missCount = 0 then n else g.missFirst, missCount := g.missCount + 1 }) (foldSeals s)
  | _, _ => s

/-- The quality with which the open frame closes. -/
def closeFlags (f : OpenFrame) (s : State) : BitVec 8 :=
  f.quality ||| (if s.grid.carryDue || (samplerUp s && anyHeldBack s) then 0x20#8 else 0#8)

/-- A Leaf closes the open frame at its boundary: the fronts switch and the snapshot is due. -/
def closeLeaf (f : OpenFrame) (b : Nat) (s : State) : State :=
  if !samplerLets s then loseFrames true (samplerBoundary f.frame s)
  else
    let s := missOverdue s
    let q := timeQuality (closeFlags f s) s
    let s := onGrid (fun g => { g with frame := none, closed := some (f.frame, f.period, q, b), snapshotDue := true, carryDue := false }) s
    samplerBoundary f.frame s

/-- The Arcade's entry of a frame, and its ingest counts (R238, R243). -/
def closeArcade (f : OpenFrame) (s : State) : State :=
  let s := closeIngest s
  arcIngest 4 { mkEntry (selfSource s) (16 + 16 * s.arc.skipped.length) (.accounting f.frame s.arc.skippedTotal s.arc.skipped) s with
    produced := true } s

/-- A Plaza chip closes the open frame: every hosted role collects it, and definitions that wait take effect (R102, R167). -/
def closePlaza (f : OpenFrame) (b : Nat) (s : State) : State :=
  let q := timeQuality (closeFlags f s) s
  let s := onGrid (fun g => { g with frame := none, closed := some (f.frame, f.period, q, b), snapshotDue := false, carryDue := false }) s
  applyDefs (f.frame + 1) b (closeArcade f (openTierFrame f.frame f.period s))

/-- The open frame closes. -/
def closeFrame (f : OpenFrame) (b : Nat) (s : State) : State := if s.fuse.plaza then closePlaza f b s else closeLeaf f b s

/-! ## Pace (R23) -/

/-- An engine below its slow-corner work in a frame: one alert in 1,000 frames, the others counted. -/
def paceAlert (closeFt : Nat) (x : Nat × Nat) (s : State) : State :=
  if tget 0 x.1 s.stw.paceAlerts ≠ 0 then onStw (fun t => { t with paceSuppressed := t.paceSuppressed + 1 }) s
  else
    raiseAt 0x0E04 (engineKey s.die x.1) (min x.2 255) closeFt
      (onStw (fun t => { t with paceAlerts := tput 0 x.1 1000 t.paceAlerts }) s)

/-- A frame has passed for the pace alerts already raised, whatever its period (R23). -/
def paceFrame (s : State) : State :=
  onStw (fun t => { t with
    paceAlerts := (t.paceAlerts.filter fun e => 1 < e.2).map fun e => (e.1, e.2 - 1) }) s

/-- What follows the close of a frame elsewhere in the block: pace, scoring intervals, the count of unknown strobes. -/
def afterClose (pace : List (Nat × Nat)) (f : OpenFrame) (b : Nat) (s : State) : State :=
  let s := paceFrame s
  let s := when (stewardUp s) (fun s => forEach (pace.filter fun x => x.2 < 256) (paceAlert b) s) s
  treeBoundary f.frame (onConf (fun c => { c with unknownFrame := 0 }) s)

/-- What a boundary starts in place of a frame: a halt or a park (R52, R434, 0x0204). -/
def stopAtBoundary (b : Nat) (s : State) : State :=
  let s := when s.grid.haltPending (onGrid fun g => { g with halted := true, haltPending := false }) s
  when (s.pwr.parkPending && s.pwr.quiescing.isEmpty && s.pwr.releasing.isEmpty)
    (onPwr fun p => { p with parkPending := false, parking := some b }) s

/-- A boundary: one frame closes and the next opens (R41). -/
def boundary (pace : List (Nat × Nat)) (b : Nat) (s : State) : State :=
  let s := match s.grid.frame with
    | none => s
    | some f => afterClose pace f b (closeFrame f b s)
  let s := duePeriod b (stopAtBoundary b s)
  if gridMayRun s then openFrame b false s
  else when (!s.grid.epochStartDue) (startGap (frameAt b s) b) s

end Sys2Proof.Machine
end

