-- ==== Sys2Proof/Machine/TimeEvt.lean ====
section
/-!
DEFINITION. Events of the time front and the frame grid: time words, their absence, boundaries, the change of period
(R26 to R34, R40 to R47).
-/

namespace Sys2Proof.Machine

/-! ## The time front (R27 to R33) -/

/-- The acceptance window at a sync edge, ns. -/
def syncWindow (mode : Nat) : Nat := if mode = 2 then 20000 else 8

/-- A difference lies inside the window. -/
def inWindow (mode : Nat) (d : Int) : Bool := d.natAbs ≤ syncWindow mode

/-- The correction of R28 for a difference inside the window: a forward step, with which the durations counted in ft advance
too (R478), or a hold in counter mode, a slew of what a hold does not already take up in disciplined mode. -/
def correct (d : Int) (t : TimeFront) : TimeFront :=
  if t.mode = 2 then { t with slew := (d + t.hold) * 500 }
  else if 0 ≤ d then
    { t with ft := t.ft + d.toNat, timer := t.timer + d.toNat, live := t.live + d.toNat, hold := 0 }
  else { t with hold := d.natAbs }

/-- A flag is set in the open frame's quality. -/
def flagFrame (b : BitVec 8) (s : State) : State :=
  onGrid (fun g => { g with frame := g.frame.map fun f => { f with quality := f.quality ||| b } }) s

/-- The alert of a change of state, on `BYP` and the sideband (R32). -/
def timeAlert (code ft : Nat) (s : State) : State := raiseSbi code (timeKey s.die) 0 ft s

/-- Holdover is entered (R31, R32, R43). -/
def enterHoldover (s : State) : State :=
  let s := onTime (fun t => { t with state := .holdover, since := t.osc, mismatchRun := 0, leftLocked := true }) s
  timeAlert 0x0201 s.time.goodFt (raiseInt 4 (flagFrame 0x04#8 s))

/-- A gate that is open when ft is lost closes at once and does not reopen (R340). -/
def closeGateNow (s : State) : State :=
  match s.upl.gate with
  | none => s
  | some g => onUpl (fun u => { u with gate := none, noReopenUntil := max u.noReopenUntil g.ends }) s

/-- Lost is entered: the grid stops and the open frame is not formed (R31, R32, R34, R340). -/
def enterLost (s : State) : State :=
  let s := onTime (fun t => { t with state := .lost, since := t.osc, mismatchRun := 0, candidate := none, hold := 0, slew := 0,
                                     leftLocked := true }) s
  let s := closeGateNow (loseFrames false s)
  timeAlert 0x0202 s.time.goodFt (raiseInt 4 s)

/-- Back in Locked from Holdover. -/
def relocked (s : State) : State :=
  let s := onTime (fun t => { t with state := .locked, since := t.osc, mismatchRun := 0, leftLocked := false }) s
  timeAlert 0x0203 s.time.ft (raiseInt 4 s)

/-- A lock on the second good word: the count takes its value, or keeps the highest it has held and holds it until the
reference has carried the word's value up to it (R31).  After Lost a frame opens at once, flagged carry and partial (R34,
R40). -/
def lockOn (value : Nat) (s : State) : State :=
  let wasLost := s.time.state == .lost
  let back := s.time.leftLocked
  let s := onTime (fun t => { t with
    state := .locked, since := t.osc, mismatchRun := 0, candidate := none, goodRef := t.refNs, goodFt := value, slew := 0,
    ft := max t.ft value, hold := t.ft - value, frac := 0, leftLocked := false }) s
  let s := raiseInt 4 s
  let s := when back (fun s => timeAlert 0x0203 s.time.ft s) s
  let s := duePeriod s.time.ft s
  if wasLost then
    let s := onGrid (fun g => { g with carryDue := true }) s
    when (gridMayRun s) (openFrame s.time.ft true) s
  else s

/-- A good word while the front is in Unlocked or Lost: the first is kept, the second locks when the two agree with their
spacing (R27, R31).  A power-on that finds
the epoch exhausted never locks, before the boot ROM has read the number either (R49). -/
def candidateWord (value : Nat) (s : State) : State :=
  let keep (s : State) : State := onTime (fun t => { t with candidate := some (value, t.refNs) }) s
  if s.exhausted || (s.epoch == 0 && s.nv.epoch == 0xFFFFFFFF) then s
  else match s.time.candidate with
    | none => keep s
    | some (v, r) =>
      let d : Int := ((value : Int) - v) - ((s.time.refNs : Int) - r)
      if inWindow s.time.mode d then lockOn value s else keep s

/-- A good word in Locked or Holdover: applied inside the window, counted as a mismatch outside it; the third mismatch in a
row leaves Locked (R29, R31). -/
def trackWord (value : Nat) (s : State) : State :=
  let d : Int := (value : Int) - s.time.ft
  let s := onTime (fun t => { t with goodRef := t.refNs }) s
  if inWindow s.time.mode d then
    let s := onTime (fun t => { correct d t with mismatchRun := 0, goodFt := value }) s
    let s := when (s.time.mode == 2 && s.time.slew != 0) (flagFrame 0x08#8) s
    when (s.time.state == .holdover) relocked s
  else
    let s := onTime (fun t => { t with mismatches := t.mismatches + 1, mismatchRun := t.mismatchRun + 1 }) s
    when (s.time.state == .locked && 3 ≤ s.time.mismatchRun) enterHoldover s

/-- `FTI_TIME_WORD`: a sync edge with its word, some reference edges after the event before it (R26, R27). -/
def execFtiTimeWord (edges : Nat) (word : BitVec 72) (s : State) : Host.Outcome State Fault Refusal :=
  run (fun s =>
    let s := passEdges edges (onTime (fun t => { t with refOn := true }) s)
    if !wordOk word then onTime (fun t => { t with crcDiscards := t.crcDiscards + 1 }) s
    else if timeValid s then trackWord (wordFt word) s
    else candidateWord (wordFt word) s) s

/-- `FTI_GOOD_WORD_TIMEOUT`: 2 ms of the reference clock without a good word (R31). -/
def execFtiGoodWordTimeout (s : State) : Host.Outcome State Fault Refusal :=
  run (fun s =>
    when (s.time.state == .locked)
      (fun s => enterHoldover (passEdges (ceilDiv (s.time.goodRef + 2000000 - s.time.refNs) 4) s)) s) s

/-- `HOLDOVER_TIMEOUT`: 1,000 ms in Holdover without a good word inside the window (R31). -/
def execHoldoverTimeout (s : State) : Host.Outcome State Fault Refusal :=
  run (fun s => when (s.time.state == .holdover) (fun s => enterLost (untilOsc (s.time.since + 1000000000) s)) s) s

/-- `FTI_REF_LOSS`: the reference clock has been absent for 1 µs of the supervisory oscillator; no reset follows.  A front
that has started again from Unlocked while the clock is still absent goes to Lost as any other (R31, R33). -/
def execFtiRefLoss (s : State) : Host.Outcome State Fault Refusal :=
  run (fun s =>
    let valid := timeValid s
    let s := when s.time.refOn (onTime fun t => { t with
      osc := t.osc + 1000, refOn := false, timer := if valid then t.timer else t.timer + 1000,
      nsOutside := if t.state = .locked then t.nsOutside else t.nsOutside + 1000 }) s
    when (s.time.state != .lost) enterLost s) s

/-! ## The grid (R40, R41, R45) -/

/-- `FRAME_BOUNDARY`: the count reaches the next boundary.  `pace` names the engines below their slow-corner work with the
work done in 1/256 of it (R23), `stopped` the groups whose clocks are stopped (R419). -/
def execFrameBoundary (pace : List (Nat × Nat)) (stopped : Word32) (s : State) : Host.Outcome State Fault Refusal :=
  run (fun s =>
    when (timeValid s) (fun s => stopGroups stopped (boundary pace (boundaryAt s) (untilFt (boundaryAt s) s))) s) s

/-- `PERIOD_CHANGE_EFFECT`: ft reaches E and the new period applies (R45, R47). -/
def execPeriodChangeEffect (s : State) : Host.Outcome State Fault Refusal :=
  run (fun s =>
    match s.grid.pending with
    | none => s
    | some (_, e) => when (timeValid s) (fun s => duePeriod e (untilFt e s)) s) s

end Sys2Proof.Machine
end

