-- ==== Sys2Proof/Machine/FrameEvt.lean ====
section
/-!
DEFINITION. The close of a frame at a Leaf and the cut-off of a tier (R70 to R75, R90 to R93, R102, R115, R130).
-/

namespace Sys2Proof.Machine

/-- The snapshot can complete: the Sampler works and every concentrator has sealed; a Ledger merger that is being reset holds
the write of it (R17, R71, R72, R444). -/
def snapshotReady (s : State) : Bool :=
  !s.fuse.plaza && s.grid.snapshotDue && samplerUp s && allSealed s && (!s.pwr.on.getLsbD 3 || engineUp 3 s)

/-- Seals still owed for the frame that closes now name a frame already closed (R420). -/
def markLate (s : State) : State :=
  let f (k : Conc) : Conc := { k with late := k.late || (k.sealDue && !k.sealed) }
  onSmp (fun m => { m with concs := m.concs.map fun e => (e.1, f e.2) }) s

/-- Every enabled counter is closed for a frame: its entry, and the state with the counters after it (R70). -/
def closeCounters (frame : Nat) (fs : List CounterFault) (s : State) : List CounterEntry × State :=
  let cs := (enabledCounters s).map fun i => (i, closeCounter i (frame + 1) fs s)
  let s' := forEach cs (fun c => onCounter c.1 (fun _ => c.2.2)) s
  let inv := (cs.map (·.2.1)).filter fun e => e.flags.getLsbD 3
  let s' := forEach inv (fun e => onSmp fun m => { m with invalidBy := tmod 0 e.partition (· + 1) m.invalidBy }) s'
  (cs.map (·.2.1), s')

/-- Entries of a frame for which no record can be formed: each known delta is declared lost as absent, the void ones by their own
losses, and the frame is missing (R22, R96, R431). -/
def mergerAbsent (frame : Nat) (es : List CounterEntry) (voids : List LossEntry) (s : State) : State :=
  let ls := voids ++ (es.filter fun e => !isVoid e).map fun e =>
    ({ lkind := 1, partition := some e.partition, indexFirst := e.index, indexLast := e.index, subject := s.die,
       frame := frame, quantity := some e.delta } : LossEntry)
  let s := absentAt 2 3 s
  let s := onLed (fun l => { l with losses := l.losses ++ ls }) s
  onGrid (fun g => { g with
    missFirst := if g.missCount = 0 then frame else g.missFirst, missCount := g.missCount + 1 }) s

/-- The snapshots of a frame that are due, in ascending partition (R90, R93, R477). -/
def writeSnapshots (frame period closeFt : Nat) (q : BitVec 8) (es : List CounterEntry) (gs : List GaugeEntry) (s : State) :
    State :=
  let mf := s.grid.missFirst
  let mc := s.grid.missCount
  forEach (s.smp.snaps.filter fun b => b.2.stride != 0 && snapshotDueFor b.1 frame b.2 s)
    (fun b => writeSnapshot b.1 frame period closeFt mf mc q es gs) s

/-- What the Leaf forms of a closed frame. -/
def formFrame (frame period closeFt : Nat) (q : BitVec 8) (fs : List CounterFault) (s : State) : State :=
  let s := markLate (handleFaults frame fs s)
  let (es, s) := closeCounters frame fs s
  let gs := gaugeEntries frame s
  let ls := entryLosses frame es s
  let s := evalDeltas es closeFt s
  let s := writeSnapshots frame period closeFt q es gs s
  let s := forEach s.stw.releasing finishRelease s
  let s := if engineUp 3 s then formLedger frame period q es gs ls s else mergerAbsent frame es ls s
  let s := seriesFrame frame period closeFt q es gs s
  let s := assembleVectors frame period closeFt q { es := es, gs := gs } s
  let s := sendDigestRecord frame period q s
  onGrid (fun g => { g with snapshotDue := false }) (applyChanges (frame + 1) (fun _ => true) s)

/-- `FRAME_SNAPSHOT_COMPLETE`: the snapshot of the closed frame completes, with the counter errors found at it (R72 to R75),
and the frame's records and copies are formed. -/
def execFrameSnapshotComplete (faults : List CounterFault) (s : State) : Host.Outcome State Fault Refusal :=
  run (fun s =>
    match s.grid.closed with
    | none => s
    | some (n, p, q, ft) => when (snapshotReady s) (formFrame n p ft q faults) s) s

/-- A tier's cut-off for a frame (R115, R116, R130, R167, R275). -/
def cutOff (k : RoleKind) (t : TierFrame) (s : State) : State :=
  let s := untilFt (frameEnds t.frame t.period + cutoffNs k) s
  let s := closePrimary k t.frame t.period s
  let s := when (k == .plaza) (closeTemplates t.frame t.period) s
  let s := cutTallies k (frameOpens t.frame t.period) s
  when (t.frame % 2 == 1) (closeWindow k (frameEnds t.frame t.period)) s

/-- `TIER_CUTOFF`. -/
def execTierCutoff (role : RoleKind) (frame period : Nat) (s : State) : Host.Outcome State Fault Refusal :=
  run (fun s =>
    match (findRole role s).bind (frameOf frame period) with
    | none => s
    | some t => when (mergerUp s && timeValid s && !t.closed) (cutOff role t) s) s

end Sys2Proof.Machine
end

