-- ==== Sys2Proof/Machine/TraceCmd.lean ====
section
/-!
DEFINITION. Trace commands (0x0B01 to 0x0B05, 0x0B07) and the events of the fronts and the Trace compressor.
-/

namespace Sys2Proof.Machine

/-- The Trace compressor works. -/
def traceUp (s : State) : Bool := engineUp 9 s

/-- The fronts observe `TRC`: PD09 is powered at a Leaf that is not Parked (R305, R328). -/
def trcFrontsOn (s : State) : Bool := !s.fuse.plaza && s.pwr.on.getLsbD 9 && !s.pwr.parked && !s.rst.active

/-- The own part of `TRACE_SOURCE_SET`: the source's open block is flushed and its next packet follows a start sync
(R308, R310, R322, R327).  The change reaches the front at once, within the 2 µs that R308 allows (DESIGN CHOICE,
assumption 154). -/
def sourceSet (r : Req) (source : Nat) (config : Word32) (s : State) : State × Reply :=
  let so := sourceOf source s
  if isTenant r.issuer && trcPartition so.config != issuerPart r.issuer then deny Config.notFound s
  else if isTenant r.issuer && trcPartition config != trcPartition so.config then deny Config.isolation s
  else if trcPrivileged config && trcPartition config != 0 then deny Config.isolation s
  else
    done [] (onSource source (fun x => { x with config := config, admitStart := true })
      (emitTraceBlock source true s))

/-- `TRACE_SOURCE_SET` (0x0B01). -/
def execTraceSourceSet (r : Req) (source : Nat) (config : Word32) (s : State) : Host.Outcome State Fault Refusal :=
  run (serve { code := 0x0B01, allow := { t := true }, only := .leaf } r (source < 64 && trcFormOk config)
    (engineServed 9 (sourceSet r source config))) s

/-- `TRACE_GRANT` (0x0B02): installs an authorisation grant and logs it (R311).  It holds at the fronts at once, and so does its
end, within the 2 µs that R311 allows (DESIGN CHOICE, assumption 154). -/
def execTraceGrant (r : Req) (mask : Word64) (levels : BitVec 8) (lenS : Nat) (s : State) :
    Host.Outcome State Fault Refusal :=
  run (serve { code := 0x0B02, allow := {}, only := .leaf } r
      ((levels &&& 0xF1#8) == 0#8 && 1 ≤ lenS && lenS ≤ 3600) fun s =>
    if 4 ≤ s.trc.grants.length then deny Config.busy s
    else
      let id := s.trc.nextGrant % 256
      let g : Grant := { id := id, mask := mask, levels := levels, ends := s.time.timer + lenS * 1000000000 }
      done [f8 0 id] (nvPush (.grant (ftStamp s) mask.toNat levels.toNat lenS)
        (onTrc (fun t => { t with grants := t.grants ++ [g], nextGrant := t.nextGrant + 1 }) s))) s

/-- A grant ends and its end is logged (R311). -/
def endGrant (id : Nat) (s : State) : State :=
  nvPush (.grantEnd (ftStamp s) id) (onTrc (fun t => { t with grants := t.grants.filter fun g => g.id != id }) s)

/-- `TRACE_REVOKE` (0x0B03). -/
def execTraceRevoke (r : Req) (grantId : Nat) (s : State) : Host.Outcome State Fault Refusal :=
  run (serve { code := 0x0B03, allow := {} } r true fun s =>
    if s.trc.grants.any fun g => g.id == grantId then done [] (endGrant grantId s)
    else deny Config.notFound s) s

/-- `TRACE_FLUSH` (0x0B04): the open blocks of the sources named, a tenant's own alone (R322, R327). -/
def execTraceFlush (r : Req) (mask : Word64) (s : State) : Host.Outcome State Fault Refusal :=
  run (serve { code := 0x0B04, allow := { t := true } } r true (engineServed 9 fun s =>
    let mine := (maskSources mask).filter fun i =>
      !isTenant r.issuer || trcPartition (sourceOf i s).config == issuerPart r.issuer
    done [] (forEach mine (fun i => emitTraceBlock i true) s))) s

/-- `TRACE_CHAIN_SET` (0x0B05): the chain is replaced and its sources restart with start syncs. -/
def execTraceChainSet (r : Req) (chain : Nat) (desc : Desc) (s : State) : Host.Outcome State Fault Refusal :=
  run (serve { code := 0x0B05, allow := { t := true } } r (chain ≤ 15) (engineServed 9 fun s =>
    let old := chainFind 0 chain s
    let foreign := match old with
      | some (_, c) => isTenant r.issuer && c.partition != issuerPart r.issuer
      | none => false
    if foreign then deny Config.isolation s
    else if !descOk (issuerPart r.issuer) desc s then deny Config.bufferFault s
    else
      let s := match old with
        | some (n, _) => chainWithdraw n s
        | none => s
      done [] (restartChain chain (chainOpen 0 chain desc.partition desc s).2))) s

/-- The payload of `TRACE_STATUS` (R327). -/
def traceStatusPayload (r : Req) (n : Nat) (s : State) : List Fld :=
  let x := sourceOf n s
  [f64 0 x.admitted, f32 8 x.ingestDrops, f32 0xC x.cut, f32 0x10 x.discarded, f32 0x14 x.overruns]
    ++ (if isTenant r.issuer then []
        else (List.range 4).map fun l => f32 (0x18 + 4 * l) (tget 0 l x.excluded))
    ++ [f8 0x28 (bnat (s.trc.grants.any fun g => g.mask.getLsbD n))]

/-- `TRACE_STATUS` (0x0B07). -/
def execTraceStatus (r : Req) (source : Nat) (s : State) : Host.Outcome State Fault Refusal :=
  run (serve { code := 0x0B07, allow := { s := true, t := true } } r (source < 64) (engineServed 9 fun s =>
    if isTenant r.issuer && trcPartition (sourceOf source s).config != issuerPart r.issuer then deny Config.notFound s
    else done (traceStatusPayload r source s) s)) s

/-! ## Events -/

/-- `TRACE_PACKET`: a packet at a front (R306 to R312). -/
def execTracePacket (p : TrcPacket) (s : State) : Host.Outcome State Fault Refusal :=
  run (when (trcFrontsOn s && p.front < 8 && p.channel < 8) (admitPacket p)) s

/-- `TRACE_SERVE`: the compressor takes one packet of the front whose turn it is (R313 to R325). -/
def execTraceServe (front : Nat) (s : State) : Host.Outcome State Fault Refusal :=
  run (when (traceUp s) (serveFront front)) s

/-- `TRACE_BLOCK_AGE_FLUSH`: a block whose first packet has waited 1 ms ends (R322). -/
def execTraceBlockAgeFlush (source : Nat) (s : State) : Host.Outcome State Fault Refusal :=
  run (when (traceUp s && !(sourceOf source s).openPkts.isEmpty) fun s =>
    emitTraceBlock source true (untilTimer ((sourceOf source s).openSince + 1000000) s)) s

/-- `TRACE_GRANT_EXPIRY`: a grant's length has passed (R311, R478). -/
def execTraceGrantExpiry (grantId : Nat) (s : State) : Host.Outcome State Fault Refusal :=
  run (fun s =>
    match s.trc.grants.find? fun g => g.id == grantId with
    | none => s
    | some g => endGrant g.id (untilTimer g.ends s)) s

end Sys2Proof.Machine
end

