-- ==== Sys2Proof/Machine/EngineOps.lean ====
section
/-!
DEFINITION. What one engine's reset costs, what switching its domain off and on does, and the quiesce between (R431, R433,
R444).
-/

namespace Sys2Proof.Machine

/-! ## Logic reset of one engine -/

/-- A merging engine loses what its roles have merged of open frames; owners still hold the records (R132). -/
def resetMerger (s : State) : State :=
  let blank (t : TierFrame) : TierFrame := if t.closed then t else TierFrame.blank t.frame t.period
  { s with roles := s.roles.map fun r => { r with frames := r.frames.map blank } }

/-- Records of open frames are asked for again, so that the frames are rebuilt from resends (R132). -/
def rebuildFrames (s : State) : State :=
  forEach s.roles (fun r s =>
    let opened := r.frames.filter fun t => !t.closed
    forEach r.children (fun c s =>
      let mine := opened.filter fun t => (censusOf (frameEnds t.frame t.period) r).any fun x => x.source == c.source
      let s := forEach mine (fun t => request r.kind c.source { frame := t.frame, blkFirst := 0, blkLast := 0xFFFF, rqkind := 2 }) s
      when (!mine.isEmpty) (sendAck r.kind c.source) s) s) s

/-- A Drift engine that was reset without quiesce was in the update of some series, which restarts in Warm (R199); which one
is a free value. -/
def resetDrift (quiesced : Bool) (s : State) : State :=
  if quiesced then s
  else
    let (k, s) := draw s
    let held := if s.fuse.plaza then s.conf.tmpl else s.conf.series
    match held[k % (held.length + 1)]? with
    | none => s
    | some e =>
      let held := tins e.1 (restartSeries e.2) held
      onConf (fun c => { c with
        series := if s.fuse.plaza then c.series else held, tmpl := if s.fuse.plaza then held else c.tmpl,
        restarts := c.restarts + 1 }) s

/-- Walks in progress are over; the score of a vector that this block would have completed is missing (R233). -/
def resetTree (s : State) : State :=
  let vs := s.tree.vecs
  let s := onTree (fun t => { t with vecs := [] }) s
  forEach vs (fun v s =>
    match slotForVec v s with
    | none => s
    | some t =>
      if !s.fuse.plaza then
        when (t.leafTrees == t.image.dir.length) (failScore none t.image v.die v.frame v.frameEnd scMissing) s
      else
        when (wholeHere t && v.leafTrees == t.first)
          (failScore (some .plaza) t.image v.die v.frame v.frameEnd scMissing) s) s

/-- Open streams are unchecked, and results in progress incomplete (R283). -/
def resetDigest (s : State) : State :=
  let f (x : Stream) : Stream :=
    { x with key := none, mine := [], spoilt := x.spoilt || !x.words.isEmpty, ready := x.ready.map fun c => (c.1, c.2.1, c.2.2.1, true) }
  onDig (fun d => { d with streams := d.streams.map f }) s

/-- Queries of the backscan engines end with a flag and what they have found; waiting ones too where asked (R259, R431,
R434). -/
def stopQueries (flag : Nat) (waiting : Bool) (s : State) : State :=
  forEach (s.arc.queries.filter fun q => !q.done && !q.lost && q.result.isNone && (q.running || waiting))
    (fun q => endQuery q.query.queryId flag true) s

/-- The cost of resetting the logic of engine `d`: what its chapter gives (R444). -/
def resetLogic (d : Nat) (quiesced : Bool) (s : State) : State :=
  match d with
  | 2 => if s.fuse.plaza then s else loseFrames true s
  | 3 => resetMerger s
  | 5 => resetDrift quiesced s
  | 7 => resetTree s
  | 8 => resetDigest s
  | 9 => resetTrace s
  | 11 => stopQueries 0x80 false s
  | _ => s

/-- What an engine does first after its release (R132, R148, R444). -/
def afterRelease (d : Nat) (s : State) : State :=
  match d with
  | 3 => rebuildFrames s
  | 12 => when (!s.fuse.plaza && trying s) nextTry s
  | _ => s

/-! ## A domain's power (R429, R431, R433) -/

/-- The Sampler's storage is cleared: every counter is unobserved until it is bound again, and what is known to be broken
stays so (R64, R431). -/
def clearSampler (s : State) : State :=
  let s := forEach (s.smp.snaps.map (·.1)) (fun p => setSnapshot p none 0) s
  let gone (c : Counter) : Counter := { Counter.unbound with binding := c.binding, dead := c.dead, gone := true }
  onSmp (fun m => { Sampler.start with
    concs := (m.concs.filter fun e => e.2.fenced).map fun e => (e.1, { Conc.start with fenced := true }),
    counters := (m.counters.filter fun e => bindEnable e.2.binding).map fun e => (e.1, gone e.2),
    sparesUsed := m.sparesUsed, retired := m.retired, repairs := m.repairs, repairsBy := m.repairsBy, invalidBy := m.invalidBy }) s

/-- What switching a domain off costs beside its logic (R64, R431). -/
def switchOff (d : Nat) (s : State) : State :=
  match d with
  | 2 => clearSampler s
  | 6 => onConf (fun c => { c with strobes := [] }) s
  | 10 => onUpl (fun u => { u with gate := none }) s
  | 11 => stopQueries 0x80 true s
  | _ => if 14 ≤ d then shrinkGroup s else s

/-- Every series of the block restarts, a Plaza's for every die (R175, R431). -/
def restartAll (s : State) : State :=
  let f (l : Tab Series) : Tab Series := l.map fun e => (e.1, restartSeries e.2)
  onConf (fun c => { c with series := f c.series, tmpl := f c.tmpl }) s

/-- What an engine finds when its domain is back on (R328, R431). -/
def switchOn (d : Nat) (s : State) : State :=
  match d with
  | 4 => restartAll s
  | 5 => restartAll s
  | 9 => restartSources s
  | 12 => when (!s.fuse.plaza && trying s) nextTry s
  | _ => if 14 ≤ d then unshrink s else s

/-- A domain has settled in a state (R433). -/
def settleDomain (d : Nat) (on : Bool) (s : State) : State :=
  let s := onPwr (fun p => { p with
    settling := p.settling.filter (fun x => x.1 != d), on := putBit p.on d on,
    isolated := if on then p.isolated.filter (· != d) else addOnce d p.isolated }) s
  complete (.domainSet d on) Config.ok [] (if on then switchOn d (giveRegions d (reportUp d s)) else switchOff d s)

/-! ## Quiesce, reset and release (R433, R444) -/

/-- Work of a Deferred command that engine `d` serves; the queries of the backscan engines end by R259 instead (R397). -/
def workOf (d : Nat) : Work → Bool
  | .treeLoad _ => d == 7
  | .digestArm _ => d == 8
  | .calLoad => d == 6
  | .constraints | .drain _ | .restore _ => d == 12
  | _ => false

/-- A quiesced or timed-out engine goes on: to its logic reset, to isolation and power-off once the Steward has taken its
regions, or, where its regions alone were asked for, with its work (R17, R433, R444).  The Trace compressor has ended its open
blocks as it quiesced, and the commands that a reset engine served are `ABORTED` (R322, R397). -/
def proceed (d : Nat) (why : QuiesceFor) (quiesced : Bool) (s : State) : State :=
  let s := when (quiesced && d == 9) flushTrace s
  let asked := (s.pwr.quiescing.filter fun q => q.1 == d && !goesDown q).map (·.2.1)
  let moves : List Nat := asked.filterMap fun w => match w with
    | .move g => some g
    | _ => none
  let s := match why with
    | .move _ => s
    | _ => forEach moves (moveOn d) (onPwr (fun p => { p with quiescing := p.quiescing.filter (fun q => q.1 != d) }) s)
  match why with
  | .move g => moveOn d g s
  | .reset =>
    completeWhere (workOf d) Config.aborted [] <| resetLogic d quiesced (onPwr (fun p => { p with releasing := p.releasing ++ [(d, quiesced)], inReset := putBit p.inReset d true }) s)
  | .off =>
    resetLogic d quiesced (takeRegions d
      (onPwr (fun p => { p with settling := p.settling ++ [(d, false)], isolated := addOnce d p.isolated }) s))

/-- Engine `d` is released and reads its configuration (R444). -/
def releaseEngine (d : Nat) (quiesced : Bool) (s : State) : State :=
  let s := onPwr (fun p => { p with
    releasing := p.releasing.filter (fun x => x.1 != d), inReset := putBit p.inReset d false,
    isolated := p.isolated.filter (· != d) }) s
  let s := raiseInt 9 (onHrw (fun h => { h with engRst := putBit h.engRst d false }) (reportUp d s))
  afterRelease d (complete (.engineReset d) Config.ok [f8 0 (bnat quiesced)] s)

end Sys2Proof.Machine
end

