-- ==== Sys2Proof/Machine/FirmwareCmd.lean ====
section
/-!
DEFINITION. Commands of group 0x0F, the non-volatile log and firmware (R48, R49, R376 to R382).
-/

namespace Sys2Proof.Machine

/-- The values of a region of the non-volatile log: 0 epoch, 1 grants, 2 SVN minima, 3 firmware events (0x0F01). -/
def nvRegion (region : Nat) (s : State) : List Nat :=
  match region with
  | 0 => [s.nv.epoch]
  | 1 => s.nv.grants.flatMap fun g => [g.1, g.2.1, g.2.2.1, g.2.2.2]
  | 2 => [s.nv.svnFirmware, s.nv.svnTest]
  | _ => s.nv.events.flatMap fun e => [e.1, e.2]

/-- A region as bytes: 4-byte words for the epoch and the minima, 8-byte words for the logs (DESIGN CHOICE, assumption
8: the manual lays out no record of regions 1 to 3). -/
def nvBytes (region : Nat) (s : State) : List Byte :=
  (nvRegion region s).flatMap fun v => bytesOf v (if region = 0 ∨ region = 2 then 4 else 8)

/-- `NVLOG_READ` (0x0F01): inline and Immediate without `DESC`, else into the chain. -/
def execNvlogRead (r : Req) (region offset : Nat) (desc : Option Desc) (s : State) : Host.Outcome State Fault Refusal :=
  run (serve { code := 0x0F01, allow := { s := true } } r (region ≤ 3) fun s =>
    match desc with
    | none => (s, { status := Config.ok, bytes := inlineBytes (nvBytes region s) offset })
    | some d => outputReply r d (nvBytes region s).length (.nvlog region (nvRegion region s)) s) s

/-- `EPOCH_RESET` (0x0F02): stores epoch 0 and logs the event, only after exhaustion (R49). -/
def execEpochReset (r : Req) (confirm : Nat) (s : State) : Host.Outcome State Fault Refusal :=
  run (serve { code := 0x0F02, allow := {} } r (confirm == 0x5A5A) fun s =>
    if !s.exhausted then deny Config.wrongState s
    else done [] (nvPush (.event (ftStamp s) 0x0F02) (nvPush (.epoch 0) s))) s

/-- `FW_UPDATE` (0x0F03): the image is checked and staged for a trial restart at `AT_FT` (R381). -/
def execFwUpdate (r : Req) (desc : Desc) (image : FwImage) (atFt : Nat) (s : State) : Host.Outcome State Fault Refusal :=
  run (serve { code := 0x0F03, allow := {} } r true fun s =>
    if s.stw.trialEnd.isSome then deny Config.wrongState s
    else if !descOk (issuerPart r.issuer) desc s then deny Config.bufferFault s
    else if atFt < s.time.ft + 10000000 then deny Config.tooSoon s
    else
      match imageReject image s with
      | some st => deny st s
      | none =>
        let s := onStw (fun t => { t with staged := some (image, atFt) }) s
        (s, { status := Config.accepted, work := some .fwUpdate, after := complete .fwUpdate Config.ok [] })) s

/-- `FW_COMMIT` (0x0F04): the trial image becomes the committed one; `RAISE_SVN` raises the minimum; a change of level
closes every session (R381, R382). -/
def execFwCommit (r : Req) (s : State) : Host.Outcome State Fault Refusal :=
  run (serve { code := 0x0F04, allow := {} } r true fun s =>
    match s.stw.trialEnd, s.stw.running with
    | some _, some img =>
      let changed := (s.stw.committed.map (·.fwLevel)) != some img.fwLevel
      let s := onStw (fun t => { t with committed := some img, trialEnd := none }) s
      let s := nvPush (.event (ftStamp s) 0x0F04) s
      let s := when img.raiseSvn (nvPush (.svn 1 img.sig.svn)) s
      (s, { status := Config.ok, after := when changed (closeAll 2) })
    | _, _ => deny Config.wrongState s) s

/-- `FW_STATUS` (0x0F05). -/
def execFwStatus (r : Req) (s : State) : Host.Outcome State Fault Refusal :=
  run (serve { code := 0x0F05, allow := { s := true } } r true fun s =>
    done [f16 0 ((s.stw.running.map (·.fwLevel)).getD 0), f16 2 ((s.stw.committed.map (·.fwLevel)).getD 0),
          f8 4 (bnat s.stw.trialEnd.isSome), f32 8 s.nv.svnFirmware, f32 0xC s.nv.svnTest, f32 0x10 s.stw.reverts] s) s

/-- The Steward goes back from trial to the committed image and raises 0x0F01 (R381, R387). -/
def revertTrial (s : State) : State :=
  if s.stw.trialEnd.isNone then s
  else
    let s := onStw (fun t => { t with running := t.committed, trialEnd := none, reverts := t.reverts + 1 }) s
    raise 0x0F01 (engineKey s.die 1) 0 (raiseInt 7 (nvPush (.event (ftStamp s) 0x0F01) s))

/-- `FW_RESTART`: at `AT_FT` Deferred commands are answered `ABORTED`, sessions close, and the Steward runs the staged
image in trial for 600 s (R381, R382, R397). -/
def execFwRestart (s : State) : Host.Outcome State Fault Refusal :=
  run (fun s =>
    match s.stw.staged with
    | none => s
    | some (img, at_) =>
      if !timeValid s then s else
        let s := untilFt at_ s
        let s := completeWhere (fun _ => true) Config.aborted [] s
        let s := closeAll 2 s
        deliverAuto (onStw (fun t => { t with
          running := some img, staged := none, trialEnd := some (s.time.timer + 600000000000),
          lastService := s.time.osc }) s)) s

/-- `FW_TRIAL_TIMEOUT`: 600 s in trial without `FW_COMMIT`: the Steward restarts on the committed image (R370, R381, R382,
R478). -/
def execFwTrialTimeout (s : State) : Host.Outcome State Fault Refusal :=
  run (fun s =>
    match s.stw.trialEnd with
    | none => s
    | some t => closeAll 2 (revertTrial (completeWhere (fun _ => true) Config.aborted [] (untilTimer t s)))) s

end Sys2Proof.Machine
end

