-- ==== Sys2Proof/Machine/HrwCmd.lean ====
section
/-!
DEFINITION. Accesses of the host register window (R359 to R361, R412 to R415, R435).
-/

namespace Sys2Proof.Machine

/-- An access is discarded and counted in `HRW_DISCARDS` (R412, R435). -/
def hrwDiscard (s : State) : State := onHrw (fun h => { h with discards := satInc h.discards }) s

/-- The register file answers: PD01 is powered and out of reset (R431). -/
def hrwUp (s : State) : Bool := s.pwr.on.getLsbD 1 && !s.rst.active && !s.pwr.parked

/-- The PM slot that an offset lies in, with the offset inside its 0x200 bytes. -/
def pmOffset (off : Nat) : Option (Nat × Nat) :=
  if 0x400 ≤ off ∧ off < 0xC00 then some ((off - 0x400) / 0x200, (off - 0x400) % 0x200) else none

/-- A word of a PM response slot (R360, R364, R413). -/
def pmRspWord (n o : Nat) (s : State) : Nat :=
  match (tget PmSlot.idle n s.hrw.pm).rsp with
  | none => 0
  | some m => numOf (((msgBytes (1024 * n) m).drop o).take 4)

/-- The fields of a register that the map gives (R413); reserved offsets read 0. -/
def hrwValue (off : Nat) (s : State) : Nat :=
  match off with
  | 0x000 => 0x0B17
  | 0x004 => 0x4C51
  | 0x008 => 0x0201
  | 0x00C => bnat s.fuse.plaza
  | 0x010 => s.die
  | 0x014 => s.fuse.dieType
  | 0x018 => s.epoch
  | 0x01C => (s.stw.running.map (·.fwLevel)).getD 0
  | 0x020 => ftStamp s % 2 ^ 32
  | 0x024 => s.hrw.ftHi
  | 0x028 => blkSts s
  | 0x040 => s.hrw.intSts.toNat
  | 0x044 => s.hrw.intEn.toNat
  | 0x048 => s.hrw.vecBlk.toNat
  | 0x050 => (tget 0xFFFF 0 s.hrw.vecPm).toNat
  | 0x054 => (tget 0xFFFF 1 s.hrw.vecPm).toNat
  | 0x058 => (tget 0xFFFF 2 s.hrw.vecPm).toNat
  | 0x05C => (tget 0xFFFF 3 s.hrw.vecPm).toNat
  | 0x080 => s.hrw.engRst.toNat
  | 0x084 => s.hrw.engQto.toNat
  | 0x088 => s.pwr.on.toNat
  | 0x08C => (pdCds s).toNat
  | 0x090 => s.pwr.inReset.toNat
  | 0x094 => s.pwr.xingWait.toNat
  | 0x098 => s.fuse.xmode.toNat
  | 0x09C => s.hrw.xingTmo
  | 0x0A0 => s.hrw.discards
  | 0x0A4 => s.hrw.tmDbDrops
  | 0x0A8 => bnat s.hrw.dbgOpen.isSome
  | 0x0C0 => s.hrw.fwPtrLo.toNat
  | 0x0C4 => s.hrw.fwPtrHi.toNat
  | 0x500 => pmSts (tget PmSlot.idle 0 s.hrw.pm)
  | 0x700 => pmSts (tget PmSlot.idle 1 s.hrw.pm)
  | 0x900 => pmSts (tget PmSlot.idle 2 s.hrw.pm)
  | 0xB00 => pmSts (tget PmSlot.idle 3 s.hrw.pm)
  | _ =>
    match pmOffset off with
    | some (n, o) => if 0x80 ≤ o ∧ o < 0x100 ∧ o % 4 = 0 then pmRspWord n (o - 0x80) s else 0
    | none => 0

/-- The bits that the map calls reserved, and those of a register that it makes write-only. -/
def hrwOpenBits (off : Nat) : Nat :=
  match off with
  | 0x00C => 0xFFFFFFFE
  | 0x028 => 0xFFFFFE00
  | 0x040 | 0x044 => 0xFFFFFC00
  | 0x060 | 0x0C8 | 0x100 => 0xFFFFFFFF
  | _ =>
    if off < 0x400 ∨ 0xC00 ≤ off then 0
    else
      let o := off % 0x200
      if o < 0x80 ∨ o = 0x108 then 0xFFFFFFFF else if o = 0x100 then 0xFFFF00F8 else 0

/-- A register as a read returns it: reserved bits read undefined (R11, R413). -/
def hrwRead (off : Nat) (s : State) : Nat := hrwValue off s ||| (Config.reservedRead off s.free &&& hrwOpenBits off)

/-- A write that needs supervisor privilege, with what it does; at user level it is discarded and counted, and while
Parked it is discarded and counted too (R412, R435). -/
def hrwWriteS (priv : Nat) (f : State → State) (s : State) : State :=
  if s.pwr.parked then hrwDiscard s
  else if !hrwUp s then s
  else if priv = 0 then hrwDiscard s
  else f s

/-- A write to a PM slot or doorbell: below supervisor it is also an isolation fault (R359). -/
def pmWrite (priv part : Nat) (f : State → State) (s : State) : State :=
  hrwWriteS priv f (when (priv == 0 && hrwUp s) (isolationFault part) s)

/-- A ring of `PMn_DB` (R360). -/
def ringPm (n : Nat) (value : Nat) (s : State) : State :=
  if value % 2 = 0 then s
  else if (tget PmSlot.idle n s.hrw.pm).busy then hrwDiscard s
  else onHrw (fun h => { h with pm := tmod PmSlot.idle n (fun p => { p with busy := true }) h.pm }) s

/-- `PM_DOORBELL`: a write of 1 sets `BUSY`; one that finds it set is discarded and counted (R360, R386). -/
def execPmDoorbell (n priv part : Nat) (value : Word32) (s : State) : Host.Outcome State Fault Refusal :=
  run (pmWrite priv part (ringPm n value.toNat)) s

/-- `DONE` is cleared by a 1; the next held response is posted (R360). -/
def clearDone (n value : Nat) (s : State) : State :=
  let p := tget PmSlot.idle n s.hrw.pm
  if !bitOf value 1 || !p.done then s
  else
    match p.held with
    | [] => onHrw (fun h => { h with pm := tput PmSlot.idle n { p with done := false } h.pm }) s
    | m :: rest =>
      raiseInt n (onHrw (fun h => { h with pm := tput PmSlot.idle n { p with rsp := some m, held := rest } h.pm }) s)

/-- `PM_DONE_CLEAR`: a W1C write to `PMn_STS` (R360, R413). -/
def execPmDoneClear (n priv : Nat) (value : Word32) (s : State) : Host.Outcome State Fault Refusal :=
  run (hrwWriteS priv (clearDone n value.toNat)) s

/-- A tenant doorbell entry joins the 256-entry queue, or is discarded and counted against its partition (R361); one of a
reserved kind asks for nothing and is discarded (DESIGN CHOICE, assumption 155). -/
def ringTenant (part : Nat) (value : Word64) (session : Nat) (s : State) : State :=
  if 2 ≤ value.toNat % 4 then s
  else if s.stw.doorbells.length < 256 then
    onStw (fun t => { t with doorbells := t.doorbells ++ [{ partition := part, value := value, session := session }] }) s
  else
    onHrw (fun h => { h with tmDbDrops := satInc h.tmDbDrops })
      (onStw (fun t => { t with dbDrops := tmod 0 part (· + 1) t.dbDrops }) s)

/-- A write to `TM_DB`, in 64 bits alone; while Parked it is discarded and counted (R361, R412, R435). -/
def writeTmDb (part size : Nat) (value : Word64) (session : Nat) (s : State) : State :=
  if s.pwr.parked then
    onHrw (fun h => { h with tmDbDrops := satInc h.tmDbDrops })
      (onStw (fun t => { t with dbDrops := tmod 0 part (· + 1) t.dbDrops }) s)
  else if !hrwUp s then s
  else if size ≠ 1 then hrwDiscard s
  else ringTenant part value session s

/-- `TM_DB`: the one register that user level writes (R361, R412, R435). -/
def execTmDb (_priv part size : Nat) (value : Word64) (session : Nat) (s : State) : Host.Outcome State Fault Refusal :=
  run (writeTmDb part size value session) s

/-- `FT_LO_READ`: returns ft [31:0] and latches ft [63:32] into `FT_HI`; user level may read it, and PD00 answers while
Parked (R412, R413, R435). -/
def execFtLoRead (_priv : Nat) (s : State) : Host.Outcome State Fault Refusal :=
  run (fun s =>
    when (hrwUp s || s.pwr.parked) (fun s =>
      emit (.hrwData (ftStamp s % 2 ^ 32)) (onHrw (fun h => { h with ftHi := ftStamp s / 2 ^ 32 }) s)) s) s

/-- `INT_STS_CLEAR`: a W1C write to `INT_STS` (R413). -/
def execIntStsClear (priv : Nat) (value : Word32) (s : State) : Host.Outcome State Fault Refusal :=
  run (hrwWriteS priv (onHrw fun h => { h with intSts := h.intSts &&& ~~~value })) s

/-- A write to `WAKE_CTL`, which PD00 takes while Parked (R412, R413, R435). -/
def writeWakeCtl (priv : Nat) (value : Word32) (s : State) : State :=
  if !s.pwr.parked && !hrwUp s then s
  else if priv = 0 then hrwDiscard s
  else when (value.getLsbD 0) wakeRequest s

/-- `WAKE_CTL_WRITE`: a 1 wakes as `WAKE` does (R436). -/
def execWakeCtlWrite (priv : Nat) (value : Word32) (s : State) : Host.Outcome State Fault Refusal :=
  run (writeWakeCtl priv value) s

/-- Engine d is asked to reset through its `ENG_RST` bit (R415). -/
def engRstBit (d : Nat) (s : State) : State :=
  if s.pwr.on.getLsbD d && !s.hrw.engRst.getLsbD d then
    startQuiesce d .reset 200000 (onHrw (fun h => { h with engRst := putBit h.engRst d true }) s)
  else s

/-- The engines of a written `ENG_RST` value, 2 to 12. -/
def engRstBits (v : Word32) : List Nat := [2, 3, 4, 5, 6, 7, 8, 9, 10, 11, 12].filter fun d => v.getLsbD d

/-- `ENG_RST_WRITE`: each bit written as 1 resets its engine with quiesce and 200 µs, without the Steward (R415). -/
def execEngRstWrite (priv : Nat) (value : Word32) (s : State) : Host.Outcome State Fault Refusal :=
  run (hrwWriteS priv (forEach (engRstBits value) engRstBit)) s

/-- A 1 written to `BOOT_DB`: the ROM reads the image at `FW_PTR` through `BUF` while it awaits one (R380). -/
def ringBoot (value : Word32) (s : State) : State :=
  when (value.getLsbD 0 && s.stw.running.isNone)
    (emit (.bufRead (s.hrw.fwPtrHi.toNat * 2 ^ 32 + s.hrw.fwPtrLo.toNat))) s

/-- `BOOT_DB` (R380). -/
def execBootDb (priv : Nat) (value : Word32) (s : State) : Host.Outcome State Fault Refusal :=
  run (hrwWriteS priv (ringBoot value)) s

/-- Bytes are written into a PM request slot; while `BUSY` they are discarded and counted (R360). -/
def pmReqWrite (n off : Nat) (bytes : List Byte) (s : State) : State :=
  let p := tget PmSlot.idle n s.hrw.pm
  if p.busy then hrwDiscard s
  else
    let req := ((List.range bytes.length).zip bytes).foldl (fun t ib => tput 0 (off + ib.1) ib.2 t) p.req
    onHrw (fun h => { h with pm := tput PmSlot.idle n { p with req := req } h.pm }) s

/-- One 32-bit register takes a supervisor's write; read-only and reserved offsets discard it (R412, R413). -/
def hrwWord (off : Nat) (v : Word32) (s : State) : State :=
  match off with
  | 0x040 => onHrw (fun h => { h with intSts := h.intSts &&& ~~~v }) s
  | 0x044 => onHrw (fun h => { h with intEn := v &&& 0x3FF }) s
  | 0x048 => onHrw (fun h => { h with vecBlk := v &&& 0xFFFF }) s
  | 0x050 => onHrw (fun h => { h with vecPm := tput 0xFFFF 0 (v &&& 0xFFFF) h.vecPm }) s
  | 0x054 => onHrw (fun h => { h with vecPm := tput 0xFFFF 1 (v &&& 0xFFFF) h.vecPm }) s
  | 0x058 => onHrw (fun h => { h with vecPm := tput 0xFFFF 2 (v &&& 0xFFFF) h.vecPm }) s
  | 0x05C => onHrw (fun h => { h with vecPm := tput 0xFFFF 3 (v &&& 0xFFFF) h.vecPm }) s
  | 0x080 => forEach (engRstBits v) engRstBit s
  | 0x0A8 => onHrw (fun h => { h with dbgOpen := if v.getLsbD 0 then some (s.time.timer + 600000000000) else none }) s
  | 0x0C0 => onHrw (fun h => { h with fwPtrLo := v }) s
  | 0x0C4 => onHrw (fun h => { h with fwPtrHi := v }) s
  | 0x0C8 => ringBoot v s
  | _ => s

/-- A write at an offset in the PM slots. -/
def hrwPm (n o priv part size : Nat) (value : Word64) (s : State) : State :=
  if o < 0x80 then pmWrite priv part (pmReqWrite n o (bytesOf value.toNat (if size = 1 then 8 else 4))) s
  else if o = 0x100 then hrwWriteS priv (clearDone n value.toNat) s
  else if o = 0x108 then pmWrite priv part (ringPm n value.toNat) s
  else hrwWriteS priv (fun s => s) s

/-- A write outside the PM slots; a 64-bit write covers two words. -/
def hrwPlain (off priv size : Nat) (value : Word64) (s : State) : State :=
  hrwWriteS priv (fun s =>
    let s := hrwWord off (BitVec.ofNat 32 value.toNat) s
    when (size == 1) (hrwWord (off + 4) (BitVec.ofNat 32 (value.toNat / 2 ^ 32))) s) s

/-- `HRW_REGISTER_WRITE`: a write under the access rules of R412. -/
def execHrwRegisterWrite (offset priv part size : Nat) (value : Word64) (session : Nat) (s : State) : Host.Outcome State Fault Refusal :=
  run (fun s =>
    match pmOffset offset with
    | some (n, o) => hrwPm n o priv part size value s
    | none =>
      if offset = 0x060 then writeWakeCtl priv (BitVec.ofNat 32 value.toNat) s
      else if offset = 0x100 then writeTmDb part size value session s
      else hrwPlain offset priv size value s) s

/-- `DBG_CTL_EXPIRY`: `OPEN` clears itself 600 s after it was set (R413, R478). -/
def execDbgCtlExpiry (s : State) : Host.Outcome State Fault Refusal :=
  run (fun s =>
    match s.hrw.dbgOpen with
    | none => s
    | some t => onHrw (fun h => { h with dbgOpen := none }) (untilTimer t s)) s

end Sys2Proof.Machine
end

