-- ==== Sys2Proof/Machine/ResetOps.lean ====
section
/-!
DEFINITION. The reset sources as shared operations: how they are held, merged and applied, and the release after them
(R439 to R443, R447, R448).
-/

namespace Sys2Proof.Machine

/-! ## Codes of R439 -/

def srcBrownOut : Nat := 2
def srcPin : Nat := 3
def srcWatchdog : Nat := 4
def srcSoftware : Nat := 5
def srcDebug : Nat := 6
def srcClock : Nat := 7
def srcLockup : Nat := 8

/-- One count of a source, in 16 bits (saturating: DESIGN CHOICE, assumption 24). -/
def countSource (c : Nat) (s : State) : State :=
  onRst (fun r => { r with counts := tmod 0 (c - 1) (fun n => min 65535 (n + 1)) r.counts }) s

/-- What every source returns to its reset value in the register window (R440). -/
def resetRegs (s : State) : State :=
  onHrw (fun h => { h with intEn := 0, vecBlk := 0xFFFF, vecPm := [], dbgOpen := none }) s

/-- Every trace grant ends (R311, R440). -/
def endGrants (s : State) : State := forEach (s.trc.grants.map (·.id)) endGrant s

/-- A restart on the committed image; a trial reverts (R381, R440). -/
def toCommitted (s : State) : State :=
  onStw (fun t => { t with running := t.committed }) (revertTrial s)

/-- The report of one source, after release: its code stands in the subject (R448). -/
def reportSource (c : Nat) (s : State) : State := raise 0x0D01 (dieKey s.die + c * 2 ^ 18) 0 s

/-! ## A lock-up (R386, R440) -/

/-- The Steward alone is reset: engines run on, sessions stay, requests in progress are answered `ABORTED`. -/
def lockupReset (s : State) : State :=
  let trial := s.stw.trialEnd.isSome
  let s := onRst (fun r => { r with last := srcLockup }) (countSource srcLockup s)
  let s := abortRun (endGrants (resetRegs s))
  let s := completeWhere (fun _ => true) Config.aborted [] s
  let s := when trial (closeAll 2) (toCommitted s)
  reportSource srcLockup (onStw (fun t => { t with lastService := s.time.osc }) s)

/-! ## A reset of the whole block (R440, R442, R447) -/

/-- Open segments are recovered and sealed after their last good entry (R246). -/
def recoverSegments (s : State) : State :=
  onArc (fun a => { a with segments := a.segments.map fun g =>
    if g.sealed || g.lost then g else { g with sealed := true, recovered := true } }) s

/-- Running and queued queries are lost and end without a result (R259). -/
def loseQueries (s : State) : State :=
  let open_ (q : QueryState) : Bool := !q.done && !q.lost
  onArc (fun a => { a with
    queriesLost := a.queriesLost + (a.queries.filter open_).length,
    queries := a.queries.map fun q => if open_ q then { q with lost := true, running := false, result := none, scans := [], seen := [] } else q }) s

/-- Memory operations in flight are over without an answer: reads were for queries that are lost, writes will be issued again
from their staged copies (R244, R442; DEDUCED, assumption 157). -/
def cutMemory (s : State) : State :=
  onArc (fun a => { a with ops := [], waiting := ((a.ops ++ a.waiting).filter (·.write)).map fun o => { o with tag := 0 } }) s

/-- The logic of every engine is reset without quiesce; transfers not yet started are dropped (R442). -/
def resetEngines (s : State) : State :=
  let s := forEach [3, 5, 7, 8, 9] (fun d => resetLogic d false) (loseFrames true s)
  let s := onUpl (fun u => { u with gate := none }) (onBuf (fun b => { b with waiting := [] }) s)
  cutMemory (recoverSegments (loseQueries s))

/-- Power work in progress is abandoned, the regions of a bank group that has failed move now that no engine writes, the block leaves Parked, and every domain but PD00 is in reset (R442, R447). -/
def holdDomains (s : State) : State :=
  let s := forEach (s.pwr.moving.filter fun m => !m.2) (fun m => endMove m.1 false) s
  onPwr (fun p => { p with
    inReset := 0x3FFE, parked := false, parkPending := false, parking := none, wakeAfterEntry := false, wakeAsked := false,
    waking := none, quiescing := [], releasing := [], settling := [], moving := [], noRetry := [],
    isolated := p.isolated.filter (fun d => !p.on.getLsbD d), wakeReq := 0, xingWait := p.xingWait &&& p.dravaForced }) s

/-- The block goes into reset. -/
def enterReset (s : State) : State :=
  let s := abortRun (endGrants (resetRegs s))
  let s := closeAll 3 (completeWhere (fun _ => true) Config.aborted [] s)
  let s := resetEngines s
  let s := holdDomains s
  let s := onHrw (fun h => { h with engRst := 0 }) s
  let s := onDump (fun d => { d with pending := [], awaiting := [] }) s
  let s := onStw (fun t => { t with serving := false, doorbells := [], place := 0 }) s
  onSmp (fun m => { m with quiesced := true }) s

/-- Sources are applied together: the union of what they clear, one count each, the lowest code as the last source; a brown-out
cuts every burst on `BUF` (R442, R443). -/
def applyWhole (cs : List Nat) (s : State) : State :=
  let all := s.rst.applied ++ cs
  let s := if s.rst.active then s else enterReset s
  let s := forEach cs countSource s
  let s := when (cs.contains srcBrownOut) (onBuf fun b => { b with ops := [] }) s
  let s := when (cs.contains srcWatchdog || cs.contains srcLockup) toCommitted s
  onRst (fun r => { r with
    active := true, applied := all, last := listMin 0 all, softwareDue := none,
    coreOk := r.coreOk && !cs.contains srcBrownOut }) s

/-- Sources take effect; a lock-up alone resets the Steward alone (R440, R447). -/
def applySources (cs : List Nat) (s : State) : State :=
  if cs.isEmpty then s
  else if (cs.all fun c => c == srcLockup) && !s.rst.active then lockupReset s
  else applyWhole cs s

/-- A source arrives: behind a write pulse it is held, a brown-out excepted, which takes with it what is held; sources whose
dump is still awaited join a whole-block reset (R443, R453). -/
def raiseSource (c : Nat) (s : State) : State :=
  if s.nv.pulse && c != srcBrownOut then onRst (fun r => { r with pending := r.pending ++ [c] }) s
  else
    let waiting := if c = srcLockup then [] else (s.dump.awaiting.filter fun x => !x.1).map (·.2)
    let held := s.rst.pending
    applySources (held ++ [c] ++ waiting) (onRst (fun r => { r with pending := [] }) s)

/-- Sources held behind a pulse are applied when it ends. -/
def releaseHeld (s : State) : State :=
  let held := s.rst.pending
  applySources held (onRst (fun r => { r with pending := [] }) s)

/-- A trigger of a dump that is taken before its consequence: with a dump accepted the consequence waits for the capture,
else it follows at once (R453). -/
def dumpThen (trigger : Nat) (isEngine : Bool) (n : Nat) (now : State → State) (s : State) : State :=
  if autoAccepted s then
    onDump (fun d => { d with awaiting := d.awaiting ++ [(isEngine, n)] }) (autoDump trigger s)
  else now (autoDump trigger s)

/-- What waited for a capture follows it (R453). -/
def afterCapture (s : State) : State :=
  let l := s.dump.awaiting
  let s := onDump (fun d => { d with awaiting := [] }) s
  forEach l (fun x s =>
    if x.1 then
      match s.pwr.quiescing.find? fun q => q.1 == x.2 with
      | some q => proceed x.2 q.2.1 false s
      | none => s
    else raiseSource x.2 s) s

/-! ## Release (R442, R448) -/

/-- The block can be released: it is in reset, `RST_N` is high and `VDD_CORE` is in specification. -/
def mayRelease (s : State) : Bool := s.rst.active && !s.rst.pinLow && s.rst.coreOk

/-- The Steward releases the engines in ascending domain order, the Sampler with them, and reports each source. -/
def releaseBlock (s : State) : State :=
  let cs := s.rst.applied.foldl (fun l c => insertAsc c l) []
  let s := onRst (fun r => { r with active := false, applied := [] }) s
  let s := onPwr (fun p => { p with inReset := 0 }) s
  let s := onSmp (fun m => { m with quiesced := false }) s
  let s := onStw (fun t => { t with serving := t.running.isSome, lastService := s.time.osc }) s
  let s := forEach cs reportSource s
  let s := when (cs.contains srcClock) (raise 0x0D02 (engineKey s.die 13) 0) s
  deliverAuto (issueWaiting s.arc.waiting.length (forEach [3, 12] afterRelease s))

/-! ## Power (R51, R438, R440) -/

/-- The power-on state of the fence lines (R297, R424). -/
def powerOnFences (f : FuseMap) : Lines := if f.crcOk then f.fncPwrOn else BitVec.allOnes 256

/-- Mode of the time front from the fuse map (R423). -/
def fuseMode (f : FuseMap) : Nat := if f.ftiMode = 2 then 2 else 1

/-- The record at the head of the queue is committed (R443). -/
def commitRecord (r : NvRec) (s : State) : State :=
  match r with
  | .epoch n => onNv (fun v => { v with epoch := n }) s
  | .history h => writeHistory h s
  | .grant ft m l n => onNv (fun v => { v with grants := v.grants ++ [(ft, m, l, n)] }) s
  | .grantEnd ft g => onNv (fun v => { v with grants := v.grants ++ [(ft, g, 0, 0)] }) s
  | .svn u n =>
    if u = 1 then onNv (fun v => { v with svnFirmware := max v.svnFirmware n }) s
    else onNv (fun v => { v with svnTest := max v.svnTest n }) s
  | .event ft c => onNv (fun v => { v with events := v.events ++ [(ft, c)] }) s
  | .retired i => onNv (fun v => { v with retired := addOnce i v.retired }) s

/-- A pulse ends: one record is committed, and the next begins if one waits (R443). -/
def endPulse (s : State) : State :=
  match s.nv.queue with
  | [] => onNv (fun v => { v with pulse := false }) s
  | r :: rest => commitRecord r (onNv (fun v => { v with queue := rest, pulse := !rest.isEmpty }) s)

/-- Power is lost: a pulse in progress has left the old record or the new one, and nothing else outside the log survives
(R51, R52, R443). -/
def losePower (s : State) : State :=
  let (k, s) := draw s
  let s := if s.nv.pulse && Config.pulseSurvives k then endPulse s else s
  let s := onNv (fun v => { v with queue := [], pulse := false }) s
  let s := onPwr (fun p => { p with on := 0 }) s
  onRst (fun r => { r with aonOk := false, coreOk := false }) s

/-- The block after a rise of `PWR_OK_AON`: everything is as at reset but the log, with the fuse map and straps just read
(R297, R422, R423, R438). -/
def poweredOn (fuse : FuseMap) (straps : Nat) (s : State) : State :=
  { State.reset with
    pending := s.pending, fuse := fuse, die := straps, time := TimeFront.start (fuseMode fuse), nv := s.nv,
    fence := powerOnFences fuse, upl := Uplink.start fuse, out := s.out, free := s.free }

/-- A target with no address raises a hot-join once after power-on (R383). -/
def hotJoin (s : State) : State :=
  if s.sbi.addr.isNone && !s.sbi.hotJoined then emit .hotJoin (onSbi (fun b => { b with hotJoined := true }) s) else s

/-- The boot ROM's first act: PD13 and PD01 are powered, and the epoch is counted up before any frame; an exhausted one is
reported instead (R48, R49, R385, R438). -/
def runRom (s : State) : State :=
  let s := onPwr (fun p => { p with on := p.on ||| 0x2002 }) s
  if s.nv.epoch = 0xFFFFFFFF then exhaustIbi (onSbi (fun b => { b with exhaustDue := true }) { s with exhausted := true })
  else nvPush (.epoch (s.nv.epoch + 1)) { s with epoch := s.nv.epoch + 1 }

/-- The domains powered at bring-up: bank groups outside the Cul-de-sac, then the engines of the configuration (R431,
R438). -/
def bringUpDomains (s : State) : List Nat :=
  (List.range 30).filter fun d =>
    if 14 ≤ d then !s.pwr.culDeSac.contains (2, d - 14)
    else 2 ≤ d && d != (if s.fuse.plaza then 2 else 11)

/-- The image that passed runs and is committed; the Steward asserts the fences of the history and lists the Cul-de-sac, and
the domains are powered (R297, R301, R380, R438). -/
def runImage (i : FwImage) (s : State) : State :=
  let s := onStw (fun t => { t with running := some i, committed := some i, serving := true, lastService := s.time.osc }) s
  let s := onSbi (fun b => { b with bootBytes := [] }) s
  let cds := cdsInHistory s.nv.history
  let s := { s with fence := (fencedInHistory s.nv.history).foldl (fun f l => putBit f l true) s.fence }
  let s := onSmp (fun m => { m with retired := s.nv.retired }) s
  let s := when (!s.fuse.plaza) placeRegions s
  let s := forEach cds (fun r s => shrinkFor r.1 r.2 (onPwr (fun p => { p with culDeSac := p.culDeSac ++ [r] }) s)) s
  onPwr (fun p => { p with on := (bringUpDomains s).foldl (fun w d => putBit w d true) p.on }) s

/-- The block takes its first role: a chip its Plaza role, a Leaf its adoption (R24, R148). -/
def firstRole (s : State) : State :=
  if s.fuse.plaza then setRole .plaza true (trayOf s.die) 0 0 s else tryAt 0 s

end Sys2Proof.Machine
end

