-- ==== Sys2Proof/Machine/CrossingCmd.lean ====
section
/-!
DEFINITION. Events of the Crossings and commands of the test access port and the 1687 network (R419, R420, R425 to R428).
-/

namespace Sys2Proof.Machine

/-! ## Crossings -/

/-- `CROSSING_CLOCK_START`: the group's clock delivers an edge that can be used, and its work goes on (R419, R441). -/
def execCrossingClockStart (group : Nat) (s : State) : Host.Outcome State Fault Refusal :=
  run (fun s => when (group < 32) (groupRuns group) s) s

/-- A fabric packet that its channel has not taken: it has its `CSEQ` and is charged, and does not leave (R420). -/
def discardPacket (port : Nat) (s : State) : State :=
  match s.upl.gate with
  | none => s
  | some g => if mayInject g s then { (nextPacket (if s.fuse.plaza then port else g.port) s).2 with out := s.out } else s

/-- The outcome of a timeout for each use of a group. -/
def timeoutOutcome (u : GroupUse) (s : State) : State :=
  match u with
  | .conc c => onConc c (fun k => { k with skipSeal := true }) s
  | .fabric p => discardPacket p s
  | .byp => onUpl (fun x => { x with byp := x.byp.tail }) s
  | .buf =>
    match s.buf.ops with
    | [] => s
    | op :: _ => bufFailed op (bufRetire op.id s)
  | .fnc => endRun wrapperError false s
  | .mem p =>
    match s.arc.ops.find? fun o => o.port == p with
    | none => portError p s
    | some o => opFailed o s
  | .tap => s
  | .hrw => s
  | .none => s

/-- The group holds a transfer that can time out: the digest and read-data groups hold theirs for the cycle of the command
alone. -/
def mayTimeOut (g : Nat) (s : State) : Bool :=
  match groupUse g s.fuse.plaza with
  | .none => false
  | .tap => true
  | .hrw => true
  | _ => groupWork g s

/-- `DRAVA_TIMEOUT`: a transfer that the clock of a Drava-compatible group has not taken ends in error and is counted
(R420). -/
def execDravaTimeout (group : Nat) (s : State) : Host.Outcome State Fault Refusal :=
  run (fun s =>
    if 32 ≤ group ∨ nativeGroup group s = true ∨ mayTimeOut group s = false then s
    else
      let s := onHrw (fun h => { h with xingTmo := satInc h.xingTmo }) s
      let s := onPwr (fun p => { p with
        xingWait := putBit p.xingWait group (p.dravaForced.getLsbD group) }) s
      timeoutOutcome (groupUse group s.fuse.plaza) s) s

/-! ## The test access port (R425) -/

/-- Every engine is held in reset, or released, as the instruction says. -/
def holdEngines (hold : Bool) (s : State) : State :=
  if hold == s.jtag.hold then s
  else if hold then
    onJtag (fun j => { j with hold := true }) (forEach [3, 5, 7, 8, 9, 11] (fun d => resetLogic d false) (loseFrames true s))
  else forEach [3, 12] afterRelease (onJtag (fun j => { j with hold := false }) s)

/-- An instruction is selected; a Leaf has no TAP (R425, R426). -/
def selectJtag (ir : Nat) (hold : Bool) (s : State) : State :=
  when s.fuse.plaza (fun s => holdEngines hold (onJtag (fun j => { j with ir := ir }) s)) s

/-- `EXTEST`, 0x00. -/
def execExtest (s : State) : Host.Outcome State Fault Refusal := run (selectJtag 0x00 true) s

/-- `IDCODE`, 0x01: the identification register is read. -/
def execIdcode (s : State) : Host.Outcome State Fault Refusal :=
  run (fun s => when s.fuse.plaza (emit (.jtagData s.fuse.idcode.toNat)) (selectJtag 0x01 false s)) s

/-- `SAMPLE/PRELOAD`, 0x02. -/
def execSamplePreload (s : State) : Host.Outcome State Fault Refusal := run (selectJtag 0x02 false) s

/-- `CLAMP`, 0x03. -/
def execClamp (s : State) : Host.Outcome State Fault Refusal := run (selectJtag 0x03 true) s

/-- `HIGHZ`, 0x04. -/
def execHighz (s : State) : Host.Outcome State Fault Refusal := run (selectJtag 0x04 true) s

/-- `LQ_IJTAG`, 0x20: entry to the 1687 network. -/
def execLqIjtag (s : State) : Host.Outcome State Fault Refusal := run (selectJtag 0x20 false) s

/-- Codes that the table of R425 lists for another instruction. -/
def listedCode (c : Nat) : Bool := [0x00, 0x01, 0x02, 0x03, 0x04, 0x20].contains c

/-- `BYPASS`, 0xFF and every code not listed. -/
def execBypass (code : Nat) (s : State) : Host.Outcome State Fault Refusal :=
  run (fun s => if listedCode code then s else selectJtag (code % 256) false s) s

/-- `TEST_LOGIC_RESET`: `IDCODE` is selected and a hold on the engines ends (R425). -/
def execTestLogicReset (s : State) : Host.Outcome State Fault Refusal := run (selectJtag 0x01 false) s

/-! ## The 1687 network (R426 to R428) -/

/-- The network is entered: through `LQ_IJTAG` on a chip, through the die's segment on a Leaf. -/
def networkOpen (s : State) : Bool := !s.fuse.plaza || s.jtag.ir == 0x20

/-- `DBG_CTL.OPEN` is 1. -/
def debugOpen (s : State) : Bool := s.hrw.dbgOpen.isSome

/-- Access under `FUS_JTG_LOCK`: to status and counts, to self-test, to memory content and debug reset, to the dump trigger,
which only 0b00 opens (DEDUCED, assumption 25). -/
def mayRead (s : State) : Bool := networkOpen s && s.fuse.jtgLock ≤ 2
def mayTest (s : State) : Bool := networkOpen s && s.fuse.jtgLock ≤ 1
def mayDebug (s : State) : Bool := networkOpen s && (s.fuse.jtgLock == 0 || (s.fuse.jtgLock == 1 && debugOpen s))
def mayTrigger (s : State) : Bool := networkOpen s && s.fuse.jtgLock == 0

/-- An instrument shifts out what it reads, in a form that the manual does not give: a free value (assumption 26). -/
def shiftFree (s : State) : State :=
  let (v, s) := draw s
  emit (.jtagData v) s

/-- `IJTAG_INSTRUMENT_ACCESS`: an instrument of a domain is read; the region of digest
keys and grants reads as 0 (R427, R428). -/
def execIjtagInstrumentAccess (domain : Nat) (instrument : Instrument) (s : State) : Host.Outcome State Fault Refusal :=
  run (fun s =>
    if 29 < domain then s
    else
      match instrument with
      | .status => when (mayRead s) shiftFree s
      | .counts => when (mayRead s) shiftFree s
      | .memoryContent secret => when (mayDebug s) (if secret then emit (.jtagData 0) else shiftFree) s) s

/-- A domain that the Steward has quiesced and whose regions it has moved (R427, R433). -/
def readyForTest (d : Nat) (s : State) : Bool := s.pwr.isolated.contains d && !s.pwr.quiescing.any fun q => q.1 == d

/-- `IJTAG_MEMORY_SELFTEST`: on a quiesced domain it runs, on a live one it is refused and counted (R427); its result is a
free value. -/
def execIjtagMemorySelftest (domain : Nat) (s : State) : Host.Outcome State Fault Refusal :=
  run (fun s =>
    if !mayTest s then s
    else if readyForTest domain s then
      shiftFree (onJtag (fun j => { j with selftests := j.selftests + 1 }) s)
    else onJtag (fun j => { j with refusedTests := j.refusedTests + 1 }) s) s

/-- `IJTAG_DUMP_TRIGGER`: an automatic dump under trigger 0x08 (R452). -/
def execIjtagDumpTrigger (s : State) : Host.Outcome State Fault Refusal :=
  run (fun s => when (mayTrigger s) (autoDump 8) s) s

/-- `IJTAG_DEBUG_RESET`: the debug source (R427, R439). -/
def execIjtagDebugReset (s : State) : Host.Outcome State Fault Refusal :=
  run (fun s => when (mayDebug s) (raiseSource srcDebug) s) s

end Sys2Proof.Machine
end

