-- ==== Sys2Proof/Machine/DigestCmd.lean ====
section
/-!
DEFINITION. Commands of group 0x09 and the events of the digest engine (R260 to R283).
-/

namespace Sys2Proof.Machine

/-! ## DIGEST_ARM (R266, R270) -/

/-- A key and table armed for an anchor: a Leaf's next one, a chip's for its roles; an earlier arm of the job that still
waits gives way. -/
def installTable (t : KeyTable) (s : State) : State :=
  if s.fuse.plaza then
    onDig (fun d => { d with tables := (d.tables.filter fun x => !(x.job == t.job && s.time.ft < x.anchor)) ++ [t] }) s
  else onDig (fun d => { d with next := some t }) (dueKey s)

/-- A block that rejects a table holds none for the job. -/
def refuseTable (job : Nat) (s : State) : State :=
  let wait (t : KeyTable) : Bool := t.job == job && s.time.ft < t.anchor
  let f (d : Digests) : Digests :=
    { d with tables := d.tables.filter (fun t => !wait t), next := d.next.filter fun t => !wait t }
  onDig f s

/-- The own part of `DIGEST_ARM`. -/
def digestArm (r : Req) (t : KeyTable) (d : Desc) (s : State) : State × Reply :=
  if !leadOk r.issuer t.anchor 10000000 s then deny Config.tooSoon s
  else if !inputOk r d s then deny Config.bufferFault s
  else if !collTableOk t.table s then deny Config.invalidImage (refuseTable t.job s)
  else
    (installTable t s,
     { status := Config.accepted, work := some (.digestArm t.job), after := complete (.digestArm t.job) Config.ok [] })

/-- `DIGEST_ARM` (0x0901).  A chip through which the arm passes on its way to the scope holds the table for its roles. -/
def execDigestArm (r : Req) (key job anchor : Nat) (desc : Desc) (n : Nat) (table : List CollEntry) (s : State) :
    Host.Outcome State Fault Refusal :=
  let t : KeyTable := { job := job, key := key, anchor := anchor, table := table }
  let form := 2 ≤ key && key < digestP && n == table.length && inputRelayOk r desc
  run (fun s =>
    let c : Cmd := { code := 0x0901, allow := {}, relayable := true,
                     attachment := attachedTo r desc (table.flatMap collEntryBytes) s }
    let passes := engineUp 8 s && s.fuse.plaza && r.relay && !isCopy r.issuer && !selfInScope r.scope s
      && requestPasses c r form s && leadOk r.issuer anchor 10000000 s && collTableOk table s
    serve c r form (engineServed 8 (digestArm r t desc)) (when passes (installTable t) s)) s

/-- `DIGEST_KEY_ANCHOR`: ft reaches the anchor of the key and table that wait (R266). -/
def execDigestKeyAnchor (s : State) : Host.Outcome State Fault Refusal :=
  run (when (timeValid s) fun s =>
    if s.fuse.plaza then
      match s.dig.tables.find? fun t => s.time.ft < t.anchor with
      | none => s
      | some t => onDig (fun d => { d with tables := d.tables.filter fun x => x == t || x.job != t.job }) (untilFt t.anchor s)
    else
      match s.dig.next with
      | none => s
      | some t => onDig (fun d => { d with current := some t, next := none }) (untilFt t.anchor s)) s

/-! ## Reads (R282) -/

/-- The block holds something of a job. -/
def digestKnows (job : Nat) (s : State) : Bool :=
  let d := s.dig
  (d.current.toList ++ d.next.toList ++ d.tables).any (fun t => t.job == job)
    || (d.jobOk ++ d.jobBad ++ d.jobNone).any (fun x => x.1 == job) || d.verdicts.any fun v => v.job == job

/-- `DIGEST_STATUS` (0x0902). -/
def execDigestStatus (r : Req) (job : Nat) (s : State) : Host.Outcome State Fault Refusal :=
  run (serve { code := 0x0902, allow := { s := true, t := true } } r true (engineServed 8 fun s =>
    if !digestKnows job s || !jobVisible r.issuer job s then deny Config.notFound s
    else
      let d := s.dig
      let seen (p : Verdict → Bool) : Nat := (d.verdicts.filter fun v => v.job == job && p v).length
      done [f64 0 (tget 0 job d.jobOk), f64 8 (tget 0 job d.jobBad), f64 0x10 (tget 0 job d.jobNone),
            f16 0x18 (d.streams.filter fun x => x.job == job).length, f32 0x1C d.overruns,
            f32 0x20 (seen fun v => v.verdict != 3), f32 0x24 (seen fun v => v.verdict == 1),
            f32 0x28 (seen fun v => v.verdict == 2)] s)) s

/-- `DIGEST_VERDICT_READ` (0x0903): instance 0 names the latest. -/
def execDigestVerdictRead (r : Req) (job coll inst : Nat) (s : State) : Host.Outcome State Fault Refusal :=
  run (serve { code := 0x0903, allow := { t := true } } r true (engineServed 8 fun s =>
    let mine := s.dig.verdicts.filter fun v => v.job == job && v.coll == coll && (inst == 0 || v.inst == inst)
    match mine.getLast? with
    | none => deny Config.notFound s
    | some v =>
      if !jobVisible r.issuer job s then deny Config.notFound s
      else
        let units : List Fld := if s.fuse.plaza then [] else [⟨0x28, 256, v.suspects.toNat⟩]
        done ([f32 0 v.job, f32 4 v.coll, f32 8 v.inst, f8 0xC v.verdict, f64 0x10 v.result.toNat, f32 0x18 v.nMaj,
               f32 0x1C v.nOther, f32 0x20 v.nAbsent] ++ units) s)) s

/-! ## The tap -/

/-- A beat reaches its stream, which its first one opens; `dropped`: it found the queue full. -/
def beatIn (b : TapBeat) (dropped : Bool) (s : State) : State :=
  if (streamOf (beatId b) s).isSome then onStream (beatId b) (takeBeat b dropped s.time.timer) s
  else onDig (fun d => { d with streams := d.streams ++ [takeBeat b dropped s.time.timer (openStream b s)] }) s

/-- A beat is dropped and counted (R263, R283). -/
def countDrop (s : State) : State := onDig (fun d => { d with overruns := d.overruns + 1, overrunFrame := true }) s

/-- The result of a stream that finds the table full: every chunk unchecked (R263, R271). -/
def fullResult (b : TapBeat) (s : State) : State :=
  let n := b.off / 4096 + 1
  let e : ResultEntry :=
    { job := (s.dig.current.map (·.job)).getD 0, coll := b.coll, inst := b.inst, nChunk := n, result := noDigest, unchk := n,
      incomplete := true, stripes := (List.range 16).map fun _ => noDigest }
  onDig (fun d => { d with outbox := d.outbox ++ [e] }) s

/-- A beat finds 4,096 streams open: a chunk that ends with it is unchecked, and a result that does incomplete (R263). -/
def fullBeat (b : TapBeat) (s : State) : State :=
  let ends := b.last || (b.off + b.bytes) % 4096 == 0
  let s := when (ends && b.kind != 2) (countNone ((s.dig.current.map (·.job)).getD 0) 1) s
  let s := when (b.last && b.kind == 2) (fullResult b) s
  tapReport (onDig (fun d => { d with tableFull := d.tableFull + 1 }) s)

/-- `TAP_BEAT` (R260 to R263, R269, R283). -/
def execTapBeat (b : TapBeat) (s : State) : Host.Outcome State Fault Refusal :=
  run (when (tapFrontOn s) fun s =>
    let s := dueKey s
    let known := (streamOf (beatId b) s).isSome
    if !digestUp s then countDrop (when (b.kind != 3 && known) (beatIn b true) s)
    else if b.kind = 3 then
      when (contribChecked b.coll s || (streamOf { beatId b with kind := 1 } s).isSome) (takeListBeat b) s
    else if !known && !beatWanted b s then s
    else if !known && 4096 ≤ s.dig.streams.length then fullBeat b s
    else if tapRoom s < tapQueued s + b.bytes then tapReport (countDrop (beatIn b true s))
    else beatIn b false s) s

/-- `TAP_CHUNK_DIGEST`: the oldest whole chunk of a stream. -/
def execTapChunkDigest (stream : StreamId) (s : State) : Host.Outcome State Fault Refusal :=
  run (when (digestUp s && !s.fuse.plaza) fun s =>
    match streamOf stream s with
    | none => s
    | some x =>
      match x.ready with
      | [] => s
      | (chunk, words, len, spoilt) :: _ => digestChunk x chunk words len spoilt s) s

/-- `DIGEST_LIST_TIMEOUT`: 50 µs after the last beat of an arrived contribution (R268). -/
def execDigestListTimeout (stream : StreamId) (s : State) : Host.Outcome State Fault Refusal :=
  run (fun s =>
    match streamOf stream s with
    | none => s
    | some x =>
      if x.id.kind ≠ 1 ∨ x.ended = false then s
      else
        let s := untilTimer (x.lastAt + 50000) s
        endArrival stream (countNone x.job x.mine.length (onStream stream (fun x => { x with mine := [] }) s))) s

/-- `UNIT_MASK_EXPIRY`: a retained instance's 20 ms are over (R272). -/
def execUnitMaskExpiry (job coll inst : Nat) (s : State) : Host.Outcome State Fault Refusal :=
  run (fun s =>
    let isIt (r : Retained) : Bool := r.result.job == job && r.result.coll == coll && r.result.inst == inst
    match s.dig.retained.find? isIt with
    | none => s
    | some r => onDig (fun d => { d with retained := d.retained.filter fun x => !isIt x }) (untilTimer r.ends s)) s

/-- `VERDICT_NOTICE_LEAF` (R279, R280). -/
def execVerdictNoticeLeaf (n : VerdictNotice) (s : State) : Host.Outcome State Fault Refusal :=
  run (when (!s.fuse.plaza && digestUp s) (leafVerdict n)) s

/-! ## The tiers -/

/-- `DIGEST_RECORD`: the Plaza of a Leaf takes its results (R273, R274). -/
def execDigestRecord (role : RoleKind) (rec_ : DigestRecord) (s : State) : Host.Outcome State Fault Refusal :=
  run (when (s.fuse.plaza && role == .plaza) fun s =>
    let s := arcIngest 1 (mkEntry rec_.die (digestBytes rec_).length (.digests rec_) s) s
    toEngine 13 8 (when ((findRole .plaza s).bind (childOf rec_.die)).isSome (forEach rec_.results (takeResult rec_.die rec_.timeQuality))) s) s

/-- `TALLY_RECORD`: a Quarter or Forum role merges a child's tallies (R274 to R276). -/
def execTallyRecord (role : RoleKind) (rec_ : TallyRecord) (s : State) : Host.Outcome State Fault Refusal :=
  run (when (s.fuse.plaza && role != .plaza && (findRole role s).isSome) fun s =>
    let bytes := tallyBytes rec_
    let s := arcIngest 1 { mkEntry rec_.source bytes.length (.tallies rec_) s with hosted := true } s
    toEngine 13 8 (forEach rec_.blocks (takeBlock role rec_.source rec_.timeQuality)) s) s

/-- `VERDICT_NOTICE_PLAZA`: a Quarter replica passes the Forum's notice down; a Plaza applies one to the results it holds
(R278). -/
def execVerdictNoticePlaza (n : VerdictNotice) (s : State) : Host.Outcome State Fault Refusal :=
  run (when s.fuse.plaza fun s =>
    let s := arcIngest 1 (mkEntry n.source 192 (.verdict n) s) s
    let s := match findRole .quarter s with
      | some r => when (sourceKind n.source == 3) (spreadVerdict r n) s
      | none => s
    when (findRole .plaza s).isSome (toEngine 13 8 (applyVerdict n)) s) s

/-- `RESULT_HOLD_EXPIRY`: 20 ms after the tally closed (R278). -/
def execResultHoldExpiry (job coll inst : Nat) (s : State) : Host.Outcome State Fault Refusal :=
  run (fun s =>
    let isIt (h : HeldResults) : Bool := h.job == job && h.coll == coll && h.inst == inst
    match s.dig.heldResults.find? isIt with
    | none => s
    | some h => onDig (fun d => { d with heldResults := d.heldResults.filter fun x => !isIt x }) (untilTimer h.ends s)) s

end Sys2Proof.Machine
end

