-- ==== Sys2Proof/Machine/PowerCmd.lean ====
section
/-!
DEFINITION. Commands of group 0x0D and the events of engine resets, domains and Parked (R431 to R436, R444).
-/

namespace Sys2Proof.Machine

/-! ## Group 0x0D -/

/-- `PWR_PARK` (0x0D01): the block parks at the next boundary (R434). -/
def execPwrPark (r : Req) (s : State) : Host.Outcome State Fault Refusal :=
  run (serve { code := 0x0D01, allow := { s := true } } r true fun s =>
    done [] (onPwr (fun p => { p with parkPending := true }) s)) s

/-- The domain is being reset or switched. -/
def domainBusy (d : Nat) (s : State) : Bool :=
  s.pwr.quiescing.any (fun q => q.1 == d) || s.pwr.releasing.any (fun x => x.1 == d) || s.pwr.settling.any (fun x => x.1 == d)
    || s.pwr.moving.any fun m => 14 + m.1 == d

/-- A switch begins: an engine quiesces before it is switched off, the regions of a bank group move once their writers have
quiesced, and a domain that comes on settles (R17, R433). -/
def beginSwitch (d : Nat) (on : Bool) (s : State) : State :=
  if !on && d < 13 then startQuiesce d .off 200000 s
  else if !on then startMove (d - 14) true s
  else onPwr (fun p => { p with settling := p.settling ++ [(d, on)] }) s

/-- `PWR_DOMAIN_SET` (0x0D02) (R1, R14, R431, R433). -/
def execPwrDomainSet (r : Req) (domain state : Nat) (s : State) : Host.Outcome State Fault Refusal :=
  run (serve { code := 0x0D02, allow := {} } r (domain ≤ 29 && state ≤ 1) fun s =>
    let on := state == 1
    if neverPowered domain s then deny Config.unsupported s
    else if domain ≤ 1 ∨ domain = 13 then deny Config.wrongState s
    else if on && 14 ≤ domain && s.pwr.culDeSac.contains (2, domain - 14) then
      deny Config.wrongState s
    else if domainBusy domain s then deny Config.busy s
    else if s.pwr.on.getLsbD domain == on then
      (s, { status := Config.accepted, work := some (.domainSet domain on),
            after := complete (.domainSet domain on) Config.ok [] })
    else later (.domainSet domain on) (beginSwitch domain on s)) s

/-- `ENGINE_RESET` (0x0D03) (R1, R14, R444). -/
def execEngineReset (r : Req) (domain timeoutUs : Nat) (s : State) : Host.Outcome State Fault Refusal :=
  run (serve { code := 0x0D03, allow := {} } r (2 ≤ domain && domain ≤ 12) fun s =>
    if neverPowered domain s then deny Config.unsupported s
    else if !s.pwr.on.getLsbD domain then deny Config.wrongState s
    else if s.pwr.settling.any (fun x => x.1 == domain) || s.pwr.quiescing.any (fun q => q.1 == domain && q.2.1 == .off) then
      deny Config.busy s
    else
      let t := (if timeoutUs = 0 then 200 else timeoutUs) * 1000
      later (.engineReset domain)
        (startQuiesce domain .reset t (onHrw (fun h => { h with engRst := putBit h.engRst domain true }) s))) s

/-- `RESET_REQUEST` (0x0D04): the software source falls due 10 µs after the response (R442). -/
def execResetRequest (r : Req) (confirm : Nat) (s : State) : Host.Outcome State Fault Refusal :=
  run (serve { code := 0x0D04, allow := {} } r (confirm == 0x0000A5A5) fun s =>
    done [] (onRst (fun x => { x with softwareDue := some (s.time.timer + 10000) }) s)) s

/-- The response of `PWR_STATUS`. -/
def pwrStatusPayload (s : State) : List Fld :=
  [f32 0 (s.pwr.on &&& 0x3FFFFFFF).toNat, f8 4 s.rst.last]
    ++ (List.range 8).map (fun i => f16 (8 + 2 * i) (tget 0 i s.rst.counts)) ++ [f32 0x18 s.rst.parks]

/-- `PWR_STATUS` (0x0D05) (R439). -/
def execPwrStatus (r : Req) (s : State) : Host.Outcome State Fault Refusal :=
  run (serve { code := 0x0D05, allow := { s := true } } r true fun s => done (pwrStatusPayload s) s) s

/-! ## Engine resets and domains (R433, R444) -/

/-- `QUIESCE_ACK`: the engine has finished its handshake and released its resources. -/
def execQuiesceAck (domain : Nat) (s : State) : Host.Outcome State Fault Refusal :=
  run (fun s =>
    match s.pwr.quiescing.find? fun q => q.1 == domain with
    | none => s
    | some q => proceed domain q.2.1 true (onHrw (fun h => { h with engQto := putBit h.engQto domain false }) s)) s

/-- `QUIESCE_TIMEOUT`: no acknowledgement by T; the station is isolated, the dump of trigger 0x07 comes first, and the
reset or the switch-off goes on (R17, R433, R444, R452, R453). -/
def execQuiesceTimeout (domain : Nat) (s : State) : Host.Outcome State Fault Refusal :=
  run (fun s =>
    match s.pwr.quiescing.find? fun q => q.1 == domain with
    | none => s
    | some q =>
      if s.dump.awaiting.contains (true, domain) then s
      else
        let s := untilTimer q.2.2 s
        let s := onHrw (fun h => { h with engQto := putBit h.engQto domain true }) s
        let s := onPwr (fun p => { p with isolated := addOnce domain p.isolated }) s
        dumpThen 7 true domain (proceed domain q.2.1 false) (raise 0x0D03 (engineKey s.die domain) 0 s)) s

/-- `ENGINE_RELEASE`. -/
def execEngineRelease (domain : Nat) (s : State) : Host.Outcome State Fault Refusal :=
  run (fun s =>
    match s.pwr.releasing.find? fun x => x.1 == domain with
    | none => s
    | some x => releaseEngine domain x.2 s) s

/-- `DOMAIN_SETTLE`. -/
def execDomainSettle (domain : Nat) (s : State) : Host.Outcome State Fault Refusal :=
  run (fun s =>
    match s.pwr.settling.find? fun x => x.1 == domain with
    | none => s
    | some x => settleDomain domain x.2 s) s

/-! ## Parked (R434 to R436, R447) -/

/-- What ends as the block parks: open trace blocks are flushed, a test is aborted, queries are cancelled, Deferred commands
are answered `ABORTED` (R434). -/
def parkWork (s : State) : State :=
  let s := stopQueries 16 true (abortRun (flushTrace s))
  let isQuery (w : Work) : Bool := match w with
    | .query _ => true
    | _ => false
  let s := completeWhere (fun w => !isQuery w) Config.aborted [] s
  onUpl (fun u => { u with gate := none }) s

/-- The block is parked; a wake that came during entry begins at once. -/
def becomeParked (s : State) : State :=
  let again := s.pwr.wakeAfterEntry
  let s := when s.fuse.plaza (emit (.selfRefresh true)) (parkWork s)
  let s := onPwr (fun p => { p with parked := true, parking := none, wakeAfterEntry := false }) s
  let s := onRst (fun r => { r with parks := r.parks + 1 }) s
  when again wakeRequest s

/-- With Ledger records that no gate has sent, entry waits until 2 ms after its boundary (R434). -/
def parkWait (s : State) : State :=
  match s.pwr.parking with
  | none => s
  | some b => when (!(queueOf 1 s).isEmpty) (untilFt (b + 2000000)) s

/-- `PARK_ENTRY_COMPLETE`: the snapshot is complete and no gate is open; with the Ledger queue sent, or 2 ms after the
boundary, the block parks; it waits for an engine that is being reset (R434, R447). -/
def execParkEntryComplete (s : State) : Host.Outcome State Fault Refusal :=
  run (fun s =>
    when (s.pwr.parking.isSome && !s.grid.snapshotDue && s.upl.gate.isNone && s.pwr.quiescing.isEmpty && s.pwr.releasing.isEmpty)
      (fun s => becomeParked (parkWait s)) s) s

/-- `WAKE`: a rising edge on `WAKE` (R436). -/
def execWake (s : State) : Host.Outcome State Fault Refusal := run wakeRequest s

/-- The block runs again: the Steward resumes, and counting or collection opens in the current frame, flagged partial. -/
def becomeAwake (s : State) : State :=
  let s := onPwr (fun p => { p with
    parked := false, waking := none, wakeReq := if s.fuse.plaza then p.wakeReq else p.wakeReq &&& 0xFFFF0000 }) s
  let s := onStw (fun t => { t with lastService := s.time.osc }) s
  let s := duePeriod s.time.ft (raiseInt 8 s)
  deliverAuto (when (gridMayRun s) (openFrame s.time.ft true) s)

/-- `WAKE_COMPLETE`: the last step of the wake sequence (R52, R436). -/
def execWakeComplete (s : State) : Host.Outcome State Fault Refusal :=
  run (fun s => when (s.pwr.parked && s.pwr.waking.isSome && s.rst.coreOk) becomeAwake s) s

/-- `PWR_OK_CORE_FALL_PARKED`: no reset; a later wake waits for the rise (R435, R436). -/
def execPwrOkCoreFallParked (s : State) : Host.Outcome State Fault Refusal :=
  run (fun s => when s.pwr.parked (onRst fun r => { r with coreOk := false }) s) s

end Sys2Proof.Machine
end

