-- ==== Sys2Proof/Machine/ResetCmd.lean ====
section
/-!
DEFINITION. Power-on, power loss and the events that raise, hold or release a reset (R380, R430, R438 to R443).
-/

namespace Sys2Proof.Machine

/-! ## Supplies -/

/-- `POWER_ON`: a rise of `PWR_OK_AON`, whatever stood before it (R6, R297, R383, R422 to R424, R438, R440). -/
def execPowerOn (fuse : FuseMap) (straps : Nat) (s : State) : Host.Outcome State Fault Refusal :=
  .next (hotJoin (poweredOn fuse straps (if s.rst.aonOk then losePower s else s)))

/-- `POWER_LOSS`: a fall of `PWR_OK_AON` ends the powered epoch (R51). -/
def execPowerLoss (s : State) : Host.Outcome State Fault Refusal := run losePower s

/-- `PWR_OK_CORE_RISE`: bring-up goes on, 50 µs after `PWR_OK_AON` at the earliest; a brown-out's reset may be released; a
wake that waits begins (R436, R438, R442). -/
def execPwrOkCoreRise (s : State) : Host.Outcome State Fault Refusal :=
  run (fun s =>
    if s.rst.coreOk then s
    else
      let s := onRst (fun r => { r with coreOk := true }) s
      if !s.pwr.on.getLsbD 1 then runRom (untilOsc 50000 s)
      else when (s.pwr.parked && s.pwr.wakeAsked && s.pwr.waking.isNone) beginWake s) s

/-- `BROWN_OUT`: a fall of `PWR_OK_CORE` outside Parked, applied at once (R439, R442, R443). -/
def execBrownOut (s : State) : Host.Outcome State Fault Refusal :=
  run (fun s => when (s.rst.coreOk && !s.pwr.parked) (raiseSource srcBrownOut) s) s

/-- `BOOT_IMAGE_RUN`: the boot ROM, in a block without an image, checks one and runs it if it passes (R378 to R380). -/
def execBootImageRun (image : FwImage) (s : State) : Host.Outcome State Fault Refusal :=
  run (fun s =>
    if !s.pwr.on.getLsbD 1 || !s.rst.coreOk || s.rst.active || s.stw.running.isSome || (imageReject image s).isSome then s
    else firstRole (runImage image s)) s

/-! ## Sources -/

/-- `PIN_RESET`: `RST_N` low; after 50 ns it is a source (R442). -/
def execPinReset (lowNs : Nat) (s : State) : Host.Outcome State Fault Refusal :=
  run (fun s =>
    when (50 ≤ lowNs) (fun s => raiseSource srcPin (onRst (fun r => { r with pinLow := true }) (passNs 50 s))) s) s

/-- `PIN_RESET_RELEASE`: the rise of `RST_N`. -/
def execPinResetRelease (s : State) : Host.Outcome State Fault Refusal :=
  run (onRst fun r => { r with pinLow := false }) s

/-- The watchdog counts: the Steward serves and the block is neither Parked nor in reset (R435, R439). -/
def watchdogRuns (s : State) : Bool := s.stw.serving && !s.pwr.parked && !s.rst.active

/-- `WATCHDOG_TIMEOUT`: 100 ms of the supervisory oscillator without a service (R439). -/
def execWatchdogTimeout (s : State) : Host.Outcome State Fault Refusal :=
  run (fun s => when (watchdogRuns s) (fun s => raiseSource srcWatchdog (untilOsc (s.stw.lastService + 100000000) s)) s) s

/-- `WATCHDOG_PREWARNING`: 50 ms without a service (R452). -/
def execWatchdogPrewarning (s : State) : Host.Outcome State Fault Refusal :=
  run (fun s => when (watchdogRuns s) (fun s => autoDump 4 (untilOsc (s.stw.lastService + 50000000) s)) s) s

/-- `SOFTWARE_RESET`: 10 µs after the response to `RESET_REQUEST` (R442). -/
def execSoftwareReset (s : State) : Host.Outcome State Fault Refusal :=
  run (fun s =>
    match s.rst.softwareDue with
    | none => s
    | some t => raiseSource srcSoftware (onRst (fun r => { r with softwareDue := none }) (untilTimer t s))) s

/-- `LOCKUP`: the dump of trigger 0x05 comes first (R439, R452, R453). -/
def execLockup (s : State) : Host.Outcome State Fault Refusal :=
  run (fun s => when (watchdogRuns s) (dumpThen 5 false srcLockup (raiseSource srcLockup)) s) s

/-- A native group's wake request stands (R421). -/
def clockAwaited (g : Nat) (s : State) : Bool := nativeGroup g s && s.pwr.wakeReq.getLsbD g && !s.rst.active

/-- `CLOCK_FAILURE`: a wake request has stood for 1 ms; the group goes under the Drava rules, and the dump of trigger 0x06
comes before the source (R421, R441, R452, R453). -/
def execClockFailure (group : Nat) (s : State) : Host.Outcome State Fault Refusal :=
  run (fun s =>
    when (group < 32 && clockAwaited group s)
      (fun s => dumpThen 6 false srcClock (raiseSource srcClock)
        (onPwr (fun p => { p with dravaForced := putBit p.dravaForced group true, xingWait := putBit p.xingWait group true }) s)) s) s

/-! ## Holding and release -/

/-- `NVLOG_WRITE_COMPLETE`: the pulse ends with its record committed, and the sources held behind it are applied (R298, R300,
R443). -/
def execNvlogWriteComplete (s : State) : Host.Outcome State Fault Refusal :=
  run (fun s => when s.nv.pulse (fun s => releaseHeld (endPulse s)) s) s

/-- `SAMPLER_RELEASE`: the engines and the Sampler are released (R442). -/
def execSamplerRelease (s : State) : Host.Outcome State Fault Refusal := run (fun s => when (mayRelease s) releaseBlock s) s

/-! ## Hangs and dumps (R449 to R460) -/

/-- `HANG_DECLARED`: a counted wait has reached 50 ms (R451, R452). -/
def execHangDeclared (domain _object : Nat) (s : State) : Host.Outcome State Fault Refusal :=
  run (fun s => when (!s.pwr.parked) (fun s => raise 0x0E01 (engineKey s.die domain) 0 (autoDump 3 s)) s) s

/-- `DUMP_CAPTURE`: one capture for the requests that are due, and what waited for it (R453 to R455, R465). -/
def execDumpCapture (trigger : Nat) (entries : List DumpEntry) (s : State) : Host.Outcome State Fault Refusal :=
  run (fun s =>
    let s' := captureDump trigger entries s
    if s'.dump.pending.length < s.dump.pending.length then afterCapture s' else s') s

end Sys2Proof.Machine
end

