-- ==== Sys2Proof/Machine/Session.lean ====
section
/-!
DEFINITION. Commands of group 0x01, sessions (R367 to R371, R386), but for `PARTITION_RELEASE`, and the Steward's own
events: session idle time-outs, notices, response rings, relays.
-/

namespace Sys2Proof.Machine

/-- `OFLAGS` of the open response (R367). -/
def openFlags (s : State) : Nat :=
  bnat s.exhausted + 2 * bnat s.stw.trialEnd.isSome + 4 * bnat (capacityReduced s)

/-- The open response (R367). -/
def openPayload (session p : Nat) (s : State) : List Fld :=
  [f16 0 Config.blockLevel, f16 2 ((s.stw.running.map (·.fwLevel)).getD 0), f32 4 s.epoch, f32 8 s.die,
   f8 0xC (bnat s.fuse.plaza), f8 0xD (openFlags s), f16 0xE session, f64 0x10 (ftStamp s),
   f32 0x18 (tget 0 p s.stw.dbDrops), f16 0x1C (freeSlots s), f16 0x1E (tget 1 p s.stw.quotas)]

/-- A tenant's open: the lowest free slot, its generation advanced (R367). -/
def openTenant (p ring ringN vector : Nat) (s : State) : State × Reply :=
  if ring % 64 ≠ 0 ∨ inWindows p ring (64 + 128 * ringN) s = false then deny Config.bufferFault s else
  match lowestFree s with
  | none => deny Config.busy s
  | some k =>
    let g := ((tget Slot.unused k s.stw.slots).generation + 1) % 1024
    let sl : Slot := { isOpen := true, partition := p, generation := g, ring := ring, ringN := ringN, vector := vector,
                       prod := 0, cons := 0, held := [], lastUse := s.time.timer }
    let s := onStw (fun t => { t with slots := tput Slot.unused k sl t.slots }) s
    (s, { status := Config.ok, payload := openPayload (handleOf k g) p s, who := some (.tenant p k g) })

/-- The own part of `SESSION_OPEN` (R367). -/
def sessionOpen (r : Req) (ring ringN vector : Nat) (noticeEn : Bool) (s : State) : State × Reply :=
  match r.issuer with
  | .pm n =>
    let s := closePm n none s
    let s := onStw (fun t => { t with
      pmOpen := t.pmOpen ++ [n], pmNotice := if noticeEn then t.pmNotice ++ [n] else t.pmNotice }) s
    done (openPayload 0 0 s) s
  | .sideband =>
    let s := closeSbi none s
    let s := onStw (fun t => { t with sbiOpen := true }) s
    done (openPayload 0 0 s) s
  | .tenant p _ _ => openTenant p ring ringN vector s
  | _ => deny Config.isolation s

/-- `SESSION_OPEN` (0x0101): opens the mailbox's session, or allocates a tenant slot; a tenant is answered in the ring it
has just named. -/
def execSessionOpen (r : Req) (ring ringN vector : Nat) (noticeEn : Bool) (s : State) :
    Host.Outcome State Fault Refusal :=
  run (serve { code := 0x0101, allow := { s := true, t := true } } r
    (!isTenant r.issuer || (16 ≤ ringN && ringN ≤ 4096)) (sessionOpen r ring ringN vector noticeEn)) s

/-- The issuing session closes. -/
def closeIssuer (i : Issuer) (s : State) : State :=
  match i with
  | .pm n => closePm n none s
  | .sideband => closeSbi none s
  | .tenant _ k _ => closeSlot k none s
  | _ => s

/-- `SESSION_CLOSE` (0x0102): answered `OK`, then the issuing session closes (R386). -/
def execSessionClose (r : Req) (s : State) : Host.Outcome State Fault Refusal :=
  run (serve { code := 0x0102, allow := { s := true, t := true } } r true fun s =>
    (s, { status := Config.ok, after := closeIssuer r.issuer })) s

/-- `SESSION_INFO` (0x0103). -/
def execSessionInfo (r : Req) (partition : Nat) (s : State) : Host.Outcome State Fault Refusal :=
  run (serve { code := 0x0103, allow := { s := true, t := true } } r true fun s =>
    let t := isTenant r.issuer
    let p := if t then issuerPart r.issuer else partition
    if p > 512 then deny Config.notFound s
    else
      done [f16 0 (openCount p s), f16 2 (tget 1 p s.stw.quotas), f32 4 (tget 0 p s.stw.dbDrops),
            f32 8 (if t then 0 else tget 0 p s.stw.isolation), f16 0xC (freeSlots s), f16 0xE s.stw.idleS] s) s

/-- `SESSION_QUOTA_SET` (0x0104): open sessions stay open. -/
def execSessionQuotaSet (r : Req) (partition quota : Nat) (s : State) : Host.Outcome State Fault Refusal :=
  run (serve { code := 0x0104, allow := {}, relayable := true } r
      (1 ≤ partition && partition ≤ 512 && quota ≤ 8) fun s =>
    done [] (onStw (fun t => { t with quotas := tput 1 partition quota t.quotas }) s)) s

/-- `SESSION_IDLE_SET` (0x0105). -/
def execSessionIdleSet (r : Req) (idleS : Nat) (s : State) : Host.Outcome State Fault Refusal :=
  run (serve { code := 0x0105, allow := {} } r (1 ≤ idleS && idleS ≤ 3600) fun s =>
    done [] (onStw (fun t => { t with idleS := idleS }) s)) s

/-- Every accepted descriptor of a partition lies inside its windows. -/
def chainsInside (p : Nat) (s : State) : Bool :=
  s.buf.chains.all fun c => c.2.partition != p ||
    (c.2.cur.toList ++ c.2.queue).all fun d => inWindows p d.addr d.len s

/-- `SESSION_WINDOW_SET` (0x0106): registers or removes one window (R371). -/
def execSessionWindowSet (r : Req) (partition window base len : Nat) (s : State) : Host.Outcome State Fault Refusal :=
  run (serve { code := 0x0106, allow := {} } r
      (partition ≤ 512 && window ≤ 3 && base % 4096 == 0 && len % 4096 == 0) fun s =>
    let s' := onStw (fun t => { t with
      windows := tput (0, 0) (4 * partition + window) (if len = 0 then (0, 0) else (base, len)) t.windows }) s
    if chainsInside partition s' then done [] s' else deny Config.busy s) s

/-! ## Events of the Steward's own -/

/-- `SESSION_IDLE_TIMEOUT`: a tenant slot unused for the idle limit closes, reason idle (R368, R478). -/
def execSessionIdleTimeout (slot : Nat) (s : State) : Host.Outcome State Fault Refusal :=
  run (fun s =>
    let sl := tget Slot.unused slot s.stw.slots
    when (sl.isOpen && stewardUp s)
      (fun s => closeSlot slot (some 0) (untilTimer (sl.lastUse + s.stw.idleS * 1000000000) s)) s) s

/-- The notice message of a pending notice, with its merged count where the payload has a place for it (R366, R396). -/
def noticeMsg (n : Notice) : Msg :=
  { cmd := n.cmd, tag := 0, status := 0, final := false, notice := true, session := 0, bytes := [],
    payload := n.payload ++ (match n.cmd with
      | 0x03F0 => [f32 4 n.merged]
      | 0x07F0 => [f32 0x18 n.merged]
      | 0x0EF0 => [f32 0x40 n.merged]
      | _ => []) }

/-- Recipients of a notice for a partition (R366). -/
def recipients (p : Nat) (s : State) : List Issuer :=
  if p = 0 then
    (s.stw.pmNotice.map Issuer.pm) ++ (if s.stw.sbiOpen then [Issuer.sideband] else [])
  else
    (s.stw.slots.filter fun x => x.2.isOpen && x.2.partition == p).map fun x => Issuer.tenant p x.1 x.2.generation

/-- A notice may go: one of a comparator waits while the Sampler is held in reset (R95). -/
def noticeFree (subject : NoticeSubject) (s : State) : Bool :=
  match subject with
  | .watermark _ => s.fuse.plaza || (engineUp 2 s && !s.smp.quiesced)
  | _ => true

/-- `NOTICE_DELIVER`: a pending notice goes to every recipient once one is open (R366). -/
def execNoticeDeliver (subject : NoticeSubject) (s : State) : Host.Outcome State Fault Refusal :=
  run (fun s =>
    match s.stw.notices.find? fun n => n.subject == subject with
    | none => s
    | some n =>
      let to_ := recipients n.partition s
      if !stewardUp s || !noticeFree subject s || to_.isEmpty then s
      else
        forEach to_ (fun i => postTo i (noticeMsg n))
          (onStw (fun t => { t with notices := t.notices.filter (· != n) }) s)) s

/-- Held responses enter the ring while it has room. -/
def refillRing (k : Nat) (ms : List Msg) (s : State) : State :=
  match ms with
  | [] => onStw (fun t => { t with slots := tmod Slot.unused k (fun sl => { sl with held := [] }) t.slots }) s
  | m :: rest =>
    let sl := tget Slot.unused k s.stw.slots
    if ringFill sl < sl.ringN then refillRing k rest (ringWrite k m s)
    else onStw (fun t => { t with slots := tmod Slot.unused k (fun sl => { sl with held := m :: rest }) t.slots }) s

/-- `RESPONSE_RING_RESUME`: the Steward reads `CONS` again and writes what it held (R368, R369). -/
def execResponseRingResume (slot cons : Nat) (s : State) : Host.Outcome State Fault Refusal :=
  run (fun s =>
    let sl := tget Slot.unused slot s.stw.slots
    when (sl.isOpen && stewardUp s)
      (fun s => refillRing slot sl.held
        (onStw (fun t => { t with slots := tmod Slot.unused slot (fun sl => { sl with cons := cons }) t.slots }) s)) s) s

/-- `RELAYED_COMMAND`: the first copy opens an entry of the reply table and is forwarded with its attachment to the children
in scope; a copy from another parent is answered from the table (R374, R375, R393).  The block's own part is the command row with issuer
`.relay`. -/
def execRelayedCommand (cls partition tag cmd : Nat) (scope : Scope) (parent : Nat) (attachment : List Byte) (s : State) :
    Host.Outcome State Fault Refusal :=
  run (when (stewardUp s) fun s =>
    match s.stw.replies.find? fun e => e.cls == cls && e.partition == partition && e.tag == tag && e.cmd == cmd with
    | none =>
      let s := onStw (fun t => { t with lastService := s.time.osc }) s
      relayOpen cls partition tag cmd scope none [parent] (selfInScope scope s) false none attachment s
    | some e =>
      if e.done then
        let t := relayTallies e s
        sendMsg parent (.relayDone parent tag cmd t.ok t.fail t.none t.first t.first8) s
      else relayUpdate (fun x => x == e) (fun x => { x with askers := addOnce parent x.askers }) s) s

/-- `RELAY_COMPLETION`: a child's completion is combined; a late one is discarded and counted (R375). -/
def execRelayCompletion (tag cmd child nOk nFail nNoReply firstStatus : Nat) (first8 : List Nat) (s : State) :
    Host.Outcome State Fault Refusal :=
  run (fun s =>
    let waits := fun (e : ReplyEntry) => e.tag == tag && e.cmd == cmd && e.waiting.contains child
    if s.stw.replies.any fun e => waits e && !e.done then
      relayUpdate waits (fun e => { e with
        waiting := e.waiting.filter (· != child),
        answers := addAnswer { child := child, nOk := nOk, nFail := nFail, nNoReply := nNoReply,
                               firstStatus := firstStatus, first8 := first8 } e.answers }) s
    else onStw (fun t => { t with lateCompletions := t.lateCompletions + 1 }) s) s

/-- `RELAY_TIMEOUT`: the wait ends and silent children count as `NO_REPLY` (R375). -/
def execRelayTimeout (tag cmd : Nat) (s : State) : Host.Outcome State Fault Refusal :=
  run (fun s =>
    match s.stw.replies.find? fun e => e.tag == tag && e.cmd == cmd && !e.done && !e.waiting.isEmpty with
    | none => s
    | some e =>
      relayUpdate (fun x => x == e) (fun x => { x with silent := silentOf x, waiting := [] })
        (untilTimer e.deadline s)) s

end Sys2Proof.Machine
end

