-- ==== Sys2Proof/Machine/SidebandCmd.lean ====
section
/-!
DEFINITION. The I3C sideband: private transfers and common command codes (R383 to R385, R408).
-/

namespace Sys2Proof.Machine

/-- `SBI_REQUEST`: a 128-byte request is delivered to the Steward; it wakes a Parked block (R384, R408, R436). -/
def execSbiRequest (bytes : List Byte) (s : State) : Host.Outcome State Fault Refusal :=
  run (fun s => wakeRequest (onSbi (fun b => { b with requests := b.requests ++ [bytes] }) s)) s

/-- `SBI_SELECT_RESPONSE`: the next read takes the response queue (R384). -/
def execSbiSelectResponse (s : State) : Host.Outcome State Fault Refusal :=
  run (onSbi fun b => { b with alertSelected := false }) s

/-- `SBI_SELECT_ALERT`: the next read takes the alert queue (R384). -/
def execSbiSelectAlert (s : State) : Host.Outcome State Fault Refusal :=
  run (onSbi fun b => { b with alertSelected := true }) s

/-- `SBI_BOOT_SEGMENT`: a segment of a boot image reaches the ROM, which takes one only while it awaits an image (R380,
R384). -/
def execSbiBootSegment (segment : List Byte) (s : State) : Host.Outcome State Fault Refusal :=
  run (fun s => when s.stw.running.isNone (onSbi fun b => { b with bootBytes := b.bootBytes ++ segment }) s) s

/-- The oldest entry of the selected queue leaves; an empty queue gives 0xFF bytes (R384). -/
def sbiTake (s : State) : State :=
  if s.sbi.alertSelected then
    match s.sbi.alerts with
    | [] => emit (.sbiData none none) s
    | r :: rest => emit (.sbiData none (some r)) (onSbi (fun b => { b with alerts := rest }) s)
  else
    match s.sbi.responses with
    | [] => emit (.sbiData none none) s
    | m :: rest => emit (.sbiData (some m) none) (onSbi (fun b => { b with responses := rest }) s)

/-- `SBI_READ` (R384). -/
def execSbiRead (s : State) : Host.Outcome State Fault Refusal := run sbiTake s

/-- `ENTDAA`: the target without an address takes one (R383). -/
def execEntdaa (addr : Nat) (s : State) : Host.Outcome State Fault Refusal :=
  run (fun s => exhaustIbi (when s.sbi.addr.isNone (onSbi fun b => { b with addr := some (addr % 128) }) s)) s

/-- `SETDASA`: the target without a dynamic address takes one, addressed by the fuse map's static address (R383). -/
def execSetdasa (addr : Nat) (s : State) : Host.Outcome State Fault Refusal :=
  run (fun s => exhaustIbi (when s.sbi.addr.isNone (onSbi fun b => { b with addr := some (addr % 128) }) s)) s

/-- `RSTDAA`: the dynamic address is given up (R383). -/
def execRstdaa (s : State) : Host.Outcome State Fault Refusal :=
  run (onSbi fun b => { b with addr := none }) s

/-- `ENEC`: target events are enabled (R383; the bits are the family's: PRESUMED, assumption 7). -/
def execEnec (events : BitVec 8) (s : State) : Host.Outcome State Fault Refusal :=
  run (fun s => exhaustIbi (onSbi (fun b => { b with events := b.events ||| events }) s)) s

/-- `DISEC`: target events are disabled (R383). -/
def execDisec (events : BitVec 8) (s : State) : Host.Outcome State Fault Refusal :=
  run (onSbi fun b => { b with events := b.events &&& ~~~events }) s

/-- `GETPID`: the provisional ID of the fuse map (R383, R423). -/
def execGetpid (s : State) : Host.Outcome State Fault Refusal := run (fun s => emit (.i3cData s.fuse.i3cPid) s) s

/-- `GETBCR`: the manual gives no value (R383). -/
def execGetbcr (s : State) : Host.Outcome State Fault Refusal := run (emit (.i3cData Config.bcr)) s

/-- `GETDCR`: the manual gives no value (R383). -/
def execGetdcr (s : State) : Host.Outcome State Fault Refusal := run (emit (.i3cData Config.dcr)) s

/-- `GETSTATUS`: the manual gives no content (R383). -/
def execGetstatus (s : State) : Host.Outcome State Fault Refusal :=
  run (fun s => emit (.i3cData (Config.getStatus s.free)) { s with free := s.free + 1 }) s

/-- `GETMWL`: 129 (R383). -/
def execGetmwl (s : State) : Host.Outcome State Fault Refusal := run (emit (.i3cData 129)) s

/-- `GETMRL`: 128 (R383). -/
def execGetmrl (s : State) : Host.Outcome State Fault Refusal := run (emit (.i3cData 128)) s

end Sys2Proof.Machine
end

