-- ==== Sys2Proof/Machine/TimeCmd.lean ====
section
/-!
DEFINITION. Commands of group 0x02, time and frames (R30, R44, R52).
-/

namespace Sys2Proof.Machine

/-- The response of `TIME_STATUS` (0x0201). -/
def timeStatusPayload (s : State) : List Fld :=
  [f8 0 (tfCode s.time.state), f8 1 (qualityMode s), f32 4 s.epoch, f64 8 (ftStamp s), f64 0x10 (currentFrame s),
   f32 0x18 s.grid.period, f32 0x1C ((s.grid.pending.map (·.1)).getD 0), f64 0x20 ((s.grid.pending.map (·.2)).getD 0),
   f32 0x28 s.time.crcDiscards, f32 0x2C s.time.mismatches, f64 0x30 s.time.nsOutside]

/-- `TIME_STATUS` (0x0201). -/
def execTimeStatus (r : Req) (s : State) : Host.Outcome State Fault Refusal :=
  run (serve { code := 0x0201, allow := { s := true, t := true } } r true fun s => done (timeStatusPayload s) s) s

/-- The time front in a new mode starts again from Unlocked and keeps the highest count it has held (R28, R30). -/
def restartFront (mode : Nat) (t : TimeFront) : TimeFront :=
  { t with state := .unlocked, mode := mode, hold := 0, slew := 0, mismatchRun := 0, candidate := none, since := t.osc }

/-- The frame grid is stopped: ft is not valid, or a halt has taken effect (R30, R31, 0x0204). -/
def gridStopped (s : State) : Bool := !timeValid s || (s.grid.halted && s.grid.frame.isNone)

/-- `TIME_SET_MODE` (0x0202): only while the grid is stopped (R30). -/
def execTimeSetMode (r : Req) (mode : Nat) (s : State) : Host.Outcome State Fault Refusal :=
  run (serve { code := 0x0202, allow := {} } r (mode == 1 || mode == 2) fun s =>
    if !gridStopped s then deny Config.wrongState s
    else
      let s' := onTime (restartFront mode) s
      done [] (when (s.time.state != .unlocked) (raiseInt 4) s')) s

/-- `FRAME_SET_PERIOD` (0x0203): E is a multiple of both periods and at least 10 ms ahead; it replaces a pending change
(R44). -/
def execFrameSetPeriod (r : Req) (periodUs e : Nat) (s : State) : Host.Outcome State Fault Refusal :=
  run (serve { code := 0x0203, allow := {}, relayable := true } r (50 ≤ periodUs && periodUs ≤ 1000000) fun s =>
    if e % (s.grid.period * 1000) ≠ 0 ∨ e % (periodUs * 1000) ≠ 0 then deny Config.badParam s
    else if !leadOk r.issuer e 10000000 s then deny Config.tooSoon s
    else done [] (onGrid (fun g => { g with pending := some (periodUs, e), next := none }) s)) s

/-- `FRAME_HALT` (0x0204): a halt takes effect at the next boundary, a resume opens the grid at the next boundary. -/
def execFrameHalt (r : Req) (halt : Nat) (s : State) : Host.Outcome State Fault Refusal :=
  run (serve { code := 0x0204, allow := {}, relayable := true } r (halt ≤ 1) fun s =>
    let s' := onGrid (fun g =>
      if halt = 1 then (if g.frame.isSome then { g with haltPending := true } else { g with halted := true })
      else { g with haltPending := false, halted := false }) s
    done (effectFrame s) s') s

end Sys2Proof.Machine
end

