-- ==== Sys2Proof/Machine/UplinkCmd.lean ====
section
/-!
DEFINITION. Commands of group 0x0C and the events of gates, packets and `BYP` (R329 to R355).
-/

namespace Sys2Proof.Machine

/-- `UPL_SHAPER_SET` (0x0C01): waits for the next refill; a later change of the class replaces it (R347, R390). -/
def execUplShaperSet (r : Req) (cls rate cap quantum : Nat) (s : State) : Host.Outcome State Fault Refusal :=
  run (serve { code := 0x0C01, allow := {}, relayable := true } r
    (1 ≤ cls && cls ≤ 4 && 4096 ≤ quantum && quantum ≤ 1048576)
    (engineServed 10 fun s =>
      done [] (onUpl (fun u => { u with
        pendingShapers := (u.pendingShapers.filter fun p => p.1 != cls) ++ [(cls, rate, cap, quantum, s.time.ft)] }) s))) s

/-- The margin leaves every gate of the active and pending calendars at least twice its Kerb (R338). -/
def marginFits (margin : Nat) (s : State) : Bool :=
  (match s.conf.active with
    | some c => gatesLongEnough margin c.image
    | none => true)
  && (match s.conf.pending with
    | some i => gatesLongEnough margin i
    | none => true)

/-- `UPL_STANDING_SET` (0x0C02): waits for the next refill. -/
def execUplStandingSet (r : Req) (gatePort gateRate gateSpace gateLen kerbMargin : Nat) (s : State) :
    Host.Outcome State Fault Refusal :=
  run (serve { code := 0x0C02, allow := {} } r
    (gatePort ≤ 11 && gateRate ≤ 10000 && (1 ≤ gateRate || gateLen == 0) && kerbMargin ≤ 1000)
    (engineServed 10 fun s =>
      if !marginFits kerbMargin s then deny Config.wrongState s
      else
        done [] (onUpl (fun u => { u with pendingStanding := some (gatePort, gateRate, gateSpace, gateLen, kerbMargin) }) s))) s

/-- `UPL_STATUS` (0x0C03): every account of a class (R348). -/
def execUplStatus (r : Req) (cls : Nat) (s : State) : Host.Outcome State Fault Refusal :=
  run (serve { code := 0x0C03, allow := { s := true } } r (1 ≤ cls && cls ≤ 4)
    (engineServed 10 fun s =>
      let c := classOf cls s
      done [f64 0 c.added, f64 8 c.charged, f64 0x10 c.lent, f64 0x18 c.forfeited, f64 0x20 c.quanta, f64 0x28 c.sent,
            f64 0x30 c.returned, f32 0x38 c.credit, f32 0x3C c.deficit, f8 0x40 c.f, f8 0x41 s.upl.u,
            f32 0x44 s.upl.strideChanges] s)) s

/-! ## Gates -/

/-- The next gate to open: the scheduled one, but not one that Lost has closed (R340). -/
def upcomingGate (s : State) : Option (Nat × Nat × Nat × Nat) :=
  match gateAt s.time.ft s with
  | none => none
  | some g => if g.1 < s.upl.noReopenUntil then gateAt (max s.time.ft s.upl.noReopenUntil) s else some g

/-- `GATE_OPEN`: by ft alone; the round begins at Ledger (R337, R339, R340, R345). -/
def execGateOpen (s : State) : Host.Outcome State Fault Refusal :=
  run (fun s =>
    if s.upl.gate.isSome || !timeValid s || !uplinkUp s then s
    else
      match upcomingGate s with
      | none => s
      | some (st, en, rate, port) =>
        let s := untilFt st s
        let g : Gate :=
          { start := max st s.time.ft, ends := en, rate := rate, port := port, cls := 1, visiting := false, kerbPassed := false }
        onUpl (fun u => { u with gate := some g }) s) s

/-- Transmission time of bytes at a gate's rate, ns. -/
def sendNs (bytes rate : Nat) : Nat := ceilDiv (10 * bytes) (max rate 1)

/-- `PACKET_INJECT`: the next packet of the gate starts, and leaves at the gate's rate (R341, R342, R345). -/
def execPacketInject (s : State) : Host.Outcome State Fault Refusal :=
  run (fun s =>
    match s.upl.gate with
    | none => s
    | some g =>
      if !mayInject g s then s
      else
        let (n, s') := nextPacket g.port s
        untilFt (s'.time.ft + sendNs n g.rate) s') s

/-- `KERB_REACHED`: no packet starts after the gate's end less the Kerb; a class mid-visit keeps its deficit (R341, R353). -/
def execKerbReached (s : State) : Host.Outcome State Fault Refusal :=
  run (fun s =>
    match s.upl.gate with
    | none => s
    | some g =>
      if !timeValid s then s
      else onGate (fun g => { g with kerbPassed := true, visiting := false }) (untilFt (lastStart g s + 1) s)) s

/-- `GATE_CLOSE`: the gate ends by ft (R337, R340). -/
def execGateClose (s : State) : Host.Outcome State Fault Refusal :=
  run (fun s =>
    match s.upl.gate with
    | none => s
    | some g =>
      if !timeValid s then s else onUpl (fun u => { u with gate := none }) (untilFt g.ends s)) s

/-! ## `BYP` (R336) -/

/-- A report or storm entry sent or received is kept in the Control log (R238). -/
def logAlert (a : AlertEntry) (produced : Bool) (s : State) : State :=
  let src := match a with
    | .report r => r.reporter
    | .storm e => e.source
  let data := match a with
    | .report r => ArcData.report r
    | .storm e => ArcData.storm e
  arcIngest 4 { mkEntry src 64 data s with produced := produced } s

/-- To whom a bypass message goes: a Leaf's parent, or the chip at position 1 of its list while it has none; the parent
replicas of the role that a chip's message names as its sender, or of its Plaza role (R150, R336, assumption 76). -/
def bypTo (a : AlertEntry) (s : State) : List Nat :=
  if !s.fuse.plaza then
    match s.place.parent with
    | some p => [p]
    | none => (positionOne s).toList
  else
    let src := match a with
      | .report r => r.reporter
      | .storm e => e.source
    match s.roles.find? fun r => roleSource r == src with
    | some r => parentsOf r s
    | none => match findRole .plaza s with
      | some r => parentsOf r s
      | none => []

/-- `BYP_SEND`: one message leaves, within the frame's limit (R336). -/
def execBypSend (s : State) : Host.Outcome State Fault Refusal :=
  run (fun s =>
    match s.upl.byp with
    | [] => s
    | a :: t =>
      if s.pwr.parked || s.rst.active || Config.bypLimit s.fuse.plaza ≤ s.upl.bypSent then s
      else logAlert a true (emit (.byp (bypTo a s) a) (onUpl (fun u => { u with byp := t, bypSent := u.bypSent + 1 }) s))) s

/-! ## `DNL` (R331, R334, R335, R349) -/

/-- Lost packets of a class and source, which the ledger carries too (R335). -/
def countLoss (cls src n : Nat) (s : State) : State :=
  let old := match s.upl.losses.find? fun l => l.1 == cls && l.2.1 == src with
    | some l => l.2.2
    | none => 0
  countOwn (16 + seqKey cls src) n
    (onUpl (fun u => { u with losses := (cls, src, old + n) :: u.losses.filter fun l => !(l.1 == cls && l.2.1 == src) }) s)

/-- The sequence of a packet against the one expected: what is skipped is lost (R335).  A new epoch of the sender starts at 0
(R331); of a sender not heard before nothing is expected (DEDUCED, assumption 152). -/
def checkSeq (p : Packet) (s : State) : State :=
  let key := seqKey p.cls (dstKey p)
  let src := srcKey p
  let want := match s.upl.rseq.find? fun l => l.1 == key && l.2.1 == src with
    | some l => if l.2.2.1 = p.epoch then l.2.2.2 else 0
    | none => p.cseq
  let s := when (want < p.cseq) (countLoss p.cls src (p.cseq - want)) s
  onUpl (fun u => { u with rseq := (key, src, p.epoch, p.cseq + 1) :: u.rseq.filter fun l => !(l.1 == key && l.2.1 == src) }) s

/-- A congestion mark on a Trace or Dump packet is counted for its source (R349). -/
def countMark (p : Packet) (s : State) : State :=
  if p.cls = 3 then onUpl (fun u => { u with marks := tmod (0, 0) (srcKey p) (fun m => (m.1 + 1, m.2)) u.marks }) s
  else if p.cls = 4 then onUpl (fun u => { u with marks := tmod (0, 0) (srcKey p) (fun m => (m.1, m.2 + 1)) u.marks }) s
  else s

/-- A nonzero echo is noted until the next refill (R349). -/
def takeEcho (p : Packet) (s : State) : State :=
  if !isDownward p then s
  else
    let s := when (p.echoTrace != 0) (onClass 3 fun c => { c with echoed := true }) s
    when (p.echoDump != 0) (onClass 4 fun c => { c with echoed := true }) s

/-- The blocks of a record under reassembly: they join, and a record whose blocks are all here leaves (R334). -/
def assemble (p : Packet) (s : State) : State :=
  if p.nBlk = 0 then s
  else
    let here (a : Nat × Nat × Nat × Nat × List Nat) : Bool := a.1 == p.cls && a.2.1 == srcKey p && a.2.2.1 == p.rseq
    let held := match s.upl.assembly.find? here with
      | some a => a.2.2.2.2
      | none => []
    let bs := (List.range p.nBlk).foldl (fun l k => insertAsc (p.blkFirst + k) l) held
    let rest := s.upl.assembly.filter fun a => !here a
    onUpl (fun u => { u with assembly :=
      if p.blkTotal ≤ bs.length then rest else rest ++ [(p.cls, srcKey p, p.rseq, p.blkTotal, bs)] }) s

/-- Blocks of the packet's record have not arrived. -/
def hasHoles (p : Packet) (s : State) : Bool :=
  s.upl.assembly.any fun a => a.1 == p.cls && a.2.1 == srcKey p && a.2.2.1 == p.rseq

/-- Trace and Dump blocks go to their logs as they arrive; the packet that ends a dump brings it, with the blocks that have come
(R238, R460, R465). -/
def keepRaw (p : Packet) (body : PacketBody) (s : State) : State :=
  if p.cls = 3 ∨ p.cls = 4 then
    let data := match body with
      | .dump d => ArcData.dump d
      | .blocks bytes => .raw p.rtag p.rseq bytes
      | .other => .raw p.rtag p.rseq []
    arcIngest (p.cls - 1) { mkEntry p.src (p.bytes - 48) data s with holes := hasHoles p s } s
  else s

/-- `DNL_PACKET`: the block takes every packet; one whose `HDR_CRC` fails, or that finds the receive staging full, is discarded
and counted (R331, R334, R335, R349, R153). -/
def execDnlPacket (p : Packet) (congested stagingFull : Bool) (body : PacketBody) (s : State) : Host.Outcome State Fault Refusal :=
  run (fun s =>
    if s.pwr.parked || s.rst.active then s
    else if p.hdrCrc != packetCrc p then countLoss p.cls (srcKey p) 1 (checkSeq p s)
    else
      let s := when congested (countMark p) s
      if stagingFull then
        raise 0x0C05 (uplinkKey s) 0 (onUpl (fun u => { u with discards := u.discards + 1 }) (countLoss p.cls (srcKey p) 1 (checkSeq p s)))
      else
        let s := heardFrom (srcKey p) s
        keepRaw p body (assemble p (takeEcho p (checkSeq p s)))) s

end Sys2Proof.Machine
end

