-- ==== Sys2Proof/Machine/Dispatch.lean ====
section
/-!
DEFINITION. One arm per command of spec/opcode_table.json: the direct call of that command's meaning.
-/

namespace Sys2Proof.Machine

/-- The effect of a command on everything but the queue. -/
def exec (i : Instr) (s : State) : Host.Outcome State Fault Refusal :=
  match i with
  | .sessionOpen r ring ringN vector noticeEn => Sys2Proof.Machine.execSessionOpen r ring ringN vector noticeEn s
  | .sessionClose r => Sys2Proof.Machine.execSessionClose r s
  | .sessionInfo r partition => Sys2Proof.Machine.execSessionInfo r partition s
  | .sessionQuotaSet r partition quota => Sys2Proof.Machine.execSessionQuotaSet r partition quota s
  | .sessionIdleSet r idleS => Sys2Proof.Machine.execSessionIdleSet r idleS s
  | .sessionWindowSet r partition window base len => Sys2Proof.Machine.execSessionWindowSet r partition window base len s
  | .partitionRelease r partition => Sys2Proof.Machine.execPartitionRelease r partition s
  | .timeStatus r => Sys2Proof.Machine.execTimeStatus r s
  | .timeSetMode r mode => Sys2Proof.Machine.execTimeSetMode r mode s
  | .frameSetPeriod r periodUs e => Sys2Proof.Machine.execFrameSetPeriod r periodUs e s
  | .frameHalt r halt => Sys2Proof.Machine.execFrameHalt r halt s
  | .lineSet r line config => Sys2Proof.Machine.execLineSet r line config s
  | .counterBind r counter binding => Sys2Proof.Machine.execCounterBind r counter binding s
  | .counterUnbind r counter => Sys2Proof.Machine.execCounterUnbind r counter s
  | .counterPrescaleSet r counter prescale => Sys2Proof.Machine.execCounterPrescaleSet r counter prescale s
  | .counterRead r first count => Sys2Proof.Machine.execCounterRead r first count s
  | .counterStatus r => Sys2Proof.Machine.execCounterStatus r s
  | .gaugeSet r gauge config => Sys2Proof.Machine.execGaugeSet r gauge config s
  | .watermarkSet r comparator cflags counter threshold hyst => Sys2Proof.Machine.execWatermarkSet r comparator cflags counter threshold hyst s
  | .watermarkRead r comparator => Sys2Proof.Machine.execWatermarkRead r comparator s
  | .gaugeRead r gauge => Sys2Proof.Machine.execGaugeRead r gauge s
  | .snapshotSet r desc stride => Sys2Proof.Machine.execSnapshotSet r desc stride s
  | .ledgerStatus r => Sys2Proof.Machine.execLedgerStatus r s
  | .ledgerRetainSet r regionKib desc => Sys2Proof.Machine.execLedgerRetainSet r regionKib desc s
  | .ledgerRead r desc frame kind => Sys2Proof.Machine.execLedgerRead r desc frame kind s
  | .ledgerSinkSet r desc select => Sys2Proof.Machine.execLedgerSinkSet r desc select s
  | .placeSetConstraints r seed separation standinMin locDesc nohostDesc locations noHost => Sys2Proof.Machine.execPlaceSetConstraints r seed separation standinMin locDesc nohostDesc locations noHost s
  | .placeDrain r tray => Sys2Proof.Machine.execPlaceDrain r tray s
  | .placeRestore r tray => Sys2Proof.Machine.execPlaceRestore r tray s
  | .placeStatus r => Sys2Proof.Machine.execPlaceStatus r s
  | .placeCensusTransfer r die frame => Sys2Proof.Machine.execPlaceCensusTransfer r die frame s
  | .seriesDefine r d => Sys2Proof.Machine.execSeriesDefine r d s
  | .seriesRead r index die desc => Sys2Proof.Machine.execSeriesRead r index die desc s
  | .histRead r desc job marker key lateness scope => Sys2Proof.Machine.execHistRead r desc job marker key lateness scope s
  | .confCalLoad r desc image => Sys2Proof.Machine.execConfCalLoad r desc image s
  | .confCalArm r anchor job => Sys2Proof.Machine.execConfCalArm r anchor job s
  | .confCohortSet r rule remove => Sys2Proof.Machine.execConfCohortSet r rule remove s
  | .confStatus r desc job => Sys2Proof.Machine.execConfStatus r desc job s
  | .seriesQuotaSet r partition quota => Sys2Proof.Machine.execSeriesQuotaSet r partition quota s
  | .treeLoad r desc image => Sys2Proof.Machine.execTreeLoad r desc image s
  | .treeArm r model frame => Sys2Proof.Machine.execTreeArm r model frame s
  | .treeUnload r model => Sys2Proof.Machine.execTreeUnload r model s
  | .treeQuotaSet r partition trees nodes => Sys2Proof.Machine.execTreeQuotaSet r partition trees nodes s
  | .treeStatus r model => Sys2Proof.Machine.execTreeStatus r model s
  | .treeScoreRead r model die => Sys2Proof.Machine.execTreeScoreRead r model die s
  | .arcadeStatus r => Sys2Proof.Machine.execArcadeStatus r s
  | .arcadeHold r logs ftFirst ftLast => Sys2Proof.Machine.execArcadeHold r logs ftFirst ftLast s
  | .arcadeRelease r holdId => Sys2Proof.Machine.execArcadeRelease r holdId s
  | .arcadePortRestore r port => Sys2Proof.Machine.execArcadePortRestore r port s
  | .arcadeLocate r desc tray frameFirst frameLast => Sys2Proof.Machine.execArcadeLocate r desc tray frameFirst frameLast s
  | .backscanSubmit r queryAddr query desc => Sys2Proof.Machine.execBackscanSubmit r queryAddr query desc s
  | .backscanCancel r queryId => Sys2Proof.Machine.execBackscanCancel r queryId s
  | .backscanStatus r queryId => Sys2Proof.Machine.execBackscanStatus r queryId s
  | .digestArm r key job anchor desc n table => Sys2Proof.Machine.execDigestArm r key job anchor desc n table s
  | .digestStatus r job => Sys2Proof.Machine.execDigestStatus r job s
  | .digestVerdictRead r job coll inst => Sys2Proof.Machine.execDigestVerdictRead r job coll inst s
  | .testPkgLoad r desc patDesc pkg => Sys2Proof.Machine.execTestPkgLoad r desc patDesc pkg s
  | .testPkgUnload r pkgId => Sys2Proof.Machine.execTestPkgUnload r pkgId s
  | .testIdleGrant r unitFirst unitLast start lenMs => Sys2Proof.Machine.execTestIdleGrant r unitFirst unitLast start lenMs s
  | .testStatus r pkgId => Sys2Proof.Machine.execTestStatus r pkgId s
  | .fenceSet r line => Sys2Proof.Machine.execFenceSet r line s
  | .fenceRelease r line => Sys2Proof.Machine.execFenceRelease r line s
  | .fenceHistoryRead r offset desc => Sys2Proof.Machine.execFenceHistoryRead r offset desc s
  | .cdsRelease r rkind index => Sys2Proof.Machine.execCdsRelease r rkind index s
  | .traceSourceSet r source config => Sys2Proof.Machine.execTraceSourceSet r source config s
  | .traceGrant r mask levels lenS => Sys2Proof.Machine.execTraceGrant r mask levels lenS s
  | .traceRevoke r grantId => Sys2Proof.Machine.execTraceRevoke r grantId s
  | .traceFlush r mask => Sys2Proof.Machine.execTraceFlush r mask s
  | .traceChainSet r chain desc => Sys2Proof.Machine.execTraceChainSet r chain desc s
  | .bufChainAppend r ckind chain desc => Sys2Proof.Machine.execBufChainAppend r ckind chain desc s
  | .traceStatus r source => Sys2Proof.Machine.execTraceStatus r source s
  | .uplShaperSet r cls rate cap quantum => Sys2Proof.Machine.execUplShaperSet r cls rate cap quantum s
  | .uplStandingSet r gatePort gateRate gateSpace gateLen kerbMargin => Sys2Proof.Machine.execUplStandingSet r gatePort gateRate gateSpace gateLen kerbMargin s
  | .uplStatus r cls => Sys2Proof.Machine.execUplStatus r cls s
  | .pwrPark r => Sys2Proof.Machine.execPwrPark r s
  | .pwrDomainSet r domain state => Sys2Proof.Machine.execPwrDomainSet r domain state s
  | .engineReset r domain timeoutUs => Sys2Proof.Machine.execEngineReset r domain timeoutUs s
  | .resetRequest r confirm => Sys2Proof.Machine.execResetRequest r confirm s
  | .pwrStatus r => Sys2Proof.Machine.execPwrStatus r s
  | .dumpTake r desc dest atFt => Sys2Proof.Machine.execDumpTake r desc dest atFt s
  | .wfgBuild r desc atFt => Sys2Proof.Machine.execWfgBuild r desc atFt s
  | .nvlogRead r region offset desc => Sys2Proof.Machine.execNvlogRead r region offset desc s
  | .epochReset r confirm => Sys2Proof.Machine.execEpochReset r confirm s
  | .fwUpdate r desc image atFt => Sys2Proof.Machine.execFwUpdate r desc image atFt s
  | .fwCommit r => Sys2Proof.Machine.execFwCommit r s
  | .fwStatus r => Sys2Proof.Machine.execFwStatus r s
  | .pmDoorbell n priv part value => Sys2Proof.Machine.execPmDoorbell n priv part value s
  | .pmDoneClear n priv value => Sys2Proof.Machine.execPmDoneClear n priv value s
  | .tmDb priv part size value session => Sys2Proof.Machine.execTmDb priv part size value session s
  | .ftLoRead priv => Sys2Proof.Machine.execFtLoRead priv s
  | .intStsClear priv value => Sys2Proof.Machine.execIntStsClear priv value s
  | .wakeCtlWrite priv value => Sys2Proof.Machine.execWakeCtlWrite priv value s
  | .engRstWrite priv value => Sys2Proof.Machine.execEngRstWrite priv value s
  | .bootDb priv value => Sys2Proof.Machine.execBootDb priv value s
  | .hrwRegisterWrite offset priv part size value session => Sys2Proof.Machine.execHrwRegisterWrite offset priv part size value session s
  | .sbiRequest bytes => Sys2Proof.Machine.execSbiRequest bytes s
  | .sbiSelectResponse => Sys2Proof.Machine.execSbiSelectResponse s
  | .sbiSelectAlert => Sys2Proof.Machine.execSbiSelectAlert s
  | .sbiBootSegment segment => Sys2Proof.Machine.execSbiBootSegment segment s
  | .sbiRead => Sys2Proof.Machine.execSbiRead s
  | .entdaa addr => Sys2Proof.Machine.execEntdaa addr s
  | .setdasa addr => Sys2Proof.Machine.execSetdasa addr s
  | .rstdaa => Sys2Proof.Machine.execRstdaa s
  | .enec events => Sys2Proof.Machine.execEnec events s
  | .disec events => Sys2Proof.Machine.execDisec events s
  | .getpid => Sys2Proof.Machine.execGetpid s
  | .getbcr => Sys2Proof.Machine.execGetbcr s
  | .getdcr => Sys2Proof.Machine.execGetdcr s
  | .getstatus => Sys2Proof.Machine.execGetstatus s
  | .getmwl => Sys2Proof.Machine.execGetmwl s
  | .getmrl => Sys2Proof.Machine.execGetmrl s
  | .extest => Sys2Proof.Machine.execExtest s
  | .idcode => Sys2Proof.Machine.execIdcode s
  | .samplePreload => Sys2Proof.Machine.execSamplePreload s
  | .clamp => Sys2Proof.Machine.execClamp s
  | .highz => Sys2Proof.Machine.execHighz s
  | .lqIjtag => Sys2Proof.Machine.execLqIjtag s
  | .bypass code => Sys2Proof.Machine.execBypass code s
  | .ijtagInstrumentAccess domain instrument => Sys2Proof.Machine.execIjtagInstrumentAccess domain instrument s
  | .ijtagMemorySelftest domain => Sys2Proof.Machine.execIjtagMemorySelftest domain s
  | .ijtagDumpTrigger => Sys2Proof.Machine.execIjtagDumpTrigger s
  | .ijtagDebugReset => Sys2Proof.Machine.execIjtagDebugReset s
  | .powerOn fuse straps => Sys2Proof.Machine.execPowerOn fuse straps s
  | .powerLoss => Sys2Proof.Machine.execPowerLoss s
  | .pwrOkCoreRise => Sys2Proof.Machine.execPwrOkCoreRise s
  | .brownOut => Sys2Proof.Machine.execBrownOut s
  | .pinReset lowNs => Sys2Proof.Machine.execPinReset lowNs s
  | .pinResetRelease => Sys2Proof.Machine.execPinResetRelease s
  | .samplerRelease => Sys2Proof.Machine.execSamplerRelease s
  | .bootImageRun image => Sys2Proof.Machine.execBootImageRun image s
  | .wake => Sys2Proof.Machine.execWake s
  | .wakeComplete => Sys2Proof.Machine.execWakeComplete s
  | .parkEntryComplete => Sys2Proof.Machine.execParkEntryComplete s
  | .watchdogTimeout => Sys2Proof.Machine.execWatchdogTimeout s
  | .watchdogPrewarning => Sys2Proof.Machine.execWatchdogPrewarning s
  | .lockup => Sys2Proof.Machine.execLockup s
  | .clockFailure group => Sys2Proof.Machine.execClockFailure group s
  | .nvlogWriteComplete => Sys2Proof.Machine.execNvlogWriteComplete s
  | .ftiTimeWord edges word => Sys2Proof.Machine.execFtiTimeWord edges word s
  | .ftiGoodWordTimeout => Sys2Proof.Machine.execFtiGoodWordTimeout s
  | .holdoverTimeout => Sys2Proof.Machine.execHoldoverTimeout s
  | .ftiRefLoss => Sys2Proof.Machine.execFtiRefLoss s
  | .frameBoundary pace stopped => Sys2Proof.Machine.execFrameBoundary pace stopped s
  | .periodChangeEffect => Sys2Proof.Machine.execPeriodChangeEffect s
  | .evtOccurrence conc levels => Sys2Proof.Machine.execEvtOccurrence conc levels s
  | .drainWord line half count parityOk => Sys2Proof.Machine.execDrainWord line half count parityOk s
  | .sealWord conc => Sys2Proof.Machine.execSealWord conc s
  | .frameSnapshotComplete faults => Sys2Proof.Machine.execFrameSnapshotComplete faults s
  | .scoreComplete model die nodeError => Sys2Proof.Machine.execScoreComplete model die nodeError s
  | .scoreMissingTimeout model die frame => Sys2Proof.Machine.execScoreMissingTimeout model die frame s
  | .gaugeUpdate conc idx value => Sys2Proof.Machine.execGaugeUpdate conc idx value s
  | .markerStrobe mid => Sys2Proof.Machine.execMarkerStrobe mid s
  | .strobeMatch => Sys2Proof.Machine.execStrobeMatch s
  | .markerDeadline mid => Sys2Proof.Machine.execMarkerDeadline mid s
  | .calendarAnchor => Sys2Proof.Machine.execCalendarAnchor s
  | .digestKeyAnchor => Sys2Proof.Machine.execDigestKeyAnchor s
  | .tracePacket p => Sys2Proof.Machine.execTracePacket p s
  | .traceServe front => Sys2Proof.Machine.execTraceServe front s
  | .traceBlockAgeFlush source => Sys2Proof.Machine.execTraceBlockAgeFlush source s
  | .traceGrantExpiry grantId => Sys2Proof.Machine.execTraceGrantExpiry grantId s
  | .tapBeat b => Sys2Proof.Machine.execTapBeat b s
  | .tapChunkDigest stream => Sys2Proof.Machine.execTapChunkDigest stream s
  | .digestListTimeout stream => Sys2Proof.Machine.execDigestListTimeout stream s
  | .unitMaskExpiry job coll inst => Sys2Proof.Machine.execUnitMaskExpiry job coll inst s
  | .verdictNoticeLeaf n => Sys2Proof.Machine.execVerdictNoticeLeaf n s
  | .gateOpen => Sys2Proof.Machine.execGateOpen s
  | .packetInject => Sys2Proof.Machine.execPacketInject s
  | .kerbReached => Sys2Proof.Machine.execKerbReached s
  | .gateClose => Sys2Proof.Machine.execGateClose s
  | .bypSend => Sys2Proof.Machine.execBypSend s
  | .dnlPacket p congested stagingFull body => Sys2Proof.Machine.execDnlPacket p congested stagingFull body s
  | .ledgerRecordReceive role rec missing lostCounters lostGauges => Sys2Proof.Machine.execLedgerRecordReceive role rec missing lostCounters lostGauges s
  | .tierCutoff role frame period => Sys2Proof.Machine.execTierCutoff role frame period s
  | .repairWindowEnd role frame period => Sys2Proof.Machine.execRepairWindowEnd role frame period s
  | .settleHorizon role frame period => Sys2Proof.Machine.execSettleHorizon role frame period s
  | .ledgerAck a sender => Sys2Proof.Machine.execLedgerAck a sender s
  | .seriesRecord role rec missing => Sys2Proof.Machine.execSeriesRecord role rec missing s
  | .histogramRecord role h => Sys2Proof.Machine.execHistogramRecord role h s
  | .occurrenceCloseTimeout role job marker occ => Sys2Proof.Machine.execOccurrenceCloseTimeout role job marker occ s
  | .thresholdNotice n => Sys2Proof.Machine.execThresholdNotice n s
  | .thresholdHoldExpiry job marker occ => Sys2Proof.Machine.execThresholdHoldExpiry job marker occ s
  | .featureRecord rec => Sys2Proof.Machine.execFeatureRecord rec s
  | .scoreRecord role rec => Sys2Proof.Machine.execScoreRecord role rec s
  | .digestRecord role rec => Sys2Proof.Machine.execDigestRecord role rec s
  | .tallyRecord role rec => Sys2Proof.Machine.execTallyRecord role rec s
  | .verdictNoticePlaza n => Sys2Proof.Machine.execVerdictNoticePlaza n s
  | .resultHoldExpiry job coll inst => Sys2Proof.Machine.execResultHoldExpiry job coll inst s
  | .faultReportReceive role rep => Sys2Proof.Machine.execFaultReportReceive role rep s
  | .stormEntryReceive role e => Sys2Proof.Machine.execStormEntryReceive role e s
  | .placementTablePart p => Sys2Proof.Machine.execPlacementTablePart p s
  | .placementTableIssue cause chips => Sys2Proof.Machine.execPlacementTableIssue cause chips s
  | .tableResend => Sys2Proof.Machine.execTableResend s
  | .adoptReq m => Sys2Proof.Machine.execAdoptReq m s
  | .adoptOffer m => Sys2Proof.Machine.execAdoptOffer m s
  | .adoptConfirm m => Sys2Proof.Machine.execAdoptConfirm m s
  | .adoptAck m => Sys2Proof.Machine.execAdoptAck m s
  | .adoptRefuse m => Sys2Proof.Machine.execAdoptRefuse m s
  | .adoptTryTimeout => Sys2Proof.Machine.execAdoptTryTimeout s
  | .orphanRetry => Sys2Proof.Machine.execOrphanRetry s
  | .release m => Sys2Proof.Machine.execRelease m s
  | .keepalive m => Sys2Proof.Machine.execKeepalive m s
  | .beacon m => Sys2Proof.Machine.execBeacon m s
  | .keepaliveDue peer => Sys2Proof.Machine.execKeepaliveDue peer s
  | .linkSilence peer => Sys2Proof.Machine.execLinkSilence peer s
  | .forumSilence => Sys2Proof.Machine.execForumSilence s
  | .livenessHoldComplete tray => Sys2Proof.Machine.execLivenessHoldComplete tray s
  | .imageRequest ask requester => Sys2Proof.Machine.execImageRequest ask requester s
  | .ensembleRange image firstTree lastTree tray home activeFrom => Sys2Proof.Machine.execEnsembleRange image firstTree lastTree tray home activeFrom s
  | .relayedCommand cls partition tag cmd scope parent attachment => Sys2Proof.Machine.execRelayedCommand cls partition tag cmd scope parent attachment s
  | .relayCompletion tag cmd child nOk nFail nNoReply firstStatus first8 => Sys2Proof.Machine.execRelayCompletion tag cmd child nOk nFail nNoReply firstStatus first8 s
  | .relayTimeout tag cmd => Sys2Proof.Machine.execRelayTimeout tag cmd s
  | .sessionIdleTimeout slot => Sys2Proof.Machine.execSessionIdleTimeout slot s
  | .noticeDeliver subject => Sys2Proof.Machine.execNoticeDeliver subject s
  | .responseRingResume slot cons => Sys2Proof.Machine.execResponseRingResume slot cons s
  | .bufResponse id err next => Sys2Proof.Machine.execBufResponse id err next s
  | .bufTimeout id => Sys2Proof.Machine.execBufTimeout id s
  | .memResponse port tag err => Sys2Proof.Machine.execMemResponse port tag err s
  | .memOpTimeout port tag => Sys2Proof.Machine.execMemOpTimeout port tag s
  | .memLinkLoss port => Sys2Proof.Machine.execMemLinkLoss port s
  | .segmentSealTimeout log => Sys2Proof.Machine.execSegmentSealTimeout log s
  | .arcadeHoldExpiry holdId => Sys2Proof.Machine.execArcadeHoldExpiry holdId s
  | .backscanStart => Sys2Proof.Machine.execBackscanStart s
  | .backscanComplete queryId => Sys2Proof.Machine.execBackscanComplete queryId s
  | .backscanTimeout queryId => Sys2Proof.Machine.execBackscanTimeout queryId s
  | .quietWindowOpen patDigest => Sys2Proof.Machine.execQuietWindowOpen patDigest s
  | .idleGrantStart => Sys2Proof.Machine.execIdleGrantStart s
  | .idleGrantEnd => Sys2Proof.Machine.execIdleGrantEnd s
  | .fncTestDone digest => Sys2Proof.Machine.execFncTestDone digest s
  | .fncTestErr => Sys2Proof.Machine.execFncTestErr s
  | .testAbortTimeout => Sys2Proof.Machine.execTestAbortTimeout s
  | .testOverdue pkgId testId unit => Sys2Proof.Machine.execTestOverdue pkgId testId unit s
  | .blockResourceTest pkgId testId unit paceOk patDigest digest => Sys2Proof.Machine.execBlockResourceTest pkgId testId unit paceOk patDigest digest s
  | .resourceFault rkind index => Sys2Proof.Machine.execResourceFault rkind index s
  | .quiesceAck domain => Sys2Proof.Machine.execQuiesceAck domain s
  | .quiesceTimeout domain => Sys2Proof.Machine.execQuiesceTimeout domain s
  | .engineRelease domain => Sys2Proof.Machine.execEngineRelease domain s
  | .crossingClockStart group => Sys2Proof.Machine.execCrossingClockStart group s
  | .dravaTimeout group => Sys2Proof.Machine.execDravaTimeout group s
  | .hangDeclared domain object => Sys2Proof.Machine.execHangDeclared domain object s
  | .dumpCapture trigger entries => Sys2Proof.Machine.execDumpCapture trigger entries s
  | .fwRestart => Sys2Proof.Machine.execFwRestart s
  | .fwTrialTimeout => Sys2Proof.Machine.execFwTrialTimeout s
  | .dbgCtlExpiry => Sys2Proof.Machine.execDbgCtlExpiry s
  | .softwareReset => Sys2Proof.Machine.execSoftwareReset s
  | .domainSettle domain => Sys2Proof.Machine.execDomainSettle domain s
  | .testLogicReset => Sys2Proof.Machine.execTestLogicReset s
  | .pwrOkCoreFallParked => Sys2Proof.Machine.execPwrOkCoreFallParked s

end Sys2Proof.Machine
end

