-- ==== Sys2Proof/Safety.lean ====
section
/-!
DEFINITION. What claims about the block are stated in: the invariant `Sound` (the bounds of the queues and Law C), the
relation `Later` between a state and a later one of the same powered epoch, the relation `Agree` between two states that
differ in nothing but what carries requests and answers, and `Taken`, a request that the Steward takes and serves.
-/

namespace Sys2Proof.Machine

/-! ## Sparse tables -/

/-- A table in its one form: indices rising from `lo` on, no entry equal to the default. -/
def tabWfFrom {α : Type} [DecidableEq α] (d : α) : Nat → Tab α → Bool
  | _, [] => true
  | lo, (i, v) :: t => lo ≤ i && v != d && tabWfFrom d (i + 1) t

/-- A table in its one form. -/
def tabWf {α : Type} [DecidableEq α] (d : α) (t : Tab α) : Bool := tabWfFrom d 0 t

/-! ## Law C (R348) -/

/-- The credit and the deficit identity of one class, with its congestion factor in 1 to 64 (R348, R349). -/
structure ClassOk (c : UplClass) : Prop where
  credit : c.added = c.charged + c.lent + c.forfeited + c.credit
  deficit : c.quanta = c.sent + c.returned + c.deficit
  factor : 1 ≤ c.f ∧ c.f ≤ 64

/-- Law C of the port's accounts: each class's identities, and Ledger's bytes sent against its charges and what Trace and
Dump have lent (R346, R348). -/
structure AccountsOk (t : Tab UplClass) : Prop where
  wf : tabWf UplClass.zero t = true
  classes : ∀ k, ClassOk (tget UplClass.zero k t)
  ledger : (tget UplClass.zero 1 t).sent
    = (tget UplClass.zero 1 t).charged + (tget UplClass.zero 3 t).lent + (tget UplClass.zero 4 t).lent

/-! ## The invariant -/

/-- The scheduler: Law C, at most 256 bypass messages waiting, and a stride of 1 to 64 (R336, R348, R350). -/
structure UplSound (u : Uplink) : Prop where
  accounts : AccountsOk u.classes
  byp : u.byp.length ≤ 256
  stride : 1 ≤ u.u ∧ u.u ≤ 64

/-- The Trace compressor: at most four grants, at most 512 packets in the queue of a front (R307, R311). -/
structure TrcSound (t : Trace) : Prop where
  grants : t.grants.length ≤ 4
  fronts : ∀ e ∈ t.fronts, e.2.length ≤ 512

/-- The bounds that the manual sets to the block's queues, and Law C (R300, R307, R311, R336, R348, R350, R361, R384,
R406). -/
structure Sound (s : State) : Prop where
  upl : UplSound s.upl
  trc : TrcSound s.trc
  /-- At most 8,192 history records; R300. -/
  history : s.nv.history.length ≤ 8192
  /-- At most 32 sideband alerts; R384. -/
  alerts : s.sbi.alerts.length ≤ 32
  /-- At most 256 doorbells; R361. -/
  doorbells : s.stw.doorbells.length ≤ 256
  /-- At most 256 operations outstanding on `BUF` at a Leaf, 1,024 at a Plaza; R406. -/
  bufOps : s.buf.ops.length ≤ Config.bufLimit s.fuse.plaza

/-! ## Later in the same powered epoch -/

/-- `t` is reached from `s` without a power-on, with no fence line released but those of `free`: the queue and what the
block read at power-on are unchanged, the count and the timers have not gone back, the security versions have not fallen, no
retired counter has come back, and the invariant, if it held, holds (R28, R75, R296, R379, R422, R423, R478). -/
structure Later (free : Nat → Prop) (s t : State) : Prop where
  queue : t.pending = s.pending
  chip : t.die = s.die
  fuse : t.fuse = s.fuse
  fence : ∀ i, ¬ free i → s.fence.getLsbD i = true → t.fence.getLsbD i = true
  ft : s.time.ft ≤ t.time.ft
  osc : s.time.osc ≤ t.time.osc
  timer : s.time.timer ≤ t.time.timer
  live : s.time.live ≤ t.time.live
  svnFirmware : s.nv.svnFirmware ≤ t.nv.svnFirmware
  svnTest : s.nv.svnTest ≤ t.nv.svnTest
  retired : ∀ i ∈ s.nv.retired, i ∈ t.nv.retired
  sound : Sound s → Sound t

/-- The lines that a command may release: the one `FENCE_RELEASE` names (R296). -/
def releases (c : Instr) (i : Nat) : Prop :=
  match c with
  | .fenceRelease _ line => i = line
  | _ => False

/-- The command begins a powered epoch. -/
def isPowerOn (c : Instr) : Bool :=
  match c with
  | .powerOn _ _ => true
  | _ => false

/-- `t` is reached from `s` in a number of steps. -/
def Reaches : Nat → State → State → Prop
  | 0, s, t => t = s
  | n + 1, s, t => ∃ u, step s = .next u ∧ Reaches n u t

/-! ## Requests and answers -/

/-- The command code, Issuer column, relay mark and configuration of a mailbox command, with its request; the other rows are
no requests (R389 and the tables of chapter 14). -/
def commandOf : Instr → Option (Cmd × Req)
  | .sessionOpen r _ _ _ _ => some ({ code := 0x0101, allow := { s := true, t := true } }, r)
  | .sessionClose r => some ({ code := 0x0102, allow := { s := true, t := true } }, r)
  | .sessionInfo r _ => some ({ code := 0x0103, allow := { s := true, t := true } }, r)
  | .sessionQuotaSet r _ _ => some ({ code := 0x0104, allow := {}, relayable := true }, r)
  | .sessionIdleSet r _ => some ({ code := 0x0105, allow := {} }, r)
  | .sessionWindowSet r _ _ _ _ => some ({ code := 0x0106, allow := {} }, r)
  | .partitionRelease r _ => some ({ code := 0x0107, allow := {}, relayable := true }, r)
  | .timeStatus r => some ({ code := 0x0201, allow := { s := true, t := true } }, r)
  | .timeSetMode r _ => some ({ code := 0x0202, allow := {} }, r)
  | .frameSetPeriod r _ _ => some ({ code := 0x0203, allow := {}, relayable := true }, r)
  | .frameHalt r _ => some ({ code := 0x0204, allow := {}, relayable := true }, r)
  | .lineSet r _ _ => some ({ code := 0x0301, allow := {}, relayable := true, only := .leaf }, r)
  | .counterBind r _ _ => some ({ code := 0x0302, allow := {}, relayable := true, only := .leaf }, r)
  | .counterUnbind r _ => some ({ code := 0x0303, allow := {}, relayable := true, only := .leaf }, r)
  | .counterPrescaleSet r _ _ => some ({ code := 0x0304, allow := { t := true }, only := .leaf }, r)
  | .counterRead r _ _ => some ({ code := 0x0305, allow := { s := true, t := true }, only := .leaf }, r)
  | .counterStatus r => some ({ code := 0x0306, allow := { s := true, t := true } }, r)
  | .gaugeSet r _ _ => some ({ code := 0x0307, allow := {}, relayable := true, only := .leaf }, r)
  | .watermarkSet r _ _ _ _ _ => some ({ code := 0x0308, allow := { t := true }, only := .leaf }, r)
  | .watermarkRead r _ => some ({ code := 0x0309, allow := { s := true, t := true }, only := .leaf }, r)
  | .gaugeRead r _ => some ({ code := 0x030A, allow := { s := true, t := true }, only := .leaf }, r)
  | .snapshotSet r _ _ => some ({ code := 0x030B, allow := { t := true }, only := .leaf }, r)
  | .ledgerStatus r => some ({ code := 0x0401, allow := { s := true } }, r)
  | .ledgerRetainSet r _ _ => some ({ code := 0x0402, allow := {}, only := .leaf }, r)
  | .ledgerRead r _ _ _ => some ({ code := 0x0403, allow := { s := true } }, r)
  | .ledgerSinkSet r _ _ => some ({ code := 0x0404, allow := {}, only := .plaza }, r)
  | .placeSetConstraints r _ _ _ _ _ _ _ => some ({ code := 0x0501, allow := {}, only := .plaza }, r)
  | .placeDrain r _ => some ({ code := 0x0502, allow := {}, only := .plaza }, r)
  | .placeRestore r _ => some ({ code := 0x0503, allow := {}, only := .plaza }, r)
  | .placeStatus r => some ({ code := 0x0504, allow := { s := true } }, r)
  | .placeCensusTransfer r _ _ => some ({ code := 0x0505, allow := { p := false, q := true }, only := .plaza }, r)
  | .seriesDefine r _ => some ({ code := 0x0601, allow := { t := true }, relayable := true }, r)
  | .seriesRead r _ _ _ => some ({ code := 0x0602, allow := { s := true, t := true } }, r)
  | .histRead r _ _ _ _ _ _ => some ({ code := 0x0603, allow := { s := true, t := true } }, r)
  | .confCalLoad r _ _ => some ({ code := 0x0604, allow := {}, only := .leaf }, r)
  | .confCalArm r _ _ => some ({ code := 0x0605, allow := {}, relayable := true }, r)
  | .confCohortSet r _ _ => some ({ code := 0x0606, allow := { t := true }, relayable := true, only := .plaza }, r)
  | .confStatus r _ _ => some ({ code := 0x0607, allow := { s := true, t := true } }, r)
  | .seriesQuotaSet r _ _ => some ({ code := 0x0608, allow := {}, relayable := true }, r)
  | .treeLoad r _ _ => some ({ code := 0x0701, allow := { t := true }, relayable := true }, r)
  | .treeArm r _ _ => some ({ code := 0x0702, allow := { t := true }, relayable := true }, r)
  | .treeUnload r _ => some ({ code := 0x0703, allow := { t := true }, relayable := true }, r)
  | .treeQuotaSet r _ _ _ => some ({ code := 0x0704, allow := {}, relayable := true }, r)
  | .treeStatus r _ => some ({ code := 0x0705, allow := { s := true, t := true } }, r)
  | .treeScoreRead r _ _ => some ({ code := 0x0706, allow := { t := true } }, r)
  | .arcadeStatus r => some ({ code := 0x0801, allow := { s := true }, only := .plaza }, r)
  | .arcadeHold r _ _ _ => some ({ code := 0x0802, allow := {}, only := .plaza }, r)
  | .arcadeRelease r _ => some ({ code := 0x0803, allow := {}, only := .plaza }, r)
  | .arcadePortRestore r _ => some ({ code := 0x0804, allow := {}, only := .plaza }, r)
  | .arcadeLocate r _ _ _ _ => some ({ code := 0x0805, allow := { s := true }, only := .plaza }, r)
  | .backscanSubmit r _ _ _ => some ({ code := 0x0806, allow := { t := true }, only := .plaza }, r)
  | .backscanCancel r _ => some ({ code := 0x0807, allow := { t := true }, only := .plaza }, r)
  | .backscanStatus r _ => some ({ code := 0x0808, allow := { s := true, t := true }, only := .plaza }, r)
  | .digestArm r _ _ _ _ _ _ => some ({ code := 0x0901, allow := {}, relayable := true }, r)
  | .digestStatus r _ => some ({ code := 0x0902, allow := { s := true, t := true } }, r)
  | .digestVerdictRead r _ _ _ => some ({ code := 0x0903, allow := { t := true } }, r)
  | .testPkgLoad r _ _ _ => some ({ code := 0x0A01, allow := {} }, r)
  | .testPkgUnload r _ => some ({ code := 0x0A02, allow := {} }, r)
  | .testIdleGrant r _ _ _ _ => some ({ code := 0x0A03, allow := {} }, r)
  | .testStatus r _ => some ({ code := 0x0A04, allow := { s := true } }, r)
  | .fenceSet r _ => some ({ code := 0x0A05, allow := {} }, r)
  | .fenceRelease r _ => some ({ code := 0x0A06, allow := {} }, r)
  | .fenceHistoryRead r _ _ => some ({ code := 0x0A07, allow := { s := true } }, r)
  | .cdsRelease r _ _ => some ({ code := 0x0A08, allow := {} }, r)
  | .traceSourceSet r _ _ => some ({ code := 0x0B01, allow := { t := true }, only := .leaf }, r)
  | .traceGrant r _ _ _ => some ({ code := 0x0B02, allow := {}, only := .leaf }, r)
  | .traceRevoke r _ => some ({ code := 0x0B03, allow := {} }, r)
  | .traceFlush r _ => some ({ code := 0x0B04, allow := { t := true } }, r)
  | .traceChainSet r _ _ => some ({ code := 0x0B05, allow := { t := true } }, r)
  | .bufChainAppend r _ _ _ => some ({ code := 0x0B06, allow := { t := true } }, r)
  | .traceStatus r _ => some ({ code := 0x0B07, allow := { s := true, t := true } }, r)
  | .uplShaperSet r _ _ _ _ => some ({ code := 0x0C01, allow := {}, relayable := true }, r)
  | .uplStandingSet r _ _ _ _ _ => some ({ code := 0x0C02, allow := {} }, r)
  | .uplStatus r _ => some ({ code := 0x0C03, allow := { s := true } }, r)
  | .pwrPark r => some ({ code := 0x0D01, allow := { s := true } }, r)
  | .pwrDomainSet r _ _ => some ({ code := 0x0D02, allow := {} }, r)
  | .engineReset r _ _ => some ({ code := 0x0D03, allow := {} }, r)
  | .resetRequest r _ => some ({ code := 0x0D04, allow := {} }, r)
  | .pwrStatus r => some ({ code := 0x0D05, allow := { s := true } }, r)
  | .dumpTake r _ _ _ => some ({ code := 0x0E01, allow := { s := true }, relayable := true }, r)
  | .wfgBuild r _ _ => some ({ code := 0x0E02, allow := {}, only := .plaza }, r)
  | .nvlogRead r _ _ _ => some ({ code := 0x0F01, allow := { s := true } }, r)
  | .epochReset r _ => some ({ code := 0x0F02, allow := {} }, r)
  | .fwUpdate r _ _ _ => some ({ code := 0x0F03, allow := {} }, r)
  | .fwCommit r => some ({ code := 0x0F04, allow := {} }, r)
  | .fwStatus r => some ({ code := 0x0F05, allow := { s := true } }, r)
  | _ => none

/-- A state without what carries requests and answers: the PM slots and `INT_STS`, the sideband's queues of requests and
responses, the doorbells, the place of the round, tenant slots, accepted requests and relays of the Steward, the operations
outstanding on `BUF`, the Control packets queued, and what has been put on the ports. -/
def plain (s : State) : State :=
  { s with
    hrw := { s.hrw with pm := [], intSts := 0 },
    sbi := { s.sbi with requests := [], responses := [] },
    stw := { s.stw with
      slots := [], doorbells := [], place := 0, deferred := [], replies := [], deadCompletions := 0, lastService := 0 },
    buf := { s.buf with ops := [], waiting := [], nextId := 0 },
    upl := { s.upl with control := [] }, out := [] }

/-- `t` differs from `e` in nothing but what carries requests and answers. -/
def Agree (e t : State) : Prop := plain t = plain e

/-- Something waits in the Control queue, with the packet that completes it. -/
def Queued (o : Out) (t : State) : Prop := ∃ q ∈ t.upl.control, q.carries = some o

/-- Something waits in the queue of a class, with the packet that completes it. -/
def Leaves (cls : Nat) (o : Out) (t : State) : Prop := ∃ q ∈ tget [] cls t.upl.queues, q.carries = some o

/-- A message has gone to an issuer: it stands in the PM slot or is held for it, in the sideband's queue, in the tenant's ring
or held for it (discarded where the slot has closed), or in a packet queued for a tier role; a relayed copy is answered by its own
block's part of the relay (R360, R365, R368, R369, R374, R384, R386). -/
def Told (i : Issuer) (m : Msg) (t : State) : Prop :=
  match i with
  | .pm n => ((tget PmSlot.idle n t.hrw.pm).done = true ∧ (tget PmSlot.idle n t.hrw.pm).rsp = some m)
      ∨ m ∈ (tget PmSlot.idle n t.hrw.pm).held
  | .sideband => m ∈ t.sbi.responses
  | .tenant p k g =>
    (∃ j, Out.buf p 0 (.ring k j { m with session := handleOf k g }) ∈ t.out)
      ∨ (∃ e ∈ t.buf.waiting, ∃ j, e.2 = Out.buf p 0 (.ring k j { m with session := handleOf k g }))
      ∨ { m with session := handleOf k g } ∈ (tget Slot.unused k t.stw.slots).held
      ∨ Out.answer i m ∈ t.out
  | .relay _ _ => True
  | .role _ _ => Queued (.answer i m) t

/-- A request that the Steward takes and that passes the checks of R389: the block is powered, serves mailboxes, has room
for the response and finds no other source's turn before this one's, and the header, session, configuration, issuer and form are right; a relayed one names a scope that this
block lies in (R360 to R364, R374, R388 to R392). -/
structure Taken (c : Cmd) (r : Req) (s : State) : Prop where
  powered : s.rst.aonOk = true
  serving : stewardUp s = true
  room : mailboxOpen r.issuer s = true
  turn : inTurn r.issuer (c.code == 0x0101) s = true
  fetched : fetchOutside r.issuer (c.code == 0x0101) s = false
  header : headerOk r = true
  session : sessionReject r.issuer (c.code == 0x0101) s = none
  present : presentAt c.only s.fuse.plaza = true
  permitted : c.allow.permits (issuerClass r.issuer) = true
  reserved : r.reservedOk = true
  relayed : r.relay = true → c.relayable = true ∧ scopeOk r = true ∧ selfInScope r.scope s = true

/-- The issuer has its first response: `ACCEPTED` where the command was relayed from here, else the one given (R365, R374). -/
def Answered (c : Cmd) (r : Req) (status : Nat) (final : Bool) (p : List Fld) (b : List Byte) (t : State) : Prop :=
  if r.relay = true ∧ isCopy r.issuer = false then Told r.issuer (rspMsg c.code r.tag Config.accepted false [] []) t
  else Told r.issuer (rspMsg c.code r.tag status final p b) t

/-- In `t`, which the command has answered, it has completed at once: it leaves `e`, but for requests and answers, and its
issuer has `OK` with a payload. -/
def Completes (c : Cmd) (r : Req) (e : State) (p : List Fld) (b : List Byte) (t : State) : Prop :=
  Agree e t ∧ Answered c r Config.ok true p b t

/-- In `t`, which the command has answered, it is accepted and its work is in progress: it leaves `e`, but for requests and
answers, its issuer has `ACCEPTED`, and the work stands among the accepted requests (R365). -/
def Defers (c : Cmd) (r : Req) (e : State) (w : Work) (t : State) : Prop :=
  Agree e t ∧ Answered c r Config.accepted false [] [] t ∧ ∃ d ∈ t.stw.deferred, d.tag = r.tag ∧ d.cmd = c.code ∧ d.work = w

/-- In `t`, which the command has answered, it has completed at once with `OK` and a payload, and `P` holds. -/
def CompletesWith (c : Cmd) (r : Req) (P : State → Prop) (p : List Fld) (t : State) : Prop :=
  P t ∧ Answered c r Config.ok true p [] t

/-- In `t`, which the command has answered, it is accepted, its output goes into the chain that a descriptor of its issuer heads, and its work is in progress
until the last buffer has its completion (R365, R372, R391). -/
def Outputs (c : Cmd) (r : Req) (d : Desc) (bytes : Nat) (data : BufData) (s t : State) : Prop :=
  Agree (outputTo d bytes data s).2 t ∧ Answered c r Config.accepted false [] [] t
    ∧ (∃ x ∈ t.stw.deferred, x.tag = r.tag ∧ x.cmd = c.code ∧ x.work = .output s.buf.nextChain)
    ∧ Out.buf d.partition s.buf.nextChain data ∈ t.out

/-- In `t`, which the command has answered, it is accepted and its work is done at once: `P` holds, and its issuer has
`ACCEPTED` and, unless the command was relayed from here, the completion with `OK` (R365). -/
def FinishesWith (c : Cmd) (r : Req) (P : State → Prop) (t : State) : Prop :=
  P t ∧ Answered c r Config.accepted false [] [] t
    ∧ ((r.relay = true ∧ isCopy r.issuer = false) ∨ Told r.issuer (rspMsg c.code r.tag Config.ok true [] []) t)

/-- In `t`, which the command has answered, it is turned away: it leaves the state, but for requests and answers, and its
issuer has a status alone. -/
def Rejects (c : Cmd) (r : Req) (s : State) (status : Nat) (t : State) : Prop :=
  Agree s t ∧ ((r.relay = true ∧ isCopy r.issuer = false) ∨ Told r.issuer (rspMsg c.code r.tag status true [] []) t)

end Sys2Proof.Machine
end

