-- ==== Sys2Proof/Certificates/Slice0/Obligations.lean ====
section
/-!
DEFINITION. The statements for the provers.  Completion statements say of each command, on a state and operands that meet
conditions on these alone, which next state it answers: the state it leaves but for what carries requests and answers
(`Completes`, `Defers`), or the fields it changes.
-/

open Sys2Proof Sys2Proof.Machine

/-- Group 0x02 completes: `TIME_STATUS` reports the time front and the grid; `TIME_SET_MODE` restarts the front in the new
mode while the grid is stopped; `FRAME_SET_PERIOD` records a change at a common boundary 10 ms ahead; `FRAME_HALT` halts at
the next boundary or opens the grid again (R28, R30, R31, R44, R390). -/
def Obligations.TimeCommandsComplete : Prop :=
  (∀ r s, let c : Cmd := { code := 0x0201, allow := { s := true, t := true } }
    Taken c r s →
      ∃ t, exec (.timeStatus r) s = .next t ∧
        Completes c r s (timeStatusPayload s) [] t) ∧
  (∀ r mode s, let c : Cmd := { code := 0x0202, allow := {} }
    Taken c r s → (mode = 1 ∨ mode = 2) →
      (timeValid s = false ∨ (s.grid.halted = true ∧ s.grid.frame = none)) →
      ∃ t, exec (.timeSetMode r mode) s = .next t ∧
        Completes c r (onTime (fun t =>
        { t with
          state := .unlocked, mode := mode, hold := 0, slew := 0, mismatchRun := 0, candidate := none, since := t.osc }) s)
        [] [] t) ∧
  (∀ r periodUs e s, let c : Cmd := { code := 0x0203, allow := {}, relayable := true }
    Taken c r s → 50 ≤ periodUs → periodUs ≤ 1000000 → e % (s.grid.period * 1000) = 0 → e % (periodUs * 1000) = 0 →
      s.time.ft + 10000000 ≤ e →
      ∃ t, exec (.frameSetPeriod r periodUs e) s = .next t ∧
        Completes c r (onGrid (fun g => { g with pending := some (periodUs, e), next := none }) s) [] [] t) ∧
  (∀ r s, let c : Cmd := { code := 0x0204, allow := {}, relayable := true }
    Taken c r s →
      ∃ t, exec (.frameHalt r 1) s = .next t ∧
        Completes c r (onGrid (fun g => if g.frame.isSome then { g with haltPending := true } else { g with halted := true }) s) [f64 0 (numberAt (nextOpenFt s) s)] [] t) ∧
  (∀ r s, let c : Cmd := { code := 0x0204, allow := {}, relayable := true }
    Taken c r s →
      ∃ t, exec (.frameHalt r 0) s = .next t ∧
        Completes c r (onGrid (fun g => { g with haltPending := false, halted := false }) s)
      [f64 0 (numberAt (nextOpenFt s) s)] [] t)

/-- The commands that change the Sampler complete: the change waits for the boundary that begins `EFFECT_FRAME`, which the
answer carries; `WATERMARK_SET` writes the comparator at once, keeps its latch and starts its arming again (R58, R67 to R70,
R79, R83, R92, R390, R477).

The commands that read the Sampler complete, with the values of the latest closed frame; `WATERMARK_READ` also empties
the latch it returns (R75, R81, R85, R88, R89).  What a Plaza's `COUNTER_STATUS` counts the manual does not say: free values
(log entry 16). -/
def Obligations.SamplerCommandsComplete : Prop :=
  (∀ r line config s, let c : Cmd := { code := 0x0301, allow := {}, relayable := true, only := .leaf }
    Taken c r s → engineUp 2 s = true → line < 4096 → bits config.toNat 15 12 = 0 → (conc (line / 256) s).fenced = false →
      ∃ t, exec (.lineSet r line config) s = .next t ∧
        Completes c r (addChange (nextFrame s) (.line line config) s) [f64 0 (shownFrame (nextFrame s) s)] [] t) ∧
  (∀ r k binding s, let c : Cmd := { code := 0x0302, allow := {}, relayable := true, only := .leaf }
    Taken c r s → engineUp 2 s = true → k < 32768 → bits binding.toNat 31 28 = 0 → bindPartition binding ≤ 512 →
      k ∉ s.smp.retired →
      (bindSrcCmp binding = true → bindPartition binding ≠ 0 → cmpPartition (bindSrc binding) s = bindPartition binding) →
      ∃ t, exec (.counterBind r k binding) s = .next t ∧
        Completes c r (addChange (changeFrame s) (.bind k binding) s) [f64 0 (shownFrame (changeFrame s) s)] [] t) ∧
  (∀ r k s, let c : Cmd := { code := 0x0303, allow := {}, relayable := true, only := .leaf }
    Taken c r s → engineUp 2 s = true → k < 32768 → bindEnable (counter k s).binding = true → k ∉ s.smp.retired →
      ∃ t, exec (.counterUnbind r k) s = .next t ∧
        Completes c r (addChange (changeFrame s) (.unbind k) s) [f64 0 (shownFrame (changeFrame s) s)] [] t) ∧
  (∀ r k prescale s, let c : Cmd := { code := 0x0304, allow := { t := true }, only := .leaf }
    Taken c r s → engineUp 2 s = true → prescale ≤ 15 → k < 32768 → bindEnable (counter k s).binding = true →
      k ∉ s.smp.retired → (isTenant r.issuer = true → bindPartition (counter k s).binding = issuerPart r.issuer) →
      ∃ t, exec (.counterPrescaleSet r k prescale) s = .next t ∧
        Completes c r (addChange (changeFrame s) (.prescale k prescale) s) [f64 0 (shownFrame (changeFrame s) s)] [] t) ∧
  (∀ r g config s, let c : Cmd := { code := 0x0307, allow := {}, relayable := true, only := .leaf }
    Taken c r s → engineUp 2 s = true → g < 1024 → bits config.toNat 15 14 = 0 → gaugeSample config ≠ 3 →
      gaugePartition config ≤ 512 →
      ∃ t, exec (.gaugeSet r g config) s = .next t ∧
        Completes c r (addChange (changeFrame s) (.gauge g config) s) [f64 0 (shownFrame (changeFrame s) s)] [] t) ∧
  (∀ r k (cflags : BitVec 8) ctr threshold hyst s, let c : Cmd := { code := 0x0308, allow := { t := true }, only := .leaf }
    Taken c r s → engineUp 2 s = true → bits cflags.toNat 7 5 = 0 → ctr < 32768 → k < 4096 →
      (isTenant r.issuer = true → cmpPartition k s = issuerPart r.issuer ∧ (cmp k s).srcCounter = cflags.getLsbD 1
        ∧ (cmp k s).counter = ctr) →
      ∃ t, exec (.watermarkSet r k cflags ctr threshold hyst) s = .next t ∧
        Completes c r
        (onCmp k (fun x =>
          { x with
            enable := cflags.getLsbD 0, srcCounter := cflags.getLsbD 1, down := cflags.getLsbD 2,
            notice := bits cflags.toNat 4 3, counter := ctr, threshold := threshold, hyst := hyst, armed := none }) s)
        [] [] t) ∧
  (∀ r desc stride s, let c : Cmd := { code := 0x030B, allow := { t := true }, only := .leaf }
    Taken c r s → engineUp 2 s = true → 1 ≤ stride → stride ≤ 65535 → descOk (issuerPart r.issuer) desc s = true →
      ∃ t, exec (.snapshotSet r desc stride) s = .next t ∧
        Completes c r (addChange (changeFrame s) (.snapshot (issuerPart r.issuer) (some desc) stride) s)
        [f64 0 (shownFrame (changeFrame s) s)] [] t) ∧
  (∀ r desc s, let c : Cmd := { code := 0x030B, allow := { t := true }, only := .leaf }
    Taken c r s → engineUp 2 s = true →
      ∃ t, exec (.snapshotSet r desc 0) s = .next t ∧
        Completes c r (addChange (changeFrame s) (.snapshot (issuerPart r.issuer) none 0) s)
        [f64 0 (shownFrame (changeFrame s) s)] [] t) ∧
  (∀ r first count s, let c : Cmd := { code := 0x0305, allow := { s := true, t := true }, only := .leaf }
    Taken c r s → engineUp 2 s = true → 1 ≤ count → count ≤ 6 → (∃ j, j < count ∧ counterVisible r.issuer (first + j) s = true) →
      ∃ t, exec (.counterRead r first count) s = .next t ∧
        Completes c r s (f8 0 count :: (List.range count).flatMap (fun j => readEntry (0x10 + 16 * j) r.issuer (first + j) s)) [] t) ∧
  (∀ r s, let c : Cmd := { code := 0x0306, allow := { s := true, t := true } }
    Taken c r s → s.fuse.plaza = false → engineUp 2 s = true → isTenant r.issuer = false →
      ∃ t, exec (.counterStatus r) s = .next t ∧
        Completes c r s [f32 0 (boundCount none s), f32 4 s.smp.retired.length, f32 8 (256 - tsum s.smp.sparesUsed),
        f16 0xC ((List.range 16).foldl (fun n k => n + if (conc k s).fenced then 2 ^ k else 0) 0),
        f32 0x10 s.smp.repairs, f32 0x14 (tsum s.smp.invalidBy)] [] t) ∧
  (∀ r s, let c : Cmd := { code := 0x0306, allow := { s := true, t := true } }
    Taken c r s → s.fuse.plaza = false → engineUp 2 s = true → isTenant r.issuer = true →
      ∃ t, exec (.counterStatus r) s = .next t ∧
        Completes c r s [f32 0 (boundCount (some (issuerPart r.issuer)) s), f32 4 0, f32 8 0, f16 0xC 0,
        f32 0x10 (tget 0 (issuerPart r.issuer) s.smp.repairsBy), f32 0x14 (tget 0 (issuerPart r.issuer) s.smp.invalidBy)] [] t) ∧
  (∀ r s, let c : Cmd := { code := 0x0306, allow := { s := true, t := true } }
    Taken c r s → s.fuse.plaza = true → isTenant r.issuer = false →
      ∃ t, exec (.counterStatus r) s = .next t ∧
        CompletesWith c r (fun t => s.stw.chip.repairs ≤ t.stw.chip.repairs ∧ s.stw.chip.invalid ≤ t.stw.chip.invalid ∧ t.smp = s.smp)
        [f32 0 t.stw.chip.bound, f32 4 t.stw.chip.retired, f32 8 t.stw.chip.spares, f16 0xC t.stw.chip.fenced,
        f32 0x10 t.stw.chip.repairs, f32 0x14 t.stw.chip.invalid] t) ∧
  (∀ r s, let c : Cmd := { code := 0x0306, allow := { s := true, t := true } }
    Taken c r s → s.fuse.plaza = true → isTenant r.issuer = true →
      ∃ t, exec (.counterStatus r) s = .next t ∧
        Completes c r { s with free := s.free + 9, stw := { s.stw with chip := t.stw.chip } }
        [f32 0 (Config.fresh (s.free + 6)), f32 4 0, f32 8 0, f16 0xC 0, f32 0x10 (Config.fresh (s.free + 7)),
        f32 0x14 (Config.fresh (s.free + 8))] [] t) ∧
  (∀ r k s, let c : Cmd := { code := 0x0309, allow := { s := true, t := true }, only := .leaf }
    Taken c r s → engineUp 2 s = true → k < 4096 → (isTenant r.issuer = true → cmpPartition k s = issuerPart r.issuer) →
      ∃ t, exec (.watermarkRead r k) s = .next t ∧
        Completes c r (onCmp k (fun x => { x with latch := none }) s) (latchPayload (cmp k s).latch) [] t) ∧
  (∀ r g s, let c : Cmd := { code := 0x030A, allow := { s := true, t := true }, only := .leaf }
    Taken c r s → engineUp 2 s = true → g < 1024 →
      (isTenant r.issuer = true → gaugePartition (gauge g s).config = issuerPart r.issuer) →
      ∃ t, exec (.gaugeRead r g) s = .next t ∧
        Completes c r s ([f16 0 (gauge g s).config.toNat,
        f16 2 (g + 1024 * gaugeSample (gauge g s).config + 4096 * bnat (gauge g s).sample.2.2),
        f32 4 (gauge g s).sample.2.1, f64 8 (gauge g s).sample.1] ++ cmpEntries g s) [] t)

/-- Group 0x04 completes: the status and the records that the block holds are reported; the retention region takes its size
and a new spill chain, and takes memory from the tree store and the trace staging buffer (R16, R98, R102, R166, R391).

Group 0x05 completes: a Forum replica that does not lead keeps what a placement command says and answers `GENERATION` 0
at once; the leader keeps it and issues the next table; the status is reported; a home role drops a transferred Leaf from
its census from the frame on, and a repeat changes nothing (R134, R137, R156, R161, R395). -/
def Obligations.LedgerPlacementCommandsComplete : Prop :=
  (∀ r s, let c : Cmd := { code := 0x0401, allow := { s := true } }
    Taken c r s → engineUp 3 s = true →
      ∃ t, exec (.ledgerStatus r) s = .next t ∧
        Completes c r s (if s.fuse.plaza then tierLedgerStatus s else leafLedgerStatus s) [] t) ∧
  (∀ r kib desc nodes staging s, let c : Cmd := { code := 0x0402, allow := {}, only := .leaf }
    Taken c r s → engineUp 3 s = true → 512 ≤ kib → kib ≤ 4096 → descOk (issuerPart r.issuer) desc s = true →
      regionUse s ≤ 1024 * kib → s.stw.regions.map (·.name) = regionNames → retainSplit kib s = some (nodes, staging) →
      ∃ t, exec (.ledgerRetainSet r kib desc) s = .next t ∧
        CompletesWith c r (fun t => regionKib .retention t = kib ∧ regionKib .nodes t = nodes ∧ regionKib .staging t = staging ∧
          (∀ n, n ≠ .retention → n ≠ .nodes → n ≠ .staging → regionKib n t = regionKib n s) ∧ t.led = s.led ∧
          tget Chain.empty s.buf.nextChain t.buf.chains
            = { Chain.empty with ckind := 2, index := 0, partition := desc.partition, cur := some desc }) [] t) ∧
  (∀ r desc frame kind s, let c : Cmd := { code := 0x0403, allow := { s := true } }
    Taken c r s → engineUp 3 s = true → 1 ≤ kind → kind ≤ 3 → recordsHeld frame kind s ≠ [] →
      descOk (issuerPart r.issuer) desc s = true →
      ∃ t, exec (.ledgerRead r desc frame kind) s = .next t ∧
        Outputs c r desc ((recordsHeld frame kind s).foldl (fun n x => n + ledgerSize x) 0) (.records (recordsHeld frame kind s)) s t) ∧
  (∀ r desc (select : BitVec 8) s, let c : Cmd := { code := 0x0404, allow := {}, only := .plaza }
    Taken c r s → engineUp 3 s = true → select.toNat < 8 → (findRole .forum s).isSome = true →
      descOk (issuerPart r.issuer) desc s = true →
      ∃ t, exec (.ledgerSinkSet r desc select) s = .next t ∧
        CompletesWith c r (fun t => t.led = { s.led with sink := select } ∧
          tget Chain.empty s.buf.nextChain t.buf.chains
            = { Chain.empty with ckind := 3, index := 0, partition := desc.partition, cur := some desc }) [] t) ∧
  (∀ r seed separation standinMin d1 d2 locations noHost s, let c : Cmd := { code := 0x0501, allow := {}, only := .plaza }
    Taken c r s → engineUp 12 s = true → separation ≤ 3 → standinMin ≤ 256 → descOk (issuerPart r.issuer) d1 s = true →
      descOk (issuerPart r.issuer) d2 s = true → (findRole .forum s).isSome = true →
      ∃ t, exec (.placeSetConstraints r seed separation standinMin d1 d2 locations noHost) s = .next t ∧
        t.place.seed = seed ∧ t.place.separation = separation ∧ t.place.standinMin = standinMin ∧
        t.place.locations = locations ∧ t.place.noHost = noHost ∧
        t.place.generation = s.place.generation + bnat (isLeader s)) ∧
  (∀ r tray s, let c : Cmd := { code := 0x0502, allow := {}, only := .plaza }
    Taken c r s → engineUp 12 s = true → tray < 1024 → (findRole .forum s).isSome = true → knownTray tray s = true →
      ∃ t, exec (.placeDrain r tray) s = .next t ∧
        t.place.drained = addOnce tray s.place.drained ∧
        t.place.generation = s.place.generation + bnat (isLeader s)) ∧
  (∀ r tray s, let c : Cmd := { code := 0x0503, allow := {}, only := .plaza }
    Taken c r s → engineUp 12 s = true → tray < 1024 → (findRole .forum s).isSome = true → tray ∈ s.place.drained →
      ∃ t, exec (.placeRestore r tray) s = .next t ∧
        t.place.drained = s.place.drained.filter (· != tray) ∧
        t.place.generation = s.place.generation + bnat (isLeader s)) ∧
  (∀ r s, let c : Cmd := { code := 0x0504, allow := { s := true } }
    Taken c r s → engineUp 12 s = true →
      ∃ t, exec (.placeStatus r) s = .next t ∧
        Completes c r s (placeStatusPayload s) [] t) ∧
  (∀ r die frame s, let c : Cmd := { code := 0x0505, allow := { p := false, q := true }, only := .plaza }
    Taken c r s → engineUp 12 s = true → die < 2 ^ 18 → (die, frame) ∉ s.place.transfers →
      ∃ t opens, exec (.placeCensusTransfer r die frame) s = .next t ∧
        opens = (match (findRole .plaza s).bind (frameNamed frame) with
          | some f => frameOpens f.frame f.period
          | none => frame * frameNs s) ∧
        CompletesWith c r (fun t => t.place = { s.place with transfers := s.place.transfers ++ [(die, frame)] } ∧
          ∀ x ∈ t.roles, x.kind = .plaza → ∀ k ∈ x.children, k.source = die → k.joinFt ≤ opens →
            ∃ f ∈ k.leaveFt, f ≤ opens) [] t) ∧
  (∀ r die frame s, let c : Cmd := { code := 0x0505, allow := { p := false, q := true }, only := .plaza }
    Taken c r s → engineUp 12 s = true → die < 2 ^ 18 → (die, frame) ∈ s.place.transfers →
      ∃ t, exec (.placeCensusTransfer r die frame) s = .next t ∧
        Completes c r s [] [] t)

/-- Group 0x01 completes, but for the tenant's forms: a PM mailbox or the sideband opens its session and closes it after the
answer; the limits and windows are set; a partition's release is accepted, its counters and gauges change at the boundary,
and at a Plaza its sessions close at once (R90, R367, R368, R371, R386).

A tenant's forms of group 0x01 complete: the open takes the lowest free slot, advances its generation and is answered
in the ring it names; the close frees the slot after the answer; a tenant reads its own partition (R362, R367, R386). -/
def Obligations.SessionCommandsComplete : Prop :=
  (∀ n (r : Req) ring ringN vector en s, let c : Cmd := { code := 0x0101, allow := { s := true, t := true } }
    n < 4 → r.issuer = .pm n → Taken c r s →
      ∃ t, exec (.sessionOpen r ring ringN vector en) s = .next t ∧
        CompletesWith c r (fun t => n ∈ t.stw.pmOpen ∧ (n ∈ t.stw.pmNotice ↔ en = true ∨ (n ∈ s.stw.pmNotice ∧ n ∉ s.stw.pmOpen)))
        (openPayload 0 0 s) t) ∧
  (∀ (r : Req) ring ringN vector en s, let c : Cmd := { code := 0x0101, allow := { s := true, t := true } }
    r.issuer = .sideband → Taken c r s →
      ∃ t, exec (.sessionOpen r ring ringN vector en) s = .next t ∧
        CompletesWith c r (fun t => t.stw.sbiOpen = true) (openPayload 0 0 s) t) ∧
  (∀ n (r : Req) s, let c : Cmd := { code := 0x0102, allow := { s := true, t := true } }
    n < 4 → r.issuer = .pm n → Taken c r s →
      ∃ t, exec (.sessionClose r) s = .next t ∧
        CompletesWith c r (fun t => n ∉ t.stw.pmOpen ∧ n ∉ t.stw.pmNotice) [] t) ∧
  (∀ (r : Req) s, let c : Cmd := { code := 0x0102, allow := { s := true, t := true } }
    r.issuer = .sideband → Taken c r s →
      ∃ t, exec (.sessionClose r) s = .next t ∧
        CompletesWith c r (fun t => t.stw.sbiOpen = false) [] t) ∧
  (∀ (r : Req) p s, let c : Cmd := { code := 0x0103, allow := { s := true, t := true } }
    Taken c r s → isTenant r.issuer = false → p ≤ 512 →
      ∃ t, exec (.sessionInfo r p) s = .next t ∧
        Completes c r s [f16 0 (openCount p s), f16 2 (tget 1 p s.stw.quotas), f32 4 (tget 0 p s.stw.dbDrops),
        f32 8 (tget 0 p s.stw.isolation), f16 0xC (freeSlots s), f16 0xE s.stw.idleS] [] t) ∧
  (∀ r p quota s, let c : Cmd := { code := 0x0104, allow := {}, relayable := true }
    Taken c r s → 1 ≤ p → p ≤ 512 → quota ≤ 8 →
      ∃ t, exec (.sessionQuotaSet r p quota) s = .next t ∧
        Completes c r (onStw (fun t => { t with quotas := tput 1 p quota t.quotas }) s) [] [] t) ∧
  (∀ r idle s, let c : Cmd := { code := 0x0105, allow := {} }
    Taken c r s → 1 ≤ idle → idle ≤ 3600 →
      ∃ t, exec (.sessionIdleSet r idle) s = .next t ∧
        Completes c r (onStw (fun t => { t with idleS := idle }) s) [] [] t) ∧
  (∀ r p window base len s, let c : Cmd := { code := 0x0106, allow := {} }
    let e := onStw (fun t => { t with windows := tput (0, 0) (4 * p + window) (if len = 0 then (0, 0) else (base, len)) t.windows }) s
    Taken c r s → p ≤ 512 → window ≤ 3 → base % 4096 = 0 → len % 4096 = 0 → chainsInside p e = true →
      ∃ t, exec (.sessionWindowSet r p window base len) s = .next t ∧
        Completes c r e [] [] t) ∧
  (∀ r p s, let c : Cmd := { code := 0x0107, allow := {}, relayable := true }
    Taken c r s → 1 ≤ p → p ≤ 512 → s.fuse.plaza = false →
      ∃ t, exec (.partitionRelease r p) s = .next t ∧
        Defers c r (onStw (fun t => { t with releasing := addOnce p t.releasing }) (releaseChanges p (changeFrame s) s))
        (.partitionRelease p) t) ∧
  (∀ r p s, let c : Cmd := { code := 0x0107, allow := {}, relayable := true }
    Taken c r s → 1 ≤ p → p ≤ 512 → s.fuse.plaza = true →
      ∃ t, exec (.partitionRelease r p) s = .next t ∧
        FinishesWith c r (fun t => p ∉ t.stw.releasing ∧
          ∀ k, (tget Slot.unused k t.stw.slots).isOpen = true → (tget Slot.unused k t.stw.slots).partition ≠ p) t) ∧
  (∀ p k0 g0 k (r : Req) ring ringN vector en s, let c : Cmd := { code := 0x0101, allow := { s := true, t := true } }
    let g := ((tget Slot.unused k s.stw.slots).generation + 1) % 1024
    r.issuer = .tenant p k0 g0 → Taken c r s → 16 ≤ ringN → ringN ≤ 4096 → ring % 64 = 0 →
      inWindows p ring (64 + 128 * ringN) s = true → lowestFree s = some k →
      ∃ t, exec (.sessionOpen r ring ringN vector en) s = .next t ∧ slotLive p k g t = true ∧
        (tget Slot.unused k t.stw.slots).ring = ring ∧ (tget Slot.unused k t.stw.slots).ringN = ringN ∧
        (tget Slot.unused k t.stw.slots).vector = vector ∧
        ∃ pl, Told (.tenant p k g) (rspMsg 0x0101 r.tag Config.ok true pl []) t) ∧
  (∀ p k g (r : Req) s, let c : Cmd := { code := 0x0102, allow := { s := true, t := true } }
    r.issuer = .tenant p k g → Taken c r s → tabWf Slot.unused s.stw.slots = true →
      (tget Slot.unused k s.stw.slots).prod - (tget Slot.unused k s.stw.slots).cons < (tget Slot.unused k s.stw.slots).ringN →
      ∃ t, exec (.sessionClose r) s = .next t ∧ (tget Slot.unused k t.stw.slots).isOpen = false ∧
        (tget Slot.unused k t.stw.slots).generation = g ∧ Told r.issuer (rspMsg 0x0102 r.tag Config.ok true [] []) t) ∧
  (∀ (r : Req) p s, let c : Cmd := { code := 0x0103, allow := { s := true, t := true } }
    Taken c r s → isTenant r.issuer = true → issuerPart r.issuer ≤ 512 →
      ∃ t, exec (.sessionInfo r p) s = .next t ∧
        Completes c r s [f16 0 (openCount (issuerPart r.issuer) s), f16 2 (tget 1 (issuerPart r.issuer) s.stw.quotas),
        f32 4 (tget 0 (issuerPart r.issuer) s.stw.dbDrops), f32 8 0, f16 0xC (freeSlots s), f16 0xE s.stw.idleS] [] t)

/-- Group 0x06 completes where it defines: a series descriptor waits for the boundary that begins `EFFECT_FRAME`, one for the
other configuration asks nothing of this block; a calendar image becomes pending and is armed; a Plaza that an arm passes
holds the job's partition; a cohort rule is set or removed and its runs start afresh; the quota is set (R167, R170, R183,
R184, R190, R252, R390).

Group 0x06 completes where it reads: a series, a histogram of the latest 1,000 frames and the conformance status go into
the chain that the descriptor heads (R170, R391, R396). -/
def Obligations.ConformanceCommandsComplete : Prop :=
  (∀ r d s, let c : Cmd := { code := 0x0601, allow := { t := true }, relayable := true }
    Taken c r s → engineUp 4 s = true → seriesFormOk d d.plaza = true → d.plaza = s.fuse.plaza →
      mayDefine r.issuer (withDefaults d) s = true → sourcesOk (withDefaults d) s = true → d.index < 4 * regionKib .series s →
      (d.enable = true →
        (isTenant r.issuer = true → seriesOf d.partition d.index s < tget 16 d.partition s.conf.quotas) ∧
        demandFits (withDefaults d :: (definedAfter s).filter fun x => x.index != d.index) s.conf.doublings s.grid.period s = true) →
      ∃ t, exec (.seriesDefine r d) s = .next t ∧
        Completes c r (onConf (fun x =>
          { x with
            pendingDefs := (x.pendingDefs.filter fun p => !(p.1 == changeFrame s && p.2.index == d.index))
              ++ [(changeFrame s, withDefaults d)] }) s)
        [f64 0 (shownFrame (changeFrame s) s)] [] t) ∧
  (∀ r d s, let c : Cmd := { code := 0x0601, allow := { t := true }, relayable := true }
    Taken c r s → engineUp 4 s = true → seriesFormOk d d.plaza = true → d.plaza ≠ s.fuse.plaza → r.relay = true →
      ∃ t, exec (.seriesDefine r d) s = .next t ∧
        Completes c r s [] [] t) ∧
  (∀ r desc image s, let c : Cmd := { code := 0x0604, allow := {}, only := .leaf }
    Taken c r s → engineUp 6 s = true → descOk (issuerPart r.issuer) desc s = true → calOk image s = true →
      ∃ t, exec (.confCalLoad r desc image) s = .next t ∧
        FinishesWith c r (fun t => t.conf.pending = some (fixMiss s image) ∧ t.conf.armed = none) t) ∧
  (∀ r anchor job i s, let c : Cmd := { code := 0x0605, allow := {}, relayable := true }
    Taken c r s → s.fuse.plaza = false → engineUp 6 s = true → s.time.ft + 10000000 ≤ anchor → s.conf.pending = some i →
      i.job = job →
      ∃ t, exec (.confCalArm r anchor job) s = .next t ∧
        Completes c r (onConf (fun x => { x with armed := some anchor }) s) [] [] t) ∧
  (∀ r anchor job s, let c : Cmd := { code := 0x0605, allow := {}, relayable := true }
    Taken c r s → s.fuse.plaza = true → engineUp 6 s = true → isCopy r.issuer = true ∨ r.relay = true →
      ∃ t, exec (.confCalArm r anchor job) s = .next t ∧
        t.conf.jobs = tput 0 job (Config.jobPartition job % 1024) s.conf.jobs) ∧
  (∀ r rule s, let c : Cmd := { code := 0x0606, allow := { t := true }, relayable := true, only := .plaza }
    Taken c r s → engineUp 6 s = true → ruleOk rule = true → jobVisible r.issuer rule.job s = true →
      ∃ t, exec (.confCohortSet r rule false) s = .next t ∧
        Completes c r (onConf (fun x =>
          { x with
            rules := x.rules ++ [{ job := rule.job, rule := rule.rule, since := s.time.ft, value := some rule }],
            runs := x.runs.filter fun y => !(y.job == rule.job && y.rule == rule.rule) }) s)
        [] [] t) ∧
  (∀ r rule s, let c : Cmd := { code := 0x0606, allow := { t := true }, relayable := true, only := .plaza }
    Taken c r s → engineUp 6 s = true → rule.rule ≤ 3 → jobVisible r.issuer rule.job s = true →
      (ruleAt rule.job rule.rule (s.time.ft + 1) s).isSome = true →
      ∃ t, exec (.confCohortSet r rule true) s = .next t ∧
        Completes c r (onConf (fun x =>
          { x with
            rules := x.rules ++ [{ job := rule.job, rule := rule.rule, since := s.time.ft, value := none }],
            runs := x.runs.filter fun y => !(y.job == rule.job && y.rule == rule.rule) }) s)
        [] [] t) ∧
  (∀ r p quota s, let c : Cmd := { code := 0x0608, allow := {}, relayable := true }
    Taken c r s → engineUp 4 s = true → p ≤ 512 → quota ≤ 8192 →
      ∃ t, exec (.seriesQuotaSet r p quota) s = .next t ∧
        Completes c r (onConf (fun x => { x with quotas := tput 16 p quota x.quotas }) s) [] [] t) ∧
  (∀ r index die desc x s, let c : Cmd := { code := 0x0602, allow := { s := true, t := true } }
    Taken c r s → engineUp 4 s = true → (s.fuse.plaza = false → die = 0) → seriesFor r.issuer index die s = some x →
      descOk (issuerPart r.issuer) desc s = true →
      ∃ t, exec (.seriesRead r index die desc) s = .next t ∧
        Outputs c r desc 256 (.seriesState x) s t) ∧
  (∀ r desc job marker key lateness scope at_ h s, let c : Cmd := { code := 0x0603, allow := { s := true, t := true } }
    Taken c r s → engineUp 4 s = true → marker < 2 ^ 24 → scope ≤ 2 →
      (s.conf.hists.find? fun x => s.time.ft < x.1 + 1000 * frameNs s && x.2.lateness == lateness && x.2.scope == scope
        && x.2.job == job && x.2.key == key && (!lateness || x.2.marker == marker)) = some (at_, h) →
      histVisible r.issuer h s = true → descOk (issuerPart r.issuer) desc s = true →
      ∃ t, exec (.histRead r desc job marker key lateness scope) s = .next t ∧
        Outputs c r desc ((histBytes h).length + 16) (.hist h) s t) ∧
  (∀ r desc job s, let c : Cmd := { code := 0x0607, allow := { s := true, t := true } }
    Taken c r s → engineUp 6 s = true → jobKnown job s = true → jobVisible r.issuer job s = true → s.fuse.plaza = true →
      descOk (issuerPart r.issuer) desc s = true →
      ∃ t, exec (.confStatus r desc job) s = .next t ∧
        Outputs c r desc (32 + 8 * (s.conf.runs.filter fun x => x.flag && x.job == job).length)
        (.confStatus (confHeader job s) ((s.conf.runs.filter fun x => x.flag && x.job == job).map fun x => (x.die, x.rule))) s t) ∧
  (∀ r desc job s, let c : Cmd := { code := 0x0607, allow := { s := true, t := true } }
    Taken c r s → engineUp 6 s = true → jobKnown job s = true → jobVisible r.issuer job s = true → s.fuse.plaza = false →
      descOk (issuerPart r.issuer) desc s = true →
      ∃ t, exec (.confStatus r desc job) s = .next t ∧
        Outputs c r desc 32 (.confStatus (confHeader job s) []) s t)

/-- The marker port and the calendar act: a strobe is captured with its ft, or dropped and counted when 64 wait; the oldest
is matched to an occurrence under its calendar, taken without valid time, or counted as unknown; a deadline resolves the
lowest open occurrence as missed or missing; at its anchor the armed calendar becomes active (R37, R184 to R187, R289). -/
def Obligations.MarkerEventsComplete : Prop :=
  (∀ mid s, s.rst.aonOk = true → mrkFrontOn s = true → s.conf.strobes.length < 64 →
    exec (.markerStrobe mid) s
      = .next (onConf (fun c => { c with strobes := c.strobes ++ [(mid % 2 ^ 24, ftStamp s, timeValid s)] }) s)) ∧
  (∀ mid s, s.rst.aonOk = true → mrkFrontOn s = true → 64 ≤ s.conf.strobes.length →
    exec (.markerStrobe mid) s
      = .next (onConf (fun c => { c with drops := c.drops + 1, dropFts := c.dropFts ++ [ftStamp s] }) s)) ∧
  (∀ mid at_ rest u e k s, let d := activateDue (onConf (fun c => { c with strobes := rest }) s)
    s.rst.aonOk = true → confUp s = true → s.conf.strobes = (mid, at_, true) :: rest →
    calendarFor at_ true d = some u → ((markersOf u.cal.image).find? fun e => e.mid == mid) = some e →
    k = max ((markOf u e.mid d).last.elim 0 (· + 1)) (nearestOcc u.cal e at_) → u.before = none → occExists u.cal e none k = true →
    ∃ t, exec .strobeMatch s = .next t ∧ t.conf.strobes = rest ∧
      t.conf.late.getLast? = some (s.time.ft,
        { marker := e.mid, lkind := if k < (markOf u e.mid d).openOcc then 3 else 0, cls := e.cls, occ := k % 2 ^ 32,
          lateness := (at_ : Int) - (expectedAt u.cal e k : Nat) }) ∧
      markOf u e.mid t = { last := some k, openOcc := max (markOf u e.mid d).openOcc (k + 1) }) ∧
  (∀ mid at_ rest u e s, let d := activateDue (onConf (fun c => { c with strobes := rest }) s)
    s.rst.aonOk = true → confUp s = true → s.conf.strobes = (mid, at_, false) :: rest →
    calendarFor at_ false d = some u → ((markersOf u.cal.image).find? fun e => e.mid == mid) = some e →
    ∃ t, exec .strobeMatch s = .next t ∧ t.conf.strobes = rest ∧ t.conf.invalidStrobes = s.conf.invalidStrobes + 1 ∧
      t.conf.late = s.conf.late ++ [(s.time.ft,
        { marker := e.mid, lkind := 4, cls := e.cls, occ := (markOf u e.mid d).openOcc % 2 ^ 32, lateness := 0 })]) ∧
  (∀ mid at_ valid rest s, let d := activateDue (onConf (fun c => { c with strobes := rest }) s)
    s.rst.aonOk = true → confUp s = true → s.conf.strobes = (mid, at_, valid) :: rest →
    (∀ u, calendarFor at_ valid d = some u → ((markersOf u.cal.image).find? fun e => e.mid == mid) = none) →
    ∃ t, exec .strobeMatch s = .next t ∧ t.conf.strobes = rest ∧ t.conf.unknown = s.conf.unknown + 1 ∧
      t.conf.late = s.conf.late) ∧
  (∀ mid u e s, s.rst.aonOk = true → confUp s = true → timeValid s = true → openUnder mid (drainStrobes s) = some (u, e) →
    ∃ t, exec (.markerDeadline mid) s = .next t ∧
      (markOf u mid t).openOcc = (markOf u mid (drainStrobes s)).openOcc + 1 ∧
      ∃ x, t.conf.late.getLast? = some (t.time.ft, x) ∧ x.marker = e.mid ∧ x.cls = e.cls ∧ x.lateness = 0 ∧
        x.occ = (markOf u mid (drainStrobes s)).openOcc % 2 ^ 32 ∧ (x.lkind = 1 ∨ x.lkind = 2)) ∧
  (∀ i a s, s.rst.aonOk = true → s.fuse.plaza = false → timeValid s = true → s.conf.pending = some i → s.conf.armed = some a →
    ∃ t, exec .calendarAnchor s = .next t ∧ t.conf.active = some { image := i, anchor := a } ∧
      (∀ c, s.conf.active = some c → t.conf.old.head? = some { cal := c, ends := a, marks := s.conf.marks }) ∧ a ≤ t.time.ft ∧
      t.conf.pending = none ∧ t.conf.armed = none ∧ t.conf.marks = [] ∧ t.test.grants = [])

/-- Series records and cohort occurrences act at the tiers: a series record of an adopted Leaf advances the sequence expected
of it, and one whose header is lost is counted; an occurrence closes at its cut-off whoever is absent and does not open
again; a threshold notice is kept with its occurrence, and judges one that has closed; a fleet notice goes down to the Plazas; a hold's
end lets the occurrence go (R189, R191, R192, R195, R196). -/
def Obligations.CohortEventsComplete : Prop :=
  (∀ (rcd : SeriesRecord) missing role k s, s.rst.aonOk = true → s.fuse.plaza = true → findRole .plaza s = some role →
    childOf rcd.die role = some k → 0 ∉ missing →
    ∃ t, exec (.seriesRecord .plaza rcd missing) s = .next t ∧
      tget 0 rcd.die t.conf.childSeq = max (tget 0 rcd.die s.conf.childSeq) (rcd.seq + 1)) ∧
  (∀ (rcd : SeriesRecord) missing role k s, s.rst.aonOk = true → s.fuse.plaza = true → findRole .plaza s = some role →
    childOf rcd.die role = some k → 0 ∈ missing →
    ∃ t, exec (.seriesRecord .plaza rcd missing) s = .next t ∧ t.conf.missingSlots = s.conf.missingSlots + 1) ∧
  (∀ role h r s, let s' := arcIngest 1 { mkEntry h.source (histBytes h).length (.hist h) s with hosted := true } s
    s.rst.aonOk = true → s.fuse.plaza = true → role ≠ .plaza → findRole role s = some r → engineUp 4 s' = true →
    exec (.histogramRecord role h) s = .next (takeHist role h r s')) ∧
  (∀ role job marker occ o r s, s.rst.aonOk = true → engineUp 4 s = true → timeValid s = true →
    findOcc role job marker occ s = some o → o.closed = false → findRole role s = some r →
    ∃ t, exec (.occurrenceCloseTimeout role job marker occ) s = .next t ∧ isShut role job marker occ t = true) ∧
  (∀ (n : ThresholdNotice) o role v s, s.rst.aonOk = true → s.fuse.plaza = true → engineUp 6 s = true →
    findRole .quarter s = none → findRole .plaza s = some role →
    findOcc .plaza n.job n.marker (n.occ % 2 ^ 32) s = some o → o.closed = false ∨ o.holdUntil.isSome = true →
    (o.noticed.find? fun x => x.rule == n.rule && x.scope == n.scope) = none →
    (o.rules.find? fun x => x.rule == n.rule && x.scope == n.scope) = some v →
    ∃ t x, exec (.thresholdNotice n) s = .next t ∧ findOcc .plaza n.job n.marker (n.occ % 2 ^ 32) t = some x ∧ n ∈ x.noticed) ∧
  (∀ (n : ThresholdNotice) o role v s, s.rst.aonOk = true → s.fuse.plaza = true → engineUp 6 s = true →
    findRole .quarter s = none → findRole .plaza s = some role →
    findOcc .plaza n.job n.marker (n.occ % 2 ^ 32) s = some o → s.conf.occs = [o] → o.closed = true → o.noticed = [] →
    o.rules = [v] → v.rule = n.rule → v.scope = n.scope → v.scope ≠ 0 → v.classMask.getLsbD o.cls = true → o.settled = [] →
    ∃ t, exec (.thresholdNotice n) s = .next t ∧
      t.conf.judged + t.conf.unjudged = s.conf.judged + s.conf.unjudged + 1) ∧
  (∀ (n : ThresholdNotice) role k s, s.rst.aonOk = true → s.fuse.plaza = true → findRole .quarter s = some role →
    sourceKind n.source = 3 → k ∈ role.children →
    ∃ t, exec (.thresholdNotice n) s = .next t ∧ Queued (.threshold n) t) ∧
  (∀ job marker occ o h s, s.rst.aonOk = true → findOcc .plaza job marker occ s = some o → o.holdUntil = some h →
    ∃ t, exec (.thresholdHoldExpiry job marker occ) s = .next t ∧ findOcc .plaza job marker occ t = none)

/-- Group 0x07 completes: an image whose checks pass and which fits becomes pending in its slot, and at a Plaza its header is
kept; a pending image becomes active at the armed frame and ends the one before; an unload ends the image at the boundary; the
quota is set; status and the latest score are reported, the last tree of an empty range and the check of an image that is not
active being free values (R205, R217, R225, R226, R228, R229, R390). -/
def Obligations.TreeCommandsComplete : Prop :=
  (∀ r desc image x s, let c : Cmd := { code := 0x0701, allow := { t := true }, relayable := true }
    let d := dropPending image.model s
    Taken c r s → engineUp 7 s = true → inputRelayOk r desc = true → descOk (issuerPart r.issuer) desc s = true →
      imageOk image = true → (isTenant r.issuer = true → image.partition = issuerPart r.issuer) →
      (∀ f ∈ image.features, featureMine image.partition f s = true) → loadSlot r image d = some x → slotFits x d = true →
      (isTenant r.issuer = true → quotaFits (issuerPart r.issuer) x d = true) →
      (s.fuse.plaza = true → x.count ≠ 0) →
      ∃ t, exec (.treeLoad r desc image) s = .next t ∧
        FinishesWith c r (fun t => x ∈ t.tree.slots ∧ (s.fuse.plaza = true → pendingHeader image s ∈ t.tree.headers)) t) ∧
  (∀ r desc image s, let c : Cmd := { code := 0x0701, allow := { t := true }, relayable := true }
    Taken c r s → engineUp 7 s = true → inputRelayOk r desc = true → descOk (issuerPart r.issuer) desc s = true →
      imageOk image = true → (isTenant r.issuer = true → image.partition = issuerPart r.issuer) →
      (∀ f ∈ image.features, featureMine image.partition f s = true) → s.fuse.plaza = true →
      loadSlot r image (dropPending image.model s) = none →
      ∃ t, exec (.treeLoad r desc image) s = .next t ∧
        FinishesWith c r (fun t => pendingHeader image s ∈ t.tree.headers) t) ∧
  (∀ r model frame i rest p s, let c : Cmd := { code := 0x0702, allow := { t := true }, relayable := true }
    let now := fun (x : TreeSlot) => (x.image, x.first, x.count, x.activeFrom, x.activeTo)
    Taken c r s → engineUp 7 s = true → imagesFor r.issuer model s = i :: rest →
      ((s.tree.slots ++ s.tree.headers).find? fun t => t.image.model == model && t.activeFrom.isNone) = some p →
      frame % p.image.scoreEvery = 0 → s.time.ft + 10000000 ≤ frame * frameNs s →
      ∃ t, exec (.treeArm r model frame) s = .next t ∧
        CompletesWith c r (fun t => t.tree.slots.map now = (armSlots model frame s.tree.slots).map now ∧
          t.tree.headers = armSlots model frame s.tree.headers) [] t) ∧
  (∀ r model frame i rest s, let c : Cmd := { code := 0x0702, allow := { t := true }, relayable := true }
    Taken c r s → engineUp 7 s = true → imagesFor r.issuer model s = i :: rest →
      ((s.tree.slots ++ s.tree.headers).find? fun t => t.image.model == model && t.activeFrom.isNone) = none →
      model ∈ s.tree.kept → frame % i.scoreEvery = 0 → s.time.ft + 10000000 ≤ frame * frameNs s →
      ∃ t, exec (.treeArm r model frame) s = .next t ∧
        Completes c r s [] [] t) ∧
  (∀ r model s, let c : Cmd := { code := 0x0703, allow := { t := true }, relayable := true }
    Taken c r s → engineUp 7 s = true → imagesFor r.issuer model s ≠ [] →
      ∃ t, exec (.treeUnload r model) s = .next t ∧
        Completes c r (onTree (fun t =>
          { t with
            slots := unloadSlots model (changeFrame s) t.slots, headers := unloadSlots model (changeFrame s) t.headers }) s)
        [f64 0 (shownFrame (changeFrame s) s)] [] t) ∧
  (∀ r p trees nodes s, let c : Cmd := { code := 0x0704, allow := {}, relayable := true }
    Taken c r s → engineUp 7 s = true → p ≤ 512 →
      ∃ t, exec (.treeQuotaSet r p trees nodes) s = .next t ∧
        Completes c r (onTree (fun t => { t with quotas := tput (0, 0) p (trees, nodes) t.quotas }) s) [] [] t) ∧
  (∀ r model x s, let c : Cmd := { code := 0x0705, allow := { s := true, t := true } }
    let mine := (s.tree.slots ++ s.tree.headers).filter fun t =>
      t.image.model == model && (!isTenant r.issuer || t.image.partition == issuerPart r.issuer)
    Taken c r s → engineUp 7 s = true → (mine.find? fun t => t.activeFrom.isSome).or mine.head? = some x →
      ∃ t, exec (.treeStatus r model) s = .next t ∧
        Completes c r (treeStatusPayload x model s).2 (treeStatusPayload x model s).1 [] t) ∧
  (∀ r model die e s, let c : Cmd := { code := 0x0706, allow := { t := true } }
    Taken c r s → engineUp 7 s = true → latestScore model (if s.fuse.plaza then die else s.die) s = some e →
      (isTenant r.issuer = true → imagesFor r.issuer model s ≠ []) →
      ∃ t, exec (.treeScoreRead r model die) s = .next t ∧
        Completes c r s [f64 0 e.sframe, f64 8 (toField 64 e.value), f16 0x10 e.scflags.toNat, f32 0x14 e.imageCrc] [] t)

/-- The tree engine's events: a finished vector leaves the queue; where this chip holds every tree from the first on the
score is the base plus the partial sums, else the vector goes on with the Leaf's partial; a node error asks for
the range again and leaves a missing slot where the score is completed here; so does the end of the wait; a Plaza takes a feature record's vector, or counts it against an absent engine, or
declares a mismatch (R208 to R214, R217 to R220, R227, R232). -/
def Obligations.TreeScoresComplete : Prop :=
  (∀ model die v rest x s, s.rst.aonOk = true → engineUp 7 s = true → takeVec model die s.tree.vecs = some (v, rest) →
    slotForVec v s = some x → s.fuse.plaza = false → x.leafTrees = x.image.dir.length →
    (∀ e, latestScore v.model v.die s = some e → e.sframe ≤ v.frame) →
    ∃ t e, exec (.scoreComplete model die false) s = .next t ∧ t.tree.vecs = rest ∧ latestScore v.model v.die t = some e ∧
      e.sframe = v.frame ∧ e.value = x.image.base + partialOf x.image 0 x.leafTrees v.values) ∧
  (∀ model die v rest x p s, s.rst.aonOk = true → engineUp 7 s = true → takeVec model die s.tree.vecs = some (v, rest) →
    slotForVec v s = some x → s.fuse.plaza = false → x.leafTrees ≠ x.image.dir.length → s.place.parent = some p →
    ∃ t f, exec (.scoreComplete model die false) s = .next t ∧ t.tree.vecs = rest ∧ Leaves 2 (.featureRec p f) t ∧
      f.frame = v.frame ∧ f.model = v.model ∧ f.values = v.values ∧ f.leafPartial = partialOf x.image 0 x.leafTrees v.values) ∧
  (∀ model die v rest x s, s.rst.aonOk = true → engineUp 7 s = true → takeVec model die s.tree.vecs = some (v, rest) →
    slotForVec v s = some x → s.fuse.plaza = true → x.home = true → x.first + x.count = x.image.dir.length →
    v.leafTrees = x.first → (∀ e, latestScore v.model v.die s = some e → e.sframe ≤ v.frame) →
    ∃ t e, exec (.scoreComplete model die false) s = .next t ∧ t.tree.vecs = rest ∧ latestScore v.model v.die t = some e ∧
      e.sframe = v.frame ∧ e.value = x.image.base + v.leafPartial + partialOf x.image x.first x.count v.values) ∧
  (∀ model die v rest x s, s.rst.aonOk = true → engineUp 7 s = true → takeVec model die s.tree.vecs = some (v, rest) →
    slotForVec v s = some x → s.fuse.plaza = false →
    ∃ t, exec (.scoreComplete model die true) s = .next t ∧ t.tree.vecs = rest ∧ reloadOf x ∈ t.tree.requested ∧
      (x.leafTrees = x.image.dir.length → (∀ e, latestScore v.model v.die s = some e → e.sframe ≤ v.frame) →
        t.tree.missing = s.tree.missing + 1 ∧
        ∃ e, latestScore v.model v.die t = some e ∧ e.sframe = v.frame ∧ e.scflags = scMissing) ∧
      (x.leafTrees ≠ x.image.dir.length → t.tree.missing = s.tree.missing ∧ t.tree.scores = s.tree.scores)) ∧
  (∀ model die frame k x s, s.rst.aonOk = true → timeValid s = true → completingHere model die frame s = some (k, x) →
    settled model die frame s = false →
    ∃ t, exec (.scoreMissingTimeout model die frame) s = .next t ∧ settled model die frame t = true ∧
      t.tree.missing = s.tree.missing + 1 ∧
      (t.tree.vecs = s.tree.vecs.filter fun v => !(v.model == model && v.die == die && v.frame == frame)) ∧
      ((∀ e, latestScore model die s = some e → e.sframe ≤ frame) →
        ∃ e, latestScore model die t = some e ∧ e.sframe = frame ∧ e.scflags = scMissing ∧ e.value = 0)) ∧
  (∀ (rcd : FeatureRecord) x s, s.rst.aonOk = true → s.fuse.plaza = true → engineUp 7 s = true →
    slotForRecord rcd.model rcd.die rcd.frame (adoptedHere rcd.die s) s = some x → x.image.imageCrc = rcd.imageCrc →
    isScoring rcd.frame (intervalAt rcd.frame x) = true →
    ∃ t v, exec (.featureRecord rcd) s = .next t ∧ t.tree.vecs = s.tree.vecs ++ [v] ∧ v.model = rcd.model ∧
      v.die = rcd.die ∧ v.frame = rcd.frame ∧ v.leafPartial = rcd.leafPartial ∧ v.leafTrees = rcd.leafTrees) ∧
  (∀ (rcd : FeatureRecord) x s, s.rst.aonOk = true → s.fuse.plaza = true → engineUp 7 s = true →
    slotForRecord rcd.model rcd.die rcd.frame (adoptedHere rcd.die s) s = some x → x.image.imageCrc ≠ rcd.imageCrc →
    ∃ t, exec (.featureRecord rcd) s = .next t ∧ t.tree.mismatches = s.tree.mismatches + 1 ∧ t.tree.vecs = s.tree.vecs ∧
      t.tree.missing = s.tree.missing + bnat (wholeHere x)) ∧
  (∀ (rcd : FeatureRecord) s, s.rst.aonOk = true → s.fuse.plaza = true → engineUp 7 s = false →
    ∃ t, exec (.featureRecord rcd) s = .next t ∧ t.tree = s.tree ∧
      t.pwr.absent = if (13, 7) ∈ s.pwr.noRetry then s.pwr.absent else tmod 0 7 (· + 1) s.pwr.absent)

/-- Scores and images travel: a completed entry from below becomes the latest of its model and die; a Quarter keeps a partial
until the parts cover every tree, and then completes with their sum and the base; a Forum replica sends the range asked for;
a range that arrives is active for every later frame, from the frame at which its image is (R217, R222, R225, R230, R231, R233). -/
def Obligations.ScoreRecordsComplete : Prop :=
  (∀ role (rcd : ScoreRecord) e s, s.rst.aonOk = true → s.fuse.plaza = true → engineUp 7 s = true →
    (findRole role s).isSome = true → rcd.scores = [e] → e.scflags.getLsbD 5 = false → latestScore e.model e.die s = none →
    role ≠ .forum → ∃ t, exec (.scoreRecord role rcd) s = .next t ∧ latestScore e.model e.die t = some e) ∧
  (∀ (rcd : ScoreRecord) e r s, let q := sourceNum rcd.source % 256
    s.rst.aonOk = true → s.fuse.plaza = true → engineUp 7 s = true →
    findRole .forum s = some r → rcd.scores = [e] → e.scflags.getLsbD 5 = false → latestScore e.model e.die s = none →
    rcd.replica = (adoptedOf q e.sframe (framePeriod e.sframe s) r).getD 0 ∨
      (∀ x ∈ s.tree.rivals, x.2.model = e.model → x.2.die = e.die → x.2.sframe = e.sframe → x.1 = rcd.replica) →
    ∃ t, exec (.scoreRecord .forum rcd) s = .next t ∧ latestScore e.model e.die t = some e) ∧
  (∀ (rcd : ScoreRecord) e h old s, s.rst.aonOk = true → s.fuse.plaza = true → engineUp 7 s = true →
    (findRole .quarter s).isSome = true → rcd.scores = [e] → e.scflags = scPartial →
    (s.tree.headers.find? fun h => h.image.model == e.model && activeAt e.sframe h) = some h → h.image.imageCrc = e.imageCrc →
    settled e.model e.die e.sframe s = false →
    ((s.tree.parts.find? fun x => x.model == e.model && x.die == e.die && x.frame == e.sframe).map (·.parts)).getD [] = old →
    partsCover h.image.dir.length 0 (insertPart (e.firstTree, e.lastTree, e.value) old) = false →
    ∃ t p, exec (.scoreRecord .quarter rcd) s = .next t ∧ p ∈ t.tree.parts ∧ p.model = e.model ∧ p.die = e.die ∧
      p.frame = e.sframe ∧ p.parts = insertPart (e.firstTree, e.lastTree, e.value) old) ∧
  (∀ (rcd : ScoreRecord) e h old s, s.rst.aonOk = true → s.fuse.plaza = true → engineUp 7 s = true →
    (findRole .quarter s).isSome = true → rcd.scores = [e] → e.scflags = scPartial →
    (s.tree.headers.find? fun h => h.image.model == e.model && activeAt e.sframe h) = some h → h.image.imageCrc = e.imageCrc →
    settled e.model e.die e.sframe s = false →
    ((s.tree.parts.find? fun x => x.model == e.model && x.die == e.die && x.frame == e.sframe).map (·.parts)).getD [] = old →
    (∀ f, latestScore e.model e.die s = some f → f.sframe ≤ e.sframe) →
    partsCover h.image.dir.length 0 (insertPart (e.firstTree, e.lastTree, e.value) old) = true →
    ∃ t f, exec (.scoreRecord .quarter rcd) s = .next t ∧ latestScore e.model e.die t = some f ∧ f.sframe = e.sframe ∧
      f.value = (insertPart (e.firstTree, e.lastTree, e.value) old).foldl (fun a p => a + p.2.2) h.image.base) ∧
  (∀ ask requester role i s, let x := askedRange ask requester i s
    s.rst.aonOk = true → stewardUp s = true → findRole .forum s = some role →
    ((keptImages s).find? fun i => i.model == ask.model && i.imageCrc == ask.imageCrc) = some i →
    ∃ t, exec (.imageRequest ask requester) s = .next t ∧
      Queued (.range requester i.model i.imageCrc x.1 x.2 ask.tray ask.home (activeSince i s)) t) ∧
  (∀ image first last tray home since s, s.rst.aonOk = true → engineUp 7 s = true → imageOk image = true → first ≤ last →
    last < image.dir.length → (∀ x ∈ s.tree.slots, holdsRange image first last tray home x = false) →
    slotFits (pendingSlot image first (last + 1 - first) (leafRange image) home tray s) s = true →
    ∃ t x, exec (.ensembleRange image first last tray home since) s = .next t ∧ x ∈ t.tree.slots ∧ x.image = image ∧
      x.first = first ∧ x.count = last + 1 - first ∧ x.home = home ∧ x.tray = tray ∧
      x.activeFrom = since.map (fun f => max f (nextFrame s)) ∧
      ∀ a ∈ t.tree.requested, ¬ (a.model = image.model ∧ a.imageCrc = image.imageCrc ∧ a.home = home ∧ a.tray = tray)) ∧
  (∀ image first last tray home since x s, s.rst.aonOk = true → engineUp 7 s = true → imageOk image = true → first ≤ last →
    last < image.dir.length → s.tree.slots.find? (holdsRange image first last tray home) = some x →
    x.activeFrom.isSome = true ∨ since = none →
    ∃ t, exec (.ensembleRange image first last tray home since) s = .next t ∧ t.tree.slots = s.tree.slots ∧
      ∀ a ∈ t.tree.requested, ¬ (a.model = image.model ∧ a.imageCrc = image.imageCrc ∧ a.home = home ∧ a.tray = tray)) ∧
  (∀ image first last tray home f x s, s.rst.aonOk = true → engineUp 7 s = true → imageOk image = true → first ≤ last →
    last < image.dir.length → s.tree.slots.find? (holdsRange image first last tray home) = some x → x.activeFrom = none →
    ∃ t y, exec (.ensembleRange image first last tray home (some f)) s = .next t ∧ y ∈ t.tree.slots ∧ y.image = x.image ∧
      y.first = x.first ∧ y.count = x.count ∧ y.activeFrom = some (max f (nextFrame s)))

/-- Group 0x08 completes: status, hold, release, restore and locate of the Arcade; a query is accepted and waits, a cancelled
one ends with its result in the chain, and the queue is reported (R245, R247, R252, R253, R255, R257, R258, R396).

Group 0x09 completes: a key and table that pass are armed for the anchor, as a Leaf's next and a Plaza's for its roles;
the status and the latest verdict are reported (R266, R270, R282). -/
def Obligations.ArcadeDigestCommandsComplete : Prop :=
  (∀ r s, let c : Cmd := { code := 0x0801, allow := { s := true }, only := .plaza }
    Taken c r s → engineUp 13 s = true →
      ∃ t, exec (.arcadeStatus r) s = .next t ∧
        Completes c r s [f8 0 ((livePorts s).foldl (fun n p => n + 2 ^ p) 0),
        f64 8 (segmentBytes * segmentsPerPort * (livePorts s).length - heldBytes s), f64 0x10 s.arc.ingestLast,
        f64 0x18 (listMin 0 ((liveSegments s).map (·.firstFt))), f64 0x20 s.arc.skippedTotal, f8 0x28 s.arc.holds.length,
        f64 0x30 (heldBytes s)] [] t) ∧
  (∀ r (logs : BitVec 8) a b gs s, let c : Cmd := { code := 0x0802, allow := {}, only := .plaza }
    Taken c r s → engineUp 13 s = true → logs.toNat < 32 → a ≤ b → gs = s.arc.segments.filter (inHold logs a b) →
      s.arc.holds.length < 8 → heldBytes s + segmentBytes * (gs.filter fun g => !g.held).length ≤ 2 ^ 40 →
      ∃ t, exec (.arcadeHold r logs a b) s = .next t ∧
        CompletesWith c r (fun t =>
          (∃ h ∈ t.arc.holds, h.id = s.arc.nextHold % 256 ∧ h.segs = gs.map (·.seq) ∧ h.ends = s.time.timer + 3600000000000) ∧
          ∀ g ∈ t.arc.segments, g.seq ∈ gs.map (·.seq) → g.held = true)
        [f8 0 (s.arc.nextHold % 256), f64 8 (listMin 0 (gs.map (·.firstFt))), f64 0x10 (listMax (gs.map (·.lastFt))),
          f64 0x18 (segmentBytes * gs.length)] t) ∧
  (∀ r id s, let c : Cmd := { code := 0x0803, allow := {}, only := .plaza }
    Taken c r s → engineUp 13 s = true → (∃ h ∈ s.arc.holds, h.id = id) →
      ∃ t, exec (.arcadeRelease r id) s = .next t ∧
        Completes c r (endHold id s) [] [] t) ∧
  (∀ r port s, let c : Cmd := { code := 0x0804, allow := {}, only := .plaza }
    Taken c r s → engineUp 13 s = true → port < 8 → s.fence.getLsbD (Config.memFenceLine port % 256) = false →
      ∃ t, exec (.arcadePortRestore r port) s = .next t ∧
        CompletesWith c r (fun t => port ∉ t.arc.deadPorts ∧
          (port ∈ s.arc.deadPorts → ∀ g ∈ t.arc.segments, g.port ≠ port)) [] t) ∧
  (∀ r desc tray a b q es s, let c : Cmd := { code := 0x0805, allow := { s := true }, only := .plaza }
    Taken c r s → engineUp 13 s = true → tray < 1024 → a ≤ b → findRole .quarter s = some q → q.number = quarterOf tray →
      descOk (issuerPart r.issuer) desc s = true →
      es = (((liveSegments s).flatMap (·.entries)).flatMap (carriedBy tray a b)).foldl (fun l x => addCarried x l) [] →
      ∃ t, exec (.arcadeLocate r desc tray a b) s = .next t ∧
        Outputs c r desc (32 * es.length) (.locate es) s t) ∧
  (∀ r addr query desc s, let c : Cmd := { code := 0x0806, allow := { t := true }, only := .plaza }
    Taken c r s → engineUp 11 s = true → addr % 64 = 0 → (isTenant r.issuer = true → tenantQueryBad query = false) →
      inWindows (issuerPart r.issuer) addr 112 s = true → descOk (issuerPart r.issuer) desc s = true →
      queryFormOk query = true → queueFull r.issuer s = false →
      ∃ q : QueryState, q.query = (if isTenant r.issuer then { query with engines := min 4 query.engines } else query) ∧
        q.issuer = r.issuer ∧ q.chain = s.buf.nextChain ∧ isWaiting q = true ∧
        ∃ t, exec (.backscanSubmit r addr query desc) s = .next t ∧
        Defers c r (onArc (fun x => { x with queries := x.queries ++ [q] }) (chainOpen 4 0 desc.partition desc s).2)
          (.query query.queryId) t) ∧
  (∀ r id q s, let c : Cmd := { code := 0x0807, allow := { t := true }, only := .plaza }
    Taken c r s → engineUp 11 s = true →
      (s.arc.queries.find? fun q => q.query.queryId == id && !q.done && q.result.isNone) = some q → mayName r.issuer q = true →
      ∃ t, exec (.backscanCancel r id) s = .next t ∧
        CompletesWith c r (fun t => ∃ x ∈ t.arc.queries, x.chain = q.chain ∧ x.running = false ∧ x.result.isSome = true) [] t) ∧
  (∀ r id q s, let c : Cmd := { code := 0x0808, allow := { s := true, t := true }, only := .plaza }
    Taken c r s → engineUp 11 s = true → id ≠ 0 →
      ((s.arc.queries.filter (mayName r.issuer)).reverse.find? fun q => q.query.queryId == id) = some q →
      ∃ t, exec (.backscanStatus r id) s = .next t ∧
        Completes c r s [f8 0 (queryCode q), f16 4 ((s.arc.queries.filter (mayName r.issuer)).filter isWaiting).length,
        f8 6 (enginesFree s), f32 8 s.arc.queriesLost] [] t) ∧
  (∀ r s, let c : Cmd := { code := 0x0808, allow := { s := true, t := true }, only := .plaza }
    Taken c r s → engineUp 11 s = true →
      ∃ t, exec (.backscanStatus r 0) s = .next t ∧
        Completes c r s [f8 0 0, f16 4 ((s.arc.queries.filter (mayName r.issuer)).filter isWaiting).length,
        f8 6 (enginesFree s), f32 8 s.arc.queriesLost] [] t) ∧
  (∀ r key job anchor desc table s, let c : Cmd := { code := 0x0901, allow := {}, relayable := true }
    Taken c r s → engineUp 8 s = true → 2 ≤ key → key < digestP → inputRelayOk r desc = true →
      s.time.ft + 10000000 ≤ anchor → descOk (issuerPart r.issuer) desc s = true → collTableOk table s = true →
      ∃ t, exec (.digestArm r key job anchor desc table.length table) s = .next t ∧
        FinishesWith c r (fun t =>
          if s.fuse.plaza then ({ job := job, key := key, anchor := anchor, table := table } : KeyTable) ∈ t.dig.tables
          else t.dig.next = some { job := job, key := key, anchor := anchor, table := table } ∧
            t.dig.current = (dueKey s).dig.current) t) ∧
  (∀ r job s, let c : Cmd := { code := 0x0902, allow := { s := true, t := true } }
    let seen := fun (p : Verdict → Bool) => (s.dig.verdicts.filter fun v => v.job == job && p v).length
    Taken c r s → engineUp 8 s = true → digestKnows job s = true → jobVisible r.issuer job s = true →
      ∃ t, exec (.digestStatus r job) s = .next t ∧
        Completes c r s [f64 0 (tget 0 job s.dig.jobOk), f64 8 (tget 0 job s.dig.jobBad), f64 0x10 (tget 0 job s.dig.jobNone),
        f16 0x18 (s.dig.streams.filter fun x => x.job == job).length, f32 0x1C s.dig.overruns,
        f32 0x20 (seen fun v => v.verdict != 3), f32 0x24 (seen fun v => v.verdict == 1),
        f32 0x28 (seen fun v => v.verdict == 2)] [] t) ∧
  (∀ r job coll inst v s, let c : Cmd := { code := 0x0903, allow := { t := true } }
    Taken c r s → engineUp 8 s = true → jobVisible r.issuer job s = true →
      (s.dig.verdicts.filter fun v => v.job == job && v.coll == coll && (inst == 0 || v.inst == inst)).getLast? = some v →
      ∃ t, exec (.digestVerdictRead r job coll inst) s = .next t ∧
        Completes c r s ([f32 0 v.job, f32 4 v.coll, f32 8 v.inst, f8 0xC v.verdict, f64 0x10 v.result.toNat, f32 0x18 v.nMaj,
        f32 0x1C v.nOther, f32 0x20 v.nAbsent] ++ (if s.fuse.plaza then [] else [⟨0x28, 256, v.suspects.toNat⟩])) [] t)

/-- The Arcade's events: an answered operation is over, and what waited for its allocation is issued; a staged
entry is released with its last acknowledgement; an engine's segment is seen with its last read; an error or 100 ms of silence
counts against the port, and the operation is issued again; a port whose link falls is dead, fenced and in the Cul-de-sac; an open segment is sealed
after 1 s; a hold ends (R237, R239, R244, R245, R256, R257). -/
def Obligations.ArcadeEventsComplete : Prop :=
  (∀ port tag o s, s.rst.aonOk = true → (s.arc.ops.find? fun o => o.port == port && o.tag == tag) = some o →
    (∀ c e, o.use ≠ .scan c e) →
    ∃ t, exec (.memResponse port tag false) s = .next t ∧
      t.arc.ops.length + t.arc.waiting.length + (s.arc.ops.filter fun o => o.port == port && o.tag == tag).length
        = s.arc.ops.length + s.arc.waiting.length) ∧
  (∀ port tag o id s, s.rst.aonOk = true → (s.arc.ops.find? fun o => o.port == port && o.tag == tag) = some o →
    o.use = .entry id → (∀ x ∈ s.arc.staged, x.id = id → x.left = 1) →
    ∃ t, exec (.memResponse port tag false) s = .next t ∧ ∀ x ∈ t.arc.staged, x.id ≠ id) ∧
  (∀ port tag o chain engine q c x next lines got g s, s.rst.aonOk = true → (s.arc.ops.find? fun o => o.port == port && o.tag == tag) = some o →
    o.use = .scan chain engine → runningQuery chain s = some q → (q.scans.find? fun c => c.engine == engine) = some c →
    c.cur = some (x, next, lines, got) → (s.arc.segments.find? fun g => g.seq == x) = some g →
    ∃ t p, exec (.memResponse port tag false) s = .next t ∧ runningQuery chain t = some p ∧
      (got + 1 < lines →
        ∃ d n, (p.scans.find? fun c => c.engine == engine) = some d ∧ d.cur = some (x, n, lines, got + 1)) ∧
      (lines ≤ got + 1 → ∀ e ∈ g.entries, (x, e) ∈ p.seen)) ∧
  (∀ port tag o s, s.rst.aonOk = true → (s.arc.ops.find? fun o => o.port == port && o.tag == tag) = some o →
    recentErrors port s < 15 → port ∉ s.arc.deadPorts →
    ∃ t x, exec (.memResponse port tag true) s = .next t ∧ t.arc.errors = s.arc.errors ++ [(port, t.time.ft)] ∧
      (x ∈ t.arc.ops ∨ x ∈ t.arc.waiting) ∧ x.port = port ∧ x.write = o.write ∧ x.addr = o.addr ∧ x.use = o.use) ∧
  (∀ port tag o s, s.rst.aonOk = true → (s.arc.ops.find? fun o => o.port == port && o.tag == tag) = some o →
    recentErrors port s < 15 → port ∉ s.arc.deadPorts →
    ∃ t x, exec (.memOpTimeout port tag) s = .next t ∧ t.arc.errors = s.arc.errors ++ [(port, t.time.ft)] ∧
      (x ∈ t.arc.ops ∨ x ∈ t.arc.waiting) ∧ x.port = port ∧ x.write = o.write ∧ x.addr = o.addr ∧ x.use = o.use) ∧
  (∀ port s, s.rst.aonOk = true → s.fuse.plaza = true → port < 8 → port ∉ s.arc.deadPorts → (7, port) ∉ s.pwr.culDeSac →
    ∃ t, exec (.memLinkLoss port) s = .next t ∧ port ∈ t.arc.deadPorts ∧ (7, port) ∈ t.pwr.culDeSac ∧
      t.fence.getLsbD (Config.memFenceLine port % 256) = true ∧ ∀ g ∈ t.arc.segments, g.port = port → g.lost = true) ∧
  (∀ log g s, s.rst.aonOk = true → timeValid s = true → openSegment log s = some g → g.entries ≠ [] →
    ∃ t, exec (.segmentSealTimeout log) s = .next t ∧ ∀ x ∈ t.arc.segments, x.seq = g.seq → x.sealed = true) ∧
  (∀ id h s, s.rst.aonOk = true → (s.arc.holds.find? fun h => h.id == id) = some h →
    ∃ t, exec (.arcadeHoldExpiry id) s = .next t ∧ t.arc.holds = s.arc.holds.filter fun h => h.id != id)

/-- Backscan's events: the query whose turn it is starts with its snapshot point, and ends complete or at 10 s with its result
held for its chain (R250, R253, R255). -/
def Obligations.BackscanEventsComplete : Prop :=
  (∀ q s, s.rst.aonOk = true → s.fuse.plaza = true → engineUp 11 s = true → nextQuery s = some q →
    ∃ t, exec .backscanStart s = .next t ∧ ∃ x ∈ t.arc.queries, x.chain = q.chain ∧ x.running = true ∧
      x.startFt = some s.time.ft ∧ x.deadline = some (s.time.timer + 10000000000)) ∧
  (∀ id q s, s.rst.aonOk = true → engineUp 11 s = true → q.running = true →
    (s.arc.queries.find? fun q => q.query.queryId == id && !q.done && q.result.isNone) = some q →
    ∃ t, exec (.backscanComplete id) s = .next t ∧
      ∃ x ∈ t.arc.queries, x.chain = q.chain ∧ x.running = false ∧ x.result.isSome = true) ∧
  (∀ id p q s, s.rst.aonOk = true → (s.arc.queries.find? fun q => q.query.queryId == id && q.running) = some p →
    (s.arc.queries.find? fun q => q.query.queryId == id && !q.done && q.result.isNone) = some q →
    ∃ t, exec (.backscanTimeout id) s = .next t ∧
      ∃ x ∈ t.arc.queries, x.chain = q.chain ∧ x.running = false ∧ x.result.isSome = true)

/-- The buffer master's events and the append: a ring write's answer frees its operation; a write's error counts a fault and
an overrun of its chain; the answer to a close or to an output's last buffer completes the descriptor; 1 ms of silence counts a
fault; a descriptor joins its chain's tail, and an exhausted chain goes on in it (R92, R325, R373, R391, R406). -/
def Obligations.BufferEventsComplete : Prop :=
  (∀ id next op k s, s.rst.aonOk = true → (s.buf.ops.find? fun o => o.id == id) = some op → op.use = .ringWrite k →
    exec (.bufResponse id false next) s = .next (bufRetire id s)) ∧
  (∀ id next op n lost s, s.rst.aonOk = true → (s.buf.ops.find? fun o => o.id == id) = some op → op.use = .write n lost →
    exec (.bufResponse id false next) s = .next (bufRetire id s)) ∧
  (∀ id next op n lost s, s.rst.aonOk = true → (s.buf.ops.find? fun o => o.id == id) = some op → op.use = .write n lost →
    ∃ t, exec (.bufResponse id true next) s = .next t ∧ t.buf.faults = s.buf.faults + 1 ∧
      (tget Chain.empty n t.buf.chains).overruns = (tget Chain.empty n s.buf.chains).overruns + 1) ∧
  (∀ id next op n d s, s.rst.aonOk = true → (s.buf.ops.find? fun o => o.id == id) = some op → op.use = .close n →
    (tget Chain.empty n s.buf.chains).closing = some d →
    ∃ t flags, exec (.bufResponse id false next) s = .next t ∧ Out.buf d.partition n
      (.completion d.descId (tget Chain.empty n s.buf.chains).fill Config.ok flags (ftStamp s)) ∈ t.out) ∧
  (∀ id next op n rest fill d s, s.rst.aonOk = true → (s.buf.ops.find? fun o => o.id == id) = some op →
    op.use = .output n rest fill → (tget Chain.empty n s.buf.chains).closing = some d →
    ∃ t flags, exec (.bufResponse id false next) s = .next t ∧ Out.buf d.partition n
      (.completion d.descId (tget Chain.empty n s.buf.chains).fill Config.ok flags (ftStamp s)) ∈ t.out) ∧
  (∀ id op s, s.rst.aonOk = true → (s.buf.ops.find? fun o => o.id == id) = some op →
    ∃ t, exec (.bufTimeout id) s = .next t ∧ t.buf.faults = s.buf.faults + 1) ∧
  (∀ r k chain n x desc s, let c : Cmd := { code := 0x0B06, allow := { t := true } }
    Taken c r s → k ≤ 3 → chainFind k (if k = 0 then chain else if k = 1 then issuerPart r.issuer else 0) s = some (n, x) →
      x = tget Chain.empty n s.buf.chains → mayAppend r.issuer x = true → descOk (issuerPart r.issuer) desc s = true →
      (x.cur.isSome = true ∨ x.closing.isSome = true) →
      ∃ t, exec (.bufChainAppend r k chain desc) s = .next t ∧
        Completes c r (onChain n (fun y => { y with queue := y.queue ++ [desc] }) s) [] [] t) ∧
  (∀ r k chain n x desc s, let c : Cmd := { code := 0x0B06, allow := { t := true } }
    Taken c r s → k ≤ 3 → chainFind k (if k = 0 then chain else if k = 1 then issuerPart r.issuer else 0) s = some (n, x) →
      x = tget Chain.empty n s.buf.chains → mayAppend r.issuer x = true → descOk (issuerPart r.issuer) desc s = true →
      x.cur = none → x.closing = none → x.held = [] →
      ∃ t, exec (.bufChainAppend r k chain desc) s = .next t ∧
        CompletesWith c r (fun t => (tget Chain.empty n t.buf.chains).cur = some desc ∧ (tget Chain.empty n t.buf.chains).fill = 0) [] t)

/-- The digest engine's events at a Leaf: the armed key comes into force at its anchor; a beat opens its stream or joins it,
and is counted where the queue, the stream table or the engine cannot take it; a digest list's word meets its chunk; a whole
chunk is digested as it leaves, arrives or joins a result; a list that does not come leaves its chunks unchecked; a retained
instance is let go; a verdict notice is kept, or counted where it finds nothing to suspect (R260 to R268, R271, R272, R279). -/
def Obligations.DigestLeafEventsComplete : Prop :=
  (∀ x s, s.rst.aonOk = true → timeValid s = true → s.fuse.plaza = false → s.dig.next = some x →
    ∃ t, exec .digestKeyAnchor s = .next t ∧ t.dig.current = some x ∧ t.dig.next = none) ∧
  (∀ x s, s.rst.aonOk = true → timeValid s = true → s.fuse.plaza = true →
    (s.dig.tables.find? fun t => s.time.ft < t.anchor) = some x →
    ∃ t, exec .digestKeyAnchor s = .next t ∧ x ∈ t.dig.tables ∧ ∀ y ∈ t.dig.tables, y.job = x.job → y = x) ∧
  (∀ b s, s.rst.aonOk = true → tapFrontOn s = true → digestUp s = true → b.kind ≠ 3 → streamOf (beatId b) s = none →
    beatWanted b (dueKey s) = true → tapQueued s + b.bytes ≤ tapRoom s → s.dig.streams.length < 4096 →
    ∃ t, exec (.tapBeat b) s = .next t ∧
      streamOf (beatId b) t = some (takeBeat b false s.time.timer (openStream b (dueKey s)))) ∧
  (∀ b x s, s.rst.aonOk = true → tapFrontOn s = true → digestUp s = true → b.kind ≠ 3 → streamOf (beatId b) s = some x →
    tapQueued s + b.bytes ≤ tapRoom s →
    ∃ t, exec (.tapBeat b) s = .next t ∧ streamOf (beatId b) t = some (takeBeat b false s.time.timer x)) ∧
  (∀ b x s, s.rst.aonOk = true → tapFrontOn s = true → digestUp s = true → b.kind ≠ 3 →
    streamOf (beatId b) s = some x ∨
      (streamOf (beatId b) s = none ∧ x = openStream b (dueKey s) ∧ beatWanted b (dueKey s) = true ∧ s.dig.streams.length < 4096) →
    tapRoom s < tapQueued s + b.bytes →
    ∃ t, exec (.tapBeat b) s = .next t ∧ t.dig.overruns = s.dig.overruns + 1 ∧ t.dig.overrunFrame = true ∧
      streamOf (beatId b) t = some (takeBeat b true s.time.timer x)) ∧
  (∀ b s, s.rst.aonOk = true → tapFrontOn s = true → digestUp s = true → b.kind ≠ 3 → streamOf (beatId b) s = none →
    beatWanted b (dueKey s) = true → 4096 ≤ s.dig.streams.length →
    ∃ t, exec (.tapBeat b) s = .next t ∧ t.dig.tableFull = s.dig.tableFull + 1 ∧ t.dig.streams = s.dig.streams) ∧
  (∀ b x w s, s.rst.aonOk = true → tapFrontOn s = true → digestUp s = true → b.kind = 3 → b.words = [w] →
    streamOf { beatId b with kind := 1 } s = some x → w ≠ noDigest →
    (x.mine.find? fun m => m.1 == b.off / 8) = some (b.off / 8, some w) →
    ∃ t, exec (.tapBeat b) s = .next t ∧ t.dig.chkOk = s.dig.chkOk + 1) ∧
  (∀ b s, s.rst.aonOk = true → tapFrontOn s = true → digestUp s = false →
    ∃ t, exec (.tapBeat b) s = .next t ∧ t.dig.overruns = s.dig.overruns + 1 ∧ t.dig.overrunFrame = true ∧
      ∀ x, b.kind ≠ 3 → streamOf (beatId b) s = some x →
        streamOf (beatId b) t = some (takeBeat b true s.time.timer x)) ∧
  (∀ id x chunk words len spoilt rest v s, s.rst.aonOk = true → digestUp s = true → s.fuse.plaza = false →
    streamOf id s = some x → x.ready = (chunk, words, len, spoilt) :: rest → chunkDigest x words len spoilt = some v →
    x.id.kind = 0 →
    ∃ t, exec (.tapChunkDigest id) s = .next t ∧ Out.tapDout v x.id.coll x.id.inst x.id.peer chunk ∈ t.out) ∧
  (∀ id x chunk words len spoilt rest v s, s.rst.aonOk = true → digestUp s = true → s.fuse.plaza = false →
    streamOf id s = some x → x.ready = (chunk, words, len, spoilt) :: rest → chunkDigest x words len spoilt = some v →
    x.id.kind = 1 → v ≠ noDigest → (x.carried.find? fun c => c.1 == chunk) = some (chunk, v) →
    ∃ t, exec (.tapChunkDigest id) s = .next t ∧ t.dig.chkOk = s.dig.chkOk + 1) ∧
  (∀ id x chunk words len spoilt rest s, s.rst.aonOk = true → digestUp s = true → s.fuse.plaza = false →
    streamOf id s = some x → x.ready = (chunk, words, len, spoilt) :: rest → x.id.kind = 2 → x.ended = false →
    ∃ t y, exec (.tapChunkDigest id) s = .next t ∧ streamOf id t = some y ∧ y.ready = rest ∧
      y.digests = tput noDigest chunk ((chunkDigest x words len spoilt).getD noDigest) x.digests) ∧
  (∀ id x s, s.rst.aonOk = true → streamOf id s = some x → x.id.kind = 1 → x.ended = true → x.ready = [] → x.words = [] →
    ∃ t, exec (.digestListTimeout id) s = .next t ∧ streamOf id t = none ∧
      t.dig.chkNone = s.dig.chkNone + x.mine.length + x.carried.length) ∧
  (∀ job coll inst x s, s.rst.aonOk = true →
    (s.dig.retained.find? fun r => r.result.job == job && r.result.coll == coll && r.result.inst == inst) = some x →
    ∃ t, exec (.unitMaskExpiry job coll inst) s = .next t ∧ t.dig.retained
      = s.dig.retained.filter fun r => !(r.result.job == job && r.result.coll == coll && r.result.inst == inst)) ∧
  (∀ (n : VerdictNotice) s, s.rst.aonOk = true → s.fuse.plaza = false → digestUp s = true →
    (s.dig.retained.find? fun r => r.result.job == n.job && r.result.coll == n.coll && r.result.inst == n.inst) = none →
    ∃ t, exec (.verdictNoticeLeaf n) s = .next t ∧ t.dig.idleNotices = s.dig.idleNotices + 1) ∧
  (∀ (n : VerdictNotice) x s, s.rst.aonOk = true → s.fuse.plaza = false → digestUp s = true →
    (s.dig.retained.find? fun r => r.result.job == n.job && r.result.coll == n.coll && r.result.inst == n.inst) = some x →
    (unitsOf (suspectMask x n.stripes)).length ≤ 8 →
    ∃ t, exec (.verdictNoticeLeaf n) s = .next t ∧ verdictOf n (suspectMask x n.stripes) ∈ t.dig.verdicts ∧
      t.dig.suspects = s.dig.suspects ++ (unitsOf (suspectMask x n.stripes)).map fun u => (u, s.time.ft))

/-- Digests at the tiers: a rank's result stands in the tally of its instance, which is open or closed; a child's block is
heard once; a verdict notice is held with the results it judges; a hold ends; an engine that is off counts what it cannot take
(R22, R273 to R276, R278). -/
def Obligations.DigestTierEventsComplete : Prop :=
  (∀ (rcd : DigestRecord) role k x e s, s.rst.aonOk = true → s.fuse.plaza = true → digestUp s = true →
    findRole .plaza s = some role → childOf rcd.die role = some k → rcd.results = [x] → x.incomplete = false →
    (tableFor x.job s).bind (collEntry x.coll) = some e → e.checkResult = true →
    ∃ t, exec (.digestRecord .plaza rcd) s = .next t ∧
      ((∃ y ∈ t.dig.tallies, isTally .plaza x.job x.coll x.inst y = true ∧ (rcd.die, x.result) ∈ y.entries) ∨
        tallyShut .plaza x.job x.coll x.inst t = true)) ∧
  (∀ (rcd : DigestRecord) s, s.rst.aonOk = true → s.fuse.plaza = true → digestUp s = false →
    ∃ t, exec (.digestRecord .plaza rcd) s = .next t ∧ t.dig = s.dig ∧
      t.pwr.absent = if (13, 8) ∈ s.pwr.noRetry then s.pwr.absent else tmod 0 8 (· + 1) s.pwr.absent) ∧
  (∀ role (rcd : TallyRecord) b e s, s.rst.aonOk = true → s.fuse.plaza = true → digestUp s = true → role ≠ .plaza →
    (findRole role s).isSome = true → rcd.blocks = [b] → (tableFor b.job s).bind (collEntry b.coll) = some e →
    e.checkResult = true →
    ∃ t, exec (.tallyRecord role rcd) s = .next t ∧
      ((∃ y ∈ t.dig.tallies, isTally role b.job b.coll b.inst y = true ∧ rcd.source ∈ y.heard) ∨
        tallyShut role b.job b.coll b.inst t = true)) ∧
  (∀ (n : VerdictNotice) h s, s.rst.aonOk = true → s.fuse.plaza = true → digestUp s = true →
    (findRole .plaza s).isSome = true → heldFor n s = some h → h.noticed = none →
    ∃ t, exec (.verdictNoticePlaza n) s = .next t ∧ verdictOf n 0 ∈ t.dig.verdicts ∧
      ∃ x, heldFor n t = some x ∧ x.noticed = some n ∧ x.ranks = h.ranks) ∧
  (∀ (n : VerdictNotice) role k s, s.rst.aonOk = true → s.fuse.plaza = true → findRole .quarter s = some role →
    sourceKind n.source = 3 → k ∈ role.children →
    ∃ t, exec (.verdictNoticePlaza n) s = .next t ∧ Queued (.verdict k.source n) t) ∧
  (∀ job coll inst h s, s.rst.aonOk = true →
    (s.dig.heldResults.find? fun h => h.job == job && h.coll == coll && h.inst == inst) = some h →
    ∃ t, exec (.resultHoldExpiry job coll inst) s = .next t ∧ t.dig.heldResults
      = s.dig.heldResults.filter fun h => !(h.job == job && h.coll == coll && h.inst == inst))

/-- Group 0x0A's test commands complete: a package that passes its checks takes the place of an older revision, with a
history record; it is unloaded with its due state; an idle grant is recorded while no calendar is active; the status of one
package, or of all, is reported (R284 to R289, R294, R299).

Group 0x0A's fence commands complete: a line is asserted, or released if it is asserted, with a history record; the history
is read inline or into a chain; a resource of the Cul-de-sac is taken back with a history record (R296, R299, R300, R301). -/
def Obligations.TestFenceCommandsComplete : Prop :=
  (∀ r desc patDesc pkg s, let c : Cmd := { code := 0x0A01, allow := {} }
    Taken c r s → descOk (issuerPart r.issuer) desc s = true → descOk (issuerPart r.issuer) patDesc s = true →
      patDesc.partition = 0 → pkgReject pkg s = none → pkgRoom pkg s = true → pkg.patBytes ≤ patDesc.len →
      ∃ t, exec (.testPkgLoad r desc patDesc pkg) s = .next t ∧
        FinishesWith c r (fun t => t.test.pkgs = (s.test.pkgs.filter fun q => q.pkgId != pkg.pkgId) ++ [pkg] ∧
          t.test.pairs = (s.test.pairs.filter fun x => x.pkgId != pkg.pkgId) ++ newPairs pkg s.time.timer s.test.pairs ∧
          t.nv.queue = s.nv.queue ++ [historyRec 5 3 0 0 0 pkg.pkgId pkg.pkgRev s]) t) ∧
  (∀ r id s, let c : Cmd := { code := 0x0A02, allow := {} }
    Taken c r s → (∃ q ∈ s.test.pkgs, q.pkgId = id) →
      ∃ t, exec (.testPkgUnload r id) s = .next t ∧
        Completes c r (onTest (fun t =>
          { t with
            pkgs := t.pkgs.filter fun q => q.pkgId != id, disabled := t.disabled.filter (· != id),
            pairs := t.pairs.filter fun x => x.pkgId != id }) s) [] [] t) ∧
  (∀ r a b start ms s, let c : Cmd := { code := 0x0A03, allow := {} }
    Taken c r s → a ≤ b → b ≤ 255 → 1 ≤ ms → ms ≤ 60000 → s.conf.active = none → s.time.ft + 1000000 ≤ start →
      ∃ t, exec (.testIdleGrant r a b start ms) s = .next t ∧
        Completes c r (onTest (fun t =>
          { t with
            grants := t.grants ++ [{ unitFirst := a, unitLast := b, start := start, len := ms * 1000000, ends := none }] }) s)
        [] [] t) ∧
  (∀ r s, let c : Cmd := { code := 0x0A04, allow := { s := true } }
    Taken c r s →
      ∃ t, exec (.testStatus r 0) s = .next t ∧
        Completes c r s (testStatusPayload (fun _ => true) 0 s) [] t) ∧
  (∀ r id q s, let c : Cmd := { code := 0x0A04, allow := { s := true } }
    Taken c r s → id ≠ 0 → (s.test.pkgs.find? fun q => q.pkgId == id) = some q →
      ∃ t, exec (.testStatus r id) s = .next t ∧
        Completes c r s (testStatusPayload (fun k => k == id) q.pkgRev s) [] t) ∧
  (∀ r line s, let c : Cmd := { code := 0x0A05, allow := {} }
    Taken c r s → line ≤ 255 →
      ∃ t, exec (.fenceSet r line) s = .next t ∧
        CompletesWith c r (fun t => t.fence = putBit s.fence line true ∧
        t.nv.queue = s.nv.queue ++ [historyRec 1 3 line 0 0 0 0 s]) [] t) ∧
  (∀ r line s, let c : Cmd := { code := 0x0A06, allow := {} }
    Taken c r s → line ≤ 255 → s.fence.getLsbD line = true →
      ∃ t, exec (.fenceRelease r line) s = .next t ∧
        CompletesWith c r (fun t => t.fence = putBit s.fence line false ∧
        t.nv.queue = s.nv.queue ++ [historyRec 2 3 line 0 0 0 0 s]) [] t) ∧
  (∀ r line s, let c : Cmd := { code := 0x0A06, allow := {} }
    Taken c r s → line ≤ 255 → s.fence.getLsbD line = false →
      ∃ t, exec (.fenceRelease r line) s = .next t ∧
        Completes c r s [] [] t) ∧
  (∀ r offset s, let c : Cmd := { code := 0x0A07, allow := { s := true } }
    Taken c r s →
      ∃ t, exec (.fenceHistoryRead r offset none) s = .next t ∧
        Completes c r s [] (inlineBytes (historyImage s) offset) t) ∧
  (∀ r offset desc s, let c : Cmd := { code := 0x0A07, allow := { s := true } }
    Taken c r s → descOk (issuerPart r.issuer) desc s = true →
      ∃ t, exec (.fenceHistoryRead r offset (some desc)) s = .next t ∧
        Outputs c r desc ((historyImage s).length - offset) (.history s.nv.removed s.nv.history) s t) ∧
  (∀ r k i s, let c : Cmd := { code := 0x0A08, allow := {} }
    Taken c r s → (k, i) ∈ s.pwr.culDeSac →
      ∃ t, exec (.cdsRelease r k i) s = .next t ∧
        CompletesWith c r (fun t => t.pwr.culDeSac = s.pwr.culDeSac.filter (· != (k, i)) ∧
        t.nv.queue = s.nv.queue ++ [historyRec 4 3 i 0 k 0 0 s]) [] t)

/-- A run's events: in an open span, or when the next window opens, the pair whose turn it is starts, or its package is
disabled because the pattern has changed; grants begin and end; a response is judged, an error and a time-out are counted; a
pair becomes overdue once; a block resource is tested in its own way, and one that fails joins the Cul-de-sac (R287 to R295,
R301). -/
def Obligations.TestEventsComplete : Prop :=
  (∀ d x q e s, s.rst.aonOk = true → openSpans s ≠ [] → s.test.run = none → stewardUp s = true →
    pickPair (s.test.pairs.filter (mayStart s)) = some x → pairEntry x s = some (q, e) → patternDigest q e = some d →
    ∃ t, exec (.quietWindowOpen d) s = .next t ∧ Out.fncTest x.unit true false ∈ t.out ∧
      t.test.run = some { pkgId := x.pkgId, unit := x.unit, entry := e, start := s.time.ft, startTimer := s.time.timer }) ∧
  (∀ d x q e s, s.rst.aonOk = true → openSpans s ≠ [] → s.test.run = none → stewardUp s = true →
    pickPair (s.test.pairs.filter (mayStart s)) = some x → pairEntry x s = some (q, e) → patternDigest q e ≠ some d →
    ∃ t, exec (.quietWindowOpen d) s = .next t ∧ q.pkgId ∈ t.test.disabled ∧ t.test.run = none) ∧
  (∀ d w s, s.rst.aonOk = true → openSpans s = [] → nextWindow s = some w →
    exec (.quietWindowOpen d) s = .next (startRun d (untilFt w s))) ∧
  (∀ g s, s.rst.aonOk = true → timeValid s = true → (s.test.grants.find? fun g => g.ends.isNone) = some g →
    ∃ t, exec .idleGrantStart s = .next t ∧ ({ g with ends := some (t.time.timer + g.len) } : IdleGrant) ∈ t.test.grants) ∧
  (∀ g s, s.rst.aonOk = true → (s.test.grants.find? fun g => g.ends.isSome) = some g →
    ∃ t, exec .idleGrantEnd s = .next t ∧ t.test.grants = s.test.grants.filter (· != g)) ∧
  (∀ d u s, s.rst.aonOk = true → s.test.run = some u → d = u.entry.expect →
    ∃ t, exec (.fncTestDone d) s = .next t ∧ t.test.run = none ∧ Out.fncTest u.unit false false ∈ t.out ∧
      ∀ x ∈ t.test.pairs, x.pkgId = u.pkgId → x.testId = u.entry.testId → x.unit = u.unit →
        x.fails = 0 ∧ x.due = u.startTimer + u.entry.interval * 1000000000) ∧
  (∀ d u s, s.rst.aonOk = true → s.test.run = some u → d ≠ u.entry.expect →
    ∃ t, exec (.fncTestDone d) s = .next t ∧ t.test.run = none ∧ t.test.failures = tmod 0 u.pkgId (· + 1) s.test.failures ∧
      ∀ x ∈ t.test.pairs, x.pkgId = u.pkgId → x.testId = u.entry.testId → x.unit = u.unit →
        1 ≤ x.fails ∧ x.due = s.time.timer) ∧
  (∀ u s, s.rst.aonOk = true → s.test.run = some u →
    ∃ t, exec .fncTestErr s = .next t ∧ t.test.run = none ∧ Out.fncTest u.unit false false ∈ t.out ∧
      t.test.timeouts = tmod 0 u.pkgId (· + 1) s.test.timeouts ∧ t.test.failures = s.test.failures) ∧
  (∀ u s, s.rst.aonOk = true → s.test.run = some u →
    ∃ t, exec .testAbortTimeout s = .next t ∧ t.test.run = none ∧ Out.fncTest u.unit false true ∈ t.out ∧
      t.test.timeouts = tmod 0 u.pkgId (· + 1) s.test.timeouts ∧ t.test.failures = tmod 0 u.pkgId (· + 1) s.test.failures) ∧
  (∀ p k u x q e s, s.rst.aonOk = true → stewardUp s = true → x.overdue = false →
    (s.test.pairs.find? fun x => x.pkgId == p && x.testId == k && x.unit == u) = some x → pairEntry x s = some (q, e) →
    ∃ t, exec (.testOverdue p k u) s = .next t ∧ t.test.overdue = s.test.overdue + 1 ∧
      ∀ y ∈ t.test.pairs, y.pkgId = p → y.testId = k → y.unit = u → y.overdue = true) ∧
  (∀ p k u pd x q e s, s.rst.aonOk = true → stewardUp s = true →
    (s.test.pairs.find? fun x => x.pkgId == p && x.testId == k && x.unit == u) = some x → pairEntry x s = some (q, e) →
    e.tkind ≠ 1 → x.due ≤ s.time.timer → p ∉ s.test.disabled → (e.tkind, u) ∉ s.pwr.culDeSac →
    engineUp (cdsDomain e.tkind u) s = true → patternDigest q e = some pd →
    ∃ t, exec (.blockResourceTest p k u true pd e.expect) s = .next t ∧ t.test.lastRun = tput 0 p s.time.ft s.test.lastRun ∧
      ∀ y ∈ t.test.pairs, y.pkgId = p → y.testId = k → y.unit = u →
        y.fails = 0 ∧ y.overdue = false ∧ y.due = s.time.timer + e.interval * 1000000000) ∧
  (∀ p k u pd d x q e s, s.rst.aonOk = true → stewardUp s = true →
    (s.test.pairs.find? fun x => x.pkgId == p && x.testId == k && x.unit == u) = some x → pairEntry x s = some (q, e) →
    e.tkind ≠ 1 → x.due ≤ s.time.timer → p ∉ s.test.disabled → (e.tkind, u) ∉ s.pwr.culDeSac →
    engineUp (cdsDomain e.tkind u) s = true → patternDigest q e = some pd →
    d ≠ e.expect →
    ∃ t, exec (.blockResourceTest p k u true pd d) s = .next t ∧
      t.test.failures = tmod 0 p (· + 1) s.test.failures) ∧
  (∀ k i s, s.rst.aonOk = true → hasResource k s = true → (k, i) ∉ s.pwr.culDeSac →
    ∃ t, exec (.resourceFault k i) s = .next t ∧ t.pwr.culDeSac = s.pwr.culDeSac ++ [(k, i)] ∧
      t.nv.queue = s.nv.queue ++ [historyRec 3 4 i 0x0A06 k 0 0 s]) ∧
  (∀ k i s, s.rst.aonOk = true → (k, i) ∈ s.pwr.culDeSac ∨ hasResource k s = false → exec (.resourceFault k i) s = .next s)

/-- Group 0x0B's trace commands complete: a source takes its configuration, its open block is put out and a start sync is due;
a grant is installed, or ended, and logged; the open blocks of the named sources are put out; a chain is replaced and its
sources restart; the status of a source is reported, the excluded packets to system software alone (R308, R310, R311, R322,
R325, R327).

Group 0x0C completes: a shaper or the standing gate waits for the next refill, every account of a class is reported (R338,
R339, R347, R348, R350). -/
def Obligations.TraceUplinkCommandsComplete : Prop :=
  (∀ r n config s, let c : Cmd := { code := 0x0B01, allow := { t := true }, only := .leaf }
    Taken c r s → engineUp 9 s = true → n < 64 → trcFormOk config = true →
      (isTenant r.issuer = true → trcPartition (sourceOf n s).config = issuerPart r.issuer ∧
        trcPartition config = trcPartition (sourceOf n s).config) →
      (trcPrivileged config = true → trcPartition config = 0) →
      ∃ t, exec (.traceSourceSet r n config) s = .next t ∧
        CompletesWith c r (fun t => (sourceOf n t).config = config ∧ (sourceOf n t).admitStart = true ∧ (sourceOf n t).openPkts = [])
        [] t) ∧
  (∀ r mask (levels : BitVec 8) lenS s, let c : Cmd := { code := 0x0B02, allow := {}, only := .leaf }
    Taken c r s → levels &&& 0xF1#8 = 0#8 → 1 ≤ lenS → lenS ≤ 3600 → s.trc.grants.length < 4 →
      ∃ t, exec (.traceGrant r mask levels lenS) s = .next t ∧
        Completes c r (nvPush (.grant (ftStamp s) mask.toNat levels.toNat lenS)
        (onTrc (fun t =>
          { t with
            grants := t.grants ++ [{ id := s.trc.nextGrant % 256, mask := mask, levels := levels,
                                     ends := s.time.timer + lenS * 1000000000 }], nextGrant := t.nextGrant + 1 }) s))
        [f8 0 (s.trc.nextGrant % 256)] [] t) ∧
  (∀ r id s, let c : Cmd := { code := 0x0B03, allow := {} }
    Taken c r s → (∃ g ∈ s.trc.grants, g.id = id) →
      ∃ t, exec (.traceRevoke r id) s = .next t ∧
        CompletesWith c r (fun t => t.trc.grants = (s.trc.grants.filter fun g => g.id != id) ∧
        t.nv.queue = s.nv.queue ++ [.grantEnd (ftStamp s) id]) [] t) ∧
  (∀ r mask s, let c : Cmd := { code := 0x0B04, allow := { t := true } }
    Taken c r s → engineUp 9 s = true →
      ∃ t, exec (.traceFlush r mask) s = .next t ∧
        CompletesWith c r (fun t => ∀ n < 64, mask.getLsbD n = true →
        (isTenant r.issuer = true → trcPartition (sourceOf n s).config = issuerPart r.issuer) → (sourceOf n t).openPkts = [])
        [] t) ∧
  (∀ r chain desc s, let c : Cmd := { code := 0x0B05, allow := { t := true } }
    Taken c r s → engineUp 9 s = true → chain ≤ 15 → descOk (issuerPart r.issuer) desc s = true →
      (∀ x, chainFind 0 chain s = some x → isTenant r.issuer = true → x.2.partition = issuerPart r.issuer) →
      ∃ t, exec (.traceChainSet r chain desc) s = .next t ∧
        CompletesWith c r (fun t =>
          tget Chain.empty s.buf.nextChain t.buf.chains
            = { Chain.empty with ckind := 0, index := chain, partition := desc.partition, cur := some desc } ∧
          ∀ e ∈ t.trc.sources, trcChain e.2.config = chain → e.2.startDue = true) [] t) ∧
  (∀ r n s, let c : Cmd := { code := 0x0B07, allow := { s := true, t := true } }
    Taken c r s → engineUp 9 s = true → n < 64 →
      (isTenant r.issuer = true → trcPartition (sourceOf n s).config = issuerPart r.issuer) →
      ∃ t, exec (.traceStatus r n) s = .next t ∧
        Completes c r s (traceStatusPayload r n s) [] t) ∧
  (∀ r cls rate cap quantum s, let c : Cmd := { code := 0x0C01, allow := {}, relayable := true }
    Taken c r s → engineUp 10 s = true → 1 ≤ cls → cls ≤ 4 → 4096 ≤ quantum → quantum ≤ 1048576 →
      ∃ t, exec (.uplShaperSet r cls rate cap quantum) s = .next t ∧
        Completes c r (onUpl (fun u =>
          { u with
            pendingShapers := (u.pendingShapers.filter fun p => p.1 != cls) ++ [(cls, rate, cap, quantum, s.time.ft)] }) s) [] [] t) ∧
  (∀ r port rate space len margin s, let c : Cmd := { code := 0x0C02, allow := {} }
    Taken c r s → engineUp 10 s = true → port ≤ 11 → rate ≤ 10000 → (1 ≤ rate ∨ len = 0) → margin ≤ 1000 →
      marginFits margin s = true →
      ∃ t, exec (.uplStandingSet r port rate space len margin) s = .next t ∧
        Completes c r (onUpl (fun u => { u with pendingStanding := some (port, rate, space, len, margin) }) s) [] [] t) ∧
  (∀ r cls s, let c : Cmd := { code := 0x0C03, allow := { s := true } }
    Taken c r s → engineUp 10 s = true → 1 ≤ cls → cls ≤ 4 →
      ∃ t, exec (.uplStatus r cls) s = .next t ∧
        Completes c r s [f64 0 (classOf cls s).added, f64 8 (classOf cls s).charged, f64 0x10 (classOf cls s).lent,
        f64 0x18 (classOf cls s).forfeited, f64 0x20 (classOf cls s).quanta, f64 0x28 (classOf cls s).sent,
        f64 0x30 (classOf cls s).returned, f32 0x38 (classOf cls s).credit, f32 0x3C (classOf cls s).deficit,
        f8 0x40 (classOf cls s).f, f8 0x41 s.upl.u, f32 0x44 s.upl.strideChanges] [] t)

/-- Trace's events: a packet that its source does not admit is excluded, counted by level; one that is admitted joins its
front's queue, or is dropped and counted when its class's share of the queue is full; the compressor takes the oldest packet of
a front into the open block; a block that has waited 1 ms is put out; a grant ends (R307, R309, R311 to R313, R315, R322). -/
def Obligations.TraceEventsComplete : Prop :=
  (∀ p s, s.rst.aonOk = true → trcFrontsOn s = true → p.front < 8 → p.channel < 8 → mayAdmit (8 * p.front + p.channel) p s = false →
    ∃ t, exec (.tracePacket p) s = .next t ∧
      tget 0 p.priv (sourceOf (8 * p.front + p.channel) t).excluded
        = tget 0 p.priv (sourceOf (8 * p.front + p.channel) s).excluded + 1 ∧ t.trc.fronts = s.trc.fronts) ∧
  (∀ p s, s.rst.aonOk = true → trcFrontsOn s = true → p.front < 8 → p.channel < 8 → mayAdmit (8 * p.front + p.channel) p s = true →
    (frontQueue p.front s).length < (4 - trcClass (sourceOf (8 * p.front + p.channel) s).config) * 128 →
    ∃ t, exec (.tracePacket p) s = .next t ∧
      frontQueue p.front t = frontQueue p.front s ++ [{
        packet := p, dropped := (sourceOf (8 * p.front + p.channel) s).gap, ft := ftStamp s,
        start := (sourceOf (8 * p.front + p.channel) s).admitStart }] ∧
      (sourceOf (8 * p.front + p.channel) t).admitted = (sourceOf (8 * p.front + p.channel) s).admitted + 1 ∧
      (sourceOf (8 * p.front + p.channel) t).gap = 0) ∧
  (∀ p s, s.rst.aonOk = true → trcFrontsOn s = true → p.front < 8 → p.channel < 8 → mayAdmit (8 * p.front + p.channel) p s = true →
    (4 - trcClass (sourceOf (8 * p.front + p.channel) s).config) * 128 ≤ (frontQueue p.front s).length →
    ∃ t, exec (.tracePacket p) s = .next t ∧ t.trc.fronts = s.trc.fronts ∧
      (sourceOf (8 * p.front + p.channel) t).ingestDrops = (sourceOf (8 * p.front + p.channel) s).ingestDrops + 1 ∧
      (sourceOf (8 * p.front + p.channel) t).gap = (sourceOf (8 * p.front + p.channel) s).gap + 1) ∧
  (∀ front e rest n s, s.rst.aonOk = true → engineUp 9 s = true → tabWf [] s.trc.fronts = true → frontQueue front s = e :: rest →
    n = 8 * e.packet.front + e.packet.channel →
    (sourceOf n s).openPkts.length + (streamPackets n e (sourceOf n s)).length < 16 →
    ∃ t, exec (.traceServe front) s = .next t ∧ frontQueue front t = rest ∧ (sourceOf n t).lastCycle = e.packet.cycle ∧
      (sourceOf n t).openPkts = (sourceOf n s).openPkts ++ streamPackets n e (sourceOf n s)) ∧
  (∀ n s, s.rst.aonOk = true → engineUp 9 s = true → (sourceOf n s).openPkts ≠ [] →
    ∃ t, exec (.traceBlockAgeFlush n) s = .next t ∧ (sourceOf n t).openPkts = [] ∧
      (sourceOf n t).bseq = (sourceOf n s).bseq + 1) ∧
  (∀ id g s, s.rst.aonOk = true → (s.trc.grants.find? fun g => g.id == id) = some g →
    ∃ t, exec (.traceGrantExpiry id) s = .next t ∧ t.trc.grants = s.trc.grants.filter fun g => g.id != id)

/-- The port's events: a gate opens by ft and the round begins at Ledger; Adoption goes before Control, Control before the
Roundabout, each packet with the next sequence of its class; past the Kerb nothing starts; the gate closes by ft; a bypass
message leaves within the frame's limit; a packet with a bad header, or that finds the staging full, is discarded and counted,
any other advances the sequence expected of its source (R331, R332, R334 to R337, R341, R342, R345, R346). -/
def Obligations.PortEventsComplete : Prop :=
  (∀ st en rate port s, s.rst.aonOk = true → s.upl.gate = none → timeValid s = true → uplinkUp s = true →
    upcomingGate s = some (st, en, rate, port) →
    ∃ t, exec .gateOpen s = .next t ∧ t.upl.gate = some {
      start := max st t.time.ft, ends := en, rate := rate, port := port, cls := 1, visiting := false, kerbPassed := false }) ∧
  (∀ g p m k rest s, s.rst.aonOk = true → s.upl.gate = some g → mayInject g s = true → s.upl.adoption = (p, m, k) :: rest →
    p.bytes ≤ s.upl.ctlLeft →
    ∃ t q, exec .packetInject s = .next t ∧ t.upl.adoption = rest ∧ t.upl.ctlLeft = s.upl.ctlLeft - p.bytes ∧
      Out.upl q g.port (virtualChannel p) (childAddr (dstKey p) s) ∈ t.out ∧ q.dst = p.dst ∧ q.bytes = p.bytes ∧
      q.cseq = nextCseq p.cls (srcKey p) (dstKey p) s ∧ q.hdrCrc = packetCrc q ∧ Out.adopt p.dst k m ∈ t.out) ∧
  (∀ g p rest s, s.rst.aonOk = true → s.upl.gate = some g → mayInject g s = true → s.upl.adoption = [] →
    s.upl.control = p :: rest → p.packet.bytes ≤ s.upl.ctlLeft →
    ∃ t q, exec .packetInject s = .next t ∧ t.upl.control = rest ∧ t.upl.ctlLeft = s.upl.ctlLeft - p.packet.bytes ∧
      Out.upl q g.port (virtualChannel p.packet) (childAddr (dstKey p.packet) s) ∈ t.out ∧ q.dst = p.packet.dst ∧
      q.bytes = p.packet.bytes ∧ q.cseq = nextCseq p.packet.cls (srcKey p.packet) (dstKey p.packet) s ∧
      q.hdrCrc = packetCrc q ∧ ∀ o, p.carries = some o → o ∈ t.out) ∧
  (∀ g c u p s, s.rst.aonOk = true → s.upl.gate = some g → mayInject g s = true → s.upl.adoption = [] → s.upl.control = [] →
    tabWf UplClass.zero u.upl.classes = true →
    roundabout 9 s = (some c, u) → headOf c u = some p →
    ∃ t q, exec .packetInject s = .next t ∧ Out.upl q g.port (virtualChannel p) (childAddr (dstKey p) s) ∈ t.out ∧
      q.dst = p.dst ∧ q.bytes = p.bytes ∧ q.hdrCrc = packetCrc q ∧ (classOf c t).sent = (classOf c u).sent + p.bytes ∧
      ∀ o, headCarries c u = some o → o ∈ t.out) ∧
  (∀ g u s, s.rst.aonOk = true → s.upl.gate = some g → mayInject g s = true → s.upl.adoption = [] → s.upl.control = [] →
    roundabout 9 s = (none, u) → ∃ t, exec .packetInject s = .next t ∧ t.out = s.out ∧ t.upl.queues = s.upl.queues) ∧
  (∀ g s, s.rst.aonOk = true → s.upl.gate = some g → timeValid s = true →
    ∃ t, exec .kerbReached s = .next t ∧ t.upl.gate = some { g with kerbPassed := true, visiting := false }) ∧
  (∀ g s, s.rst.aonOk = true → s.upl.gate = some g → timeValid s = true →
    ∃ t, exec .gateClose s = .next t ∧ t.upl.gate = none) ∧
  (∀ a rest s, s.rst.aonOk = true → s.upl.byp = a :: rest → s.pwr.parked = false → s.rst.active = false →
    s.upl.bypSent < Config.bypLimit s.fuse.plaza →
    ∃ t, exec .bypSend s = .next t ∧ Out.byp (bypTo a s) a ∈ t.out ∧ t.upl.bypSent = s.upl.bypSent + 1) ∧
  (∀ p congested full body s, s.rst.aonOk = true → s.pwr.parked = false → s.rst.active = false → p.hdrCrc ≠ packetCrc p →
    exec (.dnlPacket p congested full body) s = .next (countLoss p.cls (srcKey p) 1 (checkSeq p s))) ∧
  (∀ p congested body s, s.rst.aonOk = true → s.pwr.parked = false → s.rst.active = false → p.hdrCrc = packetCrc p →
    ∃ t, exec (.dnlPacket p congested true body) s = .next t ∧ t.upl.discards = s.upl.discards + 1) ∧
  (∀ p congested body s, s.rst.aonOk = true → s.pwr.parked = false → s.rst.active = false → p.hdrCrc = packetCrc p →
    ∃ t, exec (.dnlPacket p congested false body) s = .next t ∧
      (seqKey p.cls (dstKey p), srcKey p, p.epoch, p.cseq + 1) ∈ t.upl.rseq ∧
      tget 0 (parentName (srcKey p) s) t.place.heardAt = s.time.live + 1)

/-- Group 0x0D completes: parking waits for the next boundary; a domain already in the state asked for is answered at once, any
other switch and an engine's reset are accepted and in progress; a reset falls due 10 µs after its response; the power status
is reported (R431, R433, R434, R439, R442, R444).

Groups 0x0E and 0x0F complete: a dump is accepted and pending; the graph of the dumps near an ft goes into the chain; the
log is read inline or into the chain; an exhausted epoch is stored as 0 and logged; an image that passes its checks is staged;
the trial image is committed and logged; the firmware's status is reported (R49, R378, R379, R381, R382, R391, R394, R453,
R463). -/
def Obligations.PowerDumpCommandsComplete : Prop :=
  (∀ r s, let c : Cmd := { code := 0x0D01, allow := { s := true } }
    Taken c r s →
      ∃ t, exec (.pwrPark r) s = .next t ∧
        Completes c r (onPwr (fun p => { p with parkPending := true }) s) [] [] t) ∧
  (∀ r d st s, let c : Cmd := { code := 0x0D02, allow := {} }
    Taken c r s → 2 ≤ d → d ≤ 29 → d ≠ 13 → st ≤ 1 →
      neverPowered d s = false → (st = 1 → ¬ (14 ≤ d ∧ (2, d - 14) ∈ s.pwr.culDeSac)) → domainBusy d s = false →
      s.pwr.on.getLsbD d = (st == 1) →
      ∃ t, exec (.pwrDomainSet r d st) s = .next t ∧
        FinishesWith c r (fun t => t.pwr = s.pwr) t) ∧
  (∀ r d st s, let c : Cmd := { code := 0x0D02, allow := {} }
    Taken c r s → 2 ≤ d → d ≤ 29 → d ≠ 13 → st ≤ 1 →
      neverPowered d s = false → (st = 1 → ¬ (14 ≤ d ∧ (2, d - 14) ∈ s.pwr.culDeSac)) → domainBusy d s = false →
      s.pwr.on.getLsbD d ≠ (st == 1) →
      ∃ t, exec (.pwrDomainSet r d st) s = .next t ∧
        Defers c r (beginSwitch d (st == 1) s) (.domainSet d (st == 1)) t) ∧
  (∀ r d us s, let c : Cmd := { code := 0x0D03, allow := {} }
    Taken c r s → 2 ≤ d → d ≤ 12 → neverPowered d s = false → s.pwr.on.getLsbD d = true → (∀ x ∈ s.pwr.settling, x.1 ≠ d) →
      (∀ q ∈ s.pwr.quiescing, ¬ (q.1 = d ∧ q.2.1 = .off)) →
      ∃ t, exec (.engineReset r d us) s = .next t ∧
        Defers c r (startQuiesce d .reset ((if us = 0 then 200 else us) * 1000)
        (onHrw (fun h => { h with engRst := putBit h.engRst d true }) s)) (.engineReset d) t) ∧
  (∀ r s, let c : Cmd := { code := 0x0D04, allow := {} }
    Taken c r s →
      ∃ t, exec (.resetRequest r 0x0000A5A5) s = .next t ∧
        Completes c r (onRst (fun x => { x with softwareDue := some (s.time.timer + 10000) }) s) [] [] t) ∧
  (∀ r s, let c : Cmd := { code := 0x0D05, allow := { s := true } }
    Taken c r s →
      ∃ t, exec (.pwrStatus r) s = .next t ∧
        Completes c r s (pwrStatusPayload s) [] t) ∧
  (∀ r desc (dest : BitVec 8) at_ s, let c : Cmd := { code := 0x0E01, allow := { s := true }, relayable := true }
    Taken c r s → 1 ≤ dest.toNat → dest.toNat ≤ 3 → (r.relay = true → dest = 2#8) → (at_ = 0 ∨ s.time.ft ≤ at_) →
      (dest.getLsbD 0 = true → descOk (issuerPart r.issuer) desc s = true) →
      ∃ t, exec (.dumpTake r desc dest at_) s = .next t ∧
        Defers c r (onDump (fun d =>
          { d with
            pending := d.pending ++ [{
              trigger := if isCopy r.issuer then 2 else 1, reqFt := if at_ = 0 then s.time.ft else at_, dest := dest,
              desc := if dest.getLsbD 0 then some desc else none }] }) s)
        (.dump (if at_ = 0 then s.time.ft else at_)) t) ∧
  (∀ r desc at_ u g s, let c : Cmd := { code := 0x0E02, allow := {}, only := .plaza }
    Taken c r s → dumpsNear at_ s ≠ [] → descOk (issuerPart r.issuer) desc s = true → u = { s with free := s.free + 1 } →
      g = buildGraph (dumpsNear at_ s) at_ (Config.fresh s.free) u →
      ∃ t, exec (.wfgBuild r desc at_) s = .next t ∧
        Outputs c r desc (graphSize g) (.graph g)
        (when (g.findings.any fun x => x.fkind != 2) (raise 0x0E03 (roleKey 1 (trayOf s.die)) 0) u) t) ∧
  (∀ r region offset s, let c : Cmd := { code := 0x0F01, allow := { s := true } }
    Taken c r s → region ≤ 3 →
      ∃ t, exec (.nvlogRead r region offset none) s = .next t ∧
        Completes c r s [] (inlineBytes (nvBytes region s) offset) t) ∧
  (∀ r region offset desc s, let c : Cmd := { code := 0x0F01, allow := { s := true } }
    Taken c r s → region ≤ 3 → descOk (issuerPart r.issuer) desc s = true →
      ∃ t, exec (.nvlogRead r region offset (some desc)) s = .next t ∧
        Outputs c r desc (nvBytes region s).length (.nvlog region (nvRegion region s)) s t) ∧
  (∀ r s, let c : Cmd := { code := 0x0F02, allow := {} }
    Taken c r s → s.exhausted = true →
      ∃ t, exec (.epochReset r 0x5A5A) s = .next t ∧
        Completes c r (nvPush (.event (ftStamp s) 0x0F02) (nvPush (.epoch 0) s)) [] [] t) ∧
  (∀ r desc image at_ s, let c : Cmd := { code := 0x0F03, allow := {} }
    Taken c r s → s.stw.trialEnd = none → descOk (issuerPart r.issuer) desc s = true → s.time.ft + 10000000 ≤ at_ →
      imageReject image s = none →
      ∃ t, exec (.fwUpdate r desc image at_) s = .next t ∧
        FinishesWith c r (fun t => t.stw.staged = some (image, at_)) t) ∧
  (∀ r e img s, let c : Cmd := { code := 0x0F04, allow := {} }
    Taken c r s → s.stw.trialEnd = some e → s.stw.running = some img →
      ∃ t, exec (.fwCommit r) s = .next t ∧
        CompletesWith c r (fun t => t.stw.committed = some img ∧ t.stw.trialEnd = none ∧ t.stw.running = some img ∧
        t.nv.queue = s.nv.queue ++ .event (ftStamp s) 0x0F04 :: (if img.raiseSvn then [.svn 1 img.sig.svn] else [])) [] t) ∧
  (∀ r s, let c : Cmd := { code := 0x0F05, allow := { s := true } }
    Taken c r s →
      ∃ t, exec (.fwStatus r) s = .next t ∧
        Completes c r s
      [f16 0 ((s.stw.running.map (·.fwLevel)).getD 0), f16 2 ((s.stw.committed.map (·.fwLevel)).getD 0),
        f8 4 (bnat s.stw.trialEnd.isSome), f32 8 s.nv.svnFirmware, f32 0xC s.nv.svnTest, f32 0x10 s.stw.reverts] [] t)

/-- Dumps and firmware act on their own: one capture serves every request that is due, an automatic dump in slot 0 and a
commanded one in slot 1; a hang asks for an automatic dump, or is counted where one was taken; the staged image runs in trial
for 600 s; without a commit the committed image runs again; debug access closes itself (R381, R386, R413, R450 to R455,
R465). -/
def Obligations.DumpFirmwareEventsComplete : Prop :=
  (∀ k es q s, s.rst.aonOk = true → s.dump.awaiting = [] → (s.dump.pending.find? fun x => x.trigger == k) = some q →
    q.reqFt ≤ s.time.ft → s.pwr.parked = false → (∀ x ∈ s.dump.pending, 3 ≤ x.trigger) →
    ∃ t d b, exec (.dumpCapture k es) s = .next t ∧ t.dump.slot0 = some (d, t.time.ft, b) ∧ d.reqFt = q.reqFt ∧
      d.dumpSeq = s.dump.seq ∧ t.dump.seq = s.dump.seq + 1 ∧ t.dump.slot1 = s.dump.slot1 ∧
      t.dump.pending = s.dump.pending.filter fun x => !(x.reqFt ≤ t.time.ft)) ∧
  (∀ k es q s, s.rst.aonOk = true → s.dump.awaiting = [] → (s.dump.pending.find? fun x => x.trigger == k) = some q →
    q.reqFt ≤ s.time.ft → s.pwr.parked = false → k ≤ 2 →
    ∃ t d, exec (.dumpCapture k es) s = .next t ∧ t.dump.slot1 = some d ∧ d.reqFt = q.reqFt ∧
      d.dumpSeq = s.dump.seq ∧ t.dump.seq = s.dump.seq + 1 ∧
      t.dump.pending = s.dump.pending.filter fun x => !(x.reqFt ≤ t.time.ft)) ∧
  (∀ d o s, s.rst.aonOk = true → s.pwr.parked = false → autoAccepted s = true →
    ∃ t, exec (.hangDeclared d o) s = .next t ∧
      t.dump.pending = s.dump.pending ++ [{ trigger := 3, reqFt := s.time.ft, dest := 0, desc := none }]) ∧
  (∀ d o s, s.rst.aonOk = true → s.pwr.parked = false → autoAccepted s = false →
    ∃ t, exec (.hangDeclared d o) s = .next t ∧ t.dump.suppressed = s.dump.suppressed + 1 ∧ t.dump.pending = s.dump.pending) ∧
  (∀ img at_ s, s.rst.aonOk = true → timeValid s = true → s.stw.staged = some (img, at_) →
    ∃ t, exec .fwRestart s = .next t ∧ t.stw.running = some img ∧ t.stw.staged = none ∧ t.stw.deferred = [] ∧
      t.stw.committed = s.stw.committed ∧ t.stw.trialEnd = some (t.time.timer + 600000000000)) ∧
  (∀ e s, s.rst.aonOk = true → s.stw.trialEnd = some e →
    ∃ t ft, exec .fwTrialTimeout s = .next t ∧ t.stw.running = s.stw.committed ∧ t.stw.trialEnd = none ∧
      t.stw.reverts = s.stw.reverts + 1 ∧ t.stw.deferred = [] ∧ t.nv.queue = s.nv.queue ++ [.event ft 0x0F01]) ∧
  (∀ e s, s.rst.aonOk = true → s.hrw.dbgOpen = some e →
    ∃ t, exec .dbgCtlExpiry s = .next t ∧ t.hrw.dbgOpen = none)

/-- Accesses to the register window complete, from supervisor level where R412 asks for it: a doorbell sets `BUSY`, or is
discarded while it is set; `DONE` clears and the next held response is posted; a tenant doorbell is queued, or counted when 256
wait; a read of `FT_LO` latches `FT_HI`; flags are cleared; a Parked block is woken; engines are asked to reset; the boot ROM
reads its image (R360, R361, R380, R412, R413, R415, R436).

A write to the register window at an offset completes, from supervisor level: each writable register takes its bits, the
registers with a row of their own act as that row does, a request slot takes the bytes (R412, R413, R360). -/
def Obligations.RegisterAccessesComplete : Prop :=
  (∀ n priv part (v : Word32) s, s.rst.aonOk = true → hrwUp s = true → priv ≠ 0 → v.getLsbD 0 = true →
    (tget PmSlot.idle n s.hrw.pm).busy = false →
    ∃ t, exec (.pmDoorbell n priv part v) s = .next t ∧ (tget PmSlot.idle n t.hrw.pm).busy = true ∧
      t.hrw.discards = s.hrw.discards) ∧
  (∀ n priv part (v : Word32) s, s.rst.aonOk = true → hrwUp s = true → priv ≠ 0 → v.getLsbD 0 = true →
    (tget PmSlot.idle n s.hrw.pm).busy = true →
    exec (.pmDoorbell n priv part v) s = .next (onHrw (fun h => { h with discards := satInc h.discards }) s)) ∧
  (∀ n priv (v : Word32) s, s.rst.aonOk = true → hrwUp s = true → priv ≠ 0 → v.getLsbD 1 = true →
    tabWf PmSlot.idle s.hrw.pm = true →
    (tget PmSlot.idle n s.hrw.pm).done = true → (tget PmSlot.idle n s.hrw.pm).held = [] →
    ∃ t, exec (.pmDoneClear n priv v) s = .next t ∧ (tget PmSlot.idle n t.hrw.pm).done = false) ∧
  (∀ n priv (v : Word32) m rest s, s.rst.aonOk = true → hrwUp s = true → priv ≠ 0 → v.getLsbD 1 = true →
    (tget PmSlot.idle n s.hrw.pm).done = true → (tget PmSlot.idle n s.hrw.pm).held = m :: rest →
    ∃ t, exec (.pmDoneClear n priv v) s = .next t ∧ (tget PmSlot.idle n t.hrw.pm).rsp = some m ∧
      (tget PmSlot.idle n t.hrw.pm).done = true ∧ (tget PmSlot.idle n t.hrw.pm).held = rest) ∧
  (∀ priv part (v : Word64) h s, s.rst.aonOk = true → hrwUp s = true → v.toNat % 4 < 2 → s.stw.doorbells.length < 256 →
    exec (.tmDb priv part 1 v h) s
      = .next (onStw (fun t => { t with doorbells := t.doorbells ++ [{ partition := part, value := v, session := h }] }) s)) ∧
  (∀ priv part (v : Word64) h s, s.rst.aonOk = true → hrwUp s = true → v.toNat % 4 < 2 → 256 ≤ s.stw.doorbells.length →
    ∃ t, exec (.tmDb priv part 1 v h) s = .next t ∧ t.stw.doorbells = s.stw.doorbells ∧
      tget 0 part t.stw.dbDrops = tget 0 part s.stw.dbDrops + 1 ∧ t.hrw.tmDbDrops = satInc s.hrw.tmDbDrops) ∧
  (∀ priv s, s.rst.aonOk = true → (hrwUp s = true ∨ s.pwr.parked = true) →
    ∃ t, exec (.ftLoRead priv) s = .next t ∧ t.out = s.out ++ [.hrwData (ftStamp s % 2 ^ 32)] ∧
      t.hrw = { s.hrw with ftHi := ftStamp s / 2 ^ 32 }) ∧
  (∀ priv v s, s.rst.aonOk = true → hrwUp s = true → priv ≠ 0 →
    exec (.intStsClear priv v) s = .next (onHrw (fun h => { h with intSts := h.intSts &&& ~~~v }) s)) ∧
  (∀ priv (v : Word32) s, s.rst.aonOk = true → s.pwr.parked = true → priv ≠ 0 → v.getLsbD 0 = true → s.pwr.parking = none →
    s.pwr.waking = none → s.rst.coreOk = true →
    ∃ t, exec (.wakeCtlWrite priv v) s = .next t ∧ t.pwr.waking = some s.time.osc) ∧
  (∀ priv (v : Word32) d s, s.rst.aonOk = true → hrwUp s = true → priv ≠ 0 → 2 ≤ d → d ≤ 12 → v.getLsbD d = true →
    s.pwr.on.getLsbD d = true → s.hrw.engRst.getLsbD d = false → (∀ q ∈ s.pwr.quiescing, q.1 ≠ d) →
    (∀ q ∈ s.pwr.releasing, q.1 ≠ d) →
    ∃ t, exec (.engRstWrite priv v) s = .next t ∧ (d, .reset, s.time.timer + 200000) ∈ t.pwr.quiescing ∧
      t.hrw.engRst.getLsbD d = true) ∧
  (∀ priv (v : Word32) s, s.rst.aonOk = true → hrwUp s = true → priv ≠ 0 → v.getLsbD 0 = true → s.stw.running = none →
    exec (.bootDb priv v) s = .next (emit (.bufRead (s.hrw.fwPtrHi.toNat * 2 ^ 32 + s.hrw.fwPtrLo.toNat)) s)) ∧
  (∀ priv part (v : Word32) s, s.rst.aonOk = true → hrwUp s = true → priv ≠ 0 →
    exec (.hrwRegisterWrite 0x044 priv part 0 (v.setWidth 64) 0) s = .next (onHrw (fun h => { h with intEn := v &&& 0x3FF }) s) ∧
    exec (.hrwRegisterWrite 0x048 priv part 0 (v.setWidth 64) 0) s = .next (onHrw (fun h => { h with vecBlk := v &&& 0xFFFF }) s) ∧
    exec (.hrwRegisterWrite 0x0C0 priv part 0 (v.setWidth 64) 0) s = .next (onHrw (fun h => { h with fwPtrLo := v }) s) ∧
    exec (.hrwRegisterWrite 0x0C4 priv part 0 (v.setWidth 64) 0) s = .next (onHrw (fun h => { h with fwPtrHi := v }) s) ∧
    exec (.hrwRegisterWrite 0x0A8 priv part 0 (v.setWidth 64) 0) s = .next (onHrw (fun h =>
      { h with dbgOpen := if v.getLsbD 0 then some (s.time.timer + 600000000000) else none }) s)) ∧
  (∀ n priv part (v : Word32) s, s.rst.aonOk = true → hrwUp s = true → priv ≠ 0 → n < 4 →
    exec (.hrwRegisterWrite (0x050 + 4 * n) priv part 0 (v.setWidth 64) 0) s
      = .next (onHrw (fun h => { h with vecPm := tput 0xFFFF n (v &&& 0xFFFF) h.vecPm }) s)) ∧
  (∀ priv part (v : Word32) s, s.rst.aonOk = true → hrwUp s = true → priv ≠ 0 →
    exec (.hrwRegisterWrite 0x040 priv part 0 (v.setWidth 64) 0) s = exec (.intStsClear priv v) s ∧
    exec (.hrwRegisterWrite 0x080 priv part 0 (v.setWidth 64) 0) s = exec (.engRstWrite priv v) s ∧
    exec (.hrwRegisterWrite 0x0C8 priv part 0 (v.setWidth 64) 0) s = exec (.bootDb priv v) s) ∧
  (∀ priv part (v : Word32) s, exec (.hrwRegisterWrite 0x060 priv part 0 (v.setWidth 64) 0) s = exec (.wakeCtlWrite priv v) s) ∧
  (∀ priv part size v h s, exec (.hrwRegisterWrite 0x100 priv part size v h) s = exec (.tmDb priv part size v h) s) ∧
  (∀ n priv part (v : Word32) s, n < 4 →
    exec (.hrwRegisterWrite (0x500 + 0x200 * n) priv part 0 (v.setWidth 64) 0) s = exec (.pmDoneClear n priv v) s ∧
    exec (.hrwRegisterWrite (0x508 + 0x200 * n) priv part 0 (v.setWidth 64) 0) s = exec (.pmDoorbell n priv part v) s) ∧
  (∀ n o i b priv part (v : Word32) s, s.rst.aonOk = true → hrwUp s = true → priv ≠ 0 → n < 4 → o < 0x80 →
    tabWf PmSlot.idle s.hrw.pm = true → tabWf 0 (tget PmSlot.idle n s.hrw.pm).req = true →
    (tget PmSlot.idle n s.hrw.pm).busy = false → (bytesOf v.toNat 4)[i]? = some b →
    ∃ t, exec (.hrwRegisterWrite (0x400 + 0x200 * n + o) priv part 0 (v.setWidth 64) 0) s = .next t ∧
      tget 0 (o + i) (tget PmSlot.idle n t.hrw.pm).req = b)

/-- The sideband's transfers complete: a request is queued, a queue is selected, a boot segment is taken while the ROM awaits
an image, a read takes the oldest entry of the selected queue, or 0xFF bytes from an empty one (R380, R384, R408).

The common command codes complete: a dynamic address is given to a target that holds none, and given up; events are
enabled and disabled; what the target reports of itself (R383).  The values of `GETBCR`, `GETDCR` and `GETSTATUS`, and the
places of the event bits, are the model's (log entries 7 and 49). -/
def Obligations.SidebandCommandsComplete : Prop :=
  (∀ bytes s, s.rst.aonOk = true →
    exec (.sbiRequest bytes) s = .next (wakeRequest (onSbi (fun b => { b with requests := b.requests ++ [bytes] }) s))) ∧
  (∀ s, s.rst.aonOk = true → exec .sbiSelectResponse s = .next (onSbi (fun b => { b with alertSelected := false }) s) ∧
    exec .sbiSelectAlert s = .next (onSbi (fun b => { b with alertSelected := true }) s)) ∧
  (∀ seg s, s.rst.aonOk = true → s.stw.running = none →
    exec (.sbiBootSegment seg) s = .next (onSbi (fun b => { b with bootBytes := b.bootBytes ++ seg }) s)) ∧
  (∀ m rest s, s.rst.aonOk = true → s.sbi.alertSelected = false → s.sbi.responses = m :: rest →
    ∃ t, exec .sbiRead s = .next t ∧ t.out = s.out ++ [.sbiData (some m) none] ∧ t.sbi = { s.sbi with responses := rest }) ∧
  (∀ a rest s, s.rst.aonOk = true → s.sbi.alertSelected = true → s.sbi.alerts = a :: rest →
    ∃ t, exec .sbiRead s = .next t ∧ t.out = s.out ++ [.sbiData none (some a)] ∧ t.sbi = { s.sbi with alerts := rest }) ∧
  (∀ s, s.rst.aonOk = true → (if s.sbi.alertSelected then s.sbi.alerts = [] else s.sbi.responses = []) →
    exec .sbiRead s = .next (emit (.sbiData none none) s)) ∧
  (∀ a s, s.rst.aonOk = true → s.sbi.addr = none → a < 128 →
    exec (.entdaa a) s = .next (onSbi (fun b => { b with addr := some a }) s) ∧
    exec (.setdasa a) s = .next (onSbi (fun b => { b with addr := some a }) s)) ∧
  (∀ s, s.rst.aonOk = true → exec .rstdaa s = .next (onSbi (fun b => { b with addr := none }) s)) ∧
  (∀ e s, s.rst.aonOk = true →
    (∃ t, exec (.enec e) s = .next t ∧ ∀ i < 8, t.sbi.events.getLsbD i = (s.sbi.events.getLsbD i || e.getLsbD i)) ∧
    (∃ t, exec (.disec e) s = .next t ∧ ∀ i < 8, t.sbi.events.getLsbD i = (s.sbi.events.getLsbD i && !e.getLsbD i))) ∧
  (∀ s, s.rst.aonOk = true →
    exec .getpid s = .next (emit (.i3cData s.fuse.i3cPid) s) ∧ exec .getbcr s = .next (emit (.i3cData Config.bcr) s) ∧
    exec .getdcr s = .next (emit (.i3cData Config.dcr) s) ∧ exec .getmwl s = .next (emit (.i3cData 129) s) ∧
    exec .getmrl s = .next (emit (.i3cData 128) s) ∧
    exec .getstatus s = .next (emit (.i3cData (Config.getStatus s.free)) { s with free := s.free + 1 }))

/-- The test access port of a chip takes its instructions, which hold the engines in reset or release them; a Leaf has none
(R425, R426).

The 1687 network's instruments complete under `FUS_JTG_LOCK`: a read shifts out a value that the manual does not give (log
entry 26), the region of digest keys and grants reads 0; a self-test runs on a quiesced domain and is refused and counted on a
live one; the dump trigger asks for an automatic dump; a debug reset is a source (R427, R428, R439, R443, R452). -/
def Obligations.TestPortCommandsComplete : Prop :=
  (∀ s, s.rst.aonOk = true → s.fuse.plaza = true →
    (∃ t, exec .extest s = .next t ∧ t.jtag.ir = 0x00 ∧ t.jtag.hold = true) ∧
    (∃ t, exec .idcode s = .next t ∧ t.jtag.ir = 0x01 ∧ t.jtag.hold = false ∧ Out.jtagData s.fuse.idcode.toNat ∈ t.out) ∧
    (∃ t, exec .samplePreload s = .next t ∧ t.jtag.ir = 0x02 ∧ t.jtag.hold = false) ∧
    (∃ t, exec .clamp s = .next t ∧ t.jtag.ir = 0x03 ∧ t.jtag.hold = true) ∧
    (∃ t, exec .highz s = .next t ∧ t.jtag.ir = 0x04 ∧ t.jtag.hold = true) ∧
    (∃ t, exec .lqIjtag s = .next t ∧ t.jtag.ir = 0x20 ∧ t.jtag.hold = false) ∧
    (∃ t, exec .testLogicReset s = .next t ∧ t.jtag.ir = 0x01 ∧ t.jtag.hold = false)) ∧
  (∀ code s, s.rst.aonOk = true → s.fuse.plaza = true → code < 256 → code ∉ [0x00, 0x01, 0x02, 0x03, 0x04, 0x20] →
    ∃ t, exec (.bypass code) s = .next t ∧ t.jtag.ir = code ∧ t.jtag.hold = false) ∧
  (∀ code s, s.fuse.plaza = false →
    exec .extest s = .next s ∧ exec .idcode s = .next s ∧ exec .samplePreload s = .next s ∧ exec .clamp s = .next s ∧
    exec .highz s = .next s ∧ exec .lqIjtag s = .next s ∧ exec (.bypass code) s = .next s ∧ exec .testLogicReset s = .next s) ∧
  (∀ d i s, s.rst.aonOk = true → d ≤ 29 → (i = .status ∨ i = .counts) → mayRead s = true →
    ∃ t, exec (.ijtagInstrumentAccess d i) s = .next t ∧ t.out = s.out ++ [.jtagData (Config.fresh s.free)]) ∧
  (∀ d s, s.rst.aonOk = true → d ≤ 29 → mayDebug s = true →
    (∃ t, exec (.ijtagInstrumentAccess d (.memoryContent false)) s = .next t ∧
      t.out = s.out ++ [.jtagData (Config.fresh s.free)]) ∧
    exec (.ijtagInstrumentAccess d (.memoryContent true)) s = .next (emit (.jtagData 0) s)) ∧
  (∀ d s, s.rst.aonOk = true → mayTest s = true → readyForTest d s = true →
    ∃ t, exec (.ijtagMemorySelftest d) s = .next t ∧ t.jtag.selftests = s.jtag.selftests + 1) ∧
  (∀ d s, s.rst.aonOk = true → mayTest s = true → readyForTest d s = false →
    ∃ t, exec (.ijtagMemorySelftest d) s = .next t ∧ t.jtag.refusedTests = s.jtag.refusedTests + 1) ∧
  (∀ s, s.rst.aonOk = true → mayTrigger s = true → autoAccepted s = true →
    ∃ t, exec .ijtagDumpTrigger s = .next t ∧
      t.dump.pending = s.dump.pending ++ [{ trigger := 8, reqFt := s.time.ft, dest := 0, desc := none }]) ∧
  (∀ s, s.rst.aonOk = true → mayDebug s = true → s.nv.pulse = true →
    exec .ijtagDebugReset s = .next (onRst (fun r => { r with pending := r.pending ++ [6] }) s)) ∧
  (∀ s, s.rst.aonOk = true → mayDebug s = true → s.nv.pulse = false →
    ∃ t, exec .ijtagDebugReset s = .next t ∧ t.rst.active = true ∧ 6 ∈ t.rst.applied)

/-- The supplies' events complete: a power-on leaves every field at its reset value but the log, the straps, the fuse map and
what it sets; a power loss ends the epoch; with `VDD_CORE` the ROM powers PD01 and PD13 and counts the epoch up; a fall outside
Parked is a source that no write pulse holds, one in Parked is not; an image that passes runs (R51, R297, R380, R423, R435,
R436, R438 to R440, R442, R443). -/
def Obligations.SupplyEventsComplete : Prop :=
  (∀ f k s, ∃ t, exec (.powerOn f k) s = .next t ∧ t.fuse = f ∧ t.die = k ∧ t.pending = s.pending ∧
    t.rst = State.reset.rst ∧ t.pwr = State.reset.pwr ∧ t.grid = State.reset.grid ∧ t.hrw = State.reset.hrw ∧
    t.stw = State.reset.stw ∧ t.smp = State.reset.smp ∧ t.led = State.reset.led ∧ t.roles = [] ∧ t.place = State.reset.place ∧
    t.conf = State.reset.conf ∧ t.arc = State.reset.arc ∧ t.trc = State.reset.trc ∧ t.buf = State.reset.buf ∧
    t.dump = State.reset.dump ∧ t.fence = (if f.crcOk then f.fncPwrOn else BitVec.allOnes 256) ∧
    t.time.state = .unlocked ∧ (s.rst.aonOk = false → t.nv = s.nv)) ∧
  (∀ s, s.rst.aonOk = true →
    ∃ t, exec .powerLoss s = .next t ∧ t.rst.aonOk = false ∧ t.rst.coreOk = false ∧ t.pwr.on = 0 ∧ t.nv.queue = [] ∧
      t.nv.pulse = false) ∧
  (∀ s, s.rst.aonOk = true → s.rst.coreOk = false → s.pwr.on.getLsbD 1 = false → s.nv.epoch ≠ 0xFFFFFFFF →
    ∃ t, exec .pwrOkCoreRise s = .next t ∧ t.rst.coreOk = true ∧ t.pwr.on = s.pwr.on ||| 0x2002 ∧ t.epoch = s.nv.epoch + 1 ∧
      t.nv.queue = s.nv.queue ++ [.epoch (s.nv.epoch + 1)] ∧ 50000 ≤ t.time.osc) ∧
  (∀ s, s.rst.aonOk = true → s.rst.coreOk = false → s.pwr.on.getLsbD 1 = false → s.nv.epoch = 0xFFFFFFFF →
    ∃ t, exec .pwrOkCoreRise s = .next t ∧ t.rst.coreOk = true ∧ t.pwr.on = s.pwr.on ||| 0x2002 ∧ t.exhausted = true ∧
      t.nv.queue = s.nv.queue ∧ 50000 ≤ t.time.osc) ∧
  (∀ s, s.rst.aonOk = true → s.rst.coreOk = false → s.pwr.on.getLsbD 1 = true → s.pwr.wakeAsked = false →
    exec .pwrOkCoreRise s = .next (onRst (fun r => { r with coreOk := true }) s)) ∧
  (∀ s, s.rst.aonOk = true → s.rst.coreOk = false → s.pwr.on.getLsbD 1 = true → s.pwr.parked = true → s.pwr.wakeAsked = true →
    s.pwr.waking = none →
    ∃ t, exec .pwrOkCoreRise s = .next t ∧ t.rst.coreOk = true ∧ t.pwr.waking = some s.time.osc) ∧
  (∀ s, s.rst.aonOk = true → s.rst.coreOk = true → s.pwr.parked = false →
    ∃ t, exec .brownOut s = .next t ∧ t.rst.active = true ∧ 2 ∈ t.rst.applied ∧ (∀ c ∈ s.rst.pending, c ∈ t.rst.applied) ∧
      t.rst.pending = [] ∧ t.rst.coreOk = false) ∧
  (∀ s, s.rst.aonOk = true → s.pwr.parked = true →
    exec .pwrOkCoreFallParked s = .next (onRst (fun r => { r with coreOk := false }) s)) ∧
  (∀ i s, s.rst.aonOk = true → s.pwr.on.getLsbD 1 = true → s.rst.coreOk = true → s.rst.active = false → s.stw.running = none →
    imageReject i s = none →
    ∃ t, exec (.bootImageRun i) s = .next t ∧ t.stw.running = some i ∧ t.stw.committed = some i ∧ t.stw.serving = true)

/-- The reset sources complete: a source is held while a write pulse is in progress and applied with what is held when none
is; a lock-up waits for its dump, or resets the Steward alone; the end of a pulse commits one record and applies what is held;
the release ends the reset (R439 to R443, R447, R452, R453). -/
def Obligations.ResetEventsComplete : Prop :=
  (∀ n s, s.rst.aonOk = true → 50 ≤ n → s.nv.pulse = true →
    ∃ t, exec (.pinReset n) s = .next t ∧ t.rst.pinLow = true ∧ t.rst.pending = s.rst.pending ++ [3] ∧
      t.rst.active = s.rst.active) ∧
  (∀ n s, s.rst.aonOk = true → 50 ≤ n → s.nv.pulse = false →
    ∃ t, exec (.pinReset n) s = .next t ∧ t.rst.pinLow = true ∧ t.rst.active = true ∧ 3 ∈ t.rst.applied) ∧
  (∀ s, s.rst.aonOk = true → exec .pinResetRelease s = .next (onRst (fun r => { r with pinLow := false }) s)) ∧
  (∀ s, s.rst.aonOk = true → mayRelease s = true →
    ∃ t, exec .samplerRelease s = .next t ∧ t.rst.active = false ∧ t.rst.applied = [] ∧ t.pwr.inReset = 0 ∧
      t.stw.serving = s.stw.running.isSome) ∧
  (∀ s, s.rst.aonOk = true → watchdogRuns s = true → s.nv.pulse = true →
    ∃ t, exec .watchdogTimeout s = .next t ∧ t.rst.pending = s.rst.pending ++ [4]) ∧
  (∀ s, s.rst.aonOk = true → watchdogRuns s = true → s.nv.pulse = false →
    ∃ t, exec .watchdogTimeout s = .next t ∧ t.rst.active = true ∧ 4 ∈ t.rst.applied) ∧
  (∀ s, s.rst.aonOk = true → watchdogRuns s = true →
    exec .watchdogPrewarning s = .next (autoDump 4 (untilOsc (s.stw.lastService + 50000000) s))) ∧
  (∀ s, s.rst.aonOk = true → watchdogRuns s = true → autoAccepted s = true →
    ∃ t, exec .lockup s = .next t ∧ t.rst = s.rst ∧ t.dump.awaiting = s.dump.awaiting ++ [(false, 8)] ∧
      t.dump.pending = s.dump.pending ++ [{ trigger := 5, reqFt := s.time.ft, dest := 0, desc := none }]) ∧
  (∀ s, s.rst.aonOk = true → watchdogRuns s = true → autoAccepted s = false → s.nv.pulse = false → s.rst.pending = [] →
    ∃ t, exec .lockup s = .next t ∧ t.rst.active = false ∧ t.rst.last = 8 ∧ t.stw.deferred = [] ∧
      t.dump.suppressed = s.dump.suppressed + 1) ∧
  (∀ g s, s.rst.aonOk = true → g < 32 → clockAwaited g s = true → autoAccepted s = true →
    ∃ t, exec (.clockFailure g) s = .next t ∧ t.rst = s.rst ∧ t.dump.awaiting = s.dump.awaiting ++ [(false, 7)] ∧
      t.pwr.dravaForced.getLsbD g = true ∧ t.pwr.xingWait.getLsbD g = true) ∧
  (∀ g s, s.rst.aonOk = true → g < 32 → clockAwaited g s = true → autoAccepted s = false → s.nv.pulse = false →
    ∃ t, exec (.clockFailure g) s = .next t ∧ t.rst.active = true ∧ 7 ∈ t.rst.applied ∧ t.pwr.dravaForced.getLsbD g = true) ∧
  (∀ e s, s.rst.aonOk = true → s.rst.softwareDue = some e → s.nv.pulse = true →
    ∃ t, exec .softwareReset s = .next t ∧ t.rst.softwareDue = none ∧ t.rst.pending = s.rst.pending ++ [5]) ∧
  (∀ e s, s.rst.aonOk = true → s.rst.softwareDue = some e → s.nv.pulse = false →
    ∃ t, exec .softwareReset s = .next t ∧ t.rst.softwareDue = none ∧ t.rst.active = true ∧ 5 ∈ t.rst.applied) ∧
  (∀ r rest s, s.rst.aonOk = true → s.nv.pulse = true → s.nv.queue = r :: rest → s.rst.pending = [] →
    ∃ t, exec .nvlogWriteComplete s = .next t ∧ t.nv.queue = rest ∧ t.nv.pulse = !rest.isEmpty ∧ t.rst = s.rst) ∧
  (∀ s, s.rst.aonOk = true → s.nv.pulse = true → (∃ c ∈ s.rst.pending, c ≠ 8) →
    ∃ t, exec .nvlogWriteComplete s = .next t ∧ t.rst.active = true ∧ t.rst.pending = [] ∧
      ∀ c ∈ s.rst.pending, c ∈ t.rst.applied)

/-- Parked is entered and left: entry waits for the snapshot, the gate and engines that are being reset, and ends the work in
progress; a wake starts the sequence, and its end runs the block again (R434, R436, R447). -/
def Obligations.ParkEventsComplete : Prop :=
  (∀ b s, s.rst.aonOk = true → s.pwr.parking = some b → s.grid.snapshotDue = false → s.upl.gate = none → s.pwr.quiescing = [] →
    s.pwr.releasing = [] →
    ∃ t, exec .parkEntryComplete s = .next t ∧ t.pwr.parked = true ∧ t.pwr.parking = none ∧ t.rst.parks = s.rst.parks + 1 ∧
      t.test.run = none ∧ ∀ d ∈ t.stw.deferred, ∃ k, d.work = .query k) ∧
  (∀ s, s.rst.aonOk = true → s.pwr.parking = none → s.pwr.parked = true → s.pwr.waking = none → s.rst.coreOk = true →
    ∃ t, exec .wake s = .next t ∧ t.pwr.waking = some s.time.osc ∧ t.pwr.parked = true) ∧
  (∀ s, s.rst.aonOk = true → s.pwr.parking = none → s.pwr.parked = true → s.pwr.waking = none → s.rst.coreOk = false →
    ∃ t, exec .wake s = .next t ∧ t.pwr.waking = none ∧ t.pwr.wakeAsked = true) ∧
  (∀ b s, s.rst.aonOk = true → s.pwr.parking = some b →
    exec .wake s = .next (onPwr (fun p => { p with wakeAfterEntry := true }) s)) ∧
  (∀ b s, s.rst.aonOk = true → s.pwr.parked = true → s.pwr.waking = some b → s.rst.coreOk = true →
    ∃ t, exec .wakeComplete s = .next t ∧ t.pwr.parked = false ∧ t.pwr.waking = none ∧ t.hrw.intSts.getLsbD 8 = true)

/-- Engines are reset and domains switched: an engine that has quiesced, or has not by its time, goes to its logic reset or to
its switch-off, the latter with its station isolated and a report; one that is released is in reset no longer and its command
completes; a domain settles in its state (R17, R433, R444, R453). -/
def Obligations.EngineEventsComplete : Prop :=
  (∀ d e s, s.rst.aonOk = true → (s.pwr.quiescing.find? fun q => q.1 == d) = some (d, .reset, e) →
    ∃ t, exec (.quiesceAck d) s = .next t ∧ (∀ q ∈ t.pwr.quiescing, q.1 ≠ d) ∧ (d, true) ∈ t.pwr.releasing ∧
      t.pwr.inReset = putBit s.pwr.inReset d true ∧ t.hrw.engQto = putBit s.hrw.engQto d false) ∧
  (∀ d e s, s.rst.aonOk = true → (s.pwr.quiescing.find? fun q => q.1 == d) = some (d, .off, e) →
    ∃ t, exec (.quiesceAck d) s = .next t ∧ (∀ q ∈ t.pwr.quiescing, q.1 ≠ d) ∧ (d, false) ∈ t.pwr.settling ∧
      d ∈ t.pwr.isolated ∧ t.hrw.engQto = putBit s.hrw.engQto d false) ∧
  (∀ d y e s, s.rst.aonOk = true → (s.pwr.quiescing.find? fun q => q.1 == d) = some (d, y, e) → (true, d) ∉ s.dump.awaiting →
    ∃ t, exec (.quiesceTimeout d) s = .next t ∧ t.hrw.engQto = putBit s.hrw.engQto d true ∧ d ∈ t.pwr.isolated ∧
      ((true, d) ∈ t.dump.awaiting ∨ ∀ q ∈ t.pwr.quiescing, q.1 ≠ d)) ∧
  (∀ d q s, s.rst.aonOk = true → (s.pwr.releasing.find? fun x => x.1 == d) = some (d, q) →
    ∃ t, exec (.engineRelease d) s = .next t ∧ (∀ x ∈ t.pwr.releasing, x.1 ≠ d) ∧ t.pwr.inReset = putBit s.pwr.inReset d false ∧
      t.hrw.engRst = putBit s.hrw.engRst d false ∧ t.hrw.intSts.getLsbD 9 = true ∧
      ∀ x ∈ t.stw.deferred, x.work ≠ .engineReset d) ∧
  (∀ d on s, s.rst.aonOk = true → (s.pwr.settling.find? fun x => x.1 == d) = some (d, on) →
    ∃ t, exec (.domainSettle d) s = .next t ∧ (∀ x ∈ t.pwr.settling, x.1 ≠ d) ∧ t.pwr.on = putBit s.pwr.on d on ∧
      (on = false → d ∈ t.pwr.isolated) ∧ ∀ x ∈ t.stw.deferred, x.work ≠ .domainSet d on)

/-- The Crossings' events complete: a clock that runs ends its group's wait and failure, whether or not the group waited; a
transfer that a Drava-compatible group's clock has not taken is counted and ends in error (R419, R420, R441). -/
def Obligations.CrossingEventsComplete : Prop :=
  (∀ g s, s.rst.aonOk = true → g < 32 →
    ∃ t, exec (.crossingClockStart g) s = .next t ∧ t.pwr.xingWait.getLsbD g = false ∧ t.pwr.dravaForced.getLsbD g = false) ∧
  (∀ g s, s.rst.aonOk = true → g < 32 → nativeGroup g s = false → mayTimeOut g s = true →
    ∃ t, exec (.dravaTimeout g) s = .next t ∧ t.hrw.xingTmo = satInc s.hrw.xingTmo) ∧
  (∀ g c s, s.rst.aonOk = true → g < 32 → nativeGroup g s = false → mayTimeOut g s = true → groupUse g s.fuse.plaza = .conc c →
    ∃ t, exec (.dravaTimeout g) s = .next t ∧ (conc c t).skipSeal = true) ∧
  (∀ g s, s.rst.aonOk = true → g < 32 → nativeGroup g s = false → mayTimeOut g s = true → groupUse g s.fuse.plaza = .byp →
    ∃ t, exec (.dravaTimeout g) s = .next t ∧ t.upl.byp = s.upl.byp.tail) ∧
  (∀ g u s, s.rst.aonOk = true → g < 32 → nativeGroup g s = false → mayTimeOut g s = true → groupUse g s.fuse.plaza = .fnc →
    s.test.run = some u → ∃ t, exec (.dravaTimeout g) s = .next t ∧ t.test.run = none)

/-- The time front's events complete: a word that fails its check is discarded and counted; outside Locked and Holdover the
first good word is kept and the second, if the two agree with their spacing, locks, never lowering the count; inside, a word in
the window is applied and one outside it is a mismatch, the third in a row of which leaves Locked; the front falls to Holdover
and to Lost by its times, and to Lost when the reference is gone (R27, R28, R31, R33, R49).  That an exhausted epoch never
locks is R49's. -/
def Obligations.TimeFrontEventsComplete : Prop :=
  (∀ n w s, s.rst.aonOk = true → wordOk w = false →
    ∃ t, exec (.ftiTimeWord n w) s = .next t ∧ t.time.crcDiscards = s.time.crcDiscards + 1 ∧ t.time.refOn = true ∧
      t.time.state = s.time.state) ∧
  (∀ n w s, s.rst.aonOk = true → wordOk w = true → timeValid s = false → s.exhausted = false → s.time.candidate = none →
    ∃ t, exec (.ftiTimeWord n w) s = .next t ∧ t.time.candidate = some (wordFt w, s.time.refNs + 4 * n) ∧
      t.time.state = s.time.state ∧ t.time.ft = s.time.ft) ∧
  (∀ n w v r s, s.rst.aonOk = true → wordOk w = true → timeValid s = false → s.exhausted = false →
    s.time.candidate = some (v, r) →
    inWindow s.time.mode (((wordFt w : Int) - v) - (((s.time.refNs + 4 * n : Nat) : Int) - r)) = true →
    ∃ t, exec (.ftiTimeWord n w) s = .next t ∧ t.time.state = .locked ∧ t.time.ft = max s.time.ft (wordFt w) ∧
      t.time.hold = s.time.ft - wordFt w ∧ t.time.candidate = none) ∧
  (∀ n w v r s, s.rst.aonOk = true → wordOk w = true → timeValid s = false → s.exhausted = false →
    s.time.candidate = some (v, r) →
    inWindow s.time.mode (((wordFt w : Int) - v) - (((s.time.refNs + 4 * n : Nat) : Int) - r)) = false →
    ∃ t, exec (.ftiTimeWord n w) s = .next t ∧ t.time.state = s.time.state ∧
      t.time.candidate = some (wordFt w, s.time.refNs + 4 * n)) ∧
  (∀ n w s, s.rst.aonOk = true → wordOk w = true → timeValid s = false → s.exhausted = true →
    ∃ t, exec (.ftiTimeWord n w) s = .next t ∧ t.time.state = s.time.state ∧ t.time.ft = s.time.ft) ∧
  (∀ n w u s, s.rst.aonOk = true → wordOk w = true → timeValid s = true →
    u = passEdges n (onTime (fun x => { x with refOn := true }) s) → inWindow s.time.mode ((wordFt w : Int) - u.time.ft) = true →
    ∃ t, exec (.ftiTimeWord n w) s = .next t ∧ t.time.state = .locked ∧ t.time.mismatchRun = 0 ∧
      t.time.mismatches = s.time.mismatches ∧ (s.time.mode ≠ 2 → t.time.ft = max u.time.ft (wordFt w) ∧
        t.time.hold = u.time.ft - wordFt w)) ∧
  (∀ n w u s, s.rst.aonOk = true → wordOk w = true → timeValid s = true →
    u = passEdges n (onTime (fun x => { x with refOn := true }) s) → inWindow s.time.mode ((wordFt w : Int) - u.time.ft) = false →
    ∃ t, exec (.ftiTimeWord n w) s = .next t ∧ t.time.mismatches = s.time.mismatches + 1 ∧ t.time.ft = u.time.ft ∧
      t.time.state = (if s.time.state = .locked ∧ 2 ≤ s.time.mismatchRun then .holdover else s.time.state)) ∧
  (∀ s, s.rst.aonOk = true → s.time.state = .locked →
    ∃ t, exec .ftiGoodWordTimeout s = .next t ∧ t.time.state = .holdover ∧ s.time.goodRef + 2000000 ≤ t.time.refNs) ∧
  (∀ s, s.rst.aonOk = true → s.time.state = .holdover →
    ∃ t, exec .holdoverTimeout s = .next t ∧ t.time.state = .lost ∧ t.grid.frame = none ∧ t.upl.gate = none ∧
      s.time.since + 1000000000 ≤ t.time.osc) ∧
  (∀ s, s.rst.aonOk = true → s.time.refOn = true →
    ∃ t, exec .ftiRefLoss s = .next t ∧ t.time.refOn = false ∧ t.time.state = .lost)

/-- The grid's events complete: at a boundary the open frame closes and, where the grid may run, the next opens; a halt takes
effect at the boundary; a change of period at its E; a snapshot that is complete forms the Leaf's record, or declares the frame
missing while the Ledger merger has no power (R22, R40, R41, R45, R52, R70 to R72, R98). -/
def Obligations.GridEventsComplete : Prop :=
  (∀ pace stopped f s, s.rst.aonOk = true → timeValid s = true → s.fuse.plaza = false → samplerLets s = true →
    s.grid.frame = some f →
    ∃ t q, exec (.frameBoundary pace stopped) s = .next t ∧
      t.grid.closed = some (f.frame, f.period, q, boundaryAt s) ∧ t.grid.snapshotDue = true) ∧
  (∀ pace stopped f s, s.rst.aonOk = true → timeValid s = true → s.fuse.plaza = true → s.grid.frame = some f →
    ∃ t q, exec (.frameBoundary pace stopped) s = .next t ∧
      t.grid.closed = some (f.frame, f.period, q, boundaryAt s) ∧ t.grid.snapshotDue = false) ∧
  (∀ pace stopped s, s.rst.aonOk = true → gridMayRun s = true → s.grid.haltPending = false → s.pwr.parkPending = false →
    s.grid.pending = none →
    ∃ t x, exec (.frameBoundary pace stopped) s = .next t ∧ t.grid.frame = some x ∧ x.frame = frameAt (boundaryAt s) s ∧
      x.period = s.grid.period) ∧
  (∀ pace stopped s, s.rst.aonOk = true → timeValid s = true → s.grid.haltPending = true →
    ∃ t, exec (.frameBoundary pace stopped) s = .next t ∧ t.grid.halted = true ∧ t.grid.haltPending = false ∧
      t.grid.frame = none) ∧
  (∀ p e s, s.rst.aonOk = true → timeValid s = true → s.grid.pending = some (p, e) →
    ∃ t, exec .periodChangeEffect s = .next t ∧ t.grid.period = p ∧ t.grid.pending = none ∧ t.grid.newPeriodDue = true) ∧
  (∀ fs n p q ft s, s.rst.aonOk = true → s.grid.closed = some (n, p, q, ft) → snapshotReady s = true → engineUp 3 s = true →
    leafFailed s = false → s.led.carry = none → s.place.parent.isSome = true →
    ∃ t, exec (.frameSnapshotComplete fs) s = .next t ∧ t.grid.snapshotDue = false ∧ t.led.seq = s.led.seq + 1) ∧
  (∀ fs n p q ft s, s.rst.aonOk = true → s.grid.closed = some (n, p, q, ft) → snapshotReady s = true → engineUp 3 s = false →
    ∃ t, exec (.frameSnapshotComplete fs) s = .next t ∧ t.grid.snapshotDue = false ∧ t.led.seq = s.led.seq ∧
      t.grid.missCount = s.grid.missCount + 1)

/-- The concentrators' events complete: an edge adds each configured line's count to the current half; a word leaves its half
and reaches the line's counters, or, with a parity error, is left where it is; a seal copies its concentrator's counters, one
that names a frame already over leaves them to the next; an update of an enabled gauge is taken (R54 to R56, R59 to R61, R66,
R71, R76, R78, R420). -/
def Obligations.SamplerEventsComplete : Prop :=
  (∀ c levels s, s.rst.aonOk = true → frontSees c s = true → tabWf 0 s.smp.lines = true → tabWf 0 s.smp.acc = true →
    tabWf Conc.start s.smp.concs = true →
    ∃ t, exec (.evtOccurrence c levels) s = .next t ∧ (conc c t).levels = levels ∧
      (∀ l, l / 256 = c → tget 0 l s.smp.lines ≠ 0 → accOf l (conc c s).half t
        = (accOf l (conc c s).half s + lineCount (tget 0 l s.smp.lines) (l % 256) (conc c s).levels levels) % 2 ^ 40) ∧
      ∀ l h, (l / 256 ≠ c ∨ h ≠ (conc c s).half ∨ tget 0 l s.smp.lines = 0) → accOf l h t = accOf l h s) ∧
  (∀ line h n s, s.rst.aonOk = true → samplerUp s = true → frontSees (line / 256) s = true → wordPossible line h n s = true →
    tabWf 0 s.smp.acc = true →
    ∃ t, exec (.drainWord line h n true) s = .next t ∧ accOf line h t = accOf line h s - n ∧
      ∀ e ∈ s.smp.counters, bindEnable e.2.binding = true → e.2.gone = false → bindSrcCmp e.2.binding = false →
        bindSrc e.2.binding = line → (e.1, { e.2 with inc := e.2.inc + n }) ∈ t.smp.counters) ∧
  (∀ line h n s, s.rst.aonOk = true → samplerUp s = true → frontSees (line / 256) s = true → wordPossible line h n s = true →
    ∃ t, exec (.drainWord line h n false) s = .next t ∧ t.smp.acc = s.smp.acc ∧
      (16 ≤ (recentParity (collectingFrame s) ((conc (line / 256) s).parity ++ [collectingFrame s])).length →
        (6, line / 256) ∈ t.pwr.culDeSac)) ∧
  (∀ c s, s.rst.aonOk = true → samplerUp s = true → frontSees c s = true → (conc c s).sealDue = true →
    halfDrained c (!(conc c s).half) s = true → (conc c s).late = false →
    ∃ t, exec (.sealWord c) s = .next t ∧ (conc c t).sealed = true ∧ (conc c t).sealDue = false ∧
      ∀ e ∈ s.smp.counters, boundTo c e.2 = true → (e.1, { e.2 with snapInc := some e.2.inc, inc := 0 }) ∈ t.smp.counters) ∧
  (∀ c s, s.rst.aonOk = true → samplerUp s = true → frontSees c s = true → (conc c s).sealDue = true →
    halfDrained c (!(conc c s).half) s = true → (conc c s).late = true → tabWf Conc.start s.smp.concs = true →
    ∃ t, exec (.sealWord c) s = .next t ∧ (conc c t).sealDue = false ∧ t.grid.carryDue = true ∧
      t.smp.counters = s.smp.counters) ∧
  (∀ c i v s, s.rst.aonOk = true → frontSees c s = true → i < 64 → gaugeEnable (gauge (64 * c + i) s).config = true → v < 2 ^ 32 →
    ∃ t, exec (.gaugeUpdate c i v) s = .next t ∧ gauge (64 * c + i) t = takeUpdate v (gauge (64 * c + i) s))

/-- The tiers' ledger events complete: a whole record of a child's present epoch, for a frame that nothing of it is merged
into, is merged; one for a final frame is late; one of another epoch ends the epoch held; a cut-off closes the primary
record, a repair window's end leaves no held record with gaps, a horizon makes the frame final; the records of both leave for
every parent replica; an acknowledgement ends a Leaf's ownership, and a Plaza chip's roles take theirs (R50, R97 to R99,
R115, R117 to R119, R121). -/
def Obligations.LedgerEventsComplete : Prop :=
  (∀ role (rcd : Record) lc lg r c f s, s.rst.aonOk = true → mergerUp s = true → role ≠ .forum → findRole role s = some r →
    childOf (childKey rcd) r = some c → r.liveFt ≤ frameOpens rcd.frame rcd.period → rcd.epoch = c.epoch →
    frameOf rcd.frame rcd.period r = some f → r.finalTo ≤ frameOpens rcd.frame rcd.period →
    isDeclared c.source f = false → (c.source, rcd.seq) ∉ f.voidSeqs → c.source ∉ f.finals →
    (c.seqNext ≤ rcd.seq ∨ coverSize (recordCover rcd) ≠ 0) → coverMeets (recordCover rcd) f.cover = false →
    ¬ (coverSize (recordCover rcd) ≠ 0 ∧ coverInside (recordCover rcd) f.cover = true) →
    ∃ t q g, exec (.ledgerRecordReceive role rcd [] lc lg) s = .next t ∧ findRole role t = some q ∧
      frameOf rcd.frame rcd.period q = some g ∧ isMerged (childKey rcd) g = true) ∧
  (∀ role (rcd : Record) m lc lg r c s, s.rst.aonOk = true → mergerUp s = true → findRole role s = some r →
    childOf (childKey rcd) r = some c → r.liveFt ≤ frameOpens rcd.frame rcd.period → rcd.epoch = c.epoch →
    frameOpens rcd.frame rcd.period < r.finalTo →
    ∃ t q, exec (.ledgerRecordReceive role rcd m lc lg) s = .next t ∧ findRole role t = some q ∧
      q.lateAfterFinal = r.lateAfterFinal + 1 ∧ q.frames = r.frames) ∧
  (∀ role (rcd : Record) m lc lg r c s, s.rst.aonOk = true → mergerUp s = true → findRole role s = some r →
    childOf (childKey rcd) r = some c → r.liveFt ≤ frameOpens rcd.frame rcd.period → rcd.epoch ≠ c.epoch →
    ∃ t q d, exec (.ledgerRecordReceive role rcd m lc lg) s = .next t ∧ findRole role t = some q ∧
      childOf (childKey rcd) q = some d ∧ d.epoch = rcd.epoch) ∧
  (∀ role n p f s, s.rst.aonOk = true → mergerUp s = true → timeValid s = true →
    (findRole role s).bind (frameOf n p) = some f → f.closed = false →
    ∃ t q g, exec (.tierCutoff role n p) s = .next t ∧ findRole role t = some q ∧ frameOf n p q = some g ∧ g.closed = true ∧
      (role ≠ .forum → ∃ y ∈ q.sent, y.record.kind = 1 ∧ y.record.frame = n ∧ y.record.period = p ∧
        ∀ d ∈ parentsOf q t, Leaves 1 (.ledger d y.record 0 0xFFFF) t)) ∧
  (∀ role n p r f s, s.rst.aonOk = true → mergerUp s = true → timeValid s = true → findRole role s = some r →
    frameOf n p r = some f → (∀ h ∈ f.held, h.record.frame = n ∧ h.record.period = p) →
    ∃ t q g, exec (.repairWindowEnd role n p) s = .next t ∧ findRole role t = some q ∧ frameOf n p q = some g ∧
      ∀ h ∈ g.held, h.missing = []) ∧
  (∀ role n p f s, s.rst.aonOk = true → mergerUp s = true → timeValid s = true →
    (findRole role s).bind (frameOf n p) = some f →
    ∃ t q, exec (.settleHorizon role n p) s = .next t ∧ findRole role t = some q ∧ q.lastFinal = some n ∧
      frameEnds n p ≤ q.finalTo ∧ frameOf n p q = none ∧
      (role ≠ .forum → ∃ y ∈ q.sent, y.record.kind = 3 ∧ y.record.frame = n ∧ y.record.period = p ∧
        ∀ d ∈ parentsOf q t, Leaves 1 (.ledger d y.record 0 0xFFFF) t)) ∧
  (∀ (a : Ack) p n s, s.rst.aonOk = true → s.fuse.plaza = false → engineUp 3 s = true → a.bodyOk = true → a.child = s.die →
    a.epoch = s.epoch → s.place.parent = some p → a.ackFrame = some n →
    ∃ t, exec (.ledgerAck a p) s = .next t ∧ t.led.retained = keptAfter n s) ∧
  (∀ (a : Ack) p s, s.rst.aonOk = true → s.fuse.plaza = true → engineUp 3 s = true → a.bodyOk = true →
    exec (.ledgerAck a p) s = .next (roleAck .quarter a p (roleAck .plaza a p s)))

/-- The tiers' alerts complete: a counted report that a role has not taken adds to the entry of its key, or makes one while the
table has room; a storm entry joins the summary of its window (R129 to R131). -/
def Obligations.AlertEventsComplete : Prop :=
  (∀ role (p : Report) r e s, s.rst.aonOk = true → mergerUp s = true → findRole role s = some r →
    AlertEntry.report p ∉ r.counted → p.isOpen = false → r.closedTo ≤ p.ft → e ∈ r.merge → sameKey p e = true →
    ∃ t q, exec (.faultReportReceive role p) s = .next t ∧ findRole role t = some q ∧ joinReport p e ∈ q.merge) ∧
  (∀ role (p : Report) r s, s.rst.aonOk = true → mergerUp s = true → findRole role s = some r →
    AlertEntry.report p ∉ r.counted → r.closedTo ≤ p.ft → (∀ e ∈ r.merge, sameKey p e = false) →
    r.merge.length < Config.mergeEntries →
    ∃ t q, exec (.faultReportReceive role p) s = .next t ∧ findRole role t = some q ∧ entryOfReport p ∈ q.merge) ∧
  (∀ role (p : Report) r s, s.rst.aonOk = true → mergerUp s = true → findRole role s = some r → AlertEntry.report p ∈ r.counted →
    ∃ t, exec (.faultReportReceive role p) s = .next t ∧ t.roles = s.roles) ∧
  (∀ role (e : StormEntry) r s, s.rst.aonOk = true → mergerUp s = true → findRole role s = some r →
    AlertEntry.storm e ∉ r.counted → r.closedTo ≤ e.ft → (∀ x ∈ r.storms, ¬ (x.window = e.window ∧ x.code = e.code)) →
    (stormCodes e.window r).length < 256 →
    ∃ t q, exec (.stormEntryReceive role e) s = .next t ∧ findRole role t = some q ∧
      ({ e with source := roleSource r, tier := tierOf r.kind + 4 * r.replica, epoch := s.epoch, continued := false }
        : StormEntry) ∈ q.storms) ∧
  (∀ role (e : StormEntry) r s, s.rst.aonOk = true → mergerUp s = true → findRole role s = some r → AlertEntry.storm e ∈ r.counted →
    ∃ t, exec (.stormEntryReceive role e) s = .next t ∧ t.roles = s.roles)

/-- The placement table's events complete: a newer part that is whole is taken; the leader issues a table under the next
generation, and sends each block its part again; a chip that has been alive for 10 s is listed, or its Leaves go home (R137 to
R139, R161, R163). -/
def Obligations.TableEventsComplete : Prop :=
  (∀ (p : TablePart) s, s.rst.aonOk = true → p.checksOk = true → engineUp 12 s = true → p.target = selfSource s →
    followsHeld p s = true → (s.fuse.plaza = true ∨ trying s = false) →
    ∃ t, exec (.placementTablePart p) s = .next t ∧
      t.place.part = some { p with
        parts := if p.toLeaf && p.parts.isEmpty then (s.place.part.map (·.parts)).getD [] else p.parts } ∧
      t.place.generation = max s.place.generation p.generation) ∧
  (∀ cause chips s, s.rst.aonOk = true → engineUp 12 s = true → isLeader s = true →
    ∃ t, exec (.placementTableIssue cause chips) s = .next t ∧ t.place.generation = s.place.generation + 1 ∧
      t.place.chips = chips ∧ ∀ p ∈ t.place.issued, p.generation = s.place.generation + 1) ∧
  (∀ s, s.rst.aonOk = true → engineUp 12 s = true → isLeader s = true → s.place.issued ≠ [] →
    ∃ t, exec .tableResend s = .next t ∧ t.place.issuedAt = t.time.timer ∧
      ∀ p ∈ s.place.issued, Queued (.table p.target p) t) ∧
  (∀ tray s, s.rst.aonOk = true → s.fuse.plaza = true → timeValid s = true → engineUp 12 s = true → isLeader s = true →
    tget 0 tray s.place.liveSince ≠ 0 → tabWf 0 s.place.liveSince = true →
    ∃ t, exec (.livenessHoldComplete tray) s = .next t ∧ t.place.generation = s.place.generation + 1 ∧
      tget 0 tray t.place.liveSince = 0) ∧
  (∀ tray s, s.rst.aonOk = true → s.fuse.plaza = true → timeValid s = true → engineUp 12 s = true →
    (isLeader s = false ∨ tget 0 tray s.place.liveSince = 0) →
    exec (.livenessHoldComplete tray) s = .next (releaseLeaves (foreignOf tray s) (plazaSource tray) s))

/-- The adoption handshake's events complete at the candidate: an offer or a refusal answers a request, the census and an
acknowledgement a confirm within the ceiling, a refusal one beyond it; an offer of another epoch is dropped (R142, R146, R149,
R150). -/
def Obligations.CandidateEventsComplete : Prop :=
  (∀ (m : AdoptMsg) s, s.rst.aonOk = true → candidateUp s = true → m.crcOk = true → m.parent = plazaSource (trayOf s.die) →
    refusal m s = none →
    ∃ t x, exec (.adoptReq m) s = .next t ∧
      ({ die := m.die, home := m.home, epoch := m.epoch, ackFrame := m.frameA,
         keptFt := if m.retained = 0 then none else some (frameOpens m.frameB m.period) } : Offer) ∈ t.place.offers ∧
      x ∈ t.upl.adoption ∧ dstKey x.1 = m.die ∧ x.2.2 = 2) ∧
  (∀ (m : AdoptMsg) reason s, s.rst.aonOk = true → candidateUp s = true → m.crcOk = true →
    m.parent = plazaSource (trayOf s.die) → refusal m s = some reason →
    ∃ t x, exec (.adoptReq m) s = .next t ∧ t.place.offers = s.place.offers ∧
      x ∈ t.upl.adoption ∧ dstKey x.1 = m.die ∧ x.2.2 = 5 ∧ x.2.1.pos = reason) ∧
  (∀ (m : AdoptMsg) o s, s.rst.aonOk = true → candidateUp s = true → m.crcOk = true →
    (s.place.offers.find? fun o => o.die == m.die) = some o → o.epoch = m.epoch →
    ((plazaCensus s).filter fun c => c.source != m.die).length + 1 ≤ ceilingFor o.home s →
    ∃ t q c x, exec (.adoptConfirm m) s = .next t ∧ findRole .plaza t = some q ∧ childOf m.die q = some c ∧ c.epoch = o.epoch ∧
      c.joinFt = nextOpenFt s ∧ c.leaveFt = none ∧ x ∈ t.upl.adoption ∧ dstKey x.1 = m.die ∧ x.2.2 = 4) ∧
  (∀ (m : AdoptMsg) o s, s.rst.aonOk = true → candidateUp s = true → m.crcOk = true →
    (s.place.offers.find? fun o => o.die == m.die) = some o → o.epoch = m.epoch →
    ceilingFor o.home s < ((plazaCensus s).filter fun c => c.source != m.die).length + 1 →
    ∃ t x, exec (.adoptConfirm m) s = .next t ∧ t.roles = s.roles ∧
      x ∈ t.upl.adoption ∧ dstKey x.1 = m.die ∧ x.2.2 = 5 ∧ x.2.1.pos = 1) ∧
  (∀ (m : AdoptMsg) o s, s.rst.aonOk = true → candidateUp s = true → m.crcOk = true →
    (s.place.offers.find? fun o => o.die == m.die) = some o → o.epoch ≠ m.epoch →
    ∃ t, exec (.adoptConfirm m) s = .next t ∧ t.roles = s.roles ∧ ∀ x ∈ t.place.offers, x.die ≠ m.die) ∧
  (∀ (m : AdoptMsg) s, s.rst.aonOk = true → candidateUp s = true → m.crcOk = false →
    exec (.adoptReq m) s = .next (onUpl (fun u => { u with discards := u.discards + 1 }) s) ∧
    exec (.adoptConfirm m) s = .next (onUpl (fun u => { u with discards := u.discards + 1 }) s))

/-- The adoption handshake's events complete at the Leaf: an offer is confirmed, an acknowledgement adopts, a refusal or a
silence of 2 ms goes to the next entry of the list, past whose end the Leaf is an orphan; an orphan starts its list again once
a second, or on its parent's word; a release names where to go (R148 to R151, R161). -/
def Obligations.AdoptionEventsComplete : Prop :=
  (∀ (m : AdoptMsg) s, s.rst.aonOk = true → s.fuse.plaza = false → fromCandidate m s = true → s.place.phase = .requesting →
    ∃ t x, exec (.adoptOffer m) s = .next t ∧ t.place.phase = .confirming ∧ t.place.candidate = some m.parent ∧
      x ∈ t.upl.adoption ∧ dstKey x.1 = m.parent ∧ x.2.2 = 3) ∧
  (∀ (m : AdoptMsg) s, s.rst.aonOk = true → s.fuse.plaza = false → fromCandidate m s = true → s.place.phase = .confirming →
    ∃ t, exec (.adoptAck m) s = .next t ∧ t.place.phase = .adopted ∧ t.place.parent = some m.parent ∧
      t.place.candidate = none ∧ t.led.carry = none) ∧
  (∀ (m : AdoptMsg) chip s, s.rst.aonOk = true → s.fuse.plaza = false → fromCandidate m s = true →
    (altList s)[s.place.position + 1]? = some chip →
    ∃ t, exec (.adoptRefuse m) s = .next t ∧ t.place.phase = .requesting ∧ t.place.candidate = some chip ∧
      t.place.position = s.place.position + 1) ∧
  (∀ (m : AdoptMsg) s, s.rst.aonOk = true → s.fuse.plaza = false → fromCandidate m s = true →
    (altList s)[s.place.position + 1]? = none →
    ∃ t, exec (.adoptRefuse m) s = .next t ∧ t.place.phase = .orphan ∧ t.place.parent = none ∧
      t.place.retryAt = s.time.timer + 1000000000) ∧
  (∀ k chip s, s.rst.aonOk = true → s.fuse.plaza = false → trying s = true → timeValid s = true → s.place.candidate = some k →
    s.upl.adoption = [] → tget 0 k s.place.sentAt ≠ 0 → (altList s)[s.place.position + 1]? = some chip →
    ∃ t, exec .adoptTryTimeout s = .next t ∧ t.place.phase = .requesting ∧ t.place.candidate = some chip ∧
      t.place.position = s.place.position + 1) ∧
  (∀ k s, s.rst.aonOk = true → s.fuse.plaza = false → trying s = true → timeValid s = true → s.place.candidate = some k →
    s.upl.adoption = [] → tget 0 k s.place.sentAt ≠ 0 → (altList s)[s.place.position + 1]? = none →
    ∃ t, exec .adoptTryTimeout s = .next t ∧ t.place.phase = .orphan ∧ t.place.parent = none) ∧
  (∀ chip s, s.rst.aonOk = true → s.fuse.plaza = false → s.place.phase = .orphan → (altList s)[0]? = some chip →
    (∃ t, exec .orphanRetry s = .next t ∧ t.place.phase = .requesting ∧ t.place.candidate = some chip ∧ t.place.position = 0) ∧
    ∀ m : AdoptMsg, m.crcOk = true → m.die = s.die →
      (∃ t, exec (.keepalive m) s = .next t ∧ t.place.phase = .requesting ∧ t.place.candidate = some chip) ∧
      ∃ t, exec (.release m) s = .next t ∧ t.place.phase = .requesting ∧ t.place.candidate = some chip) ∧
  (∀ (m : AdoptMsg) s, s.rst.aonOk = true → s.fuse.plaza = false → s.place.phase = .adopted → s.place.parent = some m.parent →
    m.crcOk = true → m.die = s.die → m.nextChip ≠ 0xFFFFFFFF →
    ∃ t, exec (.release m) s = .next t ∧ t.place.phase = .requesting ∧ t.place.candidate = some m.nextChip ∧
      t.place.parent = none) ∧
  (∀ (m : AdoptMsg) chip s, s.rst.aonOk = true → s.fuse.plaza = false → s.place.phase = .adopted →
    s.place.parent = some m.parent → m.crcOk = true → m.die = s.die → m.nextChip = 0xFFFFFFFF → (altList s)[0]? = some chip →
    ∃ t, exec (.release m) s = .next t ∧ t.place.phase = .requesting ∧ t.place.candidate = some chip ∧ t.place.parent = none)

/-- The links' events complete: a keepalive or a beacon says that its sender lives, a Quarter replica's beacon also which
Forum replicas it hears; a link that has been quiet for 1 ms gets one; a silent peer is marked, and a Leaf whose parent it is
starts on the next entry; without any Forum replica for 10 ms a Quarter replica turns to the successors (R136, R153, R154,
R160). -/
def Obligations.LinkEventsComplete : Prop :=
  (∀ (m : AdoptMsg) s, s.rst.aonOk = true → m.crcOk = true → (s.fuse.plaza = true ∨ (m.die = s.die ∧ s.place.phase ≠ .orphan)) →
    ∃ t k, exec (.keepalive m) s = .next t ∧ k = parentName (if s.fuse.plaza then replicaKey m.parent m.rep else m.parent) s ∧
      tget 0 k t.place.heardAt = s.time.live + 1 ∧ k ∉ t.place.silent) ∧
  (∀ (m : AdoptMsg) s, s.rst.aonOk = true → m.crcOk = true → s.fuse.plaza = true →
    ∃ t k, exec (.beacon m) s = .next t ∧ k = replicaKey m.die m.rep ∧ tget 0 (parentName k s) t.place.heardAt = s.time.live + 1 ∧
      parentName k s ∉ t.place.silent ∧ (sourceKind m.die = 2 → tget 0 k t.place.heardBy = m.heard)) ∧
  (∀ peer s, s.rst.aonOk = true → isPeer peer s = true → timeValid s = true → engineUp 12 s = true →
    ∃ t x, exec (.keepaliveDue peer) s = .next t ∧ x ∈ t.upl.adoption ∧ dstKey x.1 = peer ∧ (x.2.2 = 7 ∨ x.2.2 = 8)) ∧
  (∀ peer s, s.rst.aonOk = true → isPeer peer s = true → timeValid s = true →
    ∃ t, exec (.linkSilence peer) s = .next t ∧ peer ∈ t.place.silent ∧
      (s.fuse.plaza = false → t.place.parent = none ∧ t.place.phase ≠ .adopted)) ∧
  (∀ r s, s.rst.aonOk = true → findRole .quarter s = some r → timeValid s = true → s.place.redirected = false →
    ∃ t, exec .forumSilence s = .next t ∧ t.place.redirected = true)

/-- The Steward's own events complete: the first copy of a relayed command opens an entry and goes on to the children in
scope, a later one is answered from the entry or joins it; a child's completion is combined, a late one counted; when the wait
ends the silent ones are known; an idle session closes, a notice goes to its recipients, a ring that has room takes what was
held (R366, R368, R369, R374, R375, R386). -/
def Obligations.StewardEventsComplete : Prop :=
  (∀ cls p tag cmd sc k b s, s.rst.aonOk = true → stewardUp s = true →
    (s.stw.replies.find? fun e => e.cls == cls && e.partition == p && e.tag == tag && e.cmd == cmd) = none →
    ∃ t e, exec (.relayedCommand cls p tag cmd sc k b) s = .next t ∧ e ∈ t.stw.replies ∧ e.cls = cls ∧ e.partition = p ∧
      e.tag = tag ∧ e.cmd = cmd ∧
      ∀ c ∈ (relayChildren sc s).take (Config.replyEntries - replySlots s), Queued (.relay c cls p tag cmd sc) t ∧
        (b ≠ [] → Queued (.attachment c tag b) t)) ∧
  (∀ cls p tag cmd sc k b e s, s.rst.aonOk = true → stewardUp s = true →
    (s.stw.replies.find? fun e => e.cls == cls && e.partition == p && e.tag == tag && e.cmd == cmd) = some e → e.done = true →
    ∃ t x, exec (.relayedCommand cls p tag cmd sc k b) s = .next t ∧ x = relayTallies e s ∧
      Queued (.relayDone k tag cmd x.ok x.fail x.none x.first x.first8) t ∧
      t.stw.replies = s.stw.replies) ∧
  (∀ cls p tag cmd sc k b e s, s.rst.aonOk = true → stewardUp s = true →
    (s.stw.replies.find? fun e => e.cls == cls && e.partition == p && e.tag == tag && e.cmd == cmd) = some e → e.done = false →
    (e.ownDue = true ∨ e.waiting ≠ []) →
    ∃ t x, exec (.relayedCommand cls p tag cmd sc k b) s = .next t ∧ x ∈ t.stw.replies ∧ x.tag = tag ∧ x.cmd = cmd ∧
      k ∈ x.askers ∧ x.waiting = e.waiting) ∧
  (∀ tag cmd child ok fail quiet first (l : List Nat) s, s.rst.aonOk = true →
    (∀ e ∈ s.stw.replies, e.tag = tag → e.cmd = cmd → e.done = false → child ∉ e.waiting) →
    exec (.relayCompletion tag cmd child ok fail quiet first l) s
      = .next (onStw (fun t => { t with lateCompletions := t.lateCompletions + 1 }) s)) ∧
  (∀ tag cmd child ok fail quiet first (l : List Nat) e s, s.rst.aonOk = true →
    (s.stw.replies.find? fun e => (e.tag == tag && e.cmd == cmd && e.waiting.contains child) && !e.done) = some e →
    ∃ t x, exec (.relayCompletion tag cmd child ok fail quiet first l) s = .next t ∧ x ∈ t.stw.replies ∧ x.tag = tag ∧
      x.cmd = cmd ∧ x.waiting = (e.waiting.filter (· != child)) ∧
      x.answers = addAnswer { child := child, nOk := ok, nFail := fail, nNoReply := quiet, firstStatus := first, first8 := l }
        e.answers ∧
      x.done = (!e.ownDue && (e.waiting.filter (· != child)).isEmpty)) ∧
  (∀ tag cmd e s, s.rst.aonOk = true →
    (s.stw.replies.find? fun e => e.tag == tag && e.cmd == cmd && !e.done && !e.waiting.isEmpty) = some e →
    ∃ t x, exec (.relayTimeout tag cmd) s = .next t ∧ x ∈ t.stw.replies ∧ x.tag = tag ∧ x.cmd = cmd ∧ x.waiting = [] ∧
      x.silent = silentOf e ∧ x.done = !e.ownDue) ∧
  (∀ k s, s.rst.aonOk = true → stewardUp s = true → tabWf Slot.unused s.stw.slots = true →
    (tget Slot.unused k s.stw.slots).isOpen = true →
    ∃ t, exec (.sessionIdleTimeout k) s = .next t ∧ (tget Slot.unused k t.stw.slots).isOpen = false ∧
      (tget Slot.unused k t.stw.slots).generation = (tget Slot.unused k s.stw.slots).generation ∧
      ∀ d ∈ t.stw.deferred, d.issuer = .tenant (tget Slot.unused k s.stw.slots).partition k
        (tget Slot.unused k s.stw.slots).generation → d.dead = true) ∧
  (∀ subject n s, s.rst.aonOk = true → stewardUp s = true → (s.stw.notices.find? fun n => n.subject == subject) = some n →
    recipients n.partition s ≠ [] →
    ∃ t, exec (.noticeDeliver subject) s = .next t ∧ t.stw.notices = s.stw.notices.filter (· != n) ∧
      ∀ i ∈ recipients n.partition s, Told i (noticeMsg n) t) ∧
  (∀ k cons s, s.rst.aonOk = true → stewardUp s = true → (tget Slot.unused k s.stw.slots).isOpen = true →
    (tget Slot.unused k s.stw.slots).ringN < 2 ^ 32 → (tget Slot.unused k s.stw.slots).prod < 2 ^ 32 → cons < 2 ^ 32 →
    ringFill { tget Slot.unused k s.stw.slots with cons := cons } + (tget Slot.unused k s.stw.slots).held.length
      ≤ (tget Slot.unused k s.stw.slots).ringN →
    ∃ t, exec (.responseRingResume k cons) s = .next t ∧ (tget Slot.unused k t.stw.slots).cons = cons ∧
      (tget Slot.unused k t.stw.slots).held = [] ∧ (tget Slot.unused k t.stw.slots).prod
        = ((tget Slot.unused k s.stw.slots).prod + (tget Slot.unused k s.stw.slots).held.length) % 2 ^ 32)

/-- A step with a command at the front of the queue is that command's effect on the state with the queue's rest. -/
def Obligations.StepServesTheFront : Prop :=
  ∀ c rest s, s.pending = c :: rest → step s = exec c { s with pending := rest }

/-- With nothing waiting the block idles: one edge of 4 ns passes where PD00 is powered, nothing else changes (the model's
choice, log entry 10; the edge is R26's). -/
def Obligations.IdleStepPassesAnEdge : Prop :=
  (∀ s, s.pending = [] → s.rst.aonOk = true →
    ∃ t, step s = .next t ∧ t = { s with time := t.time } ∧ t.time.osc = s.time.osc + 4 ∧ t.time.state = s.time.state ∧
      (timeValid s = true → s.time.hold = 0 → s.time.slew = 0 → s.time.frac < 500 → t.time.ft = s.time.ft + 4) ∧
      (timeValid s = false → t.time.ft = s.time.ft)) ∧
  (∀ s, s.pending = [] → s.rst.aonOk = false → step s = .next s)

/-- Every command answers a next state, in every state: none of them faults or is refused; and without `VDD_AON` none but
`POWER_ON` changes anything (R410, R430). -/
def Obligations.EveryCommandAnswers : Prop :=
  (∀ c s, ∃ t, exec c s = .next t) ∧
  (∀ c s, s.rst.aonOk = false → isPowerOn c = false → exec c s = .next s)

/-- The invariant holds right after reset. -/
def Obligations.ResetIsSound : Prop := Sound State.reset

/-- A power-on leaves the register file, the domains, the grid, the sideband and the scheduler at the values that R413, R47,
R339, R343, R348, R383, R425, R431 and R439 give, and the time front in Unlocked with ft 0 (R31, R37); the fuse map's values
stand where they give them. -/
def Obligations.PowerOnValues : Prop :=
  ∀ f k s, ∃ t, exec (.powerOn f k) s = .next t ∧
    hrwRead 0x000 t = 0x0B17 ∧ hrwRead 0x004 t = 0x4C51 ∧ hrwRead 0x008 t = 0x0201 ∧ hrwRead 0x00C t = bnat f.plaza ∧
    hrwRead 0x010 t = k ∧ hrwRead 0x014 t = f.dieType ∧ hrwRead 0x098 t = f.xmode.toNat ∧
    hrwRead 0x088 t = 1 ∧ hrwRead 0x048 t = 0xFFFF ∧
    (∀ o ∈ [0x050, 0x054, 0x058, 0x05C], hrwRead o t = 0xFFFF) ∧
    (∀ o ∈ [0x018, 0x01C, 0x020, 0x024, 0x040, 0x044, 0x080, 0x084, 0x08C, 0x090, 0x094, 0x09C, 0x0A0, 0x0A4, 0x0A8, 0x0C0,
      0x0C4, 0x500, 0x700, 0x900, 0xB00], hrwRead o t = 0) ∧
    (f.crcOk = true → hrwRead 0x028 t = 0) ∧
    t.time.state = .unlocked ∧ t.time.ft = 0 ∧ t.time.mode = (if f.ftiMode = 2 then 2 else 1) ∧
    t.grid.period = 1000 ∧ t.grid.pending = none ∧ t.grid.frame = none ∧ t.sbi.addr = none ∧
    (∀ l, tget 0 l t.smp.lines = 0) ∧ (∀ c, tget Cmp.idle c t.smp.cmps = Cmp.idle) ∧
    (∀ c, (classOf c t).credit = 0 ∧ (classOf c t).deficit = 0 ∧ (classOf c t).f = 64) ∧
    t.upl.standing = (f.gatePort, f.gateRate, f.gateSpace, f.gateLen) ∧ t.jtag.ir = 0x01 ∧ t.jtag.hold = false ∧
    t.rst.last = 1 ∧ t.rst.coreOk = false ∧ t.conf.active = none ∧ t.stw.running = none

/-- Every step keeps the invariant: the queues stay within their bounds, the accounts of the port keep Law C, and each
congestion factor and stride stays from 1 to 64 (R300, R307, R311, R336, R346, R348 to R350, R361, R384, R406). -/
def Obligations.StepKeepsTheInvariant : Prop :=
  ∀ s t, Sound s → step s = .next t → Sound t

/-- Over any number of steps that meet no power-on, neither ft nor a timer goes back, no security version falls, no retired
counter comes back, what was read at power-on stays, and the queue is served in its order (R28, R75, R379, R422, R423,
R478). -/
def Obligations.EpochOnlyGoesOn : Prop :=
  ∀ n s t, (∀ c ∈ s.pending, isPowerOn c = false) → Reaches n s t →
    s.time.ft ≤ t.time.ft ∧ s.time.timer ≤ t.time.timer ∧ s.time.osc ≤ t.time.osc ∧ s.time.live ≤ t.time.live ∧
    t.pending = s.pending.drop n ∧ t.die = s.die ∧ t.fuse = s.fuse ∧
    s.nv.svnFirmware ≤ t.nv.svnFirmware ∧ s.nv.svnTest ≤ t.nv.svnTest ∧ (∀ i ∈ s.nv.retired, i ∈ t.nv.retired)

/-- An asserted fence line stays asserted over any number of steps that meet neither a power-on nor a `FENCE_RELEASE` of that
line: no tenant, no sideband command, no reset and no elapsed time releases it (R296); nor does a `FENCE_RELEASE` that does not
come from a privileged mailbox. -/
def Obligations.FencesStayAsserted : Prop :=
  (∀ n s t i, s.fence.getLsbD i = true → (∀ c ∈ s.pending.take n, isPowerOn c = false ∧ ¬ releases c i) → Reaches n s t →
    t.fence.getLsbD i = true) ∧
  (∀ r line s t i, 4 ≤ issuerClass r.issuer → exec (.fenceRelease r line) s = .next t → s.fence.getLsbD i = true →
    t.fence.getLsbD i = true)

/-- A time operation waits until the count has reached its ft: hold and slew included, the count then stands at the ft or past
it, the time front keeps its state, and nothing else of the block changes; while ft is not valid the count stands. -/
def Obligations.WaitingReachesTheFt : Prop :=
  (∀ ft s, timeValid s = true → ft ≤ (untilFt ft s).time.ft ∧ (untilFt ft s).time.state = s.time.state ∧
    untilFt ft s = { s with time := (untilFt ft s).time }) ∧
  (∀ ft s, timeValid s = true → s.time.frac < 500 → ft ≤ s.time.ft → (untilFt ft s).time.ft = s.time.ft) ∧
  (∀ ft s, timeValid s = false → untilFt ft s = s)

/-- Within a powered epoch ft never decreases (R28): a backward correction is held while the reference clock runs, and the
count advances again when the difference is taken up; a forward correction in counter mode is one step; in disciplined mode a
correction makes each edge 4.002 ns, or 3.998 ns, until the difference is taken up. -/
def Obligations.CountNeverRunsBack : Prop :=
  (∀ c s t, isPowerOn c = false → exec c s = .next t → s.time.ft ≤ t.time.ft) ∧
  (∀ w s, s.rst.aonOk = true → timeValid s = true → s.time.mode ≠ 2 → wordOk w = true → s.time.frac < 500 → s.time.ft ≤ wordFt w →
    wordFt w ≤ s.time.ft + 8 →
    ∃ t, exec (.ftiTimeWord 0 w) s = .next t ∧ t.time.ft = wordFt w ∧ t.time.hold = 0) ∧
  (∀ w s, s.rst.aonOk = true → timeValid s = true → s.time.mode ≠ 2 → wordOk w = true → s.time.frac < 500 → wordFt w < s.time.ft →
    s.time.ft ≤ wordFt w + 8 →
    ∃ t, exec (.ftiTimeWord 0 w) s = .next t ∧ t.time.ft = s.time.ft ∧ t.time.hold = s.time.ft - wordFt w) ∧
  (∀ w s, s.rst.aonOk = true → timeValid s = true → s.time.mode = 2 → s.time.hold = 0 → wordOk w = true → s.time.frac < 500 →
    s.time.ft ≤ wordFt w + 20000 → wordFt w ≤ s.time.ft + 20000 →
    ∃ t, exec (.ftiTimeWord 0 w) s = .next t ∧ t.time.ft = s.time.ft ∧ t.time.hold = 0 ∧
      t.time.slew = 500 * ((wordFt w : Int) - s.time.ft)) ∧
  (∀ (n : Nat) s, timeValid s = true → 4 * n ≤ s.time.hold → s.time.frac < 500 →
    (passEdges n s).time.ft = s.time.ft ∧ (passEdges n s).time.hold = s.time.hold - 4 * n) ∧
  (∀ (n : Nat) s, timeValid s = true → s.time.hold = 0 → s.time.slew = 0 → s.time.frac < 500 →
    (passEdges n s).time.ft = s.time.ft + 4 * n ∧ (passEdges n s).time.frac = s.time.frac) ∧
  (∀ (n : Nat) s, timeValid s = true → s.time.hold = 0 → (n : Int) ≤ s.time.slew → s.time.frac < 500 →
    500 * (passEdges n s).time.ft + (passEdges n s).time.frac = 500 * s.time.ft + s.time.frac + 2001 * n ∧
      (passEdges n s).time.frac < 500 ∧ (passEdges n s).time.slew = s.time.slew - n) ∧
  (∀ (n : Nat) s, timeValid s = true → s.time.hold = 0 → (n : Int) ≤ -s.time.slew → s.time.frac < 500 →
    500 * (passEdges n s).time.ft + (passEdges n s).time.frac = 500 * s.time.ft + s.time.frac + 1999 * n ∧
      (passEdges n s).time.frac < 500 ∧ (passEdges n s).time.slew = s.time.slew + n)

/-- A counter with prescaler k at the close of a frame (R70): the increments join the residue, the value advances by the sum
divided by 2^k, the remainder stays, the entry reports both, and nothing is created or lost; a counter without an observed
frame reports 0 and keeps its residue (R74, R76). -/
def Obligations.CountersKeepEveryIncrement : Prop :=
  (∀ i next fs s n, (counter i s).dead = false → voidIn fs i = false → unobserved (counter i s) s = false →
    (counter i s).snapInc.getD 0 = n →
    (closeCounter i next fs s).1.index = i ∧ (closeCounter i next fs s).1.prescale = bits (counter i s).binding.toNat 16 13 ∧
    (closeCounter i next fs s).1.delta = ((counter i s).residue + n) / 2 ^ bits (counter i s).binding.toNat 16 13 ∧
    (closeCounter i next fs s).2.value = ((counter i s).value + (closeCounter i next fs s).1.delta) % 2 ^ 64 ∧
    (closeCounter i next fs s).2.residue = (closeCounter i next fs s).1.residue ∧
    (closeCounter i next fs s).1.residue < 2 ^ bits (counter i s).binding.toNat 16 13 ∧
    n + (counter i s).residue = (closeCounter i next fs s).1.delta * 2 ^ bits (counter i s).binding.toNat 16 13
      + (closeCounter i next fs s).1.residue) ∧
  (∀ i next fs s, (counter i s).dead = true ∨ voidIn fs i = true ∨ unobserved (counter i s) s = true →
    (closeCounter i next fs s).1.delta = 0 ∧ (closeCounter i next fs s).2.residue = (counter i s).residue ∧
    (closeCounter i next fs s).1.residue = (counter i s).residue ∧
    (closeCounter i next fs s).2.value = (counter i s).value % 2 ^ 64)

/-- A comparator's evaluation at a level (R82 to R84, R87): armed, it crosses at or past its threshold and is disarmed, its
tally goes up and its latch takes the crossing; disarmed, it re-arms past the threshold less its hysteresis, clamped to the
comparison type; between crossings the latch's extreme alone may move; the first evaluation crosses nothing. -/
def Obligations.ComparatorsCross : Prop :=
  let past (c : Cmp) (sg : Bool) (v : Nat) : Prop :=
    if c.down = true then asLevel sg v ≤ asLevel sg c.threshold else asLevel sg c.threshold ≤ asLevel sg v
  let back (c : Cmp) (sg : Bool) (v : Nat) : Prop :=
    if c.down = true then
      min (if sg = true then 2 ^ 31 - 1 else 2 ^ 32 - 1) (asLevel sg c.threshold + c.hyst) < asLevel sg v
    else asLevel sg v < max (if sg = true then -2 ^ 31 else 0) (asLevel sg c.threshold - c.hyst)
  let beyond (c : Cmp) (sg : Bool) (v w : Nat) : Prop :=
    if c.down = true then asLevel sg v < asLevel sg w else asLevel sg w < asLevel sg v
  (∀ c sg v ft, c.armed = some true → past c sg v → c.latch = none →
    evalCmp c sg v ft = ({ c with
      armed := some false, tally := c.tally + 1,
      latch := some { firstFt := ft, lastFt := ft, count := 1, extreme := v, sat := false } }, true)) ∧
  (∀ c sg v ft l, c.armed = some true → past c sg v → c.latch = some l →
    ∃ m, evalCmp c sg v ft = ({ c with armed := some false, tally := c.tally + 1, latch := some m }, true) ∧
      m.firstFt = l.firstFt ∧ m.lastFt = ft ∧
      (l.count < 0xFFFFFFFF → m.count = l.count + 1 ∧ m.sat = l.sat) ∧
      (l.count = 0xFFFFFFFF → m.count = 0xFFFFFFFF ∧ m.sat = true) ∧
      (beyond c sg v l.extreme → m.extreme = v) ∧ (¬ beyond c sg v l.extreme → m.extreme = l.extreme)) ∧
  (∀ c sg v ft, (c.armed = some true ∧ ¬ past c sg v) ∨ c.armed = some false ∨ c.armed = none →
    ∃ x, evalCmp c sg v ft = ({ c with armed := some x, latch := (evalCmp c sg v ft).1.latch }, false) ∧
      (c.armed = some true → x = true) ∧ (c.armed = some false → (x = true ↔ back c sg v)) ∧
      (c.armed = none → (x = true ↔ ¬ past c sg v)) ∧
      (c.latch = none → (evalCmp c sg v ft).1.latch = none) ∧
      (∀ l, c.latch = some l → (evalCmp c sg v ft).1.latch
        = some { l with extreme := (evalCmp c sg v ft).1.latch.elim 0 (·.extreme) } ∧
        (beyond c sg v l.extreme → (evalCmp c sg v ft).1.latch.map (·.extreme) = some v) ∧
        (¬ beyond c sg v l.extreme → (evalCmp c sg v ft).1.latch.map (·.extreme) = some l.extreme))) ∧
  (∀ c i v k s, s.rst.aonOk = true → frontSees c s = true → i < 64 → v < 2 ^ 32 →
    gaugeEnable (gauge (64 * c + i) s).config = true → k < 4 →
    (cmp (4 * (64 * c + i) + k) s).enable = true → (cmp (4 * (64 * c + i) + k) s).srcCounter = false →
    ∃ t, exec (.gaugeUpdate c i v) s = .next t ∧ cmp (4 * (64 * c + i) + k) t
      = (evalCmp (cmp (4 * (64 * c + i) + k) s) (gaugeSigned (gauge (64 * c + i) s).config) v (ftStamp s)).1)

/-- What becomes of a packet at a trace front: excluded and counted against its source and level unless the five conditions of
R309 hold; admitted only while the queue holds fewer than (4 - c) · 128 packets, else dropped and counted (R312). -/
def Obligations.TraceFrontsAdmit : Prop :=
  ∀ (p : TrcPacket) n c s, s.rst.aonOk = true → trcFrontsOn s = true → p.front < 8 → p.channel < 8 → p.priv < 4 →
    n = 8 * p.front + p.channel → c = (sourceOf n s).config →
    ((c.getLsbD 0 = true ∧ (bits c.toNat 19 10 = 0 ∨ bits c.toNat 19 10 = p.part) ∧ c.getLsbD (6 + p.priv) = true ∧
        (p.priv = 0 ∨ ∃ g ∈ s.trc.grants, g.mask.getLsbD n = true ∧ g.levels.getLsbD p.priv = true) ∧
        (p.priv = 3 → s.fuse.trcSecure = true)) →
      ((frontQueue p.front s).length < (4 - bits c.toNat 2 1) * 128 →
        ∃ t e, exec (.tracePacket p) s = .next t ∧ e.packet = p ∧ frontQueue p.front t = frontQueue p.front s ++ [e] ∧
          (sourceOf n t).ingestDrops = (sourceOf n s).ingestDrops ∧ (sourceOf n t).excluded = (sourceOf n s).excluded) ∧
      ((4 - bits c.toNat 2 1) * 128 ≤ (frontQueue p.front s).length →
        ∃ t, exec (.tracePacket p) s = .next t ∧ t.trc.fronts = s.trc.fronts ∧
          (sourceOf n t).ingestDrops = (sourceOf n s).ingestDrops + 1 ∧
          (sourceOf n t).excluded = (sourceOf n s).excluded)) ∧
    (¬ (c.getLsbD 0 = true ∧ (bits c.toNat 19 10 = 0 ∨ bits c.toNat 19 10 = p.part) ∧ c.getLsbD (6 + p.priv) = true ∧
        (p.priv = 0 ∨ ∃ g ∈ s.trc.grants, g.mask.getLsbD n = true ∧ g.levels.getLsbD p.priv = true) ∧
        (p.priv = 3 → s.fuse.trcSecure = true)) →
      ∃ t, exec (.tracePacket p) s = .next t ∧ t.trc.fronts = s.trc.fronts ∧
        (sourceOf n t).ingestDrops = (sourceOf n s).ingestDrops ∧
        tget 0 p.priv (sourceOf n t).excluded = tget 0 p.priv (sourceOf n s).excluded + 1)

/-- What a configured event line counts in one cycle: off, level, rise or fall by `MODE`, and only where the qualifier's level
passes while `QUAL_EN` is 1; at power-on every line has `MODE` 0b00 (R56). -/
def Obligations.LinesCountByMode : Prop :=
  (∀ (cfg : Word16) i prev now,
    let q := now.getLsbD (bits cfg.toNat 11 4)
    let pass := cfg.getLsbD 2 = false ∨ (cfg.getLsbD 3 = false ∧ q = true) ∨ (cfg.getLsbD 3 = true ∧ q = false)
    (¬ pass → lineCount cfg i prev now = 0) ∧
    (pass → cfg.toNat % 4 = 0 → lineCount cfg i prev now = 0) ∧
    (pass → cfg.toNat % 4 = 1 → lineCount cfg i prev now = if now.getLsbD i = true then 1 else 0) ∧
    (pass → cfg.toNat % 4 = 2 → lineCount cfg i prev now = if prev.getLsbD i = false ∧ now.getLsbD i = true then 1 else 0) ∧
    (pass → cfg.toNat % 4 = 3 → lineCount cfg i prev now = if prev.getLsbD i = true ∧ now.getLsbD i = false then 1 else 0)) ∧
  (∀ f k s, ∃ t, exec (.powerOn f k) s = .next t ∧ ∀ l, tget 0 l t.smp.lines = 0)

/-- Merging histograms is exact, commutative and associative: every bucket, count and sum adds, `MIN` is the lesser and `MAX`
the greater, and the empty histogram changes nothing (R179). -/
def Obligations.HistogramsMergeExactly : Prop :=
  (∀ a b : Hist, tabWf 0 a.buckets = true → tabWf 0 b.buckets = true → Hist.merge a b = Hist.merge b a) ∧
  (∀ a b c : Hist, tabWf 0 a.buckets = true → tabWf 0 b.buckets = true → tabWf 0 c.buckets = true →
    Hist.merge (Hist.merge a b) c = Hist.merge a (Hist.merge b c)) ∧
  (∀ a b : Hist, tabWf 0 a.buckets = true → tabWf 0 b.buckets = true →
    (∀ i, tget 0 i (Hist.merge a b).buckets = tget 0 i a.buckets + tget 0 i b.buckets) ∧
    (Hist.merge a b).n = a.n + b.n ∧ (Hist.merge a b).sum = a.sum + b.sum ∧ (Hist.merge a b).underN = a.underN + b.underN ∧
    (Hist.merge a b).overN = a.overN + b.overN ∧ (Hist.merge a b).absent = a.absent + b.absent ∧
    (Hist.merge a b).min = min a.min b.min ∧ (Hist.merge a b).max = max a.max b.max) ∧
  (∀ a : Hist, tabWf 0 a.buckets = true → -2 ^ 63 ≤ a.max → a.min ≤ 2 ^ 63 - 1 → Hist.merge a Hist.empty = a)

/-- The fence lines across resets and power-ons (R297): no reset source, no end of a reset and no entry to or leaving of Parked
changes a line; at power-on each line takes its `FNC_PWRON` bit, or is fenced where the fuse map has failed (R424); the image
that then runs asserts every line that the history records as fenced and not released, before any mailbox is served. -/
def Obligations.FencesSurviveResets : Prop :=
  (∀ n s, ∀ c ∈ [Instr.brownOut, .pinReset n, .pinResetRelease, .watchdogTimeout, .softwareReset, .lockup,
      .nvlogWriteComplete, .samplerRelease, .ijtagDebugReset, .clockFailure n, .parkEntryComplete, .wake, .wakeComplete],
    ∃ t, exec c s = .next t ∧ t.fence = s.fence) ∧
  (∀ f k s, ∃ t, exec (.powerOn f k) s = .next t ∧
    ∀ i, i < 256 → t.fence.getLsbD i = (f.fncPwrOn.getLsbD i || !f.crcOk)) ∧
  (∀ i s, s.rst.aonOk = true → s.pwr.on.getLsbD 1 = true → s.rst.coreOk = true → s.rst.active = false → s.stw.running = none →
    imageReject i s = none → s.stw.serving = false →
    ∃ t, exec (.bootImageRun i) s = .next t ∧ t.stw.serving = true ∧ t.grid.frame = s.grid.frame ∧
      ∀ l, l < 256 → (t.fence.getLsbD l = true ↔ s.fence.getLsbD l = true ∨
        ∃ pre r post, s.nv.history = pre ++ r :: post ∧ r.hkind = 1 ∧ r.index = l ∧
          ∀ x ∈ post, ¬ (x.hkind = 2 ∧ x.index = l)))

/-- The Steward takes requests in rounds over their sources: one whose source does not come first in the round waits, and a tenant's
that lies outside its windows is not fetched and counts as an isolation fault (R362, R363).  It checks every request it takes in
the order of R389 and answers with the first failure: the header, the session, the configuration, the issuer class, reserved
bytes and the relay mark; and an engine that does not answer gives `UNAVAILABLE`.  A
request that is turned away leaves the block as it was but for requests and answers; one with `RELAY` set is turned away with
`N_FAIL` 1 (R374).  That `UNSUPPORTED` stands before the issuer class is the model's reading (log entry 6). -/
def Obligations.RequestsAreTurnedAway : Prop :=
  let turned (c : Cmd) (r : Req) (st : Nat) (s : State) (o : Host.Outcome State Fault Refusal) : Prop :=
    ∃ t, o = .next t ∧ Agree s t ∧ Told r.issuer (rspMsg c.code r.tag st true
      (if r.relay = true ∧ isCopy r.issuer = false then relayPayload ⟨0, 1, 0, st, [s.die]⟩ else []) []) t
  let heard (r : Req) (s : State) : Prop :=
    s.rst.aonOk = true ∧ stewardUp s = true ∧ mailboxOpen r.issuer s = true
  let atTurn (c : Cmd) (r : Req) (s : State) : Prop :=
    ∀ j < 71, holdsAt j s = true → roundsTo (sourceIndex r.issuer (c.code == 0x0101)) s ≤ roundsTo j s
  let fetched (c : Cmd) (r : Req) (s : State) : Prop := fetchOutside r.issuer (c.code == 0x0101) s = false
  (∀ i c r s, commandOf i = some (c, r) → s.rst.aonOk = true → ¬ atTurn c r s → exec i s = .next s) ∧
  (∀ i c r s, commandOf i = some (c, r) → heard r s → atTurn c r s → fetchOutside r.issuer (c.code == 0x0101) s = true →
    exec i s = .next (isolationFault (issuerPart r.issuer) (takeRequest r c.code s))) ∧
  (∀ i c r s, commandOf i = some (c, r) → heard r s → atTurn c r s → fetched c r s → headerOk r = false → turned c r Config.badHeader s (exec i s)) ∧
  (∀ i c r st s, commandOf i = some (c, r) → heard r s → atTurn c r s → fetched c r s → headerOk r = true →
    sessionReject r.issuer (c.code == 0x0101) s = some st → turned c r st s (exec i s)) ∧
  (∀ i c r s, commandOf i = some (c, r) → heard r s → atTurn c r s → fetched c r s → headerOk r = true →
    sessionReject r.issuer (c.code == 0x0101) s = none → presentAt c.only s.fuse.plaza = false →
    (r.relay = false ∨ isCopy r.issuer = true) → turned c r Config.unsupported s (exec i s)) ∧
  (∀ i c r s, commandOf i = some (c, r) → heard r s → atTurn c r s → fetched c r s → headerOk r = true →
    sessionReject r.issuer (c.code == 0x0101) s = none → (presentAt c.only s.fuse.plaza = true ∨ (r.relay = true ∧ isCopy r.issuer = false)) →
    c.allow.permits (issuerClass r.issuer) = false → turned c r Config.isolation s (exec i s)) ∧
  (∀ i c r s, commandOf i = some (c, r) → heard r s → atTurn c r s → fetched c r s → headerOk r = true →
    sessionReject r.issuer (c.code == 0x0101) s = none → (presentAt c.only s.fuse.plaza = true ∨ (r.relay = true ∧ isCopy r.issuer = false)) →
    c.allow.permits (issuerClass r.issuer) = true →
    r.reservedOk = false ∨ (r.relay = true ∧ (c.relayable = false ∨ scopeOk r = false)) →
    turned c r Config.badParam s (exec i s)) ∧
  (∀ c r d own s, Taken c r s → engineUp d s = false →
    ∃ t, run (serve c r true (engineServed d own)) s = .next t ∧
        Rejects c r s Config.unavailable t)

/-- What commands of one kind leave alone.  An access to the register window changes the register file, the Steward's requests
and counts, the power work, reports and outputs, but no counter, record, table or fence; transfers on the sideband and the test
access port's reads change their own unit and the outputs; an edge, a word or a packet at a front changes the front's engine
alone. -/
def Obligations.FramesOfAccesses : Prop :=
  (∀ p v e s t,
    exec (.ftLoRead p) s = .next t ∨ exec (.intStsClear p v) s = .next t ∨ exec (.bootDb p v) s = .next t ∨
      exec (.pmDoneClear e p v) s = .next t → t = { s with hrw := t.hrw, out := t.out }) ∧
  (∀ p part size v h s t, exec (.tmDb p part size v h) s = .next t →
    t = { s with hrw := t.hrw, stw := t.stw } ∧ t.stw = { s.stw with doorbells := t.stw.doorbells, dbDrops := t.stw.dbDrops }) ∧
  (∀ n p part v s t, p ≠ 0 → exec (.pmDoorbell n p part v) s = .next t → t = { s with hrw := t.hrw }) ∧
  (∀ p v s t, exec (.engRstWrite p v) s = .next t → t = { s with hrw := t.hrw, pwr := t.pwr }) ∧
  (∀ s t, exec .dbgCtlExpiry s = .next t → t = { s with hrw := t.hrw, time := t.time }) ∧
  (∀ a b e s t,
    exec .sbiSelectResponse s = .next t ∨ exec .sbiSelectAlert s = .next t ∨ exec (.sbiBootSegment b) s = .next t ∨
      exec .sbiRead s = .next t ∨ exec (.entdaa a) s = .next t ∨ exec (.setdasa a) s = .next t ∨ exec .rstdaa s = .next t ∨
      exec (.enec e) s = .next t ∨ exec (.disec e) s = .next t ∨ exec .getpid s = .next t ∨ exec .getbcr s = .next t ∨
      exec .getdcr s = .next t ∨ exec .getstatus s = .next t ∨ exec .getmwl s = .next t ∨ exec .getmrl s = .next t →
    t = { s with sbi := t.sbi, out := t.out, free := t.free }) ∧
  (∀ d i s t, exec (.ijtagInstrumentAccess d i) s = .next t ∨ exec (.ijtagMemorySelftest d) s = .next t →
    t = { s with jtag := t.jtag, out := t.out, free := t.free }) ∧
  (∀ c levels line half n s t, exec (.evtOccurrence c levels) s = .next t ∨ exec (.drainWord line half n true) s = .next t →
    t = { s with smp := t.smp }) ∧
  (∀ (p : TrcPacket) s t, exec (.tracePacket p) s = .next t → t = { s with trc := t.trc }) ∧
  (∀ m s t, exec (.markerStrobe m) s = .next t → t = { s with conf := t.conf })

/-- No packet starts without an open gate, before its start, while ft is not valid, after the Kerb has passed, or later than the
gate's end less the Kerb, which is ⌈40,960 ÷ `RATE`⌉ ns and the margin (R340, R341). -/
def Obligations.NoPacketPastTheKerb : Prop :=
  (∀ s, s.upl.gate = none → exec .packetInject s = .next s) ∧
  (∀ g s, s.upl.gate = some g →
    g.kerbPassed = true ∨ timeValid s = false ∨ s.time.ft < g.start ∨
      g.ends < s.time.ft + (40960 + g.rate - 1) / g.rate + s.upl.kerbMargin →
    exec .packetInject s = .next s) ∧
  (∀ g s, s.rst.aonOk = true → s.upl.gate = some g → timeValid s = true → 1 ≤ g.rate →
    ∃ t, exec .kerbReached s = .next t ∧ g.ends ≤ t.time.ft + (40960 + g.rate - 1) / g.rate + s.upl.kerbMargin ∧
      exec .packetInject t = .next t) ∧
  kerbOf 1000 32 = 73
end

