-- ==== Sys2Proof/Laws/Tables.lean ====
section
/-!
SUPPORT. The laws of the sparse tables: reading after a change, and that a change keeps the one form.
-/

namespace Sys2Proof.Machine

variable {α : Type} [DecidableEq α] {d : α} {k j lo : Nat} {v : α} {t : Tab α}

omit [DecidableEq α] in
theorem tget_tins_self (d : α) (k : Nat) (v : α) (t : Tab α) : tget d k (tins k v t) = v := by
  induction t with
  | nil => simp [tins, tget]
  | cons e t ih =>
    obtain ⟨i, w⟩ := e
    unfold tins
    split
    · simp [tget]
    · split
      · simp [tget]
      · simp [tget, *]

omit [DecidableEq α] in
theorem tget_tins_other (d : α) (hj : j ≠ k) (v : α) (t : Tab α) : tget d j (tins k v t) = tget d j t := by
  induction t with
  | nil => simp [tins, tget, Ne.symm hj]
  | cons e t ih =>
    obtain ⟨i, w⟩ := e
    unfold tins
    split
    · simp [tget, Ne.symm hj]
    · split
      · rename_i h; subst h; simp [tget, Ne.symm hj]
      · simp [tget, ih]

omit [DecidableEq α] in
theorem tget_tdel_other (d : α) (hj : j ≠ k) (t : Tab α) : tget d j (tdel k t) = tget d j t := by
  induction t with
  | nil => rfl
  | cons e t ih =>
    obtain ⟨i, w⟩ := e
    unfold tdel
    split
    · rename_i h; subst h; simp [tget, Ne.symm hj]
    · simp [tget, ih]

theorem tabWfFrom_cons {i : Nat} : tabWfFrom d lo ((i, v) :: t) = true ↔ lo ≤ i ∧ v ≠ d ∧ tabWfFrom d (i + 1) t = true := by
  simp [tabWfFrom, and_assoc]

theorem tabWfFrom_mono {hi : Nat} (h : tabWfFrom d hi t = true) (hl : lo ≤ hi) : tabWfFrom d lo t = true := by
  cases t with
  | nil => rfl
  | cons e t =>
    obtain ⟨i, w⟩ := e
    rw [tabWfFrom_cons] at h ⊢
    exact ⟨hl.trans h.1, h.2⟩

/-- Below its first index a table in its one form lists nothing. -/
theorem tget_below (h : tabWfFrom d lo t = true) (hk : k < lo) : tget d k t = d := by
  induction t generalizing lo with
  | nil => rfl
  | cons e t ih =>
    obtain ⟨i, w⟩ := e
    rw [tabWfFrom_cons] at h
    have hi : i ≠ k := by omega
    simp [tget, hi, ih h.2.2 (by omega)]

theorem tget_tdel_self (h : tabWfFrom d lo t = true) : tget d k (tdel k t) = d := by
  induction t generalizing lo with
  | nil => rfl
  | cons e t ih =>
    obtain ⟨i, w⟩ := e
    rw [tabWfFrom_cons] at h
    unfold tdel
    split
    · rename_i hi
      subst hi
      exact tget_below h.2.2 (Nat.lt_succ_self _)
    · rename_i hi
      simp [tget, hi, ih h.2.2]

theorem tabWfFrom_tdel (h : tabWfFrom d lo t = true) : tabWfFrom d lo (tdel k t) = true := by
  induction t generalizing lo with
  | nil => rfl
  | cons e t ih =>
    obtain ⟨i, w⟩ := e
    rw [tabWfFrom_cons] at h
    unfold tdel
    split
    · exact tabWfFrom_mono h.2.2 (by omega)
    · exact tabWfFrom_cons.mpr ⟨h.1, h.2.1, ih h.2.2⟩

theorem tabWfFrom_tins (h : tabWfFrom d lo t = true) (hv : v ≠ d) (hk : lo ≤ k) : tabWfFrom d lo (tins k v t) = true := by
  induction t generalizing lo with
  | nil => exact tabWfFrom_cons.mpr ⟨hk, hv, rfl⟩
  | cons e t ih =>
    obtain ⟨i, w⟩ := e
    rw [tabWfFrom_cons] at h
    unfold tins
    split
    · rename_i hl
      exact tabWfFrom_cons.mpr ⟨hk, hv, tabWfFrom_cons.mpr ⟨hl, h.2⟩⟩
    · split
      · rename_i hi
        subst hi
        exact tabWfFrom_cons.mpr ⟨hk, hv, h.2.2⟩
      · exact tabWfFrom_cons.mpr ⟨h.1, h.2.1, ih h.2.2 (by omega)⟩

/-- A change of one index keeps the one form. -/
theorem tabWf_tput (h : tabWf d t = true) : tabWf d (tput d k v t) = true := by
  unfold tput
  split
  · exact tabWfFrom_tdel h
  · exact tabWfFrom_tins h (by assumption) (Nat.zero_le _)

/-- An index reads as what was put there. -/
theorem tget_tput_self (h : tabWf d t = true) : tget d k (tput d k v t) = v := by
  unfold tput
  split
  · rename_i hv
    rw [tget_tdel_self h, hv]
  · exact tget_tins_self d k v t

/-- Every other index reads as before. -/
theorem tget_tput_other (hj : j ≠ k) : tget d j (tput d k v t) = tget d j t := by
  unfold tput
  split
  · exact tget_tdel_other d hj t
  · exact tget_tins_other d hj v t

theorem tabWf_tmod {f : α → α} (h : tabWf d t = true) : tabWf d (tmod d k f t) = true := tabWf_tput h
theorem tget_tmod_self {f : α → α} (h : tabWf d t = true) : tget d k (tmod d k f t) = f (tget d k t) := tget_tput_self h
theorem tget_tmod_other {f : α → α} (hj : j ≠ k) : tget d j (tmod d k f t) = tget d j t := tget_tput_other hj
theorem tabWf_tdel (h : tabWf d t = true) : tabWf d (tdel k t) = true := tabWfFrom_tdel h

theorem tget_tmod {f : α → α} (w : tabWf d t = true) (j k : Nat) :
    tget d k (tmod d j f t) = if k = j then f (tget d j t) else tget d k t := by
  split
  · rename_i hk; subst hk; exact tget_tmod_self w
  · rename_i hk; exact tget_tmod_other hk

omit [DecidableEq α] in
/-- A property that an update in place keeps, read at any index. -/
theorem tget_tupd {β : Type} {f : α → α} (g : α → β) (hg : ∀ a, g (f a) = g a) :
    g (tget d j (tupd k f t)) = g (tget d j t) := by
  induction t with
  | nil => rfl
  | cons e t ih =>
    obtain ⟨i, w⟩ := e
    unfold tupd at ih ⊢
    simp only [List.map_cons]
    by_cases hi : i = k
    · rw [if_pos hi]
      unfold tget
      split
      · exact hg w
      · exact ih
    · rw [if_neg hi]
      unfold tget
      split
      · rfl
      · exact ih

omit [DecidableEq α] in
/-- A count that an update in place keeps. -/
theorem filter_tupd {f : α → α} {p : Nat × α → Bool} (hp : ∀ i a, p (i, f a) = p (i, a)) :
    ((tupd k f t).filter p).length = (t.filter p).length := by
  induction t with
  | nil => rfl
  | cons e t ih =>
    obtain ⟨i, w⟩ := e
    unfold tupd at ih ⊢
    simp only [List.map_cons, List.filter_cons]
    by_cases hi : i = k
    · simp only [hi, if_true, hp]
      split <;> simp [ih]
    · simp only [hi, if_false]
      split <;> simp [ih]

end Sys2Proof.Machine
end

