-- ==== Sys2Proof/Laws/Later.lean ====
section
/-!
SUPPORT. The relation `Later`, in two halves: its own laws and those of the primitive operations (this part), then one lemma
for every operation, in the order of the files of Machine/: whatever a state is later than, it is so after the operation too.
-/

namespace Sys2Proof.Machine

/-! ## The relation -/

variable {ok : Nat → Prop} {s₀ s t : State}

theorem Later.refl (ok : Nat → Prop) (s : State) : Later ok s s :=
  ⟨rfl, rfl, rfl, fun _ _ h => h, le_refl _, le_refl _, le_refl _, le_refl _, le_refl _, le_refl _, fun _ h => h, id⟩

theorem Later.trans (h : Later ok s₀ s) (k : Later ok s t) : Later ok s₀ t :=
  ⟨k.queue.trans h.queue, k.chip.trans h.chip, k.fuse.trans h.fuse, fun i f l => k.fence i f (h.fence i f l),
   h.ft.trans k.ft, h.osc.trans k.osc, h.timer.trans k.timer, h.live.trans k.live, h.svnFirmware.trans k.svnFirmware,
   h.svnTest.trans k.svnTest, fun i m => k.retired i (h.retired i m), fun x => k.sound (h.sound x)⟩

/-- Two states that agree in all that `Later` speaks of. -/
abbrev SameAs (s t : State) : Prop :=
  t.pending = s.pending ∧ t.die = s.die ∧ t.fuse = s.fuse ∧ t.fence = s.fence ∧ t.time = s.time ∧ t.nv = s.nv
    ∧ t.upl.classes = s.upl.classes ∧ t.upl.byp = s.upl.byp ∧ t.upl.u = s.upl.u ∧ t.trc = s.trc
    ∧ t.sbi.alerts = s.sbi.alerts ∧ t.stw.doorbells = s.stw.doorbells ∧ t.buf.ops = s.buf.ops

/-- What the relation does not speak of may change freely. -/
theorem Later.same (h : Later ok s₀ s) (t : State) (e : SameAs s t) : Later ok s₀ t := by
  obtain ⟨hq, hd, hf, hl, ht, hn, hu1, hu2, hu3, hc, ha, hw, hb⟩ := e
  refine h.trans ⟨hq, hd, hf, fun i _ l => by rw [hl]; exact l, by rw [ht], by rw [ht], by rw [ht], by rw [ht],
    by rw [hn], by rw [hn], fun i m => by rw [hn]; exact m, fun x => ⟨⟨?_, ?_, ?_⟩, ?_, ?_, ?_, ?_, ?_⟩⟩
  · rw [hu1]; exact x.upl.accounts
  · rw [hu2]; exact x.upl.byp
  · rw [hu3]; exact x.upl.stride
  · rw [hc]; exact x.trc
  · rw [hn]; exact x.history
  · rw [ha]; exact x.alerts
  · rw [hw]; exact x.doorbells
  · rw [hb, hf]; exact x.bufOps

/-- The relation with nothing but time moving on. -/
theorem Later.withTime (h : Later ok s₀ s) (u : TimeFront) (hft : s.time.ft ≤ u.ft) (hosc : s.time.osc ≤ u.osc)
    (htm : s.time.timer ≤ u.timer) (hlv : s.time.live ≤ u.live) : Later ok s₀ { s with time := u } :=
  h.trans ⟨rfl, rfl, rfl, fun _ _ l => l, hft, hosc, htm, hlv, le_refl _, le_refl _, fun _ m => m,
    fun x => ⟨x.upl, x.trc, x.history, x.alerts, x.doorbells, x.bufOps⟩⟩

/-- A new bypass queue, accounts and stride that are sound if the old ones were. -/
theorem Later.withUpl (h : Later ok s₀ s) (u : Uplink) (hu : UplSound s.upl → UplSound u) :
    Later ok s₀ { s with upl := u } :=
  h.trans ⟨rfl, rfl, rfl, fun _ _ l => l, le_refl _, le_refl _, le_refl _, le_refl _, le_refl _, le_refl _, fun _ m => m,
    fun x => ⟨hu x.upl, x.trc, x.history, x.alerts, x.doorbells, x.bufOps⟩⟩

theorem Later.withTrc (h : Later ok s₀ s) (u : Trace) (hu : TrcSound s.trc → TrcSound u) :
    Later ok s₀ { s with trc := u } :=
  h.trans ⟨rfl, rfl, rfl, fun _ _ l => l, le_refl _, le_refl _, le_refl _, le_refl _, le_refl _, le_refl _, fun _ m => m,
    fun x => ⟨x.upl, hu x.trc, x.history, x.alerts, x.doorbells, x.bufOps⟩⟩

theorem Later.withNv (h : Later ok s₀ s) (u : NvLog) (h1 : s.nv.svnFirmware ≤ u.svnFirmware) (h2 : s.nv.svnTest ≤ u.svnTest)
    (h3 : ∀ i ∈ s.nv.retired, i ∈ u.retired) (h4 : s.nv.history.length ≤ 8192 → u.history.length ≤ 8192) :
    Later ok s₀ { s with nv := u } :=
  h.trans ⟨rfl, rfl, rfl, fun _ _ l => l, le_refl _, le_refl _, le_refl _, le_refl _, h1, h2, h3,
    fun x => ⟨x.upl, x.trc, h4 x.history, x.alerts, x.doorbells, x.bufOps⟩⟩

theorem Later.withSbi (h : Later ok s₀ s) (u : SbiTarget) (hu : s.sbi.alerts.length ≤ 32 → u.alerts.length ≤ 32) :
    Later ok s₀ { s with sbi := u } :=
  h.trans ⟨rfl, rfl, rfl, fun _ _ l => l, le_refl _, le_refl _, le_refl _, le_refl _, le_refl _, le_refl _, fun _ m => m,
    fun x => ⟨x.upl, x.trc, x.history, hu x.alerts, x.doorbells, x.bufOps⟩⟩

theorem Later.withStw (h : Later ok s₀ s) (u : Steward) (hu : s.stw.doorbells.length ≤ 256 → u.doorbells.length ≤ 256) :
    Later ok s₀ { s with stw := u } :=
  h.trans ⟨rfl, rfl, rfl, fun _ _ l => l, le_refl _, le_refl _, le_refl _, le_refl _, le_refl _, le_refl _, fun _ m => m,
    fun x => ⟨x.upl, x.trc, x.history, x.alerts, hu x.doorbells, x.bufOps⟩⟩

theorem Later.withBuf (h : Later ok s₀ s) (u : Buf)
    (hu : s.buf.ops.length ≤ Config.bufLimit s.fuse.plaza → u.ops.length ≤ Config.bufLimit s.fuse.plaza) :
    Later ok s₀ { s with buf := u } :=
  h.trans ⟨rfl, rfl, rfl, fun _ _ l => l, le_refl _, le_refl _, le_refl _, le_refl _, le_refl _, le_refl _, fun _ m => m,
    fun x => ⟨x.upl, x.trc, x.history, x.alerts, x.doorbells, hu x.bufOps⟩⟩

/-- New fence latches that keep every line. -/
theorem Later.withFence (h : Later ok s₀ s) (f : Lines) (hf : ∀ i, ¬ ok i → s.fence.getLsbD i = true → f.getLsbD i = true) :
    Later ok s₀ { s with fence := f } :=
  h.trans ⟨rfl, rfl, rfl, hf, le_refl _, le_refl _, le_refl _, le_refl _, le_refl _, le_refl _, fun _ m => m,
    fun x => ⟨x.upl, x.trc, x.history, x.alerts, x.doorbells, x.bufOps⟩⟩

/-- A command's own part: the state it leaves, and what it does after its answer. -/
def LaterReply (ok : Nat → Prop) (s₀ : State) (p : State × Reply) : Prop :=
  Later ok s₀ p.1 ∧ ∀ u, Later ok s₀ u → Later ok s₀ (p.2.after u)

/-! ## Combinators -/

theorem later_when {b : Bool} {f : State → State} (h : Later ok s₀ s) (hf : ∀ s, Later ok s₀ s → Later ok s₀ (f s)) :
    Later ok s₀ (when b f s) := by
  unfold when; split
  · exact hf _ h
  · exact h

theorem later_forEach {α : Type} {l : List α} {f : α → State → State} (h : Later ok s₀ s)
    (hf : ∀ a s, Later ok s₀ s → Later ok s₀ (f a s)) : Later ok s₀ (forEach l f s) := by
  unfold forEach
  induction l generalizing s with
  | nil => exact h
  | cons a l ih => exact ih (hf a s h)

/-! ## Bits and tables -/

theorem getLsbD_putBit_true {w : Nat} (v : BitVec w) (i j : Nat) (h : v.getLsbD j = true) :
    (putBit v i true).getLsbD j = true := by
  unfold putBit; simp [h]

theorem getLsbD_putBit_false {w : Nat} (v : BitVec w) (i j : Nat) (hj : j ≠ i) (h : v.getLsbD j = true) :
    (putBit v i false).getLsbD j = true := by
  have hw : j < w := by
    by_contra hc
    rw [BitVec.getLsbD_of_ge _ _ (by omega)] at h
    exact absurd h (by simp)
  unfold putBit
  simpa [h, hw] using hj

/-! ## One subsystem changed -/

/-- What a change of the log must keep. -/
def NvLater (v w : NvLog) : Prop :=
  v.svnFirmware ≤ w.svnFirmware ∧ v.svnTest ≤ w.svnTest ∧ (∀ i ∈ v.retired, i ∈ w.retired)
    ∧ (v.history.length ≤ 8192 → w.history.length ≤ 8192)

/-- What a change of the time front must keep. -/
def TimeLater (a b : TimeFront) : Prop := a.ft ≤ b.ft ∧ a.osc ≤ b.osc ∧ a.timer ≤ b.timer ∧ a.live ≤ b.live

theorem later_onTime {f : TimeFront → TimeFront} (h : Later ok s₀ s) (hf : TimeLater s.time (f s.time)) :
    Later ok s₀ (onTime f s) := h.withTime _ hf.1 hf.2.1 hf.2.2.1 hf.2.2.2

theorem later_onNv {f : NvLog → NvLog} (h : Later ok s₀ s) (hf : NvLater s.nv (f s.nv)) : Later ok s₀ (onNv f s) :=
  h.withNv _ hf.1 hf.2.1 hf.2.2.1 hf.2.2.2

theorem later_onUpl {f : Uplink → Uplink} (h : Later ok s₀ s) (hf : UplSound s.upl → UplSound (f s.upl)) :
    Later ok s₀ (onUpl f s) := h.withUpl _ hf

theorem later_onUplAll {f : Uplink → Uplink} (h : Later ok s₀ s) (hf : ∀ u, UplSound u → UplSound (f u)) :
    Later ok s₀ (onUpl f s) := later_onUpl h (hf _)

theorem later_onTrc {f : Trace → Trace} (h : Later ok s₀ s) (hf : TrcSound s.trc → TrcSound (f s.trc)) :
    Later ok s₀ (onTrc f s) := h.withTrc _ hf

theorem later_onSbi {f : SbiTarget → SbiTarget} (h : Later ok s₀ s)
    (hf : s.sbi.alerts.length ≤ 32 → (f s.sbi).alerts.length ≤ 32) : Later ok s₀ (onSbi f s) := h.withSbi _ hf

theorem later_onStw {f : Steward → Steward} (h : Later ok s₀ s)
    (hf : s.stw.doorbells.length ≤ 256 → (f s.stw).doorbells.length ≤ 256) : Later ok s₀ (onStw f s) := h.withStw _ hf

theorem later_onBuf {f : Buf → Buf} (h : Later ok s₀ s)
    (hf : s.buf.ops.length ≤ Config.bufLimit s.fuse.plaza → (f s.buf).ops.length ≤ Config.bufLimit s.fuse.plaza) :
    Later ok s₀ (onBuf f s) := h.withBuf _ hf

theorem later_onGrid {f : Grid → Grid} (h : Later ok s₀ s) : Later ok s₀ (onGrid f s) := h.same _ ⟨rfl, rfl, rfl, rfl, rfl, rfl, rfl, rfl, rfl, rfl, rfl, rfl, rfl⟩

theorem later_onRst {f : ResetCtl → ResetCtl} (h : Later ok s₀ s) : Later ok s₀ (onRst f s) := h.same _ ⟨rfl, rfl, rfl, rfl, rfl, rfl, rfl, rfl, rfl, rfl, rfl, rfl, rfl⟩

theorem later_onHrw {f : Hrw → Hrw} (h : Later ok s₀ s) : Later ok s₀ (onHrw f s) := h.same _ ⟨rfl, rfl, rfl, rfl, rfl, rfl, rfl, rfl, rfl, rfl, rfl, rfl, rfl⟩

theorem later_onPwr {f : Power → Power} (h : Later ok s₀ s) : Later ok s₀ (onPwr f s) := h.same _ ⟨rfl, rfl, rfl, rfl, rfl, rfl, rfl, rfl, rfl, rfl, rfl, rfl, rfl⟩

theorem later_onSmp {f : Sampler → Sampler} (h : Later ok s₀ s) : Later ok s₀ (onSmp f s) := h.same _ ⟨rfl, rfl, rfl, rfl, rfl, rfl, rfl, rfl, rfl, rfl, rfl, rfl, rfl⟩

theorem later_onLed {f : LeafLedger → LeafLedger} (h : Later ok s₀ s) : Later ok s₀ (onLed f s) := h.same _ ⟨rfl, rfl, rfl, rfl, rfl, rfl, rfl, rfl, rfl, rfl, rfl, rfl, rfl⟩

theorem later_onPlace {f : Place → Place} (h : Later ok s₀ s) : Later ok s₀ (onPlace f s) := h.same _ ⟨rfl, rfl, rfl, rfl, rfl, rfl, rfl, rfl, rfl, rfl, rfl, rfl, rfl⟩

theorem later_onConf {f : Conf → Conf} (h : Later ok s₀ s) : Later ok s₀ (onConf f s) := h.same _ ⟨rfl, rfl, rfl, rfl, rfl, rfl, rfl, rfl, rfl, rfl, rfl, rfl, rfl⟩

theorem later_onTree {f : Trees → Trees} (h : Later ok s₀ s) : Later ok s₀ (onTree f s) := h.same _ ⟨rfl, rfl, rfl, rfl, rfl, rfl, rfl, rfl, rfl, rfl, rfl, rfl, rfl⟩

theorem later_onArc {f : Arcade → Arcade} (h : Later ok s₀ s) : Later ok s₀ (onArc f s) := h.same _ ⟨rfl, rfl, rfl, rfl, rfl, rfl, rfl, rfl, rfl, rfl, rfl, rfl, rfl⟩

theorem later_onDig {f : Digests → Digests} (h : Later ok s₀ s) : Later ok s₀ (onDig f s) := h.same _ ⟨rfl, rfl, rfl, rfl, rfl, rfl, rfl, rfl, rfl, rfl, rfl, rfl, rfl⟩

theorem later_onTest {f : Tests → Tests} (h : Later ok s₀ s) : Later ok s₀ (onTest f s) := h.same _ ⟨rfl, rfl, rfl, rfl, rfl, rfl, rfl, rfl, rfl, rfl, rfl, rfl, rfl⟩

theorem later_onDump {f : Dumps → Dumps} (h : Later ok s₀ s) : Later ok s₀ (onDump f s) := h.same _ ⟨rfl, rfl, rfl, rfl, rfl, rfl, rfl, rfl, rfl, rfl, rfl, rfl, rfl⟩

theorem later_onJtag {f : Jtag → Jtag} (h : Later ok s₀ s) : Later ok s₀ (onJtag f s) := h.same _ ⟨rfl, rfl, rfl, rfl, rfl, rfl, rfl, rfl, rfl, rfl, rfl, rfl, rfl⟩

/-! ## Commands -/

/-- What a command answers, if it is a next state, is later. -/
def LaterOut (ok : Nat → Prop) (s₀ : State) (o : Host.Outcome State Fault Refusal) : Prop :=
  ∀ t, o = .next t → Later ok s₀ t

theorem later_run {f : State → State} (h : Later ok s₀ s) (hf : ∀ s, Later ok s₀ s → Later ok s₀ (f s)) :
    LaterOut ok s₀ (run f s) := by
  intro t e
  unfold run at e
  injection e with e
  subst e
  split
  · exact hf _ h
  · exact h

theorem later_deny {st : Nat} (h : Later ok s₀ s) : LaterReply ok s₀ (deny st s) := ⟨h, fun _ k => k⟩
theorem later_done {p : List Fld} (h : Later ok s₀ s) : LaterReply ok s₀ (done p s) := ⟨h, fun _ k => k⟩
theorem later_later {w : Work} (h : Later ok s₀ s) : LaterReply ok s₀ (later w s) := ⟨h, fun _ k => k⟩

theorem later_pair {α : Type} {p : α × State} {a : α} (e : p = (a, t)) (h : Later ok s₀ p.2) : Later ok s₀ t := by
  rw [e] at h; exact h

theorem later_countOwn {k : Nat} {n : Nat} (h : Later ok s₀ s) :
    Later ok s₀ (countOwn k n s) := by
  unfold countOwn
  try dsimp only
  repeat' first
    | with_reducible first | assumption | apply later_onLed

theorem later_notify {subject : NoticeSubject} {partition : Nat} {cmd : Nat} {payload : List Fld} (h : Later ok s₀ s) :
    Later ok s₀ (notify subject partition cmd payload s) := by
  unfold notify
  try dsimp only
  repeat' first
    | with_reducible first | assumption | apply later_onStw
    | exact fun x => x
    | split

theorem later_bypQueue {a : AlertEntry} (h : Later ok s₀ s) : Later ok s₀ (bypQueue a s) := by
  unfold bypQueue
  split
  · rename_i hl
    refine h.withUpl _ fun x => ⟨x.accounts, ?_, x.stride⟩
    simp only [List.length_append, List.length_cons, List.length_nil]
    omega
  · exact h.withUpl _ fun x => ⟨x.accounts, x.byp, x.stride⟩

theorem later_raiseAt {code : Nat} {subject : Nat} {detail : Nat} {ft : Nat} (h : Later ok s₀ s) :
    Later ok s₀ (raiseAt code subject detail ft s) := by
  unfold raiseAt
  try dsimp only
  repeat' first
    | with_reducible first | assumption | apply later_countOwn | apply later_notify | apply later_bypQueue
    | exact h.same _ ⟨rfl, rfl, rfl, rfl, rfl, rfl, rfl, rfl, rfl, rfl, rfl, rfl, rfl⟩
    | split

theorem later_raise {code : Nat} {subject : Nat} {detail : Nat} (h : Later ok s₀ s) :
    Later ok s₀ (raise code subject detail s) := by
  unfold raise
  try dsimp only
  repeat' first
    | with_reducible first | assumption | apply later_raiseAt

theorem later_emit {o : Out} (h : Later ok s₀ s) :
    Later ok s₀ (emit o s) := by
  unfold emit
  try dsimp only
  repeat' first
    | with_reducible first | assumption
    | exact h.same _ ⟨rfl, rfl, rfl, rfl, rfl, rfl, rfl, rfl, rfl, rfl, rfl, rfl, rfl⟩

theorem later_raiseInt {bit : Nat} (h : Later ok s₀ s) :
    Later ok s₀ (raiseInt bit s) := by
  unfold raiseInt
  try dsimp only
  repeat' first
    | with_reducible first | assumption | apply later_when | apply later_emit
    | exact h.same _ ⟨rfl, rfl, rfl, rfl, rfl, rfl, rfl, rfl, rfl, rfl, rfl, rfl, rfl⟩
    | split
    | intro _

theorem later_isolationFault {p : Nat} (h : Later ok s₀ s) :
    Later ok s₀ (isolationFault p s) := by
  unfold isolationFault
  try dsimp only
  repeat' first
    | with_reducible first | assumption | apply later_raise | apply later_raiseInt
    | exact h.same _ ⟨rfl, rfl, rfl, rfl, rfl, rfl, rfl, rfl, rfl, rfl, rfl, rfl, rfl⟩

theorem later_passPlace {k : Nat} (h : Later ok s₀ s) :
    Later ok s₀ (passPlace k s) := by
  unfold passPlace
  try dsimp only
  repeat' first
    | with_reducible first | assumption | apply later_onStw
    | exact fun x => x

theorem dropDoorbell_length (p : Nat) (o : Bool) (k : Nat) (l : List Doorbell) : (dropDoorbell p o k l).length ≤ l.length := by
  induction l with
  | nil => exact le_refl _
  | cons d t ih =>
    unfold dropDoorbell
    split
    · exact Nat.le_succ _
    · exact Nat.succ_le_succ ih

theorem later_takeFrom {r : Req} {code : Nat} (h : Later ok s₀ s) : Later ok s₀ (takeFrom r code s) := by
  unfold takeFrom
  dsimp only
  split
  · exact later_onHrw (later_onStw h fun x => x)
  · exact later_onStw (later_onStw h fun x => x) fun x => (dropDoorbell_length _ _ _ _).trans x
  · exact later_onSbi (later_onStw h fun x => x) fun x => x
  · exact later_onStw (later_onStw h fun x => x) fun x => x
  · exact later_onStw h fun x => x

theorem later_takeRequest {r : Req} {code : Nat} (h : Later ok s₀ s) :
    Later ok s₀ (takeRequest r code s) := by
  unfold takeRequest
  try dsimp only
  repeat' first
    | with_reducible first | assumption | apply later_passPlace | apply later_takeFrom

theorem later_sendControl {src : Nat} {dst : Nat} {rtag : Nat} {bytes : Nat} {o : Out} (h : Later ok s₀ s) :
    Later ok s₀ (sendControl src dst rtag bytes o s) := by
  unfold sendControl
  try dsimp only
  repeat' first
    | with_reducible first | assumption
    | exact h.same _ ⟨rfl, rfl, rfl, rfl, rfl, rfl, rfl, rfl, rfl, rfl, rfl, rfl, rfl⟩

theorem later_sendMsg {dst : Nat} {o : Out} (h : Later ok s₀ s) :
    Later ok s₀ (sendMsg dst o s) := by
  unfold sendMsg
  try dsimp only
  repeat' first
    | with_reducible first | assumption | apply later_sendControl

theorem later_pmPost {n : Nat} {m : Msg} (h : Later ok s₀ s) :
    Later ok s₀ (pmPost n m s) := by
  unfold pmPost
  try dsimp only
  repeat' first
    | with_reducible first | assumption | apply later_raiseInt
    | exact h.same _ ⟨rfl, rfl, rfl, rfl, rfl, rfl, rfl, rfl, rfl, rfl, rfl, rfl, rfl⟩
    | split

theorem later_raiseIbi {bytes : List Nat} (h : Later ok s₀ s) :
    Later ok s₀ (raiseIbi bytes s) := by
  unfold raiseIbi
  try dsimp only
  repeat' first
    | with_reducible first | assumption | apply later_when | apply later_emit
    | split
    | intro _

theorem later_sbiPost {m : Msg} (h : Later ok s₀ s) :
    Later ok s₀ (sbiPost m s) := by
  unfold sbiPost
  try dsimp only
  repeat' first
    | with_reducible first | assumption | apply later_raiseIbi
    | exact h.same _ ⟨rfl, rfl, rfl, rfl, rfl, rfl, rfl, rfl, rfl, rfl, rfl, rfl, rfl⟩

theorem later_bufIssue {p : Nat} {u : BufUse} {o : Out} (h : Later ok s₀ s) : Later ok s₀ (bufIssue p u o s) := by
  unfold bufIssue
  dsimp only
  split
  · rename_i hl
    refine later_emit (h.withBuf _ fun _ => ?_)
    simp only [List.length_append, List.length_cons, List.length_nil]
    omega
  · exact h.withBuf _ fun x => x

theorem later_ringWrite {k : Nat} {m : Msg} (h : Later ok s₀ s) : Later ok s₀ (ringWrite k m s) := by
  unfold ringWrite
  dsimp only
  refine later_when ?_ fun s h => later_emit h
  exact Later.withStw (later_bufIssue h) _ fun x => x

theorem later_ringPost {k : Nat} {m : Msg} (h : Later ok s₀ s) :
    Later ok s₀ (ringPost k m s) := by
  unfold ringPost
  try dsimp only
  repeat' first
    | with_reducible first | assumption | apply later_ringWrite
    | exact h.same _ ⟨rfl, rfl, rfl, rfl, rfl, rfl, rfl, rfl, rfl, rfl, rfl, rfl, rfl⟩
    | split

theorem later_postTo {i : Issuer} {m : Msg} (h : Later ok s₀ s) :
    Later ok s₀ (postTo i m s) := by
  unfold postTo
  try dsimp only
  repeat' first
    | with_reducible first | assumption | apply later_pmPost | apply later_sbiPost | apply later_ringPost
    | with_reducible first | apply later_emit | apply later_sendMsg
    | split

theorem later_relayFinish {e : ReplyEntry} (h : Later ok s₀ s) :
    Later ok s₀ (relayFinish e s) := by
  unfold relayFinish
  try dsimp only
  repeat' first
    | with_reducible first | assumption | apply later_forEach | apply later_sendMsg | apply later_postTo
    | exact h.same _ ⟨rfl, rfl, rfl, rfl, rfl, rfl, rfl, rfl, rfl, rfl, rfl, rfl, rfl⟩
    | split
    | intro _

theorem later_relayUpdate {sel : ReplyEntry → Bool} {f : ReplyEntry → ReplyEntry} (h : Later ok s₀ s) :
    Later ok s₀ (relayUpdate sel f s) := by
  unfold relayUpdate
  try dsimp only
  repeat' first
    | with_reducible first | assumption | apply later_onStw | apply later_relayFinish
    | exact fun x => x
    | split

theorem later_ownOutcome {cls : Nat} {partition : Nat} {tag : Nat} {cmd : Nat} {status : Nat} (h : Later ok s₀ s) :
    Later ok s₀ (ownOutcome cls partition tag cmd status s) := by
  unfold ownOutcome
  try dsimp only
  repeat' first
    | with_reducible first | assumption | apply later_relayUpdate

theorem later_answer {i : Issuer} {cmd : Nat} {tag : Nat} {status : Nat} {final : Bool} {p : List Fld} {b : List Byte} (h : Later ok s₀ s) :
    Later ok s₀ (answer i cmd tag status final p b s) := by
  unfold answer
  try dsimp only
  repeat' first
    | with_reducible first | assumption | apply later_ownOutcome | apply later_postTo
    | split

theorem later_answerReject {c : Cmd} {r : Req} {st : Nat} (h : Later ok s₀ s) :
    Later ok s₀ (answerReject c r st s) := by
  unfold answerReject
  try dsimp only
  repeat' first
    | with_reducible first | assumption | apply later_answer

theorem later_enqueueControl {ps : List Packet} {o : Out} (h : Later ok s₀ s) :
    Later ok s₀ (enqueueControl ps o s) := by
  unfold enqueueControl
  try dsimp only
  repeat' first
    | with_reducible first | assumption | apply later_onUpl
    | exact fun x => ⟨x.accounts, x.byp, x.stride⟩

theorem later_sendAttachment {dst : Nat} {tag : Nat} {bytes : List Byte} (h : Later ok s₀ s) :
    Later ok s₀ (sendAttachment dst tag bytes s) := by
  unfold sendAttachment
  try dsimp only
  repeat' first
    | with_reducible first | assumption | apply later_enqueueControl

theorem later_relayOpen {cls : Nat} {partition : Nat} {tag : Nat} {cmd : Nat} {sc : Scope} {issuer : Option Issuer} {askers : List Nat} {ownDue : Bool} {taken : Bool} {own : Option Nat} {att : List Byte} (h : Later ok s₀ s) :
    Later ok s₀ (relayOpen cls partition tag cmd sc issuer askers ownDue taken own att s) := by
  unfold relayOpen
  try dsimp only
  repeat' first
    | with_reducible first | assumption | apply later_forEach | apply later_when | apply later_sendAttachment
    | with_reducible first | apply later_sendMsg | apply later_relayFinish
    | exact h.same _ ⟨rfl, rfl, rfl, rfl, rfl, rfl, rfl, rfl, rfl, rfl, rfl, rfl, rfl⟩
    | split
    | intro _

theorem later_defer {c : Cmd} {r : Req} {i : Issuer} {w : Option Work} (h : Later ok s₀ s) :
    Later ok s₀ (defer c r i w s) := by
  unfold defer
  try dsimp only
  repeat' first
    | with_reducible first | assumption | apply later_onStw
    | exact fun x => x
    | split

theorem later_ownPart {c : Cmd} {own : State → State × Reply} (h : Later ok s₀ s)
    (hown : ∀ s, Later ok s₀ s → LaterReply ok s₀ (own s)) : LaterReply ok s₀ (ownPart c own s) := by
  unfold ownPart
  split
  · exact hown _ h
  · exact ⟨h, fun _ k => k⟩

theorem later_serveRelay {c : Cmd} {r : Req} {own : State → State × Reply} (h : Later ok s₀ s)
    (hown : ∀ s, Later ok s₀ s → LaterReply ok s₀ (own s)) : Later ok s₀ (serveRelay c r own s) := by
  have key : ∀ p : State × Reply, LaterReply ok s₀ p → ∀ w b o, Later ok s₀
      (p.2.after (relayOpen (issuerClass r.issuer) (issuerPart r.issuer) r.tag c.code r.scope (some r.issuer) [] b true o
        c.attachment (defer c r (.relay (issuerClass r.issuer) (issuerPart r.issuer)) w
          (answer r.issuer c.code r.tag Config.accepted false [] [] p.1)))) :=
    fun p hp w b o => hp.2 _ (later_relayOpen (later_defer (later_answer hp.1)))
  unfold serveRelay
  dsimp only
  split
  · exact later_answerReject h
  · split
    · exact key _ (later_ownPart h hown) _ _ _
    · exact key (s, okWith []) ⟨h, fun _ k => k⟩ _ _ _

theorem later_serveHere {c : Cmd} {r : Req} {own : State → State × Reply} (h : Later ok s₀ s)
    (hown : ∀ s, Later ok s₀ s → LaterReply ok s₀ (own s)) : Later ok s₀ (serveHere c r own s) := by
  unfold serveHere
  exact (hown _ h).2 _ (later_defer (later_answer (hown _ h).1))

theorem later_serve {c : Cmd} {r : Req} {form : Bool} {own : State → State × Reply} (h : Later ok s₀ s) (hown : ∀ s, Later ok s₀ s → LaterReply ok s₀ (own s)) :
    Later ok s₀ (serve c r form own s) := by
  unfold serve
  try dsimp only
  repeat' first
    | with_reducible first | assumption | apply later_isolationFault | apply later_takeRequest
    | with_reducible first | apply later_answerReject | apply later_serveRelay | apply later_serveHere
    | exact (hown _ (by with_reducible assumption)).1
    | split

theorem later_engineServed {d : Nat} {own : State → State × Reply} (h : Later ok s₀ s)
    (hown : ∀ s, Later ok s₀ s → LaterReply ok s₀ (own s)) : LaterReply ok s₀ (engineServed d own s) := by
  unfold engineServed
  split
  · exact hown _ h
  · exact later_deny h

theorem later_execArcadeStatus {r : Req} (h : Later ok s₀ s) :
    LaterOut ok s₀ (execArcadeStatus r s) := by
  unfold execArcadeStatus
  try dsimp only
  repeat' first
    | with_reducible first | assumption | apply later_run | apply later_serve | apply later_engineServed
    | with_reducible first | apply later_done
    | split
    | intro _

theorem later_execArcadeHold {r : Req} {logs : BitVec 8} {ftFirst : Nat} {ftLast : Nat} (h : Later ok s₀ s) :
    LaterOut ok s₀ (execArcadeHold r logs ftFirst ftLast s) := by
  unfold execArcadeHold
  try dsimp only
  repeat' first
    | with_reducible first | assumption | apply later_run | apply later_serve | apply later_engineServed
    | with_reducible first | apply later_deny | apply later_done | apply later_onArc
    | split
    | intro _

theorem later_endHold {id : Nat} (h : Later ok s₀ s) :
    Later ok s₀ (endHold id s) := by
  unfold endHold
  try dsimp only
  repeat' first
    | with_reducible first | assumption | apply later_onArc

theorem later_execArcadeRelease {r : Req} {holdId : Nat} (h : Later ok s₀ s) :
    LaterOut ok s₀ (execArcadeRelease r holdId s) := by
  unfold execArcadeRelease
  try dsimp only
  repeat' first
    | with_reducible first | assumption | apply later_run | apply later_serve | apply later_engineServed
    | with_reducible first | apply later_done | apply later_endHold | apply later_deny
    | split
    | intro _

theorem later_execArcadePortRestore {r : Req} {port : Nat} (h : Later ok s₀ s) :
    LaterOut ok s₀ (execArcadePortRestore r port s) := by
  unfold execArcadePortRestore
  try dsimp only
  repeat' first
    | with_reducible first | assumption | apply later_run | apply later_serve | apply later_engineServed
    | with_reducible first | apply later_deny | apply later_done | apply later_onArc
    | split
    | intro _

theorem later_chainOpen {ckind : Nat} {index : Nat} {partition : Nat} {d : Desc} (h : Later ok s₀ s) :
    Later ok s₀ (chainOpen ckind index partition d s).2 := by
  unfold chainOpen
  try dsimp only
  repeat' first
    | with_reducible first | assumption
    | exact h.same _ ⟨rfl, rfl, rfl, rfl, rfl, rfl, rfl, rfl, rfl, rfl, rfl, rfl, rfl⟩

theorem later_onChain {n : Nat} {f : Chain → Chain} (h : Later ok s₀ s) :
    Later ok s₀ (onChain n f s) := by
  unfold onChain
  try dsimp only
  repeat' first
    | with_reducible first | assumption | apply later_onBuf
    | exact fun x => x

theorem later_outputTo {d : Desc} {bytes : Nat} {data : BufData} (h : Later ok s₀ s) :
    Later ok s₀ (outputTo d bytes data s).2 := by
  unfold outputTo
  try dsimp only
  repeat' first
    | with_reducible first | assumption | apply later_chainOpen | apply later_onChain | apply later_emit
    | with_reducible first | apply later_bufIssue

theorem later_outputReply {r : Req} {d : Desc} {bytes : Nat} {data : BufData} (h : Later ok s₀ s) :
    LaterReply ok s₀ (outputReply r d bytes data s) := by
  unfold outputReply
  try dsimp only
  repeat' first
    | with_reducible first | assumption | apply later_deny | apply later_outputTo | apply later_later
    | split

theorem later_execArcadeLocate {r : Req} {desc : Desc} {tray : Nat} {frameFirst : Nat} {frameLast : Nat} (h : Later ok s₀ s) :
    LaterOut ok s₀ (execArcadeLocate r desc tray frameFirst frameLast s) := by
  unfold execArcadeLocate
  try dsimp only
  repeat' first
    | with_reducible first | assumption | apply later_run | apply later_serve | apply later_engineServed
    | with_reducible first | apply later_deny | apply later_outputReply
    | split
    | intro _

theorem later_nvPush {r : NvRec} (h : Later ok s₀ s) : Later ok s₀ (nvPush r s) :=
  h.withNv _ (le_refl _) (le_refl _) (fun _ m => m) fun x => x

theorem later_assertFence {line a b c d : Nat} (h : Later ok s₀ s) : Later ok s₀ (assertFence line a b c d s) :=
  later_nvPush (h.withFence _ fun i _ l => getLsbD_putBit_true _ _ i l)

theorem later_shrinkPlaza (h : Later ok s₀ s) :
    Later ok s₀ (shrinkPlaza s) := by
  unfold shrinkPlaza
  try dsimp only
  repeat' first
    | with_reducible first | assumption | apply later_onPlace | apply later_emit
    | split

theorem later_resizeRegion {n : RegionName} {kib : Nat} (h : Later ok s₀ s) :
    Later ok s₀ (resizeRegion n kib s) := by
  unfold resizeRegion
  try dsimp only
  repeat' first
    | with_reducible first | assumption | apply later_onStw
    | exact fun x => x

theorem later_dropSlots (h : Later ok s₀ s) :
    Later ok s₀ (dropSlots s) := by
  unfold dropSlots
  try dsimp only
  repeat' first
    | with_reducible first | assumption | apply later_onTree

theorem later_dropSeries (h : Later ok s₀ s) :
    Later ok s₀ (dropSeries s) := by
  unfold dropSeries
  try dsimp only
  repeat' first
    | with_reducible first | assumption | apply later_onConf

theorem later_shrinkLeaf (h : Later ok s₀ s) :
    Later ok s₀ (shrinkLeaf s) := by
  unfold shrinkLeaf
  try dsimp only
  repeat' first
    | with_reducible first | assumption | apply later_resizeRegion | apply later_when | apply later_dropSlots
    | with_reducible first | apply later_dropSeries
    | split
    | intro _

theorem later_shrinkGroup (h : Later ok s₀ s) :
    Later ok s₀ (shrinkGroup s) := by
  unfold shrinkGroup
  try dsimp only
  repeat' first
    | with_reducible first | assumption | apply later_shrinkPlaza | apply later_shrinkLeaf
    | split

theorem later_endMove {group : Nat} {off : Bool} (h : Later ok s₀ s) :
    Later ok s₀ (endMove group off s) := by
  unfold endMove
  try dsimp only
  repeat' first
    | with_reducible first | assumption | apply later_onPwr | apply later_shrinkGroup
    | split

theorem later_startMove {group : Nat} {off : Bool} (h : Later ok s₀ s) :
    Later ok s₀ (startMove group off s) := by
  unfold startMove
  try dsimp only
  repeat' first
    | with_reducible first | assumption | apply later_onPwr | apply later_endMove
    | split

theorem later_fenceConc {c : Nat} (h : Later ok s₀ s) :
    Later ok s₀ (fenceConc c s) := by
  unfold fenceConc
  try dsimp only
  repeat' first
    | with_reducible first | assumption | apply later_onSmp

theorem later_shrinkFor {rkind : Nat} {index : Nat} (h : Later ok s₀ s) :
    Later ok s₀ (shrinkFor rkind index s) := by
  unfold shrinkFor
  try dsimp only
  repeat' first
    | with_reducible first | assumption | apply later_startMove | apply later_fenceConc | apply later_onArc
    | split

theorem later_joinCds {rkind : Nat} {index : Nat} {hsource : Nat} {refA : Nat} {refB : Nat} (h : Later ok s₀ s) :
    Later ok s₀ (joinCds rkind index hsource refA refB s) := by
  unfold joinCds
  try dsimp only
  repeat' first
    | with_reducible first | assumption | apply later_onPwr | apply later_nvPush | apply later_raise
    | with_reducible first | apply later_raiseInt | apply later_shrinkFor
    | split

theorem later_onSegment {seq : Nat} {f : Segment → Segment} (h : Later ok s₀ s) :
    Later ok s₀ (onSegment seq f s) := by
  unfold onSegment
  try dsimp only
  repeat' first
    | with_reducible first | assumption | apply later_onArc

theorem later_onQuery {chain : Nat} {f : QueryState → QueryState} (h : Later ok s₀ s) :
    Later ok s₀ (onQuery chain f s) := by
  unfold onQuery
  try dsimp only
  repeat' first
    | with_reducible first | assumption | apply later_onArc

theorem later_onScan {chain : Nat} {engine : Nat} {f : Scan → Scan} (h : Later ok s₀ s) :
    Later ok s₀ (onScan chain engine f s) := by
  unfold onScan
  try dsimp only
  repeat' first
    | with_reducible first | assumption | apply later_onQuery

theorem later_memStart {o : MemOp} (h : Later ok s₀ s) :
    Later ok s₀ (memStart o s) := by
  unfold memStart
  try dsimp only
  repeat' first
    | with_reducible first | assumption | apply later_emit | apply later_onArc

theorem later_driveScan {chain engine n : Nat} (h : Later ok s₀ s) : Later ok s₀ (driveScan chain engine n s) := by
  induction n generalizing s with
  | zero => exact h
  | succ n ih =>
    unfold driveScan
    split
    · exact h
    · split
      · exact h
      · dsimp only
        split
        · exact ih (later_onQuery (later_onScan h))
        · split
          · exact ih (later_onQuery (later_onScan h))
          · exact ih (later_onScan (later_onScan h))
      · dsimp only
        split
        · exact h
        · split
          · exact ih (later_memStart (later_onScan h))
          · exact h

theorem later_drive {chain : Nat} {engine : Nat} (h : Later ok s₀ s) :
    Later ok s₀ (drive chain engine s) := by
  unfold drive
  try dsimp only
  repeat' first
    | with_reducible first | assumption | apply later_driveScan

theorem later_markSkipped {g : Segment} {hole : Bool} (h : Later ok s₀ s) :
    Later ok s₀ (markSkipped g hole s) := by
  unfold markSkipped
  try dsimp only
  repeat' first
    | with_reducible first | assumption | apply later_forEach | apply later_onQuery | apply later_drive
    | split
    | intro _

theorem later_reclaim (h : Later ok s₀ s) :
    Later ok s₀ (reclaim s).2 := by
  unfold reclaim
  try dsimp only
  repeat' first
    | with_reducible first | assumption | apply later_onArc | apply later_markSkipped
    | split

theorem later_placeSegment (h : Later ok s₀ s) :
    Later ok s₀ (placeSegment s).2 := by
  unfold placeSegment
  try dsimp only
  repeat' first
    | with_reducible first | assumption | apply later_reclaim
    | split

theorem later_issueWaiting {n : Nat} (h : Later ok s₀ s) : Later ok s₀ (issueWaiting n s) := by
  induction n generalizing s with
  | zero => exact h
  | succ n ih =>
    unfold issueWaiting
    split
    · exact h
    · exact ih (later_memStart (later_onArc h))

theorem later_memQueue {l : List MemOp} (h : Later ok s₀ s) :
    Later ok s₀ (memQueue l s) := by
  unfold memQueue
  try dsimp only
  repeat' first
    | with_reducible first | assumption | apply later_onArc | apply later_issueWaiting

theorem later_sealLog {log : Nat} (h : Later ok s₀ s) :
    Later ok s₀ (sealLog log s) := by
  unfold sealLog
  try dsimp only
  repeat' first
    | with_reducible first | assumption | apply later_memQueue | apply later_onSegment
    | split

theorem later_segmentFor {log : Nat} {bytes : Nat} (h : Later ok s₀ s) :
    Later ok s₀ (segmentFor log bytes s).2 := by
  unfold segmentFor
  try dsimp only
  repeat' first
    | with_reducible first | assumption | apply later_placeSegment | apply later_sealLog | apply later_onArc
    | split
    | intro _
    | dsimp only
    | refine later_pair (by assumption) ?_

theorem later_arcSkip {source : Nat} {bytes : Nat} (h : Later ok s₀ s) :
    Later ok s₀ (arcSkip source bytes s) := by
  unfold arcSkip
  try dsimp only
  repeat' first
    | with_reducible first | assumption | apply later_onArc

theorem later_arcWrite {log : Nat} {e : ArcEntry} (h : Later ok s₀ s) :
    Later ok s₀ (arcWrite log e s) := by
  unfold arcWrite
  try dsimp only
  repeat' first
    | with_reducible first | assumption | apply later_segmentFor | apply later_arcSkip | apply later_memQueue
    | with_reducible first | apply later_onArc | apply later_onSegment
    | split
    | intro _
    | dsimp only
    | refine later_pair (by assumption) ?_

theorem later_portShortage (h : Later ok s₀ s) :
    Later ok s₀ (portShortage s) := by
  unfold portShortage
  try dsimp only
  repeat' first
    | with_reducible first | assumption | apply later_emit | apply later_raise
    | split

theorem later_failPort {port : Nat} (h : Later ok s₀ s) :
    Later ok s₀ (failPort port s) := by
  unfold failPort
  try dsimp only
  repeat' first
    | with_reducible first | assumption | apply later_assertFence | apply later_joinCds | apply later_forEach
    | with_reducible first | apply later_onSegment | apply later_onArc | apply later_markSkipped
    | with_reducible first | apply later_arcWrite | apply later_issueWaiting | apply later_portShortage
    | with_reducible first | apply later_raise
    | split
    | intro _

theorem later_portError {port : Nat} (h : Later ok s₀ s) :
    Later ok s₀ (portError port s) := by
  unfold portError
  try dsimp only
  repeat' first
    | with_reducible first | assumption | apply later_onArc | apply later_when | apply later_failPort
    | split
    | intro _

theorem later_opFailed {o : MemOp} (h : Later ok s₀ s) :
    Later ok s₀ (opFailed o s) := by
  unfold opFailed
  try dsimp only
  repeat' first
    | with_reducible first | assumption | apply later_portError | apply later_onArc | apply later_issueWaiting
    | split

theorem later_scanAnswered {chain : Nat} {engine : Nat} (h : Later ok s₀ s) :
    Later ok s₀ (scanAnswered chain engine s) := by
  unfold scanAnswered
  try dsimp only
  repeat' first
    | with_reducible first | assumption | apply later_drive | apply later_onScan | apply later_onQuery
    | split

theorem later_opDone {o : MemOp} (h : Later ok s₀ s) :
    Later ok s₀ (opDone o s) := by
  unfold opDone
  try dsimp only
  repeat' first
    | with_reducible first | assumption | apply later_onArc | apply later_scanAnswered | apply later_issueWaiting
    | split

theorem later_execMemResponse {port : Nat} {tag : Nat} {err : Bool} (h : Later ok s₀ s) :
    LaterOut ok s₀ (execMemResponse port tag err s) := by
  unfold execMemResponse
  try dsimp only
  repeat' first
    | with_reducible first | assumption | apply later_run | apply later_opFailed | apply later_opDone
    | split
    | intro _

theorem timeLater_edges (t : TimeFront) (e : Nat) : TimeLater t (t.edges e) := by
  unfold TimeFront.edges
  dsimp only
  split
  · exact ⟨Nat.le_add_right _ _, Nat.le_add_right _ _, Nat.le_add_right _ _, Nat.le_add_right _ _⟩
  · exact ⟨le_refl _, Nat.le_add_right _ _, Nat.le_add_right _ _, le_refl _⟩

theorem timeLater_idleNs (t : TimeFront) (n : Nat) : TimeLater t (t.idleNs n) :=
  ⟨le_refl _, Nat.le_add_right _ _, Nat.le_add_right _ _, le_refl _⟩

theorem later_passEdges {e : Nat} (h : Later ok s₀ s) : Later ok s₀ (passEdges e s) :=
  have k := timeLater_edges s.time e
  h.withTime _ k.1 k.2.1 k.2.2.1 k.2.2.2

theorem later_idle {n : Nat} (h : Later ok s₀ s) : Later ok s₀ { s with time := s.time.idleNs n } :=
  have k := timeLater_idleNs s.time n
  h.withTime _ k.1 k.2.1 k.2.2.1 k.2.2.2

theorem later_untilTimer {t : Nat} (h : Later ok s₀ s) : Later ok s₀ (untilTimer t s) := by
  unfold untilTimer
  dsimp only
  split
  · exact later_passEdges h
  · exact later_idle h

theorem later_execMemOpTimeout {port : Nat} {tag : Nat} (h : Later ok s₀ s) :
    LaterOut ok s₀ (execMemOpTimeout port tag s) := by
  unfold execMemOpTimeout
  try dsimp only
  repeat' first
    | with_reducible first | assumption | apply later_run | apply later_opFailed | apply later_untilTimer
    | split
    | intro _

theorem later_holeQueries (h : Later ok s₀ s) :
    Later ok s₀ (holeQueries s) := by
  unfold holeQueries
  try dsimp only
  repeat' first
    | with_reducible first | assumption | apply later_when | apply later_onArc
    | split
    | intro _

theorem later_execMemLinkLoss {port : Nat} (h : Later ok s₀ s) :
    LaterOut ok s₀ (execMemLinkLoss port s) := by
  unfold execMemLinkLoss
  try dsimp only
  repeat' first
    | with_reducible first | assumption | apply later_run | apply later_holeQueries | apply later_failPort
    | split
    | intro _

theorem later_untilFt {ft : Nat} (h : Later ok s₀ s) :
    Later ok s₀ (untilFt ft s) := by
  unfold untilFt
  try dsimp only
  repeat' first
    | with_reducible first | assumption | apply later_when | apply later_passEdges
    | split
    | intro _

theorem later_execSegmentSealTimeout {log : Nat} (h : Later ok s₀ s) :
    LaterOut ok s₀ (execSegmentSealTimeout log s) := by
  unfold execSegmentSealTimeout
  try dsimp only
  repeat' first
    | with_reducible first | assumption | apply later_run | apply later_sealLog | apply later_untilFt
    | split
    | intro _

theorem later_execArcadeHoldExpiry {holdId : Nat} (h : Later ok s₀ s) :
    LaterOut ok s₀ (execArcadeHoldExpiry holdId s) := by
  unfold execArcadeHoldExpiry
  try dsimp only
  repeat' first
    | with_reducible first | assumption | apply later_run | apply later_endHold | apply later_untilTimer
    | split
    | intro _

theorem later_arcIngest {log : Nat} {e : ArcEntry} (h : Later ok s₀ s) :
    Later ok s₀ (arcIngest log e s) := by
  unfold arcIngest
  try dsimp only
  repeat' first
    | with_reducible first | assumption | apply later_raise | apply later_arcSkip | apply later_arcWrite
    | with_reducible first | apply later_onArc
    | split

theorem later_closeIngest (h : Later ok s₀ s) :
    Later ok s₀ (closeIngest s) := by
  unfold closeIngest
  try dsimp only
  repeat' first
    | with_reducible first | assumption | apply later_onArc

theorem later_draw (h : Later ok s₀ s) :
    Later ok s₀ (draw s).2 := by
  unfold draw
  try dsimp only
  repeat' first
    | with_reducible first | assumption
    | exact h.same _ ⟨rfl, rfl, rfl, rfl, rfl, rfl, rfl, rfl, rfl, rfl, rfl, rfl, rfl⟩

theorem later_readBy {early : Bool} {q : QueryState} (h : Later ok s₀ s) : Later ok s₀ (readBy early q s).2 := by
  unfold readBy
  split
  · suffices k : ∀ (l : List (Nat × Nat × Nat × Nat)) (acc : List (Nat × ArcEntry) × State), Later ok s₀ acc.2 →
        Later ok s₀ (l.foldl (fun acc x =>
          (acc.1 ++ ((entriesOf x.1 (draw acc.2).2).take ((draw acc.2).1 % ((entriesOf x.1 (draw acc.2).2).length + 1))).map
            (fun e => (x.1, e)), (draw acc.2).2)) acc).2 from k _ (q.seen, s) h
    intro l
    induction l with
    | nil => exact fun _ h => h
    | cons e l ih => exact fun acc h => ih _ (later_draw h)
  · exact h

theorem later_resultOf {q : QueryState} {flags : Nat} {bytes : Nat} (h : Later ok s₀ s) :
    Later ok s₀ (resultOf q flags bytes s).2 := by
  unfold resultOf
  try dsimp only
  repeat' first
    | with_reducible first | assumption | apply later_draw

theorem later_endQuery {id : Nat} {flags : Nat} {early : Bool} (h : Later ok s₀ s) :
    Later ok s₀ (endQuery id flags early s) := by
  unfold endQuery
  try dsimp only
  repeat' first
    | with_reducible first | assumption | apply later_readBy | apply later_resultOf | apply later_onArc
    | with_reducible first | apply later_onChain | apply later_bufIssue
    | split

theorem later_intermediate {w : Work} {p : List Fld} (h : Later ok s₀ s) :
    Later ok s₀ (intermediate w p s) := by
  unfold intermediate
  try dsimp only
  repeat' first
    | with_reducible first | assumption | apply later_forEach | apply later_answer
    | split
    | intro _

theorem later_execBackscanStart (h : Later ok s₀ s) :
    LaterOut ok s₀ (execBackscanStart s) := by
  unfold execBackscanStart
  try dsimp only
  repeat' first
    | with_reducible first | assumption | apply later_run | apply later_onQuery | apply later_forEach
    | with_reducible first | apply later_drive | apply later_intermediate
    | split
    | intro _

theorem later_execBackscanComplete {queryId : Nat} (h : Later ok s₀ s) :
    LaterOut ok s₀ (execBackscanComplete queryId s) := by
  unfold execBackscanComplete
  try dsimp only
  repeat' first
    | with_reducible first | assumption | apply later_run | apply later_endQuery
    | split
    | intro _

theorem later_execBackscanTimeout {queryId : Nat} (h : Later ok s₀ s) :
    LaterOut ok s₀ (execBackscanTimeout queryId s) := by
  unfold execBackscanTimeout
  try dsimp only
  repeat' first
    | with_reducible first | assumption | apply later_run | apply later_endQuery | apply later_untilTimer
    | split
    | intro _

theorem later_execBackscanSubmit {r : Req} {queryAddr : Nat} {query : Query} {desc : Desc} (h : Later ok s₀ s) :
    LaterOut ok s₀ (execBackscanSubmit r queryAddr query desc s) := by
  unfold execBackscanSubmit
  try dsimp only
  repeat' first
    | with_reducible first | assumption | apply later_run | apply later_serve | apply later_engineServed
    | with_reducible first | apply later_deny | apply later_chainOpen | apply later_later | apply later_onArc
    | split
    | intro _

theorem later_execBackscanCancel {r : Req} {queryId : Nat} (h : Later ok s₀ s) :
    LaterOut ok s₀ (execBackscanCancel r queryId s) := by
  unfold execBackscanCancel
  try dsimp only
  repeat' first
    | with_reducible first | assumption | apply later_run | apply later_serve | apply later_engineServed
    | with_reducible first | apply later_endQuery | apply later_deny
    | split
    | intro _
    | dsimp only
    | refine And.intro ?_ ?_

theorem later_execBackscanStatus {r : Req} {queryId : Nat} (h : Later ok s₀ s) :
    LaterOut ok s₀ (execBackscanStatus r queryId s) := by
  unfold execBackscanStatus
  try dsimp only
  repeat' first
    | with_reducible first | assumption | apply later_run | apply later_serve | apply later_engineServed
    | with_reducible first | apply later_done | apply later_deny
    | split
    | intro _

theorem later_onSource {n : Nat} {f : Source → Source} (h : Later ok s₀ s) :
    Later ok s₀ (onSource n f s) := by
  unfold onSource
  try dsimp only
  repeat' first
    | with_reducible first | assumption | apply later_onTrc
    | exact fun x => ⟨x.grants, x.fronts⟩

theorem later_countBlocks {l : List (Nat × BufData)} (h : Later ok s₀ s) :
    Later ok s₀ (countBlocks l s) := by
  unfold countBlocks
  try dsimp only
  repeat' first
    | with_reducible first | assumption | apply later_forEach | apply later_onSource
    | split
    | intro _

theorem later_dropForeign {p : Nat} (h : Later ok s₀ s) :
    Later ok s₀ (dropForeign p s) := by
  unfold dropForeign
  try dsimp only
  repeat' first
    | with_reducible first | assumption | apply later_raise | apply later_onStw | apply later_onBuf
    | exact fun x => x

theorem later_chainClose {n : Nat} (h : Later ok s₀ s) :
    Later ok s₀ (chainClose n s) := by
  unfold chainClose
  try dsimp only
  repeat' first
    | with_reducible first | assumption | apply later_bufIssue | apply later_onChain
    | split

theorem later_chainWrite {n : Nat} {bytes : Nat} {data : BufData} (h : Later ok s₀ s) :
    Later ok s₀ (chainWrite n bytes data s) := by
  unfold chainWrite
  try dsimp only
  repeat' first
    | with_reducible first | assumption | apply later_bufIssue | apply later_onChain | apply later_chainClose
    | split

theorem later_chainPut {n : Nat} {hr : Nat × BufData} (h : Later ok s₀ s) :
    Later ok s₀ (chainPut n hr s) := by
  unfold chainPut
  try dsimp only
  repeat' first
    | with_reducible first | assumption | apply later_dropForeign | apply later_chainWrite
    | split

theorem later_countDropped {c : Chain} {k : Nat} (h : Later ok s₀ s) :
    Later ok s₀ (countDropped c k s) := by
  unfold countDropped
  try dsimp only
  repeat' first
    | with_reducible first | assumption | apply later_onSmp
    | split

theorem later_chainDrop {n : Nat} (h : Later ok s₀ s) :
    Later ok s₀ (chainDrop n s) := by
  unfold chainDrop
  try dsimp only
  repeat' first
    | with_reducible first | assumption
    | exact h.same _ ⟨rfl, rfl, rfl, rfl, rfl, rfl, rfl, rfl, rfl, rfl, rfl, rfl, rfl⟩

theorem later_descDone {n : Nat} {d : Desc} {fill : Nat} {cstatus : Nat} {chainEnd : Bool} (h : Later ok s₀ s) :
    Later ok s₀ (descDone n d fill cstatus chainEnd s) := by
  unfold descDone
  try dsimp only
  repeat' first
    | with_reducible first | assumption | apply later_emit | apply later_when | apply later_notify
    | split
    | intro _

theorem later_chainWithdraw {n : Nat} (h : Later ok s₀ s) :
    Later ok s₀ (chainWithdraw n s) := by
  unfold chainWithdraw
  try dsimp only
  repeat' first
    | with_reducible first | assumption | apply later_chainDrop | apply later_descDone | apply later_onChain
    | split

theorem later_chainResume {n : Nat} {d : Desc} (h : Later ok s₀ s) :
    Later ok s₀ (chainResume n d s) := by
  unfold chainResume
  try dsimp only
  repeat' first
    | with_reducible first | assumption | apply later_onChain | apply later_forEach | apply later_chainPut
    | with_reducible first | apply later_when | apply later_chainWithdraw
    | split
    | intro _

theorem later_chainExhaust {n : Nat} (h : Later ok s₀ s) :
    Later ok s₀ (chainExhaust n s) := by
  unfold chainExhaust
  try dsimp only
  repeat' first
    | with_reducible first | assumption | apply later_chainDrop | apply later_countDropped | apply later_countBlocks
    | with_reducible first | apply later_onChain
    | split

theorem later_closeAnswered {n : Nat} {err : Bool} {next : Option Desc} (h : Later ok s₀ s) :
    Later ok s₀ (closeAnswered n err next s) := by
  unfold closeAnswered
  try dsimp only
  repeat' first
    | with_reducible first | assumption | apply later_chainExhaust | apply later_descDone | apply later_chainResume
    | with_reducible first | apply later_onChain | apply later_onBuf
    | exact fun x => x
    | split

theorem later_finish {d : Deferred} {status : Nat} {p : List Fld} (h : Later ok s₀ s) :
    Later ok s₀ (finish d status p s) := by
  unfold finish
  try dsimp only
  repeat' first
    | with_reducible first | assumption | apply later_answer
    | exact h.same _ ⟨rfl, rfl, rfl, rfl, rfl, rfl, rfl, rfl, rfl, rfl, rfl, rfl, rfl⟩
    | split

theorem later_completeWhere {t : Work → Bool} {status : Nat} {p : List Fld} (h : Later ok s₀ s) :
    Later ok s₀ (completeWhere t status p s) := by
  unfold completeWhere
  try dsimp only
  repeat' first
    | with_reducible first | assumption | apply later_forEach | apply later_finish
    | exact h.same _ ⟨rfl, rfl, rfl, rfl, rfl, rfl, rfl, rfl, rfl, rfl, rfl, rfl, rfl⟩
    | split
    | intro _

theorem later_complete {w : Work} {status : Nat} {p : List Fld} (h : Later ok s₀ s) :
    Later ok s₀ (complete w status p s) := by
  unfold complete
  try dsimp only
  repeat' first
    | with_reducible first | assumption | apply later_completeWhere

theorem later_queryWritten {n : Nat} {rest : Nat} {status : Nat} (h : Later ok s₀ s) :
    Later ok s₀ (queryWritten n rest status s) := by
  unfold queryWritten
  try dsimp only
  repeat' first
    | with_reducible first | assumption | apply later_emit | apply later_onArc | apply later_complete
    | split

theorem later_outputAnswered {n : Nat} {rest : Nat} {fill : Nat} {err : Bool} {next : Option Desc} (h : Later ok s₀ s) :
    Later ok s₀ (outputAnswered n rest fill err next s) := by
  unfold outputAnswered
  try dsimp only
  repeat' first
    | with_reducible first | assumption | apply later_chainDrop | apply later_complete | apply later_queryWritten
    | with_reducible first | apply later_descDone | apply later_onChain | apply later_bufIssue
    | split

theorem later_bufFailed {op : BufOp} (h : Later ok s₀ s) :
    Later ok s₀ (bufFailed op s) := by
  unfold bufFailed
  try dsimp only
  repeat' first
    | with_reducible first | assumption | apply later_onBuf | apply later_closeAnswered | apply later_outputAnswered
    | with_reducible first | apply later_countDropped | apply later_onChain
    | exact fun x => x
    | split

theorem later_bufDone {op : BufOp} {next : Option Desc} (h : Later ok s₀ s) :
    Later ok s₀ (bufDone op next s) := by
  unfold bufDone
  try dsimp only
  repeat' first
    | with_reducible first | assumption | apply later_closeAnswered | apply later_outputAnswered
    | split

theorem later_bufRetire {id : Nat} (h : Later ok s₀ s) (hm : ∃ o ∈ s.buf.ops, o.id = id) :
    Later ok s₀ (bufRetire id s) := by
  unfold bufRetire
  dsimp only
  split
  · exact h.withBuf _ fun x => (List.length_filter_le _ _).trans x
  · refine later_emit (h.withBuf _ fun x => ?_)
    obtain ⟨o, hm, ho⟩ := hm
    have := (List.length_filter_lt_length_iff_exists (l := s.buf.ops) (p := fun o => o.id != id)).mpr ⟨o, hm, by simp [ho]⟩
    simp only [List.length_append, List.length_cons, List.length_nil]
    omega

theorem buf_found {l : List BufOp} {id : Nat} {o : BufOp} (h : l.find? (fun o => o.id == id) = some o) :
    ∃ o ∈ l, o.id = id :=
  ⟨o, List.mem_of_find?_eq_some h, by simpa using List.find?_some h⟩

theorem later_execBufResponse {id : Nat} {err : Bool} {next : Option Desc} (h : Later ok s₀ s) :
    LaterOut ok s₀ (execBufResponse id err next s) := by
  refine later_run h fun s h => ?_
  split
  · exact h
  · rename_i o e
    have k := later_bufRetire h (buf_found e)
    split
    · exact later_bufFailed k
    · exact later_bufDone k

theorem untilTimer_buf {t : Nat} {s : State} : (untilTimer t s).buf = s.buf := by
  unfold untilTimer passEdges
  dsimp only
  split <;> rfl

theorem later_execBufTimeout {id : Nat} (h : Later ok s₀ s) : LaterOut ok s₀ (execBufTimeout id s) := by
  refine later_run h fun s h => ?_
  split
  · exact h
  · rename_i o e
    refine later_bufFailed (later_bufRetire (later_untilTimer h) ?_)
    rw [untilTimer_buf]
    exact buf_found e

theorem later_restartChain {chain : Nat} (h : Later ok s₀ s) :
    Later ok s₀ (restartChain chain s) := by
  unfold restartChain
  try dsimp only
  repeat' first
    | with_reducible first | assumption | apply later_onTrc
    | exact fun x => ⟨x.grants, x.fronts⟩

theorem later_chainAppend {n : Nat} {d : Desc} (h : Later ok s₀ s) :
    Later ok s₀ (chainAppend n d s) := by
  unfold chainAppend
  try dsimp only
  repeat' first
    | with_reducible first | assumption | apply later_chainResume | apply later_when | apply later_restartChain
    | with_reducible first | apply later_onChain
    | split
    | intro _

theorem later_execBufChainAppend {r : Req} {ckind : Nat} {chain : Nat} {desc : Desc} (h : Later ok s₀ s) :
    LaterOut ok s₀ (execBufChainAppend r ckind chain desc s) := by
  unfold execBufChainAppend
  try dsimp only
  repeat' first
    | with_reducible first | assumption | apply later_run | apply later_serve | apply later_deny | apply later_done
    | with_reducible first | apply later_chainAppend
    | split
    | intro _

theorem later_loadCalendar {i : CalImage} (h : Later ok s₀ s) :
    Later ok s₀ (loadCalendar i s) := by
  unfold loadCalendar
  try dsimp only
  repeat' first
    | with_reducible first | assumption | apply later_onConf | apply later_when | apply later_raise
    | split
    | intro _

theorem later_setMark {u : Under} {mid : Nat} {m : MatchState} (h : Later ok s₀ s) :
    Later ok s₀ (setMark u mid m s) := by
  unfold setMark
  try dsimp only
  repeat' first
    | with_reducible first | assumption | apply later_onConf
    | split

theorem later_resolve {e : MarkerEntry} {kind : Nat} {occ : Nat} {lateness : Int} (h : Later ok s₀ s) :
    Later ok s₀ (resolve e kind occ lateness s) := by
  unfold resolve
  try dsimp only
  repeat' first
    | with_reducible first | assumption | apply later_onConf

theorem later_declareMissed {u : Under} {e : MarkerEntry} {k : Nat} (h : Later ok s₀ s) :
    Later ok s₀ (declareMissed u e k s) := by
  unfold declareMissed
  try dsimp only
  repeat' first
    | with_reducible first | assumption | apply later_resolve

theorem later_countUnknown (h : Later ok s₀ s) :
    Later ok s₀ (countUnknown s) := by
  unfold countUnknown
  try dsimp only
  repeat' first
    | with_reducible first | assumption | apply later_onConf | apply later_when | apply later_raise
    | split
    | intro _

theorem later_matchAt {u : Under} {e : MarkerEntry} {t : Nat} (h : Later ok s₀ s) :
    Later ok s₀ (matchAt u e t s) := by
  unfold matchAt
  try dsimp only
  repeat' first
    | with_reducible first | assumption | apply later_countUnknown | apply later_forEach | apply later_declareMissed
    | with_reducible first | apply later_resolve | apply later_setMark
    | split
    | intro _

theorem later_matchInvalid {u : Under} {e : MarkerEntry} (h : Later ok s₀ s) :
    Later ok s₀ (matchInvalid u e s) := by
  unfold matchInvalid
  try dsimp only
  repeat' first
    | with_reducible first | assumption | apply later_setMark | apply later_resolve | apply later_onConf

theorem later_matchStrobe {x : Nat × Nat × Bool} (h : Later ok s₀ s) :
    Later ok s₀ (matchStrobe x s) := by
  unfold matchStrobe
  try dsimp only
  repeat' first
    | with_reducible first | assumption | apply later_countUnknown | apply later_matchAt | apply later_matchInvalid
    | split

theorem later_activate {i : CalImage} {a : Nat} (h : Later ok s₀ s) :
    Later ok s₀ (activate i a s) := by
  unfold activate
  try dsimp only
  repeat' first
    | with_reducible first | assumption | apply later_onTest | apply later_onConf

theorem later_activateDue (h : Later ok s₀ s) :
    Later ok s₀ (activateDue s) := by
  unfold activateDue
  try dsimp only
  repeat' first
    | with_reducible first | assumption | apply later_when | apply later_activate
    | split
    | intro _

theorem later_drainStrobes (h : Later ok s₀ s) :
    Later ok s₀ (drainStrobes s) := by
  unfold drainStrobes
  try dsimp only
  repeat' first
    | with_reducible first | assumption | apply later_activateDue | apply later_forEach | apply later_matchStrobe
    | with_reducible first | apply later_onConf
    | split
    | intro _

theorem later_passDeadline {mid : Nat} (h : Later ok s₀ s) :
    Later ok s₀ (passDeadline mid s) := by
  unfold passDeadline
  try dsimp only
  repeat' first
    | with_reducible first | assumption | apply later_drainStrobes | apply later_untilFt | apply later_setMark
    | with_reducible first | apply later_declareMissed
    | split

theorem later_activateCalendar (h : Later ok s₀ s) :
    Later ok s₀ (activateCalendar s) := by
  unfold activateCalendar
  try dsimp only
  repeat' first
    | with_reducible first | assumption | apply later_when | apply later_activate | apply later_untilFt
    | split
    | intro _

theorem later_raiseStraggler {code : Nat} {die : Nat} {job : Nat} (h : Later ok s₀ s) :
    Later ok s₀ (raiseStraggler code die job s) := by
  unfold raiseStraggler
  try dsimp only
  repeat' first
    | with_reducible first | assumption | apply later_raise | apply later_when | apply later_notify
    | split
    | intro _

theorem later_stepRun {r : CohortRule} {die : Nat} {cand : Bool} (h : Later ok s₀ s) :
    Later ok s₀ (stepRun r die cand s) := by
  unfold stepRun
  try dsimp only
  repeat' first
    | with_reducible first | assumption | apply later_onConf | apply later_raiseStraggler | apply later_when
    | split
    | intro _

theorem later_judgeMembers {r : CohortRule} {threshold : Nat} {entries : List (Nat × Option Int)} (h : Later ok s₀ s) :
    Later ok s₀ (judgeMembers r threshold entries s) := by
  unfold judgeMembers
  try dsimp only
  repeat' first
    | with_reducible first | assumption | apply later_forEach | apply later_stepRun
    | split
    | intro _

theorem later_judgeTray {o : Occurrence} {r : CohortRule} (h : Later ok s₀ s) :
    Later ok s₀ (judgeTray o r s) := by
  unfold judgeTray
  try dsimp only
  repeat' first
    | with_reducible first | assumption | apply later_judgeMembers | apply later_onConf
    | split

theorem later_onOcc {k : RoleKind} {job : Nat} {marker : Nat} {occ : Nat} {f : Occurrence → Occurrence} (h : Later ok s₀ s) :
    Later ok s₀ (onOcc k job marker occ f s) := by
  unfold onOcc
  try dsimp only
  repeat' first
    | with_reducible first | assumption | apply later_onConf

theorem later_shutOcc {k : RoleKind} {job : Nat} {marker : Nat} {occ : Nat} (h : Later ok s₀ s) :
    Later ok s₀ (shutOcc k job marker occ s) := by
  unfold shutOcc
  try dsimp only
  repeat' first
    | with_reducible first | assumption | apply later_onConf

theorem later_openOcc {k : RoleKind} {job : Nat} {marker : Nat} {cls : Nat} {occ : Nat} {frame : Nat} {period : Nat} (h : Later ok s₀ s) :
    Later ok s₀ (openOcc k job marker cls occ frame period s) := by
  unfold openOcc
  try dsimp only
  repeat' first
    | with_reducible first | assumption | apply later_shutOcc | apply later_onConf
    | split

theorem later_keepHist {hr : HistRecord} (h : Later ok s₀ s) :
    Later ok s₀ (keepHist hr s) := by
  unfold keepHist
  try dsimp only
  repeat' first
    | with_reducible first | assumption | apply later_onConf

theorem later_countSeries {bytes : Nat} (h : Later ok s₀ s) :
    Later ok s₀ (countSeries bytes s) := by
  unfold countSeries
  try dsimp only
  repeat' first
    | with_reducible first | assumption | apply later_onUpl
    | exact fun x => ⟨x.accounts, x.byp, x.stride⟩

theorem later_enqueue {cls : Nat} {ps : List Packet} {o : Out} (h : Later ok s₀ s) :
    Later ok s₀ (enqueue cls ps o s) := by
  unfold enqueue
  try dsimp only
  repeat' first
    | with_reducible first | assumption | apply later_onUpl
    | exact fun x => ⟨x.accounts, x.byp, x.stride⟩

theorem later_enqueueSeries {src : Nat} {dst : Nat} {rtag : Nat} {rseq : Nat} {rlen : Nat} {bs : List Block} {o : Out} (h : Later ok s₀ s) :
    Later ok s₀ (enqueueSeries src dst rtag rseq rlen bs o s) := by
  unfold enqueueSeries
  try dsimp only
  repeat' first
    | with_reducible first | assumption | apply later_countSeries | apply later_enqueue

theorem later_sendHist {r : Role} {h0 : HistRecord} (h : Later ok s₀ s) :
    Later ok s₀ (sendHist r h0 s) := by
  unfold sendHist
  try dsimp only
  repeat' first
    | with_reducible first | assumption | apply later_arcIngest | apply later_forEach | apply later_enqueueSeries
    | split
    | intro _

theorem later_giveVerdict {o : Occurrence} {r : CohortRule} (h : Later ok s₀ s) :
    Later ok s₀ (giveVerdict o r s) := by
  unfold giveVerdict
  try dsimp only
  repeat' first
    | with_reducible first | assumption | apply later_onOcc | apply later_onConf | apply later_judgeTray
    | with_reducible first | apply later_judgeMembers
    | split

theorem later_giveVerdicts {n : Nat} (h : Later ok s₀ s) : Later ok s₀ (giveVerdicts n s) := by
  induction n generalizing s with
  | zero => exact h
  | succ n ih =>
    unfold giveVerdicts
    split
    · exact h
    · exact ih (later_giveVerdict h)

theorem later_settleVerdicts (h : Later ok s₀ s) :
    Later ok s₀ (settleVerdicts s) := by
  unfold settleVerdicts
  try dsimp only
  repeat' first
    | with_reducible first | assumption | apply later_giveVerdicts | apply later_onConf

theorem later_closeAtPlaza {o : Occurrence} {r : Role} (h : Later ok s₀ s) :
    Later ok s₀ (closeAtPlaza o r s) := by
  unfold closeAtPlaza
  try dsimp only
  repeat' first
    | with_reducible first | assumption | apply later_shutOcc | apply later_keepHist | apply later_settleVerdicts
    | with_reducible first | apply later_when | apply later_sendHist | apply later_onOcc
    | split
    | intro _

theorem later_noticeOf {o : Occurrence} {r : CohortRule} {source : Nat} (h : Later ok s₀ s) :
    Later ok s₀ (noticeOf o r source s).2 := by
  unfold noticeOf
  try dsimp only
  repeat' first
    | with_reducible first | assumption | apply later_draw
    | split

theorem later_sendNotice {r : Role} {n : ThresholdNotice} (h : Later ok s₀ s) :
    Later ok s₀ (sendNotice r n s) := by
  unfold sendNotice
  try dsimp only
  repeat' first
    | with_reducible first | assumption | apply later_forEach | apply later_sendControl | apply later_arcIngest
    | split
    | intro _

theorem later_closeAtTier {o0 : Occurrence} {r : Role} (h : Later ok s₀ s) :
    Later ok s₀ (closeAtTier o0 r s) := by
  unfold closeAtTier
  try dsimp only
  repeat' first
    | with_reducible first | assumption | apply later_onConf | apply later_shutOcc | apply later_keepHist
    | with_reducible first | apply later_forEach | apply later_noticeOf | apply later_sendNotice
    | split
    | intro _

theorem later_closeOcc {o : Occurrence} (h : Later ok s₀ s) :
    Later ok s₀ (closeOcc o s) := by
  unfold closeOcc
  try dsimp only
  repeat' first
    | with_reducible first | assumption | apply later_closeAtPlaza | apply later_closeAtTier
    | split

theorem later_closeComplete {k : RoleKind} {n : Nat} (h : Later ok s₀ s) : Later ok s₀ (closeComplete k n s) := by
  induction n generalizing s with
  | zero => exact h
  | succ n ih =>
    unfold closeComplete
    dsimp only
    split
    · exact h
    · exact ih (later_closeOcc h)

theorem later_plazaLate {rec_ : SeriesRecord} {e : LateEntry} (h : Later ok s₀ s) :
    Later ok s₀ (plazaLate rec_ e s) := by
  unfold plazaLate
  try dsimp only
  repeat' first
    | with_reducible first | assumption | apply later_openOcc | apply later_onOcc
    | split

theorem later_absentAt {req : Nat} {d : Nat} (h : Later ok s₀ s) :
    Later ok s₀ (absentAt req d s) := by
  unfold absentAt
  try dsimp only
  repeat' first
    | with_reducible first | assumption | apply later_onPwr
    | split

theorem later_toEngine {req : Nat} {d : Nat} {f : State → State} (h : Later ok s₀ s) (hf : ∀ s, Later ok s₀ s → Later ok s₀ (f s)) :
    Later ok s₀ (toEngine req d f s) := by
  unfold toEngine
  try dsimp only
  repeat' first
    | with_reducible first | assumption | apply later_absentAt | apply hf
    | split

theorem later_fixVectors {t : Nat} {die : Nat} {frame : Nat} (h : Later ok s₀ s) :
    Later ok s₀ (fixVectors t die frame s) := by
  unfold fixVectors
  try dsimp only
  repeat' first
    | with_reducible first | assumption | apply later_onTree

theorem later_raiseCodes {die : Nat} {f : Fed} (h : Later ok s₀ s) :
    Later ok s₀ (raiseCodes die f s) := by
  unfold raiseCodes
  try dsimp only
  repeat' first
    | with_reducible first | assumption | apply later_forEach | apply later_raise
    | split
    | intro _

theorem later_feedTemplate {die : Nat} {frame : Nat} {period : Nat} {quality : BitVec 8} {x : SeriesIn} {e : Nat × Series} (h : Later ok s₀ s) :
    Later ok s₀ (feedTemplate die frame period quality x e s) := by
  unfold feedTemplate
  try dsimp only
  repeat' first
    | with_reducible first | assumption | apply later_fixVectors | apply later_onConf | apply later_raiseCodes
    | with_reducible first | apply later_when | apply later_forEach
    | split
    | intro _

theorem later_feedTemplates {die : Nat} {frame : Nat} {period : Nat} {quality : BitVec 8} {lateness : Bool} {x : SeriesIn} (h : Later ok s₀ s) :
    Later ok s₀ (feedTemplates die frame period quality lateness x s) := by
  unfold feedTemplates
  try dsimp only
  repeat' first
    | with_reducible first | assumption | apply later_toEngine | apply later_forEach | apply later_when
    | with_reducible first | apply later_feedTemplate
    | split
    | intro _

theorem later_plazaSeries {rec0 : SeriesRecord} {missing : List Nat} {c : Child} (h : Later ok s₀ s) :
    Later ok s₀ (plazaSeries rec0 missing c s) := by
  unfold plazaSeries
  try dsimp only
  repeat' first
    | with_reducible first | assumption | apply later_onConf | apply later_feedTemplates | apply later_toEngine
    | with_reducible first | apply later_when | apply later_forEach | apply later_plazaLate
    | with_reducible first | apply later_closeComplete
    | split
    | intro _

theorem later_noteMembers {hr : HistRecord} (h : Later ok s₀ s) :
    Later ok s₀ (noteMembers hr s) := by
  unfold noteMembers
  try dsimp only
  repeat' first
    | with_reducible first | assumption | apply later_onConf

theorem later_takeHist {k : RoleKind} {hr : HistRecord} {r : Role} (h : Later ok s₀ s) :
    Later ok s₀ (takeHist k hr r s) := by
  unfold takeHist
  try dsimp only
  repeat' first
    | with_reducible first | assumption | apply later_noteMembers | apply later_when | apply later_sendHist
    | with_reducible first | apply later_openOcc | apply later_draw | apply later_closeComplete | apply later_onOcc
    | split
    | intro _

theorem later_applyNotice {n : ThresholdNotice} (h : Later ok s₀ s) :
    Later ok s₀ (applyNotice n s) := by
  unfold applyNotice
  try dsimp only
  repeat' first
    | with_reducible first | assumption | apply later_when | apply later_raise | apply later_settleVerdicts
    | with_reducible first | apply later_onOcc
    | split
    | intro _

theorem later_endNoticeHold {o : Occurrence} (h : Later ok s₀ s) :
    Later ok s₀ (endNoticeHold o s) := by
  unfold endNoticeHold
  try dsimp only
  repeat' first
    | with_reducible first | assumption | apply later_forEach | apply later_giveVerdict | apply later_settleVerdicts
    | with_reducible first | apply later_onConf
    | split
    | intro _

theorem later_seriesDefine {r : Req} {d0 : SeriesDesc} (h : Later ok s₀ s) :
    LaterReply ok s₀ (seriesDefine r d0 s) := by
  unfold seriesDefine
  try dsimp only
  repeat' first
    | with_reducible first | assumption | apply later_deny | apply later_done | apply later_onConf
    | split

theorem later_execSeriesDefine {r : Req} {d : SeriesDesc} (h : Later ok s₀ s) :
    LaterOut ok s₀ (execSeriesDefine r d s) := by
  unfold execSeriesDefine
  try dsimp only
  repeat' first
    | with_reducible first | assumption | apply later_run | apply later_serve | apply later_engineServed
    | with_reducible first | apply later_seriesDefine
    | split
    | intro _

theorem later_execSeriesRead {r : Req} {index : Nat} {die : Nat} {desc : Desc} (h : Later ok s₀ s) :
    LaterOut ok s₀ (execSeriesRead r index die desc s) := by
  unfold execSeriesRead
  try dsimp only
  repeat' first
    | with_reducible first | assumption | apply later_run | apply later_serve | apply later_engineServed
    | with_reducible first | apply later_deny | apply later_outputReply
    | split
    | intro _

theorem later_execHistRead {r : Req} {desc : Desc} {job : Nat} {marker : Nat} {key : Nat} {lateness : Bool} {scope : Nat} (h : Later ok s₀ s) :
    LaterOut ok s₀ (execHistRead r desc job marker key lateness scope s) := by
  unfold execHistRead
  try dsimp only
  repeat' first
    | with_reducible first | assumption | apply later_run | apply later_serve | apply later_engineServed
    | with_reducible first | apply later_deny | apply later_outputReply
    | split
    | intro _

theorem later_execConfCalLoad {r : Req} {desc : Desc} {image : CalImage} (h : Later ok s₀ s) :
    LaterOut ok s₀ (execConfCalLoad r desc image s) := by
  unfold execConfCalLoad
  try dsimp only
  repeat' first
    | with_reducible first | assumption | apply later_run | apply later_serve | apply later_engineServed
    | with_reducible first | apply later_deny | apply later_loadCalendar | apply later_complete
    | split
    | intro _
    | dsimp only
    | refine And.intro ?_ ?_

theorem later_noteJob {job : Nat} (h : Later ok s₀ s) :
    Later ok s₀ (noteJob job s) := by
  unfold noteJob
  try dsimp only
  repeat' first
    | with_reducible first | assumption | apply later_onConf

theorem later_calArm {r : Req} {anchor : Nat} {job : Nat} (h : Later ok s₀ s) :
    LaterReply ok s₀ (calArm r anchor job s) := by
  unfold calArm
  try dsimp only
  repeat' first
    | with_reducible first | assumption | apply later_when | apply later_noteJob | apply later_deny | apply later_done
    | with_reducible first | apply later_onConf
    | split
    | intro _

theorem later_execConfCalArm {r : Req} {anchor : Nat} {job : Nat} (h : Later ok s₀ s) :
    LaterOut ok s₀ (execConfCalArm r anchor job s) := by
  unfold execConfCalArm
  try dsimp only
  repeat' first
    | with_reducible first | assumption | apply later_run | apply later_serve | apply later_engineServed
    | with_reducible first | apply later_calArm | apply later_when | apply later_noteJob
    | split
    | intro _

theorem later_execConfCohortSet {r : Req} {rule : CohortRule} {remove : Bool} (h : Later ok s₀ s) :
    LaterOut ok s₀ (execConfCohortSet r rule remove s) := by
  unfold execConfCohortSet
  try dsimp only
  repeat' first
    | with_reducible first | assumption | apply later_run | apply later_serve | apply later_engineServed
    | with_reducible first | apply later_deny | apply later_done | apply later_onConf
    | split
    | intro _

theorem later_execConfStatus {r : Req} {desc : Desc} {job : Nat} (h : Later ok s₀ s) :
    LaterOut ok s₀ (execConfStatus r desc job s) := by
  unfold execConfStatus
  try dsimp only
  repeat' first
    | with_reducible first | assumption | apply later_run | apply later_serve | apply later_engineServed
    | with_reducible first | apply later_deny | apply later_outputReply
    | split
    | intro _

theorem later_execSeriesQuotaSet {r : Req} {partition : Nat} {quota : Nat} (h : Later ok s₀ s) :
    LaterOut ok s₀ (execSeriesQuotaSet r partition quota s) := by
  unfold execSeriesQuotaSet
  try dsimp only
  repeat' first
    | with_reducible first | assumption | apply later_run | apply later_serve | apply later_engineServed
    | with_reducible first | apply later_done | apply later_onConf
    | split
    | intro _

theorem later_execMarkerStrobe {mid : Nat} (h : Later ok s₀ s) :
    LaterOut ok s₀ (execMarkerStrobe mid s) := by
  unfold execMarkerStrobe
  try dsimp only
  repeat' first
    | with_reducible first | assumption | apply later_run | apply later_when | apply later_onConf
    | split
    | intro _

theorem later_execStrobeMatch (h : Later ok s₀ s) :
    LaterOut ok s₀ (execStrobeMatch s) := by
  unfold execStrobeMatch
  try dsimp only
  repeat' first
    | with_reducible first | assumption | apply later_run | apply later_when | apply later_matchStrobe
    | with_reducible first | apply later_activateDue | apply later_onConf
    | split
    | intro _

theorem later_execMarkerDeadline {mid : Nat} (h : Later ok s₀ s) :
    LaterOut ok s₀ (execMarkerDeadline mid s) := by
  unfold execMarkerDeadline
  try dsimp only
  repeat' first
    | with_reducible first | assumption | apply later_run | apply later_when | apply later_passDeadline
    | split
    | intro _

theorem later_execCalendarAnchor (h : Later ok s₀ s) :
    LaterOut ok s₀ (execCalendarAnchor s) := by
  unfold execCalendarAnchor
  try dsimp only
  repeat' first
    | with_reducible first | assumption | apply later_run | apply later_when | apply later_activateCalendar
    | split
    | intro _

theorem later_loseRecord {rec_ : SeriesRecord} (h : Later ok s₀ s) :
    Later ok s₀ (loseRecord rec_ s) := by
  unfold loseRecord
  try dsimp only
  repeat' first
    | with_reducible first | assumption | apply later_onConf

theorem later_execSeriesRecord {role : RoleKind} {rec_ : SeriesRecord} {missing : List Nat} (h : Later ok s₀ s) :
    LaterOut ok s₀ (execSeriesRecord role rec_ missing s) := by
  unfold execSeriesRecord
  try dsimp only
  repeat' first
    | with_reducible first | assumption | apply later_run | apply later_when | apply later_arcIngest
    | with_reducible first | apply later_loseRecord | apply later_plazaSeries
    | split
    | intro _

theorem later_execHistogramRecord {role : RoleKind} {hr : HistRecord} (h : Later ok s₀ s) :
    LaterOut ok s₀ (execHistogramRecord role hr s) := by
  unfold execHistogramRecord
  try dsimp only
  repeat' first
    | with_reducible first | assumption | apply later_run | apply later_when | apply later_arcIngest
    | with_reducible first | apply later_toEngine | apply later_takeHist
    | split
    | intro _

theorem later_execOccurrenceCloseTimeout {role : RoleKind} {job : Nat} {marker : Nat} {occ : Nat} (h : Later ok s₀ s) :
    LaterOut ok s₀ (execOccurrenceCloseTimeout role job marker occ s) := by
  unfold execOccurrenceCloseTimeout
  try dsimp only
  repeat' first
    | with_reducible first | assumption | apply later_run | apply later_when | apply later_closeOcc
    | with_reducible first | apply later_untilFt
    | split
    | intro _

theorem later_execThresholdNotice {n : ThresholdNotice} (h : Later ok s₀ s) :
    LaterOut ok s₀ (execThresholdNotice n s) := by
  unfold execThresholdNotice
  try dsimp only
  repeat' first
    | with_reducible first | assumption | apply later_run | apply later_when | apply later_arcIngest
    | with_reducible first | apply later_forEach | apply later_sendControl | apply later_toEngine
    | with_reducible first | apply later_applyNotice
    | split
    | intro _

theorem later_execThresholdHoldExpiry {job : Nat} {marker : Nat} {occ : Nat} (h : Later ok s₀ s) :
    LaterOut ok s₀ (execThresholdHoldExpiry job marker occ s) := by
  unfold execThresholdHoldExpiry
  try dsimp only
  repeat' first
    | with_reducible first | assumption | apply later_run | apply later_endNoticeHold | apply later_untilTimer
    | split
    | intro _

theorem later_addChange {frame : Nat} {ch : SamplerChange} (h : Later ok s₀ s) :
    Later ok s₀ (addChange frame ch s) := by
  unfold addChange
  try dsimp only
  repeat' first
    | with_reducible first | assumption | apply later_onSmp

theorem later_changeAt {frame : Nat} {ch : SamplerChange} (h : Later ok s₀ s) :
    LaterReply ok s₀ (changeAt frame ch s) := by
  unfold changeAt
  try dsimp only
  repeat' first
    | with_reducible first | assumption | apply later_done | apply later_addChange

theorem later_execLineSet {r : Req} {line : Nat} {config : Word16} (h : Later ok s₀ s) :
    LaterOut ok s₀ (execLineSet r line config s) := by
  unfold execLineSet
  try dsimp only
  repeat' first
    | with_reducible first | assumption | apply later_run | apply later_serve | apply later_engineServed
    | with_reducible first | apply later_deny | apply later_changeAt
    | split
    | intro _

theorem later_execCounterBind {r : Req} {counter : Nat} {binding : Word32} (h : Later ok s₀ s) :
    LaterOut ok s₀ (execCounterBind r counter binding s) := by
  unfold execCounterBind
  try dsimp only
  repeat' first
    | with_reducible first | assumption | apply later_run | apply later_serve | apply later_engineServed
    | with_reducible first | apply later_deny | apply later_changeAt
    | split
    | intro _

theorem later_execCounterUnbind {r : Req} {counter : Nat} (h : Later ok s₀ s) :
    LaterOut ok s₀ (execCounterUnbind r counter s) := by
  unfold execCounterUnbind
  try dsimp only
  repeat' first
    | with_reducible first | assumption | apply later_run | apply later_serve | apply later_engineServed
    | with_reducible first | apply later_deny | apply later_changeAt
    | split
    | intro _

theorem later_execCounterPrescaleSet {r : Req} {counter : Nat} {prescale : Nat} (h : Later ok s₀ s) :
    LaterOut ok s₀ (execCounterPrescaleSet r counter prescale s) := by
  unfold execCounterPrescaleSet
  try dsimp only
  repeat' first
    | with_reducible first | assumption | apply later_run | apply later_serve | apply later_engineServed
    | with_reducible first | apply later_deny | apply later_changeAt
    | split
    | intro _

theorem later_execCounterRead {r : Req} {first : Nat} {count : Nat} (h : Later ok s₀ s) :
    LaterOut ok s₀ (execCounterRead r first count s) := by
  unfold execCounterRead
  try dsimp only
  repeat' first
    | with_reducible first | assumption | apply later_run | apply later_serve | apply later_engineServed
    | with_reducible first | apply later_deny | apply later_done
    | split
    | intro _

theorem later_countChip (h : Later ok s₀ s) :
    Later ok s₀ (countChip s) := by
  unfold countChip
  try dsimp only
  repeat' first
    | with_reducible first | assumption | apply later_draw | apply later_onStw
    | exact fun x => x

theorem later_plazaCounterStatus {i : Issuer} (h : Later ok s₀ s) :
    LaterReply ok s₀ (plazaCounterStatus i s) := by
  unfold plazaCounterStatus
  try dsimp only
  repeat' first
    | with_reducible first | assumption | apply later_countChip | apply later_draw | apply later_done
    | split

theorem later_execCounterStatus {r : Req} (h : Later ok s₀ s) :
    LaterOut ok s₀ (execCounterStatus r s) := by
  unfold execCounterStatus
  try dsimp only
  repeat' first
    | with_reducible first | assumption | apply later_run | apply later_serve | apply later_plazaCounterStatus
    | with_reducible first | apply later_engineServed | apply later_done
    | split
    | intro _

theorem later_execGaugeSet {r : Req} {gauge : Nat} {config : Word16} (h : Later ok s₀ s) :
    LaterOut ok s₀ (execGaugeSet r gauge config s) := by
  unfold execGaugeSet
  try dsimp only
  repeat' first
    | with_reducible first | assumption | apply later_run | apply later_serve | apply later_engineServed
    | with_reducible first | apply later_changeAt
    | split
    | intro _

theorem later_onCmp {k : Nat} {f : Cmp → Cmp} (h : Later ok s₀ s) :
    Later ok s₀ (onCmp k f s) := by
  unfold onCmp
  try dsimp only
  repeat' first
    | with_reducible first | assumption | apply later_onSmp

theorem later_execWatermarkSet {r : Req} {comparator : Nat} {cflags : BitVec 8} {counter : Nat} {threshold : Nat} {hyst : Nat} (h : Later ok s₀ s) :
    LaterOut ok s₀ (execWatermarkSet r comparator cflags counter threshold hyst s) := by
  unfold execWatermarkSet
  try dsimp only
  repeat' first
    | with_reducible first | assumption | apply later_run | apply later_serve | apply later_engineServed
    | with_reducible first | apply later_deny | apply later_done | apply later_onCmp
    | split
    | intro _

theorem later_execWatermarkRead {r : Req} {comparator : Nat} (h : Later ok s₀ s) :
    LaterOut ok s₀ (execWatermarkRead r comparator s) := by
  unfold execWatermarkRead
  try dsimp only
  repeat' first
    | with_reducible first | assumption | apply later_run | apply later_serve | apply later_engineServed
    | with_reducible first | apply later_deny | apply later_done | apply later_onCmp
    | split
    | intro _

theorem later_execGaugeRead {r : Req} {gauge : Nat} (h : Later ok s₀ s) :
    LaterOut ok s₀ (execGaugeRead r gauge s) := by
  unfold execGaugeRead
  try dsimp only
  repeat' first
    | with_reducible first | assumption | apply later_run | apply later_serve | apply later_engineServed
    | with_reducible first | apply later_deny | apply later_done
    | split
    | intro _

theorem later_execSnapshotSet {r : Req} {desc : Desc} {stride : Nat} (h : Later ok s₀ s) :
    LaterOut ok s₀ (execSnapshotSet r desc stride s) := by
  unfold execSnapshotSet
  try dsimp only
  repeat' first
    | with_reducible first | assumption | apply later_run | apply later_serve | apply later_engineServed
    | with_reducible first | apply later_changeAt | apply later_deny
    | split
    | intro _

theorem later_setSnapshot {p : Nat} {desc : Option Desc} {stride : Nat} (h : Later ok s₀ s) :
    Later ok s₀ (setSnapshot p desc stride s) := by
  unfold setSnapshot
  try dsimp only
  repeat' first
    | with_reducible first | assumption | apply later_chainWithdraw | apply later_onSmp | apply later_chainOpen
    | split

theorem later_orphanWork {i : Issuer} (h : Later ok s₀ s) :
    Later ok s₀ (orphanWork i s) := by
  unfold orphanWork
  try dsimp only
  repeat' first
    | with_reducible first | assumption
    | exact h.same _ ⟨rfl, rfl, rfl, rfl, rfl, rfl, rfl, rfl, rfl, rfl, rfl, rfl, rfl⟩

theorem later_closeSlot {k : Nat} {reason : Option Nat} (h : Later ok s₀ s) : Later ok s₀ (closeSlot k reason s) := by
  unfold closeSlot
  dsimp only
  split
  · exact h
  · refine Later.withStw ?_ _ fun x => x
    split
    · exact later_ringPost (later_orphanWork h)
    · exact later_orphanWork h

theorem later_finishRelease {p : Nat} (h : Later ok s₀ s) :
    Later ok s₀ (finishRelease p s) := by
  unfold finishRelease
  try dsimp only
  repeat' first
    | with_reducible first | assumption | apply later_setSnapshot | apply later_forEach | apply later_onCmp
    | with_reducible first | apply later_onStw | apply later_closeSlot | apply later_complete
    | exact fun x => x
    | split
    | intro _

theorem later_releaseChanges {p : Nat} {frame : Nat} (h : Later ok s₀ s) :
    Later ok s₀ (releaseChanges p frame s) := by
  unfold releaseChanges
  try dsimp only
  repeat' first
    | with_reducible first | assumption | apply later_forEach | apply later_addChange
    | split
    | intro _

theorem later_execPartitionRelease {r : Req} {partition : Nat} (h : Later ok s₀ s) :
    LaterOut ok s₀ (execPartitionRelease r partition s) := by
  unfold execPartitionRelease
  try dsimp only
  repeat' first
    | with_reducible first | assumption | apply later_run | apply later_serve | apply later_finishRelease
    | with_reducible first | apply later_later | apply later_onStw | apply later_releaseChanges
    | exact fun x => x
    | split
    | intro _
    | dsimp only
    | refine And.intro ?_ ?_

theorem later_settleGroup {g : Nat} (h : Later ok s₀ s) :
    Later ok s₀ (settleGroup g s) := by
  unfold settleGroup
  try dsimp only
  repeat' first
    | with_reducible first | assumption | apply later_onPwr
    | split

theorem later_groupRuns {g : Nat} (h : Later ok s₀ s) :
    Later ok s₀ (groupRuns g s) := by
  unfold groupRuns
  try dsimp only
  repeat' first
    | with_reducible first | assumption | apply later_settleGroup | apply later_onPwr

theorem later_execCrossingClockStart {group : Nat} (h : Later ok s₀ s) :
    LaterOut ok s₀ (execCrossingClockStart group s) := by
  unfold execCrossingClockStart
  try dsimp only
  repeat' first
    | with_reducible first | assumption | apply later_run | apply later_when | apply later_groupRuns
    | split
    | intro _

theorem later_bumpCseq {cls : Nat} {src : Nat} {dst : Nat} (h : Later ok s₀ s) :
    Later ok s₀ (bumpCseq cls src dst s) := by
  unfold bumpCseq
  try dsimp only
  repeat' first
    | with_reducible first | assumption | apply later_onUpl
    | exact fun x => ⟨x.accounts, x.byp, x.stride⟩

theorem later_inject {p : Packet} {port : Nat} (h : Later ok s₀ s) :
    Later ok s₀ (inject p port s) := by
  unfold inject
  try dsimp only
  repeat' first
    | with_reducible first | assumption | apply later_bumpCseq | apply later_when | apply later_onUpl
    | with_reducible first | apply later_onPlace | apply later_emit
    | exact fun x => ⟨x.accounts, x.byp, x.stride⟩
    | split
    | intro _

theorem later_onGate {f : Gate → Gate} (h : Later ok s₀ s) :
    Later ok s₀ (onGate f s) := by
  unfold onGate
  try dsimp only
  repeat' first
    | with_reducible first | assumption | apply later_onUpl
    | exact fun x => ⟨x.accounts, x.byp, x.stride⟩

theorem uplSound_onClass {u : Uplink} {cls : Nat} {f : UplClass → UplClass} (x : UplSound u)
    (hf : ∀ c, ClassOk c → ClassOk (f c))
    (hl : ∀ c, ClassOk c → (cls = 1 → (f c).sent + c.charged = (f c).charged + c.sent)
      ∧ ((cls = 3 ∨ cls = 4) → (f c).lent = c.lent)) :
    UplSound { u with classes := tmod UplClass.zero cls f u.classes } := by
  refine ⟨⟨tabWf_tmod x.accounts.wf, fun k => ?_, ?_⟩, x.byp, x.stride⟩
  · by_cases hk : k = cls
    · subst hk
      dsimp only
      rw [tget_tmod_self x.accounts.wf]
      exact hf _ (x.accounts.classes _)
    · dsimp only
      rw [tget_tmod_other hk]
      exact x.accounts.classes _
  · have l := x.accounts.ledger
    have e := hl _ (x.accounts.classes cls)
    have g : ∀ k, tget UplClass.zero k (tmod UplClass.zero cls f u.classes)
        = if k = cls then f (tget UplClass.zero cls u.classes) else tget UplClass.zero k u.classes := by
      intro k
      split
      · rename_i hk; subst hk; exact tget_tmod_self x.accounts.wf
      · rename_i hk; exact tget_tmod_other hk
    dsimp only
    rw [g, g, g]
    by_cases h1 : cls = 1
    · subst h1
      have := e.1 rfl
      simp only [if_true, if_neg (show ¬ (3 = 1) by omega), if_neg (show ¬ (4 = 1) by omega)] at *
      omega
    · by_cases h3 : cls = 3
      · subst h3
        have := e.2 (.inl rfl)
        simp only [if_true, if_neg (show ¬ (1 = 3) by omega), if_neg (show ¬ (4 = 3) by omega)] at *
        omega
      · by_cases h4 : cls = 4
        · subst h4
          have := e.2 (.inr rfl)
          simp only [if_true, if_neg (show ¬ (1 = 4) by omega), if_neg (show ¬ (3 = 4) by omega)] at *
          omega
        · rw [if_neg (Ne.symm h1), if_neg (Ne.symm h3), if_neg (Ne.symm h4)]
          exact l

theorem later_onClass {cls : Nat} {f : UplClass → UplClass} (h : Later ok s₀ s) (hf : ∀ c, ClassOk c → ClassOk (f c))
    (hl : ∀ c, ClassOk c → (cls = 1 → (f c).sent + c.charged = (f c).charged + c.sent)
      ∧ ((cls = 3 ∨ cls = 4) → (f c).lent = c.lent)) : Later ok s₀ (onClass cls f s) :=
  later_onUpl h fun x => uplSound_onClass x hf hl

/-- A class that the Roundabout chooses has a head that its deficit and its credit cover. -/
def Chosen (c : Nat) (s : State) : Prop :=
  ∃ p, headOf c s = some p ∧ p.bytes ≤ (classOf c s).deficit ∧ p.bytes ≤ creditOf c s

theorem fits_chosen {c : Nat} {s : State} (he : eligible c s = true) (hf : fits c s = true) : Chosen c s := by
  unfold eligible at he
  unfold fits at hf
  split at he
  · cases he
  · rename_i p hp
    rw [hp] at hf
    exact ⟨p, hp, by simpa using hf, by simpa using he⟩

theorem roundabout_chosen {n c : Nat} {s t : State} (e : roundabout n s = (some c, t)) : Chosen c t := by
  induction n generalizing s with
  | zero => unfold roundabout at e; cases e
  | succ n ih =>
    unfold roundabout at e
    dsimp only at e
    split at e
    · cases e
    · split at e
      · rename_i hc
        injection e with e1 e2
        injection e1 with e1
        subst e1; subst e2
        simp only [Bool.and_eq_true] at hc
        obtain ⟨⟨-, he⟩, hf⟩ := hc
        exact fits_chosen he hf
      · exact ih e

theorem later_roundabout {n : Nat} (h : Later ok s₀ s) : Later ok s₀ (roundabout n s).2 := by
  induction n generalizing s with
  | zero => exact h
  | succ n ih =>
    unfold roundabout
    dsimp only
    split
    · exact h
    · rename_i g _
      have k : Later ok s₀ (when (!g.visiting && eligible g.cls s)
          (fun s => onGate (fun g => { g with visiting := true })
            (onClass g.cls (fun a => { a with deficit := a.deficit + a.quantum, quanta := a.quanta + a.quantum }) s)) s) :=
        later_when h fun s h => later_onGate (later_onClass h
          (fun c x => ⟨x.credit, by have := x.deficit; dsimp only; omega, x.factor⟩)
          (fun c _ => ⟨fun _ => Nat.add_comm _ _, fun _ => rfl⟩))
      split
      · exact k
      · exact ih (later_onGate k)

theorem later_emitSome {o : Option Out} (h : Later ok s₀ s) :
    Later ok s₀ (emitSome o s) := by
  unfold emitSome
  try dsimp only
  repeat' first
    | with_reducible first | assumption | apply later_emit
    | split

theorem later_popHead {cls : Nat} (h : Later ok s₀ s) :
    Later ok s₀ (popHead cls s) := by
  unfold popHead
  try dsimp only
  repeat' first
    | with_reducible first | assumption | apply later_onTrc | apply later_onUpl
    | exact fun x => ⟨x.accounts, x.byp, x.stride⟩
    | exact fun x => ⟨x.grants, x.fronts⟩
    | split

theorem emitSome_upl {o : Option Out} {s : State} : (emitSome o s).upl = s.upl := by
  unfold emitSome
  split <;> rfl

theorem inject_classes {p : Packet} {port : Nat} {s : State} : (inject p port s).upl.classes = s.upl.classes := by
  unfold inject when
  dsimp only
  split <;> rfl

theorem popHead_classes {c : Nat} {s : State} : (popHead c s).upl.classes = s.upl.classes := by
  unfold popHead
  split <;> rfl

/-- A class that pays its own bytes keeps Law C (R345, R348). -/
theorem accounts_charge {t : Tab UplClass} {c n : Nat} (x : AccountsOk t) (h1 : c ≠ 1)
    (hd : n ≤ (tget UplClass.zero c t).deficit) (hc : n ≤ (tget UplClass.zero c t).credit)
    (f : UplClass → UplClass) (hf : f = fun a =>
      { a with deficit := a.deficit - n, sent := a.sent + n, credit := a.credit - n, charged := a.charged + n }) :
    AccountsOk (tmod UplClass.zero c f t) := by
  have g := tget_tmod (f := f) x.wf c
  refine ⟨tabWf_tmod x.wf, fun k => ?_, ?_⟩
  · rw [g]
    split
    · have y := x.classes c
      rw [hf]
      exact ⟨by have := y.credit; dsimp only; omega, by have := y.deficit; dsimp only; omega, y.factor⟩
    · exact x.classes k
  · have h3 : (tget UplClass.zero 3 (tmod UplClass.zero c f t)).lent = (tget UplClass.zero 3 t).lent := by
      rw [g]; split
      · rename_i e; subst e; rw [hf]
      · rfl
    have h4 : (tget UplClass.zero 4 (tmod UplClass.zero c f t)).lent = (tget UplClass.zero 4 t).lent := by
      rw [g]; split
      · rename_i e; subst e; rw [hf]
      · rfl
    rw [h3, h4, g, if_neg (Ne.symm h1)]
    exact x.ledger

/-- Ledger's bytes, its own credit first and the rest lent by Trace and Dump, keep Law C (R345, R346, R348). -/
theorem accounts_ledger {t : Tab UplClass} {n p q r : Nat} (x : AccountsOk t) (hn : p + q + r = n)
    (hd : n ≤ (tget UplClass.zero 1 t).deficit) (hp : p ≤ (tget UplClass.zero 1 t).credit)
    (hq : q ≤ (tget UplClass.zero 3 t).credit) (hr : r ≤ (tget UplClass.zero 4 t).credit)
    (f1 f3 f4 : UplClass → UplClass)
    (e1 : f1 = fun a =>
      { a with deficit := a.deficit - n, sent := a.sent + n, credit := a.credit - p, charged := a.charged + p })
    (e3 : f3 = fun a => { a with credit := a.credit - q, lent := a.lent + q })
    (e4 : f4 = fun a => { a with credit := a.credit - r, lent := a.lent + r }) :
    AccountsOk (tmod UplClass.zero 4 f4 (tmod UplClass.zero 3 f3 (tmod UplClass.zero 1 f1 t))) := by
  have w1 : tabWf UplClass.zero (tmod UplClass.zero 1 f1 t) = true := tabWf_tmod x.wf
  have w3 : tabWf UplClass.zero (tmod UplClass.zero 3 f3 (tmod UplClass.zero 1 f1 t)) = true := tabWf_tmod w1
  have g := fun k => (tget_tmod (f := f4) w3 4 k)
  have g3 := fun k => (tget_tmod (f := f3) w1 3 k)
  have g1 := fun k => (tget_tmod (f := f1) x.wf 1 k)
  have y1 := x.classes 1
  have y3 := x.classes 3
  have y4 := x.classes 4
  have r1 : tget UplClass.zero 1 (tmod UplClass.zero 4 f4 (tmod UplClass.zero 3 f3 (tmod UplClass.zero 1 f1 t)))
      = f1 (tget UplClass.zero 1 t) := by
    rw [g, if_neg (by omega), g3, if_neg (by omega), g1, if_pos rfl]
  have r3 : tget UplClass.zero 3 (tmod UplClass.zero 4 f4 (tmod UplClass.zero 3 f3 (tmod UplClass.zero 1 f1 t)))
      = f3 (tget UplClass.zero 3 t) := by
    rw [g, if_neg (by omega), g3, if_pos rfl, g1, if_neg (by omega)]
  have r4 : tget UplClass.zero 4 (tmod UplClass.zero 4 f4 (tmod UplClass.zero 3 f3 (tmod UplClass.zero 1 f1 t)))
      = f4 (tget UplClass.zero 4 t) := by
    rw [g, if_pos rfl, g3, if_neg (by omega), g1, if_neg (by omega)]
  refine ⟨tabWf_tmod w3, fun k => ?_, ?_⟩
  · by_cases k1 : k = 1
    · subst k1
      rw [r1, e1]
      exact ⟨by have := y1.credit; dsimp only; omega, by have := y1.deficit; dsimp only; omega, y1.factor⟩
    · by_cases k3 : k = 3
      · subst k3
        rw [r3, e3]
        exact ⟨by have := y3.credit; dsimp only; omega, y3.deficit, y3.factor⟩
      · by_cases k4 : k = 4
        · subst k4
          rw [r4, e4]
          exact ⟨by have := y4.credit; dsimp only; omega, y4.deficit, y4.factor⟩
        · rw [g, if_neg k4, g3, if_neg k3, g1, if_neg k1]
          exact x.classes k
  · rw [r1, r3, r4, e1, e3, e4]
    have := x.ledger
    dsimp only
    omega

/-- Sending a head that its class's deficit and credit cover keeps Law C. -/
theorem later_charge {c n : Nat} (h : Later ok s₀ s) (hd : n ≤ (classOf c s).deficit) (hc : n ≤ creditOf c s) :
    Later ok s₀ (charge c n s) := by
  unfold charge
  dsimp only
  split
  · rename_i h1
    unfold creditOf at hc
    rw [if_neg h1] at hc
    rw [Nat.min_eq_left hc]
    exact later_onUpl h fun x => ⟨accounts_charge x.accounts h1 hd hc _ rfl, x.byp, x.stride⟩
  · rename_i h1
    have h1 : c = 1 := by omega
    subst h1
    unfold creditOf at hc
    rw [if_pos rfl] at hc
    refine h.withUpl _ fun x => ⟨?_, x.byp, x.stride⟩
    have e3 : ∀ f, (classOf 3 (onClass 1 f s)) = classOf 3 s := fun f => tget_tmod_other (by omega)
    rw [e3]
    refine accounts_ledger x.accounts (p := min n (classOf 1 s).credit)
      (q := min (n - min n (classOf 1 s).credit) (classOf 3 s).credit) ?_ hd (Nat.min_le_right _ _) (Nat.min_le_right _ _) ?_
      _ _ _ rfl rfl rfl
    · omega
    · change _ ≤ (classOf 4 s).credit
      omega

theorem later_sendHead {c port : Nat} (h : Later ok s₀ s) (hc : Chosen c s) : Later ok s₀ (sendHead c port s) := by
  obtain ⟨p, hp, hd, hr⟩ := hc
  unfold sendHead
  rw [hp]
  dsimp only
  have k : Later ok s₀ (emitSome (headCarries c s) (inject p port (popHead c s))) := later_emitSome (later_inject (later_popHead h))
  have e : (emitSome (headCarries c s) (inject p port (popHead c s))).upl.classes = s.upl.classes :=
    (congrArg Uplink.classes emitSome_upl).trans (inject_classes.trans popHead_classes)
  have k : Later ok s₀ (charge c p.bytes (emitSome (headCarries c s) (inject p port (popHead c s)))) := by
    refine later_charge k ?_ ?_
    · unfold classOf; rw [e]; exact hd
    · unfold creditOf classOf; rw [e]; exact hr
  split
  · exact k
  · exact later_onGate (later_onClass k (fun c x => ⟨x.credit, by have := x.deficit; dsimp only; omega, x.factor⟩)
      (fun c _ => ⟨fun _ => Nat.add_comm _ _, fun _ => rfl⟩))

theorem later_viaRoundabout {port : Nat} (h : Later ok s₀ s) : Later ok s₀ (viaRoundabout port s).2 := by
  unfold viaRoundabout
  have k := later_roundabout (n := 9) h
  split
  · rename_i c t e
    rw [e] at k
    exact later_sendHead k (roundabout_chosen e)
  · rename_i t e
    rw [e] at k
    exact k

theorem later_nextPacket {port : Nat} (h : Later ok s₀ s) :
    Later ok s₀ (nextPacket port s).2 := by
  unfold nextPacket
  try dsimp only
  repeat' first
    | with_reducible first | assumption | apply later_emit | apply later_inject | apply later_onUpl
    | with_reducible first | apply later_viaRoundabout | apply later_emitSome
    | exact fun x => ⟨x.accounts, x.byp, x.stride⟩
    | split

theorem later_discardPacket {port : Nat} (h : Later ok s₀ s) : Later ok s₀ (discardPacket port s) := by
  unfold discardPacket
  split
  · exact h
  · split
    · exact Later.same (later_nextPacket h) _ ⟨rfl, rfl, rfl, rfl, rfl, rfl, rfl, rfl, rfl, rfl, rfl, rfl, rfl⟩
    · exact h

theorem later_onConc {c : Nat} {f : Conc → Conc} (h : Later ok s₀ s) :
    Later ok s₀ (onConc c f s) := by
  unfold onConc
  try dsimp only
  repeat' first
    | with_reducible first | assumption | apply later_onSmp

theorem later_endRun {f : TestRun → State → State} {abort : Bool} (h : Later ok s₀ s)
    (hf : ∀ u s, Later ok s₀ s → Later ok s₀ (f u s)) : Later ok s₀ (endRun f abort s) := by
  unfold endRun
  split
  · exact h
  · exact hf _ _ (later_emit (later_onTest h))

theorem later_onPair {pkgId : Nat} {testId : Nat} {unit : Nat} {f : Pair → Pair} (h : Later ok s₀ s) :
    Later ok s₀ (onPair pkgId testId unit f s) := by
  unfold onPair
  try dsimp only
  repeat' first
    | with_reducible first | assumption | apply later_onTest

theorem later_wrapperError {u : TestRun} (h : Later ok s₀ s) :
    Later ok s₀ (wrapperError u s) := by
  unfold wrapperError
  try dsimp only
  repeat' first
    | with_reducible first | assumption | apply later_onTest | apply later_onPair | apply later_raise

theorem later_timeoutOutcome {u : GroupUse} (h : Later ok s₀ s) : Later ok s₀ (timeoutOutcome u s) := by
  unfold timeoutOutcome
  split
  · exact later_onConc h
  · exact later_discardPacket h
  · refine later_onUpl h fun x => ⟨x.accounts, ?_, x.stride⟩
    simp only [List.length_tail]
    exact (Nat.sub_le _ _).trans x.byp
  · split
    · exact h
    · rename_i op l e
      exact later_bufFailed (later_bufRetire h ⟨op, by simp [e], rfl⟩)
  · exact later_endRun h fun _ _ k => later_wrapperError k
  · split
    · exact later_portError h
    · exact later_opFailed h
  all_goals exact h

theorem later_execDravaTimeout {group : Nat} (h : Later ok s₀ s) :
    LaterOut ok s₀ (execDravaTimeout group s) := by
  unfold execDravaTimeout
  try dsimp only
  repeat' first
    | with_reducible first | assumption | apply later_run | apply later_onHrw | apply later_onPwr
    | with_reducible first | apply later_timeoutOutcome
    | split
    | intro _

theorem later_foldSeals (h : Later ok s₀ s) :
    Later ok s₀ (foldSeals s) := by
  unfold foldSeals
  try dsimp only
  repeat' first
    | with_reducible first | assumption | apply later_onSmp

theorem later_loseFrames {alsoClosed : Bool} (h : Later ok s₀ s) :
    Later ok s₀ (loseFrames alsoClosed s) := by
  unfold loseFrames
  try dsimp only
  repeat' first
    | with_reducible first | assumption | apply later_when | apply later_foldSeals | apply later_onGrid

theorem later_resetMerger (h : Later ok s₀ s) :
    Later ok s₀ (resetMerger s) := by
  unfold resetMerger
  try dsimp only
  repeat' first
    | with_reducible first | assumption
    | exact h.same _ ⟨rfl, rfl, rfl, rfl, rfl, rfl, rfl, rfl, rfl, rfl, rfl, rfl, rfl⟩

theorem later_resetDrift {quiesced : Bool} (h : Later ok s₀ s) :
    Later ok s₀ (resetDrift quiesced s) := by
  unfold resetDrift
  try dsimp only
  repeat' first
    | with_reducible first | assumption | apply later_draw | apply later_onConf
    | split

theorem later_sendScores {k : Option RoleKind} {es : List ScoreEntry} (h : Later ok s₀ s) :
    Later ok s₀ (sendScores k es s) := by
  unfold sendScores
  try dsimp only
  repeat' first
    | with_reducible first | assumption | apply later_onTree | apply later_when | apply later_arcIngest
    | with_reducible first | apply later_forEach | apply later_enqueueSeries
    | split
    | intro _

theorem later_keepScore {e : ScoreEntry} (h : Later ok s₀ s) :
    Later ok s₀ (keepScore e s) := by
  unfold keepScore
  try dsimp only
  repeat' first
    | with_reducible first | assumption | apply later_onTree
    | split

theorem later_finishScore {k : Option RoleKind} {e : ScoreEntry} (h : Later ok s₀ s) :
    Later ok s₀ (finishScore k e s) := by
  unfold finishScore
  try dsimp only
  repeat' first
    | with_reducible first | assumption | apply later_onTree | apply later_sendScores | apply later_keepScore

theorem later_failScore {k : Option RoleKind} {i : TreeImage} {die : Nat} {frame : Nat} {frameEnd : Nat} {flags : BitVec 16} (h : Later ok s₀ s) :
    Later ok s₀ (failScore k i die frame frameEnd flags s) := by
  unfold failScore
  try dsimp only
  repeat' first
    | with_reducible first | assumption | apply later_finishScore

theorem later_resetTree (h : Later ok s₀ s) :
    Later ok s₀ (resetTree s) := by
  unfold resetTree
  try dsimp only
  repeat' first
    | with_reducible first | assumption | apply later_onTree | apply later_forEach | apply later_when
    | with_reducible first | apply later_failScore
    | split
    | intro _

theorem later_resetDigest (h : Later ok s₀ s) :
    Later ok s₀ (resetDigest s) := by
  unfold resetDigest
  try dsimp only
  repeat' first
    | with_reducible first | assumption | apply later_onDig

theorem later_restartSources (h : Later ok s₀ s) :
    Later ok s₀ (restartSources s) := by
  unfold restartSources
  try dsimp only
  repeat' first
    | with_reducible first | assumption | apply later_onTrc
    | exact fun x => ⟨x.grants, x.fronts⟩

theorem later_resetTrace (h : Later ok s₀ s) :
    Later ok s₀ (resetTrace s) := by
  unfold resetTrace
  try dsimp only
  repeat' first
    | with_reducible first | assumption | apply later_restartSources | apply later_onTrc
    | exact fun x => ⟨x.grants, x.fronts⟩

theorem later_stopQueries {flag : Nat} {waiting : Bool} (h : Later ok s₀ s) :
    Later ok s₀ (stopQueries flag waiting s) := by
  unfold stopQueries
  try dsimp only
  repeat' first
    | with_reducible first | assumption | apply later_forEach | apply later_endQuery
    | split
    | intro _

theorem later_resetLogic {d : Nat} {quiesced : Bool} (h : Later ok s₀ s) :
    Later ok s₀ (resetLogic d quiesced s) := by
  unfold resetLogic
  try dsimp only
  repeat' first
    | with_reducible first | assumption | apply later_loseFrames | apply later_resetMerger | apply later_resetDrift
    | with_reducible first | apply later_resetTree | apply later_resetDigest | apply later_resetTrace
    | with_reducible first | apply later_stopQueries
    | split

theorem later_modRole {k : RoleKind} {f : Role → Role} (h : Later ok s₀ s) :
    Later ok s₀ (modRole k f s) := by
  unfold modRole
  try dsimp only
  repeat' first
    | with_reducible first | assumption
    | exact h.same _ ⟨rfl, rfl, rfl, rfl, rfl, rfl, rfl, rfl, rfl, rfl, rfl, rfl, rfl⟩

theorem later_onChild {k : RoleKind} {src : Nat} {f : Child → Child} (h : Later ok s₀ s) :
    Later ok s₀ (onChild k src f s) := by
  unfold onChild
  try dsimp only
  repeat' first
    | with_reducible first | assumption | apply later_modRole

theorem later_request {k : RoleKind} {src : Nat} {q : AckReq} (h : Later ok s₀ s) :
    Later ok s₀ (request k src q s) := by
  unfold request
  try dsimp only
  repeat' first
    | with_reducible first | assumption | apply later_onChild

theorem later_sendAck {k : RoleKind} {src : Nat} (h : Later ok s₀ s) :
    Later ok s₀ (sendAck k src s) := by
  unfold sendAck
  try dsimp only
  repeat' first
    | with_reducible first | assumption | apply later_sendControl | apply later_onChild
    | split

theorem later_rebuildFrames (h : Later ok s₀ s) :
    Later ok s₀ (rebuildFrames s) := by
  unfold rebuildFrames
  try dsimp only
  repeat' first
    | with_reducible first | assumption | apply later_forEach | apply later_request | apply later_when
    | with_reducible first | apply later_sendAck
    | split
    | intro _

theorem later_sbiAlert {r : Report} (h : Later ok s₀ s) : Later ok s₀ (sbiAlert r s) := by
  unfold sbiAlert
  split
  · rename_i hl
    refine later_raiseIbi (h.withSbi _ fun _ => ?_)
    simp only [List.length_append, List.length_cons, List.length_nil]
    omega
  · exact h.withSbi _ fun x => x

theorem later_raiseSbi {code : Nat} {subject : Nat} {detail : Nat} {ft : Nat} (h : Later ok s₀ s) :
    Later ok s₀ (raiseSbi code subject detail ft s) := by
  unfold raiseSbi
  try dsimp only
  repeat' first
    | with_reducible first | assumption | apply later_sbiAlert | apply later_raiseAt

theorem later_enterOrphan (h : Later ok s₀ s) :
    Later ok s₀ (enterOrphan s) := by
  unfold enterOrphan
  try dsimp only
  repeat' first
    | with_reducible first | assumption | apply later_raiseSbi | apply later_onPlace | apply later_onUpl
    | exact fun x => ⟨x.accounts, x.byp, x.stride⟩

theorem later_sendAdopt {dst : Nat} {msg : Nat} {m : AdoptMsg} (h : Later ok s₀ s) :
    Later ok s₀ (sendAdopt dst msg m s) := by
  unfold sendAdopt
  try dsimp only
  repeat' first
    | with_reducible first | assumption | apply later_onUpl
    | exact fun x => ⟨x.accounts, x.byp, x.stride⟩

theorem later_sendMsgAdopt {dst : Nat} {msg : Nat} {m : AdoptMsg} (h : Later ok s₀ s) :
    Later ok s₀ (sendMsgAdopt dst msg m s) := by
  unfold sendMsgAdopt
  try dsimp only
  repeat' first
    | with_reducible first | assumption | apply later_arcIngest | apply later_sendAdopt

theorem later_startTry {pos : Nat} {chip : Nat} (h : Later ok s₀ s) :
    Later ok s₀ (startTry pos chip s) := by
  unfold startTry
  try dsimp only
  repeat' first
    | with_reducible first | assumption | apply later_sendMsgAdopt | apply later_onPlace | apply later_onUpl
    | exact fun x => ⟨x.accounts, x.byp, x.stride⟩

theorem later_tryAt {pos : Nat} (h : Later ok s₀ s) :
    Later ok s₀ (tryAt pos s) := by
  unfold tryAt
  try dsimp only
  repeat' first
    | with_reducible first | assumption | apply later_enterOrphan | apply later_startTry
    | split

theorem later_nextTry (h : Later ok s₀ s) :
    Later ok s₀ (nextTry s) := by
  unfold nextTry
  try dsimp only
  repeat' first
    | with_reducible first | assumption | apply later_tryAt

theorem later_afterRelease {d : Nat} (h : Later ok s₀ s) :
    Later ok s₀ (afterRelease d s) := by
  unfold afterRelease
  try dsimp only
  repeat' first
    | with_reducible first | assumption | apply later_rebuildFrames | apply later_when | apply later_nextTry
    | split

theorem later_holdEngines {hold : Bool} (h : Later ok s₀ s) :
    Later ok s₀ (holdEngines hold s) := by
  unfold holdEngines
  try dsimp only
  repeat' first
    | with_reducible first | assumption | apply later_onJtag | apply later_forEach | apply later_resetLogic
    | with_reducible first | apply later_loseFrames | apply later_afterRelease
    | split
    | intro _

theorem later_selectJtag {ir : Nat} {hold : Bool} (h : Later ok s₀ s) :
    Later ok s₀ (selectJtag ir hold s) := by
  unfold selectJtag
  try dsimp only
  repeat' first
    | with_reducible first | assumption | apply later_when | apply later_holdEngines | apply later_onJtag
    | split
    | intro _

theorem later_execExtest (h : Later ok s₀ s) :
    LaterOut ok s₀ (execExtest s) := by
  unfold execExtest
  try dsimp only
  repeat' first
    | with_reducible first | assumption | apply later_run | apply later_selectJtag
    | split
    | intro _

theorem later_execIdcode (h : Later ok s₀ s) :
    LaterOut ok s₀ (execIdcode s) := by
  unfold execIdcode
  try dsimp only
  repeat' first
    | with_reducible first | assumption | apply later_run | apply later_when | apply later_emit
    | with_reducible first | apply later_selectJtag
    | split
    | intro _

theorem later_execSamplePreload (h : Later ok s₀ s) :
    LaterOut ok s₀ (execSamplePreload s) := by
  unfold execSamplePreload
  try dsimp only
  repeat' first
    | with_reducible first | assumption | apply later_run | apply later_selectJtag
    | split
    | intro _

theorem later_execClamp (h : Later ok s₀ s) :
    LaterOut ok s₀ (execClamp s) := by
  unfold execClamp
  try dsimp only
  repeat' first
    | with_reducible first | assumption | apply later_run | apply later_selectJtag
    | split
    | intro _

theorem later_execHighz (h : Later ok s₀ s) :
    LaterOut ok s₀ (execHighz s) := by
  unfold execHighz
  try dsimp only
  repeat' first
    | with_reducible first | assumption | apply later_run | apply later_selectJtag
    | split
    | intro _

theorem later_execLqIjtag (h : Later ok s₀ s) :
    LaterOut ok s₀ (execLqIjtag s) := by
  unfold execLqIjtag
  try dsimp only
  repeat' first
    | with_reducible first | assumption | apply later_run | apply later_selectJtag
    | split
    | intro _

theorem later_execBypass {code : Nat} (h : Later ok s₀ s) :
    LaterOut ok s₀ (execBypass code s) := by
  unfold execBypass
  try dsimp only
  repeat' first
    | with_reducible first | assumption | apply later_run | apply later_selectJtag
    | split
    | intro _

theorem later_execTestLogicReset (h : Later ok s₀ s) :
    LaterOut ok s₀ (execTestLogicReset s) := by
  unfold execTestLogicReset
  try dsimp only
  repeat' first
    | with_reducible first | assumption | apply later_run | apply later_selectJtag
    | split
    | intro _

theorem later_shiftFree (h : Later ok s₀ s) :
    Later ok s₀ (shiftFree s) := by
  unfold shiftFree
  try dsimp only
  repeat' first
    | with_reducible first | assumption | apply later_draw | apply later_emit

theorem later_execIjtagInstrumentAccess {domain : Nat} {instrument : Instrument} (h : Later ok s₀ s) :
    LaterOut ok s₀ (execIjtagInstrumentAccess domain instrument s) := by
  unfold execIjtagInstrumentAccess
  try dsimp only
  repeat' first
    | with_reducible first | assumption | apply later_run | apply later_when | apply later_shiftFree
    | with_reducible first | apply later_emit
    | split
    | intro _

theorem later_execIjtagMemorySelftest {domain : Nat} (h : Later ok s₀ s) :
    LaterOut ok s₀ (execIjtagMemorySelftest domain s) := by
  unfold execIjtagMemorySelftest
  try dsimp only
  repeat' first
    | with_reducible first | assumption | apply later_run | apply later_shiftFree | apply later_onJtag
    | split
    | intro _

theorem later_autoDump {trigger : Nat} (h : Later ok s₀ s) :
    Later ok s₀ (autoDump trigger s) := by
  unfold autoDump
  try dsimp only
  repeat' first
    | with_reducible first | assumption | apply later_onDump
    | split

theorem later_execIjtagDumpTrigger (h : Later ok s₀ s) :
    LaterOut ok s₀ (execIjtagDumpTrigger s) := by
  unfold execIjtagDumpTrigger
  try dsimp only
  repeat' first
    | with_reducible first | assumption | apply later_run | apply later_when | apply later_autoDump
    | split
    | intro _

theorem later_countSource {c : Nat} (h : Later ok s₀ s) :
    Later ok s₀ (countSource c s) := by
  unfold countSource
  try dsimp only
  repeat' first
    | with_reducible first | assumption | apply later_onRst

theorem later_abortRun (h : Later ok s₀ s) :
    Later ok s₀ (abortRun s) := by
  unfold abortRun
  try dsimp only
  repeat' first
    | with_reducible first | assumption | apply later_endRun | apply later_wrapperError
    | split
    | intro _

theorem later_endGrant {id : Nat} (h : Later ok s₀ s) : Later ok s₀ (endGrant id s) :=
  later_nvPush (later_onTrc h fun x => ⟨(List.length_filter_le _ _).trans x.grants, x.fronts⟩)

theorem later_endGrants (h : Later ok s₀ s) :
    Later ok s₀ (endGrants s) := by
  unfold endGrants
  try dsimp only
  repeat' first
    | with_reducible first | assumption | apply later_forEach | apply later_endGrant
    | split
    | intro _

theorem later_resetRegs (h : Later ok s₀ s) :
    Later ok s₀ (resetRegs s) := by
  unfold resetRegs
  try dsimp only
  repeat' first
    | with_reducible first | assumption | apply later_onHrw

theorem later_closeSbi {reason : Option Nat} (h : Later ok s₀ s) : Later ok s₀ (closeSbi reason s) := by
  unfold closeSbi
  dsimp only
  split
  · exact h
  · refine Later.withStw ?_ _ fun x => x
    split
    · exact later_orphanWork h
    · exact later_sbiPost (later_orphanWork h)

theorem later_closePm {n : Nat} {reason : Option Nat} (h : Later ok s₀ s) : Later ok s₀ (closePm n reason s) := by
  unfold closePm
  dsimp only
  split
  · exact h
  · refine Later.withStw ?_ _ fun x => x
    split
    · exact later_orphanWork h
    · exact later_pmPost (later_orphanWork h)

theorem later_closeAll {reason : Nat} (h : Later ok s₀ s) :
    Later ok s₀ (closeAll reason s) := by
  unfold closeAll
  try dsimp only
  repeat' first
    | with_reducible first | assumption | apply later_closeSbi | apply later_forEach | apply later_closePm
    | with_reducible first | apply later_closeSlot
    | split
    | intro _

theorem later_revertTrial (h : Later ok s₀ s) :
    Later ok s₀ (revertTrial s) := by
  unfold revertTrial
  try dsimp only
  repeat' first
    | with_reducible first | assumption | apply later_onStw | apply later_raise | apply later_raiseInt
    | with_reducible first | apply later_nvPush
    | exact fun x => x
    | split

theorem later_toCommitted (h : Later ok s₀ s) :
    Later ok s₀ (toCommitted s) := by
  unfold toCommitted
  try dsimp only
  repeat' first
    | with_reducible first | assumption | apply later_onStw | apply later_revertTrial
    | exact fun x => x

theorem later_reportSource {c : Nat} (h : Later ok s₀ s) :
    Later ok s₀ (reportSource c s) := by
  unfold reportSource
  try dsimp only
  repeat' first
    | with_reducible first | assumption | apply later_raise

theorem later_lockupReset (h : Later ok s₀ s) :
    Later ok s₀ (lockupReset s) := by
  unfold lockupReset
  try dsimp only
  repeat' first
    | with_reducible first | assumption | apply later_onRst | apply later_countSource | apply later_abortRun
    | with_reducible first | apply later_endGrants | apply later_resetRegs | apply later_completeWhere
    | with_reducible first | apply later_when | apply later_closeAll | apply later_toCommitted
    | with_reducible first | apply later_reportSource | apply later_onStw
    | exact fun x => x
    | split
    | intro _

theorem later_holdDomains (h : Later ok s₀ s) :
    Later ok s₀ (holdDomains s) := by
  unfold holdDomains
  try dsimp only
  repeat' first
    | with_reducible first | assumption | apply later_forEach | apply later_endMove | apply later_onPwr
    | split
    | intro _

theorem later_cutMemory (h : Later ok s₀ s) :
    Later ok s₀ (cutMemory s) := by
  unfold cutMemory
  try dsimp only
  repeat' first
    | with_reducible first | assumption | apply later_onArc

theorem later_recoverSegments (h : Later ok s₀ s) :
    Later ok s₀ (recoverSegments s) := by
  unfold recoverSegments
  try dsimp only
  repeat' first
    | with_reducible first | assumption | apply later_onArc

theorem later_loseQueries (h : Later ok s₀ s) :
    Later ok s₀ (loseQueries s) := by
  unfold loseQueries
  try dsimp only
  repeat' first
    | with_reducible first | assumption | apply later_onArc

theorem later_resetEngines (h : Later ok s₀ s) :
    Later ok s₀ (resetEngines s) := by
  unfold resetEngines
  try dsimp only
  repeat' first
    | with_reducible first | assumption | apply later_forEach | apply later_resetLogic | apply later_loseFrames
    | with_reducible first | apply later_onUpl | apply later_onBuf | apply later_cutMemory
    | with_reducible first | apply later_recoverSegments | apply later_loseQueries
    | exact fun x => ⟨x.accounts, x.byp, x.stride⟩
    | exact fun x => x
    | split
    | intro _

theorem later_enterReset (h : Later ok s₀ s) : Later ok s₀ (enterReset s) := by
  unfold enterReset
  refine later_onSmp (later_onStw (later_onDump (later_onHrw ?_)) fun _ => Nat.zero_le _)
  exact later_holdDomains (later_resetEngines (later_closeAll (later_completeWhere (later_abortRun (later_endGrants (later_resetRegs h))))))

theorem later_applyWhole {cs : List Nat} (h : Later ok s₀ s) : Later ok s₀ (applyWhole cs s) := by
  unfold applyWhole
  dsimp only
  refine later_onRst (later_when (later_when (later_forEach ?_ fun _ _ h => later_countSource h)
    fun _ h => later_onBuf h fun _ => Nat.zero_le _) fun _ h => later_toCommitted h)
  split
  · exact h
  · exact later_enterReset h

theorem later_applySources {cs : List Nat} (h : Later ok s₀ s) :
    Later ok s₀ (applySources cs s) := by
  unfold applySources
  try dsimp only
  repeat' first
    | with_reducible first | assumption | apply later_lockupReset | apply later_applyWhole
    | split

theorem later_raiseSource {c : Nat} (h : Later ok s₀ s) :
    Later ok s₀ (raiseSource c s) := by
  unfold raiseSource
  try dsimp only
  repeat' first
    | with_reducible first | assumption | apply later_onRst | apply later_applySources
    | split

theorem later_execIjtagDebugReset (h : Later ok s₀ s) :
    LaterOut ok s₀ (execIjtagDebugReset s) := by
  unfold execIjtagDebugReset
  try dsimp only
  repeat' first
    | with_reducible first | assumption | apply later_run | apply later_when | apply later_raiseSource
    | split
    | intro _

theorem later_stopGroup {g : Nat} (h : Later ok s₀ s) :
    Later ok s₀ (stopGroup g s) := by
  unfold stopGroup
  try dsimp only
  repeat' first
    | with_reducible first | assumption | apply later_onPwr
    | split

theorem later_stopGroups {stopped : Word32} (h : Later ok s₀ s) :
    Later ok s₀ (stopGroups stopped s) := by
  unfold stopGroups
  try dsimp only
  repeat' first
    | with_reducible first | assumption | apply later_forEach | apply later_stopGroup
    | split
    | intro _

theorem later_dueKey (h : Later ok s₀ s) :
    Later ok s₀ (dueKey s) := by
  unfold dueKey
  try dsimp only
  repeat' first
    | with_reducible first | assumption | apply later_when | apply later_onDig
    | split
    | intro _

theorem later_installTable {t : KeyTable} (h : Later ok s₀ s) :
    Later ok s₀ (installTable t s) := by
  unfold installTable
  try dsimp only
  repeat' first
    | with_reducible first | assumption | apply later_onDig | apply later_dueKey
    | split

theorem later_refuseTable {job : Nat} (h : Later ok s₀ s) :
    Later ok s₀ (refuseTable job s) := by
  unfold refuseTable
  try dsimp only
  repeat' first
    | with_reducible first | assumption | apply later_onDig

theorem later_digestArm {r : Req} {t : KeyTable} {d : Desc} (h : Later ok s₀ s) :
    LaterReply ok s₀ (digestArm r t d s) := by
  unfold digestArm
  try dsimp only
  repeat' first
    | with_reducible first | assumption | apply later_deny | apply later_refuseTable | apply later_installTable
    | with_reducible first | apply later_complete
    | split
    | intro _
    | dsimp only
    | refine And.intro ?_ ?_

theorem later_execDigestArm {r : Req} {key : Nat} {job : Nat} {anchor : Nat} {desc : Desc} {n : Nat} {table : List CollEntry} (h : Later ok s₀ s) :
    LaterOut ok s₀ (execDigestArm r key job anchor desc n table s) := by
  unfold execDigestArm
  try dsimp only
  repeat' first
    | with_reducible first | assumption | apply later_run | apply later_serve | apply later_engineServed
    | with_reducible first | apply later_digestArm | apply later_when | apply later_installTable
    | split
    | intro _

theorem later_execDigestKeyAnchor (h : Later ok s₀ s) :
    LaterOut ok s₀ (execDigestKeyAnchor s) := by
  unfold execDigestKeyAnchor
  try dsimp only
  repeat' first
    | with_reducible first | assumption | apply later_run | apply later_when | apply later_onDig | apply later_untilFt
    | split
    | intro _

theorem later_execDigestStatus {r : Req} {job : Nat} (h : Later ok s₀ s) :
    LaterOut ok s₀ (execDigestStatus r job s) := by
  unfold execDigestStatus
  try dsimp only
  repeat' first
    | with_reducible first | assumption | apply later_run | apply later_serve | apply later_engineServed
    | with_reducible first | apply later_deny | apply later_done
    | split
    | intro _

theorem later_execDigestVerdictRead {r : Req} {job : Nat} {coll : Nat} {inst : Nat} (h : Later ok s₀ s) :
    LaterOut ok s₀ (execDigestVerdictRead r job coll inst s) := by
  unfold execDigestVerdictRead
  try dsimp only
  repeat' first
    | with_reducible first | assumption | apply later_run | apply later_serve | apply later_engineServed
    | with_reducible first | apply later_deny | apply later_done
    | split
    | intro _

theorem later_onStream {id : StreamId} {f : Stream → Stream} (h : Later ok s₀ s) :
    Later ok s₀ (onStream id f s) := by
  unfold onStream
  try dsimp only
  repeat' first
    | with_reducible first | assumption | apply later_onDig

theorem later_beatIn {b : TapBeat} {dropped : Bool} (h : Later ok s₀ s) :
    Later ok s₀ (beatIn b dropped s) := by
  unfold beatIn
  try dsimp only
  repeat' first
    | with_reducible first | assumption | apply later_onStream | apply later_onDig
    | split

theorem later_countDrop (h : Later ok s₀ s) :
    Later ok s₀ (countDrop s) := by
  unfold countDrop
  try dsimp only
  repeat' first
    | with_reducible first | assumption | apply later_onDig

theorem later_fullResult {b : TapBeat} (h : Later ok s₀ s) :
    Later ok s₀ (fullResult b s) := by
  unfold fullResult
  try dsimp only
  repeat' first
    | with_reducible first | assumption | apply later_onDig

theorem later_countNone {job : Nat} {k : Nat} (h : Later ok s₀ s) :
    Later ok s₀ (countNone job k s) := by
  unfold countNone
  try dsimp only
  repeat' first
    | with_reducible first | assumption | apply later_onDig

theorem later_tapReport (h : Later ok s₀ s) :
    Later ok s₀ (tapReport s) := by
  unfold tapReport
  try dsimp only
  repeat' first
    | with_reducible first | assumption | apply later_raise

theorem later_fullBeat {b : TapBeat} (h : Later ok s₀ s) :
    Later ok s₀ (fullBeat b s) := by
  unfold fullBeat
  try dsimp only
  repeat' first
    | with_reducible first | assumption | apply later_when | apply later_countNone | apply later_fullResult
    | with_reducible first | apply later_tapReport | apply later_onDig
    | split
    | intro _

theorem later_countOk {job : Nat} (h : Later ok s₀ s) :
    Later ok s₀ (countOk job s) := by
  unfold countOk
  try dsimp only
  repeat' first
    | with_reducible first | assumption | apply later_onDig

theorem later_countBad {job : Nat} (h : Later ok s₀ s) :
    Later ok s₀ (countBad job s) := by
  unfold countBad
  try dsimp only
  repeat' first
    | with_reducible first | assumption | apply later_onDig

theorem later_compareWord {x : Stream} {mine : Option Word64} {carried : Word64} (h : Later ok s₀ s) :
    Later ok s₀ (compareWord x mine carried s) := by
  unfold compareWord
  try dsimp only
  repeat' first
    | with_reducible first | assumption | apply later_countNone | apply later_countOk | apply later_raise
    | with_reducible first | apply later_countBad
    | split

theorem later_dropStream {id : StreamId} (h : Later ok s₀ s) :
    Later ok s₀ (dropStream id s) := by
  unfold dropStream
  try dsimp only
  repeat' first
    | with_reducible first | assumption | apply later_onDig

theorem later_endArrival {id : StreamId} (h : Later ok s₀ s) :
    Later ok s₀ (endArrival id s) := by
  unfold endArrival
  try dsimp only
  repeat' first
    | with_reducible first | assumption | apply later_countNone | apply later_onStream | apply later_dropStream
    | split

theorem later_takeCarried {id : StreamId} {chunk : Nat} {w : Word64} (h : Later ok s₀ s) :
    Later ok s₀ (takeCarried id chunk w s) := by
  unfold takeCarried
  try dsimp only
  repeat' first
    | with_reducible first | assumption | apply later_countNone | apply later_compareWord | apply later_onStream
    | with_reducible first | apply later_endArrival
    | split

theorem later_takeListBeat {b : TapBeat} (h : Later ok s₀ s) :
    Later ok s₀ (takeListBeat b s) := by
  unfold takeListBeat
  try dsimp only
  repeat' first
    | with_reducible first | assumption | apply later_forEach | apply later_takeCarried
    | split
    | intro _

theorem later_execTapBeat {b : TapBeat} (h : Later ok s₀ s) :
    LaterOut ok s₀ (execTapBeat b s) := by
  unfold execTapBeat
  try dsimp only
  repeat' first
    | with_reducible first | assumption | apply later_run | apply later_when | apply later_dueKey
    | with_reducible first | apply later_countDrop | apply later_beatIn | apply later_takeListBeat
    | with_reducible first | apply later_fullBeat | apply later_tapReport
    | split
    | intro _

theorem later_retain {r : Retained} (h : Later ok s₀ s) :
    Later ok s₀ (retain r s) := by
  unfold retain
  try dsimp only
  repeat' first
    | with_reducible first | assumption | apply later_onDig

theorem later_completeResult {x : Stream} (h : Later ok s₀ s) :
    Later ok s₀ (completeResult x s) := by
  unfold completeResult
  try dsimp only
  repeat' first
    | with_reducible first | assumption | apply later_onDig | apply later_dropStream | apply later_retain
    | split

theorem later_digestChunk {x : Stream} {chunk : Nat} {words : List Word64} {len : Nat} {spoilt : Bool} (h : Later ok s₀ s) :
    Later ok s₀ (digestChunk x chunk words len spoilt s) := by
  unfold digestChunk
  try dsimp only
  repeat' first
    | with_reducible first | assumption | apply later_onStream | apply later_emit | apply later_countNone
    | with_reducible first | apply later_when | apply later_dropStream | apply later_endArrival
    | with_reducible first | apply later_compareWord | apply later_completeResult
    | split
    | intro _

theorem later_execTapChunkDigest {stream : StreamId} (h : Later ok s₀ s) :
    LaterOut ok s₀ (execTapChunkDigest stream s) := by
  unfold execTapChunkDigest
  try dsimp only
  repeat' first
    | with_reducible first | assumption | apply later_run | apply later_when | apply later_digestChunk
    | split
    | intro _

theorem later_execDigestListTimeout {stream : StreamId} (h : Later ok s₀ s) :
    LaterOut ok s₀ (execDigestListTimeout stream s) := by
  unfold execDigestListTimeout
  try dsimp only
  repeat' first
    | with_reducible first | assumption | apply later_run | apply later_untilTimer | apply later_endArrival
    | with_reducible first | apply later_countNone | apply later_onStream
    | split
    | intro _

theorem later_execUnitMaskExpiry {job : Nat} {coll : Nat} {inst : Nat} (h : Later ok s₀ s) :
    LaterOut ok s₀ (execUnitMaskExpiry job coll inst s) := by
  unfold execUnitMaskExpiry
  try dsimp only
  repeat' first
    | with_reducible first | assumption | apply later_run | apply later_onDig | apply later_untilTimer
    | split
    | intro _

theorem later_keepVerdict {v : Verdict} (h : Later ok s₀ s) :
    Later ok s₀ (keepVerdict v s) := by
  unfold keepVerdict
  try dsimp only
  repeat' first
    | with_reducible first | assumption | apply later_onDig

theorem later_raiseForJob {code : Nat} {subject : Nat} {job : Nat} (h : Later ok s₀ s) :
    Later ok s₀ (raiseForJob code subject job s) := by
  unfold raiseForJob
  try dsimp only
  repeat' first
    | with_reducible first | assumption | apply later_raise | apply later_when | apply later_notify
    | split
    | intro _

theorem later_suspectUnit {r : Retained} {n : Nat} {line : Nat} (h : Later ok s₀ s) :
    Later ok s₀ (suspectUnit r n line s) := by
  unfold suspectUnit
  try dsimp only
  repeat' first
    | with_reducible first | assumption | apply later_onDig | apply later_raiseForJob | apply later_assertFence
    | with_reducible first | apply later_raise | apply later_when | apply later_abortRun
    | split

theorem later_leafVerdict {n : VerdictNotice} (h : Later ok s₀ s) :
    Later ok s₀ (leafVerdict n s) := by
  unfold leafVerdict
  try dsimp only
  repeat' first
    | with_reducible first | assumption | apply later_onDig | apply later_keepVerdict | apply later_forEach
    | with_reducible first | apply later_suspectUnit | apply later_raiseForJob
    | split
    | intro _

theorem later_execVerdictNoticeLeaf {n : VerdictNotice} (h : Later ok s₀ s) :
    LaterOut ok s₀ (execVerdictNoticeLeaf n s) := by
  unfold execVerdictNoticeLeaf
  try dsimp only
  repeat' first
    | with_reducible first | assumption | apply later_run | apply later_when | apply later_leafVerdict
    | split
    | intro _

theorem later_sendVerdict {src : Nat} {dst : Nat} {n : VerdictNotice} (h : Later ok s₀ s) :
    Later ok s₀ (sendVerdict src dst n s) := by
  unfold sendVerdict
  try dsimp only
  repeat' first
    | with_reducible first | assumption | apply later_sendControl

theorem later_applyVerdict {n : VerdictNotice} (h : Later ok s₀ s) :
    Later ok s₀ (applyVerdict n s) := by
  unfold applyVerdict
  try dsimp only
  repeat' first
    | with_reducible first | assumption | apply later_when | apply later_raise | apply later_onDig
    | with_reducible first | apply later_keepVerdict | apply later_forEach | apply later_sendVerdict
    | with_reducible first | apply later_raiseForJob
    | split
    | intro _

theorem later_spreadVerdict {r : Role} {n : VerdictNotice} (h : Later ok s₀ s) :
    Later ok s₀ (spreadVerdict r n s) := by
  unfold spreadVerdict
  try dsimp only
  repeat' first
    | with_reducible first | assumption | apply later_forEach | apply later_sendVerdict
    | split
    | intro _

theorem later_judgeTally {t : Tally} {r : Role} (h : Later ok s₀ s) :
    Later ok s₀ (judgeTally t r s) := by
  unfold judgeTally
  try dsimp only
  repeat' first
    | with_reducible first | assumption | apply later_keepVerdict | apply later_raise | apply later_applyVerdict
    | with_reducible first | apply later_spreadVerdict
    | split

theorem later_sendTally {t : Tally} {r : Role} (h : Later ok s₀ s) :
    Later ok s₀ (sendTally t r s) := by
  unfold sendTally
  try dsimp only
  repeat' first
    | with_reducible first | assumption | apply later_onDig | apply later_arcIngest | apply later_forEach
    | with_reducible first | apply later_enqueueSeries
    | split
    | intro _

theorem later_closeTally {t : Tally} (h : Later ok s₀ s) :
    Later ok s₀ (closeTally t s) := by
  unfold closeTally
  try dsimp only
  repeat' first
    | with_reducible first | assumption | apply later_onDig | apply later_judgeTally | apply later_sendTally
    | split

theorem later_onTally {k : RoleKind} {job : Nat} {coll : Nat} {inst : Nat} {e : CollEntry} {g : Tally → Tally} (h : Later ok s₀ s) :
    Later ok s₀ (onTally k job coll inst e g s) := by
  unfold onTally
  try dsimp only
  repeat' first
    | with_reducible first | assumption | apply later_keepVerdict | apply later_onDig | apply later_closeTally
    | split

theorem later_takeResult {die : Nat} {quality : BitVec 8} {x : ResultEntry} (h : Later ok s₀ s) :
    Later ok s₀ (takeResult die quality x s) := by
  unfold takeResult
  try dsimp only
  repeat' first
    | with_reducible first | assumption | apply later_onTally
    | split

theorem later_execDigestRecord {role : RoleKind} {rec_ : DigestRecord} (h : Later ok s₀ s) :
    LaterOut ok s₀ (execDigestRecord role rec_ s) := by
  unfold execDigestRecord
  try dsimp only
  repeat' first
    | with_reducible first | assumption | apply later_run | apply later_when | apply later_arcIngest
    | with_reducible first | apply later_toEngine | apply later_forEach | apply later_takeResult
    | split
    | intro _

theorem later_takeBlock {k : RoleKind} {src : Nat} {quality : BitVec 8} {b : TallyBlock} (h : Later ok s₀ s) :
    Later ok s₀ (takeBlock k src quality b s) := by
  unfold takeBlock
  try dsimp only
  repeat' first
    | with_reducible first | assumption | apply later_onTally
    | split

theorem later_execTallyRecord {role : RoleKind} {rec_ : TallyRecord} (h : Later ok s₀ s) :
    LaterOut ok s₀ (execTallyRecord role rec_ s) := by
  unfold execTallyRecord
  try dsimp only
  repeat' first
    | with_reducible first | assumption | apply later_run | apply later_when | apply later_arcIngest
    | with_reducible first | apply later_toEngine | apply later_forEach | apply later_takeBlock
    | split
    | intro _

theorem later_execVerdictNoticePlaza {n : VerdictNotice} (h : Later ok s₀ s) :
    LaterOut ok s₀ (execVerdictNoticePlaza n s) := by
  unfold execVerdictNoticePlaza
  try dsimp only
  repeat' first
    | with_reducible first | assumption | apply later_run | apply later_when | apply later_arcIngest
    | with_reducible first | apply later_spreadVerdict | apply later_toEngine | apply later_applyVerdict
    | split
    | intro _

theorem later_execResultHoldExpiry {job : Nat} {coll : Nat} {inst : Nat} (h : Later ok s₀ s) :
    LaterOut ok s₀ (execResultHoldExpiry job coll inst s) := by
  unfold execResultHoldExpiry
  try dsimp only
  repeat' first
    | with_reducible first | assumption | apply later_run | apply later_onDig | apply later_untilTimer
    | split
    | intro _

theorem later_sendDigestRecord {frame : Nat} {period : Nat} {quality : BitVec 8} (h : Later ok s₀ s) :
    Later ok s₀ (sendDigestRecord frame period quality s) := by
  unfold sendDigestRecord
  try dsimp only
  repeat' first
    | with_reducible first | assumption | apply later_dueKey | apply later_absentAt | apply later_onDig
    | with_reducible first | apply later_enqueueSeries
    | split

theorem later_cutTallies {k : RoleKind} {opens : Nat} (h : Later ok s₀ s) :
    Later ok s₀ (cutTallies k opens s) := by
  unfold cutTallies
  try dsimp only
  repeat' first
    | with_reducible first | assumption | apply later_forEach | apply later_closeTally
    | split
    | intro _

theorem later_openTenant {p ring ringN vector : Nat} (h : Later ok s₀ s) :
    LaterReply ok s₀ (openTenant p ring ringN vector s) := by
  unfold openTenant
  split
  · exact later_deny h
  · split
    · exact later_deny h
    · refine ⟨?_, fun _ k => k⟩
      dsimp only
      exact later_onStw h fun x => x

theorem later_sessionOpen {r : Req} {ring : Nat} {ringN : Nat} {vector : Nat} {noticeEn : Bool} (h : Later ok s₀ s) :
    LaterReply ok s₀ (sessionOpen r ring ringN vector noticeEn s) := by
  unfold sessionOpen
  try dsimp only
  repeat' first
    | with_reducible first | assumption | apply later_closePm | apply later_onStw | apply later_done
    | with_reducible first | apply later_closeSbi | apply later_openTenant | apply later_deny
    | exact fun x => x
    | split

theorem later_execSessionOpen {r : Req} {ring : Nat} {ringN : Nat} {vector : Nat} {noticeEn : Bool} (h : Later ok s₀ s) :
    LaterOut ok s₀ (execSessionOpen r ring ringN vector noticeEn s) := by
  unfold execSessionOpen
  try dsimp only
  repeat' first
    | with_reducible first | assumption | apply later_run | apply later_serve | apply later_sessionOpen
    | split
    | intro _

theorem later_closeIssuer {i : Issuer} (h : Later ok s₀ s) :
    Later ok s₀ (closeIssuer i s) := by
  unfold closeIssuer
  try dsimp only
  repeat' first
    | with_reducible first | assumption | apply later_closePm | apply later_closeSbi | apply later_closeSlot
    | split

theorem later_execSessionClose {r : Req} (h : Later ok s₀ s) :
    LaterOut ok s₀ (execSessionClose r s) := by
  unfold execSessionClose
  try dsimp only
  repeat' first
    | with_reducible first | assumption | apply later_run | apply later_serve | apply later_closeIssuer
    | split
    | intro _
    | dsimp only
    | refine And.intro ?_ ?_

theorem later_execSessionInfo {r : Req} {partition : Nat} (h : Later ok s₀ s) :
    LaterOut ok s₀ (execSessionInfo r partition s) := by
  unfold execSessionInfo
  try dsimp only
  repeat' first
    | with_reducible first | assumption | apply later_run | apply later_serve | apply later_deny | apply later_done
    | split
    | intro _

theorem later_execSessionQuotaSet {r : Req} {partition : Nat} {quota : Nat} (h : Later ok s₀ s) :
    LaterOut ok s₀ (execSessionQuotaSet r partition quota s) := by
  unfold execSessionQuotaSet
  try dsimp only
  repeat' first
    | with_reducible first | assumption | apply later_run | apply later_serve | apply later_done | apply later_onStw
    | exact fun x => x
    | split
    | intro _

theorem later_execSessionIdleSet {r : Req} {idleS : Nat} (h : Later ok s₀ s) :
    LaterOut ok s₀ (execSessionIdleSet r idleS s) := by
  unfold execSessionIdleSet
  try dsimp only
  repeat' first
    | with_reducible first | assumption | apply later_run | apply later_serve | apply later_done | apply later_onStw
    | exact fun x => x
    | split
    | intro _

theorem later_execSessionWindowSet {r : Req} {partition : Nat} {window : Nat} {base : Nat} {len : Nat} (h : Later ok s₀ s) :
    LaterOut ok s₀ (execSessionWindowSet r partition window base len s) := by
  unfold execSessionWindowSet
  try dsimp only
  repeat' first
    | with_reducible first | assumption | apply later_run | apply later_serve | apply later_onStw | apply later_done
    | with_reducible first | apply later_deny
    | exact fun x => x
    | split
    | intro _

theorem later_execTimeStatus {r : Req} (h : Later ok s₀ s) :
    LaterOut ok s₀ (execTimeStatus r s) := by
  unfold execTimeStatus
  try dsimp only
  repeat' first
    | with_reducible first | assumption | apply later_run | apply later_serve | apply later_done
    | split
    | intro _

theorem later_execTimeSetMode {r : Req} {mode : Nat} (h : Later ok s₀ s) :
    LaterOut ok s₀ (execTimeSetMode r mode s) := by
  unfold execTimeSetMode
  try dsimp only
  repeat' first
    | with_reducible first | assumption | apply later_run | apply later_serve | apply later_deny | apply later_onTime
    | with_reducible first | apply later_done | apply later_when | apply later_raiseInt
    | exact ⟨le_refl _, le_refl _, le_refl _, le_refl _⟩
    | split
    | intro _

theorem later_execFrameSetPeriod {r : Req} {periodUs : Nat} {e : Nat} (h : Later ok s₀ s) :
    LaterOut ok s₀ (execFrameSetPeriod r periodUs e s) := by
  unfold execFrameSetPeriod
  try dsimp only
  repeat' first
    | with_reducible first | assumption | apply later_run | apply later_serve | apply later_deny | apply later_done
    | with_reducible first | apply later_onGrid
    | split
    | intro _

theorem later_execFrameHalt {r : Req} {halt : Nat} (h : Later ok s₀ s) :
    LaterOut ok s₀ (execFrameHalt r halt s) := by
  unfold execFrameHalt
  try dsimp only
  repeat' first
    | with_reducible first | assumption | apply later_run | apply later_serve | apply later_onGrid | apply later_done
    | split
    | intro _

theorem later_execLedgerStatus {r : Req} (h : Later ok s₀ s) :
    LaterOut ok s₀ (execLedgerStatus r s) := by
  unfold execLedgerStatus
  try dsimp only
  repeat' first
    | with_reducible first | assumption | apply later_run | apply later_serve | apply later_engineServed
    | with_reducible first | apply later_done
    | split
    | intro _

theorem later_wantRegion {n : RegionName} {kib : Nat} (h : Later ok s₀ s) :
    Later ok s₀ (wantRegion n kib s) := by
  unfold wantRegion
  try dsimp only
  repeat' first
    | with_reducible first | assumption | apply later_onStw
    | exact fun x => x

theorem later_setRetention {kib : Nat} {nodes : Nat} {staging : Nat} (h : Later ok s₀ s) :
    Later ok s₀ (setRetention kib nodes staging s) := by
  unfold setRetention
  try dsimp only
  repeat' first
    | with_reducible first | assumption | apply later_resizeRegion | apply later_wantRegion

theorem later_execLedgerRetainSet {r : Req} {regionKib : Nat} {desc : Desc} (h : Later ok s₀ s) :
    LaterOut ok s₀ (execLedgerRetainSet r regionKib desc s) := by
  unfold execLedgerRetainSet
  try dsimp only
  repeat' first
    | with_reducible first | assumption | apply later_run | apply later_serve | apply later_engineServed
    | with_reducible first | apply later_deny | apply later_chainWithdraw | apply later_chainOpen | apply later_done
    | with_reducible first | apply later_setRetention
    | split
    | intro _

theorem later_execLedgerRead {r : Req} {desc : Desc} {frame : Nat} {kind : Nat} (h : Later ok s₀ s) :
    LaterOut ok s₀ (execLedgerRead r desc frame kind s) := by
  unfold execLedgerRead
  try dsimp only
  repeat' first
    | with_reducible first | assumption | apply later_run | apply later_serve | apply later_engineServed
    | with_reducible first | apply later_deny | apply later_outputReply
    | split
    | intro _

theorem later_execLedgerSinkSet {r : Req} {desc : Desc} {select : BitVec 8} (h : Later ok s₀ s) :
    LaterOut ok s₀ (execLedgerSinkSet r desc select s) := by
  unfold execLedgerSinkSet
  try dsimp only
  repeat' first
    | with_reducible first | assumption | apply later_run | apply later_serve | apply later_engineServed
    | with_reducible first | apply later_deny | apply later_chainWithdraw | apply later_done | apply later_onLed
    | with_reducible first | apply later_chainOpen
    | split
    | intro _

theorem later_sendRange {replica : Nat} {host : Nat} {i : TreeImage} {first : Nat} {last : Nat} {tray : Nat} {home : Bool} (h : Later ok s₀ s) :
    Later ok s₀ (sendRange replica host i first last tray home s) := by
  unfold sendRange
  try dsimp only
  repeat' first
    | with_reducible first | assumption | apply later_sendControl

theorem later_sendHelper {replica : Nat} {p : Nat × PartEntry} (h : Later ok s₀ s) :
    Later ok s₀ (sendHelper replica p s) := by
  unfold sendHelper
  try dsimp only
  repeat' first
    | with_reducible first | assumption | apply later_sendRange
    | split

theorem later_reportShortage {hosts : List (Nat × Nat × Nat)} {unplaced : List (Nat × Nat)} (h : Later ok s₀ s) :
    Later ok s₀ (reportShortage hosts unplaced s) := by
  unfold reportShortage
  try dsimp only
  repeat' first
    | with_reducible first | assumption | apply later_forEach | apply later_raise
    | split
    | intro _

theorem later_sendPartFrom {src : Nat} {p : TablePart} (h : Later ok s₀ s) :
    Later ok s₀ (sendPartFrom src p s) := by
  unfold sendPartFrom
  try dsimp only
  repeat' first
    | with_reducible first | assumption | apply later_enqueueControl | apply later_arcIngest

theorem later_sendPart {p : TablePart} (h : Later ok s₀ s) :
    Later ok s₀ (sendPart p s) := by
  unfold sendPart
  try dsimp only
  repeat' first
    | with_reducible first | assumption | apply later_sendPartFrom

theorem later_issueTable (h : Later ok s₀ s) :
    Later ok s₀ (issueTable s) := by
  unfold issueTable
  try dsimp only
  repeat' first
    | with_reducible first | assumption | apply later_onPlace | apply later_forEach | apply later_sendHelper
    | with_reducible first | apply later_reportShortage | apply later_sendPart | apply later_complete
    | with_reducible first | apply later_completeWhere
    | split
    | intro _

theorem later_forumCommand {w : Work} {keep : State → State} (h : Later ok s₀ s) (hkeep : ∀ s, Later ok s₀ s → Later ok s₀ (keep s)) :
    LaterReply ok s₀ (forumCommand w keep s) := by
  unfold forumCommand
  try dsimp only
  repeat' first
    | with_reducible first | assumption | apply later_deny | apply later_issueTable | apply later_complete
    | with_reducible first | apply hkeep
    | split
    | intro _
    | dsimp only
    | refine And.intro ?_ ?_

theorem later_execPlaceSetConstraints {r : Req} {seed : Nat} {separation : Nat} {standinMin : Nat} {locDesc : Desc} {nohostDesc : Desc} {locations : List Word32} {noHost : List Nat} (h : Later ok s₀ s) :
    LaterOut ok s₀ (execPlaceSetConstraints r seed separation standinMin locDesc nohostDesc locations noHost s) := by
  unfold execPlaceSetConstraints
  try dsimp only
  repeat' first
    | with_reducible first | assumption | apply later_run | apply later_serve | apply later_engineServed
    | with_reducible first | apply later_deny | apply later_forumCommand | apply later_onPlace
    | split
    | intro _

theorem later_execPlaceDrain {r : Req} {tray : Nat} (h : Later ok s₀ s) :
    LaterOut ok s₀ (execPlaceDrain r tray s) := by
  unfold execPlaceDrain
  try dsimp only
  repeat' first
    | with_reducible first | assumption | apply later_run | apply later_serve | apply later_engineServed
    | with_reducible first | apply later_deny | apply later_forumCommand | apply later_onPlace
    | split
    | intro _

theorem later_execPlaceRestore {r : Req} {tray : Nat} (h : Later ok s₀ s) :
    LaterOut ok s₀ (execPlaceRestore r tray s) := by
  unfold execPlaceRestore
  try dsimp only
  repeat' first
    | with_reducible first | assumption | apply later_run | apply later_serve | apply later_engineServed
    | with_reducible first | apply later_deny | apply later_forumCommand | apply later_onPlace
    | split
    | intro _

theorem later_execPlaceStatus {r : Req} (h : Later ok s₀ s) :
    LaterOut ok s₀ (execPlaceStatus r s) := by
  unfold execPlaceStatus
  try dsimp only
  repeat' first
    | with_reducible first | assumption | apply later_run | apply later_serve | apply later_engineServed
    | with_reducible first | apply later_done
    | split
    | intro _

theorem later_execPlaceCensusTransfer {r : Req} {die : Nat} {frame : Nat} (h : Later ok s₀ s) :
    LaterOut ok s₀ (execPlaceCensusTransfer r die frame s) := by
  unfold execPlaceCensusTransfer
  try dsimp only
  repeat' first
    | with_reducible first | assumption | apply later_run | apply later_serve | apply later_engineServed
    | with_reducible first | apply later_done | apply later_onChild | apply later_onPlace
    | split
    | intro _

theorem later_dropPending {model : Nat} (h : Later ok s₀ s) :
    Later ok s₀ (dropPending model s) := by
  unfold dropPending
  try dsimp only
  repeat' first
    | with_reducible first | assumption | apply later_onTree

theorem later_loadTiers {i : TreeImage} (h : Later ok s₀ s) :
    Later ok s₀ (loadTiers i s) := by
  unfold loadTiers
  try dsimp only
  repeat' first
    | with_reducible first | assumption | apply later_when | apply later_onTree | apply later_arcIngest
    | split
    | intro _

theorem later_reportRemainder {t : TreeSlot} (h : Later ok s₀ s) :
    Later ok s₀ (reportRemainder t s) := by
  unfold reportRemainder
  try dsimp only
  repeat' first
    | with_reducible first | assumption | apply later_when | apply later_forEach | apply later_sendControl
    | split
    | intro _

theorem later_loadImage {r : Req} {i : TreeImage} (h : Later ok s₀ s) :
    Later ok s₀ (loadImage r i s).2 := by
  unfold loadImage
  try dsimp only
  repeat' first
    | with_reducible first | assumption | apply later_dropPending | apply later_loadTiers
    | with_reducible first | apply later_reportRemainder | apply later_onTree
    | split

theorem later_treeLoad {r : Req} {d : Desc} {i : TreeImage} (h : Later ok s₀ s) :
    LaterReply ok s₀ (treeLoad r d i s) := by
  unfold treeLoad
  try dsimp only
  repeat' first
    | with_reducible first | assumption | apply later_deny | apply later_loadImage | apply later_complete
    | split
    | intro _
    | dsimp only
    | refine later_pair (by assumption) ?_
    | refine And.intro ?_ ?_

theorem later_execTreeLoad {r : Req} {desc : Desc} {image : TreeImage} (h : Later ok s₀ s) :
    LaterOut ok s₀ (execTreeLoad r desc image s) := by
  unfold execTreeLoad
  try dsimp only
  repeat' first
    | with_reducible first | assumption | apply later_run | apply later_serve | apply later_engineServed
    | with_reducible first | apply later_treeLoad | apply later_when | apply later_loadImage
    | split
    | intro _

theorem later_armHelpers {model : Nat} (h : Later ok s₀ s) :
    Later ok s₀ (armHelpers model s) := by
  unfold armHelpers
  try dsimp only
  repeat' first
    | with_reducible first | assumption | apply later_forEach | apply later_sendHelper
    | split
    | intro _

theorem later_setStretch {k : Nat} {next : Nat} (h : Later ok s₀ s) :
    Later ok s₀ (setStretch k next s) := by
  unfold setStretch
  try dsimp only
  repeat' first
    | with_reducible first | assumption | apply later_onTree

theorem later_restretch {next : Nat} (h : Later ok s₀ s) :
    Later ok s₀ (restretch next s) := by
  unfold restretch
  try dsimp only
  repeat' first
    | with_reducible first | assumption | apply later_setStretch | apply later_raise | apply later_onTree
    | split

theorem later_treeArm {r : Req} {model : Nat} {f : Nat} (h : Later ok s₀ s) :
    LaterReply ok s₀ (treeArm r model f s) := by
  unfold treeArm
  try dsimp only
  repeat' first
    | with_reducible first | assumption | apply later_deny | apply later_done | apply later_armHelpers
    | with_reducible first | apply later_restretch | apply later_onTree
    | split

theorem later_execTreeArm {r : Req} {model frame : Nat} (h : Later ok s₀ s) : LaterOut ok s₀ (execTreeArm r model frame s) := by
  unfold execTreeArm
  refine later_run h fun s h => ?_
  dsimp only
  have k : ∀ s, Later ok s₀ s → LaterReply ok s₀ (engineServed 7 (treeArm r model frame) s) := fun s h =>
    later_engineServed h fun _ h => later_treeArm h
  split
  · split
    · exact later_answerReject (later_takeRequest h)
    · exact later_serve (later_treeArm h).1 k
  · exact later_serve h k

theorem later_treeUnload {r : Req} {model : Nat} (h : Later ok s₀ s) :
    LaterReply ok s₀ (treeUnload r model s) := by
  unfold treeUnload
  try dsimp only
  repeat' first
    | with_reducible first | assumption | apply later_deny | apply later_done | apply later_onTree
    | split

theorem later_execTreeUnload {r : Req} {model : Nat} (h : Later ok s₀ s) : LaterOut ok s₀ (execTreeUnload r model s) := by
  unfold execTreeUnload
  exact later_run h fun s h => later_serve (later_when h fun _ h => (later_treeUnload h).1)
    fun _ h => later_engineServed h fun _ h => later_treeUnload h

theorem later_execTreeQuotaSet {r : Req} {partition : Nat} {trees : Nat} {nodes : Nat} (h : Later ok s₀ s) :
    LaterOut ok s₀ (execTreeQuotaSet r partition trees nodes s) := by
  unfold execTreeQuotaSet
  try dsimp only
  repeat' first
    | with_reducible first | assumption | apply later_run | apply later_serve | apply later_engineServed
    | with_reducible first | apply later_done | apply later_onTree
    | split
    | intro _

theorem later_treeStatusPayload {t : TreeSlot} {model : Nat} (h : Later ok s₀ s) :
    Later ok s₀ (treeStatusPayload t model s).2 := by
  unfold treeStatusPayload
  try dsimp only
  repeat' first
    | with_reducible first | assumption | apply later_draw

theorem later_execTreeStatus {r : Req} {model : Nat} (h : Later ok s₀ s) :
    LaterOut ok s₀ (execTreeStatus r model s) := by
  unfold execTreeStatus
  try dsimp only
  repeat' first
    | with_reducible first | assumption | apply later_run | apply later_serve | apply later_engineServed
    | with_reducible first | apply later_treeStatusPayload | apply later_done | apply later_deny
    | split
    | intro _

theorem later_execTreeScoreRead {r : Req} {model : Nat} {die : Nat} (h : Later ok s₀ s) :
    LaterOut ok s₀ (execTreeScoreRead r model die s) := by
  unfold execTreeScoreRead
  try dsimp only
  repeat' first
    | with_reducible first | assumption | apply later_run | apply later_serve | apply later_engineServed
    | with_reducible first | apply later_deny | apply later_done
    | split
    | intro _

theorem later_installPkg {p : TestPkg} (h : Later ok s₀ s) :
    Later ok s₀ (installPkg p s) := by
  unfold installPkg
  try dsimp only
  repeat' first
    | with_reducible first | assumption | apply later_onTest | apply later_nvPush | apply later_emit

theorem later_execTestPkgLoad {r : Req} {desc : Desc} {patDesc : Desc} {pkg : TestPkg} (h : Later ok s₀ s) :
    LaterOut ok s₀ (execTestPkgLoad r desc patDesc pkg s) := by
  unfold execTestPkgLoad
  try dsimp only
  repeat' first
    | with_reducible first | assumption | apply later_run | apply later_serve | apply later_deny | apply later_raise
    | with_reducible first | apply later_installPkg | apply later_complete
    | split
    | intro _
    | dsimp only
    | refine And.intro ?_ ?_

theorem later_execTestPkgUnload {r : Req} {pkgId : Nat} (h : Later ok s₀ s) :
    LaterOut ok s₀ (execTestPkgUnload r pkgId s) := by
  unfold execTestPkgUnload
  try dsimp only
  repeat' first
    | with_reducible first | assumption | apply later_run | apply later_serve | apply later_deny | apply later_done
    | with_reducible first | apply later_onTest
    | split
    | intro _

theorem later_execTestIdleGrant {r : Req} {unitFirst : Nat} {unitLast : Nat} {start : Nat} {lenMs : Nat} (h : Later ok s₀ s) :
    LaterOut ok s₀ (execTestIdleGrant r unitFirst unitLast start lenMs s) := by
  unfold execTestIdleGrant
  try dsimp only
  repeat' first
    | with_reducible first | assumption | apply later_run | apply later_serve | apply later_deny | apply later_done
    | with_reducible first | apply later_onTest
    | split
    | intro _

theorem later_execTestStatus {r : Req} {pkgId : Nat} (h : Later ok s₀ s) :
    LaterOut ok s₀ (execTestStatus r pkgId s) := by
  unfold execTestStatus
  try dsimp only
  repeat' first
    | with_reducible first | assumption | apply later_run | apply later_serve | apply later_done | apply later_deny
    | split
    | intro _

theorem later_execFenceSet {r : Req} {line : Nat} (h : Later ok s₀ s) :
    LaterOut ok s₀ (execFenceSet r line s) := by
  unfold execFenceSet
  try dsimp only
  repeat' first
    | with_reducible first | assumption | apply later_run | apply later_serve | apply later_done
    | with_reducible first | apply later_assertFence
    | split
    | intro _

theorem later_releaseFence {line : Nat} (hl : ok line) (h : Later ok s₀ s) : Later ok s₀ (releaseFence line s) := by
  unfold releaseFence
  split
  · refine later_nvPush (h.withFence _ fun i hi l => getLsbD_putBit_false _ _ i ?_ l)
    rintro rfl
    exact hi hl
  · exact h

theorem later_execFenceRelease {r : Req} {line : Nat} (hl : ok line) (h : Later ok s₀ s) :
    LaterOut ok s₀ (execFenceRelease r line s) := by
  unfold execFenceRelease
  exact later_run h fun s h => later_serve h fun s h => later_done (later_releaseFence hl h)

theorem later_execFenceHistoryRead {r : Req} {offset : Nat} {desc : Option Desc} (h : Later ok s₀ s) :
    LaterOut ok s₀ (execFenceHistoryRead r offset desc s) := by
  unfold execFenceHistoryRead
  try dsimp only
  repeat' first
    | with_reducible first | assumption | apply later_run | apply later_serve | apply later_outputReply
    | split
    | intro _
    | dsimp only
    | refine And.intro ?_ ?_

theorem later_regrow {n : RegionName} (h : Later ok s₀ s) :
    Later ok s₀ (regrow n s) := by
  unfold regrow
  try dsimp only
  repeat' first
    | with_reducible first | assumption | apply later_resizeRegion

theorem later_unshrink (h : Later ok s₀ s) :
    Later ok s₀ (unshrink s) := by
  unfold unshrink
  try dsimp only
  repeat' first
    | with_reducible first | assumption | apply later_onPlace | apply later_regrow
    | split

theorem later_restoreResource {rkind : Nat} {index : Nat} (h : Later ok s₀ s) :
    Later ok s₀ (restoreResource rkind index s) := by
  unfold restoreResource
  try dsimp only
  repeat' first
    | with_reducible first | assumption | apply later_when | apply later_unshrink | apply later_onSmp
    | split

theorem later_execCdsRelease {r : Req} {rkind : Nat} {index : Nat} (h : Later ok s₀ s) :
    LaterOut ok s₀ (execCdsRelease r rkind index s) := by
  unfold execCdsRelease
  try dsimp only
  repeat' first
    | with_reducible first | assumption | apply later_run | apply later_serve | apply later_onPwr | apply later_done
    | with_reducible first | apply later_raiseInt | apply later_nvPush | apply later_restoreResource
    | with_reducible first | apply later_deny
    | split
    | intro _

theorem later_chainBlock {src : Nat} {b : Block} (h : Later ok s₀ s) :
    Later ok s₀ (chainBlock src b s) := by
  unfold chainBlock
  try dsimp only
  repeat' first
    | with_reducible first | assumption | apply later_onSource | apply later_dropForeign | apply later_chainWrite
    | split

theorem later_countDiscard {src : Nat} (h : Later ok s₀ s) :
    Later ok s₀ (countDiscard src s) := by
  unfold countDiscard
  try dsimp only
  repeat' first
    | with_reducible first | assumption | apply later_onSource

theorem later_stageBlock {n a b : Nat} {c : Block} (h : Later ok s₀ s) : Later ok s₀ (stageBlock n a b c s) := by
  induction n generalizing s with
  | zero => exact later_countDiscard h
  | succ n ih =>
    unfold stageBlock
    dsimp only
    split
    · exact later_onTrc h fun x => ⟨x.grants, x.fronts⟩
    · split
      · exact later_countDiscard h
      · exact ih (later_onTrc (later_countDiscard h) fun x => ⟨x.grants, x.fronts⟩)

theorem later_emitTraceBlock {src : Nat} {flushed : Bool} (h : Later ok s₀ s) :
    Later ok s₀ (emitTraceBlock src flushed s) := by
  unfold emitTraceBlock
  try dsimp only
  repeat' first
    | with_reducible first | assumption | apply later_onSource | apply later_when | apply later_chainBlock
    | with_reducible first | apply later_stageBlock
    | split
    | intro _

theorem later_sourceSet {r : Req} {source : Nat} {config : Word32} (h : Later ok s₀ s) :
    LaterReply ok s₀ (sourceSet r source config s) := by
  unfold sourceSet
  try dsimp only
  repeat' first
    | with_reducible first | assumption | apply later_deny | apply later_done | apply later_onSource
    | with_reducible first | apply later_emitTraceBlock
    | split

theorem later_execTraceSourceSet {r : Req} {source : Nat} {config : Word32} (h : Later ok s₀ s) :
    LaterOut ok s₀ (execTraceSourceSet r source config s) := by
  unfold execTraceSourceSet
  try dsimp only
  repeat' first
    | with_reducible first | assumption | apply later_run | apply later_serve | apply later_engineServed
    | with_reducible first | apply later_sourceSet
    | split
    | intro _

theorem later_execTraceGrant {r : Req} {mask : Word64} {levels : BitVec 8} {lenS : Nat} (h : Later ok s₀ s) :
    LaterOut ok s₀ (execTraceGrant r mask levels lenS s) := by
  unfold execTraceGrant
  refine later_run h fun s h => later_serve h fun s h => ?_
  dsimp only
  split
  · exact later_deny h
  · rename_i hl
    refine later_done (later_nvPush (later_onTrc h fun x => ⟨?_, x.fronts⟩))
    simp only [List.length_append, List.length_cons, List.length_nil]
    omega

theorem later_execTraceRevoke {r : Req} {grantId : Nat} (h : Later ok s₀ s) :
    LaterOut ok s₀ (execTraceRevoke r grantId s) := by
  unfold execTraceRevoke
  try dsimp only
  repeat' first
    | with_reducible first | assumption | apply later_run | apply later_serve | apply later_done
    | with_reducible first | apply later_endGrant | apply later_deny
    | split
    | intro _

theorem later_execTraceFlush {r : Req} {mask : Word64} (h : Later ok s₀ s) :
    LaterOut ok s₀ (execTraceFlush r mask s) := by
  unfold execTraceFlush
  try dsimp only
  repeat' first
    | with_reducible first | assumption | apply later_run | apply later_serve | apply later_engineServed
    | with_reducible first | apply later_done | apply later_forEach | apply later_emitTraceBlock
    | split
    | intro _

theorem later_execTraceChainSet {r : Req} {chain : Nat} {desc : Desc} (h : Later ok s₀ s) :
    LaterOut ok s₀ (execTraceChainSet r chain desc s) := by
  unfold execTraceChainSet
  try dsimp only
  repeat' first
    | with_reducible first | assumption | apply later_run | apply later_serve | apply later_engineServed
    | with_reducible first | apply later_deny | apply later_chainWithdraw | apply later_done
    | with_reducible first | apply later_restartChain | apply later_chainOpen
    | split
    | intro _

theorem later_execTraceStatus {r : Req} {source : Nat} (h : Later ok s₀ s) :
    LaterOut ok s₀ (execTraceStatus r source s) := by
  unfold execTraceStatus
  try dsimp only
  repeat' first
    | with_reducible first | assumption | apply later_run | apply later_serve | apply later_engineServed
    | with_reducible first | apply later_deny | apply later_done
    | split
    | intro _

theorem later_execUplShaperSet {r : Req} {cls : Nat} {rate : Nat} {cap : Nat} {quantum : Nat} (h : Later ok s₀ s) :
    LaterOut ok s₀ (execUplShaperSet r cls rate cap quantum s) := by
  unfold execUplShaperSet
  try dsimp only
  repeat' first
    | with_reducible first | assumption | apply later_run | apply later_serve | apply later_engineServed
    | with_reducible first | apply later_done | apply later_onUpl
    | exact fun x => ⟨x.accounts, x.byp, x.stride⟩
    | split
    | intro _

theorem later_execUplStandingSet {r : Req} {gatePort : Nat} {gateRate : Nat} {gateSpace : Nat} {gateLen : Nat} {kerbMargin : Nat} (h : Later ok s₀ s) :
    LaterOut ok s₀ (execUplStandingSet r gatePort gateRate gateSpace gateLen kerbMargin s) := by
  unfold execUplStandingSet
  try dsimp only
  repeat' first
    | with_reducible first | assumption | apply later_run | apply later_serve | apply later_engineServed
    | with_reducible first | apply later_deny | apply later_done | apply later_onUpl
    | exact fun x => ⟨x.accounts, x.byp, x.stride⟩
    | split
    | intro _

theorem later_execUplStatus {r : Req} {cls : Nat} (h : Later ok s₀ s) :
    LaterOut ok s₀ (execUplStatus r cls s) := by
  unfold execUplStatus
  try dsimp only
  repeat' first
    | with_reducible first | assumption | apply later_run | apply later_serve | apply later_engineServed
    | with_reducible first | apply later_done
    | split
    | intro _

theorem later_execPwrPark {r : Req} (h : Later ok s₀ s) :
    LaterOut ok s₀ (execPwrPark r s) := by
  unfold execPwrPark
  try dsimp only
  repeat' first
    | with_reducible first | assumption | apply later_run | apply later_serve | apply later_done | apply later_onPwr
    | split
    | intro _

theorem later_startQuiesce {d : Nat} {why : QuiesceFor} {timeout : Nat} (h : Later ok s₀ s) :
    Later ok s₀ (startQuiesce d why timeout s) := by
  unfold startQuiesce
  try dsimp only
  repeat' first
    | with_reducible first | assumption | apply later_onPwr
    | split

theorem later_beginSwitch {d : Nat} {on : Bool} (h : Later ok s₀ s) :
    Later ok s₀ (beginSwitch d on s) := by
  unfold beginSwitch
  try dsimp only
  repeat' first
    | with_reducible first | assumption | apply later_startQuiesce | apply later_startMove | apply later_onPwr
    | split

theorem later_execPwrDomainSet {r : Req} {domain : Nat} {state : Nat} (h : Later ok s₀ s) :
    LaterOut ok s₀ (execPwrDomainSet r domain state s) := by
  unfold execPwrDomainSet
  try dsimp only
  repeat' first
    | with_reducible first | assumption | apply later_run | apply later_serve | apply later_deny
    | with_reducible first | apply later_complete | apply later_later | apply later_beginSwitch
    | split
    | intro _
    | dsimp only
    | refine And.intro ?_ ?_

theorem later_execEngineReset {r : Req} {domain : Nat} {timeoutUs : Nat} (h : Later ok s₀ s) :
    LaterOut ok s₀ (execEngineReset r domain timeoutUs s) := by
  unfold execEngineReset
  try dsimp only
  repeat' first
    | with_reducible first | assumption | apply later_run | apply later_serve | apply later_deny | apply later_later
    | with_reducible first | apply later_startQuiesce | apply later_onHrw
    | split
    | intro _

theorem later_execResetRequest {r : Req} {confirm : Nat} (h : Later ok s₀ s) :
    LaterOut ok s₀ (execResetRequest r confirm s) := by
  unfold execResetRequest
  try dsimp only
  repeat' first
    | with_reducible first | assumption | apply later_run | apply later_serve | apply later_done | apply later_onRst
    | split
    | intro _

theorem later_execPwrStatus {r : Req} (h : Later ok s₀ s) :
    LaterOut ok s₀ (execPwrStatus r s) := by
  unfold execPwrStatus
  try dsimp only
  repeat' first
    | with_reducible first | assumption | apply later_run | apply later_serve | apply later_done
    | split
    | intro _

theorem later_execDumpTake {r : Req} {desc : Desc} {dest : BitVec 8} {atFt : Nat} (h : Later ok s₀ s) :
    LaterOut ok s₀ (execDumpTake r desc dest atFt s) := by
  unfold execDumpTake
  try dsimp only
  repeat' first
    | with_reducible first | assumption | apply later_run | apply later_serve | apply later_deny | apply later_later
    | with_reducible first | apply later_onDump
    | split
    | intro _

theorem later_execWfgBuild {r : Req} {desc : Desc} {atFt : Nat} (h : Later ok s₀ s) :
    LaterOut ok s₀ (execWfgBuild r desc atFt s) := by
  unfold execWfgBuild
  try dsimp only
  repeat' first
    | with_reducible first | assumption | apply later_run | apply later_serve | apply later_deny | apply later_draw
    | with_reducible first | apply later_when | apply later_raise | apply later_outputReply
    | split
    | intro _

theorem later_execNvlogRead {r : Req} {region : Nat} {offset : Nat} {desc : Option Desc} (h : Later ok s₀ s) :
    LaterOut ok s₀ (execNvlogRead r region offset desc s) := by
  unfold execNvlogRead
  try dsimp only
  repeat' first
    | with_reducible first | assumption | apply later_run | apply later_serve | apply later_outputReply
    | split
    | intro _
    | dsimp only
    | refine And.intro ?_ ?_

theorem later_execEpochReset {r : Req} {confirm : Nat} (h : Later ok s₀ s) :
    LaterOut ok s₀ (execEpochReset r confirm s) := by
  unfold execEpochReset
  try dsimp only
  repeat' first
    | with_reducible first | assumption | apply later_run | apply later_serve | apply later_deny | apply later_done
    | with_reducible first | apply later_nvPush
    | split
    | intro _

theorem later_execFwUpdate {r : Req} {desc : Desc} {image : FwImage} {atFt : Nat} (h : Later ok s₀ s) :
    LaterOut ok s₀ (execFwUpdate r desc image atFt s) := by
  unfold execFwUpdate
  try dsimp only
  repeat' first
    | with_reducible first | assumption | apply later_run | apply later_serve | apply later_deny | apply later_onStw
    | with_reducible first | apply later_complete
    | exact fun x => x
    | split
    | intro _
    | dsimp only
    | refine And.intro ?_ ?_

theorem later_execFwCommit {r : Req} (h : Later ok s₀ s) :
    LaterOut ok s₀ (execFwCommit r s) := by
  unfold execFwCommit
  try dsimp only
  repeat' first
    | with_reducible first | assumption | apply later_run | apply later_serve | apply later_onStw | apply later_nvPush
    | with_reducible first | apply later_when | apply later_closeAll | apply later_deny
    | exact fun x => x
    | split
    | intro _
    | dsimp only
    | refine And.intro ?_ ?_

theorem later_execFwStatus {r : Req} (h : Later ok s₀ s) :
    LaterOut ok s₀ (execFwStatus r s) := by
  unfold execFwStatus
  try dsimp only
  repeat' first
    | with_reducible first | assumption | apply later_run | apply later_serve | apply later_done
    | split
    | intro _

theorem later_hrwDiscard (h : Later ok s₀ s) :
    Later ok s₀ (hrwDiscard s) := by
  unfold hrwDiscard
  try dsimp only
  repeat' first
    | with_reducible first | assumption | apply later_onHrw

theorem later_hrwWriteS {priv : Nat} {f : State → State} (h : Later ok s₀ s) (hf : ∀ s, Later ok s₀ s → Later ok s₀ (f s)) :
    Later ok s₀ (hrwWriteS priv f s) := by
  unfold hrwWriteS
  try dsimp only
  repeat' first
    | with_reducible first | assumption | apply later_hrwDiscard | apply hf
    | split

theorem later_pmWrite {priv : Nat} {part : Nat} {f : State → State} (h : Later ok s₀ s) (hf : ∀ s, Later ok s₀ s → Later ok s₀ (f s)) :
    Later ok s₀ (pmWrite priv part f s) := by
  unfold pmWrite
  try dsimp only
  repeat' first
    | with_reducible first | assumption | apply later_hrwWriteS | apply later_when | apply later_isolationFault
    | with_reducible first | apply hf
    | split
    | intro _

theorem later_ringPm {n : Nat} {value : Nat} (h : Later ok s₀ s) :
    Later ok s₀ (ringPm n value s) := by
  unfold ringPm
  try dsimp only
  repeat' first
    | with_reducible first | assumption | apply later_hrwDiscard | apply later_onHrw
    | split

theorem later_execPmDoorbell {n : Nat} {priv : Nat} {part : Nat} {value : Word32} (h : Later ok s₀ s) :
    LaterOut ok s₀ (execPmDoorbell n priv part value s) := by
  unfold execPmDoorbell
  try dsimp only
  repeat' first
    | with_reducible first | assumption | apply later_run | apply later_pmWrite | apply later_ringPm
    | split
    | intro _

theorem later_clearDone {n : Nat} {value : Nat} (h : Later ok s₀ s) :
    Later ok s₀ (clearDone n value s) := by
  unfold clearDone
  try dsimp only
  repeat' first
    | with_reducible first | assumption | apply later_onHrw | apply later_raiseInt
    | split

theorem later_execPmDoneClear {n : Nat} {priv : Nat} {value : Word32} (h : Later ok s₀ s) :
    LaterOut ok s₀ (execPmDoneClear n priv value s) := by
  unfold execPmDoneClear
  try dsimp only
  repeat' first
    | with_reducible first | assumption | apply later_run | apply later_hrwWriteS | apply later_clearDone
    | split
    | intro _

theorem later_ringTenant {part : Nat} {value : Word64} {session : Nat} (h : Later ok s₀ s) :
    Later ok s₀ (ringTenant part value session s) := by
  unfold ringTenant
  split
  · exact h
  · split
    · refine later_onStw h fun _ => ?_
      simp only [List.length_append, List.length_cons, List.length_nil]
      omega
    · exact later_onHrw (later_onStw h fun x => x)

theorem later_writeTmDb {part : Nat} {size : Nat} {value : Word64} {session : Nat} (h : Later ok s₀ s) :
    Later ok s₀ (writeTmDb part size value session s) := by
  unfold writeTmDb
  try dsimp only
  repeat' first
    | with_reducible first | assumption | apply later_onHrw | apply later_onStw | apply later_hrwDiscard
    | with_reducible first | apply later_ringTenant
    | exact fun x => x
    | split

theorem later_execTmDb {y0 : Nat} {part : Nat} {size : Nat} {value : Word64} {session : Nat} (h : Later ok s₀ s) :
    LaterOut ok s₀ (execTmDb y0 part size value session s) := by
  unfold execTmDb
  try dsimp only
  repeat' first
    | with_reducible first | assumption | apply later_run | apply later_writeTmDb
    | split
    | intro _

theorem later_execFtLoRead {y0 : Nat} (h : Later ok s₀ s) :
    LaterOut ok s₀ (execFtLoRead y0 s) := by
  unfold execFtLoRead
  try dsimp only
  repeat' first
    | with_reducible first | assumption | apply later_run | apply later_when | apply later_emit | apply later_onHrw
    | split
    | intro _

theorem later_execIntStsClear {priv : Nat} {value : Word32} (h : Later ok s₀ s) :
    LaterOut ok s₀ (execIntStsClear priv value s) := by
  unfold execIntStsClear
  try dsimp only
  repeat' first
    | with_reducible first | assumption | apply later_run | apply later_hrwWriteS | apply later_onHrw
    | split
    | intro _

theorem later_beginWake (h : Later ok s₀ s) :
    Later ok s₀ (beginWake s) := by
  unfold beginWake
  try dsimp only
  repeat' first
    | with_reducible first | assumption | apply later_onPwr | apply later_when | apply later_emit
    | split
    | intro _

theorem later_wakeRequest (h : Later ok s₀ s) :
    Later ok s₀ (wakeRequest s) := by
  unfold wakeRequest
  try dsimp only
  repeat' first
    | with_reducible first | assumption | apply later_onPwr | apply later_beginWake
    | split

theorem later_writeWakeCtl {priv : Nat} {value : Word32} (h : Later ok s₀ s) :
    Later ok s₀ (writeWakeCtl priv value s) := by
  unfold writeWakeCtl
  try dsimp only
  repeat' first
    | with_reducible first | assumption | apply later_hrwDiscard | apply later_when | apply later_wakeRequest
    | split

theorem later_execWakeCtlWrite {priv : Nat} {value : Word32} (h : Later ok s₀ s) :
    LaterOut ok s₀ (execWakeCtlWrite priv value s) := by
  unfold execWakeCtlWrite
  try dsimp only
  repeat' first
    | with_reducible first | assumption | apply later_run | apply later_writeWakeCtl
    | split
    | intro _

theorem later_engRstBit {d : Nat} (h : Later ok s₀ s) :
    Later ok s₀ (engRstBit d s) := by
  unfold engRstBit
  try dsimp only
  repeat' first
    | with_reducible first | assumption | apply later_startQuiesce | apply later_onHrw
    | split

theorem later_execEngRstWrite {priv : Nat} {value : Word32} (h : Later ok s₀ s) :
    LaterOut ok s₀ (execEngRstWrite priv value s) := by
  unfold execEngRstWrite
  try dsimp only
  repeat' first
    | with_reducible first | assumption | apply later_run | apply later_hrwWriteS | apply later_forEach
    | with_reducible first | apply later_engRstBit
    | split
    | intro _

theorem later_ringBoot {value : Word32} (h : Later ok s₀ s) :
    Later ok s₀ (ringBoot value s) := by
  unfold ringBoot
  try dsimp only
  repeat' first
    | with_reducible first | assumption | apply later_when | apply later_emit
    | split
    | intro _

theorem later_execBootDb {priv : Nat} {value : Word32} (h : Later ok s₀ s) :
    LaterOut ok s₀ (execBootDb priv value s) := by
  unfold execBootDb
  try dsimp only
  repeat' first
    | with_reducible first | assumption | apply later_run | apply later_hrwWriteS | apply later_ringBoot
    | split
    | intro _

theorem later_pmReqWrite {n : Nat} {off : Nat} {bytes : List Byte} (h : Later ok s₀ s) :
    Later ok s₀ (pmReqWrite n off bytes s) := by
  unfold pmReqWrite
  try dsimp only
  repeat' first
    | with_reducible first | assumption | apply later_hrwDiscard | apply later_onHrw
    | split

theorem later_hrwPm {n : Nat} {o : Nat} {priv : Nat} {part : Nat} {size : Nat} {value : Word64} (h : Later ok s₀ s) :
    Later ok s₀ (hrwPm n o priv part size value s) := by
  unfold hrwPm
  try dsimp only
  repeat' first
    | with_reducible first | assumption | apply later_pmWrite | apply later_pmReqWrite | apply later_hrwWriteS
    | with_reducible first | apply later_clearDone | apply later_ringPm
    | split
    | intro _

theorem later_hrwWord {off : Nat} {v : Word32} (h : Later ok s₀ s) :
    Later ok s₀ (hrwWord off v s) := by
  unfold hrwWord
  try dsimp only
  repeat' first
    | with_reducible first | assumption | apply later_onHrw | apply later_forEach | apply later_engRstBit
    | with_reducible first | apply later_ringBoot
    | split
    | intro _

theorem later_hrwPlain {off : Nat} {priv : Nat} {size : Nat} {value : Word64} (h : Later ok s₀ s) :
    Later ok s₀ (hrwPlain off priv size value s) := by
  unfold hrwPlain
  try dsimp only
  repeat' first
    | with_reducible first | assumption | apply later_hrwWriteS | apply later_hrwWord | apply later_when
    | split
    | intro _

theorem later_execHrwRegisterWrite {offset : Nat} {priv : Nat} {part : Nat} {size : Nat} {value : Word64} {session : Nat} (h : Later ok s₀ s) :
    LaterOut ok s₀ (execHrwRegisterWrite offset priv part size value session s) := by
  unfold execHrwRegisterWrite
  try dsimp only
  repeat' first
    | with_reducible first | assumption | apply later_run | apply later_hrwPm | apply later_writeWakeCtl
    | with_reducible first | apply later_writeTmDb | apply later_hrwPlain
    | split
    | intro _

theorem later_execSbiRequest {bytes : List Byte} (h : Later ok s₀ s) :
    LaterOut ok s₀ (execSbiRequest bytes s) := by
  unfold execSbiRequest
  try dsimp only
  repeat' first
    | with_reducible first | assumption | apply later_run | apply later_wakeRequest | apply later_onSbi
    | exact fun x => x
    | split
    | intro _

theorem later_execSbiSelectResponse (h : Later ok s₀ s) :
    LaterOut ok s₀ (execSbiSelectResponse s) := by
  unfold execSbiSelectResponse
  try dsimp only
  repeat' first
    | with_reducible first | assumption | apply later_run | apply later_onSbi
    | exact fun x => x
    | split
    | intro _

theorem later_execSbiSelectAlert (h : Later ok s₀ s) :
    LaterOut ok s₀ (execSbiSelectAlert s) := by
  unfold execSbiSelectAlert
  try dsimp only
  repeat' first
    | with_reducible first | assumption | apply later_run | apply later_onSbi
    | exact fun x => x
    | split
    | intro _

theorem later_execSbiBootSegment {segment : List Byte} (h : Later ok s₀ s) :
    LaterOut ok s₀ (execSbiBootSegment segment s) := by
  unfold execSbiBootSegment
  try dsimp only
  repeat' first
    | with_reducible first | assumption | apply later_run | apply later_when | apply later_onSbi
    | exact fun x => x
    | split
    | intro _

theorem later_sbiTake (h : Later ok s₀ s) : Later ok s₀ (sbiTake s) := by
  unfold sbiTake
  split
  · split
    · exact later_emit h
    · rename_i r l e
      refine later_emit (later_onSbi h fun x => ?_)
      rw [e] at x
      exact (Nat.le_succ _).trans x
  · split
    · exact later_emit h
    · exact later_emit (later_onSbi h fun x => x)

theorem later_execSbiRead (h : Later ok s₀ s) :
    LaterOut ok s₀ (execSbiRead s) := by
  unfold execSbiRead
  try dsimp only
  repeat' first
    | with_reducible first | assumption | apply later_run | apply later_sbiTake

theorem later_exhaustIbi (h : Later ok s₀ s) :
    Later ok s₀ (exhaustIbi s) := by
  unfold exhaustIbi
  try dsimp only
  repeat' first
    | with_reducible first | assumption | apply later_emit
    | exact h.same _ ⟨rfl, rfl, rfl, rfl, rfl, rfl, rfl, rfl, rfl, rfl, rfl, rfl, rfl⟩
    | split

theorem later_execEntdaa {addr : Nat} (h : Later ok s₀ s) :
    LaterOut ok s₀ (execEntdaa addr s) := by
  unfold execEntdaa
  try dsimp only
  repeat' first
    | with_reducible first | assumption | apply later_run | apply later_exhaustIbi | apply later_when
    | with_reducible first | apply later_onSbi
    | exact fun x => x
    | split
    | intro _

theorem later_execSetdasa {addr : Nat} (h : Later ok s₀ s) :
    LaterOut ok s₀ (execSetdasa addr s) := by
  unfold execSetdasa
  try dsimp only
  repeat' first
    | with_reducible first | assumption | apply later_run | apply later_exhaustIbi | apply later_when
    | with_reducible first | apply later_onSbi
    | exact fun x => x
    | split
    | intro _

theorem later_execRstdaa (h : Later ok s₀ s) :
    LaterOut ok s₀ (execRstdaa s) := by
  unfold execRstdaa
  try dsimp only
  repeat' first
    | with_reducible first | assumption | apply later_run | apply later_onSbi
    | exact fun x => x
    | split
    | intro _

theorem later_execEnec {events : BitVec 8} (h : Later ok s₀ s) :
    LaterOut ok s₀ (execEnec events s) := by
  unfold execEnec
  try dsimp only
  repeat' first
    | with_reducible first | assumption | apply later_run | apply later_exhaustIbi | apply later_onSbi
    | exact fun x => x
    | split
    | intro _

theorem later_execDisec {events : BitVec 8} (h : Later ok s₀ s) :
    LaterOut ok s₀ (execDisec events s) := by
  unfold execDisec
  try dsimp only
  repeat' first
    | with_reducible first | assumption | apply later_run | apply later_onSbi
    | exact fun x => x
    | split
    | intro _

theorem later_execGetpid (h : Later ok s₀ s) :
    LaterOut ok s₀ (execGetpid s) := by
  unfold execGetpid
  try dsimp only
  repeat' first
    | with_reducible first | assumption | apply later_run | apply later_emit
    | split
    | intro _

theorem later_execGetbcr (h : Later ok s₀ s) :
    LaterOut ok s₀ (execGetbcr s) := by
  unfold execGetbcr
  try dsimp only
  repeat' first
    | with_reducible first | assumption | apply later_run | apply later_emit
    | split
    | intro _

theorem later_execGetdcr (h : Later ok s₀ s) :
    LaterOut ok s₀ (execGetdcr s) := by
  unfold execGetdcr
  try dsimp only
  repeat' first
    | with_reducible first | assumption | apply later_run | apply later_emit
    | split
    | intro _

theorem later_execGetstatus (h : Later ok s₀ s) : LaterOut ok s₀ (execGetstatus s) := by
  unfold execGetstatus
  exact later_run h fun s h => later_emit (h.same _ ⟨rfl, rfl, rfl, rfl, rfl, rfl, rfl, rfl, rfl, rfl, rfl, rfl, rfl⟩)

theorem later_execGetmwl (h : Later ok s₀ s) :
    LaterOut ok s₀ (execGetmwl s) := by
  unfold execGetmwl
  try dsimp only
  repeat' first
    | with_reducible first | assumption | apply later_run | apply later_emit
    | split
    | intro _

theorem later_execGetmrl (h : Later ok s₀ s) :
    LaterOut ok s₀ (execGetmrl s) := by
  unfold execGetmrl
  try dsimp only
  repeat' first
    | with_reducible first | assumption | apply later_run | apply later_emit
    | split
    | intro _

theorem later_hotJoin (h : Later ok s₀ s) :
    Later ok s₀ (hotJoin s) := by
  unfold hotJoin
  try dsimp only
  repeat' first
    | with_reducible first | assumption | apply later_emit | apply later_onSbi
    | exact fun x => x
    | split

theorem later_writeHistory {r : HistoryRec} (h : Later ok s₀ s) : Later ok s₀ (writeHistory r s) := by
  unfold writeHistory
  dsimp only
  split
  · refine later_onNv h ⟨le_refl _, le_refl _, fun _ m => m, fun _ => ?_⟩
    simp only [List.length_append, List.length_cons, List.length_nil]
    omega
  · split
    · refine later_onNv h ⟨le_refl _, le_refl _, fun _ m => m, fun _ => ?_⟩
      simp only [List.length_append, List.length_cons, List.length_nil]
      omega
    · exact later_raise (later_onNv h ⟨le_refl _, le_refl _, fun _ m => m, id⟩)

theorem mem_addOnce {α : Type} [DecidableEq α] {x a : α} {l : List α} (h : a ∈ l) : a ∈ addOnce x l := by
  unfold addOnce
  split
  · exact h
  · exact List.mem_append_left _ h

theorem later_commitRecord {r : NvRec} (h : Later ok s₀ s) : Later ok s₀ (commitRecord r s) := by
  unfold commitRecord
  split
  · exact later_onNv h ⟨le_refl _, le_refl _, fun _ m => m, id⟩
  · exact later_writeHistory h
  · exact later_onNv h ⟨le_refl _, le_refl _, fun _ m => m, id⟩
  · exact later_onNv h ⟨le_refl _, le_refl _, fun _ m => m, id⟩
  · split
    · exact later_onNv h ⟨le_max_left _ _, le_refl _, fun _ m => m, id⟩
    · exact later_onNv h ⟨le_refl _, le_max_left _ _, fun _ m => m, id⟩
  · exact later_onNv h ⟨le_refl _, le_refl _, fun _ m => m, id⟩
  · exact later_onNv h ⟨le_refl _, le_refl _, fun _ m => mem_addOnce m, id⟩

theorem later_endPulse (h : Later ok s₀ s) :
    Later ok s₀ (endPulse s) := by
  unfold endPulse
  try dsimp only
  repeat' first
    | with_reducible first | assumption | apply later_onNv | apply later_commitRecord
    | exact ⟨le_refl _, le_refl _, fun _ m => m, id⟩
    | split

theorem later_losePower (h : Later ok s₀ s) :
    Later ok s₀ (losePower s) := by
  unfold losePower
  try dsimp only
  repeat' first
    | with_reducible first | assumption | apply later_draw | apply later_endPulse | apply later_onNv
    | with_reducible first | apply later_onPwr | apply later_onRst
    | exact ⟨le_refl _, le_refl _, fun _ m => m, id⟩
    | split

theorem later_execPowerLoss (h : Later ok s₀ s) :
    LaterOut ok s₀ (execPowerLoss s) := by
  unfold execPowerLoss
  try dsimp only
  repeat' first
    | with_reducible first | assumption | apply later_run | apply later_losePower

theorem later_runRom (h : Later ok s₀ s) :
    Later ok s₀ (runRom s) := by
  unfold runRom
  try dsimp only
  repeat' first
    | with_reducible first | assumption | apply later_onPwr | apply later_exhaustIbi | apply later_onSbi
    | with_reducible first | apply later_nvPush
    | exact fun x => x
    | exact h.same _ ⟨rfl, rfl, rfl, rfl, rfl, rfl, rfl, rfl, rfl, rfl, rfl, rfl, rfl⟩
    | split

theorem later_passNs {n : Nat} (h : Later ok s₀ s) : Later ok s₀ (passNs n s) := by
  unfold passNs
  split
  · exact later_passEdges h
  · exact later_idle h

theorem later_untilOsc {t : Nat} (h : Later ok s₀ s) :
    Later ok s₀ (untilOsc t s) := by
  unfold untilOsc
  try dsimp only
  repeat' first
    | with_reducible first | assumption | apply later_passNs

theorem later_execPwrOkCoreRise (h : Later ok s₀ s) :
    LaterOut ok s₀ (execPwrOkCoreRise s) := by
  unfold execPwrOkCoreRise
  try dsimp only
  repeat' first
    | with_reducible first | assumption | apply later_run | apply later_onRst | apply later_runRom
    | with_reducible first | apply later_untilOsc | apply later_when | apply later_beginWake
    | split
    | intro _

theorem later_execBrownOut (h : Later ok s₀ s) :
    LaterOut ok s₀ (execBrownOut s) := by
  unfold execBrownOut
  try dsimp only
  repeat' first
    | with_reducible first | assumption | apply later_run | apply later_when | apply later_raiseSource
    | split
    | intro _

theorem later_execPinReset {lowNs : Nat} (h : Later ok s₀ s) :
    LaterOut ok s₀ (execPinReset lowNs s) := by
  unfold execPinReset
  try dsimp only
  repeat' first
    | with_reducible first | assumption | apply later_run | apply later_when | apply later_raiseSource
    | with_reducible first | apply later_onRst | apply later_passNs
    | split
    | intro _

theorem later_execPinResetRelease (h : Later ok s₀ s) :
    LaterOut ok s₀ (execPinResetRelease s) := by
  unfold execPinResetRelease
  try dsimp only
  repeat' first
    | with_reducible first | assumption | apply later_run | apply later_onRst
    | split
    | intro _

theorem later_enqueueRecord {cls : Nat} {src : Nat} {dst : Nat} {rtag : Nat} {rseq : Nat} {rlen : Nat} {resend : Bool} {bs : List Block} {o : Out} (h : Later ok s₀ s) :
    Later ok s₀ (enqueueRecord cls src dst rtag rseq rlen resend bs o s) := by
  unfold enqueueRecord
  try dsimp only
  repeat' first
    | with_reducible first | assumption | apply later_enqueue

theorem later_dumpUp {d : Dump} (h : Later ok s₀ s) :
    Later ok s₀ (dumpUp d s) := by
  unfold dumpUp
  try dsimp only
  repeat' first
    | with_reducible first | assumption | apply later_arcIngest | apply later_forEach | apply later_enqueueRecord
    | split
    | intro _

theorem later_deliverAuto (h : Later ok s₀ s) :
    Later ok s₀ (deliverAuto s) := by
  unfold deliverAuto
  try dsimp only
  repeat' first
    | with_reducible first | assumption | apply later_dumpUp | apply later_onDump
    | split

theorem later_releaseBlock (h : Later ok s₀ s) :
    Later ok s₀ (releaseBlock s) := by
  unfold releaseBlock
  try dsimp only
  repeat' first
    | with_reducible first | assumption | apply later_onRst | apply later_onPwr | apply later_onSmp
    | with_reducible first | apply later_onStw | apply later_forEach | apply later_reportSource | apply later_when
    | with_reducible first | apply later_raise | apply later_deliverAuto | apply later_issueWaiting
    | with_reducible first | apply later_afterRelease
    | exact fun x => x
    | split
    | intro _

theorem later_execSamplerRelease (h : Later ok s₀ s) :
    LaterOut ok s₀ (execSamplerRelease s) := by
  unfold execSamplerRelease
  try dsimp only
  repeat' first
    | with_reducible first | assumption | apply later_run | apply later_when | apply later_releaseBlock
    | split
    | intro _

theorem later_roles {l : List Role} (h : Later ok s₀ s) : Later ok s₀ { s with roles := l } :=
  h.same _ ⟨rfl, rfl, rfl, rfl, rfl, rfl, rfl, rfl, rfl, rfl, rfl, rfl, rfl⟩

theorem later_setRole {k : RoleKind} {want : Bool} {number replica gen : Nat} (h : Later ok s₀ s) :
    Later ok s₀ (setRole k want number replica gen s) := by
  unfold setRole
  split
  · exact later_when h fun _ => later_roles
  · split
    · exact h
    · exact later_when (later_roles h) fun _ => later_roles

theorem later_firstRole (h : Later ok s₀ s) :
    Later ok s₀ (firstRole s) := by
  unfold firstRole
  try dsimp only
  repeat' first
    | with_reducible first | assumption | apply later_setRole | apply later_tryAt
    | split

theorem later_placeRegions (h : Later ok s₀ s) :
    Later ok s₀ (placeRegions s) := by
  unfold placeRegions
  try dsimp only
  repeat' first
    | with_reducible first | assumption | apply later_onStw
    | exact fun x => x

theorem foldl_putBit_true (l : List Nat) {w : Nat} (f : BitVec w) (i : Nat) (h : f.getLsbD i = true) :
    (l.foldl (fun f k => putBit f k true) f).getLsbD i = true := by
  induction l generalizing f with
  | nil => exact h
  | cons k l ih => exact ih _ (getLsbD_putBit_true _ _ _ h)

theorem later_runImage {i : FwImage} (h : Later ok s₀ s) : Later ok s₀ (runImage i s) := by
  unfold runImage
  refine later_onPwr (later_forEach (later_when (later_onSmp (Later.withFence (later_onSbi (later_onStw h fun x => x) fun x => x) _
    fun i _ l => foldl_putBit_true _ _ _ l)) fun s h => later_placeRegions h) fun r s h => later_shrinkFor (later_onPwr h))

theorem later_execBootImageRun {image : FwImage} (h : Later ok s₀ s) :
    LaterOut ok s₀ (execBootImageRun image s) := by
  unfold execBootImageRun
  try dsimp only
  repeat' first
    | with_reducible first | assumption | apply later_run | apply later_firstRole | apply later_runImage
    | split
    | intro _

theorem later_execWake (h : Later ok s₀ s) :
    LaterOut ok s₀ (execWake s) := by
  unfold execWake
  try dsimp only
  repeat' first
    | with_reducible first | assumption | apply later_run | apply later_wakeRequest

theorem later_applyDoublings {k : Nat} (h : Later ok s₀ s) :
    Later ok s₀ (applyDoublings k s) := by
  unfold applyDoublings
  try dsimp only
  repeat' first
    | with_reducible first | assumption | apply later_onConf

theorem later_fitWindows {period : Nat} (h : Later ok s₀ s) :
    Later ok s₀ (fitWindows period s) := by
  unfold fitWindows
  try dsimp only
  repeat' first
    | with_reducible first | assumption | apply later_onConf | apply later_applyDoublings | apply later_when
    | with_reducible first | apply later_raise
    | split
    | intro _

theorem later_changePeriod {p : Nat} {e : Nat} (h : Later ok s₀ s) :
    Later ok s₀ (changePeriod p e s) := by
  unfold changePeriod
  try dsimp only
  repeat' first
    | with_reducible first | assumption | apply later_onGrid | apply later_onSmp | apply later_onConf
    | with_reducible first | apply later_onTree | apply later_onLed | apply later_when | apply later_fitWindows
    | with_reducible first | apply later_restretch
    | split
    | intro _

theorem later_dueChange {upTo : Nat} (h : Later ok s₀ s) :
    Later ok s₀ (dueChange upTo s) := by
  unfold dueChange
  try dsimp only
  repeat' first
    | with_reducible first | assumption | apply later_changePeriod
    | split

theorem later_duePeriod {upTo : Nat} (h : Later ok s₀ s) :
    Later ok s₀ (duePeriod upTo s) := by
  unfold duePeriod
  try dsimp only
  repeat' first
    | with_reducible first | assumption | apply later_dueChange

theorem later_endGap {n : Nat} (h : Later ok s₀ s) :
    Later ok s₀ (endGap n s) := by
  unfold endGap
  try dsimp only
  repeat' first
    | with_reducible first | assumption | apply later_onGrid
    | split

theorem later_onGauge {g : Nat} {f : Gauge → Gauge} (h : Later ok s₀ s) :
    Later ok s₀ (onGauge g f s) := by
  unfold onGauge
  try dsimp only
  repeat' first
    | with_reducible first | assumption | apply later_onSmp

theorem later_clearUpdates (h : Later ok s₀ s) :
    Later ok s₀ (clearUpdates s) := by
  unfold clearUpdates
  try dsimp only
  repeat' first
    | with_reducible first | assumption | apply later_forEach | apply later_onGauge
    | split
    | intro _

theorem later_onCounter {i : Nat} {f : Counter → Counter} (h : Later ok s₀ s) :
    Later ok s₀ (onCounter i f s) := by
  unfold onCounter
  try dsimp only
  repeat' first
    | with_reducible first | assumption | apply later_onSmp

theorem later_applyChange {ch : SamplerChange} (h : Later ok s₀ s) :
    Later ok s₀ (applyChange ch s) := by
  unfold applyChange
  try dsimp only
  repeat' first
    | with_reducible first | assumption | apply later_onSmp | apply later_onCounter | apply later_onGauge
    | with_reducible first | apply later_setSnapshot
    | split

theorem later_applyChanges {frame : Nat} {sel : SamplerChange → Bool} (h : Later ok s₀ s) :
    Later ok s₀ (applyChanges frame sel s) := by
  unfold applyChanges
  try dsimp only
  repeat' first
    | with_reducible first | assumption | apply later_onSmp | apply later_forEach | apply later_applyChange
    | split
    | intro _

theorem later_applyShapers (h : Later ok s₀ s) : Later ok s₀ (applyShapers s) := by
  unfold applyShapers
  dsimp only
  have k := later_forEach (l := s.upl.pendingShapers.filter fun p => p.2.2.2.2 != s.time.ft)
    (f := fun p => onClass p.1 (fun c => { c with rate := p.2.1, cap := p.2.2.1, quantum := p.2.2.2.1 })) h
    fun p s h => later_onClass h (fun c x => ⟨x.credit, x.deficit, x.factor⟩)
      (fun c _ => ⟨fun _ => Nat.add_comm _ _, fun _ => rfl⟩)
  have k := later_onUpl (f := fun u => { u with pendingShapers := u.pendingShapers.filter fun p => !(p.2.2.2.2 != s.time.ft) }) k
    fun x => ⟨x.accounts, x.byp, x.stride⟩
  split
  · exact k
  · exact later_onUpl k fun x => ⟨x.accounts, x.byp, x.stride⟩

theorem later_refillClass {cls : Nat} (h : Later ok s₀ s) : Later ok s₀ (refillClass cls s) := by
  unfold refillClass
  dsimp only
  refine later_onClass (later_when h fun s h => later_onClass h (fun c x => ⟨x.credit, x.deficit, ?_⟩)
    (fun c _ => ⟨fun _ => Nat.add_comm _ _, fun _ => rfl⟩)) (fun c x => ⟨?_, x.deficit, x.factor⟩)
    (fun c _ => ⟨fun _ => Nat.add_comm _ _, fun _ => rfl⟩)
  · have := x.factor
    unfold stepFactor
    dsimp only
    split <;> omega
  · have := x.credit
    dsimp only
    omega

theorem later_setStride {u : Nat} (hu : UplSound s.upl → 1 ≤ u ∧ u ≤ 64) (h : Later ok s₀ s) : Later ok s₀ (setStride u s) := by
  unfold setStride
  split
  · exact h
  · exact later_raise (later_onUpl h fun x => ⟨x.accounts, x.byp, hu x⟩)

theorem later_checkStride (h : Later ok s₀ s) : Later ok s₀ (checkStride s) := by
  unfold checkStride
  dsimp only
  split
  · exact later_setStride (fun x => by have := x.stride; omega) h
  · split
    · exact later_setStride (fun x => by have := x.stride; omega) h
    · exact h

theorem later_checkBacklog (h : Later ok s₀ s) :
    Later ok s₀ (checkBacklog s) := by
  unfold checkBacklog
  try dsimp only
  repeat' first
    | with_reducible first | assumption | apply later_raise | apply later_onUpl
    | exact fun x => ⟨x.accounts, x.byp, x.stride⟩
    | split

theorem later_checkLawC (h : Later ok s₀ s) :
    Later ok s₀ (checkLawC s) := by
  unfold checkLawC
  try dsimp only
  repeat' first
    | with_reducible first | assumption | apply later_when | apply later_raise | apply later_onUpl
    | exact fun x => ⟨x.accounts, x.byp, x.stride⟩
    | split
    | intro _

theorem later_refill (h : Later ok s₀ s) : Later ok s₀ (refill s) := by
  unfold refill
  dsimp only
  have k := later_forEach (l := [1, 2, 3, 4]) (f := refillClass) (later_applyShapers h) fun _ _ => later_refillClass
  apply later_onUplAll
  · apply later_checkStride
    apply later_checkBacklog
    apply later_checkLawC
    apply later_onUplAll k
    exact fun _ x => ⟨x.accounts, x.byp, x.stride⟩
  · exact fun _ x => ⟨x.accounts, x.byp, x.stride⟩

theorem later_openFrame {openFt : Nat} {partial_ : Bool} (h : Later ok s₀ s) :
    Later ok s₀ (openFrame openFt partial_ s) := by
  unfold openFrame
  try dsimp only
  repeat' first
    | with_reducible first | assumption | apply later_endGap | apply later_onGrid | apply later_when
    | with_reducible first | apply later_clearUpdates | apply later_applyChanges | apply later_refill
    | split
    | intro _

theorem later_becomeAwake (h : Later ok s₀ s) :
    Later ok s₀ (becomeAwake s) := by
  unfold becomeAwake
  try dsimp only
  repeat' first
    | with_reducible first | assumption | apply later_onPwr | apply later_onStw | apply later_duePeriod
    | with_reducible first | apply later_raiseInt | apply later_deliverAuto | apply later_when | apply later_openFrame
    | exact fun x => x
    | split
    | intro _

theorem later_execWakeComplete (h : Later ok s₀ s) :
    LaterOut ok s₀ (execWakeComplete s) := by
  unfold execWakeComplete
  try dsimp only
  repeat' first
    | with_reducible first | assumption | apply later_run | apply later_when | apply later_becomeAwake
    | split
    | intro _

theorem later_flushTrace (h : Later ok s₀ s) :
    Later ok s₀ (flushTrace s) := by
  unfold flushTrace
  try dsimp only
  repeat' first
    | with_reducible first | assumption | apply later_forEach | apply later_emitTraceBlock
    | split
    | intro _

theorem later_parkWork (h : Later ok s₀ s) :
    Later ok s₀ (parkWork s) := by
  unfold parkWork
  try dsimp only
  repeat' first
    | with_reducible first | assumption | apply later_stopQueries | apply later_abortRun | apply later_flushTrace
    | with_reducible first | apply later_completeWhere | apply later_onUpl
    | exact fun x => ⟨x.accounts, x.byp, x.stride⟩

theorem later_becomeParked (h : Later ok s₀ s) :
    Later ok s₀ (becomeParked s) := by
  unfold becomeParked
  try dsimp only
  repeat' first
    | with_reducible first | assumption | apply later_when | apply later_emit | apply later_parkWork
    | with_reducible first | apply later_onPwr | apply later_onRst | apply later_wakeRequest
    | split
    | intro _

theorem later_parkWait (h : Later ok s₀ s) :
    Later ok s₀ (parkWait s) := by
  unfold parkWait
  try dsimp only
  repeat' first
    | with_reducible first | assumption | apply later_when | apply later_untilFt
    | split
    | intro _

theorem later_execParkEntryComplete (h : Later ok s₀ s) :
    LaterOut ok s₀ (execParkEntryComplete s) := by
  unfold execParkEntryComplete
  try dsimp only
  repeat' first
    | with_reducible first | assumption | apply later_run | apply later_when | apply later_becomeParked
    | with_reducible first | apply later_parkWait
    | split
    | intro _

theorem later_execWatchdogTimeout (h : Later ok s₀ s) :
    LaterOut ok s₀ (execWatchdogTimeout s) := by
  unfold execWatchdogTimeout
  try dsimp only
  repeat' first
    | with_reducible first | assumption | apply later_run | apply later_when | apply later_raiseSource
    | with_reducible first | apply later_untilOsc
    | split
    | intro _

theorem later_execWatchdogPrewarning (h : Later ok s₀ s) :
    LaterOut ok s₀ (execWatchdogPrewarning s) := by
  unfold execWatchdogPrewarning
  try dsimp only
  repeat' first
    | with_reducible first | assumption | apply later_run | apply later_when | apply later_autoDump
    | with_reducible first | apply later_untilOsc
    | split
    | intro _

theorem later_dumpThen {trigger : Nat} {isEngine : Bool} {n : Nat} {now : State → State} (h : Later ok s₀ s) (hnow : ∀ s, Later ok s₀ s → Later ok s₀ (now s)) :
    Later ok s₀ (dumpThen trigger isEngine n now s) := by
  unfold dumpThen
  try dsimp only
  repeat' first
    | with_reducible first | assumption | apply later_onDump | apply later_autoDump | apply hnow
    | split

theorem later_execLockup (h : Later ok s₀ s) :
    LaterOut ok s₀ (execLockup s) := by
  unfold execLockup
  try dsimp only
  repeat' first
    | with_reducible first | assumption | apply later_run | apply later_when | apply later_dumpThen
    | with_reducible first | apply later_raiseSource
    | split
    | intro _

theorem later_execClockFailure {group : Nat} (h : Later ok s₀ s) :
    LaterOut ok s₀ (execClockFailure group s) := by
  unfold execClockFailure
  try dsimp only
  repeat' first
    | with_reducible first | assumption | apply later_run | apply later_when | apply later_dumpThen
    | with_reducible first | apply later_raiseSource | apply later_onPwr
    | split
    | intro _

theorem later_releaseHeld (h : Later ok s₀ s) :
    Later ok s₀ (releaseHeld s) := by
  unfold releaseHeld
  try dsimp only
  repeat' first
    | with_reducible first | assumption | apply later_applySources | apply later_onRst

theorem later_execNvlogWriteComplete (h : Later ok s₀ s) :
    LaterOut ok s₀ (execNvlogWriteComplete s) := by
  unfold execNvlogWriteComplete
  try dsimp only
  repeat' first
    | with_reducible first | assumption | apply later_run | apply later_when | apply later_releaseHeld
    | with_reducible first | apply later_endPulse
    | split
    | intro _

theorem later_flagFrame {b : BitVec 8} (h : Later ok s₀ s) :
    Later ok s₀ (flagFrame b s) := by
  unfold flagFrame
  try dsimp only
  repeat' first
    | with_reducible first | assumption | apply later_onGrid

theorem later_timeAlert {code : Nat} {ft : Nat} (h : Later ok s₀ s) :
    Later ok s₀ (timeAlert code ft s) := by
  unfold timeAlert
  try dsimp only
  repeat' first
    | with_reducible first | assumption | apply later_raiseSbi

theorem later_relocked (h : Later ok s₀ s) :
    Later ok s₀ (relocked s) := by
  unfold relocked
  try dsimp only
  repeat' first
    | with_reducible first | assumption | apply later_onTime | apply later_timeAlert | apply later_raiseInt
    | exact ⟨le_refl _, le_refl _, le_refl _, le_refl _⟩

theorem later_enterHoldover (h : Later ok s₀ s) :
    Later ok s₀ (enterHoldover s) := by
  unfold enterHoldover
  try dsimp only
  repeat' first
    | with_reducible first | assumption | apply later_onTime | apply later_timeAlert | apply later_raiseInt
    | with_reducible first | apply later_flagFrame
    | exact ⟨le_refl _, le_refl _, le_refl _, le_refl _⟩

theorem timeLater_correct (d : Int) (t : TimeFront) : TimeLater t (correct d t) := by
  unfold correct
  split
  · exact ⟨le_refl _, le_refl _, le_refl _, le_refl _⟩
  · split
    · exact ⟨Nat.le_add_right _ _, le_refl _, Nat.le_add_right _ _, Nat.le_add_right _ _⟩
    · exact ⟨le_refl _, le_refl _, le_refl _, le_refl _⟩

theorem later_trackWord {value : Nat} (h : Later ok s₀ s) : Later ok s₀ (trackWord value s) := by
  have k := later_onTime (f := fun t => { t with goodRef := t.refNs }) h ⟨le_refl _, le_refl _, le_refl _, le_refl _⟩
  unfold trackWord
  dsimp only
  split
  · exact later_when (later_when (later_onTime k (timeLater_correct _ _)) fun _ => later_flagFrame) fun _ => later_relocked
  · exact later_when (later_onTime k ⟨le_refl _, le_refl _, le_refl _, le_refl _⟩) fun _ => later_enterHoldover

theorem later_lockOn {value : Nat} (h : Later ok s₀ s) : Later ok s₀ (lockOn value s) := by
  have k := later_onTime (f := fun t => { t with
    state := .locked, since := t.osc, mismatchRun := 0, candidate := none, goodRef := t.refNs, goodFt := value, slew := 0,
    ft := max t.ft value, hold := t.ft - value, frac := 0, leftLocked := false }) h
    ⟨le_max_left _ _, le_refl _, le_refl _, le_refl _⟩
  unfold lockOn
  dsimp only
  have k := later_when (b := s.time.leftLocked) (f := fun s => timeAlert 0x0203 s.time.ft s) (later_raiseInt (bit := 4) k)
    fun _ => later_timeAlert
  split
  · exact later_when (later_onGrid (later_duePeriod k)) fun _ => later_openFrame
  · exact later_duePeriod k

theorem later_candidateWord {value : Nat} (h : Later ok s₀ s) :
    Later ok s₀ (candidateWord value s) := by
  unfold candidateWord
  try dsimp only
  repeat' first
    | with_reducible first | assumption | apply later_onTime | apply later_lockOn
    | exact ⟨le_refl _, le_refl _, le_refl _, le_refl _⟩
    | split

theorem later_execFtiTimeWord {edges : Nat} {word : BitVec 72} (h : Later ok s₀ s) :
    LaterOut ok s₀ (execFtiTimeWord edges word s) := by
  unfold execFtiTimeWord
  try dsimp only
  repeat' first
    | with_reducible first | assumption | apply later_run | apply later_passEdges | apply later_onTime
    | with_reducible first | apply later_trackWord | apply later_candidateWord
    | exact ⟨le_refl _, le_refl _, le_refl _, le_refl _⟩
    | split
    | intro _

theorem later_execFtiGoodWordTimeout (h : Later ok s₀ s) :
    LaterOut ok s₀ (execFtiGoodWordTimeout s) := by
  unfold execFtiGoodWordTimeout
  try dsimp only
  repeat' first
    | with_reducible first | assumption | apply later_run | apply later_when | apply later_enterHoldover
    | with_reducible first | apply later_passEdges
    | split
    | intro _

theorem later_closeGateNow (h : Later ok s₀ s) :
    Later ok s₀ (closeGateNow s) := by
  unfold closeGateNow
  try dsimp only
  repeat' first
    | with_reducible first | assumption | apply later_onUpl
    | exact fun x => ⟨x.accounts, x.byp, x.stride⟩
    | split

theorem later_enterLost (h : Later ok s₀ s) :
    Later ok s₀ (enterLost s) := by
  unfold enterLost
  try dsimp only
  repeat' first
    | with_reducible first | assumption | apply later_onTime | apply later_closeGateNow | apply later_loseFrames
    | with_reducible first | apply later_timeAlert | apply later_raiseInt
    | exact ⟨le_refl _, le_refl _, le_refl _, le_refl _⟩

theorem later_execHoldoverTimeout (h : Later ok s₀ s) :
    LaterOut ok s₀ (execHoldoverTimeout s) := by
  unfold execHoldoverTimeout
  try dsimp only
  repeat' first
    | with_reducible first | assumption | apply later_run | apply later_when | apply later_enterLost
    | with_reducible first | apply later_untilOsc
    | split
    | intro _

theorem later_execFtiRefLoss (h : Later ok s₀ s) : LaterOut ok s₀ (execFtiRefLoss s) := by
  unfold execFtiRefLoss
  refine later_run h fun s h => ?_
  dsimp only
  refine later_when (later_when h fun s h => later_onTime h ⟨le_refl _, Nat.le_add_right _ _, ?_, le_refl _⟩) fun _ => later_enterLost
  dsimp only
  split
  · exact le_refl _
  · exact Nat.le_add_right _ _

theorem later_paceFrame (h : Later ok s₀ s) :
    Later ok s₀ (paceFrame s) := by
  unfold paceFrame
  try dsimp only
  repeat' first
    | with_reducible first | assumption | apply later_onStw
    | exact fun x => x

theorem later_paceAlert {closeFt : Nat} {x : Nat × Nat} (h : Later ok s₀ s) :
    Later ok s₀ (paceAlert closeFt x s) := by
  unfold paceAlert
  try dsimp only
  repeat' first
    | with_reducible first | assumption | apply later_onStw | apply later_raiseAt
    | exact fun x => x
    | split

theorem later_treeBoundary {closed : Nat} (h : Later ok s₀ s) :
    Later ok s₀ (treeBoundary closed s) := by
  unfold treeBoundary
  try dsimp only
  repeat' first
    | with_reducible first | assumption | apply later_restretch | apply later_onTree

theorem later_afterClose {pace : List (Nat × Nat)} {f : OpenFrame} {b : Nat} (h : Later ok s₀ s) :
    Later ok s₀ (afterClose pace f b s) := by
  unfold afterClose
  try dsimp only
  repeat' first
    | with_reducible first | assumption | apply later_paceFrame | apply later_when | apply later_forEach
    | with_reducible first | apply later_paceAlert | apply later_treeBoundary | apply later_onConf
    | split
    | intro _

theorem later_applyDef {opens : Nat} {d : SeriesDesc} (h : Later ok s₀ s) :
    Later ok s₀ (applyDef opens d s) := by
  unfold applyDef
  try dsimp only
  repeat' first
    | with_reducible first | assumption | apply later_onConf

theorem later_applyDefs {frame : Nat} {opens : Nat} (h : Later ok s₀ s) :
    Later ok s₀ (applyDefs frame opens s) := by
  unfold applyDefs
  try dsimp only
  repeat' first
    | with_reducible first | assumption | apply later_forEach | apply later_applyDef | apply later_onConf
    | split
    | intro _

theorem later_closeArcade {f : OpenFrame} (h : Later ok s₀ s) :
    Later ok s₀ (closeArcade f s) := by
  unfold closeArcade
  try dsimp only
  repeat' first
    | with_reducible first | assumption | apply later_closeIngest | apply later_arcIngest

theorem later_onFrame {k : RoleKind} {frame : Nat} {period : Nat} {f : TierFrame → TierFrame} (h : Later ok s₀ s) :
    Later ok s₀ (onFrame k frame period f s) := by
  unfold onFrame
  try dsimp only
  repeat' first
    | with_reducible first | assumption | apply later_modRole

theorem later_spillCover {k : RoleKind} (h : Later ok s₀ s) :
    Later ok s₀ (spillCover k s) := by
  unfold spillCover
  try dsimp only
  repeat' first
    | with_reducible first | assumption | apply later_forEach | apply later_arcIngest | apply later_onFrame
    | split
    | intro _

theorem later_openTierFrame {frame : Nat} {period : Nat} (h : Later ok s₀ s) :
    Later ok s₀ (openTierFrame frame period s) := by
  unfold openTierFrame
  try dsimp only
  repeat' first
    | with_reducible first | assumption | apply later_forEach | apply later_spillCover
    | exact h.same _ ⟨rfl, rfl, rfl, rfl, rfl, rfl, rfl, rfl, rfl, rfl, rfl, rfl, rfl⟩
    | split
    | intro _

theorem later_closePlaza {f : OpenFrame} {b : Nat} (h : Later ok s₀ s) :
    Later ok s₀ (closePlaza f b s) := by
  unfold closePlaza
  try dsimp only
  repeat' first
    | with_reducible first | assumption | apply later_onGrid | apply later_applyDefs | apply later_closeArcade
    | with_reducible first | apply later_openTierFrame

theorem later_closeTallies (h : Later ok s₀ s) :
    Later ok s₀ (closeTallies s) := by
  unfold closeTallies
  try dsimp only
  repeat' first
    | with_reducible first | assumption | apply later_forEach | apply later_onCounter | apply later_onSmp
    | split
    | intro _

theorem later_sampleGauges {frame : Nat} (h : Later ok s₀ s) :
    Later ok s₀ (sampleGauges frame s) := by
  unfold sampleGauges
  try dsimp only
  repeat' first
    | with_reducible first | assumption | apply later_forEach | apply later_onGauge
    | split
    | intro _

theorem later_samplerBoundary {frame : Nat} (h : Later ok s₀ s) :
    Later ok s₀ (samplerBoundary frame s) := by
  unfold samplerBoundary
  try dsimp only
  repeat' first
    | with_reducible first | assumption | apply later_forEach | apply later_onConc | apply later_when
    | with_reducible first | apply later_applyChanges | apply later_closeTallies | apply later_sampleGauges
    | split
    | intro _

theorem later_missOverdue (h : Later ok s₀ s) :
    Later ok s₀ (missOverdue s) := by
  unfold missOverdue
  try dsimp only
  repeat' first
    | with_reducible first | assumption | apply later_onGrid | apply later_foldSeals
    | split

theorem later_closeLeaf {f : OpenFrame} {b : Nat} (h : Later ok s₀ s) :
    Later ok s₀ (closeLeaf f b s) := by
  unfold closeLeaf
  try dsimp only
  repeat' first
    | with_reducible first | assumption | apply later_loseFrames | apply later_samplerBoundary
    | with_reducible first | apply later_missOverdue | apply later_onGrid
    | split

theorem later_closeFrame {f : OpenFrame} {b : Nat} (h : Later ok s₀ s) :
    Later ok s₀ (closeFrame f b s) := by
  unfold closeFrame
  try dsimp only
  repeat' first
    | with_reducible first | assumption | apply later_closePlaza | apply later_closeLeaf
    | split

theorem later_stopAtBoundary {b : Nat} (h : Later ok s₀ s) :
    Later ok s₀ (stopAtBoundary b s) := by
  unfold stopAtBoundary
  try dsimp only
  repeat' first
    | with_reducible first | assumption | apply later_when | apply later_onGrid | apply later_onPwr
    | split
    | intro _

theorem later_startGap {first : Nat} {base : Nat} (h : Later ok s₀ s) :
    Later ok s₀ (startGap first base s) := by
  unfold startGap
  try dsimp only
  repeat' first
    | with_reducible first | assumption | apply later_onGrid

theorem later_boundary {pace : List (Nat × Nat)} {b : Nat} (h : Later ok s₀ s) :
    Later ok s₀ (boundary pace b s) := by
  unfold boundary
  try dsimp only
  repeat' first
    | with_reducible first | assumption | apply later_afterClose | apply later_closeFrame | apply later_duePeriod
    | with_reducible first | apply later_stopAtBoundary | apply later_openFrame | apply later_when
    | with_reducible first | apply later_startGap
    | split
    | intro _

theorem later_execFrameBoundary {pace : List (Nat × Nat)} {stopped : Word32} (h : Later ok s₀ s) :
    LaterOut ok s₀ (execFrameBoundary pace stopped s) := by
  unfold execFrameBoundary
  try dsimp only
  repeat' first
    | with_reducible first | assumption | apply later_run | apply later_when | apply later_stopGroups
    | with_reducible first | apply later_boundary | apply later_untilFt
    | split
    | intro _

theorem later_execPeriodChangeEffect (h : Later ok s₀ s) :
    LaterOut ok s₀ (execPeriodChangeEffect s) := by
  unfold execPeriodChangeEffect
  try dsimp only
  repeat' first
    | with_reducible first | assumption | apply later_run | apply later_when | apply later_duePeriod
    | with_reducible first | apply later_untilFt
    | split
    | intro _

theorem later_countEdge {c : Nat} {levels : Lines} (h : Later ok s₀ s) :
    Later ok s₀ (countEdge c levels s) := by
  unfold countEdge
  try dsimp only
  repeat' first
    | with_reducible first | assumption | apply later_forEach | apply later_onSmp | apply later_onConc
    | split
    | intro _

theorem later_execEvtOccurrence {conc : Nat} {levels : Lines} (h : Later ok s₀ s) :
    LaterOut ok s₀ (execEvtOccurrence conc levels s) := by
  unfold execEvtOccurrence
  try dsimp only
  repeat' first
    | with_reducible first | assumption | apply later_run | apply later_when | apply later_countEdge
    | split
    | intro _

theorem later_applyWord {line : Nat} {count : Nat} (h : Later ok s₀ s) :
    Later ok s₀ (applyWord line count s) := by
  unfold applyWord
  try dsimp only
  repeat' first
    | with_reducible first | assumption | apply later_onSmp

theorem later_turnOn {line : Nat} {half : Bool} (h : Later ok s₀ s) :
    Later ok s₀ (turnOn line half s) := by
  unfold turnOn
  try dsimp only
  repeat' first
    | with_reducible first | assumption | apply later_onConc
    | split

theorem later_ackWord {line : Nat} {half : Bool} {count : Nat} (h : Later ok s₀ s) :
    Later ok s₀ (ackWord line half count s) := by
  unfold ackWord
  try dsimp only
  repeat' first
    | with_reducible first | assumption | apply later_applyWord | apply later_onConc | apply later_onSmp
    | with_reducible first | apply later_turnOn

theorem later_parityError {c : Nat} (h : Later ok s₀ s) :
    Later ok s₀ (parityError c s) := by
  unfold parityError
  try dsimp only
  repeat' first
    | with_reducible first | assumption | apply later_onConc | apply later_when | apply later_joinCds
    | split
    | intro _

theorem later_execDrainWord {line : Nat} {half : Bool} {count : Nat} {parityOk : Bool} (h : Later ok s₀ s) :
    LaterOut ok s₀ (execDrainWord line half count parityOk s) := by
  unfold execDrainWord
  try dsimp only
  repeat' first
    | with_reducible first | assumption | apply later_run | apply later_ackWord | apply later_parityError
    | split
    | intro _

theorem later_sealConc {c : Nat} (h : Later ok s₀ s) :
    Later ok s₀ (sealConc c s) := by
  unfold sealConc
  try dsimp only
  repeat' first
    | with_reducible first | assumption | apply later_onSmp

theorem later_execSealWord {conc : Nat} (h : Later ok s₀ s) :
    LaterOut ok s₀ (execSealWord conc s) := by
  unfold execSealWord
  try dsimp only
  repeat' first
    | with_reducible first | assumption | apply later_run | apply later_settleGroup | apply later_onConc
    | with_reducible first | apply later_onGrid | apply later_sealConc
    | split
    | intro _

theorem later_markLate (h : Later ok s₀ s) :
    Later ok s₀ (markLate s) := by
  unfold markLate
  try dsimp only
  repeat' first
    | with_reducible first | assumption | apply later_onSmp

theorem later_retireIndex {i : Nat} (h : Later ok s₀ s) :
    Later ok s₀ (retireIndex i s) := by
  unfold retireIndex
  try dsimp only
  repeat' first
    | with_reducible first | assumption | apply later_raiseInt | apply later_nvPush | apply later_onSmp

theorem later_moveToSpare {i : Nat} (h : Later ok s₀ s) :
    Later ok s₀ (moveToSpare i s) := by
  unfold moveToSpare
  try dsimp only
  repeat' first
    | with_reducible first | assumption | apply later_onSmp | apply later_retireIndex | apply later_raise
    | with_reducible first | apply later_raiseInt | apply later_nvPush | apply later_onCounter
    | split

theorem later_countRepair {i : Nat} (h : Later ok s₀ s) :
    Later ok s₀ (countRepair i s) := by
  unfold countRepair
  try dsimp only
  repeat' first
    | with_reducible first | assumption | apply later_moveToSpare | apply later_onSmp

theorem later_handleFault {f : CounterFault} (h : Later ok s₀ s) :
    Later ok s₀ (handleFault f s) := by
  unfold handleFault
  try dsimp only
  repeat' first
    | with_reducible first | assumption | apply later_countRepair | apply later_onCounter
    | split

theorem later_postponeBinds {frame : Nat} {f : CounterFault} (h : Later ok s₀ s) :
    Later ok s₀ (postponeBinds frame f s) := by
  unfold postponeBinds
  try dsimp only
  repeat' first
    | with_reducible first | assumption | apply later_onSmp
    | split

theorem later_handleFaults {frame : Nat} {fs : List CounterFault} (h : Later ok s₀ s) :
    Later ok s₀ (handleFaults frame fs s) := by
  unfold handleFaults
  try dsimp only
  repeat' first
    | with_reducible first | assumption | apply later_forEach | apply later_handleFault | apply later_postponeBinds
    | split
    | intro _

theorem later_closeCounters {frame : Nat} {fs : List CounterFault} (h : Later ok s₀ s) :
    Later ok s₀ (closeCounters frame fs s).2 := by
  unfold closeCounters
  try dsimp only
  repeat' first
    | with_reducible first | assumption | apply later_forEach | apply later_onCounter | apply later_onSmp
    | split
    | intro _

theorem later_cmpNotice {k : Nat} (h : Later ok s₀ s) :
    Later ok s₀ (cmpNotice k s) := by
  unfold cmpNotice
  try dsimp only
  repeat' first
    | with_reducible first | assumption | apply later_when | apply later_notify | apply later_raise
    | split
    | intro _

theorem later_evaluate {k : Nat} {signed : Bool} {v : Nat} {ft : Nat} (h : Later ok s₀ s) :
    Later ok s₀ (evaluate k signed v ft s) := by
  unfold evaluate
  try dsimp only
  repeat' first
    | with_reducible first | assumption | apply later_onCmp | apply later_when | apply later_cmpNotice
    | split
    | intro _

theorem later_evalDeltas {es : List CounterEntry} {closeFt : Nat} (h : Later ok s₀ s) :
    Later ok s₀ (evalDeltas es closeFt s) := by
  unfold evalDeltas
  try dsimp only
  repeat' first
    | with_reducible first | assumption | apply later_forEach | apply later_evaluate
    | split
    | intro _

theorem later_writeSnapshot {p : Nat} {frame : Nat} {period : Nat} {closeFt : Nat} {missFirst : Nat} {missCount : Nat} {quality : BitVec 8} {es : List CounterEntry} {gs : List GaugeEntry} (h : Later ok s₀ s) :
    Later ok s₀ (writeSnapshot p frame period closeFt missFirst missCount quality es gs s) := by
  unfold writeSnapshot
  try dsimp only
  repeat' first
    | with_reducible first | assumption | apply later_onSmp | apply later_when | apply later_dropForeign
    | with_reducible first | apply later_chainWrite
    | split
    | intro _

theorem later_writeSnapshots {frame : Nat} {period : Nat} {closeFt : Nat} {q : BitVec 8} {es : List CounterEntry} {gs : List GaugeEntry} (h : Later ok s₀ s) :
    Later ok s₀ (writeSnapshots frame period closeFt q es gs s) := by
  unfold writeSnapshots
  try dsimp only
  repeat' first
    | with_reducible first | assumption | apply later_forEach | apply later_writeSnapshot
    | split
    | intro _

theorem later_takeIntoRecord (h : Later ok s₀ s) :
    Later ok s₀ (takeIntoRecord s) := by
  unfold takeIntoRecord
  try dsimp only
  repeat' first
    | with_reducible first | assumption | apply later_onGrid | apply later_onLed

theorem later_retainRecord {r : Record} (h : Later ok s₀ s) :
    Later ok s₀ (retainRecord r s).2 := by
  unfold retainRecord
  try dsimp only
  repeat' first
    | with_reducible first | assumption | apply later_onLed | apply later_chainWrite
    | split

theorem later_enqueueLedger {r : Record} {dst : Nat} {resend : Bool} (h : Later ok s₀ s) :
    Later ok s₀ (enqueueLedger r dst resend s) := by
  unfold enqueueLedger
  try dsimp only
  repeat' first
    | with_reducible first | assumption | apply later_enqueueRecord

theorem later_sendToParent {r : Record} {resend : Bool} (h : Later ok s₀ s) :
    Later ok s₀ (sendToParent r resend s) := by
  unfold sendToParent
  try dsimp only
  repeat' first
    | with_reducible first | assumption | apply later_enqueueLedger
    | split

theorem later_issueRecord {r : Record} (h : Later ok s₀ s) :
    Later ok s₀ (issueRecord r s) := by
  unfold issueRecord
  try dsimp only
  repeat' first
    | with_reducible first | assumption | apply later_onUpl | apply later_onLed | apply later_retainRecord
    | with_reducible first | apply later_sendToParent
    | exact fun x => ⟨x.accounts, x.byp, x.stride⟩

theorem later_formLedger {frame : Nat} {period : Nat} {quality : BitVec 8} {cs : List CounterEntry} {gs : List GaugeEntry} {ls : List LossEntry} (h : Later ok s₀ s) :
    Later ok s₀ (formLedger frame period quality cs gs ls s) := by
  unfold formLedger
  try dsimp only
  repeat' first
    | with_reducible first | assumption | apply later_takeIntoRecord | apply later_onLed | apply later_issueRecord
    | split

theorem later_mergerAbsent {frame : Nat} {es : List CounterEntry} {voids : List LossEntry} (h : Later ok s₀ s) :
    Later ok s₀ (mergerAbsent frame es voids s) := by
  unfold mergerAbsent
  try dsimp only
  repeat' first
    | with_reducible first | assumption | apply later_absentAt | apply later_onLed | apply later_onGrid

theorem later_takeLate {closeFt : Nat} (h : Later ok s₀ s) :
    Later ok s₀ (takeLate closeFt s).2 := by
  unfold takeLate
  try dsimp only
  repeat' first
    | with_reducible first | assumption | apply later_onConf

theorem later_updateSeries {frame period : Nat} {x : SeriesIn} (h : Later ok s₀ s) :
    Later ok s₀ (updateSeries frame period x s).2 := by
  unfold updateSeries
  dsimp only
  generalize engineUp 5 s = det
  have h := later_when (b := !det && !s.conf.series.isEmpty) h fun _ h => later_absentAt (req := 4) (d := 5) h
  revert h
  generalize when (!det && !s.conf.series.isEmpty) (absentAt 4 5) s = s
  intro h
  generalize s.conf.series = l
  suffices k : ∀ acc : List SeriesEntry × State, Later ok s₀ acc.2 → Later ok s₀ (l.foldl (fun acc e =>
      (acc.1 ++ (feedSeries det frame period x e.2).slots,
       raiseCodes acc.2.die (feedSeries det frame period x e.2)
         (onConf (fun c => { c with series := tins e.1 (feedSeries det frame period x e.2).series c.series }) acc.2))) acc).2 from
    k ([], s) h
  induction l with
  | nil => exact fun _ h => h
  | cons e l ih => exact fun acc h => ih _ (later_raiseCodes (later_onConf h))

theorem later_countWithheld {r : SeriesRecord} {entries : List SeriesEntry} {late : List LateEntry} (h : Later ok s₀ s) :
    Later ok s₀ (countWithheld r entries late s) := by
  unfold countWithheld
  try dsimp only
  repeat' first
    | with_reducible first | assumption | apply later_countOwn

theorem later_seriesFrame {frame : Nat} {period : Nat} {closeFt : Nat} {quality : BitVec 8} {es : List CounterEntry} {gs : List GaugeEntry} (h : Later ok s₀ s) :
    Later ok s₀ (seriesFrame frame period closeFt quality es gs s) := by
  unfold seriesFrame
  try dsimp only
  repeat' first
    | with_reducible first | assumption | apply later_takeLate | apply later_fitWindows | apply later_updateSeries
    | with_reducible first | apply later_absentAt | apply later_applyDefs | apply later_onConf
    | with_reducible first | apply later_countWithheld | apply later_enqueueSeries
    | split

theorem later_assembleVectors {frame : Nat} {period : Nat} {closeFt : Nat} {quality : BitVec 8} {x : SeriesIn} (h : Later ok s₀ s) :
    Later ok s₀ (assembleVectors frame period closeFt quality x s) := by
  unfold assembleVectors
  try dsimp only
  repeat' first
    | with_reducible first | assumption | apply later_absentAt | apply later_onTree
    | split

theorem later_formFrame {frame : Nat} {period : Nat} {closeFt : Nat} {q : BitVec 8} {fs : List CounterFault} (h : Later ok s₀ s) :
    Later ok s₀ (formFrame frame period closeFt q fs s) := by
  unfold formFrame
  try dsimp only
  repeat' first
    | with_reducible first | assumption | apply later_markLate | apply later_handleFaults | apply later_closeCounters
    | with_reducible first | apply later_evalDeltas | apply later_writeSnapshots | apply later_forEach
    | with_reducible first | apply later_finishRelease | apply later_formLedger | apply later_mergerAbsent
    | with_reducible first | apply later_seriesFrame | apply later_assembleVectors | apply later_sendDigestRecord
    | with_reducible first | apply later_onGrid | apply later_applyChanges
    | split
    | intro _

theorem later_execFrameSnapshotComplete {faults : List CounterFault} (h : Later ok s₀ s) :
    LaterOut ok s₀ (execFrameSnapshotComplete faults s) := by
  unfold execFrameSnapshotComplete
  try dsimp only
  repeat' first
    | with_reducible first | assumption | apply later_run | apply later_when | apply later_formFrame
    | split
    | intro _

theorem later_askImage {a : ImageAsk} (h : Later ok s₀ s) :
    Later ok s₀ (askImage a s) := by
  unfold askImage
  try dsimp only
  repeat' first
    | with_reducible first | assumption | apply later_onTree | apply later_forEach | apply later_sendControl
    | split
    | intro _

theorem later_completeScore {k : Option RoleKind} {i : TreeImage} {die : Nat} {frame : Nat} {frameEnd : Nat} {period : Nat} {delay : Nat} {v : Int} (h : Later ok s₀ s) :
    Later ok s₀ (completeScore k i die frame frameEnd period delay v s) := by
  unfold completeScore
  try dsimp only
  repeat' first
    | with_reducible first | assumption | apply later_when | apply later_raise | apply later_notify
    | with_reducible first | apply later_finishScore
    | split
    | intro _

theorem later_plazaScore {v : Vec} {t : TreeSlot} {nodeError : Bool} (h : Later ok s₀ s) :
    Later ok s₀ (plazaScore v t nodeError s) := by
  unfold plazaScore
  try dsimp only
  repeat' first
    | with_reducible first | assumption | apply later_askImage | apply later_failScore | apply later_sendScores
    | with_reducible first | apply later_completeScore
    | split

theorem later_forwardVector {v : Vec} {part : Int} {late : Bool} (h : Later ok s₀ s) :
    Later ok s₀ (forwardVector v part late s) := by
  unfold forwardVector
  try dsimp only
  repeat' first
    | with_reducible first | assumption | apply later_forEach | apply later_enqueueSeries
    | split
    | intro _

theorem later_leafScore {v : Vec} {t : TreeSlot} {nodeError : Bool} (h : Later ok s₀ s) :
    Later ok s₀ (leafScore v t nodeError s) := by
  unfold leafScore
  try dsimp only
  repeat' first
    | with_reducible first | assumption | apply later_askImage | apply later_failScore | apply later_completeScore
    | with_reducible first | apply later_forwardVector
    | split

theorem later_execScoreComplete {model : Nat} {die : Nat} {nodeError : Bool} (h : Later ok s₀ s) :
    LaterOut ok s₀ (execScoreComplete model die nodeError s) := by
  unfold execScoreComplete
  try dsimp only
  repeat' first
    | with_reducible first | assumption | apply later_run | apply later_when | apply later_onTree
    | with_reducible first | apply later_plazaScore | apply later_leafScore
    | split
    | intro _

theorem later_countLostVector {model : Nat} {die : Nat} {frame : Nat} (h : Later ok s₀ s) :
    Later ok s₀ (countLostVector model die frame s) := by
  unfold countLostVector
  try dsimp only
  repeat' first
    | with_reducible first | assumption | apply later_onTree
    | split

theorem later_dropParts {model : Nat} {die : Nat} {frame : Nat} (h : Later ok s₀ s) :
    Later ok s₀ (dropParts model die frame s) := by
  unfold dropParts
  try dsimp only
  repeat' first
    | with_reducible first | assumption | apply later_onTree

theorem later_dropScore {model : Nat} {die : Nat} {frame : Nat} (h : Later ok s₀ s) :
    Later ok s₀ (dropScore model die frame s) := by
  unfold dropScore
  try dsimp only
  repeat' first
    | with_reducible first | assumption | apply later_dropParts | apply later_onTree

theorem later_execScoreMissingTimeout {model : Nat} {die : Nat} {frame : Nat} (h : Later ok s₀ s) :
    LaterOut ok s₀ (execScoreMissingTimeout model die frame s) := by
  unfold execScoreMissingTimeout
  try dsimp only
  repeat' first
    | with_reducible first | assumption | apply later_run | apply later_when | apply later_untilFt
    | with_reducible first | apply later_countLostVector | apply later_failScore | apply later_dropScore
    | split
    | intro _

theorem later_evalGauge {g : Nat} {value : Nat} (h : Later ok s₀ s) :
    Later ok s₀ (evalGauge g value s) := by
  unfold evalGauge
  try dsimp only
  repeat' first
    | with_reducible first | assumption | apply later_forEach | apply later_when | apply later_evaluate
    | split
    | intro _

theorem later_execGaugeUpdate {conc : Nat} {idx : Nat} {value : Nat} (h : Later ok s₀ s) :
    LaterOut ok s₀ (execGaugeUpdate conc idx value s) := by
  unfold execGaugeUpdate
  try dsimp only
  repeat' first
    | with_reducible first | assumption | apply later_run | apply later_when | apply later_evalGauge
    | with_reducible first | apply later_onGauge
    | split
    | intro _

theorem mem_tdel {α : Type} {k : Nat} {e : Nat × α} {t : Tab α} (h : e ∈ tdel k t) : e ∈ t := by
  induction t with
  | nil => exact h
  | cons a t ih =>
    unfold tdel at h
    split at h
    · exact List.mem_cons_of_mem _ h
    · rcases List.mem_cons.mp h with h | h
      · exact h ▸ List.mem_cons_self
      · exact List.mem_cons_of_mem _ (ih h)

theorem mem_tins {α : Type} {k : Nat} {v : α} {e : Nat × α} {t : Tab α} (h : e ∈ tins k v t) : e = (k, v) ∨ e ∈ t := by
  induction t with
  | nil => exact .inl (by simpa [tins] using h)
  | cons a t ih =>
    unfold tins at h
    split at h
    · exact List.mem_cons.mp h
    · split at h
      · rcases List.mem_cons.mp h with h | h
        · exact .inl h
        · exact .inr (List.mem_cons_of_mem _ h)
      · rcases List.mem_cons.mp h with h | h
        · exact .inr (h ▸ List.mem_cons_self)
        · exact (ih h).imp id (List.mem_cons_of_mem _)

theorem mem_tput {α : Type} [DecidableEq α] {d : α} {k : Nat} {v : α} {e : Nat × α} {t : Tab α} (h : e ∈ tput d k v t) :
    e = (k, v) ∨ e ∈ t := by
  unfold tput at h
  split at h
  · exact .inr (mem_tdel h)
  · exact mem_tins h

theorem mem_of_tget {α : Type} {d : α} {k : Nat} {t : Tab α} (h : tget d k t ≠ d) : (k, tget d k t) ∈ t := by
  induction t with
  | nil => exact absurd rfl h
  | cons a t ih =>
    obtain ⟨i, w⟩ := a
    unfold tget at h ⊢
    split
    · rename_i e
      subst e
      exact List.mem_cons_self
    · rename_i e
      rw [if_neg e] at h
      exact List.mem_cons_of_mem _ (ih h)

theorem later_admitPacket {p : TrcPacket} (h : Later ok s₀ s) : Later ok s₀ (admitPacket p s) := by
  unfold admitPacket
  dsimp only
  split
  · exact later_onSource h
  · split
    · rename_i hl
      refine later_onTrc (later_onSource h) fun x => ⟨x.grants, fun e m => ?_⟩
      rcases mem_tput m with rfl | m
      · have hl : (tget [] p.front s.trc.fronts).length < (4 - trcClass (sourceOf (8 * p.front + p.channel) s).config) * 128 := hl
        have e : (onSource (8 * p.front + p.channel)
          (fun x => { x with admitted := x.admitted + 1, gap := 0, admitStart := false }) s).trc.fronts = s.trc.fronts := rfl
        rw [e]
        simp only [List.length_append, List.length_cons, List.length_nil]
        omega
      · exact x.fronts e m
    · exact later_onSource h

theorem later_execTracePacket {p : TrcPacket} (h : Later ok s₀ s) :
    LaterOut ok s₀ (execTracePacket p s) := by
  unfold execTracePacket
  try dsimp only
  repeat' first
    | with_reducible first | assumption | apply later_run | apply later_when | apply later_admitPacket
    | split
    | intro _

theorem later_addTracePkt {p : TracePkt} (h : Later ok s₀ s) :
    Later ok s₀ (addTracePkt p s) := by
  unfold addTracePkt
  try dsimp only
  repeat' first
    | with_reducible first | assumption | apply later_onSource | apply later_when | apply later_emitTraceBlock
    | split
    | intro _

theorem later_servePacket {f : Nat} (h : Later ok s₀ s) : Later ok s₀ (servePacket f s) := by
  unfold servePacket
  dsimp only
  split
  · exact h
  · rename_i e rest hq
    refine later_forEach (later_onSource (later_onTrc h fun x => ⟨x.grants, fun a m => ?_⟩)) fun _ _ k => later_addTracePkt k
    rcases mem_tput m with rfl | m
    · have q : tget [] f s.trc.fronts = e :: rest := hq
      have := x.fronts _ (mem_of_tget (d := []) (k := f) (by rw [q]; exact List.cons_ne_nil _ _))
      rw [q] at this
      exact (Nat.le_succ _).trans this
    · exact x.fronts a m

theorem later_serveFront {f : Nat} (h : Later ok s₀ s) :
    Later ok s₀ (serveFront f s) := by
  unfold serveFront
  try dsimp only
  repeat' first
    | with_reducible first | assumption | apply later_onTrc | apply later_servePacket
    | exact fun x => ⟨x.grants, x.fronts⟩
    | split

theorem later_execTraceServe {front : Nat} (h : Later ok s₀ s) :
    LaterOut ok s₀ (execTraceServe front s) := by
  unfold execTraceServe
  try dsimp only
  repeat' first
    | with_reducible first | assumption | apply later_run | apply later_when | apply later_serveFront
    | split
    | intro _

theorem later_execTraceBlockAgeFlush {source : Nat} (h : Later ok s₀ s) :
    LaterOut ok s₀ (execTraceBlockAgeFlush source s) := by
  unfold execTraceBlockAgeFlush
  try dsimp only
  repeat' first
    | with_reducible first | assumption | apply later_run | apply later_when | apply later_emitTraceBlock
    | with_reducible first | apply later_untilTimer
    | split
    | intro _

theorem later_execTraceGrantExpiry {grantId : Nat} (h : Later ok s₀ s) :
    LaterOut ok s₀ (execTraceGrantExpiry grantId s) := by
  unfold execTraceGrantExpiry
  try dsimp only
  repeat' first
    | with_reducible first | assumption | apply later_run | apply later_endGrant | apply later_untilTimer
    | split
    | intro _

theorem later_execGateOpen (h : Later ok s₀ s) :
    LaterOut ok s₀ (execGateOpen s) := by
  unfold execGateOpen
  try dsimp only
  repeat' first
    | with_reducible first | assumption | apply later_run | apply later_untilFt | apply later_onUpl
    | exact fun x => ⟨x.accounts, x.byp, x.stride⟩
    | split
    | intro _

theorem later_execPacketInject (h : Later ok s₀ s) :
    LaterOut ok s₀ (execPacketInject s) := by
  unfold execPacketInject
  try dsimp only
  repeat' first
    | with_reducible first | assumption | apply later_run | apply later_nextPacket | apply later_untilFt
    | split
    | intro _

theorem later_execKerbReached (h : Later ok s₀ s) :
    LaterOut ok s₀ (execKerbReached s) := by
  unfold execKerbReached
  try dsimp only
  repeat' first
    | with_reducible first | assumption | apply later_run | apply later_onGate | apply later_untilFt
    | split
    | intro _

theorem later_execGateClose (h : Later ok s₀ s) :
    LaterOut ok s₀ (execGateClose s) := by
  unfold execGateClose
  try dsimp only
  repeat' first
    | with_reducible first | assumption | apply later_run | apply later_onUpl | apply later_untilFt
    | exact fun x => ⟨x.accounts, x.byp, x.stride⟩
    | split
    | intro _

theorem later_logAlert {a : AlertEntry} {produced : Bool} (h : Later ok s₀ s) :
    Later ok s₀ (logAlert a produced s) := by
  unfold logAlert
  try dsimp only
  repeat' first
    | with_reducible first | assumption | apply later_arcIngest

theorem later_execBypSend (h : Later ok s₀ s) : LaterOut ok s₀ (execBypSend s) := by
  unfold execBypSend
  refine later_run h fun s h => ?_
  split
  · exact h
  · rename_i a t e
    split
    · exact h
    · refine later_logAlert (later_emit (later_onUpl h fun x => ⟨x.accounts, ?_, x.stride⟩))
      have := x.byp
      rw [e] at this
      exact (Nat.le_succ _).trans this

theorem later_countLoss {cls : Nat} {src : Nat} {n : Nat} (h : Later ok s₀ s) :
    Later ok s₀ (countLoss cls src n s) := by
  unfold countLoss
  try dsimp only
  repeat' first
    | with_reducible first | assumption | apply later_countOwn | apply later_onUpl
    | exact fun x => ⟨x.accounts, x.byp, x.stride⟩

theorem later_checkSeq {p : Packet} (h : Later ok s₀ s) :
    Later ok s₀ (checkSeq p s) := by
  unfold checkSeq
  try dsimp only
  repeat' first
    | with_reducible first | assumption | apply later_when | apply later_countLoss | apply later_onUpl
    | exact fun x => ⟨x.accounts, x.byp, x.stride⟩
    | split
    | intro _

theorem later_countMark {p : Packet} (h : Later ok s₀ s) :
    Later ok s₀ (countMark p s) := by
  unfold countMark
  try dsimp only
  repeat' first
    | with_reducible first | assumption | apply later_onUpl
    | exact fun x => ⟨x.accounts, x.byp, x.stride⟩
    | split

theorem later_heardFrom {peer0 : Nat} (h : Later ok s₀ s) :
    Later ok s₀ (heardFrom peer0 s) := by
  unfold heardFrom
  try dsimp only
  repeat' first
    | with_reducible first | assumption | apply later_onPlace

theorem later_keepRaw {p : Packet} {body : PacketBody} (h : Later ok s₀ s) :
    Later ok s₀ (keepRaw p body s) := by
  unfold keepRaw
  try dsimp only
  repeat' first
    | with_reducible first | assumption | apply later_arcIngest
    | split

theorem later_assemble {p : Packet} (h : Later ok s₀ s) :
    Later ok s₀ (assemble p s) := by
  unfold assemble
  try dsimp only
  repeat' first
    | with_reducible first | assumption | apply later_onUpl
    | exact fun x => ⟨x.accounts, x.byp, x.stride⟩
    | split

theorem later_takeEcho {p : Packet} (h : Later ok s₀ s) : Later ok s₀ (takeEcho p s) := by
  have k : ∀ cls s, Later ok s₀ s → Later ok s₀ (onClass cls (fun c => { c with echoed := true }) s) := fun cls s h =>
    later_onClass h (fun c x => ⟨x.credit, x.deficit, x.factor⟩) (fun c _ => ⟨fun _ => Nat.add_comm _ _, fun _ => rfl⟩)
  unfold takeEcho
  split
  · exact h
  · exact later_when (later_when h (k 3)) (k 4)

theorem later_execDnlPacket {p : Packet} {congested : Bool} {stagingFull : Bool} {body : PacketBody} (h : Later ok s₀ s) :
    LaterOut ok s₀ (execDnlPacket p congested stagingFull body s) := by
  unfold execDnlPacket
  try dsimp only
  repeat' first
    | with_reducible first | assumption | apply later_run | apply later_countLoss | apply later_checkSeq
    | with_reducible first | apply later_when | apply later_countMark | apply later_raise | apply later_onUpl
    | with_reducible first | apply later_heardFrom | apply later_keepRaw | apply later_assemble | apply later_takeEcho
    | exact fun x => ⟨x.accounts, x.byp, x.stride⟩
    | split
    | intro _

theorem later_atMerger {f : State → State} (h : Later ok s₀ s) (hf : ∀ s, Later ok s₀ s → Later ok s₀ (f s)) :
    Later ok s₀ (atMerger f s) := by
  unfold atMerger
  try dsimp only
  repeat' first
    | with_reducible first | assumption | apply later_when | apply later_toEngine | apply hf
    | split
    | intro _

theorem later_takeSuccession (h : Later ok s₀ s) :
    Later ok s₀ (takeSuccession s) := by
  unfold takeSuccession
  try dsimp only
  repeat' first
    | with_reducible first | assumption | apply later_draw | apply later_when | apply later_setRole
    | split
    | intro _

theorem later_hearQuarter {key : Nat} (h : Later ok s₀ s) :
    Later ok s₀ (hearQuarter key s) := by
  unfold hearQuarter
  try dsimp only
  repeat' first
    | with_reducible first | assumption | apply later_takeSuccession | apply later_onPlace

theorem later_ensureChild {k : RoleKind} {rec : Record} (h : Later ok s₀ s) :
    Later ok s₀ (ensureChild k rec s) := by
  unfold ensureChild
  try dsimp only
  repeat' first
    | with_reducible first | assumption | apply later_modRole
    | split

theorem later_seeGeneration {g : Nat} (h : Later ok s₀ s) :
    Later ok s₀ (seeGeneration g s) := by
  unfold seeGeneration
  try dsimp only
  repeat' first
    | with_reducible first | assumption | apply later_onPlace

theorem later_takeAlerts {k : RoleKind} (h : Later ok s₀ s) :
    Later ok s₀ (takeAlerts k s).2 := by
  unfold takeAlerts
  try dsimp only
  repeat' first
    | with_reducible first | assumption | apply later_modRole | apply later_onLed
    | split

theorem later_sinkRecord {r : Record} (h : Later ok s₀ s) :
    Later ok s₀ (sinkRecord r s) := by
  unfold sinkRecord
  try dsimp only
  repeat' first
    | with_reducible first | assumption | apply later_chainWrite | apply later_onLed
    | split

theorem later_sendRoleRecord {k : RoleKind} {r0 : Record} {resend : Bool} (h : Later ok s₀ s) :
    Later ok s₀ (sendRoleRecord k r0 resend s) := by
  unfold sendRoleRecord
  try dsimp only
  repeat' first
    | with_reducible first | assumption | apply later_onUpl | apply later_modRole | apply later_arcIngest
    | with_reducible first | apply later_forEach | apply later_enqueueLedger | apply later_when
    | with_reducible first | apply later_sinkRecord
    | exact fun x => ⟨x.accounts, x.byp, x.stride⟩
    | split
    | intro _

theorem later_amend {k : RoleKind} {frame : Nat} {period : Nat} {a : Added} {st : List ChildStatus} (h : Later ok s₀ s) :
    Later ok s₀ (amend k frame period a st s) := by
  unfold amend
  try dsimp only
  repeat' first
    | with_reducible first | assumption | apply later_takeAlerts | apply later_sendRoleRecord
    | split

theorem later_contribute {k : RoleKind} {frame : Nat} {period : Nat} {a : Added} {st : List ChildStatus} (h : Later ok s₀ s) :
    Later ok s₀ (contribute k frame period a st s) := by
  unfold contribute
  try dsimp only
  repeat' first
    | with_reducible first | assumption | apply later_onFrame | apply later_when | apply later_amend
    | split
    | intro _

theorem later_endChildEpoch {k : RoleKind} {c : Child} {epoch : Nat} {opens : Nat} (h : Later ok s₀ s) :
    Later ok s₀ (endChildEpoch k c epoch opens s) := by
  unfold endChildEpoch
  try dsimp only
  repeat' first
    | with_reducible first | assumption | apply later_forEach | apply later_contribute | apply later_onFrame
    | with_reducible first | apply later_when | apply later_onConf | apply later_onChild
    | split
    | intro _

theorem later_requestGap {k : RoleKind} {rec : Record} {lost : Nat} {c : Child} (h : Later ok s₀ s) :
    Later ok s₀ (requestGap k rec lost c s) := by
  unfold requestGap
  try dsimp only
  repeat' first
    | with_reducible first | assumption | apply later_forEach | apply later_request
    | split
    | intro _

theorem later_keepRecord {rec : Record} {late : Bool} {mismatch : Bool} {k : RoleKind} (h : Later ok s₀ s) :
    Later ok s₀ (keepRecord rec late mismatch k s) := by
  unfold keepRecord
  try dsimp only
  repeat' first
    | with_reducible first | assumption | apply later_arcIngest

theorem later_lateRecord {k : RoleKind} {rec : Record} (h : Later ok s₀ s) :
    Later ok s₀ (lateRecord k rec s) := by
  unfold lateRecord
  try dsimp only
  repeat' first
    | with_reducible first | assumption | apply later_keepRecord | apply later_modRole

theorem later_mismatchRecord {k : RoleKind} {rec : Record} {c : Child} (h : Later ok s₀ s) :
    Later ok s₀ (mismatchRecord k rec c s) := by
  unfold mismatchRecord
  try dsimp only
  repeat' first
    | with_reducible first | assumption | apply later_modRole | apply later_keepRecord | apply later_contribute
    | split

theorem later_unhold {k : RoleKind} {rec_ : Record} (h : Later ok s₀ s) :
    Later ok s₀ (unhold k rec_ s) := by
  unfold unhold
  try dsimp only
  repeat' first
    | with_reducible first | assumption | apply later_onFrame

theorem later_holdRecord {k : RoleKind} {hr : HeldRecord} {c : Child} (h : Later ok s₀ s) :
    Later ok s₀ (holdRecord k hr c s) := by
  unfold holdRecord
  try dsimp only
  repeat' first
    | with_reducible first | assumption | apply later_onFrame | apply later_unhold | apply later_sendAck
    | with_reducible first | apply later_forEach | apply later_request
    | split
    | intro _

theorem later_ackRecord {k : RoleKind} {src : Nat} (h : Later ok s₀ s) :
    Later ok s₀ (ackRecord k src s) := by
  unfold ackRecord
  try dsimp only
  repeat' first
    | with_reducible first | assumption | apply later_sendAck | apply later_onChild
    | split

theorem later_roleAlert {k : RoleKind} {a : AlertEntry} (h : Later ok s₀ s) :
    Later ok s₀ (roleAlert k a s) := by
  unfold roleAlert
  try dsimp only
  repeat' first
    | with_reducible first | assumption | apply later_modRole | apply later_notify | apply later_bypQueue
    | split

theorem later_noteDispute {rec : Record} (h : Later ok s₀ s) :
    Later ok s₀ (noteDispute rec s) := by
  unfold noteDispute
  try dsimp only
  repeat' first
    | with_reducible first | assumption | apply later_onFrame | apply later_countOwn | apply later_roleAlert
    | with_reducible first | apply later_bypQueue | apply later_onLed
    | split

theorem later_mergeOpen {k : RoleKind} {p : Report} {r : Role} (h : Later ok s₀ s) :
    Later ok s₀ (mergeOpen k p r s) := by
  unfold mergeOpen
  try dsimp only
  repeat' first
    | with_reducible first | assumption | apply later_roleAlert | apply later_modRole
    | split

theorem later_stormAdd {k : RoleKind} {e0 : StormEntry} (h : Later ok s₀ s) :
    Later ok s₀ (stormAdd k e0 s) := by
  unfold stormAdd
  try dsimp only
  repeat' first
    | with_reducible first | assumption | apply later_modRole
    | split

theorem later_mergeCounted {k : RoleKind} {p : Report} {r : Role} (h : Later ok s₀ s) :
    Later ok s₀ (mergeCounted k p r s) := by
  unfold mergeCounted
  try dsimp only
  repeat' first
    | with_reducible first | assumption | apply later_roleAlert | apply later_modRole | apply later_stormAdd
    | split

theorem later_takeReport {k : RoleKind} {p : Report} (h : Later ok s₀ s) :
    Later ok s₀ (takeReport k p s) := by
  unfold takeReport
  try dsimp only
  repeat' first
    | with_reducible first | assumption | apply later_modRole | apply later_mergeOpen | apply later_mergeCounted
    | split

theorem later_takeStorm {k : RoleKind} {e : StormEntry} (h : Later ok s₀ s) :
    Later ok s₀ (takeStorm k e s) := by
  unfold takeStorm
  try dsimp only
  repeat' first
    | with_reducible first | assumption | apply later_modRole | apply later_roleAlert | apply later_stormAdd
    | split

theorem later_takeRecordAlerts {k : RoleKind} {l : List AlertEntry} (h : Later ok s₀ s) :
    Later ok s₀ (takeRecordAlerts k l s) := by
  unfold takeRecordAlerts
  try dsimp only
  repeat' first
    | with_reducible first | assumption | apply later_forEach | apply later_takeReport | apply later_takeStorm
    | split
    | intro _

theorem later_sendTransfer {die : Nat} {frame : Nat} (h : Later ok s₀ s) :
    Later ok s₀ (sendTransfer die frame s) := by
  unfold sendTransfer
  try dsimp only
  repeat' first
    | with_reducible first | assumption | apply later_draw | apply later_onStw | apply later_sendControl
    | with_reducible first | apply later_modRole
    | exact fun x => x
    | split

theorem later_takeCensus {rec : Record} (h : Later ok s₀ s) :
    Later ok s₀ (takeCensus rec s) := by
  unfold takeCensus
  try dsimp only
  repeat' first
    | with_reducible first | assumption | apply later_onFrame | apply later_modRole | apply later_forEach
    | with_reducible first | apply later_sendTransfer
    | split
    | intro _

theorem later_takeLeaves {rec : Record} (h : Later ok s₀ s) :
    Later ok s₀ (takeLeaves rec s) := by
  unfold takeLeaves
  try dsimp only
  repeat' first
    | with_reducible first | assumption | apply later_onFrame

theorem later_mergeHeld {k : RoleKind} {hr : HeldRecord} {c : Child} (h : Later ok s₀ s) :
    Later ok s₀ (mergeHeld k hr c s) := by
  unfold mergeHeld
  try dsimp only
  repeat' first
    | with_reducible first | assumption | apply later_modRole | apply later_onFrame | apply later_contribute
    | with_reducible first | apply later_onChild | apply later_takeRecordAlerts | apply later_when
    | with_reducible first | apply later_takeCensus | apply later_takeLeaves | apply later_ackRecord
    | split
    | intro _

theorem later_judgeCover {k : RoleKind} {hr : HeldRecord} {again : Bool} {c : Child} (h : Later ok s₀ s) :
    Later ok s₀ (judgeCover k hr again c s) := by
  unfold judgeCover
  try dsimp only
  repeat' first
    | with_reducible first | assumption | apply later_ackRecord | apply later_modRole | apply later_mergeHeld
    | with_reducible first | apply later_onFrame | apply later_sendAck | apply later_request
    | split

theorem later_adopt {q : Nat} {frame : Nat} {period : Nat} {replica : Nat} (h : Later ok s₀ s) :
    Later ok s₀ (adopt q frame period replica s) := by
  unfold adopt
  try dsimp only
  repeat' first
    | with_reducible first | assumption | apply later_modRole

theorem later_forumRecord {hr : HeldRecord} {again : Bool} {c : Child} (h : Later ok s₀ s) :
    Later ok s₀ (forumRecord hr again c s) := by
  unfold forumRecord
  try dsimp only
  repeat' first
    | with_reducible first | assumption | apply later_ackRecord | apply later_modRole | apply later_when
    | with_reducible first | apply later_noteDispute | apply later_onFrame | apply later_unhold
    | with_reducible first | apply later_judgeCover | apply later_adopt
    | split
    | intro _

theorem later_takeRecord {k : RoleKind} {hr : HeldRecord} {r : Role} {c : Child} (h : Later ok s₀ s) :
    Later ok s₀ (takeRecord k hr r c s) := by
  unfold takeRecord
  try dsimp only
  repeat' first
    | with_reducible first | assumption | apply later_onChild | apply later_when | apply later_requestGap
    | with_reducible first | apply later_lateRecord | apply later_mismatchRecord | apply later_keepRecord
    | with_reducible first | apply later_modRole | apply later_holdRecord | apply later_forumRecord
    | with_reducible first | apply later_judgeCover | apply later_unhold
    | split
    | intro _

theorem later_receiveRecord {k : RoleKind} {hr : HeldRecord} (h : Later ok s₀ s) :
    Later ok s₀ (receiveRecord k hr s) := by
  unfold receiveRecord
  try dsimp only
  repeat' first
    | with_reducible first | assumption | apply later_ensureChild | apply later_seeGeneration
    | with_reducible first | apply later_endChildEpoch | apply later_takeRecord
    | split

theorem later_execLedgerRecordReceive {role : RoleKind} {rec_ : Record} {missing : List Nat} {lostCounters : List CounterEntry} {lostGauges : List GaugeEntry} (h : Later ok s₀ s) :
    LaterOut ok s₀ (execLedgerRecordReceive role rec_ missing lostCounters lostGauges s) := by
  unfold execLedgerRecordReceive
  try dsimp only
  repeat' first
    | with_reducible first | assumption | apply later_run | apply later_atMerger | apply later_when
    | with_reducible first | apply later_hearQuarter | apply later_receiveRecord | apply later_feedTemplates
    | split
    | intro _

theorem later_adoptQuarters {frame : Nat} {period : Nat} (h : Later ok s₀ s) :
    Later ok s₀ (adoptQuarters frame period s) := by
  unfold adoptQuarters
  try dsimp only
  repeat' first
    | with_reducible first | assumption | apply later_forEach | apply later_adopt | apply later_unhold
    | with_reducible first | apply later_judgeCover | apply later_ackRecord
    | split
    | intro _

theorem later_takeOwn {k : RoleKind} (h : Later ok s₀ s) :
    Later ok s₀ (takeOwn k s).2 := by
  unfold takeOwn
  try dsimp only
  repeat' first
    | with_reducible first | assumption | apply later_onLed
    | split

theorem later_closePrimary {k : RoleKind} {frame : Nat} {period : Nat} (h : Later ok s₀ s) :
    Later ok s₀ (closePrimary k frame period s) := by
  unfold closePrimary
  try dsimp only
  repeat' first
    | with_reducible first | assumption | apply later_when | apply later_adoptQuarters | apply later_takeAlerts
    | with_reducible first | apply later_takeOwn | apply later_onFrame | apply later_forEach | apply later_request
    | with_reducible first | apply later_sendRoleRecord | apply later_sendAck
    | split
    | intro _

theorem later_closeTemplates {frame : Nat} {period : Nat} (h : Later ok s₀ s) :
    Later ok s₀ (closeTemplates frame period s) := by
  unfold closeTemplates
  try dsimp only
  repeat' first
    | with_reducible first | assumption | apply later_forEach | apply later_when | apply later_feedTemplate
    | with_reducible first | apply later_onTree | apply later_onConf
    | split
    | intro _

theorem later_closeWindow {k : RoleKind} {end_ : Nat} (h : Later ok s₀ s) :
    Later ok s₀ (closeWindow k end_ s) := by
  unfold closeWindow
  try dsimp only
  repeat' first
    | with_reducible first | assumption | apply later_modRole | apply later_forEach | apply later_roleAlert
    | split
    | intro _

theorem later_cutOff {k : RoleKind} {t : TierFrame} (h : Later ok s₀ s) :
    Later ok s₀ (cutOff k t s) := by
  unfold cutOff
  try dsimp only
  repeat' first
    | with_reducible first | assumption | apply later_untilFt | apply later_closePrimary | apply later_when
    | with_reducible first | apply later_closeTemplates | apply later_cutTallies | apply later_closeWindow
    | split
    | intro _

theorem later_execTierCutoff {role : RoleKind} {frame : Nat} {period : Nat} (h : Later ok s₀ s) :
    LaterOut ok s₀ (execTierCutoff role frame period s) := by
  unfold execTierCutoff
  try dsimp only
  repeat' first
    | with_reducible first | assumption | apply later_run | apply later_when | apply later_cutOff
    | split
    | intro _

theorem later_repairRecord {k : RoleKind} {hr : HeldRecord} (h : Later ok s₀ s) :
    Later ok s₀ (repairRecord k hr s) := by
  unfold repairRecord
  try dsimp only
  repeat' first
    | with_reducible first | assumption | apply later_unhold | apply later_onChild | apply later_mergeHeld
    | split

theorem later_repairHeld {k : RoleKind} {hr : HeldRecord} (h : Later ok s₀ s) :
    Later ok s₀ (repairHeld k hr s) := by
  unfold repairHeld
  try dsimp only
  repeat' first
    | with_reducible first | assumption | apply later_repairRecord | apply later_unhold | apply later_when
    | with_reducible first | apply later_adopt
    | split
    | intro _

theorem later_endRepair {k : RoleKind} {frame : Nat} {period : Nat} (h : Later ok s₀ s) :
    Later ok s₀ (endRepair k frame period s) := by
  unfold endRepair
  try dsimp only
  repeat' first
    | with_reducible first | assumption | apply later_forEach | apply later_repairHeld
    | split
    | intro _

theorem later_execRepairWindowEnd {role : RoleKind} {frame : Nat} {period : Nat} (h : Later ok s₀ s) :
    LaterOut ok s₀ (execRepairWindowEnd role frame period s) := by
  unfold execRepairWindowEnd
  try dsimp only
  repeat' first
    | with_reducible first | assumption | apply later_run | apply later_when | apply later_endRepair
    | with_reducible first | apply later_untilFt
    | split
    | intro _

theorem later_updateAck {k : RoleKind} {src : Nat} (h : Later ok s₀ s) :
    Later ok s₀ (updateAck k src s) := by
  unfold updateAck
  try dsimp only
  repeat' first
    | with_reducible first | assumption | apply later_sendAck | apply later_onChild
    | split

theorem later_updateAcks {k : RoleKind} (h : Later ok s₀ s) :
    Later ok s₀ (updateAcks k s) := by
  unfold updateAcks
  try dsimp only
  repeat' first
    | with_reducible first | assumption | apply later_forEach | apply later_updateAck
    | split
    | intro _

theorem later_settleFrame {k : RoleKind} {frame : Nat} {period : Nat} (h : Later ok s₀ s) :
    Later ok s₀ (settleFrame k frame period s) := by
  unfold settleFrame
  try dsimp only
  repeat' first
    | with_reducible first | assumption | apply later_takeAlerts | apply later_sendRoleRecord | apply later_updateAcks
    | with_reducible first | apply later_modRole
    | split

theorem later_execSettleHorizon {role : RoleKind} {frame : Nat} {period : Nat} (h : Later ok s₀ s) :
    LaterOut ok s₀ (execSettleHorizon role frame period s) := by
  unfold execSettleHorizon
  try dsimp only
  repeat' first
    | with_reducible first | assumption | apply later_run | apply later_when | apply later_settleFrame
    | with_reducible first | apply later_untilFt
    | split
    | intro _

theorem later_resendBlocks {r : Record} {dst : Nat} {first : Nat} {last : Nat} (h : Later ok s₀ s) :
    Later ok s₀ (resendBlocks r dst first last s) := by
  unfold resendBlocks
  try dsimp only
  repeat' first
    | with_reducible first | assumption | apply later_enqueue

theorem later_answerRole {k : RoleKind} {parent : Nat} {q : AckReq} (h : Later ok s₀ s) :
    Later ok s₀ (answerRole k parent q s) := by
  unfold answerRole
  try dsimp only
  repeat' first
    | with_reducible first | assumption | apply later_forEach | apply later_sendRoleRecord | apply later_resendBlocks
    | with_reducible first | apply later_enqueueLedger
    | split
    | intro _

theorem later_roleAck {k : RoleKind} {a : Ack} {sender : Nat} (h : Later ok s₀ s) :
    Later ok s₀ (roleAck k a sender s) := by
  unfold roleAck
  try dsimp only
  repeat' first
    | with_reducible first | assumption | apply later_modRole | apply later_forEach | apply later_answerRole
    | with_reducible first | apply later_when | apply later_updateAcks
    | split
    | intro _

theorem later_releaseTo {frame : Nat} (h : Later ok s₀ s) :
    Later ok s₀ (releaseTo frame s) := by
  unfold releaseTo
  try dsimp only
  repeat' first
    | with_reducible first | assumption | apply later_onLed | apply later_when | apply later_onChain
    | split
    | intro _

theorem later_answerRequest {q : AckReq} (h : Later ok s₀ s) :
    Later ok s₀ (answerRequest q s) := by
  unfold answerRequest
  try dsimp only
  repeat' first
    | with_reducible first | assumption | apply later_forEach | apply later_resendBlocks | apply later_sendToParent
    | split
    | intro _

theorem later_leafAck {a : Ack} {sender : Nat} (h : Later ok s₀ s) :
    Later ok s₀ (leafAck a sender s) := by
  unfold leafAck
  try dsimp only
  repeat' first
    | with_reducible first | assumption | apply later_releaseTo | apply later_forEach | apply later_answerRequest
    | split
    | intro _

theorem later_execLedgerAck {a : Ack} {sender : Nat} (h : Later ok s₀ s) :
    LaterOut ok s₀ (execLedgerAck a sender s) := by
  unfold execLedgerAck
  try dsimp only
  repeat' first
    | with_reducible first | assumption | apply later_run | apply later_when | apply later_toEngine
    | with_reducible first | apply later_forEach | apply later_roleAck | apply later_leafAck
    | split
    | intro _

theorem later_noSlot {r : FeatureRecord} {frameEnd : Nat} (h : Later ok s₀ s) :
    Later ok s₀ (noSlot r frameEnd s) := by
  unfold noSlot
  try dsimp only
  repeat' first
    | with_reducible first | assumption | apply later_when | apply later_askImage | apply later_failScore
    | split
    | intro _

theorem later_failVector {v : Vec} {t : TreeSlot} {flags : BitVec 16} (h : Later ok s₀ s) :
    Later ok s₀ (failVector v t flags s) := by
  unfold failVector
  try dsimp only
  repeat' first
    | with_reducible first | assumption | apply later_failScore | apply later_sendScores
    | split

theorem later_takeVector {rec_ : FeatureRecord} (h : Later ok s₀ s) :
    Later ok s₀ (takeVector rec_ s) := by
  unfold takeVector
  try dsimp only
  repeat' first
    | with_reducible first | assumption | apply later_onTree | apply later_noSlot | apply later_raise
    | with_reducible first | apply later_failVector
    | split

theorem later_execFeatureRecord {rec_ : FeatureRecord} (h : Later ok s₀ s) :
    LaterOut ok s₀ (execFeatureRecord rec_ s) := by
  unfold execFeatureRecord
  try dsimp only
  repeat' first
    | with_reducible first | assumption | apply later_run | apply later_when | apply later_arcIngest
    | with_reducible first | apply later_toEngine | apply later_takeVector
    | split
    | intro _

theorem later_takePartial {e : ScoreEntry} (h : Later ok s₀ s) :
    Later ok s₀ (takePartial e s) := by
  unfold takePartial
  try dsimp only
  repeat' first
    | with_reducible first | assumption | apply later_onTree | apply later_raise | apply later_failScore
    | with_reducible first | apply later_dropParts | apply later_completeScore
    | split

theorem later_forumScore {r : ScoreRecord} {e : ScoreEntry} (h : Later ok s₀ s) :
    Later ok s₀ (forumScore r e s) := by
  unfold forumScore
  try dsimp only
  repeat' first
    | with_reducible first | assumption | apply later_onTree | apply later_when | apply later_raise
    | with_reducible first | apply later_keepScore
    | split
    | intro _

theorem later_takeScore {k : RoleKind} {r : ScoreRecord} {e : ScoreEntry} (h : Later ok s₀ s) :
    Later ok s₀ (takeScore k r e s) := by
  unfold takeScore
  try dsimp only
  repeat' first
    | with_reducible first | assumption | apply later_forumScore | apply later_sendScores | apply later_keepScore
    | with_reducible first | apply later_onTree
    | split

theorem later_execScoreRecord {role : RoleKind} {rec_ : ScoreRecord} (h : Later ok s₀ s) :
    LaterOut ok s₀ (execScoreRecord role rec_ s) := by
  unfold execScoreRecord
  try dsimp only
  repeat' first
    | with_reducible first | assumption | apply later_run | apply later_when | apply later_arcIngest
    | with_reducible first | apply later_toEngine | apply later_forEach | apply later_takePartial
    | with_reducible first | apply later_takeScore
    | split
    | intro _

theorem later_execFaultReportReceive {role : RoleKind} {rep : Report} (h : Later ok s₀ s) :
    LaterOut ok s₀ (execFaultReportReceive role rep s) := by
  unfold execFaultReportReceive
  try dsimp only
  repeat' first
    | with_reducible first | assumption | apply later_run | apply later_atMerger | apply later_takeReport
    | with_reducible first | apply later_arcIngest
    | split
    | intro _

theorem later_execStormEntryReceive {role : RoleKind} {e : StormEntry} (h : Later ok s₀ s) :
    LaterOut ok s₀ (execStormEntryReceive role e s) := by
  unfold execStormEntryReceive
  try dsimp only
  repeat' first
    | with_reducible first | assumption | apply later_run | apply later_atMerger | apply later_takeStorm
    | with_reducible first | apply later_arcIngest
    | split
    | intro _

theorem later_holdPart {p : TablePart} (h : Later ok s₀ s) :
    Later ok s₀ (holdPart p s) := by
  unfold holdPart
  try dsimp only
  repeat' first
    | with_reducible first | assumption | apply later_onPlace

theorem later_releaseLeaves {dies : List Nat} {next : Nat} (h : Later ok s₀ s) :
    Later ok s₀ (releaseLeaves dies next s) := by
  unfold releaseLeaves
  try dsimp only
  repeat' first
    | with_reducible first | assumption | apply later_forEach | apply later_onChild | apply later_sendMsgAdopt
    | split
    | intro _

theorem later_quarterHosted {p : TablePart} (h : Later ok s₀ s) :
    Later ok s₀ (quarterHosted p s).2 := by
  unfold quarterHosted
  try dsimp only
  repeat' first
    | with_reducible first | assumption | apply later_draw
    | split

theorem later_chipTakesPart {p : TablePart} (h : Later ok s₀ s) :
    Later ok s₀ (chipTakesPart p s) := by
  unfold chipTakesPart
  try dsimp only
  repeat' first
    | with_reducible first | assumption | apply later_arcIngest | apply later_when | apply later_releaseLeaves
    | with_reducible first | apply later_quarterHosted | apply later_setRole | apply later_onPlace
    | split
    | intro _

theorem later_execPlacementTablePart {p : TablePart} (h : Later ok s₀ s) :
    LaterOut ok s₀ (execPlacementTablePart p s) := by
  unfold execPlacementTablePart
  try dsimp only
  repeat' first
    | with_reducible first | assumption | apply later_run | apply later_holdPart | apply later_chipTakesPart
    | split
    | intro _

theorem later_learnChips {chips : List ChipInfo} (h : Later ok s₀ s) :
    Later ok s₀ (learnChips chips s) := by
  unfold learnChips
  try dsimp only
  repeat' first
    | with_reducible first | assumption | apply later_onPlace

theorem later_execPlacementTableIssue {cause : IssueCause} {chips : List ChipInfo} (h : Later ok s₀ s) :
    LaterOut ok s₀ (execPlacementTableIssue cause chips s) := by
  unfold execPlacementTableIssue
  try dsimp only
  repeat' first
    | with_reducible first | assumption | apply later_run | apply later_issueTable | apply later_learnChips
    | split
    | intro _

theorem later_execTableResend (h : Later ok s₀ s) :
    LaterOut ok s₀ (execTableResend s) := by
  unfold execTableResend
  try dsimp only
  repeat' first
    | with_reducible first | assumption | apply later_run | apply later_untilTimer | apply later_onPlace
    | with_reducible first | apply later_forEach | apply later_sendPart
    | split
    | intro _

theorem later_badMsg (h : Later ok s₀ s) :
    Later ok s₀ (badMsg s) := by
  unfold badMsg
  try dsimp only
  repeat' first
    | with_reducible first | assumption | apply later_onUpl
    | exact fun x => ⟨x.accounts, x.byp, x.stride⟩

theorem later_chipHears {peer : Nat} {m : AdoptMsg} (h : Later ok s₀ s) :
    Later ok s₀ (chipHears peer m s) := by
  unfold chipHears
  try dsimp only
  repeat' first
    | with_reducible first | assumption | apply later_heardFrom | apply later_seeGeneration | apply later_arcIngest

theorem later_refuse {m : AdoptMsg} {reason : Nat} (h : Later ok s₀ s) :
    Later ok s₀ (refuse m reason s) := by
  unfold refuse
  try dsimp only
  repeat' first
    | with_reducible first | assumption | apply later_sendMsgAdopt

theorem later_execAdoptReq {m : AdoptMsg} (h : Later ok s₀ s) :
    LaterOut ok s₀ (execAdoptReq m s) := by
  unfold execAdoptReq
  try dsimp only
  repeat' first
    | with_reducible first | assumption | apply later_run | apply later_badMsg | apply later_chipHears
    | with_reducible first | apply later_refuse | apply later_onPlace | apply later_sendMsgAdopt
    | split
    | intro _

theorem later_takeGrid {m : AdoptMsg} (h : Later ok s₀ s) :
    Later ok s₀ (takeGrid m s) := by
  unfold takeGrid
  try dsimp only
  repeat' first
    | with_reducible first | assumption | apply later_when | apply later_onGrid
    | split
    | intro _

theorem later_execAdoptOffer {m : AdoptMsg} (h : Later ok s₀ s) :
    LaterOut ok s₀ (execAdoptOffer m s) := by
  unfold execAdoptOffer
  try dsimp only
  repeat' first
    | with_reducible first | assumption | apply later_run | apply later_badMsg | apply later_takeGrid
    | with_reducible first | apply later_heardFrom | apply later_sendMsgAdopt | apply later_onPlace
    | split
    | intro _

theorem later_handList {die : Nat} {held : Nat} (h : Later ok s₀ s) :
    Later ok s₀ (handList die held s) := by
  unfold handList
  try dsimp only
  repeat' first
    | with_reducible first | assumption | apply later_sendPartFrom
    | split

theorem later_forgetSeries {die : Nat} (h : Later ok s₀ s) :
    Later ok s₀ (forgetSeries die s) := by
  unfold forgetSeries
  try dsimp only
  repeat' first
    | with_reducible first | assumption | apply later_onConf

theorem later_joinCensus {o : Offer} {join : Nat} (h : Later ok s₀ s) :
    Later ok s₀ (joinCensus o join s) := by
  unfold joinCensus
  try dsimp only
  repeat' first
    | with_reducible first | assumption | apply later_onPlace | apply later_modRole | apply later_forgetSeries
    | with_reducible first | apply later_when | apply later_endChildEpoch | apply later_onChild
    | split
    | intro _

theorem later_execAdoptConfirm {m : AdoptMsg} (h : Later ok s₀ s) :
    LaterOut ok s₀ (execAdoptConfirm m s) := by
  unfold execAdoptConfirm
  try dsimp only
  repeat' first
    | with_reducible first | assumption | apply later_run | apply later_badMsg | apply later_chipHears
    | with_reducible first | apply later_onPlace | apply later_refuse | apply later_handList
    | with_reducible first | apply later_sendMsgAdopt | apply later_joinCensus
    | split
    | intro _

theorem later_resendRetained (h : Later ok s₀ s) :
    Later ok s₀ (resendRetained s) := by
  unfold resendRetained
  try dsimp only
  repeat' first
    | with_reducible first | assumption | apply later_forEach | apply later_sendToParent
    | split
    | intro _

theorem later_closeCarry (h : Later ok s₀ s) :
    Later ok s₀ (closeCarry s) := by
  unfold closeCarry
  try dsimp only
  repeat' first
    | with_reducible first | assumption | apply later_issueRecord | apply later_onLed
    | split

theorem later_readdress {parent : Nat} (h : Later ok s₀ s) :
    Later ok s₀ (readdress parent s) := by
  unfold readdress
  try dsimp only
  repeat' first
    | with_reducible first | assumption | apply later_onUpl
    | exact fun x => ⟨x.accounts, x.byp, x.stride⟩

theorem later_becomeAdopted {parent : Nat} (h : Later ok s₀ s) :
    Later ok s₀ (becomeAdopted parent s) := by
  unfold becomeAdopted
  try dsimp only
  repeat' first
    | with_reducible first | assumption | apply later_onPlace | apply later_resendRetained | apply later_closeCarry
    | with_reducible first | apply later_readdress

theorem later_execAdoptAck {m : AdoptMsg} (h : Later ok s₀ s) :
    LaterOut ok s₀ (execAdoptAck m s) := by
  unfold execAdoptAck
  try dsimp only
  repeat' first
    | with_reducible first | assumption | apply later_run | apply later_badMsg | apply later_deliverAuto
    | with_reducible first | apply later_becomeAdopted | apply later_heardFrom
    | split
    | intro _

theorem later_execAdoptRefuse {m : AdoptMsg} (h : Later ok s₀ s) :
    LaterOut ok s₀ (execAdoptRefuse m s) := by
  unfold execAdoptRefuse
  try dsimp only
  repeat' first
    | with_reducible first | assumption | apply later_run | apply later_badMsg | apply later_when
    | with_reducible first | apply later_nextTry
    | split
    | intro _

theorem later_untilLive {t : Nat} (h : Later ok s₀ s) :
    Later ok s₀ (untilLive t s) := by
  unfold untilLive
  try dsimp only
  repeat' first
    | with_reducible first | assumption | apply later_when | apply later_passEdges
    | split
    | intro _

theorem later_execAdoptTryTimeout (h : Later ok s₀ s) :
    LaterOut ok s₀ (execAdoptTryTimeout s) := by
  unfold execAdoptTryTimeout
  try dsimp only
  repeat' first
    | with_reducible first | assumption | apply later_run | apply later_nextTry | apply later_untilLive
    | split
    | intro _

theorem later_execOrphanRetry (h : Later ok s₀ s) :
    LaterOut ok s₀ (execOrphanRetry s) := by
  unfold execOrphanRetry
  try dsimp only
  repeat' first
    | with_reducible first | assumption | apply later_run | apply later_tryAt | apply later_untilTimer
    | split
    | intro _

theorem later_loseParent (h : Later ok s₀ s) :
    Later ok s₀ (loseParent s) := by
  unfold loseParent
  try dsimp only
  repeat' first
    | with_reducible first | assumption | apply later_tryAt | apply later_onPlace

theorem later_execRelease {m : AdoptMsg} (h : Later ok s₀ s) :
    LaterOut ok s₀ (execRelease m s) := by
  unfold execRelease
  try dsimp only
  repeat' first
    | with_reducible first | assumption | apply later_run | apply later_badMsg | apply later_tryAt
    | with_reducible first | apply later_loseParent | apply later_startTry
    | split
    | intro _

theorem later_execKeepalive {m : AdoptMsg} (h : Later ok s₀ s) :
    LaterOut ok s₀ (execKeepalive m s) := by
  unfold execKeepalive
  try dsimp only
  repeat' first
    | with_reducible first | assumption | apply later_run | apply later_badMsg | apply later_heardFrom
    | with_reducible first | apply later_seeGeneration | apply later_tryAt
    | split
    | intro _

theorem later_execBeacon {m : AdoptMsg} (h : Later ok s₀ s) :
    LaterOut ok s₀ (execBeacon m s) := by
  unfold execBeacon
  try dsimp only
  repeat' first
    | with_reducible first | assumption | apply later_run | apply later_badMsg | apply later_heardFrom
    | with_reducible first | apply later_seeGeneration | apply later_takeSuccession | apply later_onPlace
    | split
    | intro _

theorem later_sendBeacon {src : Nat} {peer : Nat} (h : Later ok s₀ s) :
    Later ok s₀ (sendBeacon src peer s) := by
  unfold sendBeacon
  try dsimp only
  repeat' first
    | with_reducible first | assumption | apply later_sendMsgAdopt

theorem later_sendKeepalive {src : Nat} {peer : Nat} (h : Later ok s₀ s) :
    Later ok s₀ (sendKeepalive src peer s) := by
  unfold sendKeepalive
  try dsimp only
  repeat' first
    | with_reducible first | assumption | apply later_sendMsgAdopt

theorem later_linkMessages {peer : Nat} (h : Later ok s₀ s) :
    Later ok s₀ (linkMessages peer s) := by
  unfold linkMessages
  try dsimp only
  repeat' first
    | with_reducible first | assumption | apply later_when | apply later_sendBeacon | apply later_forEach
    | with_reducible first | apply later_sendKeepalive
    | split
    | intro _

theorem later_execKeepaliveDue {peer : Nat} (h : Later ok s₀ s) :
    LaterOut ok s₀ (execKeepaliveDue peer s) := by
  unfold execKeepaliveDue
  try dsimp only
  repeat' first
    | with_reducible first | assumption | apply later_run | apply later_linkMessages | apply later_untilLive
    | split
    | intro _

theorem later_execLinkSilence {peer : Nat} (h : Later ok s₀ s) :
    LaterOut ok s₀ (execLinkSilence peer s) := by
  unfold execLinkSilence
  try dsimp only
  repeat' first
    | with_reducible first | assumption | apply later_run | apply later_untilLive | apply later_nextTry
    | with_reducible first | apply later_raise | apply later_onPlace
    | split
    | intro _

theorem later_execForumSilence (h : Later ok s₀ s) :
    LaterOut ok s₀ (execForumSilence s) := by
  unfold execForumSilence
  try dsimp only
  repeat' first
    | with_reducible first | assumption | apply later_run | apply later_untilLive | apply later_onPlace
    | with_reducible first | apply later_forEach | apply later_sendBeacon | apply later_enqueueLedger
    | split
    | intro _

theorem later_execLivenessHoldComplete {tray : Nat} (h : Later ok s₀ s) :
    LaterOut ok s₀ (execLivenessHoldComplete tray s) := by
  unfold execLivenessHoldComplete
  try dsimp only
  repeat' first
    | with_reducible first | assumption | apply later_run | apply later_untilLive | apply later_issueTable
    | with_reducible first | apply later_onPlace | apply later_releaseLeaves
    | split
    | intro _

theorem later_execImageRequest {ask : ImageAsk} {requester : Nat} (h : Later ok s₀ s) :
    LaterOut ok s₀ (execImageRequest ask requester s) := by
  unfold execImageRequest
  try dsimp only
  repeat' first
    | with_reducible first | assumption | apply later_run | apply later_when | apply later_sendRange
    | split
    | intro _

theorem later_execEnsembleRange {image : TreeImage} {firstTree : Nat} {lastTree : Nat} {tray : Nat} {home : Bool} {activeFrom : Option Nat} (h : Later ok s₀ s) :
    LaterOut ok s₀ (execEnsembleRange image firstTree lastTree tray home activeFrom s) := by
  unfold execEnsembleRange
  try dsimp only
  repeat' first
    | with_reducible first | assumption | apply later_run | apply later_when | apply later_onTree
    | with_reducible first | apply later_restretch
    | split
    | intro _

theorem later_execRelayedCommand {cls : Nat} {partition : Nat} {tag : Nat} {cmd : Nat} {scope : Scope} {parent : Nat} {attachment : List Byte} (h : Later ok s₀ s) :
    LaterOut ok s₀ (execRelayedCommand cls partition tag cmd scope parent attachment s) := by
  unfold execRelayedCommand
  try dsimp only
  repeat' first
    | with_reducible first | assumption | apply later_run | apply later_when | apply later_onStw
    | with_reducible first | apply later_relayOpen | apply later_sendMsg | apply later_relayUpdate
    | exact fun x => x
    | split
    | intro _

theorem later_execRelayCompletion {tag : Nat} {cmd : Nat} {child : Nat} {nOk : Nat} {nFail : Nat} {nNoReply : Nat} {firstStatus : Nat} {first8 : List Nat} (h : Later ok s₀ s) :
    LaterOut ok s₀ (execRelayCompletion tag cmd child nOk nFail nNoReply firstStatus first8 s) := by
  unfold execRelayCompletion
  try dsimp only
  repeat' first
    | with_reducible first | assumption | apply later_run | apply later_relayUpdate | apply later_onStw
    | exact fun x => x
    | split
    | intro _

theorem later_execRelayTimeout {tag : Nat} {cmd : Nat} (h : Later ok s₀ s) :
    LaterOut ok s₀ (execRelayTimeout tag cmd s) := by
  unfold execRelayTimeout
  try dsimp only
  repeat' first
    | with_reducible first | assumption | apply later_run | apply later_relayUpdate | apply later_untilTimer
    | split
    | intro _

theorem later_execSessionIdleTimeout {slot : Nat} (h : Later ok s₀ s) :
    LaterOut ok s₀ (execSessionIdleTimeout slot s) := by
  unfold execSessionIdleTimeout
  try dsimp only
  repeat' first
    | with_reducible first | assumption | apply later_run | apply later_when | apply later_closeSlot
    | with_reducible first | apply later_untilTimer
    | split
    | intro _

theorem later_execNoticeDeliver {subject : NoticeSubject} (h : Later ok s₀ s) :
    LaterOut ok s₀ (execNoticeDeliver subject s) := by
  unfold execNoticeDeliver
  try dsimp only
  repeat' first
    | with_reducible first | assumption | apply later_run | apply later_forEach | apply later_postTo
    | with_reducible first | apply later_onStw
    | exact fun x => x
    | split
    | intro _

theorem later_refillRing {k : Nat} {ms : List Msg} (h : Later ok s₀ s) : Later ok s₀ (refillRing k ms s) := by
  induction ms generalizing s with
  | nil => exact later_onStw h fun x => x
  | cons m ms ih =>
    unfold refillRing
    dsimp only
    split
    · exact ih (later_ringWrite h)
    · exact later_onStw h fun x => x

theorem later_execResponseRingResume {slot : Nat} {cons : Nat} (h : Later ok s₀ s) :
    LaterOut ok s₀ (execResponseRingResume slot cons s) := by
  unfold execResponseRingResume
  try dsimp only
  repeat' first
    | with_reducible first | assumption | apply later_run | apply later_when | apply later_refillRing
    | with_reducible first | apply later_onStw
    | exact fun x => x
    | split
    | intro _

theorem later_disablePkg {q : Nat} (h : Later ok s₀ s) :
    Later ok s₀ (disablePkg q s) := by
  unfold disablePkg
  try dsimp only
  repeat' first
    | with_reducible first | assumption | apply later_raise | apply later_onTest

theorem later_startRun {patDigest : Word64} (h : Later ok s₀ s) :
    Later ok s₀ (startRun patDigest s) := by
  unfold startRun
  try dsimp only
  repeat' first
    | with_reducible first | assumption | apply later_disablePkg | apply later_onPair | apply later_onTest
    | with_reducible first | apply later_emit
    | split

theorem later_execQuietWindowOpen {patDigest : Word64} (h : Later ok s₀ s) :
    LaterOut ok s₀ (execQuietWindowOpen patDigest s) := by
  unfold execQuietWindowOpen
  try dsimp only
  repeat' first
    | with_reducible first | assumption | apply later_run | apply later_startRun | apply later_untilFt
    | split
    | intro _

theorem later_execIdleGrantStart (h : Later ok s₀ s) :
    LaterOut ok s₀ (execIdleGrantStart s) := by
  unfold execIdleGrantStart
  try dsimp only
  repeat' first
    | with_reducible first | assumption | apply later_run | apply later_untilFt | apply later_onTest
    | split
    | intro _

theorem later_execIdleGrantEnd (h : Later ok s₀ s) :
    LaterOut ok s₀ (execIdleGrantEnd s) := by
  unfold execIdleGrantEnd
  try dsimp only
  repeat' first
    | with_reducible first | assumption | apply later_run | apply later_when | apply later_untilTimer
    | with_reducible first | apply later_onTest
    | split
    | intro _

theorem later_countFail {pkgId : Nat} {t : TestEntry} {unit : Nat} (h : Later ok s₀ s) :
    Later ok s₀ (countFail pkgId t unit s) := by
  unfold countFail
  try dsimp only
  repeat' first
    | with_reducible first | assumption | apply later_onPair | apply later_onTest | apply later_raise
    | with_reducible first | apply later_assertFence | apply later_joinCds
    | split

theorem later_judgeRun {pkgId : Nat} {t : TestEntry} {unit : Nat} {startTimer : Nat} {digest : Word64} (h : Later ok s₀ s) :
    Later ok s₀ (judgeRun pkgId t unit startTimer digest s) := by
  unfold judgeRun
  try dsimp only
  repeat' first
    | with_reducible first | assumption | apply later_onPair | apply later_countFail | apply later_raise
    | split

theorem later_execFncTestDone {digest : Word64} (h : Later ok s₀ s) :
    LaterOut ok s₀ (execFncTestDone digest s) := by
  unfold execFncTestDone
  try dsimp only
  repeat' first
    | with_reducible first | assumption | apply later_run | apply later_endRun | apply later_judgeRun
    | split
    | intro _

theorem later_execFncTestErr (h : Later ok s₀ s) :
    LaterOut ok s₀ (execFncTestErr s) := by
  unfold execFncTestErr
  try dsimp only
  repeat' first
    | with_reducible first | assumption | apply later_run | apply later_endRun | apply later_wrapperError
    | split
    | intro _

theorem later_execTestAbortTimeout (h : Later ok s₀ s) :
    LaterOut ok s₀ (execTestAbortTimeout s) := by
  unfold execTestAbortTimeout
  try dsimp only
  repeat' first
    | with_reducible first | assumption | apply later_run | apply later_endRun | apply later_onTest
    | with_reducible first | apply later_countFail | apply later_raise | apply later_untilTimer
    | split
    | intro _

theorem later_execTestOverdue {pkgId : Nat} {testId : Nat} {unit : Nat} (h : Later ok s₀ s) :
    LaterOut ok s₀ (execTestOverdue pkgId testId unit s) := by
  unfold execTestOverdue
  try dsimp only
  repeat' first
    | with_reducible first | assumption | apply later_run | apply later_untilTimer | apply later_onPair
    | with_reducible first | apply later_raise | apply later_onTest
    | split
    | intro _

theorem later_execBlockResourceTest {pkgId : Nat} {testId : Nat} {unit : Nat} {paceOk : Bool} {patDigest : Word64} {digest : Word64} (h : Later ok s₀ s) :
    LaterOut ok s₀ (execBlockResourceTest pkgId testId unit paceOk patDigest digest s) := by
  unfold execBlockResourceTest
  try dsimp only
  repeat' first
    | with_reducible first | assumption | apply later_run | apply later_disablePkg | apply later_onPair
    | with_reducible first | apply later_onTest | apply later_judgeRun
    | split
    | intro _

theorem later_execResourceFault {rkind : Nat} {index : Nat} (h : Later ok s₀ s) :
    LaterOut ok s₀ (execResourceFault rkind index s) := by
  unfold execResourceFault
  try dsimp only
  repeat' first
    | with_reducible first | assumption | apply later_run | apply later_joinCds
    | split
    | intro _

theorem later_moveOn {d : Nat} {group : Nat} (h : Later ok s₀ s) :
    Later ok s₀ (moveOn d group s) := by
  unfold moveOn
  try dsimp only
  repeat' first
    | with_reducible first | assumption | apply later_onPwr | apply later_endMove
    | split

theorem later_takeRegions {d : Nat} (h : Later ok s₀ s) :
    Later ok s₀ (takeRegions d s) := by
  unfold takeRegions
  try dsimp only
  repeat' first
    | with_reducible first | assumption | apply later_onStw
    | exact fun x => x

theorem later_proceed {d : Nat} {why : QuiesceFor} {quiesced : Bool} (h : Later ok s₀ s) :
    Later ok s₀ (proceed d why quiesced s) := by
  unfold proceed
  try dsimp only
  repeat' first
    | with_reducible first | assumption | apply later_when | apply later_flushTrace | apply later_forEach
    | with_reducible first | apply later_moveOn | apply later_onPwr | apply later_completeWhere
    | with_reducible first | apply later_resetLogic | apply later_takeRegions
    | split
    | intro _

theorem later_execQuiesceAck {domain : Nat} (h : Later ok s₀ s) :
    LaterOut ok s₀ (execQuiesceAck domain s) := by
  unfold execQuiesceAck
  try dsimp only
  repeat' first
    | with_reducible first | assumption | apply later_run | apply later_proceed | apply later_onHrw
    | split
    | intro _

theorem later_execQuiesceTimeout {domain : Nat} (h : Later ok s₀ s) :
    LaterOut ok s₀ (execQuiesceTimeout domain s) := by
  unfold execQuiesceTimeout
  try dsimp only
  repeat' first
    | with_reducible first | assumption | apply later_run | apply later_untilTimer | apply later_onHrw
    | with_reducible first | apply later_onPwr | apply later_dumpThen | apply later_proceed | apply later_raise
    | split
    | intro _

theorem later_reportUp {d : Nat} (h : Later ok s₀ s) :
    Later ok s₀ (reportUp d s) := by
  unfold reportUp
  try dsimp only
  repeat' first
    | with_reducible first | assumption | apply later_onPwr

theorem later_releaseEngine {d : Nat} {quiesced : Bool} (h : Later ok s₀ s) :
    Later ok s₀ (releaseEngine d quiesced s) := by
  unfold releaseEngine
  try dsimp only
  repeat' first
    | with_reducible first | assumption | apply later_onPwr | apply later_raiseInt | apply later_onHrw
    | with_reducible first | apply later_reportUp | apply later_afterRelease | apply later_complete

theorem later_execEngineRelease {domain : Nat} (h : Later ok s₀ s) :
    LaterOut ok s₀ (execEngineRelease domain s) := by
  unfold execEngineRelease
  try dsimp only
  repeat' first
    | with_reducible first | assumption | apply later_run | apply later_releaseEngine
    | split
    | intro _

theorem later_execHangDeclared {domain : Nat} {y1 : Nat} (h : Later ok s₀ s) :
    LaterOut ok s₀ (execHangDeclared domain y1 s) := by
  unfold execHangDeclared
  try dsimp only
  repeat' first
    | with_reducible first | assumption | apply later_run | apply later_when | apply later_raise
    | with_reducible first | apply later_autoDump
    | split
    | intro _

theorem later_storeDump {d : Dump} (h : Later ok s₀ s) :
    Later ok s₀ (storeDump d s) := by
  unfold storeDump
  try dsimp only
  repeat' first
    | with_reducible first | assumption | apply later_onDump | apply later_when | apply later_raise
    | split
    | intro _

theorem later_dumpToChain {d : Dump} {q : DumpReq} {desc : Desc} (h : Later ok s₀ s) :
    Later ok s₀ (dumpToChain d q desc s) := by
  unfold dumpToChain
  try dsimp only
  repeat' first
    | with_reducible first | assumption | apply later_outputTo | apply later_onStw
    | exact fun x => x

theorem later_deliverCommanded {d : Dump} {q : DumpReq} (h : Later ok s₀ s) :
    Later ok s₀ (deliverCommanded d q s) := by
  unfold deliverCommanded
  try dsimp only
  repeat' first
    | with_reducible first | assumption | apply later_when | apply later_dumpUp | apply later_dumpToChain
    | with_reducible first | apply later_complete
    | split
    | intro _

theorem later_captureDump {trigger : Nat} {entries : List DumpEntry} (h : Later ok s₀ s) :
    Later ok s₀ (captureDump trigger entries s) := by
  unfold captureDump
  try dsimp only
  repeat' first
    | with_reducible first | assumption | apply later_untilFt | apply later_onDump | apply later_storeDump
    | with_reducible first | apply later_when | apply later_raise | apply later_forEach | apply later_deliverCommanded
    | with_reducible first | apply later_deliverAuto
    | split
    | intro _

theorem later_afterCapture (h : Later ok s₀ s) :
    Later ok s₀ (afterCapture s) := by
  unfold afterCapture
  try dsimp only
  repeat' first
    | with_reducible first | assumption | apply later_onDump | apply later_forEach | apply later_proceed
    | with_reducible first | apply later_raiseSource
    | split
    | intro _

theorem later_execDumpCapture {trigger : Nat} {entries : List DumpEntry} (h : Later ok s₀ s) :
    LaterOut ok s₀ (execDumpCapture trigger entries s) := by
  unfold execDumpCapture
  try dsimp only
  repeat' first
    | with_reducible first | assumption | apply later_run | apply later_captureDump | apply later_afterCapture
    | split
    | intro _

theorem later_execFwRestart (h : Later ok s₀ s) : LaterOut ok s₀ (execFwRestart s) := by
  unfold execFwRestart
  refine later_run h fun s h => ?_
  dsimp only
  split
  · exact h
  · split
    · exact h
    · apply later_deliverAuto
      apply later_onStw
      · exact later_closeAll (later_completeWhere (later_untilFt h))
      · intro x
        exact x

theorem later_execFwTrialTimeout (h : Later ok s₀ s) :
    LaterOut ok s₀ (execFwTrialTimeout s) := by
  unfold execFwTrialTimeout
  try dsimp only
  repeat' first
    | with_reducible first | assumption | apply later_run | apply later_closeAll | apply later_revertTrial
    | with_reducible first | apply later_completeWhere | apply later_untilTimer
    | split
    | intro _

theorem later_execDbgCtlExpiry (h : Later ok s₀ s) :
    LaterOut ok s₀ (execDbgCtlExpiry s) := by
  unfold execDbgCtlExpiry
  try dsimp only
  repeat' first
    | with_reducible first | assumption | apply later_run | apply later_onHrw | apply later_untilTimer
    | split
    | intro _

theorem later_execSoftwareReset (h : Later ok s₀ s) :
    LaterOut ok s₀ (execSoftwareReset s) := by
  unfold execSoftwareReset
  try dsimp only
  repeat' first
    | with_reducible first | assumption | apply later_run | apply later_raiseSource | apply later_onRst
    | with_reducible first | apply later_untilTimer
    | split
    | intro _

theorem later_restartAll (h : Later ok s₀ s) :
    Later ok s₀ (restartAll s) := by
  unfold restartAll
  try dsimp only
  repeat' first
    | with_reducible first | assumption | apply later_onConf

theorem later_switchOn {d : Nat} (h : Later ok s₀ s) :
    Later ok s₀ (switchOn d s) := by
  unfold switchOn
  try dsimp only
  repeat' first
    | with_reducible first | assumption | apply later_restartAll | apply later_restartSources | apply later_when
    | with_reducible first | apply later_nextTry | apply later_unshrink
    | split

theorem later_giveRegions {d : Nat} (h : Later ok s₀ s) :
    Later ok s₀ (giveRegions d s) := by
  unfold giveRegions
  try dsimp only
  repeat' first
    | with_reducible first | assumption | apply later_onStw
    | exact fun x => x

theorem later_clearSampler (h : Later ok s₀ s) :
    Later ok s₀ (clearSampler s) := by
  unfold clearSampler
  try dsimp only
  repeat' first
    | with_reducible first | assumption | apply later_forEach | apply later_setSnapshot | apply later_onSmp
    | split
    | intro _

theorem later_switchOff {d : Nat} (h : Later ok s₀ s) :
    Later ok s₀ (switchOff d s) := by
  unfold switchOff
  try dsimp only
  repeat' first
    | with_reducible first | assumption | apply later_clearSampler | apply later_onConf | apply later_onUpl
    | with_reducible first | apply later_stopQueries | apply later_shrinkGroup
    | exact fun x => ⟨x.accounts, x.byp, x.stride⟩
    | split

theorem later_settleDomain {d : Nat} {on : Bool} (h : Later ok s₀ s) :
    Later ok s₀ (settleDomain d on s) := by
  unfold settleDomain
  try dsimp only
  repeat' first
    | with_reducible first | assumption | apply later_onPwr | apply later_complete | apply later_switchOn
    | with_reducible first | apply later_giveRegions | apply later_reportUp | apply later_switchOff
    | split

theorem later_execDomainSettle {domain : Nat} (h : Later ok s₀ s) :
    LaterOut ok s₀ (execDomainSettle domain s) := by
  unfold execDomainSettle
  try dsimp only
  repeat' first
    | with_reducible first | assumption | apply later_run | apply later_settleDomain
    | split
    | intro _

theorem later_execPwrOkCoreFallParked (h : Later ok s₀ s) :
    LaterOut ok s₀ (execPwrOkCoreFallParked s) := by
  unfold execPwrOkCoreFallParked
  try dsimp only
  repeat' first
    | with_reducible first | assumption | apply later_run | apply later_when | apply later_onRst
    | split
    | intro _

theorem later_tick (h : Later ok s₀ s) :
    Later ok s₀ (tick s) := by
  unfold tick
  try dsimp only
  repeat' first
    | with_reducible first | assumption | apply later_when | apply later_passNs
    | split
    | intro _

theorem later_State.withFetchWord {nbits : Nat} {w : Nat} (h : Later ok s₀ s) :
    Later ok s₀ (State.withFetchWord s nbits w) := by
  unfold State.withFetchWord
  try dsimp only
  repeat' first
    | with_reducible first | assumption
    | exact h.same _ ⟨rfl, rfl, rfl, rfl, rfl, rfl, rfl, rfl, rfl, rfl, rfl, rfl, rfl⟩

/-! ## Power-on -/

theorem accounts_start (fuse : FuseMap) : AccountsOk (Uplink.start fuse).classes := by
  have key : ∀ a b c : Nat, AccountsOk
      [(1, { UplClass.zero with rate := a, quantum := 262144 }), (2, { UplClass.zero with rate := b, quantum := 16384 }),
       (3, { UplClass.zero with rate := c, quantum := 16384 }), (4, { UplClass.zero with rate := 100, quantum := 4096 })] := by
    intro a b c
    refine ⟨?_, fun k => ?_, rfl⟩
    · simp [tabWf, tabWfFrom, UplClass.zero]
    · simp only [tget]
      repeat' split
      all_goals exact ⟨rfl, rfl, show 1 ≤ 64 by decide, le_refl 64⟩
  exact key _ _ _

/-- Power-on begins from queues within their bounds and from accounts that keep Law C. -/
theorem sound_poweredOn {fuse : FuseMap} {straps : Nat} (h : s.nv.history.length ≤ 8192) : Sound (poweredOn fuse straps s) :=
  ⟨⟨accounts_start fuse, Nat.zero_le _, le_refl 1, show 1 ≤ 64 by decide⟩, ⟨Nat.zero_le _, fun _ m => absurd m (List.not_mem_nil)⟩, h, Nat.zero_le _,
    Nat.zero_le _, Nat.zero_le _⟩

theorem sound_execPowerOn {fuse : FuseMap} {straps : Nat} (h : Sound s) (e : execPowerOn fuse straps s = .next t) : Sound t := by
  injection e with e
  subst e
  refine (later_hotJoin (Later.refl (fun _ => False) _)).sound (sound_poweredOn ?_)
  split
  · exact ((later_losePower (Later.refl (fun _ => False) s)).sound h).history
  · exact h.history

/-! ## Every command and every step -/

/-- What a command answers is later than what it began from, but for a power-on. -/
theorem later_exec {c : Instr} (hc : isPowerOn c = false) (h : Later (releases c) s₀ s) :
    LaterOut (releases c) s₀ (exec c s) := by
  cases c with
  | sessionOpen => exact later_execSessionOpen h
  | sessionClose => exact later_execSessionClose h
  | sessionInfo => exact later_execSessionInfo h
  | sessionQuotaSet => exact later_execSessionQuotaSet h
  | sessionIdleSet => exact later_execSessionIdleSet h
  | sessionWindowSet => exact later_execSessionWindowSet h
  | partitionRelease => exact later_execPartitionRelease h
  | timeStatus => exact later_execTimeStatus h
  | timeSetMode => exact later_execTimeSetMode h
  | frameSetPeriod => exact later_execFrameSetPeriod h
  | frameHalt => exact later_execFrameHalt h
  | lineSet => exact later_execLineSet h
  | counterBind => exact later_execCounterBind h
  | counterUnbind => exact later_execCounterUnbind h
  | counterPrescaleSet => exact later_execCounterPrescaleSet h
  | counterRead => exact later_execCounterRead h
  | counterStatus => exact later_execCounterStatus h
  | gaugeSet => exact later_execGaugeSet h
  | watermarkSet => exact later_execWatermarkSet h
  | watermarkRead => exact later_execWatermarkRead h
  | gaugeRead => exact later_execGaugeRead h
  | snapshotSet => exact later_execSnapshotSet h
  | ledgerStatus => exact later_execLedgerStatus h
  | ledgerRetainSet => exact later_execLedgerRetainSet h
  | ledgerRead => exact later_execLedgerRead h
  | ledgerSinkSet => exact later_execLedgerSinkSet h
  | placeSetConstraints => exact later_execPlaceSetConstraints h
  | placeDrain => exact later_execPlaceDrain h
  | placeRestore => exact later_execPlaceRestore h
  | placeStatus => exact later_execPlaceStatus h
  | placeCensusTransfer => exact later_execPlaceCensusTransfer h
  | seriesDefine => exact later_execSeriesDefine h
  | seriesRead => exact later_execSeriesRead h
  | histRead => exact later_execHistRead h
  | confCalLoad => exact later_execConfCalLoad h
  | confCalArm => exact later_execConfCalArm h
  | confCohortSet => exact later_execConfCohortSet h
  | confStatus => exact later_execConfStatus h
  | seriesQuotaSet => exact later_execSeriesQuotaSet h
  | treeLoad => exact later_execTreeLoad h
  | treeArm => exact later_execTreeArm h
  | treeUnload => exact later_execTreeUnload h
  | treeQuotaSet => exact later_execTreeQuotaSet h
  | treeStatus => exact later_execTreeStatus h
  | treeScoreRead => exact later_execTreeScoreRead h
  | arcadeStatus => exact later_execArcadeStatus h
  | arcadeHold => exact later_execArcadeHold h
  | arcadeRelease => exact later_execArcadeRelease h
  | arcadePortRestore => exact later_execArcadePortRestore h
  | arcadeLocate => exact later_execArcadeLocate h
  | backscanSubmit => exact later_execBackscanSubmit h
  | backscanCancel => exact later_execBackscanCancel h
  | backscanStatus => exact later_execBackscanStatus h
  | digestArm => exact later_execDigestArm h
  | digestStatus => exact later_execDigestStatus h
  | digestVerdictRead => exact later_execDigestVerdictRead h
  | testPkgLoad => exact later_execTestPkgLoad h
  | testPkgUnload => exact later_execTestPkgUnload h
  | testIdleGrant => exact later_execTestIdleGrant h
  | testStatus => exact later_execTestStatus h
  | fenceSet => exact later_execFenceSet h
  | fenceRelease => exact later_execFenceRelease rfl h
  | fenceHistoryRead => exact later_execFenceHistoryRead h
  | cdsRelease => exact later_execCdsRelease h
  | traceSourceSet => exact later_execTraceSourceSet h
  | traceGrant => exact later_execTraceGrant h
  | traceRevoke => exact later_execTraceRevoke h
  | traceFlush => exact later_execTraceFlush h
  | traceChainSet => exact later_execTraceChainSet h
  | bufChainAppend => exact later_execBufChainAppend h
  | traceStatus => exact later_execTraceStatus h
  | uplShaperSet => exact later_execUplShaperSet h
  | uplStandingSet => exact later_execUplStandingSet h
  | uplStatus => exact later_execUplStatus h
  | pwrPark => exact later_execPwrPark h
  | pwrDomainSet => exact later_execPwrDomainSet h
  | engineReset => exact later_execEngineReset h
  | resetRequest => exact later_execResetRequest h
  | pwrStatus => exact later_execPwrStatus h
  | dumpTake => exact later_execDumpTake h
  | wfgBuild => exact later_execWfgBuild h
  | nvlogRead => exact later_execNvlogRead h
  | epochReset => exact later_execEpochReset h
  | fwUpdate => exact later_execFwUpdate h
  | fwCommit => exact later_execFwCommit h
  | fwStatus => exact later_execFwStatus h
  | pmDoorbell => exact later_execPmDoorbell h
  | pmDoneClear => exact later_execPmDoneClear h
  | tmDb priv _ _ _ => exact later_execTmDb (y0 := priv) h
  | ftLoRead priv => exact later_execFtLoRead (y0 := priv) h
  | intStsClear => exact later_execIntStsClear h
  | wakeCtlWrite => exact later_execWakeCtlWrite h
  | engRstWrite => exact later_execEngRstWrite h
  | bootDb => exact later_execBootDb h
  | hrwRegisterWrite => exact later_execHrwRegisterWrite h
  | sbiRequest => exact later_execSbiRequest h
  | sbiSelectResponse => exact later_execSbiSelectResponse h
  | sbiSelectAlert => exact later_execSbiSelectAlert h
  | sbiBootSegment => exact later_execSbiBootSegment h
  | sbiRead => exact later_execSbiRead h
  | entdaa => exact later_execEntdaa h
  | setdasa => exact later_execSetdasa h
  | rstdaa => exact later_execRstdaa h
  | enec => exact later_execEnec h
  | disec => exact later_execDisec h
  | getpid => exact later_execGetpid h
  | getbcr => exact later_execGetbcr h
  | getdcr => exact later_execGetdcr h
  | getstatus => exact later_execGetstatus h
  | getmwl => exact later_execGetmwl h
  | getmrl => exact later_execGetmrl h
  | extest => exact later_execExtest h
  | idcode => exact later_execIdcode h
  | samplePreload => exact later_execSamplePreload h
  | clamp => exact later_execClamp h
  | highz => exact later_execHighz h
  | lqIjtag => exact later_execLqIjtag h
  | bypass => exact later_execBypass h
  | ijtagInstrumentAccess => exact later_execIjtagInstrumentAccess h
  | ijtagMemorySelftest => exact later_execIjtagMemorySelftest h
  | ijtagDumpTrigger => exact later_execIjtagDumpTrigger h
  | ijtagDebugReset => exact later_execIjtagDebugReset h
  | powerOn => cases hc
  | powerLoss => exact later_execPowerLoss h
  | pwrOkCoreRise => exact later_execPwrOkCoreRise h
  | brownOut => exact later_execBrownOut h
  | pinReset => exact later_execPinReset h
  | pinResetRelease => exact later_execPinResetRelease h
  | samplerRelease => exact later_execSamplerRelease h
  | bootImageRun => exact later_execBootImageRun h
  | wake => exact later_execWake h
  | wakeComplete => exact later_execWakeComplete h
  | parkEntryComplete => exact later_execParkEntryComplete h
  | watchdogTimeout => exact later_execWatchdogTimeout h
  | watchdogPrewarning => exact later_execWatchdogPrewarning h
  | lockup => exact later_execLockup h
  | clockFailure => exact later_execClockFailure h
  | nvlogWriteComplete => exact later_execNvlogWriteComplete h
  | ftiTimeWord => exact later_execFtiTimeWord h
  | ftiGoodWordTimeout => exact later_execFtiGoodWordTimeout h
  | holdoverTimeout => exact later_execHoldoverTimeout h
  | ftiRefLoss => exact later_execFtiRefLoss h
  | frameBoundary => exact later_execFrameBoundary h
  | periodChangeEffect => exact later_execPeriodChangeEffect h
  | evtOccurrence => exact later_execEvtOccurrence h
  | drainWord => exact later_execDrainWord h
  | sealWord => exact later_execSealWord h
  | frameSnapshotComplete => exact later_execFrameSnapshotComplete h
  | scoreComplete => exact later_execScoreComplete h
  | scoreMissingTimeout => exact later_execScoreMissingTimeout h
  | gaugeUpdate => exact later_execGaugeUpdate h
  | markerStrobe => exact later_execMarkerStrobe h
  | strobeMatch => exact later_execStrobeMatch h
  | markerDeadline => exact later_execMarkerDeadline h
  | calendarAnchor => exact later_execCalendarAnchor h
  | digestKeyAnchor => exact later_execDigestKeyAnchor h
  | tracePacket => exact later_execTracePacket h
  | traceServe => exact later_execTraceServe h
  | traceBlockAgeFlush => exact later_execTraceBlockAgeFlush h
  | traceGrantExpiry => exact later_execTraceGrantExpiry h
  | tapBeat => exact later_execTapBeat h
  | tapChunkDigest => exact later_execTapChunkDigest h
  | digestListTimeout => exact later_execDigestListTimeout h
  | unitMaskExpiry => exact later_execUnitMaskExpiry h
  | verdictNoticeLeaf => exact later_execVerdictNoticeLeaf h
  | gateOpen => exact later_execGateOpen h
  | packetInject => exact later_execPacketInject h
  | kerbReached => exact later_execKerbReached h
  | gateClose => exact later_execGateClose h
  | bypSend => exact later_execBypSend h
  | dnlPacket => exact later_execDnlPacket h
  | ledgerRecordReceive => exact later_execLedgerRecordReceive h
  | tierCutoff => exact later_execTierCutoff h
  | repairWindowEnd => exact later_execRepairWindowEnd h
  | settleHorizon => exact later_execSettleHorizon h
  | ledgerAck => exact later_execLedgerAck h
  | seriesRecord => exact later_execSeriesRecord h
  | histogramRecord => exact later_execHistogramRecord h
  | occurrenceCloseTimeout => exact later_execOccurrenceCloseTimeout h
  | thresholdNotice => exact later_execThresholdNotice h
  | thresholdHoldExpiry => exact later_execThresholdHoldExpiry h
  | featureRecord => exact later_execFeatureRecord h
  | scoreRecord => exact later_execScoreRecord h
  | digestRecord => exact later_execDigestRecord h
  | tallyRecord => exact later_execTallyRecord h
  | verdictNoticePlaza => exact later_execVerdictNoticePlaza h
  | resultHoldExpiry => exact later_execResultHoldExpiry h
  | faultReportReceive => exact later_execFaultReportReceive h
  | stormEntryReceive => exact later_execStormEntryReceive h
  | placementTablePart => exact later_execPlacementTablePart h
  | placementTableIssue => exact later_execPlacementTableIssue h
  | tableResend => exact later_execTableResend h
  | adoptReq => exact later_execAdoptReq h
  | adoptOffer => exact later_execAdoptOffer h
  | adoptConfirm => exact later_execAdoptConfirm h
  | adoptAck => exact later_execAdoptAck h
  | adoptRefuse => exact later_execAdoptRefuse h
  | adoptTryTimeout => exact later_execAdoptTryTimeout h
  | orphanRetry => exact later_execOrphanRetry h
  | release => exact later_execRelease h
  | keepalive => exact later_execKeepalive h
  | beacon => exact later_execBeacon h
  | keepaliveDue => exact later_execKeepaliveDue h
  | linkSilence => exact later_execLinkSilence h
  | forumSilence => exact later_execForumSilence h
  | livenessHoldComplete => exact later_execLivenessHoldComplete h
  | imageRequest => exact later_execImageRequest h
  | ensembleRange => exact later_execEnsembleRange h
  | relayedCommand => exact later_execRelayedCommand h
  | relayCompletion => exact later_execRelayCompletion h
  | relayTimeout => exact later_execRelayTimeout h
  | sessionIdleTimeout => exact later_execSessionIdleTimeout h
  | noticeDeliver => exact later_execNoticeDeliver h
  | responseRingResume => exact later_execResponseRingResume h
  | bufResponse => exact later_execBufResponse h
  | bufTimeout => exact later_execBufTimeout h
  | memResponse => exact later_execMemResponse h
  | memOpTimeout => exact later_execMemOpTimeout h
  | memLinkLoss => exact later_execMemLinkLoss h
  | segmentSealTimeout => exact later_execSegmentSealTimeout h
  | arcadeHoldExpiry => exact later_execArcadeHoldExpiry h
  | backscanStart => exact later_execBackscanStart h
  | backscanComplete => exact later_execBackscanComplete h
  | backscanTimeout => exact later_execBackscanTimeout h
  | quietWindowOpen => exact later_execQuietWindowOpen h
  | idleGrantStart => exact later_execIdleGrantStart h
  | idleGrantEnd => exact later_execIdleGrantEnd h
  | fncTestDone => exact later_execFncTestDone h
  | fncTestErr => exact later_execFncTestErr h
  | testAbortTimeout => exact later_execTestAbortTimeout h
  | testOverdue => exact later_execTestOverdue h
  | blockResourceTest => exact later_execBlockResourceTest h
  | resourceFault => exact later_execResourceFault h
  | quiesceAck => exact later_execQuiesceAck h
  | quiesceTimeout => exact later_execQuiesceTimeout h
  | engineRelease => exact later_execEngineRelease h
  | crossingClockStart => exact later_execCrossingClockStart h
  | dravaTimeout => exact later_execDravaTimeout h
  | hangDeclared _ object => exact later_execHangDeclared (y1 := object) h
  | dumpCapture => exact later_execDumpCapture h
  | fwRestart => exact later_execFwRestart h
  | fwTrialTimeout => exact later_execFwTrialTimeout h
  | dbgCtlExpiry => exact later_execDbgCtlExpiry h
  | softwareReset => exact later_execSoftwareReset h
  | domainSettle => exact later_execDomainSettle h
  | testLogicReset => exact later_execTestLogicReset h
  | pwrOkCoreFallParked => exact later_execPwrOkCoreFallParked h

/-- Every command keeps the invariant, power-on among them. -/
theorem sound_exec {c : Instr} (h : Sound s) (e : exec c s = .next t) : Sound t := by
  by_cases hc : isPowerOn c = false
  · exact (later_exec hc (Later.refl (releases c) s) t e).sound h
  · cases c <;> first | exact absurd rfl hc | skip
    exact sound_execPowerOn h e

end Sys2Proof.Machine
end

