-- ==== Sys2Proof/WellFormed.lean ====
section
/-!
DEFINITION. Well-formed operands: every number fits the field that carries it.  A command of any operands has its meaning;
this says which operands the hardware's own fields can spell.
-/

namespace Sys2Proof

/-! ## Field widths -/

/-- An 8-bit field. -/
def fits8 (n : Nat) : Bool := n < 2 ^ 8
/-- A 16-bit field. -/
def fits16 (n : Nat) : Bool := n < 2 ^ 16
/-- A 32-bit field. -/
def fits32 (n : Nat) : Bool := n < 2 ^ 32
/-- A 64-bit field. -/
def fits64 (n : Nat) : Bool := n < 2 ^ 64
/-- A 2-bit field (R423). -/
def fits2 (n : Nat) : Bool := n < 4
/-- The number fits a signed 32-bit field. -/
def fitsS32 (n : Int) : Bool := -2 ^ 31 ≤ n && n < 2 ^ 31
/-- The number fits a signed 64-bit field. -/
def fitsS64 (n : Int) : Bool := -2 ^ 63 ≤ n && n < 2 ^ 63
/-- An 18-bit die address (R6, R422). -/
def fitsDie (n : Nat) : Bool := n < 2 ^ 18
/-- A 20-bit frame period in µs (R38). -/
def fitsPeriod (n : Nat) : Bool := n < 2 ^ 20
/-- A 7-bit I3C address (R383). -/
def fitsAddr7 (n : Nat) : Bool := n < 2 ^ 7
/-- The stamped privilege of a host access, 2 bits (R358). -/
def fitsPriv (n : Nat) : Bool := n < 4
/-- The stamped partition of a host access (R358). -/
def fitsPart (n : Nat) : Bool := n < 2 ^ 16
/-- The size of a host access in bytes (R412). -/
def fitsSize (n : Nat) : Bool := n < 2 ^ 8
/-- One of the four PM mailboxes (R360). -/
def fitsPm (n : Nat) : Bool := n < 4
/-- One of the 64 tenant slots (R368). -/
def fitsSlot (n : Nat) : Bool := n < 64
/-- One of the 16 concentrators (R53). -/
def fitsConc (n : Nat) : Bool := n < 16
/-- The index of a gauge word in its concentrator, 0 to 63 (R76). -/
def fitsGauge (n : Nat) : Bool := n < 64

/-! ## Structures -/

/-- The issuer fits its stamps (R358, R362). -/
def Issuer.wf : Issuer → Bool
  | .pm n => fitsPm n
  | .sideband => true
  | .tenant p k g => fitsPart p && fitsSlot k && g < 1024
  | .relay c p => fits8 c && fitsPart p
  | .role q r => fits8 q && r < 2

/-- The scope fits its fields (R392). -/
def Scope.wf : Scope → Bool
  | .fleet => true
  | .quarter q => fits32 q
  | .tray t => fits32 t
  | .die d => fits32 d
  | .other k => fits8 k

/-- Every number of a `AckReq` fits. -/
def AckReq.wf (x : AckReq) : Bool :=
  fits64 x.frame && fits16 x.blkFirst && fits16 x.blkLast && fits8 x.rqkind

/-- Every number of a `Ack` fits. -/
def Ack.wf (x : Ack) : Bool :=
  fits32 x.child && fits32 x.epoch && x.ackFrame.all fits64 && x.reqs.all AckReq.wf

/-- Every number of a `AdoptMsg` fits. -/
def AdoptMsg.wf (x : AdoptMsg) : Bool :=
  fits8 x.pos && fits32 x.die && fits32 x.parent && fits32 x.epoch && fits32 x.generation && x.home < 1024
    && x.frameA.all fits64 && fits64 x.frameB && fitsPeriod x.period && fitsPeriod x.periodNext && fits32 x.retained
    && fits32 x.nextChip && fits8 x.rep

/-- Every number of a `MarkerEntry` fits. -/
def MarkerEntry.wf (x : MarkerEntry) : Bool :=
  fits32 x.mid && fits8 x.cls && fits16 x.miss && fits64 x.offset

/-- Every number of a `GateSection` fits. -/
def GateSection.wf (x : GateSection) : Bool :=
  fits8 x.port && fits32 x.job && fits16 x.rate

/-- Every number of a `QuietWin` fits. -/
def QuietWin.wf (x : QuietWin) : Bool :=
  fits64 x.offset && fits32 x.len && fits8 x.unitFirst && fits8 x.unitLast

/-- Every number of a `CalImage` fits. -/
def CalImage.wf (x : CalImage) : Bool :=
  fits32 x.job && fitsDie x.die && fits16 x.partition && fits64 x.step && fits64 x.steps && fits32 x.imageCrc
    && x.gateSections.all GateSection.wf

/-- Every number of a `CohortRule` fits. -/
def CohortRule.wf (x : CohortRule) : Bool :=
  fits32 x.job && fits8 x.rule && fits8 x.scope && fits32 x.q && fits32 x.margin && fits8 x.run && fits8 x.clearRun
    && fits16 x.minMembers

/-- Every number of a `Desc` fits. -/
def Desc.wf (x : Desc) : Bool :=
  fits64 x.selfAddr && fits64 x.addr && fits32 x.len && fits16 x.partition && fits8 x.dkind && fits64 x.nextAddr
    && fits32 x.descId

/-- Every number of a `ResultEntry` fits. -/
def ResultEntry.wf (x : ResultEntry) : Bool :=
  fits32 x.job && fits32 x.coll && fits32 x.inst && fits32 x.nChunk && fits32 x.unchk

/-- Every number of a `DigestRecord` fits. -/
def DigestRecord.wf (x : DigestRecord) : Bool :=
  fits64 x.frame && fitsPeriod x.period && fits32 x.epoch && fitsDie x.die && fits32 x.seq && fits64 x.chkOk
    && fits64 x.chkBad && fits64 x.chkNone && x.results.all ResultEntry.wf

/-- Every number of a `FeatureRecord` fits. -/
def FeatureRecord.wf (x : FeatureRecord) : Bool :=
  fits64 x.frame && fitsDie x.die && fits32 x.epoch && fits32 x.model && fits32 x.imageCrc && fits32 x.leafTrees

/-- Every number of a `FuseMap` fits. -/
def FuseMap.wf (x : FuseMap) : Bool :=
  fits32 x.dieType && fits2 x.jtgLock && fits2 x.ftiMode && fitsAddr7 x.i3cSa && fits64 x.i3cPid
    && fits32 x.xtimeout && fits32 x.gatePort && fits32 x.gateRate && fits32 x.gateSpace && fits32 x.gateLen

/-- Every number of a `SigBlock` fits. -/
def SigBlock.wf (x : SigBlock) : Bool :=
  fits8 x.keyIndex && fits8 x.usage && fits32 x.svn

/-- Every number of a `FwImage` fits. -/
def FwImage.wf (x : FwImage) : Bool :=
  fits16 x.fwLevel && fits16 x.minBlock && fits32 x.imageBytes && x.sig.wf

/-- Every number of a `Hist` fits. -/
def Hist.wf (x : Hist) : Bool :=
  fits32 x.underN && fits32 x.overN && fits32 x.n && fits32 x.absent

/-- Every number of a `HistRecord` fits. -/
def HistRecord.wf (x : HistRecord) : Bool :=
  fits2 x.scope && fits8 x.cls && fits32 x.job && fits32 x.marker && fits64 x.key && fits32 x.source
    && fits64 x.frame && x.hist.wf

/-- Every number of a `Packet` fits. -/
def Packet.wf (x : Packet) : Bool :=
  fits8 x.cls && fits32 x.src && fits32 x.dst && fits8 x.srcRep && fits8 x.dstRep && fits32 x.cseq && fits32 x.epoch && fits16 x.rtag && fits8 x.nBlk
    && fits32 x.rseq && fits16 x.blkFirst && fits16 x.blkTotal && fits32 x.rlen && fits8 x.echoTrace
    && fits8 x.echoDump && fits32 x.hdrCrc && fits64 x.bytes

/-- Every number of a `Pred` fits. -/
def Pred.wf (x : Pred) : Bool :=
  fits8 x.pkind && fits8 x.op && fits32 x.selFirst && fits32 x.selLast

/-- Every number of a `Query` fits. -/
def Query.wf (x : Query) : Bool :=
  fits8 x.qtype && fits8 x.engines && fits32 x.queryId && fits64 x.ftFirst && fits64 x.ftLast && fits32 x.tray
    && fits32 x.lookback && x.p0.wf && x.p1.wf

/-- Every number of a `ChildStatus` fits. -/
def ChildStatus.wf (x : ChildStatus) : Bool :=
  fits32 x.child && fits32 x.epoch && fits32 x.generation && fits8 x.state && fits32 x.lostFrags

/-- Every number of a `CoverEntry` fits. -/
def CoverEntry.wf (x : CoverEntry) : Bool :=
  fits32 x.tray && x.slots.all fits32

/-- Every number of a `CounterEntry` fits. -/
def CounterEntry.wf (x : CounterEntry) : Bool :=
  fits16 x.index && fits16 x.partition && fits8 x.prescale && fits16 x.residue && fits64 x.delta

/-- Every number of a `SumEntry` fits. -/
def SumEntry.wf (x : SumEntry) : Bool :=
  fits32 x.index && fits16 x.partition && fits8 x.prescale && fits32 x.contrib && fits32 x.void && fits64 x.sum
    && fits32 x.lost

/-- Every number of a `GaugeEntry` fits. -/
def GaugeEntry.wf (x : GaugeEntry) : Bool :=
  fits16 x.index && fits32 x.sample && fits16 x.partition && fits32 x.value

/-- Every number of a `AggEntry` fits. -/
def AggEntry.wf (x : AggEntry) : Bool :=
  fits32 x.index && fits32 x.sample && fits16 x.partition && fits32 x.present && fits32 x.inexact
    && fits32 x.missing

/-- Every number of a `LossEntry` fits. -/
def LossEntry.wf (x : LossEntry) : Bool :=
  fits16 x.lkind && x.partition.all fits16 && fits32 x.indexFirst && fits32 x.indexLast && fits64 x.subject
    && fits64 x.frame && x.quantity.all fits64

/-- Every number of a `Report` fits. -/
def Report.wf (x : Report) : Bool :=
  fits16 x.code && fits32 x.reporter && fits64 x.subject && fits64 x.ft && fits32 x.epoch && fits32 x.count
    && x.first8.length ≤ 8 && fits8 x.tier && fits8 x.detail && fits64 x.window

/-- Every number of a `StormEntry` fits. -/
def StormEntry.wf (x : StormEntry) : Bool :=
  fits16 x.code && fits32 x.source && fits64 x.ft && fits64 x.window && fits32 x.epoch && fits32 x.reports
    && fitsDie x.first && fits8 x.tier && fits32 x.codesShared

/-- Every field of an alert entry fits. -/
def AlertEntry.wf : AlertEntry → Bool
  | .report r => r.wf
  | .storm e => e.wf

/-- Every number of a `Record` fits. -/
def Record.wf (x : Record) : Bool :=
  fits8 x.kind && fits8 x.tier && fits8 x.replica && fits64 x.frame && fitsPeriod x.period && fits32 x.epoch
    && fits32 x.source && fits32 x.seq && fits32 x.generation && fits64 x.missFirst && fits32 x.missCount
    && x.children.all ChildStatus.wf && x.cover.all CoverEntry.wf && x.counters.all CounterEntry.wf
    && x.sums.all SumEntry.wf && x.gauges.all GaugeEntry.wf && x.aggs.all AggEntry.wf && x.losses.all LossEntry.wf
    && x.alerts.all AlertEntry.wf

/-- Every number of a `Req` fits. -/
def Req.wf (x : Req) : Bool :=
  x.issuer.wf && fits32 x.tag && fits8 x.hver && fits8 x.plen && x.scope.wf

/-- Every number of a `ScoreEntry` fits. -/
def ScoreEntry.wf (x : ScoreEntry) : Bool :=
  fits32 x.model && fits32 x.imageCrc && fits32 x.die && fits32 x.firstTree && fits32 x.lastTree && fits32 x.sframe
    && fits32 x.doneUs

/-- Every number of a `ScoreRecord` fits. -/
def ScoreRecord.wf (x : ScoreRecord) : Bool :=
  fits64 x.frame && fits32 x.source && fits32 x.epoch && fits32 x.seq && x.scores.all ScoreEntry.wf

/-- Every number of a `SeriesDesc` fits. -/
def SeriesDesc.wf (x : SeriesDesc) : Bool :=
  fits16 x.index && fits8 x.kind && fits8 x.windowLog2 && fits16 x.srcA && fits16 x.srcB && fits16 x.partition
    && fits8 x.shift && fits8 x.baseShift && fits8 x.levelRun && fits16 x.levelK && fits16 x.block
    && fits8 x.driftRun && fits8 x.weightB && fits16 x.ports && fits32 x.target

/-- Every number of a `SeriesEntry` fits. -/
def SeriesEntry.wf (x : SeriesEntry) : Bool :=
  fits32 x.sindex && fits32 x.sstate

/-- Every number of a `LateEntry` fits. -/
def LateEntry.wf (x : LateEntry) : Bool :=
  x.marker < 2 ^ 24 && x.lkind < 16 && x.cls < 16 && fits32 x.occ

/-- Every number of a `SeriesRecord` fits. -/
def SeriesRecord.wf (x : SeriesRecord) : Bool :=
  fits64 x.frame && fitsPeriod x.period && fits32 x.epoch && fitsDie x.die && fits32 x.seq && fits32 x.job
    && fits32 x.calCrc && x.series.all SeriesEntry.wf && x.late.all LateEntry.wf

/-- Every number of a `StreamId` fits. -/
def StreamId.wf (x : StreamId) : Bool :=
  fits8 x.kind && fits32 x.coll && fits32 x.inst && fits32 x.peer && fits32 x.port

/-- Every number of a `PartEntry` fits. -/
def PartEntry.wf (x : PartEntry) : Bool :=
  fits32 x.model && fits32 x.part && fits32 x.firstTree && fits32 x.lastTree && fits32 x.host

/-- Every number of a `TablePart` fits. -/
def TablePart.wf (x : TablePart) : Bool :=
  fits8 x.replica && fits32 x.generation && fits32 x.issuer && fits32 x.target && fits64 x.issueFt && fits8 x.qreplica
    && fits8 x.freplica && x.quarter < 32 && fits16 x.standin && fits32 x.ceiling && x.qhosts.all fits16
    && x.fhosts.all fits16 && x.succs.all fits16 && x.parts.all PartEntry.wf

/-- Every number of a `TallyValue` fits. -/
def TallyValue.wf (x : TallyValue) : Bool :=
  fits32 x.count && x.first8.length ≤ 8

/-- Every number of a `TallyBlock` fits. -/
def TallyBlock.wf (x : TallyBlock) : Bool :=
  fits32 x.job && fits32 x.coll && fits32 x.inst && fits32 x.scatter && fits32 x.unchkRanks
    && x.values.all TallyValue.wf

/-- Every number of a `TallyRecord` fits. -/
def TallyRecord.wf (x : TallyRecord) : Bool :=
  fits64 x.frame && fits32 x.source && fits32 x.epoch && fits32 x.seq && x.blocks.all TallyBlock.wf

/-- Every number of a `TapBeat` fits. -/
def TapBeat.wf (x : TapBeat) : Bool :=
  fits8 x.kind && fits32 x.coll && fits32 x.inst && fits32 x.peer && fits32 x.port && fits32 x.unit && fits32 x.off
    && fits64 x.bytes

/-- Every number of a `TestEntry` fits. -/
def TestEntry.wf (x : TestEntry) : Bool :=
  fits16 x.testId && fits8 x.tkind && fits8 x.failLimit && fits8 x.unitFirst && fits8 x.unitLast
    && fits16 x.respKib && fits32 x.duration && fits32 x.interval && fits32 x.patOff && fits32 x.patLen

/-- Every number of a `TestPkg` fits. -/
def TestPkg.wf (x : TestPkg) : Bool :=
  fits16 x.tag && fits8 x.version && fits32 x.pkgId && fits32 x.pkgRev && fits32 x.dieType && fits16 x.sigLen
    && fits32 x.patBytes && fits64 x.sigKey && fits32 x.maxDefer && fits32 x.hdrCrc && x.tests.all TestEntry.wf && x.sig.wf

/-- Every number of a `ThresholdNotice` fits. -/
def ThresholdNotice.wf (x : ThresholdNotice) : Bool :=
  fits32 x.job && fits32 x.marker && fits2 x.rule && fits2 x.scope && fits64 x.occ && x.quantile.all fits64
    && fits32 x.margin && fits32 x.n && x.threshold.all fits64 && fits32 x.absent && fits32 x.source

/-- Every number of a `TrcPacket` fits. -/
def TrcPacket.wf (x : TrcPacket) : Bool :=
  fits32 x.front && fits32 x.channel && fits32 x.info && fits8 x.priv && fits32 x.part && fits64 x.cycle

/-- Every number of a `FeatDesc` fits. -/
def FeatDesc.wf (x : FeatDesc) : Bool :=
  fits16 x.feature && fits8 x.fkind && x.shift < 32 && fits16 x.src && fitsS32 x.const

/-- Every number of a `DirEntry` fits. -/
def DirEntry.wf (x : DirEntry) : Bool :=
  fits32 x.root && x.n < 2 ^ 17 && x.depth < 32

/-- Every number of a `TreeImage` fits. -/
def TreeImage.wf (x : TreeImage) : Bool :=
  fits16 x.tag && fits8 x.version && fits32 x.model && fits16 x.partition && fitsS32 x.base && fitsS64 x.alertLevel
    && fits16 x.scoreEvery && fits8 x.maxDepth && fits32 x.imageCrc && fits16 x.features.length && fits32 x.dir.length
    && fits32 x.nodes.length && x.features.all FeatDesc.wf && x.dir.all DirEntry.wf

/-- Every number of an `ImageAsk` fits. -/
def ImageAsk.wf (x : ImageAsk) : Bool :=
  fits32 x.model && fits32 x.imageCrc && x.tray < 1024 && x.range.all fun r => fits16 r.1 && fits16 r.2

/-- Every number of a `VerdictNotice` fits. -/
def VerdictNotice.wf (x : VerdictNotice) : Bool :=
  fits32 x.job && fits32 x.coll && fits32 x.inst && fits32 x.nMaj && fits32 x.nOther && fits32 x.nAbsent
    && fits32 x.source

/-- Every number of a `CollEntry` fits. -/
def CollEntry.wf (x : CollEntry) : Bool :=
  fits32 x.coll && fits8 x.ckind && fits8 x.scope && fits8 x.policy && fits8 x.fenceAfter && fits32 x.ranks

/-! ## Commands -/

/-- The command's operands fit their fields. -/
def Instr.wf : Instr → Bool
  | .sessionOpen r ring ringN vector _ => r.wf && fits64 ring && fits16 ringN && fits16 vector
  | .sessionClose r => r.wf
  | .sessionInfo r partition => r.wf && fits16 partition
  | .sessionQuotaSet r partition quota => r.wf && fits16 partition && fits8 quota
  | .sessionIdleSet r idleS => r.wf && fits32 idleS
  | .sessionWindowSet r partition window base len =>
    r.wf && fits16 partition && fits8 window && fits64 base && fits64 len
  | .partitionRelease r partition => r.wf && fits16 partition
  | .timeStatus r => r.wf
  | .timeSetMode r mode => r.wf && fits8 mode
  | .frameSetPeriod r periodUs e => r.wf && fits32 periodUs && fits64 e
  | .frameHalt r halt => r.wf && fits8 halt
  | .lineSet r line _ => r.wf && fits16 line
  | .counterBind r counter _ => r.wf && fits16 counter
  | .counterUnbind r counter => r.wf && fits16 counter
  | .counterPrescaleSet r counter prescale => r.wf && fits16 counter && fits8 prescale
  | .counterRead r first count => r.wf && fits16 first && fits16 count
  | .counterStatus r => r.wf
  | .gaugeSet r gauge _ => r.wf && fits16 gauge
  | .watermarkSet r comparator _ counter threshold hyst =>
    r.wf && fits16 comparator && fits16 counter && fits64 threshold && fits64 hyst
  | .watermarkRead r comparator => r.wf && fits16 comparator
  | .gaugeRead r gauge => r.wf && fits16 gauge
  | .snapshotSet r desc stride => r.wf && desc.wf && fits16 stride
  | .ledgerStatus r => r.wf
  | .ledgerRetainSet r regionKib desc => r.wf && fits32 regionKib && desc.wf
  | .ledgerRead r desc frame kind => r.wf && desc.wf && fits64 frame && fits8 kind
  | .ledgerSinkSet r desc _ => r.wf && desc.wf
  | .placeSetConstraints r seed separation standinMin locDesc nohostDesc locations noHost =>
    r.wf && fits32 seed && fits8 separation && fits16 standinMin && locDesc.wf && nohostDesc.wf
      && (locations.length ≤ 1024) && noHost.all fits16
  | .placeDrain r tray => r.wf && fits32 tray
  | .placeRestore r tray => r.wf && fits32 tray
  | .placeStatus r => r.wf
  | .placeCensusTransfer r die frame => r.wf && fits32 die && fits64 frame
  | .seriesDefine r d => r.wf && d.wf
  | .seriesRead r index die desc => r.wf && fits16 index && fitsDie die && desc.wf
  | .histRead r desc job marker key _ scope =>
    r.wf && desc.wf && fits32 job && fits32 marker && fits64 key && fits8 scope
  | .confCalLoad r desc image => r.wf && desc.wf && image.wf
  | .confCalArm r anchor job => r.wf && fits64 anchor && fits32 job
  | .confCohortSet r rule _ => r.wf && rule.wf
  | .confStatus r desc job => r.wf && desc.wf && fits32 job
  | .seriesQuotaSet r partition quota => r.wf && fits16 partition && fits8 quota
  | .treeLoad r desc image => r.wf && desc.wf && image.wf
  | .treeArm r model frame => r.wf && fits32 model && fits64 frame
  | .treeUnload r model => r.wf && fits32 model
  | .treeQuotaSet r partition trees nodes => r.wf && fits16 partition && fits32 trees && fits32 nodes
  | .treeStatus r model => r.wf && fits32 model
  | .treeScoreRead r model die => r.wf && fits32 model && fits32 die
  | .arcadeStatus r => r.wf
  | .arcadeHold r _ ftFirst ftLast => r.wf && fits64 ftFirst && fits64 ftLast
  | .arcadeRelease r holdId => r.wf && fits8 holdId
  | .arcadePortRestore r port => r.wf && fits8 port
  | .arcadeLocate r desc tray frameFirst frameLast =>
    r.wf && desc.wf && fits32 tray && fits64 frameFirst && fits64 frameLast
  | .backscanSubmit r queryAddr query desc => r.wf && fits64 queryAddr && query.wf && desc.wf
  | .backscanCancel r queryId => r.wf && fits32 queryId
  | .backscanStatus r queryId => r.wf && fits32 queryId
  | .digestArm r key job anchor desc n table =>
    r.wf && fits64 key && fits32 job && fits64 anchor && desc.wf && fits16 n && table.all CollEntry.wf
  | .digestStatus r job => r.wf && fits32 job
  | .digestVerdictRead r job coll inst => r.wf && fits32 job && fits32 coll && fits32 inst
  | .testPkgLoad r desc patDesc pkg => r.wf && desc.wf && patDesc.wf && pkg.wf
  | .testPkgUnload r pkgId => r.wf && fits32 pkgId
  | .testIdleGrant r unitFirst unitLast start lenMs =>
    r.wf && fits8 unitFirst && fits8 unitLast && fits64 start && fits32 lenMs
  | .testStatus r pkgId => r.wf && fits32 pkgId
  | .fenceSet r line => r.wf && fits8 line
  | .fenceRelease r line => r.wf && fits8 line
  | .fenceHistoryRead r offset desc => r.wf && fits32 offset && desc.all Desc.wf
  | .cdsRelease r rkind index => r.wf && fits8 rkind && fits8 index
  | .traceSourceSet r source _ => r.wf && fits8 source
  | .traceGrant r _ _ lenS => r.wf && fits32 lenS
  | .traceRevoke r grantId => r.wf && fits8 grantId
  | .traceFlush r _ => r.wf
  | .traceChainSet r chain desc => r.wf && fits8 chain && desc.wf
  | .bufChainAppend r ckind chain desc => r.wf && fits8 ckind && fits8 chain && desc.wf
  | .traceStatus r source => r.wf && fits8 source
  | .uplShaperSet r cls rate cap quantum => r.wf && fits8 cls && fits32 rate && fits32 cap && fits32 quantum
  | .uplStandingSet r gatePort gateRate gateSpace gateLen kerbMargin =>
    r.wf && fits8 gatePort && fits16 gateRate && fits32 gateSpace && fits32 gateLen && fits16 kerbMargin
  | .uplStatus r cls => r.wf && fits8 cls
  | .pwrPark r => r.wf
  | .pwrDomainSet r domain state => r.wf && fits8 domain && fits8 state
  | .engineReset r domain timeoutUs => r.wf && fits8 domain && fits32 timeoutUs
  | .resetRequest r confirm => r.wf && fits32 confirm
  | .pwrStatus r => r.wf
  | .dumpTake r desc _ atFt => r.wf && desc.wf && fits64 atFt
  | .wfgBuild r desc atFt => r.wf && desc.wf && fits64 atFt
  | .nvlogRead r region offset desc => r.wf && fits8 region && fits32 offset && desc.all Desc.wf
  | .epochReset r confirm => r.wf && fits32 confirm
  | .fwUpdate r desc image atFt => r.wf && desc.wf && image.wf && fits64 atFt
  | .fwCommit r => r.wf
  | .fwStatus r => r.wf
  | .pmDoorbell n priv part _ => fitsPm n && fitsPriv priv && fitsPart part
  | .pmDoneClear n priv _ => fitsPm n && fitsPriv priv
  | .tmDb priv part size _ session => fitsPriv priv && fitsPart part && fitsSize size && fits16 session
  | .ftLoRead priv => fitsPriv priv
  | .intStsClear priv _ => fitsPriv priv
  | .wakeCtlWrite priv _ => fitsPriv priv
  | .engRstWrite priv _ => fitsPriv priv
  | .bootDb priv _ => fitsPriv priv
  | .hrwRegisterWrite offset priv part size _ session =>
    fits16 offset && fitsPriv priv && fitsPart part && fitsSize size && fits16 session
  | .sbiRequest bytes => bytes.length == 128
  | .sbiSelectResponse => true
  | .sbiSelectAlert => true
  | .sbiBootSegment segment => (segment.length ≤ 128)
  | .sbiRead => true
  | .entdaa addr => fitsAddr7 addr
  | .setdasa addr => fitsAddr7 addr
  | .rstdaa => true
  | .enec _ => true
  | .disec _ => true
  | .getpid => true
  | .getbcr => true
  | .getdcr => true
  | .getstatus => true
  | .getmwl => true
  | .getmrl => true
  | .extest => true
  | .idcode => true
  | .samplePreload => true
  | .clamp => true
  | .highz => true
  | .lqIjtag => true
  | .bypass code => fits8 code
  | .ijtagInstrumentAccess domain _ => fits8 domain
  | .ijtagMemorySelftest domain => fits8 domain
  | .ijtagDumpTrigger => true
  | .ijtagDebugReset => true
  | .powerOn fuse straps => fuse.wf && fitsDie straps
  | .powerLoss => true
  | .pwrOkCoreRise => true
  | .brownOut => true
  | .pinReset lowNs => fits64 lowNs
  | .pinResetRelease => true
  | .samplerRelease => true
  | .bootImageRun image => image.wf
  | .wake => true
  | .wakeComplete => true
  | .parkEntryComplete => true
  | .watchdogTimeout => true
  | .watchdogPrewarning => true
  | .lockup => true
  | .clockFailure group => fits8 group
  | .nvlogWriteComplete => true
  | .ftiTimeWord edges _ => fits32 edges
  | .ftiGoodWordTimeout => true
  | .holdoverTimeout => true
  | .ftiRefLoss => true
  | .frameBoundary _ _ => true
  | .periodChangeEffect => true
  | .evtOccurrence conc _ => fitsConc conc
  | .drainWord line _ count _ => fits16 line && fits16 count
  | .sealWord conc => fitsConc conc
  | .frameSnapshotComplete _ => true
  | .scoreComplete model die _ => fits32 model && fits32 die
  | .scoreMissingTimeout model die frame => fits32 model && fits32 die && fits64 frame
  | .gaugeUpdate conc idx value => fitsConc conc && fitsGauge idx && fits32 value
  | .markerStrobe mid => fits32 mid
  | .strobeMatch => true
  | .markerDeadline mid => fits32 mid
  | .calendarAnchor => true
  | .digestKeyAnchor => true
  | .tracePacket p => p.wf
  | .traceServe front => fits8 front
  | .traceBlockAgeFlush source => fits8 source
  | .traceGrantExpiry grantId => fits8 grantId
  | .tapBeat b => b.wf
  | .tapChunkDigest stream => stream.wf
  | .digestListTimeout stream => stream.wf
  | .unitMaskExpiry job coll inst => fits32 job && fits32 coll && fits32 inst
  | .verdictNoticeLeaf n => n.wf
  | .gateOpen => true
  | .packetInject => true
  | .kerbReached => true
  | .gateClose => true
  | .bypSend => true
  | .dnlPacket p _ _ _ => p.wf
  | .ledgerRecordReceive _ rec _ _ _ => rec.wf
  | .tierCutoff _ frame period => fits64 frame && fitsPeriod period
  | .repairWindowEnd _ frame period => fits64 frame && fitsPeriod period
  | .settleHorizon _ frame period => fits64 frame && fitsPeriod period
  | .ledgerAck a sender => a.wf && fits32 sender
  | .seriesRecord _ rec _ => rec.wf
  | .histogramRecord _ h => h.wf
  | .occurrenceCloseTimeout _ job marker occ => fits32 job && fits32 marker && fits32 occ
  | .thresholdNotice n => n.wf
  | .thresholdHoldExpiry job marker occ => fits32 job && fits32 marker && fits32 occ
  | .featureRecord rec => rec.wf
  | .scoreRecord _ rec => rec.wf
  | .digestRecord _ rec => rec.wf
  | .tallyRecord _ rec => rec.wf
  | .verdictNoticePlaza n => n.wf
  | .resultHoldExpiry job coll inst => fits32 job && fits32 coll && fits32 inst
  | .faultReportReceive _ rep => rep.wf
  | .stormEntryReceive _ e => e.wf
  | .placementTablePart p => p.wf
  | .placementTableIssue _ chips => chips.all (fun x => fits16 x.tray)
  | .tableResend => true
  | .adoptReq m => m.wf
  | .adoptOffer m => m.wf
  | .adoptConfirm m => m.wf
  | .adoptAck m => m.wf
  | .adoptRefuse m => m.wf
  | .adoptTryTimeout => true
  | .orphanRetry => true
  | .release m => m.wf
  | .keepalive m => m.wf
  | .beacon m => m.wf
  | .keepaliveDue peer => fits32 peer
  | .linkSilence peer => fits32 peer
  | .forumSilence => true
  | .livenessHoldComplete tray => fits32 tray
  | .imageRequest ask requester => ask.wf && fits32 requester
  | .ensembleRange image firstTree lastTree tray _ activeFrom =>
    image.wf && fits16 firstTree && fits16 lastTree && tray < 1024 && activeFrom.all fits64
  | .relayedCommand cls partition tag cmd _ parent _ =>
    fits8 cls && fits16 partition && fits32 tag && fits16 cmd && fits32 parent
  | .relayCompletion tag cmd child nOk nFail nNoReply firstStatus first8 =>
    fits32 tag && fits16 cmd && fits32 child && fits32 nOk && fits32 nFail && fits32 nNoReply && fits16 firstStatus
      && (first8.length ≤ 8)
  | .relayTimeout tag cmd => fits32 tag && fits16 cmd
  | .sessionIdleTimeout slot => fitsSlot slot
  | .noticeDeliver _ => true
  | .responseRingResume slot cons => fitsSlot slot && fits32 cons
  | .bufResponse id _ next => fits16 id && next.all Desc.wf
  | .bufTimeout id => fits16 id
  | .memResponse port tag _ => fits8 port && fits16 tag
  | .memOpTimeout port tag => fits8 port && fits16 tag
  | .memLinkLoss port => fits8 port
  | .segmentSealTimeout log => fits8 log
  | .arcadeHoldExpiry holdId => fits8 holdId
  | .backscanStart => true
  | .backscanComplete queryId => fits32 queryId
  | .backscanTimeout queryId => fits32 queryId
  | .quietWindowOpen _ => true
  | .idleGrantStart => true
  | .idleGrantEnd => true
  | .fncTestDone _ => true
  | .fncTestErr => true
  | .testAbortTimeout => true
  | .testOverdue pkgId testId unit => fits32 pkgId && fits16 testId && fits8 unit
  | .blockResourceTest pkgId testId unit _ _ _ => fits32 pkgId && fits16 testId && fits8 unit
  | .resourceFault rkind index => fits8 rkind && fits16 index
  | .quiesceAck domain => fits8 domain
  | .quiesceTimeout domain => fits8 domain
  | .engineRelease domain => fits8 domain
  | .crossingClockStart group => fits8 group
  | .dravaTimeout group => fits8 group
  | .hangDeclared domain object => fits8 domain && fits32 object
  | .dumpCapture trigger _ => fits8 trigger
  | .fwRestart => true
  | .fwTrialTimeout => true
  | .dbgCtlExpiry => true
  | .softwareReset => true
  | .domainSettle domain => fits8 domain
  | .testLogicReset => true
  | .pwrOkCoreFallParked => true

end Sys2Proof
end

