-- ==== Sys2Proof/Laws/PerInstr.lean ====
section
/-!
SUPPORT. For every command: where its operands fit the fields that carry them, so does the request it came with.
-/

namespace Sys2Proof.Laws

open Sys2Proof.Machine

/-- A well-formed mailbox command carries a well-formed request. -/
def WellFormedRequest.Statement (i : Instr) : Prop := i.wf = true → ∀ x, commandOf i = some x → x.2.wf = true

theorem and_left {a b : Bool} (h : (a && b) = true) : a = true := by
  cases a
  · cases h
  · rfl

theorem WellFormedRequest.sessionOpen : ∀ a b c d e, WellFormedRequest.Statement (.sessionOpen a b c d e) := by
  intros; intro w x h; cases h; exact (and_left (and_left (and_left w)))
theorem WellFormedRequest.sessionClose : ∀ a, WellFormedRequest.Statement (.sessionClose a) := by
  intros; intro w x h; cases h; exact w
theorem WellFormedRequest.sessionInfo : ∀ a b, WellFormedRequest.Statement (.sessionInfo a b) := by
  intros; intro w x h; cases h; exact (and_left w)
theorem WellFormedRequest.sessionQuotaSet : ∀ a b c, WellFormedRequest.Statement (.sessionQuotaSet a b c) := by
  intros; intro w x h; cases h; exact (and_left (and_left w))
theorem WellFormedRequest.sessionIdleSet : ∀ a b, WellFormedRequest.Statement (.sessionIdleSet a b) := by
  intros; intro w x h; cases h; exact (and_left w)
theorem WellFormedRequest.sessionWindowSet : ∀ a b c d e, WellFormedRequest.Statement (.sessionWindowSet a b c d e) := by
  intros; intro w x h; cases h; exact (and_left (and_left (and_left (and_left w))))
theorem WellFormedRequest.partitionRelease : ∀ a b, WellFormedRequest.Statement (.partitionRelease a b) := by
  intros; intro w x h; cases h; exact (and_left w)
theorem WellFormedRequest.timeStatus : ∀ a, WellFormedRequest.Statement (.timeStatus a) := by
  intros; intro w x h; cases h; exact w
theorem WellFormedRequest.timeSetMode : ∀ a b, WellFormedRequest.Statement (.timeSetMode a b) := by
  intros; intro w x h; cases h; exact (and_left w)
theorem WellFormedRequest.frameSetPeriod : ∀ a b c, WellFormedRequest.Statement (.frameSetPeriod a b c) := by
  intros; intro w x h; cases h; exact (and_left (and_left w))
theorem WellFormedRequest.frameHalt : ∀ a b, WellFormedRequest.Statement (.frameHalt a b) := by
  intros; intro w x h; cases h; exact (and_left w)
theorem WellFormedRequest.lineSet : ∀ a b c, WellFormedRequest.Statement (.lineSet a b c) := by
  intros; intro w x h; cases h; exact (and_left w)
theorem WellFormedRequest.counterBind : ∀ a b c, WellFormedRequest.Statement (.counterBind a b c) := by
  intros; intro w x h; cases h; exact (and_left w)
theorem WellFormedRequest.counterUnbind : ∀ a b, WellFormedRequest.Statement (.counterUnbind a b) := by
  intros; intro w x h; cases h; exact (and_left w)
theorem WellFormedRequest.counterPrescaleSet : ∀ a b c, WellFormedRequest.Statement (.counterPrescaleSet a b c) := by
  intros; intro w x h; cases h; exact (and_left (and_left w))
theorem WellFormedRequest.counterRead : ∀ a b c, WellFormedRequest.Statement (.counterRead a b c) := by
  intros; intro w x h; cases h; exact (and_left (and_left w))
theorem WellFormedRequest.counterStatus : ∀ a, WellFormedRequest.Statement (.counterStatus a) := by
  intros; intro w x h; cases h; exact w
theorem WellFormedRequest.gaugeSet : ∀ a b c, WellFormedRequest.Statement (.gaugeSet a b c) := by
  intros; intro w x h; cases h; exact (and_left w)
theorem WellFormedRequest.watermarkSet : ∀ a b c d e f, WellFormedRequest.Statement (.watermarkSet a b c d e f) := by
  intros; intro w x h; cases h; exact (and_left (and_left (and_left (and_left w))))
theorem WellFormedRequest.watermarkRead : ∀ a b, WellFormedRequest.Statement (.watermarkRead a b) := by
  intros; intro w x h; cases h; exact (and_left w)
theorem WellFormedRequest.gaugeRead : ∀ a b, WellFormedRequest.Statement (.gaugeRead a b) := by
  intros; intro w x h; cases h; exact (and_left w)
theorem WellFormedRequest.snapshotSet : ∀ a b c, WellFormedRequest.Statement (.snapshotSet a b c) := by
  intros; intro w x h; cases h; exact (and_left (and_left w))
theorem WellFormedRequest.ledgerStatus : ∀ a, WellFormedRequest.Statement (.ledgerStatus a) := by
  intros; intro w x h; cases h; exact w
theorem WellFormedRequest.ledgerRetainSet : ∀ a b c, WellFormedRequest.Statement (.ledgerRetainSet a b c) := by
  intros; intro w x h; cases h; exact (and_left (and_left w))
theorem WellFormedRequest.ledgerRead : ∀ a b c d, WellFormedRequest.Statement (.ledgerRead a b c d) := by
  intros; intro w x h; cases h; exact (and_left (and_left (and_left w)))
theorem WellFormedRequest.ledgerSinkSet : ∀ a b c, WellFormedRequest.Statement (.ledgerSinkSet a b c) := by
  intros; intro w x h; cases h; exact (and_left w)
theorem WellFormedRequest.placeSetConstraints : ∀ a b c d e f g h, WellFormedRequest.Statement (.placeSetConstraints a b c d e f g h) := by
  intros; intro w x h; cases h; exact (and_left (and_left (and_left (and_left (and_left (and_left (and_left w)))))))
theorem WellFormedRequest.placeDrain : ∀ a b, WellFormedRequest.Statement (.placeDrain a b) := by
  intros; intro w x h; cases h; exact (and_left w)
theorem WellFormedRequest.placeRestore : ∀ a b, WellFormedRequest.Statement (.placeRestore a b) := by
  intros; intro w x h; cases h; exact (and_left w)
theorem WellFormedRequest.placeStatus : ∀ a, WellFormedRequest.Statement (.placeStatus a) := by
  intros; intro w x h; cases h; exact w
theorem WellFormedRequest.placeCensusTransfer : ∀ a b c, WellFormedRequest.Statement (.placeCensusTransfer a b c) := by
  intros; intro w x h; cases h; exact (and_left (and_left w))
theorem WellFormedRequest.seriesDefine : ∀ a b, WellFormedRequest.Statement (.seriesDefine a b) := by
  intros; intro w x h; cases h; exact (and_left w)
theorem WellFormedRequest.seriesRead : ∀ a b c d, WellFormedRequest.Statement (.seriesRead a b c d) := by
  intros; intro w x h; cases h; exact (and_left (and_left (and_left w)))
theorem WellFormedRequest.histRead : ∀ a b c d e f g, WellFormedRequest.Statement (.histRead a b c d e f g) := by
  intros; intro w x h; cases h; exact (and_left (and_left (and_left (and_left (and_left w)))))
theorem WellFormedRequest.confCalLoad : ∀ a b c, WellFormedRequest.Statement (.confCalLoad a b c) := by
  intros; intro w x h; cases h; exact (and_left (and_left w))
theorem WellFormedRequest.confCalArm : ∀ a b c, WellFormedRequest.Statement (.confCalArm a b c) := by
  intros; intro w x h; cases h; exact (and_left (and_left w))
theorem WellFormedRequest.confCohortSet : ∀ a b c, WellFormedRequest.Statement (.confCohortSet a b c) := by
  intros; intro w x h; cases h; exact (and_left w)
theorem WellFormedRequest.confStatus : ∀ a b c, WellFormedRequest.Statement (.confStatus a b c) := by
  intros; intro w x h; cases h; exact (and_left (and_left w))
theorem WellFormedRequest.seriesQuotaSet : ∀ a b c, WellFormedRequest.Statement (.seriesQuotaSet a b c) := by
  intros; intro w x h; cases h; exact (and_left (and_left w))
theorem WellFormedRequest.treeLoad : ∀ a b c, WellFormedRequest.Statement (.treeLoad a b c) := by
  intros; intro w x h; cases h; exact (and_left (and_left w))
theorem WellFormedRequest.treeArm : ∀ a b c, WellFormedRequest.Statement (.treeArm a b c) := by
  intros; intro w x h; cases h; exact (and_left (and_left w))
theorem WellFormedRequest.treeUnload : ∀ a b, WellFormedRequest.Statement (.treeUnload a b) := by
  intros; intro w x h; cases h; exact (and_left w)
theorem WellFormedRequest.treeQuotaSet : ∀ a b c d, WellFormedRequest.Statement (.treeQuotaSet a b c d) := by
  intros; intro w x h; cases h; exact (and_left (and_left (and_left w)))
theorem WellFormedRequest.treeStatus : ∀ a b, WellFormedRequest.Statement (.treeStatus a b) := by
  intros; intro w x h; cases h; exact (and_left w)
theorem WellFormedRequest.treeScoreRead : ∀ a b c, WellFormedRequest.Statement (.treeScoreRead a b c) := by
  intros; intro w x h; cases h; exact (and_left (and_left w))
theorem WellFormedRequest.arcadeStatus : ∀ a, WellFormedRequest.Statement (.arcadeStatus a) := by
  intros; intro w x h; cases h; exact w
theorem WellFormedRequest.arcadeHold : ∀ a b c d, WellFormedRequest.Statement (.arcadeHold a b c d) := by
  intros; intro w x h; cases h; exact (and_left (and_left w))
theorem WellFormedRequest.arcadeRelease : ∀ a b, WellFormedRequest.Statement (.arcadeRelease a b) := by
  intros; intro w x h; cases h; exact (and_left w)
theorem WellFormedRequest.arcadePortRestore : ∀ a b, WellFormedRequest.Statement (.arcadePortRestore a b) := by
  intros; intro w x h; cases h; exact (and_left w)
theorem WellFormedRequest.arcadeLocate : ∀ a b c d e, WellFormedRequest.Statement (.arcadeLocate a b c d e) := by
  intros; intro w x h; cases h; exact (and_left (and_left (and_left (and_left w))))
theorem WellFormedRequest.backscanSubmit : ∀ a b c d, WellFormedRequest.Statement (.backscanSubmit a b c d) := by
  intros; intro w x h; cases h; exact (and_left (and_left (and_left w)))
theorem WellFormedRequest.backscanCancel : ∀ a b, WellFormedRequest.Statement (.backscanCancel a b) := by
  intros; intro w x h; cases h; exact (and_left w)
theorem WellFormedRequest.backscanStatus : ∀ a b, WellFormedRequest.Statement (.backscanStatus a b) := by
  intros; intro w x h; cases h; exact (and_left w)
theorem WellFormedRequest.digestArm : ∀ a b c d e f g, WellFormedRequest.Statement (.digestArm a b c d e f g) := by
  intros; intro w x h; cases h; exact (and_left (and_left (and_left (and_left (and_left (and_left w))))))
theorem WellFormedRequest.digestStatus : ∀ a b, WellFormedRequest.Statement (.digestStatus a b) := by
  intros; intro w x h; cases h; exact (and_left w)
theorem WellFormedRequest.digestVerdictRead : ∀ a b c d, WellFormedRequest.Statement (.digestVerdictRead a b c d) := by
  intros; intro w x h; cases h; exact (and_left (and_left (and_left w)))
theorem WellFormedRequest.testPkgLoad : ∀ a b c d, WellFormedRequest.Statement (.testPkgLoad a b c d) := by
  intros; intro w x h; cases h; exact (and_left (and_left (and_left w)))
theorem WellFormedRequest.testPkgUnload : ∀ a b, WellFormedRequest.Statement (.testPkgUnload a b) := by
  intros; intro w x h; cases h; exact (and_left w)
theorem WellFormedRequest.testIdleGrant : ∀ a b c d e, WellFormedRequest.Statement (.testIdleGrant a b c d e) := by
  intros; intro w x h; cases h; exact (and_left (and_left (and_left (and_left w))))
theorem WellFormedRequest.testStatus : ∀ a b, WellFormedRequest.Statement (.testStatus a b) := by
  intros; intro w x h; cases h; exact (and_left w)
theorem WellFormedRequest.fenceSet : ∀ a b, WellFormedRequest.Statement (.fenceSet a b) := by
  intros; intro w x h; cases h; exact (and_left w)
theorem WellFormedRequest.fenceRelease : ∀ a b, WellFormedRequest.Statement (.fenceRelease a b) := by
  intros; intro w x h; cases h; exact (and_left w)
theorem WellFormedRequest.fenceHistoryRead : ∀ a b c, WellFormedRequest.Statement (.fenceHistoryRead a b c) := by
  intros; intro w x h; cases h; exact (and_left (and_left w))
theorem WellFormedRequest.cdsRelease : ∀ a b c, WellFormedRequest.Statement (.cdsRelease a b c) := by
  intros; intro w x h; cases h; exact (and_left (and_left w))
theorem WellFormedRequest.traceSourceSet : ∀ a b c, WellFormedRequest.Statement (.traceSourceSet a b c) := by
  intros; intro w x h; cases h; exact (and_left w)
theorem WellFormedRequest.traceGrant : ∀ a b c d, WellFormedRequest.Statement (.traceGrant a b c d) := by
  intros; intro w x h; cases h; exact (and_left w)
theorem WellFormedRequest.traceRevoke : ∀ a b, WellFormedRequest.Statement (.traceRevoke a b) := by
  intros; intro w x h; cases h; exact (and_left w)
theorem WellFormedRequest.traceFlush : ∀ a b, WellFormedRequest.Statement (.traceFlush a b) := by
  intros; intro w x h; cases h; exact w
theorem WellFormedRequest.traceChainSet : ∀ a b c, WellFormedRequest.Statement (.traceChainSet a b c) := by
  intros; intro w x h; cases h; exact (and_left (and_left w))
theorem WellFormedRequest.bufChainAppend : ∀ a b c d, WellFormedRequest.Statement (.bufChainAppend a b c d) := by
  intros; intro w x h; cases h; exact (and_left (and_left (and_left w)))
theorem WellFormedRequest.traceStatus : ∀ a b, WellFormedRequest.Statement (.traceStatus a b) := by
  intros; intro w x h; cases h; exact (and_left w)
theorem WellFormedRequest.uplShaperSet : ∀ a b c d e, WellFormedRequest.Statement (.uplShaperSet a b c d e) := by
  intros; intro w x h; cases h; exact (and_left (and_left (and_left (and_left w))))
theorem WellFormedRequest.uplStandingSet : ∀ a b c d e f, WellFormedRequest.Statement (.uplStandingSet a b c d e f) := by
  intros; intro w x h; cases h; exact (and_left (and_left (and_left (and_left (and_left w)))))
theorem WellFormedRequest.uplStatus : ∀ a b, WellFormedRequest.Statement (.uplStatus a b) := by
  intros; intro w x h; cases h; exact (and_left w)
theorem WellFormedRequest.pwrPark : ∀ a, WellFormedRequest.Statement (.pwrPark a) := by
  intros; intro w x h; cases h; exact w
theorem WellFormedRequest.pwrDomainSet : ∀ a b c, WellFormedRequest.Statement (.pwrDomainSet a b c) := by
  intros; intro w x h; cases h; exact (and_left (and_left w))
theorem WellFormedRequest.engineReset : ∀ a b c, WellFormedRequest.Statement (.engineReset a b c) := by
  intros; intro w x h; cases h; exact (and_left (and_left w))
theorem WellFormedRequest.resetRequest : ∀ a b, WellFormedRequest.Statement (.resetRequest a b) := by
  intros; intro w x h; cases h; exact (and_left w)
theorem WellFormedRequest.pwrStatus : ∀ a, WellFormedRequest.Statement (.pwrStatus a) := by
  intros; intro w x h; cases h; exact w
theorem WellFormedRequest.dumpTake : ∀ a b c d, WellFormedRequest.Statement (.dumpTake a b c d) := by
  intros; intro w x h; cases h; exact (and_left (and_left w))
theorem WellFormedRequest.wfgBuild : ∀ a b c, WellFormedRequest.Statement (.wfgBuild a b c) := by
  intros; intro w x h; cases h; exact (and_left (and_left w))
theorem WellFormedRequest.nvlogRead : ∀ a b c d, WellFormedRequest.Statement (.nvlogRead a b c d) := by
  intros; intro w x h; cases h; exact (and_left (and_left (and_left w)))
theorem WellFormedRequest.epochReset : ∀ a b, WellFormedRequest.Statement (.epochReset a b) := by
  intros; intro w x h; cases h; exact (and_left w)
theorem WellFormedRequest.fwUpdate : ∀ a b c d, WellFormedRequest.Statement (.fwUpdate a b c d) := by
  intros; intro w x h; cases h; exact (and_left (and_left (and_left w)))
theorem WellFormedRequest.fwCommit : ∀ a, WellFormedRequest.Statement (.fwCommit a) := by
  intros; intro w x h; cases h; exact w
theorem WellFormedRequest.fwStatus : ∀ a, WellFormedRequest.Statement (.fwStatus a) := by
  intros; intro w x h; cases h; exact w
theorem WellFormedRequest.pmDoorbell : ∀ a b c d, WellFormedRequest.Statement (.pmDoorbell a b c d) := by
  intros; intro w x h; cases h
theorem WellFormedRequest.pmDoneClear : ∀ a b c, WellFormedRequest.Statement (.pmDoneClear a b c) := by
  intros; intro w x h; cases h
theorem WellFormedRequest.tmDb : ∀ a b c d e, WellFormedRequest.Statement (.tmDb a b c d e) := by
  intros; intro w x h; cases h
theorem WellFormedRequest.ftLoRead : ∀ a, WellFormedRequest.Statement (.ftLoRead a) := by
  intros; intro w x h; cases h
theorem WellFormedRequest.intStsClear : ∀ a b, WellFormedRequest.Statement (.intStsClear a b) := by
  intros; intro w x h; cases h
theorem WellFormedRequest.wakeCtlWrite : ∀ a b, WellFormedRequest.Statement (.wakeCtlWrite a b) := by
  intros; intro w x h; cases h
theorem WellFormedRequest.engRstWrite : ∀ a b, WellFormedRequest.Statement (.engRstWrite a b) := by
  intros; intro w x h; cases h
theorem WellFormedRequest.bootDb : ∀ a b, WellFormedRequest.Statement (.bootDb a b) := by
  intros; intro w x h; cases h
theorem WellFormedRequest.hrwRegisterWrite : ∀ a b c d e f, WellFormedRequest.Statement (.hrwRegisterWrite a b c d e f) := by
  intros; intro w x h; cases h
theorem WellFormedRequest.sbiRequest : ∀ a, WellFormedRequest.Statement (.sbiRequest a) := by
  intros; intro w x h; cases h
theorem WellFormedRequest.sbiSelectResponse : WellFormedRequest.Statement .sbiSelectResponse := by
  intro w x h; cases h
theorem WellFormedRequest.sbiSelectAlert : WellFormedRequest.Statement .sbiSelectAlert := by
  intro w x h; cases h
theorem WellFormedRequest.sbiBootSegment : ∀ a, WellFormedRequest.Statement (.sbiBootSegment a) := by
  intros; intro w x h; cases h
theorem WellFormedRequest.sbiRead : WellFormedRequest.Statement .sbiRead := by
  intro w x h; cases h
theorem WellFormedRequest.entdaa : ∀ a, WellFormedRequest.Statement (.entdaa a) := by
  intros; intro w x h; cases h
theorem WellFormedRequest.setdasa : ∀ a, WellFormedRequest.Statement (.setdasa a) := by
  intros; intro w x h; cases h
theorem WellFormedRequest.rstdaa : WellFormedRequest.Statement .rstdaa := by
  intro w x h; cases h
theorem WellFormedRequest.enec : ∀ a, WellFormedRequest.Statement (.enec a) := by
  intros; intro w x h; cases h
theorem WellFormedRequest.disec : ∀ a, WellFormedRequest.Statement (.disec a) := by
  intros; intro w x h; cases h
theorem WellFormedRequest.getpid : WellFormedRequest.Statement .getpid := by
  intro w x h; cases h
theorem WellFormedRequest.getbcr : WellFormedRequest.Statement .getbcr := by
  intro w x h; cases h
theorem WellFormedRequest.getdcr : WellFormedRequest.Statement .getdcr := by
  intro w x h; cases h
theorem WellFormedRequest.getstatus : WellFormedRequest.Statement .getstatus := by
  intro w x h; cases h
theorem WellFormedRequest.getmwl : WellFormedRequest.Statement .getmwl := by
  intro w x h; cases h
theorem WellFormedRequest.getmrl : WellFormedRequest.Statement .getmrl := by
  intro w x h; cases h
theorem WellFormedRequest.extest : WellFormedRequest.Statement .extest := by
  intro w x h; cases h
theorem WellFormedRequest.idcode : WellFormedRequest.Statement .idcode := by
  intro w x h; cases h
theorem WellFormedRequest.samplePreload : WellFormedRequest.Statement .samplePreload := by
  intro w x h; cases h
theorem WellFormedRequest.clamp : WellFormedRequest.Statement .clamp := by
  intro w x h; cases h
theorem WellFormedRequest.highz : WellFormedRequest.Statement .highz := by
  intro w x h; cases h
theorem WellFormedRequest.lqIjtag : WellFormedRequest.Statement .lqIjtag := by
  intro w x h; cases h
theorem WellFormedRequest.bypass : ∀ a, WellFormedRequest.Statement (.bypass a) := by
  intros; intro w x h; cases h
theorem WellFormedRequest.ijtagInstrumentAccess : ∀ a b, WellFormedRequest.Statement (.ijtagInstrumentAccess a b) := by
  intros; intro w x h; cases h
theorem WellFormedRequest.ijtagMemorySelftest : ∀ a, WellFormedRequest.Statement (.ijtagMemorySelftest a) := by
  intros; intro w x h; cases h
theorem WellFormedRequest.ijtagDumpTrigger : WellFormedRequest.Statement .ijtagDumpTrigger := by
  intro w x h; cases h
theorem WellFormedRequest.ijtagDebugReset : WellFormedRequest.Statement .ijtagDebugReset := by
  intro w x h; cases h
theorem WellFormedRequest.powerOn : ∀ a b, WellFormedRequest.Statement (.powerOn a b) := by
  intros; intro w x h; cases h
theorem WellFormedRequest.powerLoss : WellFormedRequest.Statement .powerLoss := by
  intro w x h; cases h
theorem WellFormedRequest.pwrOkCoreRise : WellFormedRequest.Statement .pwrOkCoreRise := by
  intro w x h; cases h
theorem WellFormedRequest.brownOut : WellFormedRequest.Statement .brownOut := by
  intro w x h; cases h
theorem WellFormedRequest.pinReset : ∀ a, WellFormedRequest.Statement (.pinReset a) := by
  intros; intro w x h; cases h
theorem WellFormedRequest.pinResetRelease : WellFormedRequest.Statement .pinResetRelease := by
  intro w x h; cases h
theorem WellFormedRequest.samplerRelease : WellFormedRequest.Statement .samplerRelease := by
  intro w x h; cases h
theorem WellFormedRequest.bootImageRun : ∀ a, WellFormedRequest.Statement (.bootImageRun a) := by
  intros; intro w x h; cases h
theorem WellFormedRequest.wake : WellFormedRequest.Statement .wake := by
  intro w x h; cases h
theorem WellFormedRequest.wakeComplete : WellFormedRequest.Statement .wakeComplete := by
  intro w x h; cases h
theorem WellFormedRequest.parkEntryComplete : WellFormedRequest.Statement .parkEntryComplete := by
  intro w x h; cases h
theorem WellFormedRequest.watchdogTimeout : WellFormedRequest.Statement .watchdogTimeout := by
  intro w x h; cases h
theorem WellFormedRequest.watchdogPrewarning : WellFormedRequest.Statement .watchdogPrewarning := by
  intro w x h; cases h
theorem WellFormedRequest.lockup : WellFormedRequest.Statement .lockup := by
  intro w x h; cases h
theorem WellFormedRequest.clockFailure : ∀ a, WellFormedRequest.Statement (.clockFailure a) := by
  intros; intro w x h; cases h
theorem WellFormedRequest.nvlogWriteComplete : WellFormedRequest.Statement .nvlogWriteComplete := by
  intro w x h; cases h
theorem WellFormedRequest.ftiTimeWord : ∀ a b, WellFormedRequest.Statement (.ftiTimeWord a b) := by
  intros; intro w x h; cases h
theorem WellFormedRequest.ftiGoodWordTimeout : WellFormedRequest.Statement .ftiGoodWordTimeout := by
  intro w x h; cases h
theorem WellFormedRequest.holdoverTimeout : WellFormedRequest.Statement .holdoverTimeout := by
  intro w x h; cases h
theorem WellFormedRequest.ftiRefLoss : WellFormedRequest.Statement .ftiRefLoss := by
  intro w x h; cases h
theorem WellFormedRequest.frameBoundary : ∀ a b, WellFormedRequest.Statement (.frameBoundary a b) := by
  intros; intro w x h; cases h
theorem WellFormedRequest.periodChangeEffect : WellFormedRequest.Statement .periodChangeEffect := by
  intro w x h; cases h
theorem WellFormedRequest.evtOccurrence : ∀ a b, WellFormedRequest.Statement (.evtOccurrence a b) := by
  intros; intro w x h; cases h
theorem WellFormedRequest.drainWord : ∀ a b c d, WellFormedRequest.Statement (.drainWord a b c d) := by
  intros; intro w x h; cases h
theorem WellFormedRequest.sealWord : ∀ a, WellFormedRequest.Statement (.sealWord a) := by
  intros; intro w x h; cases h
theorem WellFormedRequest.frameSnapshotComplete : ∀ a, WellFormedRequest.Statement (.frameSnapshotComplete a) := by
  intros; intro w x h; cases h
theorem WellFormedRequest.scoreComplete : ∀ a b c, WellFormedRequest.Statement (.scoreComplete a b c) := by
  intros; intro w x h; cases h
theorem WellFormedRequest.scoreMissingTimeout : ∀ a b c, WellFormedRequest.Statement (.scoreMissingTimeout a b c) := by
  intros; intro w x h; cases h
theorem WellFormedRequest.gaugeUpdate : ∀ a b c, WellFormedRequest.Statement (.gaugeUpdate a b c) := by
  intros; intro w x h; cases h
theorem WellFormedRequest.markerStrobe : ∀ a, WellFormedRequest.Statement (.markerStrobe a) := by
  intros; intro w x h; cases h
theorem WellFormedRequest.strobeMatch : WellFormedRequest.Statement .strobeMatch := by
  intro w x h; cases h
theorem WellFormedRequest.markerDeadline : ∀ a, WellFormedRequest.Statement (.markerDeadline a) := by
  intros; intro w x h; cases h
theorem WellFormedRequest.calendarAnchor : WellFormedRequest.Statement .calendarAnchor := by
  intro w x h; cases h
theorem WellFormedRequest.digestKeyAnchor : WellFormedRequest.Statement .digestKeyAnchor := by
  intro w x h; cases h
theorem WellFormedRequest.tracePacket : ∀ a, WellFormedRequest.Statement (.tracePacket a) := by
  intros; intro w x h; cases h
theorem WellFormedRequest.traceServe : ∀ a, WellFormedRequest.Statement (.traceServe a) := by
  intros; intro w x h; cases h
theorem WellFormedRequest.traceBlockAgeFlush : ∀ a, WellFormedRequest.Statement (.traceBlockAgeFlush a) := by
  intros; intro w x h; cases h
theorem WellFormedRequest.traceGrantExpiry : ∀ a, WellFormedRequest.Statement (.traceGrantExpiry a) := by
  intros; intro w x h; cases h
theorem WellFormedRequest.tapBeat : ∀ a, WellFormedRequest.Statement (.tapBeat a) := by
  intros; intro w x h; cases h
theorem WellFormedRequest.tapChunkDigest : ∀ a, WellFormedRequest.Statement (.tapChunkDigest a) := by
  intros; intro w x h; cases h
theorem WellFormedRequest.digestListTimeout : ∀ a, WellFormedRequest.Statement (.digestListTimeout a) := by
  intros; intro w x h; cases h
theorem WellFormedRequest.unitMaskExpiry : ∀ a b c, WellFormedRequest.Statement (.unitMaskExpiry a b c) := by
  intros; intro w x h; cases h
theorem WellFormedRequest.verdictNoticeLeaf : ∀ a, WellFormedRequest.Statement (.verdictNoticeLeaf a) := by
  intros; intro w x h; cases h
theorem WellFormedRequest.gateOpen : WellFormedRequest.Statement .gateOpen := by
  intro w x h; cases h
theorem WellFormedRequest.packetInject : WellFormedRequest.Statement .packetInject := by
  intro w x h; cases h
theorem WellFormedRequest.kerbReached : WellFormedRequest.Statement .kerbReached := by
  intro w x h; cases h
theorem WellFormedRequest.gateClose : WellFormedRequest.Statement .gateClose := by
  intro w x h; cases h
theorem WellFormedRequest.bypSend : WellFormedRequest.Statement .bypSend := by
  intro w x h; cases h
theorem WellFormedRequest.dnlPacket : ∀ a b c d, WellFormedRequest.Statement (.dnlPacket a b c d) := by
  intros; intro w x h; cases h
theorem WellFormedRequest.ledgerRecordReceive : ∀ a b c d e, WellFormedRequest.Statement (.ledgerRecordReceive a b c d e) := by
  intros; intro w x h; cases h
theorem WellFormedRequest.tierCutoff : ∀ a b c, WellFormedRequest.Statement (.tierCutoff a b c) := by
  intros; intro w x h; cases h
theorem WellFormedRequest.repairWindowEnd : ∀ a b c, WellFormedRequest.Statement (.repairWindowEnd a b c) := by
  intros; intro w x h; cases h
theorem WellFormedRequest.settleHorizon : ∀ a b c, WellFormedRequest.Statement (.settleHorizon a b c) := by
  intros; intro w x h; cases h
theorem WellFormedRequest.ledgerAck : ∀ a b, WellFormedRequest.Statement (.ledgerAck a b) := by
  intros; intro w x h; cases h
theorem WellFormedRequest.seriesRecord : ∀ a b c, WellFormedRequest.Statement (.seriesRecord a b c) := by
  intros; intro w x h; cases h
theorem WellFormedRequest.histogramRecord : ∀ a b, WellFormedRequest.Statement (.histogramRecord a b) := by
  intros; intro w x h; cases h
theorem WellFormedRequest.occurrenceCloseTimeout : ∀ a b c d, WellFormedRequest.Statement (.occurrenceCloseTimeout a b c d) := by
  intros; intro w x h; cases h
theorem WellFormedRequest.thresholdNotice : ∀ a, WellFormedRequest.Statement (.thresholdNotice a) := by
  intros; intro w x h; cases h
theorem WellFormedRequest.thresholdHoldExpiry : ∀ a b c, WellFormedRequest.Statement (.thresholdHoldExpiry a b c) := by
  intros; intro w x h; cases h
theorem WellFormedRequest.featureRecord : ∀ a, WellFormedRequest.Statement (.featureRecord a) := by
  intros; intro w x h; cases h
theorem WellFormedRequest.scoreRecord : ∀ a b, WellFormedRequest.Statement (.scoreRecord a b) := by
  intros; intro w x h; cases h
theorem WellFormedRequest.digestRecord : ∀ a b, WellFormedRequest.Statement (.digestRecord a b) := by
  intros; intro w x h; cases h
theorem WellFormedRequest.tallyRecord : ∀ a b, WellFormedRequest.Statement (.tallyRecord a b) := by
  intros; intro w x h; cases h
theorem WellFormedRequest.verdictNoticePlaza : ∀ a, WellFormedRequest.Statement (.verdictNoticePlaza a) := by
  intros; intro w x h; cases h
theorem WellFormedRequest.resultHoldExpiry : ∀ a b c, WellFormedRequest.Statement (.resultHoldExpiry a b c) := by
  intros; intro w x h; cases h
theorem WellFormedRequest.faultReportReceive : ∀ a b, WellFormedRequest.Statement (.faultReportReceive a b) := by
  intros; intro w x h; cases h
theorem WellFormedRequest.stormEntryReceive : ∀ a b, WellFormedRequest.Statement (.stormEntryReceive a b) := by
  intros; intro w x h; cases h
theorem WellFormedRequest.placementTablePart : ∀ a, WellFormedRequest.Statement (.placementTablePart a) := by
  intros; intro w x h; cases h
theorem WellFormedRequest.placementTableIssue : ∀ a b, WellFormedRequest.Statement (.placementTableIssue a b) := by
  intros; intro w x h; cases h
theorem WellFormedRequest.tableResend : WellFormedRequest.Statement .tableResend := by
  intro w x h; cases h
theorem WellFormedRequest.adoptReq : ∀ a, WellFormedRequest.Statement (.adoptReq a) := by
  intros; intro w x h; cases h
theorem WellFormedRequest.adoptOffer : ∀ a, WellFormedRequest.Statement (.adoptOffer a) := by
  intros; intro w x h; cases h
theorem WellFormedRequest.adoptConfirm : ∀ a, WellFormedRequest.Statement (.adoptConfirm a) := by
  intros; intro w x h; cases h
theorem WellFormedRequest.adoptAck : ∀ a, WellFormedRequest.Statement (.adoptAck a) := by
  intros; intro w x h; cases h
theorem WellFormedRequest.adoptRefuse : ∀ a, WellFormedRequest.Statement (.adoptRefuse a) := by
  intros; intro w x h; cases h
theorem WellFormedRequest.adoptTryTimeout : WellFormedRequest.Statement .adoptTryTimeout := by
  intro w x h; cases h
theorem WellFormedRequest.orphanRetry : WellFormedRequest.Statement .orphanRetry := by
  intro w x h; cases h
theorem WellFormedRequest.release : ∀ a, WellFormedRequest.Statement (.release a) := by
  intros; intro w x h; cases h
theorem WellFormedRequest.keepalive : ∀ a, WellFormedRequest.Statement (.keepalive a) := by
  intros; intro w x h; cases h
theorem WellFormedRequest.beacon : ∀ a, WellFormedRequest.Statement (.beacon a) := by
  intros; intro w x h; cases h
theorem WellFormedRequest.keepaliveDue : ∀ a, WellFormedRequest.Statement (.keepaliveDue a) := by
  intros; intro w x h; cases h
theorem WellFormedRequest.linkSilence : ∀ a, WellFormedRequest.Statement (.linkSilence a) := by
  intros; intro w x h; cases h
theorem WellFormedRequest.forumSilence : WellFormedRequest.Statement .forumSilence := by
  intro w x h; cases h
theorem WellFormedRequest.livenessHoldComplete : ∀ a, WellFormedRequest.Statement (.livenessHoldComplete a) := by
  intros; intro w x h; cases h
theorem WellFormedRequest.imageRequest : ∀ a b, WellFormedRequest.Statement (.imageRequest a b) := by
  intros; intro w x h; cases h
theorem WellFormedRequest.ensembleRange : ∀ a b c d e f, WellFormedRequest.Statement (.ensembleRange a b c d e f) := by
  intros; intro w x h; cases h
theorem WellFormedRequest.relayedCommand : ∀ a b c d e f g, WellFormedRequest.Statement (.relayedCommand a b c d e f g) := by
  intros; intro w x h; cases h
theorem WellFormedRequest.relayCompletion : ∀ a b c d e f g h, WellFormedRequest.Statement (.relayCompletion a b c d e f g h) := by
  intros; intro w x h; cases h
theorem WellFormedRequest.relayTimeout : ∀ a b, WellFormedRequest.Statement (.relayTimeout a b) := by
  intros; intro w x h; cases h
theorem WellFormedRequest.sessionIdleTimeout : ∀ a, WellFormedRequest.Statement (.sessionIdleTimeout a) := by
  intros; intro w x h; cases h
theorem WellFormedRequest.noticeDeliver : ∀ a, WellFormedRequest.Statement (.noticeDeliver a) := by
  intros; intro w x h; cases h
theorem WellFormedRequest.responseRingResume : ∀ a b, WellFormedRequest.Statement (.responseRingResume a b) := by
  intros; intro w x h; cases h
theorem WellFormedRequest.bufResponse : ∀ a b c, WellFormedRequest.Statement (.bufResponse a b c) := by
  intros; intro w x h; cases h
theorem WellFormedRequest.bufTimeout : ∀ a, WellFormedRequest.Statement (.bufTimeout a) := by
  intros; intro w x h; cases h
theorem WellFormedRequest.memResponse : ∀ a b c, WellFormedRequest.Statement (.memResponse a b c) := by
  intros; intro w x h; cases h
theorem WellFormedRequest.memOpTimeout : ∀ a b, WellFormedRequest.Statement (.memOpTimeout a b) := by
  intros; intro w x h; cases h
theorem WellFormedRequest.memLinkLoss : ∀ a, WellFormedRequest.Statement (.memLinkLoss a) := by
  intros; intro w x h; cases h
theorem WellFormedRequest.segmentSealTimeout : ∀ a, WellFormedRequest.Statement (.segmentSealTimeout a) := by
  intros; intro w x h; cases h
theorem WellFormedRequest.arcadeHoldExpiry : ∀ a, WellFormedRequest.Statement (.arcadeHoldExpiry a) := by
  intros; intro w x h; cases h
theorem WellFormedRequest.backscanStart : WellFormedRequest.Statement .backscanStart := by
  intro w x h; cases h
theorem WellFormedRequest.backscanComplete : ∀ a, WellFormedRequest.Statement (.backscanComplete a) := by
  intros; intro w x h; cases h
theorem WellFormedRequest.backscanTimeout : ∀ a, WellFormedRequest.Statement (.backscanTimeout a) := by
  intros; intro w x h; cases h
theorem WellFormedRequest.quietWindowOpen : ∀ a, WellFormedRequest.Statement (.quietWindowOpen a) := by
  intros; intro w x h; cases h
theorem WellFormedRequest.idleGrantStart : WellFormedRequest.Statement .idleGrantStart := by
  intro w x h; cases h
theorem WellFormedRequest.idleGrantEnd : WellFormedRequest.Statement .idleGrantEnd := by
  intro w x h; cases h
theorem WellFormedRequest.fncTestDone : ∀ a, WellFormedRequest.Statement (.fncTestDone a) := by
  intros; intro w x h; cases h
theorem WellFormedRequest.fncTestErr : WellFormedRequest.Statement .fncTestErr := by
  intro w x h; cases h
theorem WellFormedRequest.testAbortTimeout : WellFormedRequest.Statement .testAbortTimeout := by
  intro w x h; cases h
theorem WellFormedRequest.testOverdue : ∀ a b c, WellFormedRequest.Statement (.testOverdue a b c) := by
  intros; intro w x h; cases h
theorem WellFormedRequest.blockResourceTest : ∀ a b c d e f, WellFormedRequest.Statement (.blockResourceTest a b c d e f) := by
  intros; intro w x h; cases h
theorem WellFormedRequest.resourceFault : ∀ a b, WellFormedRequest.Statement (.resourceFault a b) := by
  intros; intro w x h; cases h
theorem WellFormedRequest.quiesceAck : ∀ a, WellFormedRequest.Statement (.quiesceAck a) := by
  intros; intro w x h; cases h
theorem WellFormedRequest.quiesceTimeout : ∀ a, WellFormedRequest.Statement (.quiesceTimeout a) := by
  intros; intro w x h; cases h
theorem WellFormedRequest.engineRelease : ∀ a, WellFormedRequest.Statement (.engineRelease a) := by
  intros; intro w x h; cases h
theorem WellFormedRequest.crossingClockStart : ∀ a, WellFormedRequest.Statement (.crossingClockStart a) := by
  intros; intro w x h; cases h
theorem WellFormedRequest.dravaTimeout : ∀ a, WellFormedRequest.Statement (.dravaTimeout a) := by
  intros; intro w x h; cases h
theorem WellFormedRequest.hangDeclared : ∀ a b, WellFormedRequest.Statement (.hangDeclared a b) := by
  intros; intro w x h; cases h
theorem WellFormedRequest.dumpCapture : ∀ a b, WellFormedRequest.Statement (.dumpCapture a b) := by
  intros; intro w x h; cases h
theorem WellFormedRequest.fwRestart : WellFormedRequest.Statement .fwRestart := by
  intro w x h; cases h
theorem WellFormedRequest.fwTrialTimeout : WellFormedRequest.Statement .fwTrialTimeout := by
  intro w x h; cases h
theorem WellFormedRequest.dbgCtlExpiry : WellFormedRequest.Statement .dbgCtlExpiry := by
  intro w x h; cases h
theorem WellFormedRequest.softwareReset : WellFormedRequest.Statement .softwareReset := by
  intro w x h; cases h
theorem WellFormedRequest.domainSettle : ∀ a, WellFormedRequest.Statement (.domainSettle a) := by
  intros; intro w x h; cases h
theorem WellFormedRequest.testLogicReset : WellFormedRequest.Statement .testLogicReset := by
  intro w x h; cases h
theorem WellFormedRequest.pwrOkCoreFallParked : WellFormedRequest.Statement .pwrOkCoreFallParked := by
  intro w x h; cases h

end Sys2Proof.Laws
end

