-- ==== Sys2Proof/Laws/Serve.lean ====
section
/-!
SUPPORT. What the Steward's service of a request does: it changes nothing but what carries requests and answers, and the
issuer is told; a command that passes the checks completes with its own part.
-/

namespace Sys2Proof.Machine

variable {s t u e : State} {c : Cmd} {r : Req} {i j : Issuer} {m m' : Msg}

/-- A name is its `SOURCE` with its replica: a packet carries both, and `srcKey` and `dstKey` give the name back. -/
theorem replicaKey_plainSource (k : Nat) : replicaKey (plainSource k) (replicaIn k) = k := by
  unfold replicaKey plainSource replicaIn
  by_cases h : sourceKind k < 2
  · simp [h]
  · have kind : sourceKind (k - 256 * (sourceNum k / 256 % 8)) = sourceKind k := by
      simp only [sourceKind, sourceNum]; omega
    simp only [h, if_false, kind]
    simp only [sourceNum]; omega

/-! ## `Agree` -/

/-- `s` with what carries requests and answers as `u` has it. -/
def plumb (s u : State) : State :=
  { s with
    hrw := { s.hrw with pm := u.hrw.pm, intSts := u.hrw.intSts },
    sbi := { s.sbi with requests := u.sbi.requests, responses := u.sbi.responses },
    stw := { s.stw with
      slots := u.stw.slots, doorbells := u.stw.doorbells, place := u.stw.place, deferred := u.stw.deferred, replies := u.stw.replies,
      deadCompletions := u.stw.deadCompletions, lastService := u.stw.lastService },
    buf := { s.buf with ops := u.buf.ops, waiting := u.buf.waiting, nextId := u.buf.nextId },
    upl := { s.upl with control := u.upl.control }, out := u.out }

theorem Agree.rfl' (s : State) : Agree s s := rfl
theorem Agree.symm' (h : Agree s t) : Agree t s := Eq.symm h
theorem Agree.trans' (h : Agree s t) (k : Agree t u) : Agree s u := Eq.trans k h

theorem agree_plumb (s u : State) : Agree s (plumb s u) := rfl

theorem plumb_plain (s u : State) : plumb (plain s) u = plumb s u := rfl

theorem Agree.eq (h : Agree s t) : t = plumb s t := by
  have h : plain t = plain s := h
  have k : plumb (plain t) t = plumb (plain s) t := by rw [h]
  exact k

theorem agree_when {b : Bool} {f : State → State} (h : Agree e s) (hf : ∀ s, Agree e s → Agree e (f s)) :
    Agree e (when b f s) := by
  unfold when; split
  · exact hf _ h
  · exact h

theorem agree_forEach {α : Type} {l : List α} {f : α → State → State} (h : Agree e s)
    (hf : ∀ a s, Agree e s → Agree e (f a s)) : Agree e (forEach l f s) := by
  unfold forEach
  induction l generalizing s with
  | nil => exact h
  | cons a l ih => exact ih (hf a s h)

theorem agree_emit {o : Out} (h : Agree e s) : Agree e (emit o s) := h
theorem agree_raiseInt {n : Nat} (h : Agree e s) : Agree e (raiseInt n s) := by
  unfold raiseInt
  exact agree_when h fun _ h => h
theorem agree_raiseIbi {b : List Nat} (h : Agree e s) : Agree e (raiseIbi b s) := agree_when h fun _ h => h

theorem agree_bufIssue {p : Nat} {x : BufUse} {o : Out} (h : Agree e s) : Agree e (bufIssue p x o s) := by
  unfold bufIssue
  dsimp only
  split
  · exact h
  · exact h

theorem agree_pmPost {n : Nat} (h : Agree e s) : Agree e (pmPost n m s) := by
  unfold pmPost
  dsimp only
  split
  · exact h
  · exact agree_raiseInt h

theorem agree_sbiPost (h : Agree e s) : Agree e (sbiPost m s) := agree_raiseIbi h

theorem agree_ringWrite {k : Nat} (h : Agree e s) : Agree e (ringWrite k m s) := by
  unfold ringWrite
  dsimp only
  have k2 := agree_bufIssue (p := (tget Slot.unused k s.stw.slots).partition) (x := .ringWrite k)
    (o := .buf (tget Slot.unused k s.stw.slots).partition 0 (.ring k ((tget Slot.unused k s.stw.slots).prod
      % max (tget Slot.unused k s.stw.slots).ringN 1) m)) h
  exact agree_when k2 fun _ h => h

theorem agree_ringPost {k : Nat} (h : Agree e s) : Agree e (ringPost k m s) := by
  unfold ringPost
  dsimp only
  split
  · exact agree_ringWrite h
  · exact h

theorem agree_postTo (h : Agree e s) : Agree e (postTo i m s) := by
  unfold postTo
  split
  · exact agree_pmPost h
  · exact agree_sbiPost h
  · split
    · exact agree_ringPost h
    · exact h
  · exact h
  · exact h

theorem agree_sendMsg {d : Nat} {o : Out} (h : Agree e s) : Agree e (sendMsg d o s) := h

theorem agree_relayFinish {x : ReplyEntry} (h : Agree e s) : Agree e (relayFinish x s) := by
  unfold relayFinish
  dsimp only
  split
  · exact agree_forEach h fun _ _ h => h
  · exact agree_postTo (agree_forEach h fun _ _ h => h)

theorem agree_relayUpdate {sel : ReplyEntry → Bool} {f : ReplyEntry → ReplyEntry} (h : Agree e s) :
    Agree e (relayUpdate sel f s) := by
  unfold relayUpdate
  dsimp only
  split
  · exact h
  · split
    · exact agree_relayFinish h
    · exact h

theorem agree_answer {cmd tag st : Nat} {fin : Bool} {p : List Fld} {b : List Byte} (h : Agree e s) :
    Agree e (answer i cmd tag st fin p b s) := by
  unfold answer ownOutcome
  split
  · split
    · exact agree_relayUpdate h
    · exact h
  · exact agree_postTo h

theorem agree_defer {w : Option Work} (h : Agree e s) : Agree e (defer c r i w s) := by
  unfold defer
  split
  · exact h
  · exact h

theorem agree_sendAttachment {d tag : Nat} {b : List Byte} (h : Agree e s) : Agree e (sendAttachment d tag b s) := h

theorem agree_relayOpen {cls p tag cmd : Nat} {sc : Scope} {x : Option Issuer} {l : List Nat} {b k : Bool} {o : Option Nat}
    {a : List Byte} (h : Agree e s) : Agree e (relayOpen cls p tag cmd sc x l b k o a s) := by
  have hm : ∀ (f : Nat) (s : State), Agree e s → Agree e (when (!a.isEmpty) (sendAttachment f tag a)
      (sendMsg f (.relay f cls p tag cmd sc) s)) := fun f s h => agree_when (agree_sendMsg h) fun _ h => agree_sendAttachment h
  unfold relayOpen
  dsimp only
  split
  · exact agree_relayFinish (agree_forEach h hm)
  · exact agree_forEach h hm

theorem agree_passPlace {k : Nat} (h : Agree e s) : Agree e (passPlace k s) := h

theorem agree_takeFrom (r : Req) (code : Nat) (s : State) : Agree s (takeFrom r code s) := by
  unfold takeFrom
  dsimp only
  split <;> rfl

theorem agree_takeRequest (r : Req) (code : Nat) (s : State) : Agree s (takeRequest r code s) :=
  agree_passPlace (agree_takeFrom r code s)

theorem agree_finish {d : Deferred} {st : Nat} {p : List Fld} (h : Agree e s) : Agree e (finish d st p s) := by
  unfold finish
  split
  · exact h
  · exact agree_answer h

theorem agree_completeWhere {f : Work → Bool} {st : Nat} {p : List Fld} (h : Agree e s) :
    Agree e (completeWhere f st p s) := agree_forEach h fun _ _ h => agree_finish h

theorem agree_complete {w : Work} {st : Nat} {p : List Fld} (h : Agree e s) : Agree e (complete w st p s) :=
  agree_completeWhere h

theorem agree_intermediate {w : Work} {p : List Fld} (h : Agree e s) : Agree e (intermediate w p s) :=
  agree_forEach h fun _ _ h => agree_answer h

theorem agree_orphanWork (h : Agree e s) : Agree e (orphanWork i s) := h

/-! ## `Told` -/

theorem tget_tput_ne {α : Type} [DecidableEq α] {d v : α} {k : Nat} {t : Tab α} (h : v ≠ d) : tget d k (tput d k v t) = v := by
  unfold tput
  rw [if_neg h]
  exact tget_tins_self d k v t

theorem raiseInt_pm {n : Nat} : (raiseInt n s).hrw.pm = s.hrw.pm := by
  unfold raiseInt when
  dsimp only
  split <;> rfl

/-- The state of one PM slot after a post to any. -/
theorem pmPost_slot {n k : Nat} : tget PmSlot.idle k (pmPost n m s).hrw.pm =
    if k = n then
      (if (tget PmSlot.idle n s.hrw.pm).done = true then
        { tget PmSlot.idle n s.hrw.pm with held := (tget PmSlot.idle n s.hrw.pm).held ++ [m] }
       else { tget PmSlot.idle n s.hrw.pm with rsp := some m, done := true })
    else tget PmSlot.idle k s.hrw.pm := by
  by_cases hk : k = n
  · subst hk
    rw [if_pos rfl]
    unfold pmPost
    dsimp only
    split
    · rename_i hd
      refine tget_tput_ne fun e => ?_
      have := congrArg PmSlot.done e
      rw [show PmSlot.idle.done = false from rfl] at this
      exact absurd (this.symm.trans hd) (by decide)
    · rw [raiseInt_pm]
      refine tget_tput_ne fun e => ?_
      have : true = false := congrArg PmSlot.done e
      exact absurd this (by decide)
  · rw [if_neg hk]
    unfold pmPost
    dsimp only
    split
    · exact tget_tput_other hk
    · rw [raiseInt_pm]
      exact tget_tput_other hk

theorem raiseIbi_sbi {b : List Nat} : (raiseIbi b s).sbi = s.sbi := by
  unfold raiseIbi when
  split <;> rfl

/-- What stays in the record of the ports, of `BUF`, of the slots and of the Control queue. -/
def Kept (s t : State) : Prop :=
  (∀ o ∈ s.out, o ∈ t.out) ∧ (∀ o ∈ s.buf.waiting, o ∈ t.buf.waiting)
    ∧ (∀ k, ∀ m ∈ (tget Slot.unused k s.stw.slots).held, m ∈ (tget Slot.unused k t.stw.slots).held)
    ∧ ∀ q ∈ s.upl.control, q ∈ t.upl.control

theorem Kept.refl (s : State) : Kept s s := ⟨fun _ h => h, fun _ h => h, fun _ _ h => h, fun _ h => h⟩

theorem Kept.trans (h : Kept s t) (k : Kept t u) : Kept s u :=
  ⟨fun o m => k.1 o (h.1 o m), fun o m => k.2.1 o (h.2.1 o m), fun n x m => k.2.2.1 n x (h.2.2.1 n x m),
    fun o m => k.2.2.2 o (h.2.2.2 o m)⟩

/-- A state that differs elsewhere alone may stand for the first. -/
theorem Kept.from {s' : State} (k : Kept s' t) (h1 : s'.out = s.out) (h2 : s'.buf.waiting = s.buf.waiting)
    (h3 : s'.stw.slots = s.stw.slots) (h4 : s'.upl.control = s.upl.control) : Kept s t := by
  unfold Kept at k ⊢
  rw [h1, h2, h3, h4] at k
  exact k

theorem kept_emit {o : Out} : Kept s (emit o s) :=
  ⟨fun _ h => List.mem_append_left _ h, fun _ h => h, fun _ _ h => h, fun _ h => h⟩

theorem kept_when {b : Bool} {f : State → State} (hf : Kept s (f s)) : Kept s (when b f s) := by
  unfold when; split
  · exact hf
  · exact Kept.refl s

theorem kept_raiseInt {n : Nat} : Kept s (raiseInt n s) := by
  unfold raiseInt
  exact Kept.from (kept_when kept_emit) rfl rfl rfl rfl

theorem kept_pmPost {n : Nat} : Kept s (pmPost n m s) := by
  unfold pmPost
  dsimp only
  split
  · exact ⟨fun _ h => h, fun _ h => h, fun _ _ h => h, fun _ h => h⟩
  · exact Kept.from kept_raiseInt rfl rfl rfl rfl

theorem kept_sbiPost : Kept s (sbiPost m s) := by
  unfold sbiPost raiseIbi
  exact Kept.from (kept_when kept_emit) rfl rfl rfl rfl

theorem kept_bufIssue {p : Nat} {x : BufUse} {o : Out} : Kept s (bufIssue p x o s) := by
  unfold bufIssue
  dsimp only
  split
  · exact ⟨fun _ h => List.mem_append_left _ h, fun _ h => h, fun _ _ h => h, fun _ h => h⟩
  · exact ⟨fun _ h => h, fun _ h => List.mem_append_left _ h, fun _ _ h => h, fun _ h => h⟩

/-- A slot that changes keeps what it holds. -/
theorem kept_slot {k : Nat} {v : Slot} (hh : ∀ m ∈ (tget Slot.unused k s.stw.slots).held, m ∈ v.held) :
    Kept s { s with stw := { s.stw with slots := tput Slot.unused k v s.stw.slots } } := by
  refine ⟨fun _ h => h, fun _ h => h, fun n x h => ?_, fun _ h => h⟩
  by_cases hn : n = k
  · subst hn
    dsimp only
    by_cases hv : v = Slot.unused
    · exact absurd (hh x h) (by rw [hv]; exact List.not_mem_nil)
    · rw [tget_tput_ne hv]
      exact hh x h
  · dsimp only
    rw [tget_tput_other hn]
    exact h

theorem bufIssue_stw {p : Nat} {x : BufUse} {o : Out} : (bufIssue p x o s).stw = s.stw := by
  unfold bufIssue
  dsimp only
  split <;> rfl

theorem kept_ringWrite {k : Nat} : Kept s (ringWrite k m s) := by
  unfold ringWrite
  dsimp only
  refine Kept.trans (Kept.trans kept_bufIssue (kept_slot ?_)) (kept_when kept_emit)
  rw [bufIssue_stw]
  exact fun _ h => h

theorem kept_ringPost {k : Nat} : Kept s (ringPost k m s) := by
  unfold ringPost
  dsimp only
  split
  · exact kept_ringWrite
  · exact kept_slot fun _ h => List.mem_append_left _ h

theorem kept_sendMsg {d : Nat} {o : Out} : Kept s (sendMsg d o s) :=
  ⟨fun _ h => h, fun _ h => h, fun _ _ h => h, fun _ h => List.mem_append_left _ h⟩

theorem Queued.mono {o : Out} (h : Queued o s) (k : Kept s t) : Queued o t :=
  let ⟨q, m, e⟩ := h
  ⟨q, k.2.2.2 q m, e⟩

/-- A message sent is queued. -/
theorem queued_sendMsg {d : Nat} {o : Out} : Queued o (sendMsg d o s) :=
  ⟨_, List.mem_append_right _ (List.mem_singleton.mpr rfl), rfl⟩

theorem kept_postTo : Kept s (postTo i m s) := by
  unfold postTo
  split
  · exact kept_pmPost
  · exact kept_sbiPost
  · split
    · exact kept_ringPost
    · exact kept_emit
  · exact kept_emit
  · exact kept_sendMsg

/-- A post to an issuer tells it. -/
theorem told_postTo : Told i m (postTo i m s) := by
  cases i with
  | pm n =>
    unfold Told postTo
    dsimp only
    rw [pmPost_slot, if_pos rfl]
    split
    · exact .inr (List.mem_append_right _ (List.mem_singleton.mpr rfl))
    · exact .inl ⟨rfl, rfl⟩
  | sideband =>
    unfold Told postTo sbiPost
    dsimp only
    rw [raiseIbi_sbi]
    exact List.mem_append_right _ (List.mem_singleton.mpr rfl)
  | tenant p k g =>
    unfold Told postTo
    dsimp only
    split
    · rename_i hl
      unfold slotLive at hl
      simp only [Bool.and_eq_true, decide_eq_true_eq, beq_iff_eq] at hl
      obtain ⟨⟨-, hp⟩, -⟩ := hl
      unfold ringPost
      dsimp only
      split
      · unfold ringWrite
        dsimp only
        have kp : ∀ x : State, Kept x (when ((tget Slot.unused k s.stw.slots).vector != 65535)
            (emit (.interrupt (tget Slot.unused k s.stw.slots).vector)) x) := fun _ => kept_when kept_emit
        unfold bufIssue
        dsimp only
        split
        · exact .inl ⟨_, (kp _).1 _ (by rw [hp]; exact List.mem_append_right _ (List.mem_singleton.mpr rfl))⟩
        · exact .inr (.inl ⟨_, (kp _).2.1 _ (List.mem_append_right _ (List.mem_singleton.mpr rfl)), _, by rw [hp]⟩)
      · refine .inr (.inr (.inl ?_))
        rw [tget_tput_ne]
        · exact List.mem_append_right _ (List.mem_singleton.mpr rfl)
        · intro e
          have := congrArg Slot.held e
          exact absurd this (List.append_ne_nil_of_right_ne_nil _ (List.cons_ne_nil _ _))
    · exact .inr (.inr (.inr (List.mem_append_right _ (List.mem_singleton.mpr rfl))))
  | relay a b => exact trivial
  | role a b => exact queued_sendMsg

/-- What an issuer was told stays told when anyone is told more. -/
theorem Told.mono (h : Told i m s) (hpm : t.hrw.pm = s.hrw.pm) (hsb : t.sbi.responses = s.sbi.responses) (hk : Kept s t) :
    Told i m t := by
  cases i with
  | pm n => unfold Told at h ⊢; rw [hpm]; exact h
  | sideband => unfold Told at h ⊢; rw [hsb]; exact h
  | tenant p k g =>
    unfold Told at h ⊢
    dsimp only at h ⊢
    rcases h with ⟨j, h⟩ | ⟨x, h, j, hj⟩ | h | h
    · exact .inl ⟨j, hk.1 _ h⟩
    · exact .inr (.inl ⟨x, hk.2.1 _ h, j, hj⟩)
    · exact .inr (.inr (.inl (hk.2.2.1 _ _ h)))
    · exact .inr (.inr (.inr (hk.1 _ h)))
  | relay a b => exact trivial
  | role a b => exact Queued.mono h hk

theorem postTo_pm (hj : ∀ n, j ≠ .pm n) : (postTo j m s).hrw.pm = s.hrw.pm := by
  cases j with
  | pm n => exact absurd rfl (hj n)
  | sideband =>
    unfold postTo sbiPost raiseIbi when
    dsimp only
    split <;> rfl
  | tenant p k g =>
    unfold postTo ringPost ringWrite bufIssue when
    dsimp only
    repeat' split
    all_goals rfl
  | relay a b => rfl
  | role a b => rfl

theorem postTo_responses (hj : j ≠ .sideband) : (postTo j m s).sbi.responses = s.sbi.responses := by
  cases j with
  | pm n =>
    unfold postTo pmPost raiseInt when
    dsimp only
    repeat' split
    all_goals rfl
  | sideband => exact absurd rfl hj
  | tenant p k g =>
    unfold postTo ringPost ringWrite bufIssue when
    dsimp only
    repeat' split
    all_goals rfl
  | relay a b => rfl
  | role a b => rfl

theorem Told.postTo (h : Told i m s) : Told i m (postTo j m' s) := by
  cases i with
  | pm n =>
    by_cases hj : ∃ n', j = .pm n'
    · obtain ⟨n', rfl⟩ := hj
      unfold Told at h ⊢
      unfold Machine.postTo
      dsimp only at h ⊢
      rw [pmPost_slot]
      by_cases hn : n = n'
      · subst hn
        rw [if_pos rfl]
        split
        · exact h.imp id fun h => List.mem_append_left _ h
        · rename_i hd
          exact .inr (h.resolve_left fun x => hd x.1)
      · rw [if_neg hn]
        exact h
    · unfold Told at h ⊢
      dsimp only at h ⊢
      rw [postTo_pm fun n' e => hj ⟨n', e⟩]
      exact h
  | sideband =>
    by_cases hj : j = .sideband
    · subst hj
      unfold Told at h ⊢
      unfold Machine.postTo sbiPost
      dsimp only at h ⊢
      rw [raiseIbi_sbi]
      exact List.mem_append_left _ h
    · unfold Told at h ⊢
      dsimp only at h ⊢
      rw [postTo_responses hj]
      exact h
  | tenant p k g =>
    unfold Told at h ⊢
    dsimp only at h ⊢
    have hk := kept_postTo (s := s) (i := j) (m := m')
    rcases h with ⟨j, h⟩ | ⟨x, h, j, hj⟩ | h | h
    · exact .inl ⟨j, hk.1 _ h⟩
    · exact .inr (.inl ⟨x, hk.2.1 _ h, j, hj⟩)
    · exact .inr (.inr (.inl (hk.2.2.1 _ _ h)))
    · exact .inr (.inr (.inr (hk.1 _ h)))
  | relay a b => exact trivial
  | role a b => exact Queued.mono h kept_postTo

theorem Told.defer {w : Option Work} (h : Told i m s) : Told i m (defer c r j w s) := by
  unfold Machine.defer
  split
  · exact h
  · exact h.mono rfl rfl ⟨fun _ h => h, fun _ h => h, fun _ _ h => h, fun _ h => h⟩

theorem Told.forEach {α : Type} {l : List α} {f : α → State → State} (h : Told i m s)
    (hf : ∀ a s, Told i m s → Told i m (f a s)) : Told i m (forEach l f s) := by
  unfold Machine.forEach
  induction l generalizing s with
  | nil => exact h
  | cons a l ih => exact ih (hf a s h)

theorem Told.sendMsg {d : Nat} {o : Out} (h : Told i m s) : Told i m (sendMsg d o s) :=
  h.mono rfl rfl kept_sendMsg

theorem Told.relayFinish {x : ReplyEntry} (h : Told i m s) : Told i m (relayFinish x s) := by
  unfold Machine.relayFinish
  dsimp only
  have k := (Told.mono (t := { s with stw := { s.stw with replies := s.stw.replies.map fun y =>
      if y.cls = x.cls ∧ y.partition = x.partition ∧ y.tag = x.tag ∧ y.cmd = x.cmd ∧ y.done = false then
        { x with done := true, askers := [] } else y } }) h rfl rfl ⟨fun _ h => h, fun _ h => h, fun _ _ h => h, fun _ h => h⟩).forEach (l := x.askers)
      (f := fun p => Machine.sendMsg p (.relayDone p x.tag x.cmd (relayTallies x s).ok (relayTallies x s).fail
        (relayTallies x s).none (relayTallies x s).first (relayTallies x s).first8)) fun _ _ h => h.sendMsg
  split
  · exact k
  · exact k.postTo

theorem Told.relayOpen {cls p tag cmd : Nat} {sc : Scope} {x : Option Issuer} {l : List Nat} {b k : Bool} {o : Option Nat}
    {a : List Byte} (h : Told i m s) : Told i m (relayOpen cls p tag cmd sc x l b k o a s) := by
  have hm : ∀ (f : Nat) (s : State), Told i m s → Told i m (when (!a.isEmpty) (sendAttachment f tag a)
      (Machine.sendMsg f (.relay f cls p tag cmd sc) s)) := fun f s h => by
    unfold when
    split
    · exact h.sendMsg.mono rfl rfl ⟨fun _ h => h, fun _ h => h, fun _ _ h => h, fun _ h => List.mem_append_left _ h⟩
    · exact h.sendMsg
  unfold Machine.relayOpen
  dsimp only
  split
  · apply Told.relayFinish
    apply Told.forEach _ hm
    exact h.mono rfl rfl ⟨fun _ h => h, fun _ h => h, fun _ _ h => h, fun _ h => h⟩
  · apply Told.forEach _ hm
    exact h.mono rfl rfl ⟨fun _ h => h, fun _ h => h, fun _ _ h => h, fun _ h => h⟩

theorem told_answer {cmd tag st : Nat} {fin : Bool} {p : List Fld} {b : List Byte} :
    Told i (rspMsg cmd tag st fin p b) (answer i cmd tag st fin p b s) := by
  unfold answer
  split
  · exact trivial
  · exact told_postTo

/-! ## A request that is taken -/

/-- What the service of a request leaves of the tenant slots: the time of the latest use advances in one. -/
theorem takeRequest_slots (r : Req) (code : Nat) : (takeRequest r code s).stw.slots =
    match r.issuer with
    | .tenant p k g => if slotLive p k g s then tupd k (fun sl => { sl with lastUse := s.time.timer }) s.stw.slots else s.stw.slots
    | _ => s.stw.slots := by
  show (takeFrom r code s).stw.slots = _
  unfold takeFrom
  generalize r.issuer = i
  cases i <;> rfl

theorem takeRequest_slot {β : Type} (f : Slot → β) (hf : ∀ a x, f { a with lastUse := x } = f a) (r : Req) (code j : Nat) :
    f (tget Slot.unused j (takeRequest r code s).stw.slots) = f (tget Slot.unused j s.stw.slots) := by
  rw [takeRequest_slots]
  split
  · split
    · exact tget_tupd f fun a => hf a _
    · rfl
  · rfl

theorem takeRequest_open (r : Req) (code p : Nat) : openCount p (takeRequest r code s) = openCount p s := by
  unfold openCount
  rw [takeRequest_slots]
  split
  · split
    · exact filter_tupd fun _ _ => rfl
    · rfl
  · rfl

theorem takeRequest_deferred (r : Req) (code : Nat) : (takeRequest r code s).stw.deferred = s.stw.deferred := by
  show (takeFrom r code s).stw.deferred = _
  unfold takeFrom
  dsimp only
  split <;> rfl

theorem sessionReject_takeRequest {b : Bool} {code : Nat} :
    sessionReject r.issuer b (takeRequest r code s) = sessionReject r.issuer b s := by
  have a := (agree_takeRequest r code s).eq
  have h1 := takeRequest_slot (s := s) (·.isOpen) (fun _ _ => rfl) r code
  have h2 := takeRequest_slot (s := s) (·.partition) (fun _ _ => rfl) r code
  have h3 := takeRequest_slot (s := s) (·.generation) (fun _ _ => rfl) r code
  have hl : lowestFree (takeRequest r code s) = lowestFree s := by unfold lowestFree; simp only [h1]
  have hs : ∀ p k g, slotLive p k g (takeRequest r code s) = slotLive p k g s := fun p k g => by
    unfold slotLive; simp only [h1, h2, h3]
  have hd : slotPending r.issuer (takeRequest r code s) = slotPending r.issuer s := by
    unfold slotPending; rw [takeRequest_deferred]
  have hq : (takeRequest r code s).stw.quotas = s.stw.quotas := by rw [a]; rfl
  have hp : (takeRequest r code s).stw.pmOpen = s.stw.pmOpen := by rw [a]; rfl
  have hb : (takeRequest r code s).stw.sbiOpen = s.stw.sbiOpen := by rw [a]; rfl
  have ho := fun p => takeRequest_open (s := s) r code p
  revert hd
  generalize r.issuer = i
  intro hd
  cases i with
  | pm n => unfold sessionReject; dsimp only; rw [hp]
  | sideband => unfold sessionReject; dsimp only; rw [hb]
  | relay a c => rfl
  | role a c => rfl
  | tenant p k g =>
    unfold sessionReject
    dsimp only
    rw [ho, hl, hs, hq, hd]

theorem takeRequest_fuse (r : Req) (code : Nat) : (takeRequest r code s).fuse = s.fuse := by
  rw [(agree_takeRequest r code s).eq]; rfl

/-- A request that is taken passes the checks of R389. -/
theorem formReject_taken (h : Taken c r s) {code : Nat} : formReject c r true (takeRequest r code s) = none := by
  unfold formReject
  rw [sessionReject_takeRequest, h.session, takeRequest_fuse]
  simp only [h.header, h.present, h.permitted, h.reserved, Bool.not_true, Bool.false_eq_true, if_false, Bool.or_false, Bool.false_or,
    Bool.false_and]
  by_cases hr : r.relay = true
  · obtain ⟨h1, h2, -⟩ := h.relayed hr
    simp [hr, h1, h2]
  · simp [hr]

/-- The service of a request that is taken. -/
theorem serve_taken {own : State → State × Reply} (h : Taken c r s) : serve c r true own s =
    if r.relay = true ∧ isCopy r.issuer = false then serveRelay c r own (takeRequest r c.code s)
    else serveHere c r own (takeRequest r c.code s) := by
  unfold serve
  dsimp only
  rw [h.serving, h.room, h.turn, h.fetched, formReject_taken h]
  simp only [Bool.not_true, Bool.or_self, Bool.false_eq_true, if_false, Bool.and_eq_true, Bool.not_eq_true']

/-- A block of the command's configuration has the own part of the command. -/
theorem ownPart_taken {own : State → State × Reply} (h : Taken c r s) : ownPart c own (plumb s u) = own (plumb s u) :=
  if_pos h.present

theorem run_powered {f : State → State} (h : s.rst.aonOk = true) : run f s = .next (f s) := by
  unfold run
  rw [if_pos h]

theorem selfInScope_plumb {sc : Scope} : selfInScope sc (plumb s u) = selfInScope sc s := rfl

/-- A command that is taken, whose own part answers `OK` at once and does nothing after its answer, completes. -/
theorem completes_of {own : State → State × Reply} {e : State} {p : List Fld} {b : List Byte} {form : Bool} (h : Taken c r s)
    (hf : form = true)
    (ho : ∀ u, (own (plumb s u)).2 = { status := Config.ok, payload := p, bytes := b } ∧ Agree e (own (plumb s u)).1) :
    ∃ t, run (serve c r form own) s = .next t ∧ Completes c r e p b t := by
  subst hf
  rw [run_powered h.powered, serve_taken h]
  refine ⟨_, rfl, ?_⟩
  rw [(agree_takeRequest r c.code s).eq]
  generalize takeRequest r c.code s = u
  obtain ⟨h2, h1⟩ := ho u
  unfold Completes Answered
  by_cases hr : r.relay = true ∧ isCopy r.issuer = false
  · rw [if_pos hr, if_pos hr]
    unfold serveRelay
    dsimp only
    rw [selfInScope_plumb, (h.relayed hr.1).2.2, ownPart_taken h]
    simp only [if_true, h2]
    rw [if_neg (by decide)]
    exact ⟨agree_relayOpen (agree_defer (agree_answer h1)), Told.relayOpen (Told.defer told_answer)⟩
  · rw [if_neg hr, if_neg hr]
    unfold serveHere
    dsimp only
    rw [h2]
    exact ⟨agree_defer (agree_answer h1), Told.defer told_answer⟩

theorem forEach_stw {α : Type} {l : List α} {f : α → State → State} (hf : ∀ a s, (f a s).stw = s.stw) :
    (forEach l f s).stw = s.stw := by
  unfold forEach
  induction l generalizing s with
  | nil => rfl
  | cons a l ih => exact (ih (s := f a s)).trans (hf a s)

/-- A relay whose own part is still due ends nothing. -/
theorem relayOpen_deferred {cls p tag cmd : Nat} {sc : Scope} {x : Option Issuer} {l : List Nat} {k : Bool} {o : Option Nat}
    {a : List Byte} : (relayOpen cls p tag cmd sc x l true k o a s).stw.deferred = s.stw.deferred := by
  have hm : ∀ (f : Nat) (s : State), (when (!a.isEmpty) (sendAttachment f tag a)
      (sendMsg f (.relay f cls p tag cmd sc) s)).stw = s.stw := fun f s => by unfold when; split <;> rfl
  unfold relayOpen
  dsimp only
  rw [if_neg (by simp), forEach_stw hm]

/-- A command that is taken and whose own part accepts it, with work in progress, defers. -/
theorem defers_of {own : State → State × Reply} {e : State} {w : Work} {form : Bool} (h : Taken c r s) (hf : form = true)
    (ho : ∀ u, (own (plumb s u)).2 = { status := Config.accepted, work := some w } ∧ Agree e (own (plumb s u)).1)  :
    ∃ t, run (serve c r form own) s = .next t ∧ Defers c r e w t := by
  subst hf
  rw [run_powered h.powered, serve_taken h]
  refine ⟨_, rfl, ?_⟩
  rw [(agree_takeRequest r c.code s).eq]
  generalize takeRequest r c.code s = u
  obtain ⟨h2, h1⟩ := ho u
  unfold Defers Answered
  by_cases hr : r.relay = true ∧ isCopy r.issuer = false
  · rw [if_pos hr, if_pos hr]
    unfold serveRelay
    dsimp only
    rw [selfInScope_plumb, (h.relayed hr.1).2.2, ownPart_taken h]
    simp only [if_true, h2]
    rw [if_neg (by decide)]
    refine ⟨agree_relayOpen (agree_defer (agree_answer h1)), Told.relayOpen (Told.defer told_answer), ?_⟩
    rw [show (true && (some w).isSome) = true from rfl, relayOpen_deferred]
    exact ⟨_, List.mem_append_right _ (List.mem_singleton.mpr rfl), rfl, rfl, rfl⟩
  · rw [if_neg hr, if_neg hr]
    unfold serveHere
    dsimp only
    rw [h2]
    refine ⟨agree_defer (agree_answer h1), Told.defer told_answer, ?_⟩
    exact ⟨_, List.mem_append_right _ (List.mem_singleton.mpr rfl), rfl, rfl, rfl⟩

/-- A command that is taken and whose own part turns it away is rejected. -/
theorem rejects_of {own : State → State × Reply} {st : Nat} {form : Bool} (h : Taken c r s) (hf : form = true)
    (ho : ∀ u, own (plumb s u) = deny st (plumb s u))  :
    ∃ t, run (serve c r form own) s = .next t ∧ Rejects c r s st t := by
  subst hf
  rw [run_powered h.powered, serve_taken h]
  refine ⟨_, rfl, ?_⟩
  rw [(agree_takeRequest r c.code s).eq]
  generalize takeRequest r c.code s = u
  by_cases hr : r.relay = true ∧ isCopy r.issuer = false
  · rw [if_pos hr]
    unfold serveRelay
    dsimp only
    rw [selfInScope_plumb, (h.relayed hr.1).2.2, ownPart_taken h]
    simp only [if_true, ho, deny, rejectWith]
    refine ⟨?_, .inl hr⟩
    split
    · exact agree_answer (agree_plumb s u)
    · exact agree_relayOpen (agree_defer (agree_answer (agree_plumb s u)))
  · rw [if_neg hr]
    unfold serveHere
    dsimp only
    simp only [ho, deny, rejectWith]
    exact ⟨agree_defer (agree_answer (agree_plumb s u)), .inr (Told.defer told_answer)⟩

/-- An engine that answers serves the command. -/
theorem engineServed_up {own : State → State × Reply} {d : Nat} (h : engineUp d s = true) :
    engineServed d own (plumb s u) = own (plumb s u) := if_pos h

/-- The state that a command leaves which is taken and answered `OK` at once, in terms of its own part. -/
theorem completesWith_of {own : State → State × Reply} {P : State → Prop} {p : List Fld} {form : Bool}
    (h : Taken c r s) (hf : form = true)
    (ho : ∀ u, (own (plumb s u)).2 = okWith p ∧ P (own (plumb s u)).1) (hP : ∀ a u, P a → P (plumb a u)) :
    ∃ t, run (serve c r form own) s = .next t ∧ CompletesWith c r P p t := by
  subst hf
  rw [run_powered h.powered, serve_taken h]
  refine ⟨_, rfl, ?_⟩
  rw [(agree_takeRequest r c.code s).eq]
  generalize takeRequest r c.code s = u
  obtain ⟨h2, h1⟩ := ho u
  have key : ∀ t, Agree (own (plumb s u)).1 t → P t := fun t a => by rw [a.eq]; exact hP _ _ h1
  unfold CompletesWith Answered
  by_cases hr : r.relay = true ∧ isCopy r.issuer = false
  · rw [if_pos hr, if_pos hr]
    unfold serveRelay
    dsimp only
    rw [selfInScope_plumb, (h.relayed hr.1).2.2, ownPart_taken h]
    simp only [if_true, h2]
    rw [if_neg (show ¬ (okWith p).status = Config.tooSoon from (by decide : ¬ Config.ok = Config.tooSoon))]
    exact ⟨key _ (agree_relayOpen (agree_defer (agree_answer rfl))), Told.relayOpen (Told.defer told_answer)⟩
  · rw [if_neg hr, if_neg hr]
    unfold serveHere
    dsimp only
    rw [h2]
    exact ⟨key _ (agree_defer (agree_answer rfl)), Told.defer told_answer⟩

/-! ## Output into a descriptor's chain -/

theorem agree_outputTo {d : Desc} {n : Nat} {x : BufData} : Agree (outputTo d n x s).2 (outputTo d n x (plumb s u)).2 := by
  unfold outputTo chainOpen
  dsimp only
  exact (agree_bufIssue (Agree.rfl' _)).symm'.trans' (agree_bufIssue rfl)

theorem kept_forEach {α : Type} {l : List α} {f : α → State → State} (hf : ∀ a s, Kept s (f a s)) :
    Kept s (forEach l f s) := by
  unfold forEach
  induction l generalizing s with
  | nil => exact Kept.refl s
  | cons a l ih => exact Kept.trans (hf a s) ih

theorem kept_relayFinish {x : ReplyEntry} : Kept s (relayFinish x s) := by
  unfold relayFinish
  dsimp only
  split
  · exact Kept.from (kept_forEach fun _ _ => kept_sendMsg) rfl rfl rfl rfl
  · exact Kept.from (Kept.trans (kept_forEach fun _ _ => kept_sendMsg) kept_postTo) rfl rfl rfl rfl

theorem kept_relayUpdate {sel : ReplyEntry → Bool} {f : ReplyEntry → ReplyEntry} : Kept s (relayUpdate sel f s) := by
  unfold relayUpdate
  dsimp only
  split
  · exact Kept.refl s
  · split
    · exact Kept.from kept_relayFinish rfl rfl rfl rfl
    · exact Kept.from (Kept.refl s) rfl rfl rfl rfl

theorem kept_answer {cmd tag st : Nat} {fin : Bool} {p : List Fld} {b : List Byte} :
    Kept s (answer i cmd tag st fin p b s) := by
  unfold answer ownOutcome
  split
  · split
    · exact kept_relayUpdate
    · exact Kept.refl s
  · exact kept_postTo

/-- A command that writes a result into a chain. -/
theorem outputs_of {own : State → State × Reply} {d : Desc} {n : Nat} {x : BufData} {form : Bool} (h : Taken c r s)
    (hc : c.relayable = false) (hf : form = true) (ho : ∀ u, own (plumb s u) = outputReply r d n x (plumb s u))
    (hd : descOk (issuerPart r.issuer) d s = true) :
    ∃ t, run (serve c r form own) s = .next t ∧ Outputs c r d n x s t := by
  subst hf
  have hr : ¬ (r.relay = true ∧ isCopy r.issuer = false) := fun hr => by
    have := (h.relayed hr.1).1
    rw [hc] at this
    cases this
  rw [run_powered h.powered, serve_taken h, if_neg hr]
  refine ⟨_, rfl, ?_⟩
  rw [(agree_takeRequest r c.code s).eq]
  generalize takeRequest r c.code s = u
  unfold serveHere
  rw [ho]
  have hd' : descOk (issuerPart r.issuer) d (plumb s u) = true := hd
  unfold Outputs outputReply Answered
  rw [if_neg hr, hd']
  refine ⟨agree_defer (agree_answer agree_outputTo), Told.defer told_answer,
    ⟨_, List.mem_append_right _ (List.mem_singleton.mpr rfl), rfl, rfl, rfl⟩, ?_⟩
  refine kept_answer.1 _ ?_
  exact kept_bufIssue.1 _ (List.mem_append_right _ (List.mem_singleton.mpr rfl))

/-! ## Work that is done at once -/

theorem Told.relayUpdate {sel : ReplyEntry → Bool} {f : ReplyEntry → ReplyEntry} (h : Told i m s) :
    Told i m (relayUpdate sel f s) := by
  unfold Machine.relayUpdate
  dsimp only
  split
  · exact h
  · split
    · apply Told.relayFinish
      exact h.mono rfl rfl ⟨fun _ h => h, fun _ h => h, fun _ _ h => h, fun _ h => h⟩
    · exact h.mono rfl rfl ⟨fun _ h => h, fun _ h => h, fun _ _ h => h, fun _ h => h⟩

theorem Told.answer {cmd tag st : Nat} {fin : Bool} {p : List Fld} {b : List Byte} (h : Told i m s) :
    Told i m (answer j cmd tag st fin p b s) := by
  unfold Machine.answer ownOutcome
  split
  · split
    · exact h.relayUpdate
    · exact h
  · exact h.postTo

theorem Told.finish {d : Deferred} {st : Nat} {p : List Fld} (h : Told i m s) : Told i m (finish d st p s) := by
  unfold Machine.finish
  split
  · exact h.mono rfl rfl ⟨fun _ h => h, fun _ h => h, fun _ _ h => h, fun _ h => h⟩
  · exact h.answer

theorem Told.completeWhere {f : Work → Bool} {st : Nat} {p : List Fld} (h : Told i m s) :
    Told i m (completeWhere f st p s) := by
  unfold Machine.completeWhere
  apply Told.forEach _ fun _ _ h => h.finish
  exact h.mono rfl rfl ⟨fun _ h => h, fun _ h => h, fun _ _ h => h, fun _ h => h⟩

/-- A live piece of work that completes tells its issuer. -/
theorem told_completeWhere {f : Work → Bool} {st : Nat} {p : List Fld} {d : Deferred} (hd : d ∈ s.stw.deferred)
    (hf : f d.work = true) (ha : d.dead = false) : Told d.issuer (rspMsg d.cmd d.tag st true p []) (completeWhere f st p s) := by
  unfold Machine.completeWhere
  dsimp only
  have hm : d ∈ s.stw.deferred.filter fun d => f d.work := List.mem_filter.mpr ⟨hd, hf⟩
  revert hm
  generalize s.stw.deferred.filter (fun d => f d.work) = l
  generalize ({ s with stw := { s.stw with deferred := s.stw.deferred.filter fun d => !f d.work } } : State) = u
  intro hm
  unfold Machine.forEach
  induction l generalizing u with
  | nil => cases hm
  | cons a l ih =>
    rcases List.mem_cons.mp hm with rfl | hm
    · have k : Told d.issuer (rspMsg d.cmd d.tag st true p []) (Machine.finish d st p u) := by
        unfold Machine.finish
        rw [if_neg (by simp [ha])]
        exact told_answer
      exact Told.forEach (l := l) (f := fun d => Machine.finish d st p) k fun _ _ h => h.finish
    · exact ih _ hm

/-- The state that a command leaves which is taken, accepted and done at once. -/
theorem finishesWith_of {own : State → State × Reply} {P : State → Prop} {w : Work} {form : Bool}
    (h : Taken c r s) (hf : form = true)
    (ho : ∀ u, (own (plumb s u)).2 = { status := Config.accepted, work := some w, after := complete w Config.ok [] }
      ∧ P (own (plumb s u)).1) (hP : ∀ a u, P a → P (plumb a u)) :
    ∃ t, run (serve c r form own) s = .next t ∧ FinishesWith c r P t := by
  subst hf
  rw [run_powered h.powered, serve_taken h]
  refine ⟨_, rfl, ?_⟩
  rw [(agree_takeRequest r c.code s).eq]
  generalize takeRequest r c.code s = u
  obtain ⟨h2, h1⟩ := ho u
  have key : ∀ t, Agree (own (plumb s u)).1 t → P t := fun t a => by rw [a.eq]; exact hP _ _ h1
  unfold FinishesWith Answered
  by_cases hr : r.relay = true ∧ isCopy r.issuer = false
  · rw [if_pos hr, if_pos hr]
    unfold serveRelay
    dsimp only
    rw [selfInScope_plumb, (h.relayed hr.1).2.2, ownPart_taken h]
    simp only [if_true, h2]
    rw [if_neg (by decide)]
    exact ⟨key _ (agree_complete (agree_relayOpen (agree_defer (agree_answer rfl)))),
      Told.completeWhere (Told.relayOpen (Told.defer told_answer)), .inl hr⟩
  · rw [if_neg hr, if_neg hr]
    unfold serveHere
    dsimp only
    rw [h2]
    refine ⟨key _ (agree_complete (agree_defer (agree_answer rfl))), Told.completeWhere (Told.defer told_answer), .inr ?_⟩
    exact told_completeWhere (d := { issuer := r.issuer, tag := r.tag, cmd := c.code, work := w, dead := false })
      (List.mem_append_right _ (List.mem_singleton.mpr rfl)) (by simp) rfl

/-- A request that stays in this block, as its own part answers it. -/
theorem serve_local {own : State → State × Reply} {form : Bool} (h : Taken c r s) (hc : c.relayable = false) (hf : form = true) :
    run (serve c r form own) s = .next ((own (takeRequest r c.code s)).2.after
      (defer c r r.issuer (own (takeRequest r c.code s)).2.work
        (answer ((own (takeRequest r c.code s)).2.who.getD r.issuer) c.code r.tag (own (takeRequest r c.code s)).2.status
          (own (takeRequest r c.code s)).2.work.isNone (own (takeRequest r c.code s)).2.payload
          (own (takeRequest r c.code s)).2.bytes (own (takeRequest r c.code s)).1))) := by
  subst hf
  have hr : ¬ (r.relay = true ∧ isCopy r.issuer = false) := fun hr => by
    have := (h.relayed hr.1).1
    rw [hc] at this
    cases this
  rw [run_powered h.powered, serve_taken h, if_neg hr]
  rfl

theorem answered_local {st : Nat} {fin : Bool} {p : List Fld} {b : List Byte} (h : Taken c r s) (hc : c.relayable = false)
    (k : Told r.issuer (rspMsg c.code r.tag st fin p b) t) : Answered c r st fin p b t := by
  unfold Answered
  rw [if_neg]
  · exact k
  · intro hr
    have := (h.relayed hr.1).1
    rw [hc] at this
    cases this

theorem completesWith_local {own : State → State × Reply} {P : State → Prop} {p : List Fld} {form : Bool}
    (h : Taken c r s) (hc : c.relayable = false) (hf : form = true)
    (ho : (own (takeRequest r c.code s)).2 = okWith p ∧ P (own (takeRequest r c.code s)).1) (hP : ∀ a u, P a → P (plumb a u)) :
    ∃ t, run (serve c r form own) s = .next t ∧ CompletesWith c r P p t := by
  obtain ⟨h2, h1⟩ := ho
  refine ⟨_, serve_local h hc hf, ?_, ?_⟩
  · rw [h2]
    have a : Agree (own (takeRequest r c.code s)).1 (defer c r r.issuer none (answer r.issuer c.code r.tag Config.ok true p []
      (own (takeRequest r c.code s)).1)) := agree_defer (agree_answer rfl)
    show P (defer c r r.issuer none (answer r.issuer c.code r.tag Config.ok true p [] (own (takeRequest r c.code s)).1))
    rw [a.eq]
    exact hP _ _ h1
  · rw [h2]
    exact answered_local h hc (Told.defer told_answer)

theorem completes_local {own : State → State × Reply} {e : State} {p : List Fld} {form : Bool}
    (h : Taken c r s) (hc : c.relayable = false) (hf : form = true)
    (ho : (own (takeRequest r c.code s)).2 = okWith p ∧ Agree e (own (takeRequest r c.code s)).1) :
    ∃ t, run (serve c r form own) s = .next t ∧ Completes c r e p [] t := by
  obtain ⟨h2, h1⟩ := ho
  refine ⟨_, serve_local h hc hf, ?_, ?_⟩
  · rw [h2]
    exact agree_defer (agree_answer h1)
  · rw [h2]
    exact answered_local h hc (Told.defer told_answer)

theorem run_when {b : Bool} {f : State → State} (h : s.rst.aonOk = true) (hb : b = true) : run (when b f) s = .next (f s) := by
  rw [run_powered h, hb]; rfl

end Sys2Proof.Machine
end

