-- ==== Sys2Proof/Laws/State.lean ====
section
/-!
SUPPORT. What each update of one subsystem leaves in each field of the state, so that no proof unfolds a record update.
-/

namespace Sys2Proof.Machine

variable (s : State)

/-! ## `onTime` -/

@[simp] theorem onTime_pending (f : TimeFront → TimeFront) : (onTime f s).pending = s.pending := rfl
@[simp] theorem onTime_fuse (f : TimeFront → TimeFront) : (onTime f s).fuse = s.fuse := rfl
@[simp] theorem onTime_die (f : TimeFront → TimeFront) : (onTime f s).die = s.die := rfl
@[simp] theorem onTime_time (f : TimeFront → TimeFront) : (onTime f s).time = f s.time := rfl
@[simp] theorem onTime_grid (f : TimeFront → TimeFront) : (onTime f s).grid = s.grid := rfl
@[simp] theorem onTime_nv (f : TimeFront → TimeFront) : (onTime f s).nv = s.nv := rfl
@[simp] theorem onTime_fence (f : TimeFront → TimeFront) : (onTime f s).fence = s.fence := rfl
@[simp] theorem onTime_sbi (f : TimeFront → TimeFront) : (onTime f s).sbi = s.sbi := rfl
@[simp] theorem onTime_rst (f : TimeFront → TimeFront) : (onTime f s).rst = s.rst := rfl
@[simp] theorem onTime_hrw (f : TimeFront → TimeFront) : (onTime f s).hrw = s.hrw := rfl
@[simp] theorem onTime_stw (f : TimeFront → TimeFront) : (onTime f s).stw = s.stw := rfl
@[simp] theorem onTime_pwr (f : TimeFront → TimeFront) : (onTime f s).pwr = s.pwr := rfl
@[simp] theorem onTime_smp (f : TimeFront → TimeFront) : (onTime f s).smp = s.smp := rfl
@[simp] theorem onTime_led (f : TimeFront → TimeFront) : (onTime f s).led = s.led := rfl
@[simp] theorem onTime_roles (f : TimeFront → TimeFront) : (onTime f s).roles = s.roles := rfl
@[simp] theorem onTime_place (f : TimeFront → TimeFront) : (onTime f s).place = s.place := rfl
@[simp] theorem onTime_conf (f : TimeFront → TimeFront) : (onTime f s).conf = s.conf := rfl
@[simp] theorem onTime_tree (f : TimeFront → TimeFront) : (onTime f s).tree = s.tree := rfl
@[simp] theorem onTime_arc (f : TimeFront → TimeFront) : (onTime f s).arc = s.arc := rfl
@[simp] theorem onTime_dig (f : TimeFront → TimeFront) : (onTime f s).dig = s.dig := rfl
@[simp] theorem onTime_test (f : TimeFront → TimeFront) : (onTime f s).test = s.test := rfl
@[simp] theorem onTime_trc (f : TimeFront → TimeFront) : (onTime f s).trc = s.trc := rfl
@[simp] theorem onTime_upl (f : TimeFront → TimeFront) : (onTime f s).upl = s.upl := rfl
@[simp] theorem onTime_buf (f : TimeFront → TimeFront) : (onTime f s).buf = s.buf := rfl
@[simp] theorem onTime_dump (f : TimeFront → TimeFront) : (onTime f s).dump = s.dump := rfl
@[simp] theorem onTime_jtag (f : TimeFront → TimeFront) : (onTime f s).jtag = s.jtag := rfl
@[simp] theorem onTime_epoch (f : TimeFront → TimeFront) : (onTime f s).epoch = s.epoch := rfl
@[simp] theorem onTime_exhausted (f : TimeFront → TimeFront) : (onTime f s).exhausted = s.exhausted := rfl
@[simp] theorem onTime_out (f : TimeFront → TimeFront) : (onTime f s).out = s.out := rfl
@[simp] theorem onTime_free (f : TimeFront → TimeFront) : (onTime f s).free = s.free := rfl

/-! ## `onGrid` -/

@[simp] theorem onGrid_pending (f : Grid → Grid) : (onGrid f s).pending = s.pending := rfl
@[simp] theorem onGrid_fuse (f : Grid → Grid) : (onGrid f s).fuse = s.fuse := rfl
@[simp] theorem onGrid_die (f : Grid → Grid) : (onGrid f s).die = s.die := rfl
@[simp] theorem onGrid_time (f : Grid → Grid) : (onGrid f s).time = s.time := rfl
@[simp] theorem onGrid_grid (f : Grid → Grid) : (onGrid f s).grid = f s.grid := rfl
@[simp] theorem onGrid_nv (f : Grid → Grid) : (onGrid f s).nv = s.nv := rfl
@[simp] theorem onGrid_fence (f : Grid → Grid) : (onGrid f s).fence = s.fence := rfl
@[simp] theorem onGrid_sbi (f : Grid → Grid) : (onGrid f s).sbi = s.sbi := rfl
@[simp] theorem onGrid_rst (f : Grid → Grid) : (onGrid f s).rst = s.rst := rfl
@[simp] theorem onGrid_hrw (f : Grid → Grid) : (onGrid f s).hrw = s.hrw := rfl
@[simp] theorem onGrid_stw (f : Grid → Grid) : (onGrid f s).stw = s.stw := rfl
@[simp] theorem onGrid_pwr (f : Grid → Grid) : (onGrid f s).pwr = s.pwr := rfl
@[simp] theorem onGrid_smp (f : Grid → Grid) : (onGrid f s).smp = s.smp := rfl
@[simp] theorem onGrid_led (f : Grid → Grid) : (onGrid f s).led = s.led := rfl
@[simp] theorem onGrid_roles (f : Grid → Grid) : (onGrid f s).roles = s.roles := rfl
@[simp] theorem onGrid_place (f : Grid → Grid) : (onGrid f s).place = s.place := rfl
@[simp] theorem onGrid_conf (f : Grid → Grid) : (onGrid f s).conf = s.conf := rfl
@[simp] theorem onGrid_tree (f : Grid → Grid) : (onGrid f s).tree = s.tree := rfl
@[simp] theorem onGrid_arc (f : Grid → Grid) : (onGrid f s).arc = s.arc := rfl
@[simp] theorem onGrid_dig (f : Grid → Grid) : (onGrid f s).dig = s.dig := rfl
@[simp] theorem onGrid_test (f : Grid → Grid) : (onGrid f s).test = s.test := rfl
@[simp] theorem onGrid_trc (f : Grid → Grid) : (onGrid f s).trc = s.trc := rfl
@[simp] theorem onGrid_upl (f : Grid → Grid) : (onGrid f s).upl = s.upl := rfl
@[simp] theorem onGrid_buf (f : Grid → Grid) : (onGrid f s).buf = s.buf := rfl
@[simp] theorem onGrid_dump (f : Grid → Grid) : (onGrid f s).dump = s.dump := rfl
@[simp] theorem onGrid_jtag (f : Grid → Grid) : (onGrid f s).jtag = s.jtag := rfl
@[simp] theorem onGrid_epoch (f : Grid → Grid) : (onGrid f s).epoch = s.epoch := rfl
@[simp] theorem onGrid_exhausted (f : Grid → Grid) : (onGrid f s).exhausted = s.exhausted := rfl
@[simp] theorem onGrid_out (f : Grid → Grid) : (onGrid f s).out = s.out := rfl
@[simp] theorem onGrid_free (f : Grid → Grid) : (onGrid f s).free = s.free := rfl

/-! ## `onNv` -/

@[simp] theorem onNv_pending (f : NvLog → NvLog) : (onNv f s).pending = s.pending := rfl
@[simp] theorem onNv_fuse (f : NvLog → NvLog) : (onNv f s).fuse = s.fuse := rfl
@[simp] theorem onNv_die (f : NvLog → NvLog) : (onNv f s).die = s.die := rfl
@[simp] theorem onNv_time (f : NvLog → NvLog) : (onNv f s).time = s.time := rfl
@[simp] theorem onNv_grid (f : NvLog → NvLog) : (onNv f s).grid = s.grid := rfl
@[simp] theorem onNv_nv (f : NvLog → NvLog) : (onNv f s).nv = f s.nv := rfl
@[simp] theorem onNv_fence (f : NvLog → NvLog) : (onNv f s).fence = s.fence := rfl
@[simp] theorem onNv_sbi (f : NvLog → NvLog) : (onNv f s).sbi = s.sbi := rfl
@[simp] theorem onNv_rst (f : NvLog → NvLog) : (onNv f s).rst = s.rst := rfl
@[simp] theorem onNv_hrw (f : NvLog → NvLog) : (onNv f s).hrw = s.hrw := rfl
@[simp] theorem onNv_stw (f : NvLog → NvLog) : (onNv f s).stw = s.stw := rfl
@[simp] theorem onNv_pwr (f : NvLog → NvLog) : (onNv f s).pwr = s.pwr := rfl
@[simp] theorem onNv_smp (f : NvLog → NvLog) : (onNv f s).smp = s.smp := rfl
@[simp] theorem onNv_led (f : NvLog → NvLog) : (onNv f s).led = s.led := rfl
@[simp] theorem onNv_roles (f : NvLog → NvLog) : (onNv f s).roles = s.roles := rfl
@[simp] theorem onNv_place (f : NvLog → NvLog) : (onNv f s).place = s.place := rfl
@[simp] theorem onNv_conf (f : NvLog → NvLog) : (onNv f s).conf = s.conf := rfl
@[simp] theorem onNv_tree (f : NvLog → NvLog) : (onNv f s).tree = s.tree := rfl
@[simp] theorem onNv_arc (f : NvLog → NvLog) : (onNv f s).arc = s.arc := rfl
@[simp] theorem onNv_dig (f : NvLog → NvLog) : (onNv f s).dig = s.dig := rfl
@[simp] theorem onNv_test (f : NvLog → NvLog) : (onNv f s).test = s.test := rfl
@[simp] theorem onNv_trc (f : NvLog → NvLog) : (onNv f s).trc = s.trc := rfl
@[simp] theorem onNv_upl (f : NvLog → NvLog) : (onNv f s).upl = s.upl := rfl
@[simp] theorem onNv_buf (f : NvLog → NvLog) : (onNv f s).buf = s.buf := rfl
@[simp] theorem onNv_dump (f : NvLog → NvLog) : (onNv f s).dump = s.dump := rfl
@[simp] theorem onNv_jtag (f : NvLog → NvLog) : (onNv f s).jtag = s.jtag := rfl
@[simp] theorem onNv_epoch (f : NvLog → NvLog) : (onNv f s).epoch = s.epoch := rfl
@[simp] theorem onNv_exhausted (f : NvLog → NvLog) : (onNv f s).exhausted = s.exhausted := rfl
@[simp] theorem onNv_out (f : NvLog → NvLog) : (onNv f s).out = s.out := rfl
@[simp] theorem onNv_free (f : NvLog → NvLog) : (onNv f s).free = s.free := rfl

/-! ## `onSbi` -/

@[simp] theorem onSbi_pending (f : SbiTarget → SbiTarget) : (onSbi f s).pending = s.pending := rfl
@[simp] theorem onSbi_fuse (f : SbiTarget → SbiTarget) : (onSbi f s).fuse = s.fuse := rfl
@[simp] theorem onSbi_die (f : SbiTarget → SbiTarget) : (onSbi f s).die = s.die := rfl
@[simp] theorem onSbi_time (f : SbiTarget → SbiTarget) : (onSbi f s).time = s.time := rfl
@[simp] theorem onSbi_grid (f : SbiTarget → SbiTarget) : (onSbi f s).grid = s.grid := rfl
@[simp] theorem onSbi_nv (f : SbiTarget → SbiTarget) : (onSbi f s).nv = s.nv := rfl
@[simp] theorem onSbi_fence (f : SbiTarget → SbiTarget) : (onSbi f s).fence = s.fence := rfl
@[simp] theorem onSbi_sbi (f : SbiTarget → SbiTarget) : (onSbi f s).sbi = f s.sbi := rfl
@[simp] theorem onSbi_rst (f : SbiTarget → SbiTarget) : (onSbi f s).rst = s.rst := rfl
@[simp] theorem onSbi_hrw (f : SbiTarget → SbiTarget) : (onSbi f s).hrw = s.hrw := rfl
@[simp] theorem onSbi_stw (f : SbiTarget → SbiTarget) : (onSbi f s).stw = s.stw := rfl
@[simp] theorem onSbi_pwr (f : SbiTarget → SbiTarget) : (onSbi f s).pwr = s.pwr := rfl
@[simp] theorem onSbi_smp (f : SbiTarget → SbiTarget) : (onSbi f s).smp = s.smp := rfl
@[simp] theorem onSbi_led (f : SbiTarget → SbiTarget) : (onSbi f s).led = s.led := rfl
@[simp] theorem onSbi_roles (f : SbiTarget → SbiTarget) : (onSbi f s).roles = s.roles := rfl
@[simp] theorem onSbi_place (f : SbiTarget → SbiTarget) : (onSbi f s).place = s.place := rfl
@[simp] theorem onSbi_conf (f : SbiTarget → SbiTarget) : (onSbi f s).conf = s.conf := rfl
@[simp] theorem onSbi_tree (f : SbiTarget → SbiTarget) : (onSbi f s).tree = s.tree := rfl
@[simp] theorem onSbi_arc (f : SbiTarget → SbiTarget) : (onSbi f s).arc = s.arc := rfl
@[simp] theorem onSbi_dig (f : SbiTarget → SbiTarget) : (onSbi f s).dig = s.dig := rfl
@[simp] theorem onSbi_test (f : SbiTarget → SbiTarget) : (onSbi f s).test = s.test := rfl
@[simp] theorem onSbi_trc (f : SbiTarget → SbiTarget) : (onSbi f s).trc = s.trc := rfl
@[simp] theorem onSbi_upl (f : SbiTarget → SbiTarget) : (onSbi f s).upl = s.upl := rfl
@[simp] theorem onSbi_buf (f : SbiTarget → SbiTarget) : (onSbi f s).buf = s.buf := rfl
@[simp] theorem onSbi_dump (f : SbiTarget → SbiTarget) : (onSbi f s).dump = s.dump := rfl
@[simp] theorem onSbi_jtag (f : SbiTarget → SbiTarget) : (onSbi f s).jtag = s.jtag := rfl
@[simp] theorem onSbi_epoch (f : SbiTarget → SbiTarget) : (onSbi f s).epoch = s.epoch := rfl
@[simp] theorem onSbi_exhausted (f : SbiTarget → SbiTarget) : (onSbi f s).exhausted = s.exhausted := rfl
@[simp] theorem onSbi_out (f : SbiTarget → SbiTarget) : (onSbi f s).out = s.out := rfl
@[simp] theorem onSbi_free (f : SbiTarget → SbiTarget) : (onSbi f s).free = s.free := rfl

/-! ## `onRst` -/

@[simp] theorem onRst_pending (f : ResetCtl → ResetCtl) : (onRst f s).pending = s.pending := rfl
@[simp] theorem onRst_fuse (f : ResetCtl → ResetCtl) : (onRst f s).fuse = s.fuse := rfl
@[simp] theorem onRst_die (f : ResetCtl → ResetCtl) : (onRst f s).die = s.die := rfl
@[simp] theorem onRst_time (f : ResetCtl → ResetCtl) : (onRst f s).time = s.time := rfl
@[simp] theorem onRst_grid (f : ResetCtl → ResetCtl) : (onRst f s).grid = s.grid := rfl
@[simp] theorem onRst_nv (f : ResetCtl → ResetCtl) : (onRst f s).nv = s.nv := rfl
@[simp] theorem onRst_fence (f : ResetCtl → ResetCtl) : (onRst f s).fence = s.fence := rfl
@[simp] theorem onRst_sbi (f : ResetCtl → ResetCtl) : (onRst f s).sbi = s.sbi := rfl
@[simp] theorem onRst_rst (f : ResetCtl → ResetCtl) : (onRst f s).rst = f s.rst := rfl
@[simp] theorem onRst_hrw (f : ResetCtl → ResetCtl) : (onRst f s).hrw = s.hrw := rfl
@[simp] theorem onRst_stw (f : ResetCtl → ResetCtl) : (onRst f s).stw = s.stw := rfl
@[simp] theorem onRst_pwr (f : ResetCtl → ResetCtl) : (onRst f s).pwr = s.pwr := rfl
@[simp] theorem onRst_smp (f : ResetCtl → ResetCtl) : (onRst f s).smp = s.smp := rfl
@[simp] theorem onRst_led (f : ResetCtl → ResetCtl) : (onRst f s).led = s.led := rfl
@[simp] theorem onRst_roles (f : ResetCtl → ResetCtl) : (onRst f s).roles = s.roles := rfl
@[simp] theorem onRst_place (f : ResetCtl → ResetCtl) : (onRst f s).place = s.place := rfl
@[simp] theorem onRst_conf (f : ResetCtl → ResetCtl) : (onRst f s).conf = s.conf := rfl
@[simp] theorem onRst_tree (f : ResetCtl → ResetCtl) : (onRst f s).tree = s.tree := rfl
@[simp] theorem onRst_arc (f : ResetCtl → ResetCtl) : (onRst f s).arc = s.arc := rfl
@[simp] theorem onRst_dig (f : ResetCtl → ResetCtl) : (onRst f s).dig = s.dig := rfl
@[simp] theorem onRst_test (f : ResetCtl → ResetCtl) : (onRst f s).test = s.test := rfl
@[simp] theorem onRst_trc (f : ResetCtl → ResetCtl) : (onRst f s).trc = s.trc := rfl
@[simp] theorem onRst_upl (f : ResetCtl → ResetCtl) : (onRst f s).upl = s.upl := rfl
@[simp] theorem onRst_buf (f : ResetCtl → ResetCtl) : (onRst f s).buf = s.buf := rfl
@[simp] theorem onRst_dump (f : ResetCtl → ResetCtl) : (onRst f s).dump = s.dump := rfl
@[simp] theorem onRst_jtag (f : ResetCtl → ResetCtl) : (onRst f s).jtag = s.jtag := rfl
@[simp] theorem onRst_epoch (f : ResetCtl → ResetCtl) : (onRst f s).epoch = s.epoch := rfl
@[simp] theorem onRst_exhausted (f : ResetCtl → ResetCtl) : (onRst f s).exhausted = s.exhausted := rfl
@[simp] theorem onRst_out (f : ResetCtl → ResetCtl) : (onRst f s).out = s.out := rfl
@[simp] theorem onRst_free (f : ResetCtl → ResetCtl) : (onRst f s).free = s.free := rfl

/-! ## `onHrw` -/

@[simp] theorem onHrw_pending (f : Hrw → Hrw) : (onHrw f s).pending = s.pending := rfl
@[simp] theorem onHrw_fuse (f : Hrw → Hrw) : (onHrw f s).fuse = s.fuse := rfl
@[simp] theorem onHrw_die (f : Hrw → Hrw) : (onHrw f s).die = s.die := rfl
@[simp] theorem onHrw_time (f : Hrw → Hrw) : (onHrw f s).time = s.time := rfl
@[simp] theorem onHrw_grid (f : Hrw → Hrw) : (onHrw f s).grid = s.grid := rfl
@[simp] theorem onHrw_nv (f : Hrw → Hrw) : (onHrw f s).nv = s.nv := rfl
@[simp] theorem onHrw_fence (f : Hrw → Hrw) : (onHrw f s).fence = s.fence := rfl
@[simp] theorem onHrw_sbi (f : Hrw → Hrw) : (onHrw f s).sbi = s.sbi := rfl
@[simp] theorem onHrw_rst (f : Hrw → Hrw) : (onHrw f s).rst = s.rst := rfl
@[simp] theorem onHrw_hrw (f : Hrw → Hrw) : (onHrw f s).hrw = f s.hrw := rfl
@[simp] theorem onHrw_stw (f : Hrw → Hrw) : (onHrw f s).stw = s.stw := rfl
@[simp] theorem onHrw_pwr (f : Hrw → Hrw) : (onHrw f s).pwr = s.pwr := rfl
@[simp] theorem onHrw_smp (f : Hrw → Hrw) : (onHrw f s).smp = s.smp := rfl
@[simp] theorem onHrw_led (f : Hrw → Hrw) : (onHrw f s).led = s.led := rfl
@[simp] theorem onHrw_roles (f : Hrw → Hrw) : (onHrw f s).roles = s.roles := rfl
@[simp] theorem onHrw_place (f : Hrw → Hrw) : (onHrw f s).place = s.place := rfl
@[simp] theorem onHrw_conf (f : Hrw → Hrw) : (onHrw f s).conf = s.conf := rfl
@[simp] theorem onHrw_tree (f : Hrw → Hrw) : (onHrw f s).tree = s.tree := rfl
@[simp] theorem onHrw_arc (f : Hrw → Hrw) : (onHrw f s).arc = s.arc := rfl
@[simp] theorem onHrw_dig (f : Hrw → Hrw) : (onHrw f s).dig = s.dig := rfl
@[simp] theorem onHrw_test (f : Hrw → Hrw) : (onHrw f s).test = s.test := rfl
@[simp] theorem onHrw_trc (f : Hrw → Hrw) : (onHrw f s).trc = s.trc := rfl
@[simp] theorem onHrw_upl (f : Hrw → Hrw) : (onHrw f s).upl = s.upl := rfl
@[simp] theorem onHrw_buf (f : Hrw → Hrw) : (onHrw f s).buf = s.buf := rfl
@[simp] theorem onHrw_dump (f : Hrw → Hrw) : (onHrw f s).dump = s.dump := rfl
@[simp] theorem onHrw_jtag (f : Hrw → Hrw) : (onHrw f s).jtag = s.jtag := rfl
@[simp] theorem onHrw_epoch (f : Hrw → Hrw) : (onHrw f s).epoch = s.epoch := rfl
@[simp] theorem onHrw_exhausted (f : Hrw → Hrw) : (onHrw f s).exhausted = s.exhausted := rfl
@[simp] theorem onHrw_out (f : Hrw → Hrw) : (onHrw f s).out = s.out := rfl
@[simp] theorem onHrw_free (f : Hrw → Hrw) : (onHrw f s).free = s.free := rfl

/-! ## `onStw` -/

@[simp] theorem onStw_pending (f : Steward → Steward) : (onStw f s).pending = s.pending := rfl
@[simp] theorem onStw_fuse (f : Steward → Steward) : (onStw f s).fuse = s.fuse := rfl
@[simp] theorem onStw_die (f : Steward → Steward) : (onStw f s).die = s.die := rfl
@[simp] theorem onStw_time (f : Steward → Steward) : (onStw f s).time = s.time := rfl
@[simp] theorem onStw_grid (f : Steward → Steward) : (onStw f s).grid = s.grid := rfl
@[simp] theorem onStw_nv (f : Steward → Steward) : (onStw f s).nv = s.nv := rfl
@[simp] theorem onStw_fence (f : Steward → Steward) : (onStw f s).fence = s.fence := rfl
@[simp] theorem onStw_sbi (f : Steward → Steward) : (onStw f s).sbi = s.sbi := rfl
@[simp] theorem onStw_rst (f : Steward → Steward) : (onStw f s).rst = s.rst := rfl
@[simp] theorem onStw_hrw (f : Steward → Steward) : (onStw f s).hrw = s.hrw := rfl
@[simp] theorem onStw_stw (f : Steward → Steward) : (onStw f s).stw = f s.stw := rfl
@[simp] theorem onStw_pwr (f : Steward → Steward) : (onStw f s).pwr = s.pwr := rfl
@[simp] theorem onStw_smp (f : Steward → Steward) : (onStw f s).smp = s.smp := rfl
@[simp] theorem onStw_led (f : Steward → Steward) : (onStw f s).led = s.led := rfl
@[simp] theorem onStw_roles (f : Steward → Steward) : (onStw f s).roles = s.roles := rfl
@[simp] theorem onStw_place (f : Steward → Steward) : (onStw f s).place = s.place := rfl
@[simp] theorem onStw_conf (f : Steward → Steward) : (onStw f s).conf = s.conf := rfl
@[simp] theorem onStw_tree (f : Steward → Steward) : (onStw f s).tree = s.tree := rfl
@[simp] theorem onStw_arc (f : Steward → Steward) : (onStw f s).arc = s.arc := rfl
@[simp] theorem onStw_dig (f : Steward → Steward) : (onStw f s).dig = s.dig := rfl
@[simp] theorem onStw_test (f : Steward → Steward) : (onStw f s).test = s.test := rfl
@[simp] theorem onStw_trc (f : Steward → Steward) : (onStw f s).trc = s.trc := rfl
@[simp] theorem onStw_upl (f : Steward → Steward) : (onStw f s).upl = s.upl := rfl
@[simp] theorem onStw_buf (f : Steward → Steward) : (onStw f s).buf = s.buf := rfl
@[simp] theorem onStw_dump (f : Steward → Steward) : (onStw f s).dump = s.dump := rfl
@[simp] theorem onStw_jtag (f : Steward → Steward) : (onStw f s).jtag = s.jtag := rfl
@[simp] theorem onStw_epoch (f : Steward → Steward) : (onStw f s).epoch = s.epoch := rfl
@[simp] theorem onStw_exhausted (f : Steward → Steward) : (onStw f s).exhausted = s.exhausted := rfl
@[simp] theorem onStw_out (f : Steward → Steward) : (onStw f s).out = s.out := rfl
@[simp] theorem onStw_free (f : Steward → Steward) : (onStw f s).free = s.free := rfl

/-! ## `onPwr` -/

@[simp] theorem onPwr_pending (f : Power → Power) : (onPwr f s).pending = s.pending := rfl
@[simp] theorem onPwr_fuse (f : Power → Power) : (onPwr f s).fuse = s.fuse := rfl
@[simp] theorem onPwr_die (f : Power → Power) : (onPwr f s).die = s.die := rfl
@[simp] theorem onPwr_time (f : Power → Power) : (onPwr f s).time = s.time := rfl
@[simp] theorem onPwr_grid (f : Power → Power) : (onPwr f s).grid = s.grid := rfl
@[simp] theorem onPwr_nv (f : Power → Power) : (onPwr f s).nv = s.nv := rfl
@[simp] theorem onPwr_fence (f : Power → Power) : (onPwr f s).fence = s.fence := rfl
@[simp] theorem onPwr_sbi (f : Power → Power) : (onPwr f s).sbi = s.sbi := rfl
@[simp] theorem onPwr_rst (f : Power → Power) : (onPwr f s).rst = s.rst := rfl
@[simp] theorem onPwr_hrw (f : Power → Power) : (onPwr f s).hrw = s.hrw := rfl
@[simp] theorem onPwr_stw (f : Power → Power) : (onPwr f s).stw = s.stw := rfl
@[simp] theorem onPwr_pwr (f : Power → Power) : (onPwr f s).pwr = f s.pwr := rfl
@[simp] theorem onPwr_smp (f : Power → Power) : (onPwr f s).smp = s.smp := rfl
@[simp] theorem onPwr_led (f : Power → Power) : (onPwr f s).led = s.led := rfl
@[simp] theorem onPwr_roles (f : Power → Power) : (onPwr f s).roles = s.roles := rfl
@[simp] theorem onPwr_place (f : Power → Power) : (onPwr f s).place = s.place := rfl
@[simp] theorem onPwr_conf (f : Power → Power) : (onPwr f s).conf = s.conf := rfl
@[simp] theorem onPwr_tree (f : Power → Power) : (onPwr f s).tree = s.tree := rfl
@[simp] theorem onPwr_arc (f : Power → Power) : (onPwr f s).arc = s.arc := rfl
@[simp] theorem onPwr_dig (f : Power → Power) : (onPwr f s).dig = s.dig := rfl
@[simp] theorem onPwr_test (f : Power → Power) : (onPwr f s).test = s.test := rfl
@[simp] theorem onPwr_trc (f : Power → Power) : (onPwr f s).trc = s.trc := rfl
@[simp] theorem onPwr_upl (f : Power → Power) : (onPwr f s).upl = s.upl := rfl
@[simp] theorem onPwr_buf (f : Power → Power) : (onPwr f s).buf = s.buf := rfl
@[simp] theorem onPwr_dump (f : Power → Power) : (onPwr f s).dump = s.dump := rfl
@[simp] theorem onPwr_jtag (f : Power → Power) : (onPwr f s).jtag = s.jtag := rfl
@[simp] theorem onPwr_epoch (f : Power → Power) : (onPwr f s).epoch = s.epoch := rfl
@[simp] theorem onPwr_exhausted (f : Power → Power) : (onPwr f s).exhausted = s.exhausted := rfl
@[simp] theorem onPwr_out (f : Power → Power) : (onPwr f s).out = s.out := rfl
@[simp] theorem onPwr_free (f : Power → Power) : (onPwr f s).free = s.free := rfl

/-! ## `onSmp` -/

@[simp] theorem onSmp_pending (f : Sampler → Sampler) : (onSmp f s).pending = s.pending := rfl
@[simp] theorem onSmp_fuse (f : Sampler → Sampler) : (onSmp f s).fuse = s.fuse := rfl
@[simp] theorem onSmp_die (f : Sampler → Sampler) : (onSmp f s).die = s.die := rfl
@[simp] theorem onSmp_time (f : Sampler → Sampler) : (onSmp f s).time = s.time := rfl
@[simp] theorem onSmp_grid (f : Sampler → Sampler) : (onSmp f s).grid = s.grid := rfl
@[simp] theorem onSmp_nv (f : Sampler → Sampler) : (onSmp f s).nv = s.nv := rfl
@[simp] theorem onSmp_fence (f : Sampler → Sampler) : (onSmp f s).fence = s.fence := rfl
@[simp] theorem onSmp_sbi (f : Sampler → Sampler) : (onSmp f s).sbi = s.sbi := rfl
@[simp] theorem onSmp_rst (f : Sampler → Sampler) : (onSmp f s).rst = s.rst := rfl
@[simp] theorem onSmp_hrw (f : Sampler → Sampler) : (onSmp f s).hrw = s.hrw := rfl
@[simp] theorem onSmp_stw (f : Sampler → Sampler) : (onSmp f s).stw = s.stw := rfl
@[simp] theorem onSmp_pwr (f : Sampler → Sampler) : (onSmp f s).pwr = s.pwr := rfl
@[simp] theorem onSmp_smp (f : Sampler → Sampler) : (onSmp f s).smp = f s.smp := rfl
@[simp] theorem onSmp_led (f : Sampler → Sampler) : (onSmp f s).led = s.led := rfl
@[simp] theorem onSmp_roles (f : Sampler → Sampler) : (onSmp f s).roles = s.roles := rfl
@[simp] theorem onSmp_place (f : Sampler → Sampler) : (onSmp f s).place = s.place := rfl
@[simp] theorem onSmp_conf (f : Sampler → Sampler) : (onSmp f s).conf = s.conf := rfl
@[simp] theorem onSmp_tree (f : Sampler → Sampler) : (onSmp f s).tree = s.tree := rfl
@[simp] theorem onSmp_arc (f : Sampler → Sampler) : (onSmp f s).arc = s.arc := rfl
@[simp] theorem onSmp_dig (f : Sampler → Sampler) : (onSmp f s).dig = s.dig := rfl
@[simp] theorem onSmp_test (f : Sampler → Sampler) : (onSmp f s).test = s.test := rfl
@[simp] theorem onSmp_trc (f : Sampler → Sampler) : (onSmp f s).trc = s.trc := rfl
@[simp] theorem onSmp_upl (f : Sampler → Sampler) : (onSmp f s).upl = s.upl := rfl
@[simp] theorem onSmp_buf (f : Sampler → Sampler) : (onSmp f s).buf = s.buf := rfl
@[simp] theorem onSmp_dump (f : Sampler → Sampler) : (onSmp f s).dump = s.dump := rfl
@[simp] theorem onSmp_jtag (f : Sampler → Sampler) : (onSmp f s).jtag = s.jtag := rfl
@[simp] theorem onSmp_epoch (f : Sampler → Sampler) : (onSmp f s).epoch = s.epoch := rfl
@[simp] theorem onSmp_exhausted (f : Sampler → Sampler) : (onSmp f s).exhausted = s.exhausted := rfl
@[simp] theorem onSmp_out (f : Sampler → Sampler) : (onSmp f s).out = s.out := rfl
@[simp] theorem onSmp_free (f : Sampler → Sampler) : (onSmp f s).free = s.free := rfl

/-! ## `onLed` -/

@[simp] theorem onLed_pending (f : LeafLedger → LeafLedger) : (onLed f s).pending = s.pending := rfl
@[simp] theorem onLed_fuse (f : LeafLedger → LeafLedger) : (onLed f s).fuse = s.fuse := rfl
@[simp] theorem onLed_die (f : LeafLedger → LeafLedger) : (onLed f s).die = s.die := rfl
@[simp] theorem onLed_time (f : LeafLedger → LeafLedger) : (onLed f s).time = s.time := rfl
@[simp] theorem onLed_grid (f : LeafLedger → LeafLedger) : (onLed f s).grid = s.grid := rfl
@[simp] theorem onLed_nv (f : LeafLedger → LeafLedger) : (onLed f s).nv = s.nv := rfl
@[simp] theorem onLed_fence (f : LeafLedger → LeafLedger) : (onLed f s).fence = s.fence := rfl
@[simp] theorem onLed_sbi (f : LeafLedger → LeafLedger) : (onLed f s).sbi = s.sbi := rfl
@[simp] theorem onLed_rst (f : LeafLedger → LeafLedger) : (onLed f s).rst = s.rst := rfl
@[simp] theorem onLed_hrw (f : LeafLedger → LeafLedger) : (onLed f s).hrw = s.hrw := rfl
@[simp] theorem onLed_stw (f : LeafLedger → LeafLedger) : (onLed f s).stw = s.stw := rfl
@[simp] theorem onLed_pwr (f : LeafLedger → LeafLedger) : (onLed f s).pwr = s.pwr := rfl
@[simp] theorem onLed_smp (f : LeafLedger → LeafLedger) : (onLed f s).smp = s.smp := rfl
@[simp] theorem onLed_led (f : LeafLedger → LeafLedger) : (onLed f s).led = f s.led := rfl
@[simp] theorem onLed_roles (f : LeafLedger → LeafLedger) : (onLed f s).roles = s.roles := rfl
@[simp] theorem onLed_place (f : LeafLedger → LeafLedger) : (onLed f s).place = s.place := rfl
@[simp] theorem onLed_conf (f : LeafLedger → LeafLedger) : (onLed f s).conf = s.conf := rfl
@[simp] theorem onLed_tree (f : LeafLedger → LeafLedger) : (onLed f s).tree = s.tree := rfl
@[simp] theorem onLed_arc (f : LeafLedger → LeafLedger) : (onLed f s).arc = s.arc := rfl
@[simp] theorem onLed_dig (f : LeafLedger → LeafLedger) : (onLed f s).dig = s.dig := rfl
@[simp] theorem onLed_test (f : LeafLedger → LeafLedger) : (onLed f s).test = s.test := rfl
@[simp] theorem onLed_trc (f : LeafLedger → LeafLedger) : (onLed f s).trc = s.trc := rfl
@[simp] theorem onLed_upl (f : LeafLedger → LeafLedger) : (onLed f s).upl = s.upl := rfl
@[simp] theorem onLed_buf (f : LeafLedger → LeafLedger) : (onLed f s).buf = s.buf := rfl
@[simp] theorem onLed_dump (f : LeafLedger → LeafLedger) : (onLed f s).dump = s.dump := rfl
@[simp] theorem onLed_jtag (f : LeafLedger → LeafLedger) : (onLed f s).jtag = s.jtag := rfl
@[simp] theorem onLed_epoch (f : LeafLedger → LeafLedger) : (onLed f s).epoch = s.epoch := rfl
@[simp] theorem onLed_exhausted (f : LeafLedger → LeafLedger) : (onLed f s).exhausted = s.exhausted := rfl
@[simp] theorem onLed_out (f : LeafLedger → LeafLedger) : (onLed f s).out = s.out := rfl
@[simp] theorem onLed_free (f : LeafLedger → LeafLedger) : (onLed f s).free = s.free := rfl

/-! ## `onPlace` -/

@[simp] theorem onPlace_pending (f : Place → Place) : (onPlace f s).pending = s.pending := rfl
@[simp] theorem onPlace_fuse (f : Place → Place) : (onPlace f s).fuse = s.fuse := rfl
@[simp] theorem onPlace_die (f : Place → Place) : (onPlace f s).die = s.die := rfl
@[simp] theorem onPlace_time (f : Place → Place) : (onPlace f s).time = s.time := rfl
@[simp] theorem onPlace_grid (f : Place → Place) : (onPlace f s).grid = s.grid := rfl
@[simp] theorem onPlace_nv (f : Place → Place) : (onPlace f s).nv = s.nv := rfl
@[simp] theorem onPlace_fence (f : Place → Place) : (onPlace f s).fence = s.fence := rfl
@[simp] theorem onPlace_sbi (f : Place → Place) : (onPlace f s).sbi = s.sbi := rfl
@[simp] theorem onPlace_rst (f : Place → Place) : (onPlace f s).rst = s.rst := rfl
@[simp] theorem onPlace_hrw (f : Place → Place) : (onPlace f s).hrw = s.hrw := rfl
@[simp] theorem onPlace_stw (f : Place → Place) : (onPlace f s).stw = s.stw := rfl
@[simp] theorem onPlace_pwr (f : Place → Place) : (onPlace f s).pwr = s.pwr := rfl
@[simp] theorem onPlace_smp (f : Place → Place) : (onPlace f s).smp = s.smp := rfl
@[simp] theorem onPlace_led (f : Place → Place) : (onPlace f s).led = s.led := rfl
@[simp] theorem onPlace_roles (f : Place → Place) : (onPlace f s).roles = s.roles := rfl
@[simp] theorem onPlace_place (f : Place → Place) : (onPlace f s).place = f s.place := rfl
@[simp] theorem onPlace_conf (f : Place → Place) : (onPlace f s).conf = s.conf := rfl
@[simp] theorem onPlace_tree (f : Place → Place) : (onPlace f s).tree = s.tree := rfl
@[simp] theorem onPlace_arc (f : Place → Place) : (onPlace f s).arc = s.arc := rfl
@[simp] theorem onPlace_dig (f : Place → Place) : (onPlace f s).dig = s.dig := rfl
@[simp] theorem onPlace_test (f : Place → Place) : (onPlace f s).test = s.test := rfl
@[simp] theorem onPlace_trc (f : Place → Place) : (onPlace f s).trc = s.trc := rfl
@[simp] theorem onPlace_upl (f : Place → Place) : (onPlace f s).upl = s.upl := rfl
@[simp] theorem onPlace_buf (f : Place → Place) : (onPlace f s).buf = s.buf := rfl
@[simp] theorem onPlace_dump (f : Place → Place) : (onPlace f s).dump = s.dump := rfl
@[simp] theorem onPlace_jtag (f : Place → Place) : (onPlace f s).jtag = s.jtag := rfl
@[simp] theorem onPlace_epoch (f : Place → Place) : (onPlace f s).epoch = s.epoch := rfl
@[simp] theorem onPlace_exhausted (f : Place → Place) : (onPlace f s).exhausted = s.exhausted := rfl
@[simp] theorem onPlace_out (f : Place → Place) : (onPlace f s).out = s.out := rfl
@[simp] theorem onPlace_free (f : Place → Place) : (onPlace f s).free = s.free := rfl

/-! ## `onConf` -/

@[simp] theorem onConf_pending (f : Conf → Conf) : (onConf f s).pending = s.pending := rfl
@[simp] theorem onConf_fuse (f : Conf → Conf) : (onConf f s).fuse = s.fuse := rfl
@[simp] theorem onConf_die (f : Conf → Conf) : (onConf f s).die = s.die := rfl
@[simp] theorem onConf_time (f : Conf → Conf) : (onConf f s).time = s.time := rfl
@[simp] theorem onConf_grid (f : Conf → Conf) : (onConf f s).grid = s.grid := rfl
@[simp] theorem onConf_nv (f : Conf → Conf) : (onConf f s).nv = s.nv := rfl
@[simp] theorem onConf_fence (f : Conf → Conf) : (onConf f s).fence = s.fence := rfl
@[simp] theorem onConf_sbi (f : Conf → Conf) : (onConf f s).sbi = s.sbi := rfl
@[simp] theorem onConf_rst (f : Conf → Conf) : (onConf f s).rst = s.rst := rfl
@[simp] theorem onConf_hrw (f : Conf → Conf) : (onConf f s).hrw = s.hrw := rfl
@[simp] theorem onConf_stw (f : Conf → Conf) : (onConf f s).stw = s.stw := rfl
@[simp] theorem onConf_pwr (f : Conf → Conf) : (onConf f s).pwr = s.pwr := rfl
@[simp] theorem onConf_smp (f : Conf → Conf) : (onConf f s).smp = s.smp := rfl
@[simp] theorem onConf_led (f : Conf → Conf) : (onConf f s).led = s.led := rfl
@[simp] theorem onConf_roles (f : Conf → Conf) : (onConf f s).roles = s.roles := rfl
@[simp] theorem onConf_place (f : Conf → Conf) : (onConf f s).place = s.place := rfl
@[simp] theorem onConf_conf (f : Conf → Conf) : (onConf f s).conf = f s.conf := rfl
@[simp] theorem onConf_tree (f : Conf → Conf) : (onConf f s).tree = s.tree := rfl
@[simp] theorem onConf_arc (f : Conf → Conf) : (onConf f s).arc = s.arc := rfl
@[simp] theorem onConf_dig (f : Conf → Conf) : (onConf f s).dig = s.dig := rfl
@[simp] theorem onConf_test (f : Conf → Conf) : (onConf f s).test = s.test := rfl
@[simp] theorem onConf_trc (f : Conf → Conf) : (onConf f s).trc = s.trc := rfl
@[simp] theorem onConf_upl (f : Conf → Conf) : (onConf f s).upl = s.upl := rfl
@[simp] theorem onConf_buf (f : Conf → Conf) : (onConf f s).buf = s.buf := rfl
@[simp] theorem onConf_dump (f : Conf → Conf) : (onConf f s).dump = s.dump := rfl
@[simp] theorem onConf_jtag (f : Conf → Conf) : (onConf f s).jtag = s.jtag := rfl
@[simp] theorem onConf_epoch (f : Conf → Conf) : (onConf f s).epoch = s.epoch := rfl
@[simp] theorem onConf_exhausted (f : Conf → Conf) : (onConf f s).exhausted = s.exhausted := rfl
@[simp] theorem onConf_out (f : Conf → Conf) : (onConf f s).out = s.out := rfl
@[simp] theorem onConf_free (f : Conf → Conf) : (onConf f s).free = s.free := rfl

/-! ## `onTree` -/

@[simp] theorem onTree_pending (f : Trees → Trees) : (onTree f s).pending = s.pending := rfl
@[simp] theorem onTree_fuse (f : Trees → Trees) : (onTree f s).fuse = s.fuse := rfl
@[simp] theorem onTree_die (f : Trees → Trees) : (onTree f s).die = s.die := rfl
@[simp] theorem onTree_time (f : Trees → Trees) : (onTree f s).time = s.time := rfl
@[simp] theorem onTree_grid (f : Trees → Trees) : (onTree f s).grid = s.grid := rfl
@[simp] theorem onTree_nv (f : Trees → Trees) : (onTree f s).nv = s.nv := rfl
@[simp] theorem onTree_fence (f : Trees → Trees) : (onTree f s).fence = s.fence := rfl
@[simp] theorem onTree_sbi (f : Trees → Trees) : (onTree f s).sbi = s.sbi := rfl
@[simp] theorem onTree_rst (f : Trees → Trees) : (onTree f s).rst = s.rst := rfl
@[simp] theorem onTree_hrw (f : Trees → Trees) : (onTree f s).hrw = s.hrw := rfl
@[simp] theorem onTree_stw (f : Trees → Trees) : (onTree f s).stw = s.stw := rfl
@[simp] theorem onTree_pwr (f : Trees → Trees) : (onTree f s).pwr = s.pwr := rfl
@[simp] theorem onTree_smp (f : Trees → Trees) : (onTree f s).smp = s.smp := rfl
@[simp] theorem onTree_led (f : Trees → Trees) : (onTree f s).led = s.led := rfl
@[simp] theorem onTree_roles (f : Trees → Trees) : (onTree f s).roles = s.roles := rfl
@[simp] theorem onTree_place (f : Trees → Trees) : (onTree f s).place = s.place := rfl
@[simp] theorem onTree_conf (f : Trees → Trees) : (onTree f s).conf = s.conf := rfl
@[simp] theorem onTree_tree (f : Trees → Trees) : (onTree f s).tree = f s.tree := rfl
@[simp] theorem onTree_arc (f : Trees → Trees) : (onTree f s).arc = s.arc := rfl
@[simp] theorem onTree_dig (f : Trees → Trees) : (onTree f s).dig = s.dig := rfl
@[simp] theorem onTree_test (f : Trees → Trees) : (onTree f s).test = s.test := rfl
@[simp] theorem onTree_trc (f : Trees → Trees) : (onTree f s).trc = s.trc := rfl
@[simp] theorem onTree_upl (f : Trees → Trees) : (onTree f s).upl = s.upl := rfl
@[simp] theorem onTree_buf (f : Trees → Trees) : (onTree f s).buf = s.buf := rfl
@[simp] theorem onTree_dump (f : Trees → Trees) : (onTree f s).dump = s.dump := rfl
@[simp] theorem onTree_jtag (f : Trees → Trees) : (onTree f s).jtag = s.jtag := rfl
@[simp] theorem onTree_epoch (f : Trees → Trees) : (onTree f s).epoch = s.epoch := rfl
@[simp] theorem onTree_exhausted (f : Trees → Trees) : (onTree f s).exhausted = s.exhausted := rfl
@[simp] theorem onTree_out (f : Trees → Trees) : (onTree f s).out = s.out := rfl
@[simp] theorem onTree_free (f : Trees → Trees) : (onTree f s).free = s.free := rfl

/-! ## `onArc` -/

@[simp] theorem onArc_pending (f : Arcade → Arcade) : (onArc f s).pending = s.pending := rfl
@[simp] theorem onArc_fuse (f : Arcade → Arcade) : (onArc f s).fuse = s.fuse := rfl
@[simp] theorem onArc_die (f : Arcade → Arcade) : (onArc f s).die = s.die := rfl
@[simp] theorem onArc_time (f : Arcade → Arcade) : (onArc f s).time = s.time := rfl
@[simp] theorem onArc_grid (f : Arcade → Arcade) : (onArc f s).grid = s.grid := rfl
@[simp] theorem onArc_nv (f : Arcade → Arcade) : (onArc f s).nv = s.nv := rfl
@[simp] theorem onArc_fence (f : Arcade → Arcade) : (onArc f s).fence = s.fence := rfl
@[simp] theorem onArc_sbi (f : Arcade → Arcade) : (onArc f s).sbi = s.sbi := rfl
@[simp] theorem onArc_rst (f : Arcade → Arcade) : (onArc f s).rst = s.rst := rfl
@[simp] theorem onArc_hrw (f : Arcade → Arcade) : (onArc f s).hrw = s.hrw := rfl
@[simp] theorem onArc_stw (f : Arcade → Arcade) : (onArc f s).stw = s.stw := rfl
@[simp] theorem onArc_pwr (f : Arcade → Arcade) : (onArc f s).pwr = s.pwr := rfl
@[simp] theorem onArc_smp (f : Arcade → Arcade) : (onArc f s).smp = s.smp := rfl
@[simp] theorem onArc_led (f : Arcade → Arcade) : (onArc f s).led = s.led := rfl
@[simp] theorem onArc_roles (f : Arcade → Arcade) : (onArc f s).roles = s.roles := rfl
@[simp] theorem onArc_place (f : Arcade → Arcade) : (onArc f s).place = s.place := rfl
@[simp] theorem onArc_conf (f : Arcade → Arcade) : (onArc f s).conf = s.conf := rfl
@[simp] theorem onArc_tree (f : Arcade → Arcade) : (onArc f s).tree = s.tree := rfl
@[simp] theorem onArc_arc (f : Arcade → Arcade) : (onArc f s).arc = f s.arc := rfl
@[simp] theorem onArc_dig (f : Arcade → Arcade) : (onArc f s).dig = s.dig := rfl
@[simp] theorem onArc_test (f : Arcade → Arcade) : (onArc f s).test = s.test := rfl
@[simp] theorem onArc_trc (f : Arcade → Arcade) : (onArc f s).trc = s.trc := rfl
@[simp] theorem onArc_upl (f : Arcade → Arcade) : (onArc f s).upl = s.upl := rfl
@[simp] theorem onArc_buf (f : Arcade → Arcade) : (onArc f s).buf = s.buf := rfl
@[simp] theorem onArc_dump (f : Arcade → Arcade) : (onArc f s).dump = s.dump := rfl
@[simp] theorem onArc_jtag (f : Arcade → Arcade) : (onArc f s).jtag = s.jtag := rfl
@[simp] theorem onArc_epoch (f : Arcade → Arcade) : (onArc f s).epoch = s.epoch := rfl
@[simp] theorem onArc_exhausted (f : Arcade → Arcade) : (onArc f s).exhausted = s.exhausted := rfl
@[simp] theorem onArc_out (f : Arcade → Arcade) : (onArc f s).out = s.out := rfl
@[simp] theorem onArc_free (f : Arcade → Arcade) : (onArc f s).free = s.free := rfl

/-! ## `onDig` -/

@[simp] theorem onDig_pending (f : Digests → Digests) : (onDig f s).pending = s.pending := rfl
@[simp] theorem onDig_fuse (f : Digests → Digests) : (onDig f s).fuse = s.fuse := rfl
@[simp] theorem onDig_die (f : Digests → Digests) : (onDig f s).die = s.die := rfl
@[simp] theorem onDig_time (f : Digests → Digests) : (onDig f s).time = s.time := rfl
@[simp] theorem onDig_grid (f : Digests → Digests) : (onDig f s).grid = s.grid := rfl
@[simp] theorem onDig_nv (f : Digests → Digests) : (onDig f s).nv = s.nv := rfl
@[simp] theorem onDig_fence (f : Digests → Digests) : (onDig f s).fence = s.fence := rfl
@[simp] theorem onDig_sbi (f : Digests → Digests) : (onDig f s).sbi = s.sbi := rfl
@[simp] theorem onDig_rst (f : Digests → Digests) : (onDig f s).rst = s.rst := rfl
@[simp] theorem onDig_hrw (f : Digests → Digests) : (onDig f s).hrw = s.hrw := rfl
@[simp] theorem onDig_stw (f : Digests → Digests) : (onDig f s).stw = s.stw := rfl
@[simp] theorem onDig_pwr (f : Digests → Digests) : (onDig f s).pwr = s.pwr := rfl
@[simp] theorem onDig_smp (f : Digests → Digests) : (onDig f s).smp = s.smp := rfl
@[simp] theorem onDig_led (f : Digests → Digests) : (onDig f s).led = s.led := rfl
@[simp] theorem onDig_roles (f : Digests → Digests) : (onDig f s).roles = s.roles := rfl
@[simp] theorem onDig_place (f : Digests → Digests) : (onDig f s).place = s.place := rfl
@[simp] theorem onDig_conf (f : Digests → Digests) : (onDig f s).conf = s.conf := rfl
@[simp] theorem onDig_tree (f : Digests → Digests) : (onDig f s).tree = s.tree := rfl
@[simp] theorem onDig_arc (f : Digests → Digests) : (onDig f s).arc = s.arc := rfl
@[simp] theorem onDig_dig (f : Digests → Digests) : (onDig f s).dig = f s.dig := rfl
@[simp] theorem onDig_test (f : Digests → Digests) : (onDig f s).test = s.test := rfl
@[simp] theorem onDig_trc (f : Digests → Digests) : (onDig f s).trc = s.trc := rfl
@[simp] theorem onDig_upl (f : Digests → Digests) : (onDig f s).upl = s.upl := rfl
@[simp] theorem onDig_buf (f : Digests → Digests) : (onDig f s).buf = s.buf := rfl
@[simp] theorem onDig_dump (f : Digests → Digests) : (onDig f s).dump = s.dump := rfl
@[simp] theorem onDig_jtag (f : Digests → Digests) : (onDig f s).jtag = s.jtag := rfl
@[simp] theorem onDig_epoch (f : Digests → Digests) : (onDig f s).epoch = s.epoch := rfl
@[simp] theorem onDig_exhausted (f : Digests → Digests) : (onDig f s).exhausted = s.exhausted := rfl
@[simp] theorem onDig_out (f : Digests → Digests) : (onDig f s).out = s.out := rfl
@[simp] theorem onDig_free (f : Digests → Digests) : (onDig f s).free = s.free := rfl

/-! ## `onTest` -/

@[simp] theorem onTest_pending (f : Tests → Tests) : (onTest f s).pending = s.pending := rfl
@[simp] theorem onTest_fuse (f : Tests → Tests) : (onTest f s).fuse = s.fuse := rfl
@[simp] theorem onTest_die (f : Tests → Tests) : (onTest f s).die = s.die := rfl
@[simp] theorem onTest_time (f : Tests → Tests) : (onTest f s).time = s.time := rfl
@[simp] theorem onTest_grid (f : Tests → Tests) : (onTest f s).grid = s.grid := rfl
@[simp] theorem onTest_nv (f : Tests → Tests) : (onTest f s).nv = s.nv := rfl
@[simp] theorem onTest_fence (f : Tests → Tests) : (onTest f s).fence = s.fence := rfl
@[simp] theorem onTest_sbi (f : Tests → Tests) : (onTest f s).sbi = s.sbi := rfl
@[simp] theorem onTest_rst (f : Tests → Tests) : (onTest f s).rst = s.rst := rfl
@[simp] theorem onTest_hrw (f : Tests → Tests) : (onTest f s).hrw = s.hrw := rfl
@[simp] theorem onTest_stw (f : Tests → Tests) : (onTest f s).stw = s.stw := rfl
@[simp] theorem onTest_pwr (f : Tests → Tests) : (onTest f s).pwr = s.pwr := rfl
@[simp] theorem onTest_smp (f : Tests → Tests) : (onTest f s).smp = s.smp := rfl
@[simp] theorem onTest_led (f : Tests → Tests) : (onTest f s).led = s.led := rfl
@[simp] theorem onTest_roles (f : Tests → Tests) : (onTest f s).roles = s.roles := rfl
@[simp] theorem onTest_place (f : Tests → Tests) : (onTest f s).place = s.place := rfl
@[simp] theorem onTest_conf (f : Tests → Tests) : (onTest f s).conf = s.conf := rfl
@[simp] theorem onTest_tree (f : Tests → Tests) : (onTest f s).tree = s.tree := rfl
@[simp] theorem onTest_arc (f : Tests → Tests) : (onTest f s).arc = s.arc := rfl
@[simp] theorem onTest_dig (f : Tests → Tests) : (onTest f s).dig = s.dig := rfl
@[simp] theorem onTest_test (f : Tests → Tests) : (onTest f s).test = f s.test := rfl
@[simp] theorem onTest_trc (f : Tests → Tests) : (onTest f s).trc = s.trc := rfl
@[simp] theorem onTest_upl (f : Tests → Tests) : (onTest f s).upl = s.upl := rfl
@[simp] theorem onTest_buf (f : Tests → Tests) : (onTest f s).buf = s.buf := rfl
@[simp] theorem onTest_dump (f : Tests → Tests) : (onTest f s).dump = s.dump := rfl
@[simp] theorem onTest_jtag (f : Tests → Tests) : (onTest f s).jtag = s.jtag := rfl
@[simp] theorem onTest_epoch (f : Tests → Tests) : (onTest f s).epoch = s.epoch := rfl
@[simp] theorem onTest_exhausted (f : Tests → Tests) : (onTest f s).exhausted = s.exhausted := rfl
@[simp] theorem onTest_out (f : Tests → Tests) : (onTest f s).out = s.out := rfl
@[simp] theorem onTest_free (f : Tests → Tests) : (onTest f s).free = s.free := rfl

/-! ## `onTrc` -/

@[simp] theorem onTrc_pending (f : Trace → Trace) : (onTrc f s).pending = s.pending := rfl
@[simp] theorem onTrc_fuse (f : Trace → Trace) : (onTrc f s).fuse = s.fuse := rfl
@[simp] theorem onTrc_die (f : Trace → Trace) : (onTrc f s).die = s.die := rfl
@[simp] theorem onTrc_time (f : Trace → Trace) : (onTrc f s).time = s.time := rfl
@[simp] theorem onTrc_grid (f : Trace → Trace) : (onTrc f s).grid = s.grid := rfl
@[simp] theorem onTrc_nv (f : Trace → Trace) : (onTrc f s).nv = s.nv := rfl
@[simp] theorem onTrc_fence (f : Trace → Trace) : (onTrc f s).fence = s.fence := rfl
@[simp] theorem onTrc_sbi (f : Trace → Trace) : (onTrc f s).sbi = s.sbi := rfl
@[simp] theorem onTrc_rst (f : Trace → Trace) : (onTrc f s).rst = s.rst := rfl
@[simp] theorem onTrc_hrw (f : Trace → Trace) : (onTrc f s).hrw = s.hrw := rfl
@[simp] theorem onTrc_stw (f : Trace → Trace) : (onTrc f s).stw = s.stw := rfl
@[simp] theorem onTrc_pwr (f : Trace → Trace) : (onTrc f s).pwr = s.pwr := rfl
@[simp] theorem onTrc_smp (f : Trace → Trace) : (onTrc f s).smp = s.smp := rfl
@[simp] theorem onTrc_led (f : Trace → Trace) : (onTrc f s).led = s.led := rfl
@[simp] theorem onTrc_roles (f : Trace → Trace) : (onTrc f s).roles = s.roles := rfl
@[simp] theorem onTrc_place (f : Trace → Trace) : (onTrc f s).place = s.place := rfl
@[simp] theorem onTrc_conf (f : Trace → Trace) : (onTrc f s).conf = s.conf := rfl
@[simp] theorem onTrc_tree (f : Trace → Trace) : (onTrc f s).tree = s.tree := rfl
@[simp] theorem onTrc_arc (f : Trace → Trace) : (onTrc f s).arc = s.arc := rfl
@[simp] theorem onTrc_dig (f : Trace → Trace) : (onTrc f s).dig = s.dig := rfl
@[simp] theorem onTrc_test (f : Trace → Trace) : (onTrc f s).test = s.test := rfl
@[simp] theorem onTrc_trc (f : Trace → Trace) : (onTrc f s).trc = f s.trc := rfl
@[simp] theorem onTrc_upl (f : Trace → Trace) : (onTrc f s).upl = s.upl := rfl
@[simp] theorem onTrc_buf (f : Trace → Trace) : (onTrc f s).buf = s.buf := rfl
@[simp] theorem onTrc_dump (f : Trace → Trace) : (onTrc f s).dump = s.dump := rfl
@[simp] theorem onTrc_jtag (f : Trace → Trace) : (onTrc f s).jtag = s.jtag := rfl
@[simp] theorem onTrc_epoch (f : Trace → Trace) : (onTrc f s).epoch = s.epoch := rfl
@[simp] theorem onTrc_exhausted (f : Trace → Trace) : (onTrc f s).exhausted = s.exhausted := rfl
@[simp] theorem onTrc_out (f : Trace → Trace) : (onTrc f s).out = s.out := rfl
@[simp] theorem onTrc_free (f : Trace → Trace) : (onTrc f s).free = s.free := rfl

/-! ## `onUpl` -/

@[simp] theorem onUpl_pending (f : Uplink → Uplink) : (onUpl f s).pending = s.pending := rfl
@[simp] theorem onUpl_fuse (f : Uplink → Uplink) : (onUpl f s).fuse = s.fuse := rfl
@[simp] theorem onUpl_die (f : Uplink → Uplink) : (onUpl f s).die = s.die := rfl
@[simp] theorem onUpl_time (f : Uplink → Uplink) : (onUpl f s).time = s.time := rfl
@[simp] theorem onUpl_grid (f : Uplink → Uplink) : (onUpl f s).grid = s.grid := rfl
@[simp] theorem onUpl_nv (f : Uplink → Uplink) : (onUpl f s).nv = s.nv := rfl
@[simp] theorem onUpl_fence (f : Uplink → Uplink) : (onUpl f s).fence = s.fence := rfl
@[simp] theorem onUpl_sbi (f : Uplink → Uplink) : (onUpl f s).sbi = s.sbi := rfl
@[simp] theorem onUpl_rst (f : Uplink → Uplink) : (onUpl f s).rst = s.rst := rfl
@[simp] theorem onUpl_hrw (f : Uplink → Uplink) : (onUpl f s).hrw = s.hrw := rfl
@[simp] theorem onUpl_stw (f : Uplink → Uplink) : (onUpl f s).stw = s.stw := rfl
@[simp] theorem onUpl_pwr (f : Uplink → Uplink) : (onUpl f s).pwr = s.pwr := rfl
@[simp] theorem onUpl_smp (f : Uplink → Uplink) : (onUpl f s).smp = s.smp := rfl
@[simp] theorem onUpl_led (f : Uplink → Uplink) : (onUpl f s).led = s.led := rfl
@[simp] theorem onUpl_roles (f : Uplink → Uplink) : (onUpl f s).roles = s.roles := rfl
@[simp] theorem onUpl_place (f : Uplink → Uplink) : (onUpl f s).place = s.place := rfl
@[simp] theorem onUpl_conf (f : Uplink → Uplink) : (onUpl f s).conf = s.conf := rfl
@[simp] theorem onUpl_tree (f : Uplink → Uplink) : (onUpl f s).tree = s.tree := rfl
@[simp] theorem onUpl_arc (f : Uplink → Uplink) : (onUpl f s).arc = s.arc := rfl
@[simp] theorem onUpl_dig (f : Uplink → Uplink) : (onUpl f s).dig = s.dig := rfl
@[simp] theorem onUpl_test (f : Uplink → Uplink) : (onUpl f s).test = s.test := rfl
@[simp] theorem onUpl_trc (f : Uplink → Uplink) : (onUpl f s).trc = s.trc := rfl
@[simp] theorem onUpl_upl (f : Uplink → Uplink) : (onUpl f s).upl = f s.upl := rfl
@[simp] theorem onUpl_buf (f : Uplink → Uplink) : (onUpl f s).buf = s.buf := rfl
@[simp] theorem onUpl_dump (f : Uplink → Uplink) : (onUpl f s).dump = s.dump := rfl
@[simp] theorem onUpl_jtag (f : Uplink → Uplink) : (onUpl f s).jtag = s.jtag := rfl
@[simp] theorem onUpl_epoch (f : Uplink → Uplink) : (onUpl f s).epoch = s.epoch := rfl
@[simp] theorem onUpl_exhausted (f : Uplink → Uplink) : (onUpl f s).exhausted = s.exhausted := rfl
@[simp] theorem onUpl_out (f : Uplink → Uplink) : (onUpl f s).out = s.out := rfl
@[simp] theorem onUpl_free (f : Uplink → Uplink) : (onUpl f s).free = s.free := rfl

/-! ## `onBuf` -/

@[simp] theorem onBuf_pending (f : Buf → Buf) : (onBuf f s).pending = s.pending := rfl
@[simp] theorem onBuf_fuse (f : Buf → Buf) : (onBuf f s).fuse = s.fuse := rfl
@[simp] theorem onBuf_die (f : Buf → Buf) : (onBuf f s).die = s.die := rfl
@[simp] theorem onBuf_time (f : Buf → Buf) : (onBuf f s).time = s.time := rfl
@[simp] theorem onBuf_grid (f : Buf → Buf) : (onBuf f s).grid = s.grid := rfl
@[simp] theorem onBuf_nv (f : Buf → Buf) : (onBuf f s).nv = s.nv := rfl
@[simp] theorem onBuf_fence (f : Buf → Buf) : (onBuf f s).fence = s.fence := rfl
@[simp] theorem onBuf_sbi (f : Buf → Buf) : (onBuf f s).sbi = s.sbi := rfl
@[simp] theorem onBuf_rst (f : Buf → Buf) : (onBuf f s).rst = s.rst := rfl
@[simp] theorem onBuf_hrw (f : Buf → Buf) : (onBuf f s).hrw = s.hrw := rfl
@[simp] theorem onBuf_stw (f : Buf → Buf) : (onBuf f s).stw = s.stw := rfl
@[simp] theorem onBuf_pwr (f : Buf → Buf) : (onBuf f s).pwr = s.pwr := rfl
@[simp] theorem onBuf_smp (f : Buf → Buf) : (onBuf f s).smp = s.smp := rfl
@[simp] theorem onBuf_led (f : Buf → Buf) : (onBuf f s).led = s.led := rfl
@[simp] theorem onBuf_roles (f : Buf → Buf) : (onBuf f s).roles = s.roles := rfl
@[simp] theorem onBuf_place (f : Buf → Buf) : (onBuf f s).place = s.place := rfl
@[simp] theorem onBuf_conf (f : Buf → Buf) : (onBuf f s).conf = s.conf := rfl
@[simp] theorem onBuf_tree (f : Buf → Buf) : (onBuf f s).tree = s.tree := rfl
@[simp] theorem onBuf_arc (f : Buf → Buf) : (onBuf f s).arc = s.arc := rfl
@[simp] theorem onBuf_dig (f : Buf → Buf) : (onBuf f s).dig = s.dig := rfl
@[simp] theorem onBuf_test (f : Buf → Buf) : (onBuf f s).test = s.test := rfl
@[simp] theorem onBuf_trc (f : Buf → Buf) : (onBuf f s).trc = s.trc := rfl
@[simp] theorem onBuf_upl (f : Buf → Buf) : (onBuf f s).upl = s.upl := rfl
@[simp] theorem onBuf_buf (f : Buf → Buf) : (onBuf f s).buf = f s.buf := rfl
@[simp] theorem onBuf_dump (f : Buf → Buf) : (onBuf f s).dump = s.dump := rfl
@[simp] theorem onBuf_jtag (f : Buf → Buf) : (onBuf f s).jtag = s.jtag := rfl
@[simp] theorem onBuf_epoch (f : Buf → Buf) : (onBuf f s).epoch = s.epoch := rfl
@[simp] theorem onBuf_exhausted (f : Buf → Buf) : (onBuf f s).exhausted = s.exhausted := rfl
@[simp] theorem onBuf_out (f : Buf → Buf) : (onBuf f s).out = s.out := rfl
@[simp] theorem onBuf_free (f : Buf → Buf) : (onBuf f s).free = s.free := rfl

/-! ## `onDump` -/

@[simp] theorem onDump_pending (f : Dumps → Dumps) : (onDump f s).pending = s.pending := rfl
@[simp] theorem onDump_fuse (f : Dumps → Dumps) : (onDump f s).fuse = s.fuse := rfl
@[simp] theorem onDump_die (f : Dumps → Dumps) : (onDump f s).die = s.die := rfl
@[simp] theorem onDump_time (f : Dumps → Dumps) : (onDump f s).time = s.time := rfl
@[simp] theorem onDump_grid (f : Dumps → Dumps) : (onDump f s).grid = s.grid := rfl
@[simp] theorem onDump_nv (f : Dumps → Dumps) : (onDump f s).nv = s.nv := rfl
@[simp] theorem onDump_fence (f : Dumps → Dumps) : (onDump f s).fence = s.fence := rfl
@[simp] theorem onDump_sbi (f : Dumps → Dumps) : (onDump f s).sbi = s.sbi := rfl
@[simp] theorem onDump_rst (f : Dumps → Dumps) : (onDump f s).rst = s.rst := rfl
@[simp] theorem onDump_hrw (f : Dumps → Dumps) : (onDump f s).hrw = s.hrw := rfl
@[simp] theorem onDump_stw (f : Dumps → Dumps) : (onDump f s).stw = s.stw := rfl
@[simp] theorem onDump_pwr (f : Dumps → Dumps) : (onDump f s).pwr = s.pwr := rfl
@[simp] theorem onDump_smp (f : Dumps → Dumps) : (onDump f s).smp = s.smp := rfl
@[simp] theorem onDump_led (f : Dumps → Dumps) : (onDump f s).led = s.led := rfl
@[simp] theorem onDump_roles (f : Dumps → Dumps) : (onDump f s).roles = s.roles := rfl
@[simp] theorem onDump_place (f : Dumps → Dumps) : (onDump f s).place = s.place := rfl
@[simp] theorem onDump_conf (f : Dumps → Dumps) : (onDump f s).conf = s.conf := rfl
@[simp] theorem onDump_tree (f : Dumps → Dumps) : (onDump f s).tree = s.tree := rfl
@[simp] theorem onDump_arc (f : Dumps → Dumps) : (onDump f s).arc = s.arc := rfl
@[simp] theorem onDump_dig (f : Dumps → Dumps) : (onDump f s).dig = s.dig := rfl
@[simp] theorem onDump_test (f : Dumps → Dumps) : (onDump f s).test = s.test := rfl
@[simp] theorem onDump_trc (f : Dumps → Dumps) : (onDump f s).trc = s.trc := rfl
@[simp] theorem onDump_upl (f : Dumps → Dumps) : (onDump f s).upl = s.upl := rfl
@[simp] theorem onDump_buf (f : Dumps → Dumps) : (onDump f s).buf = s.buf := rfl
@[simp] theorem onDump_dump (f : Dumps → Dumps) : (onDump f s).dump = f s.dump := rfl
@[simp] theorem onDump_jtag (f : Dumps → Dumps) : (onDump f s).jtag = s.jtag := rfl
@[simp] theorem onDump_epoch (f : Dumps → Dumps) : (onDump f s).epoch = s.epoch := rfl
@[simp] theorem onDump_exhausted (f : Dumps → Dumps) : (onDump f s).exhausted = s.exhausted := rfl
@[simp] theorem onDump_out (f : Dumps → Dumps) : (onDump f s).out = s.out := rfl
@[simp] theorem onDump_free (f : Dumps → Dumps) : (onDump f s).free = s.free := rfl

/-! ## `onJtag` -/

@[simp] theorem onJtag_pending (f : Jtag → Jtag) : (onJtag f s).pending = s.pending := rfl
@[simp] theorem onJtag_fuse (f : Jtag → Jtag) : (onJtag f s).fuse = s.fuse := rfl
@[simp] theorem onJtag_die (f : Jtag → Jtag) : (onJtag f s).die = s.die := rfl
@[simp] theorem onJtag_time (f : Jtag → Jtag) : (onJtag f s).time = s.time := rfl
@[simp] theorem onJtag_grid (f : Jtag → Jtag) : (onJtag f s).grid = s.grid := rfl
@[simp] theorem onJtag_nv (f : Jtag → Jtag) : (onJtag f s).nv = s.nv := rfl
@[simp] theorem onJtag_fence (f : Jtag → Jtag) : (onJtag f s).fence = s.fence := rfl
@[simp] theorem onJtag_sbi (f : Jtag → Jtag) : (onJtag f s).sbi = s.sbi := rfl
@[simp] theorem onJtag_rst (f : Jtag → Jtag) : (onJtag f s).rst = s.rst := rfl
@[simp] theorem onJtag_hrw (f : Jtag → Jtag) : (onJtag f s).hrw = s.hrw := rfl
@[simp] theorem onJtag_stw (f : Jtag → Jtag) : (onJtag f s).stw = s.stw := rfl
@[simp] theorem onJtag_pwr (f : Jtag → Jtag) : (onJtag f s).pwr = s.pwr := rfl
@[simp] theorem onJtag_smp (f : Jtag → Jtag) : (onJtag f s).smp = s.smp := rfl
@[simp] theorem onJtag_led (f : Jtag → Jtag) : (onJtag f s).led = s.led := rfl
@[simp] theorem onJtag_roles (f : Jtag → Jtag) : (onJtag f s).roles = s.roles := rfl
@[simp] theorem onJtag_place (f : Jtag → Jtag) : (onJtag f s).place = s.place := rfl
@[simp] theorem onJtag_conf (f : Jtag → Jtag) : (onJtag f s).conf = s.conf := rfl
@[simp] theorem onJtag_tree (f : Jtag → Jtag) : (onJtag f s).tree = s.tree := rfl
@[simp] theorem onJtag_arc (f : Jtag → Jtag) : (onJtag f s).arc = s.arc := rfl
@[simp] theorem onJtag_dig (f : Jtag → Jtag) : (onJtag f s).dig = s.dig := rfl
@[simp] theorem onJtag_test (f : Jtag → Jtag) : (onJtag f s).test = s.test := rfl
@[simp] theorem onJtag_trc (f : Jtag → Jtag) : (onJtag f s).trc = s.trc := rfl
@[simp] theorem onJtag_upl (f : Jtag → Jtag) : (onJtag f s).upl = s.upl := rfl
@[simp] theorem onJtag_buf (f : Jtag → Jtag) : (onJtag f s).buf = s.buf := rfl
@[simp] theorem onJtag_dump (f : Jtag → Jtag) : (onJtag f s).dump = s.dump := rfl
@[simp] theorem onJtag_jtag (f : Jtag → Jtag) : (onJtag f s).jtag = f s.jtag := rfl
@[simp] theorem onJtag_epoch (f : Jtag → Jtag) : (onJtag f s).epoch = s.epoch := rfl
@[simp] theorem onJtag_exhausted (f : Jtag → Jtag) : (onJtag f s).exhausted = s.exhausted := rfl
@[simp] theorem onJtag_out (f : Jtag → Jtag) : (onJtag f s).out = s.out := rfl
@[simp] theorem onJtag_free (f : Jtag → Jtag) : (onJtag f s).free = s.free := rfl

/-! ## Outputs and edges -/

@[simp] theorem emit_pending (o : Out) : (emit o s).pending = s.pending := rfl
@[simp] theorem emit_fuse (o : Out) : (emit o s).fuse = s.fuse := rfl
@[simp] theorem emit_die (o : Out) : (emit o s).die = s.die := rfl
@[simp] theorem emit_time (o : Out) : (emit o s).time = s.time := rfl
@[simp] theorem emit_grid (o : Out) : (emit o s).grid = s.grid := rfl
@[simp] theorem emit_nv (o : Out) : (emit o s).nv = s.nv := rfl
@[simp] theorem emit_fence (o : Out) : (emit o s).fence = s.fence := rfl
@[simp] theorem emit_sbi (o : Out) : (emit o s).sbi = s.sbi := rfl
@[simp] theorem emit_rst (o : Out) : (emit o s).rst = s.rst := rfl
@[simp] theorem emit_hrw (o : Out) : (emit o s).hrw = s.hrw := rfl
@[simp] theorem emit_stw (o : Out) : (emit o s).stw = s.stw := rfl
@[simp] theorem emit_pwr (o : Out) : (emit o s).pwr = s.pwr := rfl
@[simp] theorem emit_smp (o : Out) : (emit o s).smp = s.smp := rfl
@[simp] theorem emit_led (o : Out) : (emit o s).led = s.led := rfl
@[simp] theorem emit_roles (o : Out) : (emit o s).roles = s.roles := rfl
@[simp] theorem emit_place (o : Out) : (emit o s).place = s.place := rfl
@[simp] theorem emit_conf (o : Out) : (emit o s).conf = s.conf := rfl
@[simp] theorem emit_tree (o : Out) : (emit o s).tree = s.tree := rfl
@[simp] theorem emit_arc (o : Out) : (emit o s).arc = s.arc := rfl
@[simp] theorem emit_dig (o : Out) : (emit o s).dig = s.dig := rfl
@[simp] theorem emit_test (o : Out) : (emit o s).test = s.test := rfl
@[simp] theorem emit_trc (o : Out) : (emit o s).trc = s.trc := rfl
@[simp] theorem emit_upl (o : Out) : (emit o s).upl = s.upl := rfl
@[simp] theorem emit_buf (o : Out) : (emit o s).buf = s.buf := rfl
@[simp] theorem emit_dump (o : Out) : (emit o s).dump = s.dump := rfl
@[simp] theorem emit_jtag (o : Out) : (emit o s).jtag = s.jtag := rfl
@[simp] theorem emit_epoch (o : Out) : (emit o s).epoch = s.epoch := rfl
@[simp] theorem emit_exhausted (o : Out) : (emit o s).exhausted = s.exhausted := rfl
@[simp] theorem emit_out (o : Out) : (emit o s).out = s.out ++ [o] := rfl
@[simp] theorem emit_free (o : Out) : (emit o s).free = s.free := rfl
@[simp] theorem passEdges_pending (n : Nat) : (passEdges n s).pending = s.pending := rfl
@[simp] theorem passEdges_fuse (n : Nat) : (passEdges n s).fuse = s.fuse := rfl
@[simp] theorem passEdges_die (n : Nat) : (passEdges n s).die = s.die := rfl
@[simp] theorem passEdges_time (n : Nat) : (passEdges n s).time = s.time.edges n := rfl
@[simp] theorem passEdges_grid (n : Nat) : (passEdges n s).grid = s.grid := rfl
@[simp] theorem passEdges_nv (n : Nat) : (passEdges n s).nv = s.nv := rfl
@[simp] theorem passEdges_fence (n : Nat) : (passEdges n s).fence = s.fence := rfl
@[simp] theorem passEdges_sbi (n : Nat) : (passEdges n s).sbi = s.sbi := rfl
@[simp] theorem passEdges_rst (n : Nat) : (passEdges n s).rst = s.rst := rfl
@[simp] theorem passEdges_hrw (n : Nat) : (passEdges n s).hrw = s.hrw := rfl
@[simp] theorem passEdges_stw (n : Nat) : (passEdges n s).stw = s.stw := rfl
@[simp] theorem passEdges_pwr (n : Nat) : (passEdges n s).pwr = s.pwr := rfl
@[simp] theorem passEdges_smp (n : Nat) : (passEdges n s).smp = s.smp := rfl
@[simp] theorem passEdges_led (n : Nat) : (passEdges n s).led = s.led := rfl
@[simp] theorem passEdges_roles (n : Nat) : (passEdges n s).roles = s.roles := rfl
@[simp] theorem passEdges_place (n : Nat) : (passEdges n s).place = s.place := rfl
@[simp] theorem passEdges_conf (n : Nat) : (passEdges n s).conf = s.conf := rfl
@[simp] theorem passEdges_tree (n : Nat) : (passEdges n s).tree = s.tree := rfl
@[simp] theorem passEdges_arc (n : Nat) : (passEdges n s).arc = s.arc := rfl
@[simp] theorem passEdges_dig (n : Nat) : (passEdges n s).dig = s.dig := rfl
@[simp] theorem passEdges_test (n : Nat) : (passEdges n s).test = s.test := rfl
@[simp] theorem passEdges_trc (n : Nat) : (passEdges n s).trc = s.trc := rfl
@[simp] theorem passEdges_upl (n : Nat) : (passEdges n s).upl = s.upl := rfl
@[simp] theorem passEdges_buf (n : Nat) : (passEdges n s).buf = s.buf := rfl
@[simp] theorem passEdges_dump (n : Nat) : (passEdges n s).dump = s.dump := rfl
@[simp] theorem passEdges_jtag (n : Nat) : (passEdges n s).jtag = s.jtag := rfl
@[simp] theorem passEdges_epoch (n : Nat) : (passEdges n s).epoch = s.epoch := rfl
@[simp] theorem passEdges_exhausted (n : Nat) : (passEdges n s).exhausted = s.exhausted := rfl
@[simp] theorem passEdges_out (n : Nat) : (passEdges n s).out = s.out := rfl
@[simp] theorem passEdges_free (n : Nat) : (passEdges n s).free = s.free := rfl

end Sys2Proof.Machine
end

