-- ==== Sys2Proof/Tests/Slice0.lean ====
section
/-!
SUPPORT. Tests: states and operands at work; the spec's worked figures; single commands; terms that well-formedness refuses;
and, for every statement with hypotheses, a state and operands that meet them together, clause by clause.
-/

namespace Sys2Proof.Tests

open Sys2Proof Sys2Proof.Machine

set_option maxRecDepth 100000
set_option exponentiation.threshold 2000

/-! ## Operands with nothing in them -/

def zDesc : Desc :=
  { selfAddr := 0, addr := 0, len := 0, partition := 0, dkind := 0, notify := false, nextAddr := 0, descId := 0,
    dcrcOk := false, readOk := false }
def zRecord : Record :=
  { timeQuality := 0, kind := 0, tier := 0, replica := 0, flags := 0, frame := 0, period := 0, epoch := 0,
    source := 0, seq := 0, generation := 0, missFirst := 0, missCount := 0, children := [], cover := [],
    counters := [], sums := [], gauges := [], aggs := [], losses := [], alerts := [] }
def zAdoptMsg : AdoptMsg :=
  { pos := 0, die := 0, parent := 0, epoch := 0, generation := 0, home := 0, frameA := none, frameB := 0,
    period := 0, periodNext := 0, retained := 0, nextChip := 0, rep := 0, heard := 0, crcOk := false }
def zSeriesDesc : SeriesDesc :=
  { index := 0, kind := 0, enable := false, plaza := false, cohort := false, windowLog2 := 0, srcA := 0,
    srcB := 0, partition := 0, shift := 0, baseShift := 0, levelRun := 0, levelK := 0, block := 0, minDev := 0,
    driftLimit := 0, driftRun := 0, weightB := 0, ports := 0, target := 0 }
def zSeriesRecord : SeriesRecord :=
  { timeQuality := 0, srflags := 0, frame := 0, period := 0, epoch := 0, die := 0, seq := 0, job := 0,
    calCrc := 0, series := [], late := [] }
def zHist : Hist :=
  { buckets := [], underN := 0, overN := 0, n := 0, absent := 0, min := 0, max := 0, sum := 0 }
def zHistRecord : HistRecord :=
  { timeQuality := 0, lateness := false, scope := 0, cls := 0, job := 0, marker := 0, key := 0, source := 0,
    frame := 0, hist := zHist }
def zCalImage : CalImage :=
  { job := 0, die := 0, partition := 0, step := 0, steps := 0, imageCrc := 0, checksOk := false,
    markerSections := [], gateSections := [], quietSections := [] }
def zMarkerEntry : MarkerEntry :=
  { mid := 0, cls := 0, miss := 0, offset := 0 }
def zGateSection : GateSection :=
  { port := 0, job := 0, rate := 0, gates := [], checkOk := false }
def zQuietWin : QuietWin :=
  { offset := 0, len := 0, unitFirst := 0, unitLast := 0 }
def zCohortRule : CohortRule :=
  { job := 0, rule := 0, scope := 0, classMask := 0, q := 0, margin := 0, run := 0, clearRun := 0,
    minMembers := 0 }
def zThresholdNotice : ThresholdNotice :=
  { notJudged := false, qUnder := false, qOver := false, job := 0, marker := 0, rule := 0, scope := 0, occ := 0,
    quantile := none, margin := 0, n := 0, threshold := none, absent := 0, source := 0 }
def zTreeImage : TreeImage :=
  { tag := 0, version := 0, model := 0, alertEn := false, alertAbove := false, partition := 0, base := 0,
    alertLevel := 0, scoreEvery := 0, maxDepth := 0, imageCrc := 0, reservedOk := false, features := [],
    dir := [], nodes := [] }
def zFeatDesc : FeatDesc :=
  { feature := 0, fkind := 0, shift := 0, missingIfStale := false, missingIfWarm := false, src := 0, const := 0 }
def zDirEntry : DirEntry :=
  { root := 0, n := 0, depth := 0 }
def zFeatureRecord : FeatureRecord :=
  { timeQuality := 0, leafLate := false, frame := 0, die := 0, epoch := 0, model := 0, imageCrc := 0,
    leafPartial := 0, leafTrees := 0, values := [] }
def zScoreEntry : ScoreEntry :=
  { model := 0, imageCrc := 0, die := 0, firstTree := 0, lastTree := 0, sframe := 0, value := 0, scflags := 0,
    doneUs := 0 }
def zScoreRecord : ScoreRecord :=
  { timeQuality := 0, replica := 0, frame := 0, source := 0, epoch := 0, seq := 0, scores := [] }
def zPred : Pred :=
  { pkind := 0, op := 0, selFirst := 0, selLast := 0, operand := 0 }
def zQuery : Query :=
  { qtype := 0, logs := 0, engines := 0, qflags := 0, queryId := 0, ftFirst := 0, ftLast := 0, tray := 0,
    lookback := 0, dies := 0, p0 := zPred, p1 := zPred }
def zCollEntry : CollEntry :=
  { coll := 0, ckind := 0, checkContrib := false, checkResult := false, scope := 0, policy := 0, fenceAfter := 0,
    ranks := 0, reservedOk := false }
def zResultEntry : ResultEntry :=
  { job := 0, coll := 0, inst := 0, nChunk := 0, result := 0, unchk := 0, incomplete := false, stripes := [] }
def zDigestRecord : DigestRecord :=
  { timeQuality := 0, dgflags := 0, frame := 0, period := 0, epoch := 0, die := 0, seq := 0, chkOk := 0,
    chkBad := 0, chkNone := 0, results := [] }
def zTallyValue : TallyValue :=
  { result := 0, count := 0, first8 := [], stripes := [] }
def zTallyBlock : TallyBlock :=
  { job := 0, coll := 0, inst := 0, short := false, scatter := 0, unchkRanks := 0, values := [] }
def zTallyRecord : TallyRecord :=
  { timeQuality := 0, frame := 0, source := 0, epoch := 0, seq := 0, blocks := [] }
def zVerdictNotice : VerdictNotice :=
  { noMajority := false, job := 0, coll := 0, inst := 0, result := 0, nMaj := 0, nOther := 0, nAbsent := 0,
    source := 0, stripes := [] }
def zTestEntry : TestEntry :=
  { testId := 0, tkind := 0, fenceOnFail := false, failLimit := 0, unitFirst := 0, unitLast := 0, respKib := 0,
    duration := 0, interval := 0, patOff := 0, patLen := 0, expect := 0 }
def zSigBlock : SigBlock :=
  { keyIndex := 0, usage := 0, svn := 0, pubkeyHash := 0, ecdsaOk := false, tagOk := false }
def zTestPkg : TestPkg :=
  { tag := 0, version := 0, pkgId := 0, pkgRev := 0, dieType := 0, sigLen := 0, patBytes := 0, sigKey := 0,
    maxDefer := 0, tests := [], patDigests := [], hdrCrc := 0, reservedOk := false, sig := zSigBlock }
def zFwImage : FwImage :=
  { onLeaf := false, onPlaza := false, fwLevel := 0, minBlock := 0, imageBytes := 0, raiseSvn := false,
    hdrOk := false, sig := zSigBlock }
def zTablePart : TablePart :=
  { replica := 0, toLeaf := false, drained := false, noHost := false, generation := 0, issuer := 0, target := 0,
    issueFt := 0, rolePlaza := false, roleQuarter := false, roleForum := false, qreplica := 0, freplica := 0,
    quarter := 0, standin := 0, ceiling := 0, qhosts := [], fhosts := [], succs := [], alts := [], parts := [],
    checksOk := false }
def zPacket : Packet :=
  { cls := 0, first := false, last := false, resend := false, src := 0, dst := 0, srcRep := 0, dstRep := 0,
    cseq := 0, epoch := 0, rtag := 0, nBlk := 0, rseq := 0, blkFirst := 0, blkTotal := 0, rlen := 0,
    echoTrace := 0, echoDump := 0, hdrCrc := 0, bytes := 0 }
def zTrcPacket : TrcPacket :=
  { front := 0, channel := 0, info := 0, data := 0, priv := 0, part := 0, cycle := 0 }
def zTapBeat : TapBeat :=
  { kind := 0, coll := 0, inst := 0, peer := 0, port := 0, unit := 0, off := 0, bytes := 0, words := [],
    last := false }
def zStreamId : StreamId :=
  { kind := 0, coll := 0, inst := 0, peer := 0, port := 0 }
def zReport : Report :=
  { isOpen := false, isClose := false, continued := false, code := 0, reporter := 0, subject := 0, ft := 0,
    epoch := 0, count := 0, first8 := [], tier := 0, detail := 0, window := 0 }
def zStormEntry : StormEntry :=
  { continued := false, code := 0, source := 0, ft := 0, window := 0, epoch := 0, reports := 0, first := 0,
    tier := 0, codesShared := 0 }
def zAck : Ack :=
  { child := 0, epoch := 0, ackFrame := none, reqs := [], bodyOk := false }
def zReq : Req :=
  { issuer := .pm 0, tag := 0, hver := 0, plen := 0, hchkOk := false, headerReservedOk := false,
    reservedOk := false, relay := false, scope := .fleet }
def zRole : Role :=
  { kind := .plaza, number := 0, replica := 0, generation := 0, liveFt := 0, finalTo := 0, lastFinal := none,
    sent := [], transfers := [], census := [], children := [], frames := [], seq := 0, merge := [], storms := [],
    sharedCodes := [], counted := [], alerts := [], closedTo := 0, duplicates := 0, lateAfterFinal := 0,
    mismatches := 0, stormsInEpoch := 0, adopted := [] }
def zTierFrame : TierFrame :=
  { frame := 0, period := 0, quality := 0, cover := [], sums := [], aggs := [], losses := [], children := [],
    held := [], acked := [], finals := [], census := [], binds := [], voidSeqs := [], seen := [],
    spilled := false, dispute := false, closed := false, final := false }
def zChild : Child :=
  { source := 0, epoch := 0, seqNext := 0, generation := 0, joinFt := 0, leaveFt := none, spans := [], home := 0,
    gauges := [], gaugesOf := (0, 0), bindings := [], gaps := [], ackFrame := none, reqs := [] }
def zSeries : Series :=
  { desc := zSeriesDesc, sstate := 0, level := false, drift := false, w := 0, b := 0, s := 0, lastValue := 0,
    lastMissing := false, samples := 0, missing := 0, sats := 0, levelRun := 0, levelClear := 0, driftRun := 0,
    driftClear := 0, inBlock := 0, beta := 0, ring := [], openSum := 0, sumA := 0, sumB := 0, spoilt := false,
    fed := none, fedW := 0, since := 0 }
def zOccurrence : Occurrence :=
  { role := .plaza, job := 0, marker := 0, cls := 0, occ := 0, firstFrame := 0, firstEnd := 0, hist := zHist,
    quality := 0, rules := [], entries := [], absent := [], trays := [], closed := false, holdUntil := none,
    noticed := [], settled := [] }
def zTreeSlot : TreeSlot :=
  { image := zTreeImage, first := 0, count := 0, leafTrees := 0, home := false, tray := 0, activeFrom := none,
    activeTo := none, intervals := [], dies := [] }
def zVec : Vec :=
  { model := 0, die := 0, frame := 0, frameEnd := 0, period := 0, imageCrc := 0, home := false, quality := 0,
    leafPartial := 0, leafTrees := 0, values := [], waits := [] }
def zSegment : Segment :=
  { seq := 0, port := 0, slot := 0, log := 0, epoch := 0, firstFt := 0, lastFt := 0, fill := 0, sealed := false,
    held := false, recovered := false, lost := false, entries := [] }
def zStream : Stream :=
  { id := zStreamId, key := none, job := 0, entry := none, nextOff := 0, chunk := 0, words := [], bytes := 0,
    spoilt := false, ready := [], mine := [], carried := [], ended := false, lastAt := 0, digests := [],
    chunks := 0, masks := [] }
def zRetained : Retained :=
  { result := zResultEntry, entry := zCollEntry, masks := [], ends := 0 }
def zGate : Gate :=
  { start := 0, ends := 0, rate := 0, port := 0, cls := 0, visiting := false, kerbPassed := false }
def zQueryState : QueryState :=
  { query := zQuery, issuer := .pm 0, tag := 0, chain := 0, desc := zDesc, startFt := none, result := none,
    deadline := none, running := false, done := false, lost := false, overwritten := false, holes := false,
    skippedMib := 0, segs := [], scans := [], seen := [], read := 0 }
def zReplyEntry : ReplyEntry :=
  { cls := 0, partition := 0, tag := 0, cmd := 0, askers := [], issuer := none, ownDue := false, taken := false,
    own := none, waiting := [], full := [], silent := [], answers := [], deadline := 0, done := false }
def zMergeEntry : MergeEntry :=
  { code := 0, subject := 0, window := 0, count := 0, first8 := [], ft := 0, detail := 0, openSent := false }
def zPair : Pair :=
  { pkgId := 0, testId := 0, unit := 0, due := 0, fails := 0, overdue := false }
def zHistoryRec : HistoryRec :=
  { hkind := 0, hsource := 0, index := 0, epoch := 0, ft := 0, code := 0, rkind := 0, refA := 0, refB := 0 }
def zHeldResults : HeldResults :=
  { job := 0, coll := 0, inst := 0, ends := 0, ranks := [], noticed := none }
def zTally : Tally :=
  { role := .plaza, job := 0, coll := 0, inst := 0, ranks := 0, scope := 0, firstEnd := 0, values := [],
    scatter := 0, unchkRanks := 0, entries := [], heard := [], quality := 0 }
def zKeyTable : KeyTable :=
  { job := 0, key := 0, anchor := 0, table := [] }
def zDeferred : Deferred :=
  { issuer := .pm 0, tag := 0, cmd := 0, work := .relay, dead := false }
def zBufOp : BufOp :=
  { id := 0, partition := 0, use := .write 0 0, issued := 0 }
def zPartEntry : PartEntry :=
  { model := 0, part := 0, firstTree := 0, lastTree := 0, host := 0 }
def zChipInfo : ChipInfo :=
  { tray := 0, live := false, slots := [], hosted := [], gateTime := 0, ensembles := [], freeTrees := 0,
    freeNodes := 0, freeVisits := 0 }
def zScoreParts : ScoreParts :=
  { model := 0, die := 0, frame := 0, imageCrc := 0, parts := [] }
def zGrant : Grant :=
  { id := 0, mask := 0, levels := 0, ends := 0 }
def zFrontPkt : FrontPkt :=
  { packet := zTrcPacket, dropped := 0, ft := 0, start := false }
def zRun : Run :=
  { die := 0, job := 0, rule := 0, run := 0, clear := 0, flag := false }
def zWinHist : WinHist :=
  { template := 0, frame := 0, endFt := 0, dies := [], quality := 0, hist := zHist }
def zHeldRecord : HeldRecord :=
  { record := zRecord, missing := [], lostCounters := [], lostGauges := [] }
def zIdleGrant : IdleGrant :=
  { unitFirst := 0, unitLast := 0, start := 0, len := 0, ends := none }
def zTestRun : TestRun :=
  { pkgId := 0, unit := 0, entry := zTestEntry, start := 0, startTimer := 0 }
def zLossEntry : LossEntry :=
  { lkind := 0, partition := none, indexFirst := 0, indexLast := 0, subject := 0, frame := 0, quantity := none }
def zCounterEntry : CounterEntry :=
  { index := 0, flags := 0, partition := 0, prescale := 0, residue := 0, delta := 0 }
def zGaugeEntry : GaugeEntry :=
  { index := 0, sample := 0, stale := false, signed := false, inexact := false, partition := 0, value := 0 }
def zSumEntry : SumEntry :=
  { index := 0, partition := 0, prescale := 0, repaired := false, first := false, last := false, contrib := 0,
    void := 0, sum := 0, lost := 0 }
def zAggEntry : AggEntry :=
  { index := 0, signed := false, sample := 0, partition := 0, present := 0, inexact := 0, missing := 0, min := 0,
    max := 0, sum := 0 }
def zChildStatus : ChildStatus :=
  { child := 0, epoch := 0, generation := 0, state := 0, lostFrags := 0 }
def zCoverEntry : CoverEntry :=
  { tray := 0, slots := [] }
def zSeriesEntry : SeriesEntry :=
  { sindex := 0, inexact := false, missing := false, sat := false, sstate := 0, level := false, drift := false,
    value := 0 }
def zLateEntry : LateEntry :=
  { marker := 0, lkind := 0, cls := 0, occ := 0, lateness := 0 }
def zDump : Dump :=
  { trigger := 0, truncated := false, auto := false, stewardDown := false, fwLevel := 0, source := 0, epoch := 0,
    reqFt := 0, firstFt := 0, lastFt := 0, nDropped := 0, dumpSeq := 0, pdSts := 0, generation := 0,
    entries := [] }
def zDumpEntry : DumpEntry :=
  { ekind := 0, domain := 0, object := 0, tkind := 0, tdomain := 0, tobject := 0, tremote := 0, ageUs := 0,
    captureFt := 0, count := 0, head := 0 }
def zImageAsk : ImageAsk :=
  { model := 0, imageCrc := 0, tray := 0, home := false, range := none }
def zAckReq : AckReq := { frame := 0, blkFirst := 0, blkLast := 0, rqkind := 0 }

/-! ## Blocks at work -/

/-- A request that passes every check of its form. -/
def req : Req := { zReq with hver := 1, hchkOk := true, headerReservedOk := true, reservedOk := true }
def sbReq : Req := { req with issuer := .sideband }
/-- A relayed request and a relayed copy. -/
def relayReq : Req := { req with relay := true }
def copyReq : Req := { req with issuer := .relay 0 0 }
/-- A tenant's request in slot 3 of partition 5. -/
def tenReq : Req := { req with issuer := .tenant 5 3 7 }
/-- A descriptor of partition 0 that passes R372. -/
def desc0 : Desc := { zDesc with selfAddr := 0x10000, addr := 0x20000, len := 4096, dcrcOk := true, readOk := true }

def fwImage : FwImage := { zFwImage with onLeaf := true, onPlaza := true, hdrOk := true }

/-- A Leaf at work: powered, Locked, its mailboxes served, with no frame open. -/
def leaf : State :=
  { State.reset with
    rst := { State.reset.rst with coreOk := true }
    pwr := { State.reset.pwr with on := 0x3FFFFFFF }
    time := { State.reset.time with state := .locked, ft := 1000000000, timer := 1000000000, osc := 1000000000, live := 1000000000 }
    stw := { State.reset.stw with
      running := some fwImage, committed := some fwImage, serving := true, pmOpen := [0, 1, 2, 3], sbiOpen := true
      slots := [(3, { Slot.unused with isOpen := true, partition := 5, generation := 7, ring := 4096, ringN := 16 })]
      quotas := [(5, 2)], windows := [(20, (0x100000, 0x100000))]
      regions := (placeRegions State.reset).stw.regions }
    epoch := 1, nv := { State.reset.nv with epoch := 1 } }

/-- A chip at work, with its Plaza role. -/
def chip : State :=
  { leaf with
    fuse := { FuseMap.blank with plaza := true }, upl := Uplink.start { FuseMap.blank with plaza := true }
    stw := { leaf.stw with regions := [] }, roles := [{ zRole with kind := .plaza }] }

/-- The check that a request is one that the Steward takes. -/
def takenB (c : Cmd) (r : Req) (s : State) : Bool :=
  s.rst.aonOk && stewardUp s && mailboxOpen r.issuer s && inTurn r.issuer (c.code == 0x0101) s
    && !fetchOutside r.issuer (c.code == 0x0101) s && headerOk r
    && sessionReject r.issuer (c.code == 0x0101) s == none && presentAt c.only s.fuse.plaza
    && c.allow.permits (issuerClass r.issuer) && r.reservedOk
    && (!r.relay || (c.relayable && scopeOk r && selfInScope r.scope s))

theorem taken_of {c : Cmd} {r : Req} {s : State} (h : takenB c r s = true) : Taken c r s := by
  unfold takenB at h
  simp only [Bool.and_eq_true, beq_iff_eq, Bool.not_eq_true'] at h
  obtain ⟨⟨⟨⟨⟨⟨⟨⟨⟨⟨h1, h2⟩, h3⟩, h4⟩, h5⟩, h6⟩, h7⟩, h8⟩, h9⟩, h10⟩, h11⟩ := h
  refine ⟨h1, h2, h3, h4, h5, h6, h7, h8, h9, h10, fun a => ?_⟩
  rw [a] at h11
  simpa [and_assoc] using h11

/-! ## Statements of completion: their hypotheses are met -/

/-- The hypotheses of each clause of `TimeCommandsComplete` are met. -/
theorem witness_TimeCommandsComplete :
    (∃ (r : Req) (s : State), let c : Cmd := { code := 0x0201, allow := { s := true, t := true } }; Taken c r s) ∧
    (∃ (r : Req) (mode : Nat) (s : State), let c : Cmd := { code := 0x0202, allow := {} }; Taken c r s
      ∧ (mode = 1 ∨ mode = 2) ∧ ((timeValid s = false ∨ (s.grid.halted = true ∧ s.grid.frame = none)))) ∧
    (∃ (r : Req) (mode : Nat) (s : State), let c : Cmd := { code := 0x0202, allow := {} }; Taken c r s
      ∧ (mode = 1 ∨ mode = 2) ∧ ((timeValid s = false ∨ (s.grid.halted = true ∧ s.grid.frame = none)))) ∧
    (∃ (r : Req) (periodUs : Nat) (e : Nat) (s : State), let c : Cmd := { code := 0x0203, allow := {}, relayable := true };
      Taken c r s ∧ 50 ≤ periodUs ∧ periodUs ≤ 1000000 ∧ e % (s.grid.period * 1000) = 0 ∧ e % (periodUs * 1000) = 0
      ∧ s.time.ft + 10000000 ≤ e) ∧
    (∃ (r : Req) (s : State), let c : Cmd := { code := 0x0204, allow := {}, relayable := true }; Taken c r s) ∧
    (∃ (r : Req) (s : State), let c : Cmd := { code := 0x0204, allow := {}, relayable := true }; Taken c r s) :=
  ⟨⟨req, leaf, taken_of (by decide)⟩,
   ⟨req, 2, { leaf with grid := { leaf.grid with halted := true } }, taken_of (by decide), by decide⟩,
   ⟨req, 1, { leaf with time := { leaf.time with state := .lost } }, taken_of (by decide), by decide⟩,
   ⟨req, 50, 1010000000, leaf, taken_of (by decide), by decide⟩,
   ⟨req, { leaf with grid := { leaf.grid with frame := some { frame := 1000, period := 1000, quality := 0 } } },
     taken_of (by decide)⟩,
   ⟨relayReq, chip, taken_of (by decide)⟩⟩

def bound : State :=
  { leaf with smp := { leaf.smp with
      counters := [(32767, { Counter.unbound with binding := 0x08000000, known := true })], gauges := [(1023, { Gauge.idle with config := 1 })]
      cmps := [(4095, { Cmp.idle with enable := true, latch := some { firstFt := 1, lastFt := 2, count := 3, extreme := 4, sat := false } })] } }

/-- The hypotheses of each clause of `SamplerCommandsComplete` are met. -/
theorem witness_SamplerCommandsComplete :
    (∃ (r : Req) (line : Nat) (config : Word16) (s : State),
      let c : Cmd := { code := 0x0301, allow := {}, relayable := true, only := .leaf }; Taken c r s ∧ engineUp 2 s = true
      ∧ line < 4096 ∧ bits config.toNat 15 12 = 0 ∧ (conc (line / 256) s).fenced = false) ∧
    (∃ (r : Req) (k : Nat) (binding : Word32) (s : State),
      let c : Cmd := { code := 0x0302, allow := {}, relayable := true, only := .leaf }; Taken c r s ∧ engineUp 2 s = true
      ∧ k < 32768 ∧ bits binding.toNat 31 28 = 0 ∧ bindPartition binding ≤ 512 ∧ k ∉ s.smp.retired
      ∧ ((bindSrcCmp binding = true → bindPartition binding ≠ 0 → cmpPartition (bindSrc binding) s = bindPartition binding))) ∧
    (∃ (r : Req) (k : Nat) (s : State), let c : Cmd := { code := 0x0303, allow := {}, relayable := true, only := .leaf };
      Taken c r s ∧ engineUp 2 s = true ∧ k < 32768 ∧ bindEnable (counter k s).binding = true ∧ k ∉ s.smp.retired) ∧
    (∃ (r : Req) (k : Nat) (prescale : Nat) (s : State),
      let c : Cmd := { code := 0x0304, allow := { t := true }, only := .leaf }; Taken c r s ∧ engineUp 2 s = true
      ∧ prescale ≤ 15 ∧ k < 32768 ∧ bindEnable (counter k s).binding = true ∧ k ∉ s.smp.retired
      ∧ ((isTenant r.issuer = true → bindPartition (counter k s).binding = issuerPart r.issuer))) ∧
    (∃ (r : Req) (g : Nat) (config : Word16) (s : State),
      let c : Cmd := { code := 0x0307, allow := {}, relayable := true, only := .leaf }; Taken c r s ∧ engineUp 2 s = true
      ∧ g < 1024 ∧ bits config.toNat 15 14 = 0 ∧ gaugeSample config ≠ 3 ∧ gaugePartition config ≤ 512) ∧
    (∃ (r : Req) (k : Nat) (cflags : BitVec 8) (ctr : Nat) (s : State),
      let c : Cmd := { code := 0x0308, allow := { t := true }, only := .leaf }; Taken c r s ∧ engineUp 2 s = true
      ∧ bits cflags.toNat 7 5 = 0 ∧ ctr < 32768 ∧ k < 4096 ∧ ((isTenant r.issuer = true →
      cmpPartition k s = issuerPart r.issuer ∧ (cmp k s).srcCounter = cflags.getLsbD 1 ∧ (cmp k s).counter = ctr))) ∧
    (∃ (r : Req) (desc : Desc) (stride : Nat) (s : State),
      let c : Cmd := { code := 0x030B, allow := { t := true }, only := .leaf }; Taken c r s ∧ engineUp 2 s = true
      ∧ 1 ≤ stride ∧ stride ≤ 65535 ∧ descOk (issuerPart r.issuer) desc s = true) ∧
    (∃ (r : Req) (s : State), let c : Cmd := { code := 0x030B, allow := { t := true }, only := .leaf }; Taken c r s
      ∧ engineUp 2 s = true) ∧
    (∃ (r : Req) (first : Nat) (count : Nat) (s : State),
      let c : Cmd := { code := 0x0305, allow := { s := true, t := true }, only := .leaf }; Taken c r s
      ∧ engineUp 2 s = true ∧ 1 ≤ count ∧ count ≤ 6 ∧ ((∃ j, j < count ∧ counterVisible r.issuer (first + j) s = true))) ∧
    (∃ (r : Req) (s : State), let c : Cmd := { code := 0x0306, allow := { s := true, t := true } }; Taken c r s
      ∧ s.fuse.plaza = false ∧ engineUp 2 s = true ∧ isTenant r.issuer = false) ∧
    (∃ (r : Req) (s : State), let c : Cmd := { code := 0x0306, allow := { s := true, t := true } }; Taken c r s
      ∧ s.fuse.plaza = false ∧ engineUp 2 s = true ∧ isTenant r.issuer = true) ∧
    (∃ (r : Req) (s : State), let c : Cmd := { code := 0x0306, allow := { s := true, t := true } }; Taken c r s
      ∧ s.fuse.plaza = true ∧ isTenant r.issuer = false) ∧
    (∃ (r : Req) (s : State), let c : Cmd := { code := 0x0306, allow := { s := true, t := true } }; Taken c r s
      ∧ s.fuse.plaza = true ∧ isTenant r.issuer = true) ∧
    (∃ (r : Req) (k : Nat) (s : State),
      let c : Cmd := { code := 0x0309, allow := { s := true, t := true }, only := .leaf }; Taken c r s
      ∧ engineUp 2 s = true ∧ k < 4096 ∧ (isTenant r.issuer = true → cmpPartition k s = issuerPart r.issuer)) ∧
    (∃ (r : Req) (g : Nat) (s : State),
      let c : Cmd := { code := 0x030A, allow := { s := true, t := true }, only := .leaf }; Taken c r s
      ∧ engineUp 2 s = true ∧ g < 1024 ∧ ((isTenant r.issuer = true →
      gaugePartition (gauge g s).config = issuerPart r.issuer))) :=
  ⟨⟨req, 4095, 0x0FFF#16, leaf, taken_of (by decide), by decide⟩,
   ⟨req, 32767, 0x0C000000#32, leaf, taken_of (by decide), by decide⟩,
   ⟨req, 32767, bound, taken_of (by decide), by decide⟩,
   ⟨req, 32767, 15, bound, taken_of (by decide), by decide⟩,
   ⟨req, 1023, 0x2001#16, leaf, taken_of (by decide), by decide⟩,
   ⟨req, 4095, 0x1F#8, 32767, bound, taken_of (by decide), by decide⟩,
   ⟨req, desc0, 65535, leaf, taken_of (by decide), by decide⟩,
   ⟨req, leaf, taken_of (by decide), by decide⟩,
   ⟨req, 32762, 6, bound, taken_of (by decide), by decide, by decide, by decide, ⟨5, by decide⟩⟩,
   ⟨req, leaf, taken_of (by decide), by decide⟩,
   ⟨tenReq, leaf, taken_of (by decide), by decide⟩,
   ⟨req, chip, taken_of (by decide), by decide⟩,
   ⟨{ tenReq with issuer := .tenant 5 3 7 }, chip, taken_of (by decide), by decide⟩,
   ⟨req, 4095, bound, taken_of (by decide), by decide⟩,
   ⟨req, 1023, bound, taken_of (by decide), by decide⟩⟩

def role1 : Role := { zRole with kind := .plaza, children := [{ zChild with source := 9 }] }
def forumChip : State :=
  { chip with
    roles := [role1, { zRole with kind := .forum }]
    place := { chip.place with
      drained := [9], hosts := [(0, 0, 0)], chips := [{ zChipInfo with tray := 1023 }] } }
def holding : State := { leaf with led := { leaf.led with retained := [{ zRecord with frame := 8, kind := 1, source := 0 }] } }

/-- The hypotheses of each clause of `LedgerPlacementCommandsComplete` are met. -/
theorem witness_LedgerPlacementCommandsComplete :
    (∃ (r : Req) (s : State), let c : Cmd := { code := 0x0401, allow := { s := true } }; Taken c r s ∧ engineUp 3 s = true) ∧
    (∃ (r : Req) (s : State), let c : Cmd := { code := 0x0401, allow := { s := true } }; Taken c r s ∧ engineUp 3 s = true) ∧
    (∃ (r : Req) (kib : Nat), ∃ desc, ∃ (nodes : Nat) (staging : Nat) (s : State),
      let c : Cmd := { code := 0x0402, allow := {}, only := .leaf }; Taken c r s ∧ engineUp 3 s = true ∧ 512 ≤ kib
      ∧ kib ≤ 4096 ∧ descOk (issuerPart r.issuer) desc s = true ∧ regionUse s ≤ 1024 * kib
      ∧ s.stw.regions.map (·.name) = regionNames ∧ retainSplit kib s = some (nodes, staging)) ∧
    (∃ (r : Req) (desc : Desc) (frame : Nat) (kind : Nat) (s : State),
      let c : Cmd := { code := 0x0403, allow := { s := true } }; Taken c r s ∧ engineUp 3 s = true ∧ 1 ≤ kind ∧ kind ≤ 3
      ∧ recordsHeld frame kind s ≠ [] ∧ descOk (issuerPart r.issuer) desc s = true) ∧
    (∃ (r : Req) (desc : Desc) (select : BitVec 8) (s : State),
      let c : Cmd := { code := 0x0404, allow := {}, only := .plaza }; Taken c r s ∧ engineUp 3 s = true
      ∧ select.toNat < 8 ∧ (findRole .forum s).isSome = true ∧ descOk (issuerPart r.issuer) desc s = true) ∧
    (∃ (r : Req) (separation : Nat) (standinMin : Nat), ∃ d1 d2, ∃ (s : State),
      let c : Cmd := { code := 0x0501, allow := {}, only := .plaza }; Taken c r s ∧ engineUp 12 s = true ∧ separation ≤ 3
      ∧ standinMin ≤ 256 ∧ descOk (issuerPart r.issuer) d1 s = true ∧ descOk (issuerPart r.issuer) d2 s = true
      ∧ (findRole .forum s).isSome = true) ∧
    (∃ (r : Req) (tray : Nat) (s : State), let c : Cmd := { code := 0x0502, allow := {}, only := .plaza }; Taken c r s
      ∧ engineUp 12 s = true ∧ tray < 1024 ∧ (findRole .forum s).isSome = true ∧ knownTray tray s = true) ∧
    (∃ (r : Req) (tray : Nat) (s : State), let c : Cmd := { code := 0x0503, allow := {}, only := .plaza }; Taken c r s
      ∧ engineUp 12 s = true ∧ tray < 1024 ∧ (findRole .forum s).isSome = true ∧ tray ∈ s.place.drained) ∧
    (∃ (r : Req) (s : State), let c : Cmd := { code := 0x0504, allow := { s := true } }; Taken c r s ∧ engineUp 12 s = true) ∧
    (∃ (r : Req) (die : Nat) (frame : Nat) (s : State),
      let c : Cmd := { code := 0x0505, allow := { p := false, q := true }, only := .plaza }; Taken c r s
      ∧ engineUp 12 s = true ∧ die < 2 ^ 18 ∧ (die, frame) ∉ s.place.transfers) ∧
    (∃ (r : Req) (die : Nat) (frame : Nat) (s : State),
      let c : Cmd := { code := 0x0505, allow := { p := false, q := true }, only := .plaza }; Taken c r s
      ∧ engineUp 12 s = true ∧ die < 2 ^ 18 ∧ (die, frame) ∈ s.place.transfers) :=
  ⟨⟨req, leaf, taken_of (by decide), by decide⟩,
   ⟨sbReq, chip, taken_of (by decide), by decide⟩,
   ⟨req, 3840, desc0, 0, 0, leaf, taken_of (by decide), by decide⟩,
   ⟨req, desc0, 8, 1, holding, taken_of (by decide), by decide⟩,
   ⟨req, desc0, 7#8, forumChip, taken_of (by decide), by decide⟩,
   ⟨req, 3, 256, desc0, desc0, forumChip, taken_of (by decide), by decide⟩,
   ⟨req, 1023, forumChip, taken_of (by decide), by decide⟩,
   ⟨req, 9, forumChip, taken_of (by decide), by decide⟩,
   ⟨req, forumChip, taken_of (by decide), by decide⟩,
   ⟨{ req with issuer := .role 0 0 }, 262143, 4, forumChip, taken_of (by decide), by decide⟩,
   ⟨{ req with issuer := .role 0 0 }, 9, 4, { forumChip with place := { forumChip.place with transfers := [(9, 4)] } },
     taken_of (by decide), by decide⟩⟩

/-- The hypotheses of each clause of `SessionCommandsComplete` are met. -/
theorem witness_SessionCommandsComplete :
    (∃ (n : Nat) (r : Req) (s : State), let c : Cmd := { code := 0x0101, allow := { s := true, t := true } }; n < 4
      ∧ r.issuer = .pm n ∧ Taken c r s) ∧
    (∃ (r : Req) (s : State), let c : Cmd := { code := 0x0101, allow := { s := true, t := true } }; r.issuer = .sideband
      ∧ Taken c r s) ∧
    (∃ (n : Nat) (r : Req) (s : State), let c : Cmd := { code := 0x0102, allow := { s := true, t := true } }; n < 4
      ∧ r.issuer = .pm n ∧ Taken c r s) ∧
    (∃ (r : Req) (s : State), let c : Cmd := { code := 0x0102, allow := { s := true, t := true } }; r.issuer = .sideband
      ∧ Taken c r s) ∧
    (∃ (r : Req) (p : Nat) (s : State), let c : Cmd := { code := 0x0103, allow := { s := true, t := true } }; Taken c r s
      ∧ isTenant r.issuer = false ∧ p ≤ 512) ∧
    (∃ (r : Req) (p : Nat) (quota : Nat) (s : State), let c : Cmd := { code := 0x0104, allow := {}, relayable := true };
      Taken c r s ∧ 1 ≤ p ∧ p ≤ 512 ∧ quota ≤ 8) ∧
    (∃ (r : Req) (idle : Nat) (s : State), let c : Cmd := { code := 0x0105, allow := {} }; Taken c r s ∧ 1 ≤ idle
      ∧ idle ≤ 3600) ∧
    (∃ (r : Req) (p : Nat) (window : Nat) (base : Nat) (len : Nat) (s : State),
      let c : Cmd := { code := 0x0106, allow := {} };
      let e := onStw (fun t => { t with windows := tput (0, 0) (4 * p + window) (if len = 0 then (0, 0) else (base, len)) t.windows }) s; Taken c r s ∧ p ≤ 512 ∧ window ≤ 3 ∧ base % 4096 = 0 ∧ len % 4096 = 0 ∧ chainsInside p e = true) ∧
    (∃ (r : Req) (p : Nat) (s : State), let c : Cmd := { code := 0x0107, allow := {}, relayable := true }; Taken c r s
      ∧ 1 ≤ p ∧ p ≤ 512 ∧ s.fuse.plaza = false) ∧
    (∃ (r : Req) (p : Nat) (s : State), let c : Cmd := { code := 0x0107, allow := {}, relayable := true }; Taken c r s
      ∧ 1 ≤ p ∧ p ≤ 512 ∧ s.fuse.plaza = true) ∧
    (∃ (p : Nat) (k0 : Nat) (g0 : Nat) (k : Nat) (r : Req) (ring : Nat) (ringN : Nat) (s : State),
      let c : Cmd := { code := 0x0101, allow := { s := true, t := true } }; r.issuer = .tenant p k0 g0 ∧ Taken c r s
      ∧ 16 ≤ ringN ∧ ringN ≤ 4096 ∧ ring % 64 = 0 ∧ inWindows p ring (64 + 128 * ringN) s = true ∧ lowestFree s = some k) ∧
    (∃ (p : Nat) (k : Nat) (g : Nat) (r : Req) (s : State),
      let c : Cmd := { code := 0x0102, allow := { s := true, t := true } }; r.issuer = .tenant p k g ∧ Taken c r s
      ∧ tabWf Slot.unused s.stw.slots = true
      ∧ (tget Slot.unused k s.stw.slots).prod - (tget Slot.unused k s.stw.slots).cons < (tget Slot.unused k s.stw.slots).ringN) ∧
    (∃ (r : Req) (s : State), let c : Cmd := { code := 0x0103, allow := { s := true, t := true } }; Taken c r s
      ∧ isTenant r.issuer = true ∧ issuerPart r.issuer ≤ 512) :=
  ⟨⟨3, { req with issuer := .pm 3 }, leaf, by decide, by decide, taken_of (by decide)⟩,
   ⟨sbReq, leaf, by decide, taken_of (by decide)⟩,
   ⟨3, { req with issuer := .pm 3 }, leaf, by decide, by decide, taken_of (by decide)⟩,
   ⟨sbReq, leaf, by decide, taken_of (by decide)⟩,
   ⟨req, 512, leaf, taken_of (by decide), by decide⟩,
   ⟨relayReq, 512, 8, chip, taken_of (by decide), by decide⟩,
   ⟨req, 3600, leaf, taken_of (by decide), by decide⟩,
   ⟨req, 512, 3, 4096, 4096, leaf, taken_of (by decide), by decide⟩,
   ⟨req, 512, leaf, taken_of (by decide), by decide⟩,
   ⟨req, 512, chip, taken_of (by decide), by decide⟩,
   ⟨5, 3, 7, 0, tenReq, 0x100000, 16, leaf, by decide, taken_of (by decide), by decide⟩,
   ⟨5, 3, 7, tenReq, leaf, by decide, taken_of (by decide), by decide⟩,
   ⟨tenReq, leaf, taken_of (by decide), by decide⟩⟩

def sDesc : SeriesDesc :=
  { zSeriesDesc with index := 8191, kind := 1, partition := 0, windowLog2 := 4, levelK := 256, minDev := 1, driftLimit := 65536, driftRun := 1, levelRun := 1, block := 1 }
def cal0 : CalImage := { zCalImage with job := 7, step := 1000000, steps := 10, checksOk := true }
def calGood : CalImage :=
  { cal0 with
    markerSections := [[{ zMarkerEntry with mid := 5, miss := 499 }]]
    gateSections := [{ zGateSection with job := 7, rate := 1000, gates := [(0, 10000)], checkOk := true }] }
def confLeaf : State :=
  { leaf with conf := { leaf.conf with
      quotas := [(16, 8192)], pending := some cal0, active := some { image := cal0, anchor := 1 }
      series := [(0, { zSeries with desc := { zSeriesDesc with enable := true } })]
      hists := [(999999000, { zHistRecord with marker := 5, job := 7 })] } }
def confChip : State :=
  { chip with conf := { chip.conf with
      jobs := [(7, 3)], rules := [{ job := 7, rule := 3, since := 1, value := some { zCohortRule with job := 7, rule := 3 } }]
      runs := [{ zRun with die := 9, job := 7, rule := 1, flag := true }] } }

/-- The hypotheses of each clause of `ConformanceCommandsComplete` are met. -/
theorem witness_ConformanceCommandsComplete :
    (∃ r d, ∃ (s : State), let c : Cmd := { code := 0x0601, allow := { t := true }, relayable := true }; Taken c r s
      ∧ engineUp 4 s = true ∧ seriesFormOk d d.plaza = true ∧ d.plaza = s.fuse.plaza
      ∧ mayDefine r.issuer (withDefaults d) s = true ∧ sourcesOk (withDefaults d) s = true
      ∧ d.index < 4 * regionKib .series s ∧ ((d.enable = true → (isTenant r.issuer = true →
      seriesOf d.partition d.index s < tget 16 d.partition s.conf.quotas)
      ∧ demandFits (withDefaults d :: (definedAfter s).filter fun x => x.index != d.index) s.conf.doublings s.grid.period s = true))) ∧
    (∃ r d, ∃ (s : State), let c : Cmd := { code := 0x0601, allow := { t := true }, relayable := true }; Taken c r s
      ∧ engineUp 4 s = true ∧ seriesFormOk d d.plaza = true ∧ d.plaza ≠ s.fuse.plaza ∧ r.relay = true) ∧
    (∃ r desc image, ∃ (s : State), let c : Cmd := { code := 0x0604, allow := {}, only := .leaf }; Taken c r s
      ∧ engineUp 6 s = true ∧ descOk (issuerPart r.issuer) desc s = true ∧ calOk image s = true) ∧
    (∃ (r : Req) (anchor : Nat) (job : Nat), ∃ i, ∃ (s : State),
      let c : Cmd := { code := 0x0605, allow := {}, relayable := true }; Taken c r s ∧ s.fuse.plaza = false
      ∧ engineUp 6 s = true ∧ s.time.ft + 10000000 ≤ anchor ∧ s.conf.pending = some i ∧ i.job = job) ∧
    (∃ (r : Req) (s : State), let c : Cmd := { code := 0x0605, allow := {}, relayable := true }; Taken c r s
      ∧ s.fuse.plaza = true ∧ engineUp 6 s = true ∧ (isCopy r.issuer = true ∨ r.relay = true)) ∧
    (∃ (r : Req) (rule : CohortRule) (s : State),
      let c : Cmd := { code := 0x0606, allow := { t := true }, relayable := true, only := .plaza }; Taken c r s
      ∧ engineUp 6 s = true ∧ ruleOk rule = true ∧ jobVisible r.issuer rule.job s = true) ∧
    (∃ (r : Req) (rule : CohortRule) (s : State),
      let c : Cmd := { code := 0x0606, allow := { t := true }, relayable := true, only := .plaza }; Taken c r s
      ∧ engineUp 6 s = true ∧ rule.rule ≤ 3 ∧ jobVisible r.issuer rule.job s = true
      ∧ (ruleAt rule.job rule.rule (s.time.ft + 1) s).isSome = true) ∧
    (∃ (r : Req) (p : Nat) (quota : Nat) (s : State), let c : Cmd := { code := 0x0608, allow := {}, relayable := true };
      Taken c r s ∧ engineUp 4 s = true ∧ p ≤ 512 ∧ quota ≤ 8192) ∧
    (∃ (r : Req) (index : Nat) (die : Nat), ∃ desc x, ∃ (s : State),
      let c : Cmd := { code := 0x0602, allow := { s := true, t := true } }; Taken c r s ∧ engineUp 4 s = true
      ∧ (s.fuse.plaza = false → die = 0) ∧ seriesFor r.issuer index die s = some x
      ∧ descOk (issuerPart r.issuer) desc s = true) ∧
    (∃ (r : Req) (desc : Desc) (job : Nat) (marker : Nat) (key : Nat), ∃ lateness, ∃ (scope : Nat) (at_ : Nat), ∃ h,
      ∃ (s : State), let c : Cmd := { code := 0x0603, allow := { s := true, t := true } }; Taken c r s
      ∧ engineUp 4 s = true ∧ marker < 2 ^ 24 ∧ scope ≤ 2
      ∧ (s.conf.hists.find? fun x => s.time.ft < x.1 + 1000 * frameNs s && x.2.lateness == lateness
      && x.2.scope == scope && x.2.job == job && x.2.key == key && (!lateness || x.2.marker == marker)) = some (at_, h)
      ∧ histVisible r.issuer h s = true ∧ descOk (issuerPart r.issuer) desc s = true) ∧
    (∃ (r : Req) (desc : Desc) (job : Nat) (s : State),
      let c : Cmd := { code := 0x0607, allow := { s := true, t := true } }; Taken c r s ∧ engineUp 6 s = true
      ∧ jobKnown job s = true ∧ jobVisible r.issuer job s = true ∧ s.fuse.plaza = true
      ∧ descOk (issuerPart r.issuer) desc s = true) ∧
    (∃ (r : Req) (desc : Desc) (job : Nat) (s : State),
      let c : Cmd := { code := 0x0607, allow := { s := true, t := true } }; Taken c r s ∧ engineUp 6 s = true
      ∧ jobKnown job s = true ∧ jobVisible r.issuer job s = true ∧ s.fuse.plaza = false
      ∧ descOk (issuerPart r.issuer) desc s = true) :=
  ⟨⟨req, sDesc, confLeaf, taken_of (by decide), by decide⟩,
   ⟨relayReq, sDesc, chip, taken_of (by decide), by decide⟩,
   ⟨req, desc0, calGood, leaf, taken_of (by decide), by decide⟩,
   ⟨req, 1010000000, 7, cal0, confLeaf, taken_of (by decide), by decide⟩,
   ⟨relayReq, chip, taken_of (by decide), by decide⟩,
   ⟨req, { zCohortRule with job := 7, rule := 3, q := 1000000, margin := 100, run := 255 }, chip, taken_of (by decide),
     by decide⟩,
   ⟨req, { zCohortRule with job := 7, rule := 3 }, confChip, taken_of (by decide), by decide⟩,
   ⟨req, 512, 8192, leaf, taken_of (by decide), by decide⟩,
   ⟨req, 0, 0, desc0, { zSeries with desc := { zSeriesDesc with enable := true } }, confLeaf, taken_of (by decide), by decide⟩,
   ⟨req, desc0, 7, 5, 0, false, 0, 999999000, { zHistRecord with marker := 5, job := 7 }, confLeaf, taken_of (by decide),
     by decide⟩,
   ⟨req, desc0, 7, confChip, taken_of (by decide), by decide⟩,
   ⟨req, desc0, 7, confLeaf, taken_of (by decide), by decide⟩⟩

def calM : CalImage :=
  { zCalImage with job := 7, step := 1000000, steps := 10, markerSections := [[{ zMarkerEntry with mid := 16777214, cls := 2, miss := 100, offset := 10 }]] }
def entryM : MarkerEntry := { zMarkerEntry with mid := 16777214, cls := 2, miss := 100, offset := 10 }
def useM : Under := { cal := { image := calM, anchor := 999000000 }, before := none }
def markLeaf : State := { leaf with conf := { leaf.conf with active := some { image := calM, anchor := 999000000 } } }
def strobed (x : Nat × Nat × Bool) : State := { markLeaf with conf := { markLeaf.conf with strobes := [x] } }

/-- The hypotheses of each clause of `MarkerEventsComplete` are met. -/
theorem witness_MarkerEventsComplete :
    (∃ (s : State), s.rst.aonOk = true ∧ mrkFrontOn s = true ∧ s.conf.strobes.length < 64) ∧
    (∃ (s : State), s.rst.aonOk = true ∧ mrkFrontOn s = true ∧ 64 ≤ s.conf.strobes.length) ∧
    (∃ (mid : Nat) (at_ : Nat), ∃ rest u e, ∃ (k : Nat) (s : State),
      let d := activateDue (onConf (fun c => { c with strobes := rest }) s); s.rst.aonOk = true ∧ confUp s = true
      ∧ s.conf.strobes = (mid, at_, true) :: rest ∧ calendarFor at_ true d = some u
      ∧ ((markersOf u.cal.image).find? fun e => e.mid == mid) = some e
      ∧ k = max ((markOf u e.mid d).last.elim 0 (· + 1)) (nearestOcc u.cal e at_) ∧ u.before = none
      ∧ occExists u.cal e none k = true) ∧
    (∃ (mid : Nat) (at_ : Nat), ∃ rest u e, ∃ (s : State),
      let d := activateDue (onConf (fun c => { c with strobes := rest }) s); s.rst.aonOk = true ∧ confUp s = true
      ∧ s.conf.strobes = (mid, at_, false) :: rest ∧ calendarFor at_ false d = some u
      ∧ ((markersOf u.cal.image).find? fun e => e.mid == mid) = some e) ∧
    (∃ (mid : Nat) (at_ : Nat), ∃ valid rest, ∃ (s : State),
      let d := activateDue (onConf (fun c => { c with strobes := rest }) s); s.rst.aonOk = true ∧ confUp s = true
      ∧ s.conf.strobes = (mid, at_, valid) :: rest ∧ ((∀ u, calendarFor at_ valid d = some u →
      ((markersOf u.cal.image).find? fun e => e.mid == mid) = none))) ∧
    (∃ (mid : Nat), ∃ u e, ∃ (s : State), s.rst.aonOk = true ∧ confUp s = true ∧ timeValid s = true
      ∧ openUnder mid (drainStrobes s) = some (u, e)) ∧
    (∃ i, ∃ (a : Nat) (s : State), s.rst.aonOk = true ∧ s.fuse.plaza = false ∧ timeValid s = true
      ∧ s.conf.pending = some i ∧ s.conf.armed = some a) :=
  ⟨⟨{ leaf with conf := { leaf.conf with strobes := List.replicate 63 (1, 2, true) } }, by decide⟩,
   ⟨{ leaf with conf := { leaf.conf with strobes := List.replicate 64 (1, 2, true) } }, by decide⟩,
   ⟨16777214, 999000500, [], useM, entryM, 0, strobed (16777214, 999000500, true), by decide⟩,
   ⟨16777214, 0, [], useM, entryM, strobed (16777214, 0, false), by decide⟩,
   ⟨3, 5, true, [], strobed (3, 5, true), by decide, by decide, by decide,
     (fun u h => absurd (h.symm.trans (by decide : _ = none)) (by simp))⟩,
   ⟨16777214, useM, entryM, markLeaf, by decide⟩,
   ⟨calM, 1000000100, { leaf with conf := { leaf.conf with pending := some calM, armed := some 1000000100 } }, by decide⟩⟩

def plazaRole : Role := { zRole with kind := .plaza, children := [{ zChild with source := 9 }] }
def occ0 : Occurrence := { zOccurrence with role := .plaza, job := 7, marker := 5, occ := 3, firstFrame := 1, firstEnd := 2000000, hist := Hist.empty }
def histRec0 : HistRecord := { zHistRecord with job := 7, marker := 5, source := 0x40000, hist := Hist.empty }
def rule0 : CohortRule := { zCohortRule with job := 7, rule := 3, q := 500000, margin := 100 }
def note0 : ThresholdNotice := { zThresholdNotice with job := 7, marker := 5, occ := 3, rule := 3, quantile := some 5, n := 1 }
def occChip (o : Occurrence) : State :=
  { chip with roles := [plazaRole], conf := { chip.conf with occs := [o], rules := [{ job := 7, rule := 3, since := 0, value := some rule0 }] } }
def quarterChip : State :=
  { chip with roles := [plazaRole, { zRole with kind := .quarter, children := [{ zChild with source := plazaSource 3 }] }] }

/-- The hypotheses of each clause of `CohortEventsComplete` are met. -/
theorem witness_CohortEventsComplete :
    (∃ (rcd : SeriesRecord) (missing : List Nat), ∃ role k, ∃ (s : State), s.rst.aonOk = true ∧ s.fuse.plaza = true
      ∧ findRole .plaza s = some role ∧ childOf rcd.die role = some k ∧ 0 ∉ missing) ∧
    (∃ (rcd : SeriesRecord) (missing : List Nat), ∃ role k, ∃ (s : State), s.rst.aonOk = true ∧ s.fuse.plaza = true
      ∧ findRole .plaza s = some role ∧ childOf rcd.die role = some k ∧ 0 ∈ missing) ∧
    (∃ role h r, ∃ (s : State),
      let s' := arcIngest 1 { mkEntry h.source (histBytes h).length (.hist h) s with hosted := true } s;
      s.rst.aonOk = true ∧ s.fuse.plaza = true ∧ role ≠ .plaza ∧ findRole role s = some r ∧ engineUp 4 s' = true) ∧
    (∃ role, ∃ (job : Nat) (marker : Nat) (occ : Nat), ∃ o r, ∃ (s : State), s.rst.aonOk = true ∧ engineUp 4 s = true
      ∧ timeValid s = true ∧ findOcc role job marker occ s = some o ∧ o.closed = false ∧ findRole role s = some r) ∧
    (∃ (n : ThresholdNotice), ∃ o role v, ∃ (s : State), s.rst.aonOk = true ∧ s.fuse.plaza = true ∧ engineUp 6 s = true
      ∧ findRole .quarter s = none ∧ findRole .plaza s = some role
      ∧ findOcc .plaza n.job n.marker (n.occ % 2 ^ 32) s = some o ∧ (o.closed = false ∨ o.holdUntil.isSome = true)
      ∧ (o.noticed.find? fun x => x.rule == n.rule && x.scope == n.scope) = none
      ∧ (o.rules.find? fun x => x.rule == n.rule && x.scope == n.scope) = some v) ∧
    (∃ (n : ThresholdNotice), ∃ o role v, ∃ (s : State), s.rst.aonOk = true ∧ s.fuse.plaza = true ∧ engineUp 6 s = true
      ∧ findRole .quarter s = none ∧ findRole .plaza s = some role
      ∧ findOcc .plaza n.job n.marker (n.occ % 2 ^ 32) s = some o ∧ s.conf.occs = [o] ∧ o.closed = true ∧ o.noticed = []
      ∧ o.rules = [v] ∧ v.rule = n.rule ∧ v.scope = n.scope ∧ v.scope ≠ 0 ∧ v.classMask.getLsbD o.cls = true ∧ o.settled = []) ∧
    (∃ (n : ThresholdNotice), ∃ role k, ∃ (s : State), s.rst.aonOk = true ∧ s.fuse.plaza = true
      ∧ findRole .quarter s = some role ∧ sourceKind n.source = 3 ∧ k ∈ role.children) ∧
    (∃ (job : Nat) (marker : Nat) (occ : Nat), ∃ o, ∃ (h : Nat) (s : State), s.rst.aonOk = true
      ∧ findOcc .plaza job marker occ s = some o ∧ o.holdUntil = some h) :=
  ⟨⟨{ zSeriesRecord with die := 9, seq := 4 }, [1], plazaRole, { zChild with source := 9 }, occChip occ0, by decide⟩,
   ⟨{ zSeriesRecord with die := 9, seq := 4 }, [0], plazaRole, { zChild with source := 9 }, occChip occ0, by decide⟩,
   ⟨.quarter, histRec0, { zRole with kind := .quarter, children := [{ zChild with source := plazaSource 3 }] },
     { quarterChip with arc := { quarterChip.arc with deadPorts := [0, 1, 2, 3, 4, 5, 6, 7] } }, by decide⟩,
   ⟨.plaza, 7, 5, 3, occ0, plazaRole, occChip occ0, by decide⟩,
   ⟨note0, { occ0 with rules := [rule0] }, plazaRole, rule0, occChip { occ0 with rules := [rule0] }, by decide⟩,
   ⟨{ note0 with scope := 2 }, { occ0 with closed := true, rules := [{ rule0 with scope := 2, classMask := 1 }] },
     plazaRole, { rule0 with scope := 2, classMask := 1 },
     occChip { occ0 with closed := true, rules := [{ rule0 with scope := 2, classMask := 1 }] }, by decide⟩,
   ⟨{ note0 with source := 0xC0000000 },
     { zRole with kind := .quarter, children := [{ zChild with source := plazaSource 3 }] },
     { zChild with source := plazaSource 3 }, quarterChip, by decide⟩,
   ⟨7, 5, 3, { occ0 with holdUntil := some 1000000100 }, 1000000100, occChip { occ0 with holdUntil := some 1000000100 },
     by decide⟩⟩

def feat0 : FeatDesc := { zFeatDesc with fkind := 9 }
/-- Two trees of one leaf node each, with base 100 and outputs 5 and 7. -/
def forest : TreeImage := { zTreeImage with
  tag := 0x5445, version := 1, reservedOk := true, model := 9, base := 100, scoreEvery := 4, imageCrc := 1781020619
  features := [feat0]
  dir := [{ root := 0, n := 1, depth := 0 }, { root := 1, n := 1, depth := 0 }]
  nodes := [0x0000000500000002#128, 0x0000000700000002#128] }
/-- The same for partition 5, and with a feature that keeps every tree at the Plaza. -/
def forest5 : TreeImage := { forest with partition := 5, imageCrc := 1409209617 }
def upper : TreeImage := { forest with features := [{ feat0 with fkind := 8 }], imageCrc := 1725447277 }
def treeSlotOf (i : TreeImage) (first count l : Nat) (home : Bool) : TreeSlot := pendingSlot i first count l home 0 State.reset
def active (t : TreeSlot) : TreeSlot := { t with activeFrom := some 0 }
def treeLeaf : State := { leaf with tree := { leaf.tree with slots := [treeSlotOf forest 0 2 2 true] } }
def scored : ScoreEntry := { zScoreEntry with model := 9, sframe := 999, value := -3, imageCrc := 1781020619 }

/-- The hypotheses of each clause of `TreeCommandsComplete` are met. -/
theorem witness_TreeCommandsComplete :
    (∃ r desc image x, ∃ (s : State), let c : Cmd := { code := 0x0701, allow := { t := true }, relayable := true };
      let d := dropPending image.model s; Taken c r s ∧ engineUp 7 s = true ∧ inputRelayOk r desc = true
      ∧ descOk (issuerPart r.issuer) desc s = true ∧ imageOk image = true ∧ (isTenant r.issuer = true →
      image.partition = issuerPart r.issuer) ∧ (∀ f ∈ image.features, featureMine image.partition f s = true)
      ∧ loadSlot r image d = some x ∧ slotFits x d = true ∧ ((isTenant r.issuer = true →
      quotaFits (issuerPart r.issuer) x d = true)) ∧ (s.fuse.plaza = true → x.count ≠ 0)) ∧
    (∃ r desc image x, ∃ (s : State), let c : Cmd := { code := 0x0701, allow := { t := true }, relayable := true };
      let d := dropPending image.model s; Taken c r s ∧ engineUp 7 s = true ∧ inputRelayOk r desc = true
      ∧ descOk (issuerPart r.issuer) desc s = true ∧ imageOk image = true ∧ (isTenant r.issuer = true →
      image.partition = issuerPart r.issuer) ∧ (∀ f ∈ image.features, featureMine image.partition f s = true)
      ∧ loadSlot r image d = some x ∧ slotFits x d = true ∧ ((isTenant r.issuer = true →
      quotaFits (issuerPart r.issuer) x d = true)) ∧ (s.fuse.plaza = true → x.count ≠ 0)) ∧
    (∃ r desc image x, ∃ (s : State), let c : Cmd := { code := 0x0701, allow := { t := true }, relayable := true };
      let d := dropPending image.model s; Taken c r s ∧ engineUp 7 s = true ∧ inputRelayOk r desc = true
      ∧ descOk (issuerPart r.issuer) desc s = true ∧ imageOk image = true ∧ (isTenant r.issuer = true →
      image.partition = issuerPart r.issuer) ∧ (∀ f ∈ image.features, featureMine image.partition f s = true)
      ∧ loadSlot r image d = some x ∧ slotFits x d = true ∧ ((isTenant r.issuer = true →
      quotaFits (issuerPart r.issuer) x d = true)) ∧ (s.fuse.plaza = true → x.count ≠ 0)) ∧
    (∃ r desc image, ∃ (s : State), let c : Cmd := { code := 0x0701, allow := { t := true }, relayable := true };
      Taken c r s ∧ engineUp 7 s = true ∧ inputRelayOk r desc = true ∧ descOk (issuerPart r.issuer) desc s = true
      ∧ imageOk image = true ∧ (isTenant r.issuer = true → image.partition = issuerPart r.issuer) ∧ (∀ f ∈ image.features,
      featureMine image.partition f s = true) ∧ s.fuse.plaza = true ∧ loadSlot r image (dropPending image.model s) = none) ∧
    (∃ (r : Req) (model : Nat) (frame : Nat), ∃ i, ∃ (rest : List TreeImage), ∃ p, ∃ (s : State),
      let c : Cmd := { code := 0x0702, allow := { t := true }, relayable := true }; Taken c r s ∧ engineUp 7 s = true
      ∧ imagesFor r.issuer model s = i :: rest ∧ ((s.tree.slots ++ s.tree.headers).find? fun t => t.image.model == model
      && t.activeFrom.isNone) = some p ∧ frame % p.image.scoreEvery = 0 ∧ s.time.ft + 10000000 ≤ frame * frameNs s) ∧
    (∃ (r : Req) (model : Nat) (frame : Nat), ∃ i, ∃ (rest : List TreeImage) (s : State),
      let c : Cmd := { code := 0x0702, allow := { t := true }, relayable := true }; Taken c r s ∧ engineUp 7 s = true
      ∧ imagesFor r.issuer model s = i :: rest ∧ ((s.tree.slots ++ s.tree.headers).find? fun t => t.image.model == model
      && t.activeFrom.isNone) = none ∧ model ∈ s.tree.kept ∧ frame % i.scoreEvery = 0
      ∧ s.time.ft + 10000000 ≤ frame * frameNs s) ∧
    (∃ (r : Req) (model : Nat) (s : State), let c : Cmd := { code := 0x0703, allow := { t := true }, relayable := true };
      Taken c r s ∧ engineUp 7 s = true ∧ imagesFor r.issuer model s ≠ []) ∧
    (∃ (r : Req) (p : Nat) (s : State), let c : Cmd := { code := 0x0704, allow := {}, relayable := true }; Taken c r s
      ∧ engineUp 7 s = true ∧ p ≤ 512) ∧
    (∃ (r : Req) (model : Nat), ∃ x, ∃ (s : State), let c : Cmd := { code := 0x0705, allow := { s := true, t := true } };
      let mine := (s.tree.slots ++ s.tree.headers).filter fun t => t.image.model == model
      && (!isTenant r.issuer || t.image.partition == issuerPart r.issuer); Taken c r s ∧ engineUp 7 s = true
      ∧ (mine.find? fun t => t.activeFrom.isSome).or mine.head? = some x) ∧
    (∃ (r : Req) (model : Nat) (die : Nat), ∃ e, ∃ (s : State), let c : Cmd := { code := 0x0706, allow := { t := true } };
      Taken c r s ∧ engineUp 7 s = true ∧ latestScore model (if s.fuse.plaza then die else s.die) s = some e
      ∧ (isTenant r.issuer = true → imagesFor r.issuer model s ≠ [])) ∧
    (∃ (r : Req) (model : Nat) (die : Nat), ∃ e, ∃ (s : State), let c : Cmd := { code := 0x0706, allow := { t := true } };
      Taken c r s ∧ engineUp 7 s = true ∧ latestScore model (if s.fuse.plaza then die else s.die) s = some e
      ∧ (isTenant r.issuer = true → imagesFor r.issuer model s ≠ [])) :=
  ⟨⟨req, desc0, forest, pendingSlot forest 0 2 2 true 0 leaf, leaf, taken_of (by decide), by decide⟩,
   ⟨req, desc0, upper, pendingSlot upper 0 2 0 true 0 chip, chip, taken_of (by decide), by decide⟩,
   ⟨tenReq, { desc0 with partition := 5 }, forest5, pendingSlot forest5 0 2 2 true 0 leaf,
     { leaf with tree := { leaf.tree with quotas := [(5, (2, 2))] }, stw := { leaf.stw with windows := [(20, (0x10000, 0x100000))] } }, taken_of (by decide), by decide⟩,
   ⟨req, desc0, forest, chip, taken_of (by decide), by decide⟩,
   ⟨req, 9, 1012, forest, [], treeSlotOf forest 0 2 2 true, treeLeaf, taken_of (by decide), by decide⟩,
   ⟨req, 9, 1012, forest, [],
     { chip with tree := { chip.tree with kept := [9], headers := [active (treeSlotOf forest 0 0 2 false)] } },
     taken_of (by decide), by decide⟩,
   ⟨req, 9, treeLeaf, taken_of (by decide), by decide⟩,
   ⟨req, 512, leaf, taken_of (by decide), by decide⟩,
   ⟨req, 9, treeSlotOf forest 0 2 2 true, treeLeaf, taken_of (by decide), by decide⟩,
   ⟨req, 9, 0, scored, { treeLeaf with tree := { treeLeaf.tree with scores := [scored] } }, taken_of (by decide), by decide⟩,
   ⟨req, 9, 4, { scored with die := 4 }, { chip with tree := { chip.tree with scores := [{ scored with die := 4 }] } },
     taken_of (by decide), by decide⟩⟩

def vec0 : Vec := { zVec with model := 9, frame := 999, frameEnd := 1000000000, period := 1000, imageCrc := 1781020619, home := true, values := [some 65536] }
def vecU : Vec := { vec0 with imageCrc := 1725447277 }
def scoreLeaf (i : TreeImage) (l : Nat) : State := { leaf with tree := { leaf.tree with slots := [active (treeSlotOf i 0 l l true)], vecs := [{ vec0 with imageCrc := i.imageCrc }] }, place := { leaf.place with parent := some 0x40000 } }
def scoreChip : State := { chip with
  tree := { chip.tree with slots := [active (treeSlotOf upper 0 2 0 true)], vecs := [vecU] }
  roles := [{ zRole with kind := .plaza, children := [{ zChild with source := 4 }] }] }
def feature0 : FeatureRecord := { zFeatureRecord with model := 9, die := 4, frame := 1003, imageCrc := 1725447277, leafPartial := 12 }

/-- The hypotheses of each clause of `TreeScoresComplete` are met. -/
theorem witness_TreeScoresComplete :
    (∃ (model : Nat) (die : Nat), ∃ v, ∃ (rest : List Vec), ∃ x, ∃ (s : State), s.rst.aonOk = true ∧ engineUp 7 s = true
      ∧ takeVec model die s.tree.vecs = some (v, rest) ∧ slotForVec v s = some x ∧ s.fuse.plaza = false
      ∧ x.leafTrees = x.image.dir.length ∧ (∀ e, latestScore v.model v.die s = some e → e.sframe ≤ v.frame)) ∧
    (∃ (model : Nat) (die : Nat), ∃ v, ∃ (rest : List Vec), ∃ x, ∃ (p : Nat) (s : State), s.rst.aonOk = true
      ∧ engineUp 7 s = true ∧ takeVec model die s.tree.vecs = some (v, rest) ∧ slotForVec v s = some x
      ∧ s.fuse.plaza = false ∧ x.leafTrees ≠ x.image.dir.length ∧ s.place.parent = some p) ∧
    (∃ (model : Nat) (die : Nat), ∃ v, ∃ (rest : List Vec), ∃ x, ∃ (s : State), s.rst.aonOk = true ∧ engineUp 7 s = true
      ∧ takeVec model die s.tree.vecs = some (v, rest) ∧ slotForVec v s = some x ∧ s.fuse.plaza = true ∧ x.home = true
      ∧ x.first + x.count = x.image.dir.length ∧ v.leafTrees = x.first ∧ (∀ e, latestScore v.model v.die s = some e →
      e.sframe ≤ v.frame)) ∧
    (∃ (model : Nat) (die : Nat), ∃ v, ∃ (rest : List Vec), ∃ x, ∃ (s : State), s.rst.aonOk = true ∧ engineUp 7 s = true
      ∧ takeVec model die s.tree.vecs = some (v, rest) ∧ slotForVec v s = some x ∧ s.fuse.plaza = false) ∧
    (∃ (model : Nat) (die : Nat), ∃ v, ∃ (rest : List Vec), ∃ x, ∃ (s : State), s.rst.aonOk = true ∧ engineUp 7 s = true
      ∧ takeVec model die s.tree.vecs = some (v, rest) ∧ slotForVec v s = some x ∧ s.fuse.plaza = false) ∧
    (∃ (model : Nat) (die : Nat) (frame : Nat) (k : Option RoleKind), ∃ x, ∃ (s : State), s.rst.aonOk = true
      ∧ timeValid s = true ∧ completingHere model die frame s = some (k, x) ∧ settled model die frame s = false) ∧
    (∃ (rcd : FeatureRecord), ∃ x, ∃ (s : State), s.rst.aonOk = true ∧ s.fuse.plaza = true ∧ engineUp 7 s = true
      ∧ slotForRecord rcd.model rcd.die rcd.frame (adoptedHere rcd.die s) s = some x ∧ x.image.imageCrc = rcd.imageCrc
      ∧ isScoring rcd.frame (intervalAt rcd.frame x) = true) ∧
    (∃ (rcd : FeatureRecord), ∃ x, ∃ (s : State), s.rst.aonOk = true ∧ s.fuse.plaza = true ∧ engineUp 7 s = true
      ∧ slotForRecord rcd.model rcd.die rcd.frame (adoptedHere rcd.die s) s = some x ∧ x.image.imageCrc ≠ rcd.imageCrc) ∧
    (∃ (s : State), s.rst.aonOk = true ∧ s.fuse.plaza = true ∧ engineUp 7 s = false) ∧
    (∃ (s : State), s.rst.aonOk = true ∧ s.fuse.plaza = true ∧ engineUp 7 s = false) :=
  ⟨⟨9, 0, vec0, [], active (treeSlotOf forest 0 2 2 true), scoreLeaf forest 2, by decide, by decide, by decide, by decide,
    by decide, by decide, fun e h => nomatch (h : (none : Option ScoreEntry) = some e)⟩,
   ⟨9, 0, vecU, [], active (treeSlotOf upper 0 0 0 true), 0x40000, scoreLeaf upper 0, by decide⟩,
   ⟨9, 4, { vecU with die := 4, leafPartial := 1 }, [], active (treeSlotOf upper 0 2 0 true),
     { scoreChip with tree := { scoreChip.tree with vecs := [{ vecU with die := 4, leafPartial := 1 }] } }, by decide,
     by decide, by decide, by decide, by decide, by decide, by decide, by decide,
     fun e h => nomatch (h : (none : Option ScoreEntry) = some e)⟩,
   ⟨9, 0, vec0, [], active (treeSlotOf forest 0 2 2 true), scoreLeaf forest 2, by decide⟩,
   ⟨9, 0, vecU, [], active (treeSlotOf upper 0 0 0 true), scoreLeaf upper 0, by decide⟩,
   ⟨9, 0, 999, none, active (treeSlotOf forest 0 2 2 true), scoreLeaf forest 2, by decide⟩,
   ⟨feature0, active (treeSlotOf upper 0 2 0 true), scoreChip, by decide⟩,
   ⟨{ feature0 with imageCrc := 76 }, active (treeSlotOf upper 0 2 0 true), scoreChip, by decide⟩,
   ⟨{ scoreChip with pwr := { scoreChip.pwr with on := 0x3FFFFF7F } }, by decide⟩,
   ⟨{ scoreChip with pwr := { scoreChip.pwr with on := 0x3FFFFF7F, noRetry := [(13, 7)] } }, by decide⟩⟩

def part0 : ScoreEntry := { scored with die := 4, firstTree := 0, lastTree := 0, value := 5, scflags := scPartial }
def bare : TreeImage := { forest with nodes := [] }
def quarterScores (ps : List ScoreParts) : State := { chip with
  roles := [{ zRole with kind := .quarter }]
  tree := { chip.tree with headers := [active (treeSlotOf bare 0 0 0 false)], parts := ps } }
def forumImages : State := { chip with
  roles := [{ zRole with kind := .forum }], tree := { chip.tree with kept := [9] }
  arc := { chip.arc with segments := [{ zSegment with log := 4, entries := [{ bytes := 96, source := 0xC0000000, arrival := 0, lateAfterFinal := false, mismatch := false, foreign := false, hosted := true, produced := false, holes := false, data := .image forest }] }] } }
def ask0 : ImageAsk := { model := 9, imageCrc := 1781020619, tray := 0, home := true, range := none }
def askLeaf : State := { leaf with tree := { leaf.tree with requested := [ask0] } }

/-- The hypotheses of each clause of `ScoreRecordsComplete` are met. -/
theorem witness_ScoreRecordsComplete :
    (∃ role, ∃ (rcd : ScoreRecord), ∃ e, ∃ (s : State), s.rst.aonOk = true ∧ s.fuse.plaza = true ∧ engineUp 7 s = true
      ∧ (findRole role s).isSome = true ∧ rcd.scores = [e] ∧ e.scflags.getLsbD 5 = false
      ∧ latestScore e.model e.die s = none ∧ role ≠ .forum) ∧
    (∃ (rcd : ScoreRecord), ∃ e r, ∃ (s : State), let q := sourceNum rcd.source % 256; s.rst.aonOk = true
      ∧ s.fuse.plaza = true ∧ engineUp 7 s = true ∧ findRole .forum s = some r ∧ rcd.scores = [e]
      ∧ e.scflags.getLsbD 5 = false ∧ latestScore e.model e.die s = none
      ∧ (rcd.replica = (adoptedOf q e.sframe (framePeriod e.sframe s) r).getD 0 ∨ (∀ x ∈ s.tree.rivals,
      x.2.model = e.model → x.2.die = e.die → x.2.sframe = e.sframe → x.1 = rcd.replica))) ∧
    (∃ (rcd : ScoreRecord), ∃ e h, ∃ (old : List (Nat × Nat × Int)) (s : State), s.rst.aonOk = true ∧ s.fuse.plaza = true
      ∧ engineUp 7 s = true ∧ (findRole .quarter s).isSome = true ∧ rcd.scores = [e] ∧ e.scflags = scPartial
      ∧ (s.tree.headers.find? fun h => h.image.model == e.model && activeAt e.sframe h) = some h
      ∧ h.image.imageCrc = e.imageCrc ∧ settled e.model e.die e.sframe s = false
      ∧ ((s.tree.parts.find? fun x => x.model == e.model && x.die == e.die
      && x.frame == e.sframe).map (·.parts)).getD [] = old ∧ partsCover h.image.dir.length 0 (insertPart (e.firstTree,
      e.lastTree, e.value) old) = false) ∧
    (∃ (rcd : ScoreRecord), ∃ e h, ∃ (old : List (Nat × Nat × Int)) (s : State), s.rst.aonOk = true ∧ s.fuse.plaza = true
      ∧ engineUp 7 s = true ∧ (findRole .quarter s).isSome = true ∧ rcd.scores = [e] ∧ e.scflags = scPartial
      ∧ (s.tree.headers.find? fun h => h.image.model == e.model && activeAt e.sframe h) = some h
      ∧ h.image.imageCrc = e.imageCrc ∧ settled e.model e.die e.sframe s = false
      ∧ ((s.tree.parts.find? fun x => x.model == e.model && x.die == e.die
      && x.frame == e.sframe).map (·.parts)).getD [] = old ∧ (∀ f, latestScore e.model e.die s = some f →
      f.sframe ≤ e.sframe) ∧ partsCover h.image.dir.length 0 (insertPart (e.firstTree, e.lastTree, e.value) old) = true) ∧
    (∃ (ask : ImageAsk) (_requester : Nat), ∃ role i, ∃ (s : State), s.rst.aonOk = true ∧ stewardUp s = true
      ∧ findRole .forum s = some role ∧ ((keptImages s).find? fun i => i.model == ask.model
      && i.imageCrc == ask.imageCrc) = some i) ∧
    (∃ (ask : ImageAsk) (_requester : Nat), ∃ role i, ∃ (s : State), s.rst.aonOk = true ∧ stewardUp s = true
      ∧ findRole .forum s = some role ∧ ((keptImages s).find? fun i => i.model == ask.model
      && i.imageCrc == ask.imageCrc) = some i) ∧
    (∃ image, ∃ (first : Nat) (last : Nat) (tray : Nat), ∃ home, ∃ (s : State), s.rst.aonOk = true ∧ engineUp 7 s = true
      ∧ imageOk image = true ∧ first ≤ last ∧ last < image.dir.length ∧ (∀ x ∈ s.tree.slots,
      holdsRange image first last tray home x = false)
      ∧ slotFits (pendingSlot image first (last + 1 - first) (leafRange image) home tray s) s = true) ∧
    (∃ image, ∃ (first : Nat) (last : Nat) (tray : Nat), ∃ home, ∃ (since : Option Nat), ∃ x, ∃ (s : State),
      s.rst.aonOk = true ∧ engineUp 7 s = true ∧ imageOk image = true ∧ first ≤ last ∧ last < image.dir.length
      ∧ s.tree.slots.find? (holdsRange image first last tray home) = some x ∧ (x.activeFrom.isSome = true ∨ since = none)) ∧
    (∃ image, ∃ (first : Nat) (last : Nat) (tray : Nat), ∃ home x, ∃ (s : State), s.rst.aonOk = true
      ∧ engineUp 7 s = true ∧ imageOk image = true ∧ first ≤ last ∧ last < image.dir.length
      ∧ s.tree.slots.find? (holdsRange image first last tray home) = some x ∧ x.activeFrom = none) :=
  ⟨⟨.plaza, { zScoreRecord with scores := [scored] }, scored, scoreChip, by decide⟩,
   ⟨{ zScoreRecord with scores := [scored] }, scored, { zRole with kind := .forum }, forumImages, by decide⟩,
   ⟨{ zScoreRecord with scores := [part0] }, part0, active (treeSlotOf bare 0 0 0 false), [], quarterScores [], by decide⟩,
   ⟨{ zScoreRecord with scores := [part0] }, part0, active (treeSlotOf bare 0 0 0 false), [(1, 1, 7)],
     quarterScores [{ model := 9, die := 4, frame := 999, imageCrc := 1781020619, parts := [(1, 1, 7)] }], by decide,
     by decide, by decide, by decide, by decide, by decide, by decide, by decide, by decide, by decide,
     (fun e h => nomatch (h : (none : Option ScoreEntry) = some e)), by decide⟩,
   ⟨ask0, 4, { zRole with kind := .forum }, forest, forumImages, by decide⟩,
   ⟨{ ask0 with home := false, range := some (1, 1) }, 0x40000000, { zRole with kind := .forum }, forest, forumImages,
     by decide⟩,
   ⟨forest, 0, 1, 0, true, askLeaf, by decide⟩,
   ⟨forest, 0, 1, 0, true, none, treeSlotOf forest 0 2 2 true,
     { treeLeaf with tree := { treeLeaf.tree with requested := [ask0] } }, by decide⟩,
   ⟨forest, 0, 1, 0, true, treeSlotOf forest 0 2 2 true, treeLeaf, by decide⟩⟩

def ledgerEntry : ArcEntry :=
  { bytes := 96, source := 0x40000, arrival := 900, lateAfterFinal := false, mismatch := false, foreign := false, hosted := false, produced := true, holes := false, data := .ledger { zRecord with tier := 1, frame := 20, source := 0x40000, children := [{ child := 1, epoch := 1, generation := 0, state := 0, lostFrags := 0 }] } }
def ledgerSeg : Segment := { zSegment with seq := 1, log := 0, fill := 160, firstFt := 100, lastFt := 900, entries := [ledgerEntry] }
def arcChip : State := { chip with arc := { chip.arc with segments := [ledgerSeg], nextSeq := 2 } }
def holdChip : State := { arcChip with arc := { arcChip.arc with holds := [{ id := 3, segs := [1], firstFt := 100, lastFt := 900, bytes := 2097152, ends := 2000000000 }] } }
def query0 : Query := { zQuery with qtype := 1, engines := 32, logs := 0x1F#8, queryId := 21 }
def queried : QueryState := { zQueryState with query := query0, tag := 5, chain := 2, desc := desc0 }
def queryChip (q : QueryState) : State := { arcChip with arc := { arcChip.arc with queries := [q] } , buf := { arcChip.buf with chains := [(2, { Chain.empty with ckind := 4, cur := some desc0 })], nextChain := 3 } }
def coll0 : CollEntry := { zCollEntry with coll := 4, ckind := 1, checkContrib := true, checkResult := true, ranks := 1, reservedOk := true }
def verdict0 : Verdict := { job := 7, coll := 4, inst := 9, verdict := 1, result := 0x275#64, nMaj := 3, nOther := 1, nAbsent := 0, suspects := 0 }
def judgedLeaf : State := { leaf with dig := { leaf.dig with verdicts := [verdict0], current := some { job := 7, key := 5, anchor := 0, table := [coll0] } } }

/-- The hypotheses of each clause of `ArcadeDigestCommandsComplete` are met. -/
theorem witness_ArcadeDigestCommandsComplete :
    (∃ (r : Req) (s : State), let c : Cmd := { code := 0x0801, allow := { s := true }, only := .plaza }; Taken c r s
      ∧ engineUp 13 s = true) ∧
    (∃ (r : Req) (logs : BitVec 8) (a : Nat) (b : Nat) (gs : List Segment) (s : State),
      let c : Cmd := { code := 0x0802, allow := {}, only := .plaza }; Taken c r s ∧ engineUp 13 s = true
      ∧ logs.toNat < 32 ∧ a ≤ b ∧ gs = s.arc.segments.filter (inHold logs a b) ∧ s.arc.holds.length < 8
      ∧ heldBytes s + segmentBytes * (gs.filter fun g => !g.held).length ≤ 2 ^ 40) ∧
    (∃ (r : Req) (id : Nat) (s : State), let c : Cmd := { code := 0x0803, allow := {}, only := .plaza }; Taken c r s
      ∧ engineUp 13 s = true ∧ (∃ h ∈ s.arc.holds, h.id = id)) ∧
    (∃ (r : Req) (port : Nat) (s : State), let c : Cmd := { code := 0x0804, allow := {}, only := .plaza }; Taken c r s
      ∧ engineUp 13 s = true ∧ port < 8 ∧ s.fence.getLsbD (Config.memFenceLine port % 256) = false) ∧
    (∃ (r : Req) (desc : Desc) (tray : Nat) (a : Nat) (b : Nat), ∃ q, ∃ (es : List (Nat × Nat × Nat × Nat)) (s : State),
      let c : Cmd := { code := 0x0805, allow := { s := true }, only := .plaza }; Taken c r s ∧ engineUp 13 s = true
      ∧ tray < 1024 ∧ a ≤ b ∧ findRole .quarter s = some q ∧ q.number = quarterOf tray
      ∧ descOk (issuerPart r.issuer) desc s = true
      ∧ es = (((liveSegments s).flatMap (·.entries)).flatMap (carriedBy tray a b)).foldl (fun l x => addCarried x l) []) ∧
    (∃ (r : Req) (addr : Nat), ∃ query desc, ∃ (s : State),
      let c : Cmd := { code := 0x0806, allow := { t := true }, only := .plaza }; Taken c r s ∧ engineUp 11 s = true
      ∧ addr % 64 = 0 ∧ (isTenant r.issuer = true → tenantQueryBad query = false)
      ∧ inWindows (issuerPart r.issuer) addr 112 s = true ∧ descOk (issuerPart r.issuer) desc s = true
      ∧ queryFormOk query = true ∧ queueFull r.issuer s = false) ∧
    (∃ (r : Req) (id : Nat), ∃ q, ∃ (s : State), let c : Cmd := { code := 0x0807, allow := { t := true }, only := .plaza };
      Taken c r s ∧ engineUp 11 s = true ∧ (s.arc.queries.find? fun q => q.query.queryId == id && !q.done
      && q.result.isNone) = some q ∧ mayName r.issuer q = true) ∧
    (∃ (r : Req) (id : Nat), ∃ q, ∃ (s : State),
      let c : Cmd := { code := 0x0808, allow := { s := true, t := true }, only := .plaza }; Taken c r s
      ∧ engineUp 11 s = true ∧ id ≠ 0
      ∧ ((s.arc.queries.filter (mayName r.issuer)).reverse.find? fun q => q.query.queryId == id) = some q) ∧
    (∃ (r : Req) (s : State), let c : Cmd := { code := 0x0808, allow := { s := true, t := true }, only := .plaza };
      Taken c r s ∧ engineUp 11 s = true) ∧
    (∃ (r : Req) (key : Nat) (anchor : Nat), ∃ desc, ∃ (table : List CollEntry) (s : State),
      let c : Cmd := { code := 0x0901, allow := {}, relayable := true }; Taken c r s ∧ engineUp 8 s = true ∧ 2 ≤ key
      ∧ key < digestP ∧ inputRelayOk r desc = true ∧ s.time.ft + 10000000 ≤ anchor
      ∧ descOk (issuerPart r.issuer) desc s = true ∧ collTableOk table s = true) ∧
    (∃ (r : Req) (key : Nat) (anchor : Nat), ∃ desc, ∃ (table : List CollEntry) (s : State),
      let c : Cmd := { code := 0x0901, allow := {}, relayable := true }; Taken c r s ∧ engineUp 8 s = true ∧ 2 ≤ key
      ∧ key < digestP ∧ inputRelayOk r desc = true ∧ s.time.ft + 10000000 ≤ anchor
      ∧ descOk (issuerPart r.issuer) desc s = true ∧ collTableOk table s = true) ∧
    (∃ (r : Req) (job : Nat) (s : State), let c : Cmd := { code := 0x0902, allow := { s := true, t := true } };
      Taken c r s ∧ engineUp 8 s = true ∧ digestKnows job s = true ∧ jobVisible r.issuer job s = true) ∧
    (∃ (r : Req) (job : Nat) (coll : Nat) (inst : Nat), ∃ v, ∃ (s : State),
      let c : Cmd := { code := 0x0903, allow := { t := true } }; Taken c r s ∧ engineUp 8 s = true
      ∧ jobVisible r.issuer job s = true ∧ (s.dig.verdicts.filter fun v => v.job == job && v.coll == coll
      && (inst == 0 || v.inst == inst)).getLast? = some v) :=
  ⟨⟨req, arcChip, taken_of (by decide), by decide⟩,
   ⟨req, 1#8, 0, 1000, [ledgerSeg], arcChip, taken_of (by decide), by decide⟩,
   ⟨req, 3, holdChip, taken_of (by decide), by decide,
     ⟨{ id := 3, segs := [1], firstFt := 100, lastFt := 900, bytes := 2097152, ends := 2000000000 }, by decide⟩⟩,
   ⟨req, 0, { arcChip with arc := { arcChip.arc with deadPorts := [0] } }, taken_of (by decide), by decide, by decide,
     (BitVec.getLsbD_zero : (0#256).getLsbD _ = false)⟩,
   ⟨req, desc0, 0, 10, 20, { zRole with kind := .quarter }, [(1, 0x40000, 20, 20)],
     { arcChip with roles := [{ zRole with kind := .quarter }] }, taken_of (by decide), by decide⟩,
   ⟨req, 0x30000, query0, desc0, arcChip, taken_of (by decide), by decide⟩,
   ⟨req, 21, queried, queryChip queried, taken_of (by decide), by decide⟩,
   ⟨req, 21, queried, queryChip queried, taken_of (by decide), by decide⟩,
   ⟨req, queryChip queried, taken_of (by decide), by decide⟩,
   ⟨req, 5, 1010000000, desc0, [coll0], leaf, taken_of (by decide), by decide⟩,
   ⟨req, 5, 1010000000, desc0, [coll0],
     { chip with roles := [{ zRole with kind := .plaza, children := [{ zChild with source := 4 }] }] },
     taken_of (by decide), by decide⟩,
   ⟨req, 7, judgedLeaf, taken_of (by decide), by decide⟩,
   ⟨req, 7, 4, 0, verdict0, judgedLeaf, taken_of (by decide), by decide⟩⟩

def memOp0 : MemOp := { port := 2, tag := 6, write := true, addr := 17, use := .directory, issued := 0 }
def opChip : State := { arcChip with arc := { arcChip.arc with ops := [memOp0], nextTag := 7 } }
def entryChip : State := { opChip with arc := { opChip.arc with ops := [{ memOp0 with use := .entry 4 }], staged := [{ id := 4, log := 0, entry := ledgerEntry, left := 1 }] } }
def scanOp : MemOp := { memOp0 with write := false, use := .scan 2 0 }
def scanState (n got : Nat) : QueryState := { queried with running := true, segs := [(1, 0)], scans := [{ engine := 0, todo := [], cur := some (1, 3, n, got) }] }
def scanChip (n got : Nat) : State := { queryChip (scanState n got) with arc := { (queryChip (scanState n got)).arc with ops := [scanOp], nextTag := 7 } }

/-- The hypotheses of each clause of `ArcadeEventsComplete` are met. -/
theorem witness_ArcadeEventsComplete :
    (∃ (port : Nat) (tag : Nat), ∃ o, ∃ (s : State), s.rst.aonOk = true ∧ (s.arc.ops.find? fun o => o.port == port
      && o.tag == tag) = some o ∧ (∀ c e, o.use ≠ .scan c e)) ∧
    (∃ (port : Nat) (tag : Nat), ∃ o, ∃ (id : Nat) (s : State), s.rst.aonOk = true
      ∧ (s.arc.ops.find? fun o => o.port == port && o.tag == tag) = some o ∧ o.use = .entry id ∧ (∀ x ∈ s.arc.staged,
      x.id = id → x.left = 1)) ∧
    (∃ (port : Nat) (tag : Nat), ∃ o, ∃ (chain : Nat) (engine : Nat), ∃ q c,
      ∃ (x : Nat) (next : Nat) (lines : Nat) (got : Nat), ∃ g, ∃ (s : State), s.rst.aonOk = true
      ∧ (s.arc.ops.find? fun o => o.port == port && o.tag == tag) = some o ∧ o.use = .scan chain engine
      ∧ runningQuery chain s = some q ∧ (q.scans.find? fun c => c.engine == engine) = some c ∧ c.cur = some (x, next,
      lines, got) ∧ (s.arc.segments.find? fun g => g.seq == x) = some g) ∧
    (∃ (port : Nat) (tag : Nat), ∃ o, ∃ (chain : Nat) (engine : Nat), ∃ q c,
      ∃ (x : Nat) (next : Nat) (lines : Nat) (got : Nat), ∃ g, ∃ (s : State), s.rst.aonOk = true
      ∧ (s.arc.ops.find? fun o => o.port == port && o.tag == tag) = some o ∧ o.use = .scan chain engine
      ∧ runningQuery chain s = some q ∧ (q.scans.find? fun c => c.engine == engine) = some c ∧ c.cur = some (x, next,
      lines, got) ∧ (s.arc.segments.find? fun g => g.seq == x) = some g) ∧
    (∃ (port : Nat) (tag : Nat), ∃ o, ∃ (s : State), s.rst.aonOk = true ∧ (s.arc.ops.find? fun o => o.port == port
      && o.tag == tag) = some o ∧ recentErrors port s < 15 ∧ port ∉ s.arc.deadPorts) ∧
    (∃ (port : Nat) (tag : Nat), ∃ o, ∃ (s : State), s.rst.aonOk = true ∧ (s.arc.ops.find? fun o => o.port == port
      && o.tag == tag) = some o ∧ recentErrors port s < 15 ∧ port ∉ s.arc.deadPorts) ∧
    (∃ (port : Nat) (s : State), s.rst.aonOk = true ∧ s.fuse.plaza = true ∧ port < 8 ∧ port ∉ s.arc.deadPorts ∧ (7,
      port) ∉ s.pwr.culDeSac) ∧
    (∃ (log : Nat), ∃ g, ∃ (s : State), s.rst.aonOk = true ∧ timeValid s = true ∧ openSegment log s = some g ∧ g.entries ≠ []) ∧
    (∃ (id : Nat), ∃ h, ∃ (s : State), s.rst.aonOk = true ∧ (s.arc.holds.find? fun h => h.id == id) = some h) :=
  ⟨⟨2, 6, memOp0, opChip, by decide, by decide, (fun c e h => nomatch (h : MemUse.directory = MemUse.scan c e))⟩,
   ⟨2, 6, { memOp0 with use := .entry 4 }, 4, entryChip, by decide⟩,
   ⟨2, 6, scanOp, 2, 0, scanState 3 0, { engine := 0, todo := [], cur := some (1, 3, 3, 0) }, 1, 3, 3, 0, ledgerSeg,
     scanChip 3 0, by decide⟩,
   ⟨2, 6, scanOp, 2, 0, scanState 3 2, { engine := 0, todo := [], cur := some (1, 3, 3, 2) }, 1, 3, 3, 2, ledgerSeg,
     scanChip 3 2, by decide⟩,
   ⟨2, 6, memOp0, opChip, by decide⟩,
   ⟨2, 6, memOp0, opChip, by decide⟩,
   ⟨7, opChip, by decide⟩,
   ⟨0, ledgerSeg, opChip, by decide⟩,
   ⟨3, { id := 3, segs := [1], firstFt := 100, lastFt := 900, bytes := 2097152, ends := 2000000000 }, holdChip, by decide⟩⟩

def startedQ : QueryState := { queried with running := true, startFt := some 900000000, deadline := some 10900000000 }

/-- The hypotheses of each clause of `BackscanEventsComplete` are met. -/
theorem witness_BackscanEventsComplete :
    (∃ q, ∃ (s : State), s.rst.aonOk = true ∧ s.fuse.plaza = true ∧ engineUp 11 s = true ∧ nextQuery s = some q) ∧
    (∃ (id : Nat), ∃ q, ∃ (s : State), s.rst.aonOk = true ∧ engineUp 11 s = true ∧ q.running = true
      ∧ (s.arc.queries.find? fun q => q.query.queryId == id && !q.done && q.result.isNone) = some q) ∧
    (∃ (id : Nat), ∃ p q, ∃ (s : State), s.rst.aonOk = true ∧ (s.arc.queries.find? fun q => q.query.queryId == id
      && q.running) = some p ∧ (s.arc.queries.find? fun q => q.query.queryId == id && !q.done && q.result.isNone) = some q) :=
  ⟨⟨queried, queryChip queried, by decide⟩,
   ⟨21, startedQ, queryChip startedQ, by decide⟩,
   ⟨21, startedQ, startedQ, queryChip startedQ, by decide⟩⟩

def bufLeaf (u : BufUse) (c : Chain) : State := { leaf with buf := { leaf.buf with chains := [(2, c)], nextChain := 3, ops := [{ id := 8, partition := 0, use := u, issued := 0 }] } }

/-- The hypotheses of each clause of `BufferEventsComplete` are met. -/
theorem witness_BufferEventsComplete :
    (∃ (id : Nat), ∃ op, ∃ (k : Nat) (s : State), s.rst.aonOk = true ∧ (s.buf.ops.find? fun o => o.id == id) = some op
      ∧ op.use = .ringWrite k) ∧
    (∃ (id : Nat), ∃ op, ∃ (n : Nat) (lost : Nat) (s : State), s.rst.aonOk = true
      ∧ (s.buf.ops.find? fun o => o.id == id) = some op ∧ op.use = .write n lost) ∧
    (∃ (id : Nat), ∃ op, ∃ (n : Nat) (lost : Nat) (s : State), s.rst.aonOk = true
      ∧ (s.buf.ops.find? fun o => o.id == id) = some op ∧ op.use = .write n lost) ∧
    (∃ (id : Nat), ∃ op, ∃ (n : Nat), ∃ d, ∃ (s : State), s.rst.aonOk = true
      ∧ (s.buf.ops.find? fun o => o.id == id) = some op ∧ op.use = .close n
      ∧ (tget Chain.empty n s.buf.chains).closing = some d) ∧
    (∃ (id : Nat), ∃ op, ∃ (n : Nat) (rest : Nat) (fill : Nat), ∃ d, ∃ (s : State), s.rst.aonOk = true
      ∧ (s.buf.ops.find? fun o => o.id == id) = some op ∧ op.use = .output n rest fill
      ∧ (tget Chain.empty n s.buf.chains).closing = some d) ∧
    (∃ (id : Nat), ∃ op, ∃ (s : State), s.rst.aonOk = true ∧ (s.buf.ops.find? fun o => o.id == id) = some op) ∧
    (∃ (id : Nat), ∃ op, ∃ (s : State), s.rst.aonOk = true ∧ (s.buf.ops.find? fun o => o.id == id) = some op) ∧
    (∃ (id : Nat), ∃ op, ∃ (s : State), s.rst.aonOk = true ∧ (s.buf.ops.find? fun o => o.id == id) = some op) ∧
    (∃ (r : Req) (k : Nat) (chain : Nat) (n : Nat), ∃ x desc, ∃ (s : State),
      let c : Cmd := { code := 0x0B06, allow := { t := true } }; Taken c r s ∧ k ≤ 3
      ∧ chainFind k (if k = 0 then chain else if k = 1 then issuerPart r.issuer else 0) s = some (n, x)
      ∧ x = tget Chain.empty n s.buf.chains ∧ mayAppend r.issuer x = true ∧ descOk (issuerPart r.issuer) desc s = true
      ∧ (x.cur.isSome = true ∨ x.closing.isSome = true)) ∧
    (∃ (r : Req) (k : Nat) (chain : Nat) (n : Nat), ∃ x desc, ∃ (s : State),
      let c : Cmd := { code := 0x0B06, allow := { t := true } }; Taken c r s ∧ k ≤ 3
      ∧ chainFind k (if k = 0 then chain else if k = 1 then issuerPart r.issuer else 0) s = some (n, x)
      ∧ x = tget Chain.empty n s.buf.chains ∧ mayAppend r.issuer x = true ∧ descOk (issuerPart r.issuer) desc s = true
      ∧ x.cur = none ∧ x.closing = none ∧ x.held = []) ∧
    (∃ (r : Req) (k : Nat) (chain : Nat) (n : Nat), ∃ x desc, ∃ (s : State),
      let c : Cmd := { code := 0x0B06, allow := { t := true } }; Taken c r s ∧ k ≤ 3
      ∧ chainFind k (if k = 0 then chain else if k = 1 then issuerPart r.issuer else 0) s = some (n, x)
      ∧ x = tget Chain.empty n s.buf.chains ∧ mayAppend r.issuer x = true ∧ descOk (issuerPart r.issuer) desc s = true
      ∧ x.cur = none ∧ x.closing = none ∧ x.held = []) :=
  ⟨⟨8, { id := 8, partition := 0, use := .ringWrite 3, issued := 0 }, 3, bufLeaf (.ringWrite 3) Chain.empty, by decide⟩,
   ⟨8, { id := 8, partition := 0, use := .write 2 1, issued := 0 }, 2, 1,
     bufLeaf (.write 2 1) { Chain.empty with cur := some desc0 }, by decide⟩,
   ⟨8, { id := 8, partition := 0, use := .write 2 1, issued := 0 }, 2, 1,
     bufLeaf (.write 2 1) { Chain.empty with cur := some desc0 }, by decide⟩,
   ⟨8, { id := 8, partition := 0, use := .close 2, issued := 0 }, 2, desc0,
     bufLeaf (.close 2) { Chain.empty with closing := some desc0, fill := 64 }, by decide⟩,
   ⟨8, { id := 8, partition := 0, use := .output 2 0 64, issued := 0 }, 2, 0, 64, desc0,
     bufLeaf (.output 2 0 64) { Chain.empty with ckind := 4, closing := some desc0, fill := 64 }, by decide⟩,
   ⟨8, { id := 8, partition := 0, use := .close 2, issued := 0 },
     bufLeaf (.close 2) { Chain.empty with closing := some desc0 }, by decide⟩,
   ⟨8, { id := 8, partition := 0, use := .ringWrite 3, issued := 0 }, bufLeaf (.ringWrite 3) Chain.empty, by decide⟩,
   ⟨8, { id := 8, partition := 0, use := .output 2 0 64, issued := 0 },
     bufLeaf (.output 2 0 64) { Chain.empty with ckind := 4, closing := some desc0, fill := 64 }, by decide⟩,
   ⟨req, 3, 0, 2, { Chain.empty with ckind := 3, cur := some desc0 }, desc0,
     bufLeaf (.ringWrite 0) { Chain.empty with ckind := 3, cur := some desc0 }, taken_of (by decide), by decide⟩,
   ⟨req, 3, 0, 2, { Chain.empty with ckind := 3 }, desc0, bufLeaf (.ringWrite 0) { Chain.empty with ckind := 3 },
     taken_of (by decide), by decide⟩,
   ⟨tenReq, 0, 9, 2, { Chain.empty with ckind := 0, index := 9, partition := 5, overruns := 3 },
     { desc0 with partition := 5, addr := 0x100000, selfAddr := 0x110000 },
     bufLeaf (.ringWrite 0) { Chain.empty with ckind := 0, index := 9, partition := 5, overruns := 3 },
     taken_of (by decide), by decide⟩⟩

def keyed : KeyTable := { job := 7, key := 5, anchor := 1010000000, table := [coll0] }
def keyLeaf : State := { leaf with dig := { leaf.dig with current := some { keyed with anchor := 0 } } }
def keyChip : State := { chip with dig := { chip.dig with tables := [{ keyed with anchor := 0 }, keyed] } }
def beat0 (kind : Nat) : TapBeat := { zTapBeat with kind := kind, coll := 4, inst := 9, peer := 2, bytes := 16, words := [3, 7], last := true }
def id0 (kind : Nat) : StreamId := { zStreamId with kind := kind, coll := 4, inst := 9, peer := 2 }
def streamed (x : Stream) : State := { keyLeaf with dig := { keyLeaf.dig with streams := [x] } }
def stream0 (kind : Nat) : Stream := { zStream with id := id0 kind, key := some 5, job := 7, entry := some coll0 }
def readied (kind : Nat) : Stream := { stream0 kind with ready := [(0, [3, 7], 16, false)] }
def clogged : Stream := { zStream with ready := [(0, [3, 7], 81920, false)] }
def result0 : ResultEntry := { zResultEntry with job := 7, coll := 4, inst := 9, stripes := [1, 2] }
def kept0 : Retained := { result := result0, entry := coll0, masks := [(1, 6#256)], ends := 1020000000 }
def keptLeaf : State := { keyLeaf with dig := { keyLeaf.dig with retained := [kept0] } }
def verdictN : VerdictNotice := { zVerdictNotice with job := 7, coll := 4, inst := 9, stripes := [1, 3] }

/-- The hypotheses of each clause of `DigestLeafEventsComplete` are met. -/
theorem witness_DigestLeafEventsComplete :
    (∃ x, ∃ (s : State), s.rst.aonOk = true ∧ timeValid s = true ∧ s.fuse.plaza = false ∧ s.dig.next = some x) ∧
    (∃ x, ∃ (s : State), s.rst.aonOk = true ∧ timeValid s = true ∧ s.fuse.plaza = true
      ∧ (s.dig.tables.find? fun t => s.time.ft < t.anchor) = some x) ∧
    (∃ b, ∃ (s : State), s.rst.aonOk = true ∧ tapFrontOn s = true ∧ digestUp s = true ∧ b.kind ≠ 3
      ∧ streamOf (beatId b) s = none ∧ beatWanted b (dueKey s) = true ∧ tapQueued s + b.bytes ≤ tapRoom s
      ∧ s.dig.streams.length < 4096) ∧
    (∃ b, ∃ (s : State), s.rst.aonOk = true ∧ tapFrontOn s = true ∧ digestUp s = true ∧ b.kind ≠ 3
      ∧ streamOf (beatId b) s = none ∧ beatWanted b (dueKey s) = true ∧ tapQueued s + b.bytes ≤ tapRoom s
      ∧ s.dig.streams.length < 4096) ∧
    (∃ b x, ∃ (s : State), s.rst.aonOk = true ∧ tapFrontOn s = true ∧ digestUp s = true ∧ b.kind ≠ 3
      ∧ streamOf (beatId b) s = some x ∧ tapQueued s + b.bytes ≤ tapRoom s) ∧
    (∃ b x, ∃ (s : State), s.rst.aonOk = true ∧ tapFrontOn s = true ∧ digestUp s = true ∧ b.kind ≠ 3
      ∧ streamOf (beatId b) s = some x ∧ tapQueued s + b.bytes ≤ tapRoom s) ∧
    (∃ b x, ∃ (s : State), s.rst.aonOk = true ∧ tapFrontOn s = true ∧ digestUp s = true ∧ b.kind ≠ 3
      ∧ (streamOf (beatId b) s = some x ∨ (streamOf (beatId b) s = none ∧ x = openStream b (dueKey s)
      ∧ beatWanted b (dueKey s) = true ∧ s.dig.streams.length < 4096)) ∧ tapRoom s < tapQueued s + b.bytes) ∧
    (∃ b, ∃ (s : State), s.rst.aonOk = true ∧ tapFrontOn s = true ∧ digestUp s = true ∧ b.kind ≠ 3
      ∧ streamOf (beatId b) s = none ∧ beatWanted b (dueKey s) = true ∧ 4096 ≤ s.dig.streams.length) ∧
    (∃ b x w, ∃ (s : State), s.rst.aonOk = true ∧ tapFrontOn s = true ∧ digestUp s = true ∧ b.kind = 3 ∧ b.words = [w]
      ∧ streamOf { beatId b with kind := 1 } s = some x ∧ w ≠ noDigest
      ∧ (x.mine.find? fun m => m.1 == b.off / 8) = some (b.off / 8, some w)) ∧
    (∃ (s : State), s.rst.aonOk = true ∧ tapFrontOn s = true ∧ digestUp s = false) ∧
    (∃ id x, ∃ (chunk : Nat) (words : List Word64) (len : Nat) (spoilt : Bool) (rest : List (Nat × List Word64 × Nat × Bool)) (v : Word64) (s : State), s.rst.aonOk = true ∧ digestUp s = true ∧ s.fuse.plaza = false ∧ streamOf id s = some x ∧ x.ready = (chunk, words, len, spoilt) :: rest ∧ chunkDigest x words len spoilt = some v ∧ x.id.kind = 0) ∧
    (∃ id x, ∃ (chunk : Nat) (words : List Word64) (len : Nat) (spoilt : Bool) (rest : List (Nat × List Word64 × Nat × Bool)) (v : Word64) (s : State), s.rst.aonOk = true ∧ digestUp s = true ∧ s.fuse.plaza = false ∧ streamOf id s = some x ∧ x.ready = (chunk, words, len, spoilt) :: rest ∧ chunkDigest x words len spoilt = some v ∧ x.id.kind = 1 ∧ v ≠ noDigest ∧ (x.carried.find? fun c => c.1 == chunk) = some (chunk, v)) ∧
    (∃ id x, ∃ (chunk : Nat) (words : List Word64) (len : Nat) (spoilt : Bool) (rest : List (Nat × List Word64 × Nat × Bool)) (s : State), s.rst.aonOk = true ∧ digestUp s = true ∧ s.fuse.plaza = false ∧ streamOf id s = some x ∧ x.ready = (chunk, words, len, spoilt) :: rest ∧ x.id.kind = 2 ∧ x.ended = false) ∧
    (∃ id x, ∃ (s : State), s.rst.aonOk = true ∧ streamOf id s = some x ∧ x.id.kind = 1 ∧ x.ended = true ∧ x.ready = []
      ∧ x.words = []) ∧
    (∃ (job : Nat) (coll : Nat) (inst : Nat), ∃ x, ∃ (s : State), s.rst.aonOk = true
      ∧ (s.dig.retained.find? fun r => r.result.job == job && r.result.coll == coll && r.result.inst == inst) = some x) ∧
    (∃ (n : VerdictNotice) (s : State), s.rst.aonOk = true ∧ s.fuse.plaza = false ∧ digestUp s = true
      ∧ (s.dig.retained.find? fun r => r.result.job == n.job && r.result.coll == n.coll && r.result.inst == n.inst) = none) ∧
    (∃ (n : VerdictNotice), ∃ x, ∃ (s : State), s.rst.aonOk = true ∧ s.fuse.plaza = false ∧ digestUp s = true
      ∧ (s.dig.retained.find? fun r => r.result.job == n.job && r.result.coll == n.coll
      && r.result.inst == n.inst) = some x ∧ (unitsOf (suspectMask x n.stripes)).length ≤ 8) :=
  ⟨⟨keyed, { keyLeaf with dig := { keyLeaf.dig with next := some keyed } }, by decide⟩,
   ⟨keyed, keyChip, by decide⟩,
   ⟨beat0 0, keyLeaf, by decide⟩,
   ⟨{ beat0 2 with off := 4080, bytes := 64 }, keyLeaf, by decide⟩,
   ⟨{ beat0 1 with bytes := 20480 }, stream0 1, streamed (stream0 1), by decide⟩,
   ⟨beat0 1, stream0 1, { streamed (stream0 1) with dig := { (streamed (stream0 1)).dig with current := none } }, by decide⟩,
   ⟨beat0 0, openStream (beat0 0) (dueKey (streamed clogged)), streamed clogged, by decide⟩,
   ⟨beat0 0, { keyLeaf with dig := { keyLeaf.dig with streams := List.replicate 4096 (stream0 2) } }, by decide⟩,
   ⟨{ beat0 3 with off := 8, words := [630#64] }, { stream0 1 with mine := [(1, some 630#64)] }, 630#64,
     streamed { stream0 1 with mine := [(1, some 630#64)] }, by decide⟩,
   ⟨{ streamed (stream0 0) with pwr := { keyLeaf.pwr with isolated := [8] } }, by decide⟩,
   ⟨id0 0, readied 0, 0, [3, 7], 16, false, [], digestOf [3, 7] 16 5, streamed (readied 0), by decide⟩,
   ⟨id0 1, { readied 1 with carried := [(0, digestOf [3, 7] 16 5)] }, 0, [3, 7], 16, false, [], digestOf [3, 7] 16 5,
     streamed { readied 1 with carried := [(0, digestOf [3, 7] 16 5)] }, by decide⟩,
   ⟨id0 2, readied 2, 0, [3, 7], 16, false, [], streamed (readied 2), by decide⟩,
   ⟨id0 1, { stream0 1 with ended := true, mine := [(0, none)], carried := [(2, 5#64)] },
     streamed { stream0 1 with ended := true, mine := [(0, none)], carried := [(2, 5#64)] }, by decide⟩,
   ⟨7, 4, 9, kept0, keptLeaf, by decide⟩,
   ⟨{ verdictN with inst := 8 }, keptLeaf, by decide⟩,
   ⟨verdictN, kept0, keptLeaf, by decide⟩⟩

def tallyChip (k : RoleKind) : State := { keyChip with roles := [{ zRole with kind := k, children := [{ zChild with source := 4 }] }] }
def heldResult : HeldResults := { job := 7, coll := 4, inst := 9, ends := 1020000000, ranks := [(4, 630#64)], noticed := none }
def heldChip : State := { tallyChip .plaza with dig := { (tallyChip .plaza).dig with heldResults := [heldResult] } }
def digestRec0 : DigestRecord := { zDigestRecord with die := 4, results := [{ result0 with result := 630#64 }] }

/-- The hypotheses of each clause of `DigestTierEventsComplete` are met. -/
theorem witness_DigestTierEventsComplete :
    (∃ (rcd : DigestRecord), ∃ role k x e, ∃ (s : State), s.rst.aonOk = true ∧ s.fuse.plaza = true ∧ digestUp s = true
      ∧ findRole .plaza s = some role ∧ childOf rcd.die role = some k ∧ rcd.results = [x] ∧ x.incomplete = false
      ∧ (tableFor x.job s).bind (collEntry x.coll) = some e ∧ e.checkResult = true) ∧
    (∃ (s : State), s.rst.aonOk = true ∧ s.fuse.plaza = true ∧ digestUp s = false) ∧
    (∃ role, ∃ (rcd : TallyRecord) (b : TallyBlock), ∃ e, ∃ (s : State), s.rst.aonOk = true ∧ s.fuse.plaza = true
      ∧ digestUp s = true ∧ role ≠ .plaza ∧ (findRole role s).isSome = true ∧ rcd.blocks = [b]
      ∧ (tableFor b.job s).bind (collEntry b.coll) = some e ∧ e.checkResult = true) ∧
    (∃ (n : VerdictNotice), ∃ h, ∃ (s : State), s.rst.aonOk = true ∧ s.fuse.plaza = true ∧ digestUp s = true
      ∧ (findRole .plaza s).isSome = true ∧ heldFor n s = some h ∧ h.noticed = none) ∧
    (∃ (n : VerdictNotice), ∃ role k, ∃ (s : State), s.rst.aonOk = true ∧ s.fuse.plaza = true
      ∧ findRole .quarter s = some role ∧ sourceKind n.source = 3 ∧ k ∈ role.children) ∧
    (∃ (job : Nat) (coll : Nat) (inst : Nat), ∃ h, ∃ (s : State), s.rst.aonOk = true
      ∧ (s.dig.heldResults.find? fun h => h.job == job && h.coll == coll && h.inst == inst) = some h) :=
  ⟨⟨digestRec0, { zRole with kind := .plaza, children := [{ zChild with source := 4 }] }, { zChild with source := 4 },
    { result0 with result := 630#64 }, coll0, tallyChip .plaza, by decide⟩,
   ⟨{ tallyChip .plaza with pwr := { chip.pwr with on := 0x3FFFFEFF } }, by decide⟩,
   ⟨.quarter, { zTallyRecord with source := 0x40000, blocks := [{ zTallyBlock with job := 7, coll := 4, inst := 9 }] },
     { zTallyBlock with job := 7, coll := 4, inst := 9 }, coll0, tallyChip .quarter, by decide⟩,
   ⟨verdictN, heldResult, heldChip, by decide⟩,
   ⟨{ verdictN with source := 0xC0000000 },
     { zRole with kind := .quarter, children := [{ zChild with source := plazaSource 3 }] },
     { zChild with source := plazaSource 3 },
     { tallyChip .quarter with roles := [{ zRole with kind := .quarter, children := [{ zChild with source := plazaSource 3 }] }] }, by decide⟩,
   ⟨7, 4, 9, heldResult, heldChip, by decide⟩⟩

def test0 : TestEntry := { zTestEntry with testId := 2, tkind := 1, fenceOnFail := true, failLimit := 1, unitLast := 255, respKib := 1, duration := 1000, interval := 60, expect := 630#64 }
def pkg0 : TestPkg := { zTestPkg with pkgId := 6, pkgRev := 3, dieType := 0, tag := 0x5450, version := 1, hdrCrc := 3007042490, reservedOk := true, sigKey := 2, tests := [test0], patDigests := [5#64], sig := { zSigBlock with usage := 2, svn := 1, ecdsaOk := true, tagOk := true } }
def keyed0 : FuseMap := { FuseMap.blank with crcOk := true, keyHash := [0, 0, 0, 0] }
def fencedLeaf : State := { leaf with fence := 1#256 <<< 255, test := { leaf.test with pkgs := [pkg0], pairs := [{ zPair with pkgId := 6, testId := 2, unit := 255 }] } }
def cdsLeaf : State := { leaf with pwr := { leaf.pwr with culDeSac := [(3, 2)] } }

/-- The hypotheses of each clause of `TestFenceCommandsComplete` are met. -/
theorem witness_TestFenceCommandsComplete :
    (∃ r desc patDesc pkg, ∃ (s : State), let c : Cmd := { code := 0x0A01, allow := {} }; Taken c r s
      ∧ descOk (issuerPart r.issuer) desc s = true ∧ descOk (issuerPart r.issuer) patDesc s = true
      ∧ patDesc.partition = 0 ∧ pkgReject pkg s = none ∧ pkgRoom pkg s = true ∧ pkg.patBytes ≤ patDesc.len) ∧
    (∃ (r : Req) (id : Nat) (s : State), let c : Cmd := { code := 0x0A02, allow := {} }; Taken c r s ∧ (∃ q ∈ s.test.pkgs,
      q.pkgId = id)) ∧
    (∃ (r : Req) (a : Nat) (b : Nat) (start : Nat) (ms : Nat) (s : State), let c : Cmd := { code := 0x0A03, allow := {} };
      Taken c r s ∧ a ≤ b ∧ b ≤ 255 ∧ 1 ≤ ms ∧ ms ≤ 60000 ∧ s.conf.active = none ∧ s.time.ft + 1000000 ≤ start) ∧
    (∃ (r : Req) (s : State), let c : Cmd := { code := 0x0A04, allow := { s := true } }; Taken c r s) ∧
    (∃ (r : Req) (id : Nat), ∃ q, ∃ (s : State), let c : Cmd := { code := 0x0A04, allow := { s := true } }; Taken c r s
      ∧ id ≠ 0 ∧ (s.test.pkgs.find? fun q => q.pkgId == id) = some q) ∧
    (∃ (r : Req) (line : Nat) (s : State), let c : Cmd := { code := 0x0A05, allow := {} }; Taken c r s ∧ line ≤ 255) ∧
    (∃ (r : Req) (line : Nat) (s : State), let c : Cmd := { code := 0x0A06, allow := {} }; Taken c r s ∧ line ≤ 255
      ∧ s.fence.getLsbD line = true) ∧
    (∃ (r : Req) (line : Nat) (s : State), let c : Cmd := { code := 0x0A06, allow := {} }; Taken c r s ∧ line ≤ 255
      ∧ s.fence.getLsbD line = false) ∧
    (∃ (r : Req) (s : State), let c : Cmd := { code := 0x0A07, allow := { s := true } }; Taken c r s) ∧
    (∃ (r : Req) (desc : Desc) (s : State), let c : Cmd := { code := 0x0A07, allow := { s := true } }; Taken c r s
      ∧ descOk (issuerPart r.issuer) desc s = true) ∧
    (∃ (r : Req) (k : Nat) (i : Nat) (s : State), let c : Cmd := { code := 0x0A08, allow := {} }; Taken c r s ∧ (k,
      i) ∈ s.pwr.culDeSac) :=
  ⟨⟨req, desc0, desc0, pkg0, { leaf with fuse := keyed0 }, taken_of (by decide), by decide⟩,
   ⟨req, 6, fencedLeaf, taken_of (by decide), ⟨pkg0, by decide⟩⟩,
   ⟨req, 255, 255, 1001000000, 60000, leaf, taken_of (by decide), by decide⟩,
   ⟨req, fencedLeaf, taken_of (by decide)⟩,
   ⟨req, 6, pkg0, fencedLeaf, taken_of (by decide), by decide⟩,
   ⟨req, 255, leaf, taken_of (by decide), by decide⟩,
   ⟨req, 255, fencedLeaf, taken_of (by decide), by decide⟩,
   ⟨req, 255, leaf, taken_of (by decide), by decide⟩,
   ⟨req, fencedLeaf, taken_of (by decide)⟩,
   ⟨req, desc0, fencedLeaf, taken_of (by decide), by decide⟩,
   ⟨req, 3, 2, cdsLeaf, taken_of (by decide), by decide⟩⟩

def grant0 : IdleGrant := { unitFirst := 0, unitLast := 255, start := 1001000000, len := 1000000, ends := none }
def begun : IdleGrant := { grant0 with ends := some 1001000000 }
def pair0 : Pair := { zPair with pkgId := 6, testId := 2, unit := 255 }
def run0 : TestRun := { pkgId := 6, unit := 255, entry := test0, start := 999999000, startTimer := 999999000 }
def testLeaf (p : TestPkg) (x : Pair) (r : Option TestRun) : State := { leaf with test := { leaf.test with pkgs := [p], pairs := [x], grants := [begun], run := r } }
def block0 : TestEntry := { test0 with tkind := 3, unitLast := 3 }
def pkgB : TestPkg := { pkg0 with tests := [block0] }
def quietCal : CalImage := { zCalImage with job := 7, step := 1000000, steps := 10, quietSections := [[{ zQuietWin with offset := 500000, len := 300000, unitLast := 255 }]] }

/-- The hypotheses of each clause of `TestEventsComplete` are met. -/
theorem witness_TestEventsComplete :
    (∃ d x q e, ∃ (s : State), s.rst.aonOk = true ∧ openSpans s ≠ [] ∧ s.test.run = none ∧ stewardUp s = true
      ∧ pickPair (s.test.pairs.filter (mayStart s)) = some x ∧ pairEntry x s = some (q, e) ∧ patternDigest q e = some d) ∧
    (∃ d x q e, ∃ (s : State), s.rst.aonOk = true ∧ openSpans s ≠ [] ∧ s.test.run = none ∧ stewardUp s = true
      ∧ pickPair (s.test.pairs.filter (mayStart s)) = some x ∧ pairEntry x s = some (q, e) ∧ patternDigest q e ≠ some d) ∧
    (∃ (w : Nat) (s : State), s.rst.aonOk = true ∧ openSpans s = [] ∧ nextWindow s = some w) ∧
    (∃ g, ∃ (s : State), s.rst.aonOk = true ∧ timeValid s = true ∧ (s.test.grants.find? fun g => g.ends.isNone) = some g) ∧
    (∃ g, ∃ (s : State), s.rst.aonOk = true ∧ (s.test.grants.find? fun g => g.ends.isSome) = some g) ∧
    (∃ d u, ∃ (s : State), s.rst.aonOk = true ∧ s.test.run = some u ∧ d = u.entry.expect) ∧
    (∃ d u, ∃ (s : State), s.rst.aonOk = true ∧ s.test.run = some u ∧ d ≠ u.entry.expect) ∧
    (∃ u, ∃ (s : State), s.rst.aonOk = true ∧ s.test.run = some u) ∧
    (∃ u, ∃ (s : State), s.rst.aonOk = true ∧ s.test.run = some u) ∧
    (∃ (p : Nat) (k : Nat) (u : Nat), ∃ x q e, ∃ (s : State), s.rst.aonOk = true ∧ stewardUp s = true ∧ x.overdue = false
      ∧ (s.test.pairs.find? fun x => x.pkgId == p && x.testId == k && x.unit == u) = some x ∧ pairEntry x s = some (q, e)) ∧
    (∃ (p : Nat) (k : Nat) (u : Nat), ∃ pd x q e, ∃ (s : State), s.rst.aonOk = true ∧ stewardUp s = true
      ∧ (s.test.pairs.find? fun x => x.pkgId == p && x.testId == k && x.unit == u) = some x ∧ pairEntry x s = some (q, e)
      ∧ e.tkind ≠ 1 ∧ x.due ≤ s.time.timer ∧ p ∉ s.test.disabled ∧ (e.tkind, u) ∉ s.pwr.culDeSac
      ∧ engineUp (cdsDomain e.tkind u) s = true ∧ patternDigest q e = some pd) ∧
    (∃ (p : Nat) (k : Nat) (u : Nat), ∃ pd d x q e, ∃ (s : State), s.rst.aonOk = true ∧ stewardUp s = true
      ∧ (s.test.pairs.find? fun x => x.pkgId == p && x.testId == k && x.unit == u) = some x ∧ pairEntry x s = some (q, e)
      ∧ e.tkind ≠ 1 ∧ x.due ≤ s.time.timer ∧ p ∉ s.test.disabled ∧ (e.tkind, u) ∉ s.pwr.culDeSac
      ∧ engineUp (cdsDomain e.tkind u) s = true ∧ patternDigest q e = some pd ∧ d ≠ e.expect) ∧
    (∃ (k : Nat) (i : Nat) (s : State), s.rst.aonOk = true ∧ hasResource k s = true ∧ (k, i) ∉ s.pwr.culDeSac) ∧
    (∃ (k : Nat) (i : Nat) (s : State), s.rst.aonOk = true ∧ ((k, i) ∈ s.pwr.culDeSac ∨ hasResource k s = false)) ∧
    (∃ (k : Nat) (i : Nat) (s : State), s.rst.aonOk = true ∧ ((k, i) ∈ s.pwr.culDeSac ∨ hasResource k s = false)) :=
  ⟨⟨5#64, pair0, pkg0, test0, testLeaf pkg0 pair0 none, by decide⟩,
   ⟨6#64, pair0, pkg0, test0, testLeaf pkg0 pair0 none, by decide⟩,
   ⟨1000500000, { testLeaf pkg0 pair0 none with conf := { leaf.conf with active := some { image := quietCal, anchor := 999000000 } } }, by decide⟩,
   ⟨grant0, { leaf with test := { leaf.test with grants := [grant0] } }, by decide⟩,
   ⟨begun, testLeaf pkg0 pair0 none, by decide⟩,
   ⟨630#64, run0, testLeaf pkg0 pair0 (some run0), by decide⟩,
   ⟨631#64, run0, testLeaf pkg0 pair0 (some run0), by decide⟩,
   ⟨run0, testLeaf pkg0 pair0 (some run0), by decide⟩,
   ⟨run0, testLeaf pkg0 pair0 (some run0), by decide⟩,
   ⟨6, 2, 255, pair0, pkg0, test0, testLeaf pkg0 pair0 none, by decide⟩,
   ⟨6, 2, 3, 5#64, { pair0 with unit := 3 }, pkgB, block0, testLeaf pkgB { pair0 with unit := 3 } none, by decide⟩,
   ⟨6, 2, 3, 5#64, 631#64, { pair0 with unit := 3 }, pkgB, block0, testLeaf pkgB { pair0 with unit := 3 } none, by decide⟩,
   ⟨3, 2, leaf, by decide⟩,
   ⟨3, 2, cdsLeaf, by decide⟩,
   ⟨5, 2, leaf, by decide⟩⟩

def src0 : Source := { Source.idle with config := 0x3C9#32, startDue := true }
def pkt0 : TracePkt := { ptype := 2, delta := 0, priv := 0, skind := 0, partition := 0, info := 0, source := 63, cls := 0, count := 0, data := 7, ft := 900000000 }
def trcLeaf : State := { leaf with trc := { leaf.trc with
  sources := [(63, { src0 with openPkts := [pkt0], openSince := 999999999 })], grants := [{ id := 4, mask := 0xFFFFFFFFFFFFFFFF#64, levels := 2#8, ends := 2000000000 }], nextGrant := 5 } }
def tenTrc : State := { leaf with trc := { leaf.trc with sources := [(5, { src0 with config := 0x1449#32 })] }, stw := { leaf.stw with windows := [(20, (0x10000, 0x100000))] } }

/-- The hypotheses of each clause of `TraceUplinkCommandsComplete` are met. -/
theorem witness_TraceUplinkCommandsComplete :
    (∃ (r : Req) (n : Nat) (config : Word32) (s : State),
      let c : Cmd := { code := 0x0B01, allow := { t := true }, only := .leaf }; Taken c r s ∧ engineUp 9 s = true
      ∧ n < 64 ∧ trcFormOk config = true ∧ ((isTenant r.issuer = true →
      trcPartition (sourceOf n s).config = issuerPart r.issuer
      ∧ trcPartition config = trcPartition (sourceOf n s).config)) ∧ (trcPrivileged config = true → trcPartition config = 0)) ∧
    (∃ (r : Req) (n : Nat) (config : Word32) (s : State),
      let c : Cmd := { code := 0x0B01, allow := { t := true }, only := .leaf }; Taken c r s ∧ engineUp 9 s = true
      ∧ n < 64 ∧ trcFormOk config = true ∧ ((isTenant r.issuer = true →
      trcPartition (sourceOf n s).config = issuerPart r.issuer
      ∧ trcPartition config = trcPartition (sourceOf n s).config)) ∧ (trcPrivileged config = true → trcPartition config = 0)) ∧
    (∃ (r : Req) (levels : BitVec 8) (lenS : Nat) (s : State),
      let c : Cmd := { code := 0x0B02, allow := {}, only := .leaf }; Taken c r s ∧ levels &&& 0xF1#8 = 0#8 ∧ 1 ≤ lenS
      ∧ lenS ≤ 3600 ∧ s.trc.grants.length < 4) ∧
    (∃ (r : Req) (id : Nat) (s : State), let c : Cmd := { code := 0x0B03, allow := {} }; Taken c r s ∧ (∃ g ∈ s.trc.grants,
      g.id = id)) ∧
    (∃ (r : Req) (s : State), let c : Cmd := { code := 0x0B04, allow := { t := true } }; Taken c r s ∧ engineUp 9 s = true) ∧
    (∃ (r : Req) (chain : Nat), ∃ desc, ∃ (s : State), let c : Cmd := { code := 0x0B05, allow := { t := true } };
      Taken c r s ∧ engineUp 9 s = true ∧ chain ≤ 15 ∧ descOk (issuerPart r.issuer) desc s = true ∧ (∀ x,
      chainFind 0 chain s = some x → isTenant r.issuer = true → x.2.partition = issuerPart r.issuer)) ∧
    (∃ (r : Req) (n : Nat) (s : State), let c : Cmd := { code := 0x0B07, allow := { s := true, t := true } }; Taken c r s
      ∧ engineUp 9 s = true ∧ n < 64 ∧ ((isTenant r.issuer = true →
      trcPartition (sourceOf n s).config = issuerPart r.issuer))) ∧
    (∃ (r : Req) (n : Nat) (s : State), let c : Cmd := { code := 0x0B07, allow := { s := true, t := true } }; Taken c r s
      ∧ engineUp 9 s = true ∧ n < 64 ∧ ((isTenant r.issuer = true →
      trcPartition (sourceOf n s).config = issuerPart r.issuer))) ∧
    (∃ (r : Req) (cls : Nat) (quantum : Nat) (s : State),
      let c : Cmd := { code := 0x0C01, allow := {}, relayable := true }; Taken c r s ∧ engineUp 10 s = true ∧ 1 ≤ cls
      ∧ cls ≤ 4 ∧ 4096 ≤ quantum ∧ quantum ≤ 1048576) ∧
    (∃ (r : Req) (port : Nat) (rate : Nat) (len : Nat) (margin : Nat) (s : State),
      let c : Cmd := { code := 0x0C02, allow := {} }; Taken c r s ∧ engineUp 10 s = true ∧ port ≤ 11 ∧ rate ≤ 10000
      ∧ (1 ≤ rate ∨ len = 0) ∧ margin ≤ 1000 ∧ marginFits margin s = true) ∧
    (∃ (r : Req) (cls : Nat) (s : State), let c : Cmd := { code := 0x0C03, allow := { s := true } }; Taken c r s
      ∧ engineUp 10 s = true ∧ 1 ≤ cls ∧ cls ≤ 4) :=
  ⟨⟨req, 63, 0x3C9#32, trcLeaf, taken_of (by decide), by decide⟩,
   ⟨tenReq, 5, 0x1469#32, tenTrc, taken_of (by decide), by decide⟩,
   ⟨req, 0x0E#8, 3600, trcLeaf, taken_of (by decide), by decide⟩,
   ⟨req, 4, trcLeaf, taken_of (by decide), ⟨{ id := 4, mask := 0xFFFFFFFFFFFFFFFF#64, levels := 2#8, ends := 2000000000 },
     by decide⟩⟩,
   ⟨req, trcLeaf, taken_of (by decide), by decide⟩,
   ⟨req, 15, desc0, trcLeaf, taken_of (by decide), by decide, by decide, by decide,
     fun x h => nomatch (h : (none : Option (Nat × Chain)) = some x)⟩,
   ⟨req, 63, trcLeaf, taken_of (by decide), by decide⟩,
   ⟨tenReq, 5, tenTrc, taken_of (by decide), by decide⟩,
   ⟨req, 4, 1048576, leaf, taken_of (by decide), by decide⟩,
   ⟨req, 11, 10000, 100, 1000, leaf, taken_of (by decide), by decide⟩,
   ⟨req, 4, leaf, taken_of (by decide), by decide⟩⟩

def lanePkt : TrcPacket := { zTrcPacket with front := 7, channel := 7, data := 9, cycle := 40 }
def front0 : FrontPkt := { zFrontPkt with packet := lanePkt, ft := 999999990 }
def fullTrc : State := { trcLeaf with trc := { trcLeaf.trc with fronts := [(7, List.replicate 512 front0)] } }
def laneTrc : State := { trcLeaf with trc := { trcLeaf.trc with fronts := [(7, [front0])] } }

/-- The hypotheses of each clause of `TraceEventsComplete` are met. -/
theorem witness_TraceEventsComplete :
    (∃ p, ∃ (s : State), s.rst.aonOk = true ∧ trcFrontsOn s = true ∧ p.front < 8 ∧ p.channel < 8
      ∧ mayAdmit (8 * p.front + p.channel) p s = false) ∧
    (∃ p, ∃ (s : State), s.rst.aonOk = true ∧ trcFrontsOn s = true ∧ p.front < 8 ∧ p.channel < 8
      ∧ mayAdmit (8 * p.front + p.channel) p s = true
      ∧ (frontQueue p.front s).length < (4 - trcClass (sourceOf (8 * p.front + p.channel) s).config) * 128) ∧
    (∃ p, ∃ (s : State), s.rst.aonOk = true ∧ trcFrontsOn s = true ∧ p.front < 8 ∧ p.channel < 8
      ∧ mayAdmit (8 * p.front + p.channel) p s = true
      ∧ (frontQueue p.front s).length < (4 - trcClass (sourceOf (8 * p.front + p.channel) s).config) * 128) ∧
    (∃ p, ∃ (s : State), s.rst.aonOk = true ∧ trcFrontsOn s = true ∧ p.front < 8 ∧ p.channel < 8
      ∧ mayAdmit (8 * p.front + p.channel) p s = true
      ∧ (4 - trcClass (sourceOf (8 * p.front + p.channel) s).config) * 128 ≤ (frontQueue p.front s).length) ∧
    (∃ (front : Nat), ∃ e, ∃ (rest : List FrontPkt) (n : Nat) (s : State), s.rst.aonOk = true ∧ engineUp 9 s = true
      ∧ tabWf [] s.trc.fronts = true ∧ frontQueue front s = e :: rest ∧ n = 8 * e.packet.front + e.packet.channel
      ∧ (sourceOf n s).openPkts.length + (streamPackets n e (sourceOf n s)).length < 16) ∧
    (∃ (n : Nat) (s : State), s.rst.aonOk = true ∧ engineUp 9 s = true ∧ (sourceOf n s).openPkts ≠ []) ∧
    (∃ (id : Nat), ∃ g, ∃ (s : State), s.rst.aonOk = true ∧ (s.trc.grants.find? fun g => g.id == id) = some g) :=
  ⟨⟨{ lanePkt with priv := 2 }, trcLeaf, by decide⟩,
   ⟨{ lanePkt with priv := 1 }, trcLeaf, by decide⟩,
   ⟨lanePkt, laneTrc, by decide⟩,
   ⟨lanePkt, fullTrc, by decide⟩,
   ⟨7, front0, [], 63, laneTrc, by decide⟩,
   ⟨63, trcLeaf, by decide⟩,
   ⟨4, { id := 4, mask := 0xFFFFFFFFFFFFFFFF#64, levels := 2#8, ends := 2000000000 }, trcLeaf, by decide⟩⟩

def gate0 : Gate := { zGate with start := 999000000, ends := 1001000000, rate := 1000, port := 3, cls := 1 }
def upPkt (p : Packet) : Packet := { p with src := 0, dst := 0x40000, bytes := 64 }
def pkA : Packet := upPkt { zPacket with cls := 5, first := true, last := true }
def qA : QueuedPacket := { packet := pkA, carries := none }
def okPkt (p : Packet) : Packet := { p with hdrCrc := packetCrc p }
def gated (u : Uplink) : State := { leaf with upl := { u with gate := some gate0, ctlLeft := 64 }, place := { leaf.place with parent := some 0x40000 } }
def ledgerUp : State := gated { leaf.upl with
  queues := [(1, [{ packet := { pkA with cls := 1 }, carries := none }])], classes := [(1, { UplClass.zero with credit := 64, quantum := 4096 })] }
def gateCal : CalImage := { zCalImage with job := 7, step := 1000000, steps := 10, gateSections := [{ zGateSection with port := 3, rate := 1000, gates := [(100000, 50000)] }] }

/-- The hypotheses of each clause of `PortEventsComplete` are met. -/
theorem witness_PortEventsComplete :
    (∃ (st : Nat) (en : Nat) (rate : Nat) (port : Nat) (s : State), s.rst.aonOk = true ∧ s.upl.gate = none
      ∧ timeValid s = true ∧ uplinkUp s = true ∧ upcomingGate s = some (st, en, rate, port)) ∧
    (∃ g p m, ∃ (k : Nat) (rest : List (Packet × AdoptMsg × Nat)) (s : State), s.rst.aonOk = true ∧ s.upl.gate = some g
      ∧ mayInject g s = true ∧ s.upl.adoption = (p, m, k) :: rest ∧ p.bytes ≤ s.upl.ctlLeft) ∧
    (∃ g p, ∃ (rest : List QueuedPacket) (s : State), s.rst.aonOk = true ∧ s.upl.gate = some g ∧ mayInject g s = true
      ∧ s.upl.adoption = [] ∧ s.upl.control = p :: rest ∧ p.packet.bytes ≤ s.upl.ctlLeft) ∧
    (∃ g, ∃ (c : Nat), ∃ u p, ∃ (s : State), s.rst.aonOk = true ∧ s.upl.gate = some g ∧ mayInject g s = true
      ∧ s.upl.adoption = [] ∧ s.upl.control = [] ∧ tabWf UplClass.zero u.upl.classes = true ∧ roundabout 9 s = (some c,
      u) ∧ headOf c u = some p) ∧
    (∃ g u, ∃ (s : State), s.rst.aonOk = true ∧ s.upl.gate = some g ∧ mayInject g s = true ∧ s.upl.adoption = []
      ∧ s.upl.control = [] ∧ roundabout 9 s = (none, u)) ∧
    (∃ g, ∃ (s : State), s.rst.aonOk = true ∧ s.upl.gate = some g ∧ timeValid s = true) ∧
    (∃ g, ∃ (s : State), s.rst.aonOk = true ∧ s.upl.gate = some g ∧ timeValid s = true) ∧
    (∃ a, ∃ (rest : List AlertEntry) (s : State), s.rst.aonOk = true ∧ s.upl.byp = a :: rest ∧ s.pwr.parked = false
      ∧ s.rst.active = false ∧ s.upl.bypSent < Config.bypLimit s.fuse.plaza) ∧
    (∃ p, ∃ (s : State), s.rst.aonOk = true ∧ s.pwr.parked = false ∧ s.rst.active = false ∧ p.hdrCrc ≠ packetCrc p) ∧
    (∃ p, ∃ (s : State), s.rst.aonOk = true ∧ s.pwr.parked = false ∧ s.rst.active = false ∧ p.hdrCrc = packetCrc p) ∧
    (∃ p, ∃ (s : State), s.rst.aonOk = true ∧ s.pwr.parked = false ∧ s.rst.active = false ∧ p.hdrCrc = packetCrc p) :=
  ⟨⟨1000100000, 1000150000, 1000, 3,
    { leaf with conf := { leaf.conf with active := some { image := gateCal, anchor := 999000000 } } }, by decide⟩,
   ⟨gate0, pkA, zAdoptMsg, 1, [], gated { leaf.upl with adoption := [(pkA, zAdoptMsg, 1)] }, by decide⟩,
   ⟨gate0, qA, [], gated { leaf.upl with control := [qA] }, by decide⟩,
   ⟨gate0, 1, (roundabout 9 ledgerUp).2, { pkA with cls := 1 }, ledgerUp, by decide⟩,
   ⟨gate0, (roundabout 9 (gated leaf.upl)).2, gated leaf.upl, by decide⟩,
   ⟨gate0, gated leaf.upl, by decide⟩,
   ⟨gate0, gated leaf.upl, by decide⟩,
   ⟨.report zReport, [], gated { leaf.upl with byp := [.report zReport] }, by decide⟩,
   ⟨{ pkA with hdrCrc := packetCrc pkA + 1 }, leaf, by decide⟩,
   ⟨okPkt pkA, leaf, by decide⟩,
   ⟨okPkt { pkA with cseq := 3, src := 0x40000, dst := 0 }, leaf, by decide⟩⟩

def trialLeaf : State := { leaf with stw := { leaf.stw with trialEnd := some 600000000000, running := some { fwImage with raiseSvn := true } } }
def dumpedChip : State := { chip with arc := { chip.arc with segments := [{ zSegment with log := 3, entries := [{ bytes := 96, source := 4, arrival := 0, lateAfterFinal := false, mismatch := false, foreign := false, hosted := false, produced := false, holes := false, data := .dump { zDump with source := 4, reqFt := 900000000, entries := [{ zDumpEntry with domain := 3, object := 1 }] } }] }] } }

/-- The hypotheses of each clause of `PowerDumpCommandsComplete` are met. -/
theorem witness_PowerDumpCommandsComplete :
    (∃ (r : Req) (s : State), let c : Cmd := { code := 0x0D01, allow := { s := true } }; Taken c r s) ∧
    (∃ (r : Req) (d : Nat) (st : Nat) (s : State), let c : Cmd := { code := 0x0D02, allow := {} }; Taken c r s ∧ 2 ≤ d
      ∧ d ≤ 29 ∧ d ≠ 13 ∧ st ≤ 1 ∧ neverPowered d s = false ∧ ((st = 1 → ¬ (14 ≤ d ∧ (2, d - 14) ∈ s.pwr.culDeSac)))
      ∧ domainBusy d s = false ∧ s.pwr.on.getLsbD d = (st == 1)) ∧
    (∃ (r : Req) (d : Nat) (st : Nat) (s : State), let c : Cmd := { code := 0x0D02, allow := {} }; Taken c r s ∧ 2 ≤ d
      ∧ d ≤ 29 ∧ d ≠ 13 ∧ st ≤ 1 ∧ neverPowered d s = false ∧ ((st = 1 → ¬ (14 ≤ d ∧ (2, d - 14) ∈ s.pwr.culDeSac)))
      ∧ domainBusy d s = false ∧ s.pwr.on.getLsbD d = (st == 1)) ∧
    (∃ (r : Req) (d : Nat) (st : Nat) (s : State), let c : Cmd := { code := 0x0D02, allow := {} }; Taken c r s ∧ 2 ≤ d
      ∧ d ≤ 29 ∧ d ≠ 13 ∧ st ≤ 1 ∧ neverPowered d s = false ∧ ((st = 1 → ¬ (14 ≤ d ∧ (2, d - 14) ∈ s.pwr.culDeSac)))
      ∧ domainBusy d s = false ∧ s.pwr.on.getLsbD d ≠ (st == 1)) ∧
    (∃ (r : Req) (d : Nat) (st : Nat) (s : State), let c : Cmd := { code := 0x0D02, allow := {} }; Taken c r s ∧ 2 ≤ d
      ∧ d ≤ 29 ∧ d ≠ 13 ∧ st ≤ 1 ∧ neverPowered d s = false ∧ ((st = 1 → ¬ (14 ≤ d ∧ (2, d - 14) ∈ s.pwr.culDeSac)))
      ∧ domainBusy d s = false ∧ s.pwr.on.getLsbD d ≠ (st == 1)) ∧
    (∃ (r : Req) (d : Nat) (s : State), let c : Cmd := { code := 0x0D03, allow := {} }; Taken c r s ∧ 2 ≤ d ∧ d ≤ 12
      ∧ neverPowered d s = false ∧ s.pwr.on.getLsbD d = true ∧ (∀ x ∈ s.pwr.settling, x.1 ≠ d) ∧ ((∀ q ∈ s.pwr.quiescing,
      ¬ (q.1 = d ∧ q.2.1 = .off)))) ∧
    (∃ (r : Req) (s : State), let c : Cmd := { code := 0x0D04, allow := {} }; Taken c r s) ∧
    (∃ (r : Req) (s : State), let c : Cmd := { code := 0x0D05, allow := { s := true } }; Taken c r s) ∧
    (∃ (r : Req) (desc : Desc) (dest : BitVec 8) (at_ : Nat) (s : State),
      let c : Cmd := { code := 0x0E01, allow := { s := true }, relayable := true }; Taken c r s ∧ 1 ≤ dest.toNat
      ∧ dest.toNat ≤ 3 ∧ (r.relay = true → dest = 2#8) ∧ (at_ = 0 ∨ s.time.ft ≤ at_) ∧ ((dest.getLsbD 0 = true →
      descOk (issuerPart r.issuer) desc s = true))) ∧
    (∃ (r : Req) (desc : Desc) (at_ : Nat), ∃ u g, ∃ (s : State),
      let c : Cmd := { code := 0x0E02, allow := {}, only := .plaza }; Taken c r s ∧ dumpsNear at_ s ≠ []
      ∧ descOk (issuerPart r.issuer) desc s = true ∧ u = { s with free := s.free + 1 }
      ∧ g = buildGraph (dumpsNear at_ s) at_ (Config.fresh s.free) u) ∧
    (∃ (r : Req) (region : Nat) (s : State), let c : Cmd := { code := 0x0F01, allow := { s := true } }; Taken c r s
      ∧ region ≤ 3) ∧
    (∃ (r : Req) (region : Nat), ∃ desc, ∃ (s : State), let c : Cmd := { code := 0x0F01, allow := { s := true } };
      Taken c r s ∧ region ≤ 3 ∧ descOk (issuerPart r.issuer) desc s = true) ∧
    (∃ (r : Req) (s : State), let c : Cmd := { code := 0x0F02, allow := {} }; Taken c r s ∧ s.exhausted = true) ∧
    (∃ r desc image, ∃ (at_ : Nat) (s : State), let c : Cmd := { code := 0x0F03, allow := {} }; Taken c r s
      ∧ s.stw.trialEnd = none ∧ descOk (issuerPart r.issuer) desc s = true ∧ s.time.ft + 10000000 ≤ at_
      ∧ imageReject image s = none) ∧
    (∃ (r : Req) (e : Nat), ∃ img, ∃ (s : State), let c : Cmd := { code := 0x0F04, allow := {} }; Taken c r s
      ∧ s.stw.trialEnd = some e ∧ s.stw.running = some img) ∧
    (∃ (r : Req) (s : State), let c : Cmd := { code := 0x0F05, allow := { s := true } }; Taken c r s) :=
  ⟨⟨req, leaf, taken_of (by decide)⟩,
   ⟨req, 29, 1, leaf, taken_of (by decide), by decide⟩,
   ⟨req, 2, 1, leaf, taken_of (by decide), by decide⟩,
   ⟨req, 29, 0, leaf, taken_of (by decide), by decide⟩,
   ⟨req, 3, 0, leaf, taken_of (by decide), by decide⟩,
   ⟨req, 12, leaf, taken_of (by decide), by decide⟩,
   ⟨req, leaf, taken_of (by decide)⟩,
   ⟨req, leaf, taken_of (by decide)⟩,
   ⟨req, desc0, 3#8, 0, leaf, taken_of (by decide), by decide⟩,
   ⟨req, desc0, 900100000, { dumpedChip with free := dumpedChip.free + 1 },
     buildGraph (dumpsNear 900100000 dumpedChip) 900100000 (Config.fresh dumpedChip.free) { dumpedChip with free := dumpedChip.free + 1 }, dumpedChip, taken_of (by decide), by decide⟩,
   ⟨req, 3, leaf, taken_of (by decide), by decide⟩,
   ⟨req, 3, desc0, leaf, taken_of (by decide), by decide⟩,
   ⟨req, { leaf with exhausted := true }, taken_of (by decide), by decide⟩,
   ⟨req, desc0, { fwImage with sig := { zSigBlock with usage := 1, ecdsaOk := true, tagOk := true, svn := 1 } },
     1010000000, { leaf with fuse := keyed0 }, taken_of (by decide), by decide⟩,
   ⟨req, 600000000000, { fwImage with raiseSvn := true }, trialLeaf, taken_of (by decide), by decide⟩,
   ⟨req, trialLeaf, taken_of (by decide)⟩⟩

def askedLeaf (k : Nat) : State := { leaf with dump := { leaf.dump with pending := [{ trigger := k, reqFt := 900000000, dest := 0, desc := none }], lastAuto := none } }

/-- The hypotheses of each clause of `DumpFirmwareEventsComplete` are met. -/
theorem witness_DumpFirmwareEventsComplete :
    (∃ (k : Nat), ∃ q, ∃ (s : State), s.rst.aonOk = true ∧ s.dump.awaiting = []
      ∧ (s.dump.pending.find? fun x => x.trigger == k) = some q ∧ q.reqFt ≤ s.time.ft ∧ s.pwr.parked = false
      ∧ (∀ x ∈ s.dump.pending, 3 ≤ x.trigger)) ∧
    (∃ (k : Nat), ∃ q, ∃ (s : State), s.rst.aonOk = true ∧ s.dump.awaiting = []
      ∧ (s.dump.pending.find? fun x => x.trigger == k) = some q ∧ q.reqFt ≤ s.time.ft ∧ s.pwr.parked = false ∧ k ≤ 2) ∧
    (∃ (s : State), s.rst.aonOk = true ∧ s.pwr.parked = false ∧ autoAccepted s = true) ∧
    (∃ (s : State), s.rst.aonOk = true ∧ s.pwr.parked = false ∧ autoAccepted s = false) ∧
    (∃ img, ∃ (at_ : Nat) (s : State), s.rst.aonOk = true ∧ timeValid s = true ∧ s.stw.staged = some (img, at_)) ∧
    (∃ (e : Nat) (s : State), s.rst.aonOk = true ∧ s.stw.trialEnd = some e) ∧
    (∃ (e : Nat) (s : State), s.rst.aonOk = true ∧ s.hrw.dbgOpen = some e) :=
  ⟨⟨3, { trigger := 3, reqFt := 900000000, dest := 0, desc := none }, askedLeaf 3, by decide⟩,
   ⟨1, { trigger := 1, reqFt := 900000000, dest := 0, desc := none }, askedLeaf 1, by decide⟩,
   ⟨leaf, by decide⟩,
   ⟨{ leaf with dump := { leaf.dump with lastAuto := some 999999999 } }, by decide⟩,
   ⟨fwImage, 1010000000, { leaf with stw := { leaf.stw with staged := some (fwImage, 1010000000) } }, by decide⟩,
   ⟨600000000000, trialLeaf, by decide⟩,
   ⟨5, { leaf with hrw := { leaf.hrw with dbgOpen := some 5 } }, by decide⟩⟩

def pmLeaf (x : PmSlot) : State := { leaf with hrw := { leaf.hrw with pm := [(3, x)] } }
def msg0 : Msg := rspMsg 0x0202 4 Config.ok true [] []
def manyDoorbells : State := { leaf with stw := { leaf.stw with doorbells := List.replicate 256 { partition := 5, value := 1#64, session := handleOf 3 7 } } }
def parkedLeaf : State := { leaf with pwr := { leaf.pwr with parked := true } }
def noImage : State := { leaf with stw := { leaf.stw with running := none } }

/-- The hypotheses of each clause of `RegisterAccessesComplete` are met. -/
theorem witness_RegisterAccessesComplete :
    (∃ (n : Nat) (priv : Nat) (v : Word32) (s : State), s.rst.aonOk = true ∧ hrwUp s = true ∧ priv ≠ 0
      ∧ v.getLsbD 0 = true ∧ (tget PmSlot.idle n s.hrw.pm).busy = false) ∧
    (∃ (n : Nat) (priv : Nat) (v : Word32) (s : State), s.rst.aonOk = true ∧ hrwUp s = true ∧ priv ≠ 0
      ∧ v.getLsbD 0 = true ∧ (tget PmSlot.idle n s.hrw.pm).busy = true) ∧
    (∃ (n : Nat) (priv : Nat) (v : Word32) (s : State), s.rst.aonOk = true ∧ hrwUp s = true ∧ priv ≠ 0
      ∧ v.getLsbD 1 = true ∧ tabWf PmSlot.idle s.hrw.pm = true ∧ (tget PmSlot.idle n s.hrw.pm).done = true
      ∧ (tget PmSlot.idle n s.hrw.pm).held = []) ∧
    (∃ (n : Nat) (priv : Nat) (v : Word32), ∃ m, ∃ (rest : List Msg) (s : State), s.rst.aonOk = true ∧ hrwUp s = true
      ∧ priv ≠ 0 ∧ v.getLsbD 1 = true ∧ (tget PmSlot.idle n s.hrw.pm).done = true
      ∧ (tget PmSlot.idle n s.hrw.pm).held = m :: rest) ∧
    (∃ (v : Word64) (s : State), s.rst.aonOk = true ∧ hrwUp s = true ∧ v.toNat % 4 < 2 ∧ s.stw.doorbells.length < 256) ∧
    (∃ (v : Word64) (s : State), s.rst.aonOk = true ∧ hrwUp s = true ∧ v.toNat % 4 < 2 ∧ 256 ≤ s.stw.doorbells.length) ∧
    (∃ (s : State), s.rst.aonOk = true ∧ (hrwUp s = true ∨ s.pwr.parked = true)) ∧
    (∃ (s : State), s.rst.aonOk = true ∧ (hrwUp s = true ∨ s.pwr.parked = true)) ∧
    (∃ (priv : Nat) (s : State), s.rst.aonOk = true ∧ hrwUp s = true ∧ priv ≠ 0) ∧
    (∃ (priv : Nat) (v : Word32) (s : State), s.rst.aonOk = true ∧ s.pwr.parked = true ∧ priv ≠ 0 ∧ v.getLsbD 0 = true
      ∧ s.pwr.parking = none ∧ s.pwr.waking = none ∧ s.rst.coreOk = true) ∧
    (∃ (priv : Nat) (v : Word32) (d : Nat) (s : State), s.rst.aonOk = true ∧ hrwUp s = true ∧ priv ≠ 0 ∧ 2 ≤ d ∧ d ≤ 12
      ∧ v.getLsbD d = true ∧ s.pwr.on.getLsbD d = true ∧ s.hrw.engRst.getLsbD d = false ∧ (∀ q ∈ s.pwr.quiescing,
      q.1 ≠ d) ∧ (∀ q ∈ s.pwr.releasing, q.1 ≠ d)) ∧
    (∃ (priv : Nat) (v : Word32) (s : State), s.rst.aonOk = true ∧ hrwUp s = true ∧ priv ≠ 0 ∧ v.getLsbD 0 = true
      ∧ s.stw.running = none) ∧
    (∃ (priv : Nat) (s : State), s.rst.aonOk = true ∧ hrwUp s = true ∧ priv ≠ 0) ∧
    (∃ (n : Nat) (priv : Nat) (s : State), s.rst.aonOk = true ∧ hrwUp s = true ∧ priv ≠ 0 ∧ n < 4) ∧
    (∃ (priv : Nat) (s : State), s.rst.aonOk = true ∧ hrwUp s = true ∧ priv ≠ 0) ∧
    (∃ (n : Nat), n < 4) ∧
    (∃ (n : Nat) (o : Nat) (i : Nat) (b : Byte) (priv : Nat) (v : Word32) (s : State), s.rst.aonOk = true
      ∧ hrwUp s = true ∧ priv ≠ 0 ∧ n < 4 ∧ o < 0x80 ∧ tabWf PmSlot.idle s.hrw.pm = true
      ∧ tabWf 0 (tget PmSlot.idle n s.hrw.pm).req = true ∧ (tget PmSlot.idle n s.hrw.pm).busy = false
      ∧ (bytesOf v.toNat 4)[i]? = some b) :=
  ⟨⟨3, 1, 1#32, leaf, by decide⟩,
   ⟨3, 3, 1#32, pmLeaf { PmSlot.idle with busy := true }, by decide⟩,
   ⟨3, 1, 2#32, pmLeaf { PmSlot.idle with done := true, rsp := some msg0 }, by decide⟩,
   ⟨3, 1, 2#32, msg0, [], pmLeaf { PmSlot.idle with done := true, held := [msg0] }, by decide⟩,
   ⟨0x100000#64, leaf, by decide⟩,
   ⟨0x100000#64, manyDoorbells, by decide⟩,
   ⟨leaf, by decide⟩,
   ⟨parkedLeaf, by decide⟩,
   ⟨1, leaf, by decide⟩,
   ⟨1, 1#32, parkedLeaf, by decide⟩,
   ⟨1, 0x1000#32, 12, leaf, by decide⟩,
   ⟨1, 1#32, noImage, by decide⟩,
   ⟨1, leaf, by decide⟩,
   ⟨3, 1, leaf, by decide⟩,
   ⟨1, leaf, by decide⟩,
   ⟨3, by decide⟩,
   ⟨3, 127, 0, 0xF0#8, 1, 0x12F0#32, leaf, by decide⟩⟩

def sbiLeaf : State := { leaf with sbi := { leaf.sbi with responses := [msg0], alerts := [zReport] } }
def alertLeaf : State := { sbiLeaf with sbi := { sbiLeaf.sbi with alertSelected := true } }

/-- The hypotheses of each clause of `SidebandCommandsComplete` are met. -/
theorem witness_SidebandCommandsComplete :
    (∃ (s : State), s.rst.aonOk = true) ∧
    (∃ (s : State), s.rst.aonOk = true) ∧
    (∃ (s : State), s.rst.aonOk = true ∧ s.stw.running = none) ∧
    (∃ m, ∃ (rest : List Msg) (s : State), s.rst.aonOk = true ∧ s.sbi.alertSelected = false ∧ s.sbi.responses = m :: rest) ∧
    (∃ a, ∃ (rest : List Report) (s : State), s.rst.aonOk = true ∧ s.sbi.alertSelected = true ∧ s.sbi.alerts = a :: rest) ∧
    (∃ (s : State), s.rst.aonOk = true ∧ if s.sbi.alertSelected then s.sbi.alerts = [] else s.sbi.responses = []) ∧
    (∃ (a : Nat) (s : State), s.rst.aonOk = true ∧ s.sbi.addr = none ∧ a < 128) ∧
    (∃ (s : State), s.rst.aonOk = true) ∧
    (∃ (s : State), s.rst.aonOk = true) ∧
    (∃ (s : State), s.rst.aonOk = true) :=
  ⟨⟨leaf, by decide⟩,
   ⟨sbiLeaf, by decide⟩,
   ⟨noImage, by decide⟩,
   ⟨msg0, [], sbiLeaf, by decide⟩,
   ⟨zReport, [], alertLeaf, by decide⟩,
   ⟨leaf, by decide⟩,
   ⟨127, leaf, by decide⟩,
   ⟨leaf, by decide⟩,
   ⟨leaf, by decide⟩,
   ⟨leaf, by decide⟩⟩

def quietLeaf : State := { leaf with pwr := { leaf.pwr with isolated := [3] } }

/-- The hypotheses of each clause of `TestPortCommandsComplete` are met. -/
theorem witness_TestPortCommandsComplete :
    (∃ (s : State), s.rst.aonOk = true ∧ s.fuse.plaza = true) ∧
    (∃ (code : Nat) (s : State), s.rst.aonOk = true ∧ s.fuse.plaza = true ∧ code < 256 ∧ code ∉ [0x00, 0x01, 0x02, 0x03,
      0x04, 0x20]) ∧
    (∃ (s : State), s.fuse.plaza = false) ∧
    (∃ (d : Nat) (i : Instrument) (s : State), s.rst.aonOk = true ∧ d ≤ 29 ∧ (i = .status ∨ i = .counts) ∧ mayRead s = true) ∧
    (∃ (d : Nat) (s : State), s.rst.aonOk = true ∧ d ≤ 29 ∧ mayDebug s = true) ∧
    (∃ (d : Nat) (s : State), s.rst.aonOk = true ∧ mayTest s = true ∧ readyForTest d s = true) ∧
    (∃ (d : Nat) (s : State), s.rst.aonOk = true ∧ mayTest s = true ∧ readyForTest d s = false) ∧
    (∃ (s : State), s.rst.aonOk = true ∧ mayTrigger s = true ∧ autoAccepted s = true) ∧
    (∃ (s : State), s.rst.aonOk = true ∧ mayDebug s = true ∧ s.nv.pulse = true) ∧
    (∃ (s : State), s.rst.aonOk = true ∧ mayDebug s = true ∧ s.nv.pulse = false) :=
  ⟨⟨chip, by decide⟩,
   ⟨255, chip, by decide⟩,
   ⟨leaf, by decide⟩,
   ⟨29, .status, leaf, by decide⟩,
   ⟨29, leaf, by decide⟩,
   ⟨3, quietLeaf, by decide⟩,
   ⟨3, leaf, by decide⟩,
   ⟨leaf, by decide⟩,
   ⟨{ leaf with nv := { leaf.nv with pulse := true } }, by decide⟩,
   ⟨leaf, by decide⟩⟩

def aon : State := { State.reset with rst := { State.reset.rst with aonOk := true } }
def bootable : FwImage := { fwImage with sig := { zSigBlock with usage := 1, ecdsaOk := true, tagOk := true, svn := 1 } }

/-- The hypotheses of each clause of `SupplyEventsComplete` are met. -/
theorem witness_SupplyEventsComplete :
    (∃ (s : State), s.rst.aonOk = true) ∧
    (∃ (s : State), s.rst.aonOk = true ∧ s.rst.coreOk = false ∧ s.pwr.on.getLsbD 1 = false ∧ s.nv.epoch ≠ 0xFFFFFFFF) ∧
    (∃ (s : State), s.rst.aonOk = true ∧ s.rst.coreOk = false ∧ s.pwr.on.getLsbD 1 = false ∧ s.nv.epoch = 0xFFFFFFFF) ∧
    (∃ (s : State), s.rst.aonOk = true ∧ s.rst.coreOk = false ∧ s.pwr.on.getLsbD 1 = true ∧ s.pwr.wakeAsked = false) ∧
    (∃ (s : State), s.rst.aonOk = true ∧ s.rst.coreOk = false ∧ s.pwr.on.getLsbD 1 = true ∧ s.pwr.parked = true
      ∧ s.pwr.wakeAsked = true ∧ s.pwr.waking = none) ∧
    (∃ (s : State), s.rst.aonOk = true ∧ s.rst.coreOk = true ∧ s.pwr.parked = false) ∧
    (∃ (s : State), s.rst.aonOk = true ∧ s.pwr.parked = true) ∧
    (∃ i, ∃ (s : State), s.rst.aonOk = true ∧ s.pwr.on.getLsbD 1 = true ∧ s.rst.coreOk = true ∧ s.rst.active = false
      ∧ s.stw.running = none ∧ imageReject i s = none) :=
  ⟨⟨leaf, by decide⟩,
   ⟨aon, by decide⟩,
   ⟨{ aon with nv := { aon.nv with epoch := 0xFFFFFFFF } }, by decide⟩,
   ⟨{ leaf with rst := { leaf.rst with coreOk := false } }, by decide⟩,
   ⟨{ parkedLeaf with rst := { leaf.rst with coreOk := false }, pwr := { parkedLeaf.pwr with wakeAsked := true } }, by decide⟩,
   ⟨leaf, by decide⟩,
   ⟨parkedLeaf, by decide⟩,
   ⟨bootable, { noImage with fuse := keyed0 }, by decide⟩⟩

def pulsing : State := { leaf with nv := { leaf.nv with pulse := true, queue := [.epoch 1], history := leaf.nv.history } }
def heldReset (p : List Nat) : State := { pulsing with rst := { leaf.rst with pending := p } }
def stoppedGroup (d : Dumps) (n : NvLog) : State := { leaf with pwr := { leaf.pwr with wakeReq := 0x80000000#32 }, dump := d, nv := n }
def noDump : Dumps := { leaf.dump with lastAuto := some 999999999 }
def soft (s : State) : State := { s with rst := { s.rst with softwareDue := some 5 } }

/-- The hypotheses of each clause of `ResetEventsComplete` are met. -/
theorem witness_ResetEventsComplete :
    (∃ (n : Nat) (s : State), s.rst.aonOk = true ∧ 50 ≤ n ∧ s.nv.pulse = true) ∧
    (∃ (n : Nat) (s : State), s.rst.aonOk = true ∧ 50 ≤ n ∧ s.nv.pulse = false) ∧
    (∃ (s : State), s.rst.aonOk = true) ∧
    (∃ (s : State), s.rst.aonOk = true ∧ mayRelease s = true) ∧
    (∃ (s : State), s.rst.aonOk = true ∧ watchdogRuns s = true ∧ s.nv.pulse = true) ∧
    (∃ (s : State), s.rst.aonOk = true ∧ watchdogRuns s = true ∧ s.nv.pulse = false) ∧
    (∃ (s : State), s.rst.aonOk = true ∧ watchdogRuns s = true) ∧
    (∃ (s : State), s.rst.aonOk = true ∧ watchdogRuns s = true ∧ autoAccepted s = true) ∧
    (∃ (s : State), s.rst.aonOk = true ∧ watchdogRuns s = true ∧ autoAccepted s = false ∧ s.nv.pulse = false
      ∧ s.rst.pending = []) ∧
    (∃ (g : Nat) (s : State), s.rst.aonOk = true ∧ g < 32 ∧ clockAwaited g s = true ∧ autoAccepted s = true) ∧
    (∃ (g : Nat) (s : State), s.rst.aonOk = true ∧ g < 32 ∧ clockAwaited g s = true ∧ autoAccepted s = false
      ∧ s.nv.pulse = false) ∧
    (∃ (e : Nat) (s : State), s.rst.aonOk = true ∧ s.rst.softwareDue = some e ∧ s.nv.pulse = true) ∧
    (∃ (e : Nat) (s : State), s.rst.aonOk = true ∧ s.rst.softwareDue = some e ∧ s.nv.pulse = false) ∧
    (∃ r, ∃ (rest : List NvRec) (s : State), s.rst.aonOk = true ∧ s.nv.pulse = true ∧ s.nv.queue = r :: rest
      ∧ s.rst.pending = []) ∧
    (∃ (s : State), s.rst.aonOk = true ∧ s.nv.pulse = true ∧ (∃ c ∈ s.rst.pending, c ≠ 8)) :=
  ⟨⟨50, pulsing, by decide⟩,
   ⟨50, leaf, by decide⟩,
   ⟨leaf, by decide⟩,
   ⟨{ leaf with rst := { leaf.rst with active := true, applied := [3] } }, by decide⟩,
   ⟨pulsing, by decide⟩,
   ⟨leaf, by decide⟩,
   ⟨leaf, by decide⟩,
   ⟨leaf, by decide⟩,
   ⟨{ leaf with dump := noDump }, by decide⟩,
   ⟨31, stoppedGroup leaf.dump leaf.nv, by decide⟩,
   ⟨31, stoppedGroup noDump leaf.nv, by decide⟩,
   ⟨5, soft pulsing, by decide⟩,
   ⟨5, soft leaf, by decide⟩,
   ⟨.epoch 1, [], pulsing, by decide⟩,
   ⟨heldReset [8, 5], by decide, by decide, ⟨5, by decide⟩⟩⟩

/-- The hypotheses of each clause of `ParkEventsComplete` are met. -/
theorem witness_ParkEventsComplete :
    (∃ (b : Nat) (s : State), s.rst.aonOk = true ∧ s.pwr.parking = some b ∧ s.grid.snapshotDue = false
      ∧ s.upl.gate = none ∧ s.pwr.quiescing = [] ∧ s.pwr.releasing = []) ∧
    (∃ (s : State), s.rst.aonOk = true ∧ s.pwr.parking = none ∧ s.pwr.parked = true ∧ s.pwr.waking = none
      ∧ s.rst.coreOk = true) ∧
    (∃ (s : State), s.rst.aonOk = true ∧ s.pwr.parking = none ∧ s.pwr.parked = true ∧ s.pwr.waking = none
      ∧ s.rst.coreOk = false) ∧
    (∃ (b : Nat) (s : State), s.rst.aonOk = true ∧ s.pwr.parking = some b) ∧
    (∃ (b : Nat) (s : State), s.rst.aonOk = true ∧ s.pwr.parked = true ∧ s.pwr.waking = some b ∧ s.rst.coreOk = true) :=
  ⟨⟨5, { leaf with pwr := { leaf.pwr with parking := some 5 }, stw := { leaf.stw with deferred := [{ zDeferred with work := .query 4 }, { zDeferred with work := .relay }] } }, by decide⟩,
   ⟨parkedLeaf, by decide⟩,
   ⟨{ parkedLeaf with rst := { leaf.rst with coreOk := false } }, by decide⟩,
   ⟨5, { leaf with pwr := { leaf.pwr with parking := some 5 } }, by decide⟩,
   ⟨5, { parkedLeaf with pwr := { parkedLeaf.pwr with waking := some 5 } }, by decide⟩⟩

def quiescingLeaf (y : QuiesceFor) : State := { leaf with pwr := { leaf.pwr with quiescing := [(12, y, 1000200000)] } }

/-- The hypotheses of each clause of `EngineEventsComplete` are met. -/
theorem witness_EngineEventsComplete :
    (∃ (d : Nat) (e : Nat) (s : State), s.rst.aonOk = true ∧ (s.pwr.quiescing.find? fun q => q.1 == d) = some (d, .reset, e)) ∧
    (∃ (d : Nat) (e : Nat) (s : State), s.rst.aonOk = true ∧ (s.pwr.quiescing.find? fun q => q.1 == d) = some (d, .off, e)) ∧
    (∃ (d : Nat) (y : QuiesceFor) (e : Nat) (s : State), s.rst.aonOk = true
      ∧ (s.pwr.quiescing.find? fun q => q.1 == d) = some (d, y, e) ∧ (true, d) ∉ s.dump.awaiting) ∧
    (∃ (d : Nat) (y : QuiesceFor) (e : Nat) (s : State), s.rst.aonOk = true
      ∧ (s.pwr.quiescing.find? fun q => q.1 == d) = some (d, y, e) ∧ (true, d) ∉ s.dump.awaiting) ∧
    (∃ (d : Nat), ∃ q, ∃ (s : State), s.rst.aonOk = true ∧ (s.pwr.releasing.find? fun x => x.1 == d) = some (d, q)) ∧
    (∃ (d : Nat), ∃ on, ∃ (s : State), s.rst.aonOk = true ∧ (s.pwr.settling.find? fun x => x.1 == d) = some (d, on)) :=
  ⟨⟨12, 1000200000, quiescingLeaf QuiesceFor.reset, by decide⟩,
   ⟨12, 1000200000, quiescingLeaf QuiesceFor.off, by decide⟩,
   ⟨12, .reset, 1000200000, quiescingLeaf QuiesceFor.reset, by decide⟩,
   ⟨12, .off, 1000200000, quiescingLeaf QuiesceFor.off, by decide⟩,
   ⟨12, true, { leaf with pwr := { leaf.pwr with releasing := [(12, true)] }, stw := { leaf.stw with deferred := [{ zDeferred with work := .engineReset 12 }] } }, by decide⟩,
   ⟨29, false, { leaf with pwr := { leaf.pwr with settling := [(29, false)] }, stw := { leaf.stw with deferred := [{ zDeferred with work := .domainSet 29 false }] } }, by decide⟩⟩

def dravaLeaf : State := { leaf with fuse := { FuseMap.blank with xmode := 0xFFFFFFFF#32 }, upl := { leaf.upl with byp := [.report zReport, .report zReport] }, pwr := { leaf.pwr with xingWait := 0xFFFFFFFF#32 }, smp := { leaf.smp with concs := [(15, { Conc.start with sealDue := true })] } }

/-- The hypotheses of each clause of `CrossingEventsComplete` are met. -/
theorem witness_CrossingEventsComplete :
    (∃ (g : Nat) (s : State), s.rst.aonOk = true ∧ g < 32) ∧
    (∃ (g : Nat) (s : State), s.rst.aonOk = true ∧ g < 32 ∧ nativeGroup g s = false ∧ mayTimeOut g s = true) ∧
    (∃ (g : Nat) (c : Nat) (s : State), s.rst.aonOk = true ∧ g < 32 ∧ nativeGroup g s = false ∧ mayTimeOut g s = true
      ∧ groupUse g s.fuse.plaza = .conc c) ∧
    (∃ (g : Nat) (s : State), s.rst.aonOk = true ∧ g < 32 ∧ nativeGroup g s = false ∧ mayTimeOut g s = true
      ∧ groupUse g s.fuse.plaza = .byp) ∧
    (∃ (g : Nat), ∃ u, ∃ (s : State), s.rst.aonOk = true ∧ g < 32 ∧ nativeGroup g s = false ∧ mayTimeOut g s = true
      ∧ groupUse g s.fuse.plaza = .fnc ∧ s.test.run = some u) :=
  ⟨⟨31, leaf, by decide⟩,
   ⟨25, dravaLeaf, by decide⟩,
   ⟨15, 15, dravaLeaf, by decide⟩,
   ⟨27, dravaLeaf, by decide⟩,
   ⟨30, run0, { dravaLeaf with test := { leaf.test with run := some run0 } }, by decide⟩⟩

def timeWord (v : Nat) : BitVec 72 := BitVec.ofNat 72 (v + 2 ^ 64 * (crc8 (bytesOf v 8)).toNat)
def unlocked (c : Option (Nat × Nat)) : State := { leaf with time := { leaf.time with state := .unlocked, candidate := c, refNs := 5000000, mode := 1 } }

/-- The hypotheses of each clause of `TimeFrontEventsComplete` are met. -/
theorem witness_TimeFrontEventsComplete :
    (∃ (w : BitVec 72) (s : State), s.rst.aonOk = true ∧ wordOk w = false) ∧
    (∃ (w : BitVec 72) (s : State), s.rst.aonOk = true ∧ wordOk w = true ∧ timeValid s = false ∧ s.exhausted = false
      ∧ s.time.candidate = none) ∧
    (∃ (n : Nat) (w : BitVec 72) (v : Nat) (r : Nat) (s : State), s.rst.aonOk = true ∧ wordOk w = true
      ∧ timeValid s = false ∧ s.exhausted = false ∧ s.time.candidate = some (v, r)
      ∧ inWindow s.time.mode (((wordFt w : Int) - v) - (((s.time.refNs + 4 * n : Nat) : Int) - r)) = true) ∧
    (∃ (n : Nat) (w : BitVec 72) (v : Nat) (r : Nat) (s : State), s.rst.aonOk = true ∧ wordOk w = true
      ∧ timeValid s = false ∧ s.exhausted = false ∧ s.time.candidate = some (v, r)
      ∧ inWindow s.time.mode (((wordFt w : Int) - v) - (((s.time.refNs + 4 * n : Nat) : Int) - r)) = false) ∧
    (∃ (w : BitVec 72) (s : State), s.rst.aonOk = true ∧ wordOk w = true ∧ timeValid s = false ∧ s.exhausted = true) ∧
    (∃ (n : Nat) (w : BitVec 72), ∃ u, ∃ (s : State), s.rst.aonOk = true ∧ wordOk w = true ∧ timeValid s = true
      ∧ u = passEdges n (onTime (fun x => { x with refOn := true }) s)
      ∧ inWindow s.time.mode ((wordFt w : Int) - u.time.ft) = true) ∧
    (∃ (n : Nat) (w : BitVec 72), ∃ u, ∃ (s : State), s.rst.aonOk = true ∧ wordOk w = true ∧ timeValid s = true
      ∧ u = passEdges n (onTime (fun x => { x with refOn := true }) s)
      ∧ inWindow s.time.mode ((wordFt w : Int) - u.time.ft) = false) ∧
    (∃ (s : State), s.rst.aonOk = true ∧ s.time.state = .locked) ∧
    (∃ (s : State), s.rst.aonOk = true ∧ s.time.state = .holdover) ∧
    (∃ (s : State), s.rst.aonOk = true ∧ s.time.refOn = true) :=
  ⟨⟨0x100000000000000000#72, leaf, by decide⟩,
   ⟨timeWord 7000, unlocked none, by decide⟩,
   ⟨5, timeWord 5000000020, 5000000000, 5000000, unlocked (some (5000000000, 5000000)), by decide⟩,
   ⟨5, timeWord 6000000000, 5000000000, 5000000, unlocked (some (5000000000, 5000000)), by decide⟩,
   ⟨timeWord 7000, { unlocked none with exhausted := true }, by decide⟩,
   ⟨0, timeWord 1000000007,
     passEdges 0 (onTime (fun x => { x with refOn := true }) { leaf with time := { leaf.time with mode := 1 } }),
     { leaf with time := { leaf.time with mode := 1 } }, by decide⟩,
   ⟨0, timeWord 2000000000,
     passEdges 0 (onTime (fun x => { x with refOn := true }) { leaf with time := { leaf.time with mode := 1, mismatchRun := 2 } }), { leaf with time := { leaf.time with mode := 1, mismatchRun := 2 } }, by decide⟩,
   ⟨leaf, by decide⟩,
   ⟨{ leaf with time := { leaf.time with state := .holdover } }, by decide⟩,
   ⟨{ leaf with time := { leaf.time with refOn := true } }, by decide⟩⟩

def framed : State := { leaf with grid := { leaf.grid with period := 1000, frame := some { frame := 1000, period := 1000, quality := 0 } } }
def closedLeaf : State := { leaf with
  grid := { leaf.grid with closed := some (999, 1000, 0, 1000000000), snapshotDue := true }, place := { leaf.place with parent := some 0x40000 }
  smp := { leaf.smp with concs := (List.range 16).map fun c => (c, { Conc.start with sealed := true }) } }

/-- The hypotheses of each clause of `GridEventsComplete` are met. -/
theorem witness_GridEventsComplete :
    (∃ f, ∃ (s : State), s.rst.aonOk = true ∧ timeValid s = true ∧ s.fuse.plaza = false ∧ samplerLets s = true
      ∧ s.grid.frame = some f) ∧
    (∃ f, ∃ (s : State), s.rst.aonOk = true ∧ timeValid s = true ∧ s.fuse.plaza = true ∧ s.grid.frame = some f) ∧
    (∃ (s : State), s.rst.aonOk = true ∧ gridMayRun s = true ∧ s.grid.haltPending = false ∧ s.pwr.parkPending = false
      ∧ s.grid.pending = none) ∧
    (∃ (s : State), s.rst.aonOk = true ∧ gridMayRun s = true ∧ s.grid.haltPending = false ∧ s.pwr.parkPending = false
      ∧ s.grid.pending = none) ∧
    (∃ (s : State), s.rst.aonOk = true ∧ timeValid s = true ∧ s.grid.haltPending = true) ∧
    (∃ (p : Nat) (e : Nat) (s : State), s.rst.aonOk = true ∧ timeValid s = true ∧ s.grid.pending = some (p, e)) ∧
    (∃ (n : Nat) (p : Nat) (q : BitVec 8) (ft : Nat) (s : State), s.rst.aonOk = true ∧ s.grid.closed = some (n, p, q, ft)
      ∧ snapshotReady s = true ∧ engineUp 3 s = true ∧ leafFailed s = false ∧ s.led.carry = none
      ∧ s.place.parent.isSome = true) ∧
    (∃ (n : Nat) (p : Nat) (q : BitVec 8) (ft : Nat) (s : State), s.rst.aonOk = true ∧ s.grid.closed = some (n, p, q, ft)
      ∧ snapshotReady s = true ∧ engineUp 3 s = false) :=
  ⟨⟨{ frame := 1000, period := 1000, quality := 0 }, framed, by decide⟩,
   ⟨{ frame := 1000, period := 1000, quality := 0 }, { chip with grid := framed.grid }, by decide⟩,
   ⟨framed, by decide⟩,
   ⟨leaf, by decide⟩,
   ⟨{ framed with grid := { framed.grid with haltPending := true } }, by decide⟩,
   ⟨2000, 1002000000, { framed with grid := { framed.grid with pending := some (2000, 1002000000) } }, by decide⟩,
   ⟨999, 1000, 0, 1000000000, closedLeaf, by decide⟩,
   ⟨999, 1000, 0, 1000000000, { closedLeaf with pwr := { closedLeaf.pwr with on := 0x3FFFFFF7 } }, by decide⟩⟩

def lined : State := { leaf with smp := { leaf.smp with
  lines := [(4095, 1#16)], acc := [(8190, 7)], gauges := [(1023, { Gauge.idle with config := 1 })]
  counters := [(0, { Counter.unbound with binding := BitVec.ofNat 32 (2 * 4095 + 2 ^ 27), inc := 3 })] } }
def sealing (late : Bool) : State := { lined with smp := { lined.smp with concs := [(15, { Conc.start with half := true, sealDue := true, late := late })], acc := [] } }

/-- The hypotheses of each clause of `SamplerEventsComplete` are met. -/
theorem witness_SamplerEventsComplete :
    (∃ (c : Nat) (s : State), s.rst.aonOk = true ∧ frontSees c s = true ∧ tabWf 0 s.smp.lines = true
      ∧ tabWf 0 s.smp.acc = true ∧ tabWf Conc.start s.smp.concs = true) ∧
    (∃ (line : Nat), ∃ h, ∃ (n : Nat) (s : State), s.rst.aonOk = true ∧ samplerUp s = true
      ∧ frontSees (line / 256) s = true ∧ wordPossible line h n s = true ∧ tabWf 0 s.smp.acc = true) ∧
    (∃ (line : Nat), ∃ h, ∃ (n : Nat) (s : State), s.rst.aonOk = true ∧ samplerUp s = true
      ∧ frontSees (line / 256) s = true ∧ wordPossible line h n s = true) ∧
    (∃ (line : Nat), ∃ h, ∃ (n : Nat) (s : State), s.rst.aonOk = true ∧ samplerUp s = true
      ∧ frontSees (line / 256) s = true ∧ wordPossible line h n s = true) ∧
    (∃ (c : Nat) (s : State), s.rst.aonOk = true ∧ samplerUp s = true ∧ frontSees c s = true ∧ (conc c s).sealDue = true
      ∧ halfDrained c (!(conc c s).half) s = true ∧ (conc c s).late = false) ∧
    (∃ (c : Nat) (s : State), s.rst.aonOk = true ∧ samplerUp s = true ∧ frontSees c s = true ∧ (conc c s).sealDue = true
      ∧ halfDrained c (!(conc c s).half) s = true ∧ (conc c s).late = true ∧ tabWf Conc.start s.smp.concs = true) ∧
    (∃ (c : Nat) (i : Nat) (v : Nat) (s : State), s.rst.aonOk = true ∧ frontSees c s = true ∧ i < 64
      ∧ gaugeEnable (gauge (64 * c + i) s).config = true ∧ v < 2 ^ 32) :=
  ⟨⟨15, lined, by decide⟩,
   ⟨4095, false, 5, lined, by decide⟩,
   ⟨4095, false, 5, lined, by decide⟩,
   ⟨4095, false, 5, { lined with smp := { lined.smp with concs := [(15, { Conc.start with parity := List.replicate 15 1000 })] } }, by decide⟩,
   ⟨15, sealing false, by decide⟩,
   ⟨15, sealing true, by decide⟩,
   ⟨15, 63, 4294967295, lined, by decide⟩⟩

def tierFrame0 : TierFrame := { zTierFrame with frame := 1000, period := 1000 }
def tierRole : Role := { zRole with kind := .plaza, children := [{ zChild with source := 4, epoch := 2 }], frames := [tierFrame0], finalTo := 1000000000 }
def tierChip : State := { chip with roles := [tierRole] }
def childRecord : Record := { zRecord with kind := 1, tier := 0, frame := 1000, period := 1000, epoch := 2, source := 4 }
def heldFrame : TierFrame := { tierFrame0 with held := [{ zHeldRecord with record := childRecord, missing := [1] }, { zHeldRecord with record := { childRecord with source := 5 }, missing := [0] }] }
def heldRole : Role := { tierRole with frames := [heldFrame] }
def ack0 : Ack := { zAck with child := 0, epoch := 1, ackFrame := some 9, bodyOk := true }
def retainedLeaf : State := { leaf with place := { leaf.place with parent := some 0x40000 }, led := { leaf.led with retained := [{ childRecord with frame := 9, source := 0 }, { childRecord with frame := 10, source := 0 }] } }

/-- The hypotheses of each clause of `LedgerEventsComplete` are met. -/
theorem witness_LedgerEventsComplete :
    (∃ (role : RoleKind) (rcd : Record), ∃ r c f, ∃ (s : State), s.rst.aonOk = true ∧ mergerUp s = true ∧ role ≠ .forum
      ∧ findRole role s = some r ∧ childOf (childKey rcd) r = some c ∧ r.liveFt ≤ frameOpens rcd.frame rcd.period
      ∧ rcd.epoch = c.epoch ∧ frameOf rcd.frame rcd.period r = some f ∧ r.finalTo ≤ frameOpens rcd.frame rcd.period
      ∧ isDeclared c.source f = false ∧ (c.source, rcd.seq) ∉ f.voidSeqs ∧ c.source ∉ f.finals
      ∧ ((c.seqNext ≤ rcd.seq ∨ coverSize (recordCover rcd) ≠ 0)) ∧ coverMeets (recordCover rcd) f.cover = false
      ∧ (¬ (coverSize (recordCover rcd) ≠ 0 ∧ coverInside (recordCover rcd) f.cover = true))) ∧
    (∃ (role : RoleKind) (rcd : Record), ∃ r c, ∃ (s : State), s.rst.aonOk = true ∧ mergerUp s = true
      ∧ findRole role s = some r ∧ childOf (childKey rcd) r = some c ∧ r.liveFt ≤ frameOpens rcd.frame rcd.period
      ∧ rcd.epoch = c.epoch ∧ frameOpens rcd.frame rcd.period < r.finalTo) ∧
    (∃ (role : RoleKind) (rcd : Record), ∃ r c, ∃ (s : State), s.rst.aonOk = true ∧ mergerUp s = true
      ∧ findRole role s = some r ∧ childOf (childKey rcd) r = some c ∧ r.liveFt ≤ frameOpens rcd.frame rcd.period
      ∧ rcd.epoch ≠ c.epoch) ∧
    (∃ (role : RoleKind) (n : Nat) (p : Nat), ∃ f, ∃ (s : State), s.rst.aonOk = true ∧ mergerUp s = true
      ∧ timeValid s = true ∧ (findRole role s).bind (frameOf n p) = some f ∧ f.closed = false) ∧
    (∃ (role : RoleKind) (n : Nat) (p : Nat), ∃ r f, ∃ (s : State), s.rst.aonOk = true ∧ mergerUp s = true
      ∧ timeValid s = true ∧ findRole role s = some r ∧ frameOf n p r = some f ∧ (∀ h ∈ f.held, h.record.frame = n
      ∧ h.record.period = p)) ∧
    (∃ (role : RoleKind) (n : Nat) (p : Nat), ∃ r f, ∃ (s : State), s.rst.aonOk = true ∧ mergerUp s = true
      ∧ timeValid s = true ∧ findRole role s = some r ∧ frameOf n p r = some f ∧ (∀ h ∈ f.held, h.record.frame = n
      ∧ h.record.period = p)) ∧
    (∃ (role : RoleKind) (n : Nat) (p : Nat), ∃ f, ∃ (s : State), s.rst.aonOk = true ∧ mergerUp s = true
      ∧ timeValid s = true ∧ (findRole role s).bind (frameOf n p) = some f) ∧
    (∃ (a : Ack) (p : Nat) (n : Nat) (s : State), s.rst.aonOk = true ∧ s.fuse.plaza = false ∧ engineUp 3 s = true
      ∧ a.bodyOk = true ∧ a.child = s.die ∧ a.epoch = s.epoch ∧ s.place.parent = some p ∧ a.ackFrame = some n) ∧
    (∃ (a : Ack) (s : State), s.rst.aonOk = true ∧ s.fuse.plaza = true ∧ engineUp 3 s = true ∧ a.bodyOk = true) :=
  ⟨⟨.plaza, childRecord, tierRole, { zChild with source := 4, epoch := 2 }, tierFrame0, tierChip, by decide⟩,
   ⟨.plaza, { childRecord with frame := 998 }, tierRole, { zChild with source := 4, epoch := 2 }, tierChip, by decide⟩,
   ⟨.plaza, { childRecord with epoch := 1 }, tierRole, { zChild with source := 4, epoch := 2 }, tierChip, by decide⟩,
   ⟨.plaza, 1000, 1000, tierFrame0, tierChip, by decide⟩,
   ⟨.plaza, 1000, 1000, tierRole, tierFrame0, tierChip, by decide⟩,
   ⟨.plaza, 1000, 1000, heldRole, heldFrame, { tierChip with roles := [heldRole] }, by decide⟩,
   ⟨.plaza, 1000, 1000, tierFrame0, tierChip, by decide⟩,
   ⟨ack0, 0x40000, 9, retainedLeaf, by decide⟩,
   ⟨ack0, tierChip, by decide⟩⟩

def report0 : Report := { zReport with code := 0x0301, reporter := 4, subject := dieKey 4, ft := 1000000500, count := 1, first8 := [4], window := 1000 }
def entry0 : MergeEntry := { zMergeEntry with code := 0x0301, subject := dieKey 4, window := 1000, count := 2, ft := 1000000400 }
def alertRole (m : List MergeEntry) (c : List AlertEntry) : Role := { zRole with kind := .plaza, merge := m, counted := c }
def alertChip (r : Role) : State := { chip with roles := [r] }
def storm0 : StormEntry := { zStormEntry with code := 0x0301, source := 0x40000, ft := 1000000500, window := 1000, reports := 20, first := 4 }

/-- The hypotheses of each clause of `AlertEventsComplete` are met. -/
theorem witness_AlertEventsComplete :
    (∃ (role : RoleKind) (p : Report), ∃ r e, ∃ (s : State), s.rst.aonOk = true ∧ mergerUp s = true
      ∧ findRole role s = some r ∧ AlertEntry.report p ∉ r.counted ∧ p.isOpen = false ∧ r.closedTo ≤ p.ft ∧ e ∈ r.merge
      ∧ sameKey p e = true) ∧
    (∃ (role : RoleKind) (p : Report), ∃ r, ∃ (s : State), s.rst.aonOk = true ∧ mergerUp s = true
      ∧ findRole role s = some r ∧ AlertEntry.report p ∉ r.counted ∧ r.closedTo ≤ p.ft ∧ (∀ e ∈ r.merge,
      sameKey p e = false) ∧ r.merge.length < Config.mergeEntries) ∧
    (∃ (role : RoleKind) (p : Report), ∃ r, ∃ (s : State), s.rst.aonOk = true ∧ mergerUp s = true
      ∧ findRole role s = some r ∧ AlertEntry.report p ∈ r.counted) ∧
    (∃ (role : RoleKind) (e : StormEntry), ∃ r, ∃ (s : State), s.rst.aonOk = true ∧ mergerUp s = true
      ∧ findRole role s = some r ∧ AlertEntry.storm e ∉ r.counted ∧ r.closedTo ≤ e.ft ∧ ((∀ x ∈ r.storms,
      ¬ (x.window = e.window ∧ x.code = e.code))) ∧ (stormCodes e.window r).length < 256) ∧
    (∃ (role : RoleKind) (e : StormEntry), ∃ r, ∃ (s : State), s.rst.aonOk = true ∧ mergerUp s = true
      ∧ findRole role s = some r ∧ AlertEntry.storm e ∈ r.counted) :=
  ⟨⟨.plaza, report0, alertRole [entry0] [], entry0, alertChip (alertRole [entry0] []), by decide⟩,
   ⟨.plaza, report0, alertRole [] [], alertChip (alertRole [] []), by decide⟩,
   ⟨.plaza, report0, alertRole [] [.report report0], alertChip (alertRole [] [.report report0]), by decide⟩,
   ⟨.plaza, storm0, alertRole [] [], alertChip (alertRole [] []), by decide⟩,
   ⟨.plaza, storm0, alertRole [] [.storm storm0], alertChip (alertRole [] [.storm storm0]), by decide⟩⟩

def tablePart0 : TablePart := { zTablePart with generation := 3, target := 0x40000000, checksOk := true, ceiling := 256, quarter := 0 }
def leaderChip : State := { chip with roles := [{ zRole with kind := .forum }], place := { chip.place with generation := 6, liveSince := [(3, 900000000)], issued := [{ tablePart0 with generation := 6 }] } }

/-- The hypotheses of each clause of `TableEventsComplete` are met. -/
theorem witness_TableEventsComplete :
    (∃ (p : TablePart) (s : State), s.rst.aonOk = true ∧ p.checksOk = true ∧ engineUp 12 s = true
      ∧ p.target = selfSource s ∧ followsHeld p s = true ∧ (s.fuse.plaza = true ∨ trying s = false)) ∧
    (∃ (s : State), s.rst.aonOk = true ∧ engineUp 12 s = true ∧ isLeader s = true) ∧
    (∃ (s : State), s.rst.aonOk = true ∧ engineUp 12 s = true ∧ isLeader s = true ∧ s.place.issued ≠ []) ∧
    (∃ (tray : Nat) (s : State), s.rst.aonOk = true ∧ s.fuse.plaza = true ∧ timeValid s = true ∧ engineUp 12 s = true
      ∧ isLeader s = true ∧ tget 0 tray s.place.liveSince ≠ 0 ∧ tabWf 0 s.place.liveSince = true) ∧
    (∃ (tray : Nat) (s : State), s.rst.aonOk = true ∧ s.fuse.plaza = true ∧ timeValid s = true ∧ engineUp 12 s = true
      ∧ (isLeader s = false ∨ tget 0 tray s.place.liveSince = 0)) :=
  ⟨⟨tablePart0, chip, by decide⟩,
   ⟨leaderChip, by decide⟩,
   ⟨leaderChip, by decide⟩,
   ⟨3, leaderChip, by decide⟩,
   ⟨3, chip, by decide⟩⟩

def adopt0 : AdoptMsg := { zAdoptMsg with die := 4, parent := 0x40000000, epoch := 2, crcOk := true }
def offer0 : Offer := { die := 4, home := 0, epoch := 2, ackFrame := none, keptFt := none }
def offered (p : Place) : State := { chip with place := { p with offers := [offer0] } }

/-- The hypotheses of each clause of `CandidateEventsComplete` are met. -/
theorem witness_CandidateEventsComplete :
    (∃ (m : AdoptMsg) (s : State), s.rst.aonOk = true ∧ candidateUp s = true ∧ m.crcOk = true
      ∧ m.parent = plazaSource (trayOf s.die) ∧ refusal m s = none) ∧
    (∃ (m : AdoptMsg) (reason : Nat) (s : State), s.rst.aonOk = true ∧ candidateUp s = true ∧ m.crcOk = true
      ∧ m.parent = plazaSource (trayOf s.die) ∧ refusal m s = some reason) ∧
    (∃ (m : AdoptMsg), ∃ o, ∃ (s : State), s.rst.aonOk = true ∧ candidateUp s = true ∧ m.crcOk = true
      ∧ (s.place.offers.find? fun o => o.die == m.die) = some o ∧ o.epoch = m.epoch
      ∧ ((plazaCensus s).filter fun c => c.source != m.die).length + 1 ≤ ceilingFor o.home s) ∧
    (∃ (m : AdoptMsg), ∃ o, ∃ (s : State), s.rst.aonOk = true ∧ candidateUp s = true ∧ m.crcOk = true
      ∧ (s.place.offers.find? fun o => o.die == m.die) = some o ∧ o.epoch = m.epoch
      ∧ ceilingFor o.home s < ((plazaCensus s).filter fun c => c.source != m.die).length + 1) ∧
    (∃ (m : AdoptMsg), ∃ o, ∃ (s : State), s.rst.aonOk = true ∧ candidateUp s = true ∧ m.crcOk = true
      ∧ (s.place.offers.find? fun o => o.die == m.die) = some o ∧ o.epoch ≠ m.epoch) ∧
    (∃ (m : AdoptMsg) (s : State), s.rst.aonOk = true ∧ candidateUp s = true ∧ m.crcOk = false) :=
  ⟨⟨adopt0, chip, by decide⟩,
   ⟨{ adopt0 with home := 9 }, 1, chip, by decide⟩,
   ⟨adopt0, offer0, offered chip.place, by decide⟩,
   ⟨adopt0, offer0, offered { chip.place with part := some { tablePart0 with ceiling := 0 } }, by decide⟩,
   ⟨{ adopt0 with epoch := 3 }, offer0, offered chip.place, by decide⟩,
   ⟨{ adopt0 with crcOk := false }, chip, by decide⟩⟩

def fromChip : AdoptMsg := { zAdoptMsg with parent := 0x40000000, crcOk := true }
def inPhase (p : LeafPhase) : State := { leaf with place := { leaf.place with phase := p, candidate := some 0x40000000, sentAt := [(0x40000000, 5)] } }
def listed (p : LeafPhase) : State := { inPhase p with place := { (inPhase p).place with part := some { tablePart0 with alts := [(0, [0x40000000, 0x40000001])] } } }
def adopted : State := { leaf with place := { leaf.place with phase := .adopted, parent := some 0x40000000 } }

/-- The hypotheses of each clause of `AdoptionEventsComplete` are met. -/
theorem witness_AdoptionEventsComplete :
    (∃ (m : AdoptMsg) (s : State), s.rst.aonOk = true ∧ s.fuse.plaza = false ∧ fromCandidate m s = true
      ∧ s.place.phase = .requesting) ∧
    (∃ (m : AdoptMsg) (s : State), s.rst.aonOk = true ∧ s.fuse.plaza = false ∧ fromCandidate m s = true
      ∧ s.place.phase = .confirming) ∧
    (∃ (m : AdoptMsg) (chip : Nat) (s : State), s.rst.aonOk = true ∧ s.fuse.plaza = false ∧ fromCandidate m s = true
      ∧ (altList s)[s.place.position + 1]? = some chip) ∧
    (∃ (m : AdoptMsg) (s : State), s.rst.aonOk = true ∧ s.fuse.plaza = false ∧ fromCandidate m s = true
      ∧ (altList s)[s.place.position + 1]? = none) ∧
    (∃ (k : Nat) (chip : Nat) (s : State), s.rst.aonOk = true ∧ s.fuse.plaza = false ∧ trying s = true
      ∧ timeValid s = true ∧ s.place.candidate = some k ∧ s.upl.adoption = [] ∧ tget 0 k s.place.sentAt ≠ 0
      ∧ (altList s)[s.place.position + 1]? = some chip) ∧
    (∃ (k : Nat) (s : State), s.rst.aonOk = true ∧ s.fuse.plaza = false ∧ trying s = true ∧ timeValid s = true
      ∧ s.place.candidate = some k ∧ s.upl.adoption = [] ∧ tget 0 k s.place.sentAt ≠ 0
      ∧ (altList s)[s.place.position + 1]? = none) ∧
    (∃ (chip : Nat) (s : State), s.rst.aonOk = true ∧ s.fuse.plaza = false ∧ s.place.phase = .orphan
      ∧ (altList s)[0]? = some chip) ∧
    (∃ (m : AdoptMsg) (s : State), s.rst.aonOk = true ∧ s.fuse.plaza = false ∧ s.place.phase = .adopted
      ∧ s.place.parent = some m.parent ∧ m.crcOk = true ∧ m.die = s.die ∧ m.nextChip ≠ 0xFFFFFFFF) ∧
    (∃ (m : AdoptMsg) (chip : Nat) (s : State), s.rst.aonOk = true ∧ s.fuse.plaza = false ∧ s.place.phase = .adopted
      ∧ s.place.parent = some m.parent ∧ m.crcOk = true ∧ m.die = s.die ∧ m.nextChip = 0xFFFFFFFF
      ∧ (altList s)[0]? = some chip) :=
  ⟨⟨fromChip, inPhase .requesting, by decide⟩,
   ⟨fromChip, inPhase .confirming, by decide⟩,
   ⟨fromChip, 0x40000001, listed .confirming, by decide⟩,
   ⟨fromChip, inPhase .requesting, by decide⟩,
   ⟨0x40000000, 0x40000001, listed .requesting, by decide⟩,
   ⟨0x40000000, inPhase .requesting, by decide⟩,
   ⟨0x40000000, { inPhase .orphan with place := { (inPhase .orphan).place with candidate := none } }, by decide⟩,
   ⟨{ fromChip with nextChip := 0x40000001 }, adopted, by decide⟩,
   ⟨{ fromChip with nextChip := 0xFFFFFFFF }, 0x40000000, adopted, by decide⟩⟩

def quarterOnly : State := { chip with roles := [{ zRole with kind := .quarter, children := [{ zChild with source := 0x40000003 }] }] }

/-- The hypotheses of each clause of `LinkEventsComplete` are met. -/
theorem witness_LinkEventsComplete :
    (∃ (m : AdoptMsg) (s : State), s.rst.aonOk = true ∧ m.crcOk = true ∧ ((s.fuse.plaza = true ∨ (m.die = s.die
      ∧ s.place.phase ≠ .orphan)))) ∧
    (∃ (m : AdoptMsg) (s : State), s.rst.aonOk = true ∧ m.crcOk = true ∧ s.fuse.plaza = true) ∧
    (∃ (peer : Nat) (s : State), s.rst.aonOk = true ∧ isPeer peer s = true ∧ timeValid s = true ∧ engineUp 12 s = true) ∧
    (∃ (peer : Nat) (s : State), s.rst.aonOk = true ∧ isPeer peer s = true ∧ timeValid s = true ∧ engineUp 12 s = true) ∧
    (∃ (peer : Nat) (s : State), s.rst.aonOk = true ∧ isPeer peer s = true ∧ timeValid s = true) ∧
    (∃ r, ∃ (s : State), s.rst.aonOk = true ∧ findRole .quarter s = some r ∧ timeValid s = true ∧ s.place.redirected = false) :=
  ⟨⟨fromChip, adopted, by decide⟩,
   ⟨{ fromChip with die := 0x80000100, heard := 5 }, chip, by decide⟩,
   ⟨0x40000000, adopted, by decide⟩,
   ⟨0x40000003, quarterOnly, by decide⟩,
   ⟨0x40000000, adopted, by decide⟩,
   ⟨{ zRole with kind := .quarter, children := [{ zChild with source := 0x40000003 }] }, quarterOnly, by decide⟩⟩

def reply0 : ReplyEntry := { zReplyEntry with tag := 5, cmd := 0x0202, waiting := [0x40000003] }
def replying (e : ReplyEntry) : State := { quarterOnly with stw := { quarterOnly.stw with replies := [e] } }
def notice0 : Notice := { subject := .score 9 4, partition := 5, cmd := 0x0EF0, payload := [], merged := 0 }
def ringLeaf : State := { leaf with stw := { leaf.stw with slots := [(3, { Slot.unused with isOpen := true, partition := 5, generation := 7, ring := 4096, ringN := 16, prod := 16, held := [msg0] })] } }

/-- The hypotheses of each clause of `StewardEventsComplete` are met. -/
theorem witness_StewardEventsComplete :
    (∃ (cls : Nat) (p : Nat) (tag : Nat) (cmd : Nat) (s : State), s.rst.aonOk = true ∧ stewardUp s = true
      ∧ (s.stw.replies.find? fun e => e.cls == cls && e.partition == p && e.tag == tag && e.cmd == cmd) = none) ∧
    (∃ (cls : Nat) (p : Nat) (tag : Nat) (cmd : Nat), ∃ e, ∃ (s : State), s.rst.aonOk = true ∧ stewardUp s = true
      ∧ (s.stw.replies.find? fun e => e.cls == cls && e.partition == p && e.tag == tag && e.cmd == cmd) = some e
      ∧ e.done = true) ∧
    (∃ (cls : Nat) (p : Nat) (tag : Nat) (cmd : Nat), ∃ e, ∃ (s : State), s.rst.aonOk = true ∧ stewardUp s = true
      ∧ (s.stw.replies.find? fun e => e.cls == cls && e.partition == p && e.tag == tag && e.cmd == cmd) = some e
      ∧ e.done = false ∧ (e.ownDue = true ∨ e.waiting ≠ [])) ∧
    (∃ (tag : Nat) (cmd : Nat) (child : Nat) (s : State), s.rst.aonOk = true ∧ (∀ e ∈ s.stw.replies, e.tag = tag →
      e.cmd = cmd → e.done = false → child ∉ e.waiting)) ∧
    (∃ (tag : Nat) (cmd : Nat) (child : Nat), ∃ e, ∃ (s : State), s.rst.aonOk = true
      ∧ (s.stw.replies.find? fun e => (e.tag == tag && e.cmd == cmd && e.waiting.contains child) && !e.done) = some e) ∧
    (∃ (tag : Nat) (cmd : Nat), ∃ e, ∃ (s : State), s.rst.aonOk = true ∧ (s.stw.replies.find? fun e => e.tag == tag
      && e.cmd == cmd && !e.done && !e.waiting.isEmpty) = some e) ∧
    (∃ (k : Nat) (s : State), s.rst.aonOk = true ∧ stewardUp s = true ∧ tabWf Slot.unused s.stw.slots = true
      ∧ (tget Slot.unused k s.stw.slots).isOpen = true) ∧
    (∃ (subject : NoticeSubject), ∃ n, ∃ (s : State), s.rst.aonOk = true ∧ stewardUp s = true
      ∧ (s.stw.notices.find? fun n => n.subject == subject) = some n ∧ recipients n.partition s ≠ []) ∧
    (∃ (k : Nat) (cons : Nat) (s : State), s.rst.aonOk = true ∧ stewardUp s = true
      ∧ (tget Slot.unused k s.stw.slots).isOpen = true ∧ (tget Slot.unused k s.stw.slots).ringN < 2 ^ 32
      ∧ (tget Slot.unused k s.stw.slots).prod < 2 ^ 32 ∧ cons < 2 ^ 32
      ∧ ringFill { tget Slot.unused k s.stw.slots with cons := cons } + (tget Slot.unused k s.stw.slots).held.length ≤ (tget Slot.unused k s.stw.slots).ringN) :=
  ⟨⟨0, 0, 5, 0x0202, quarterOnly, by decide⟩,
   ⟨0, 0, 5, 0x0202, { reply0 with done := true, waiting := [] }, replying { reply0 with done := true, waiting := [] },
     by decide⟩,
   ⟨0, 0, 5, 0x0202, reply0, replying reply0, by decide⟩,
   ⟨6, 0x0202, 0x40000003, replying reply0, by decide⟩,
   ⟨5, 0x0202, 0x40000003, reply0, replying reply0, by decide⟩,
   ⟨5, 0x0202, reply0, replying reply0, by decide⟩,
   ⟨3, { ringLeaf with stw := { ringLeaf.stw with deferred := [{ zDeferred with issuer := .tenant 5 3 7 }] } }, by decide⟩,
   ⟨.score 9 4, notice0, { leaf with stw := { leaf.stw with notices := [notice0] } }, by decide⟩,
   ⟨3, 1, ringLeaf, by decide⟩⟩

/-! ## The other statements -/

/-- The hypotheses of `StepServesTheFront` are met. -/
theorem witness_StepServesTheFront : ∃ (c : Instr) (rest : List Instr) (s : State), s.pending = c :: rest :=
  ⟨.brownOut, [.wake], { leaf with pending := [.brownOut, .wake] }, rfl⟩

/-- A block without `VDD_AON`. -/
def unpowered : State := { State.reset with rst := { State.reset.rst with aonOk := false } }

/-- The hypotheses of each clause of `IdleStepPassesAnEdge` are met. -/
theorem witness_IdleStepPassesAnEdge :
    (∃ s : State, s.pending = [] ∧ s.rst.aonOk = true ∧ timeValid s = true ∧ s.time.hold = 0 ∧ s.time.slew = 0
      ∧ s.time.frac < 500) ∧
    (∃ s : State, s.pending = [] ∧ s.rst.aonOk = true ∧ timeValid s = false) ∧
    (∃ s : State, s.pending = [] ∧ s.rst.aonOk = false) :=
  ⟨⟨leaf, by decide⟩, ⟨aon, by decide⟩, ⟨unpowered, by decide⟩⟩

/-- The hypotheses of `EveryCommandAnswers` are met. -/
theorem witness_EveryCommandAnswers : ∃ (c : Instr) (s : State), s.rst.aonOk = false ∧ isPowerOn c = false :=
  ⟨.wake, unpowered, by decide⟩

/-- What holds of the default and of every entry holds of every value that a table gives. -/
theorem tget_all {α : Type} {P : α → Prop} {d : α} (hd : P d) :
    ∀ {t : Tab α}, (∀ e ∈ t, P e.2) → ∀ k, P (tget d k t)
  | [], _, _ => hd
  | (i, v) :: t, h, k => by
    unfold tget
    split
    · exact h (i, v) (List.mem_cons_self ..)
    · exact tget_all hd (fun e he => h e (List.mem_cons_of_mem _ he)) k

/-- An account with nothing in it meets Law C. -/
theorem account_zero {c : UplClass} (h : (c.added, c.charged, c.lent, c.forfeited, c.credit) = (0, 0, 0, 0, 0)
    ∧ (c.quanta, c.sent, c.returned, c.deficit) = (0, 0, 0, 0) ∧ c.f = 64) : ClassOk c := by
  obtain ⟨h1, h2, h3⟩ := h
  simp only [Prod.mk.injEq] at h1 h2
  exact ⟨by omega, by omega, by omega⟩

/-- The block at work meets the invariant. -/
theorem leaf_sound : Sound leaf where
  upl := ⟨⟨by decide, tget_all (account_zero (by decide)) (by
    intro e he
    have : ∀ e ∈ leaf.upl.classes, (e.2.added, e.2.charged, e.2.lent, e.2.forfeited, e.2.credit) = (0, 0, 0, 0, 0)
        ∧ (e.2.quanta, e.2.sent, e.2.returned, e.2.deficit) = (0, 0, 0, 0) ∧ e.2.f = 64 := by decide
    exact account_zero (this e he)), by decide⟩, by decide, by decide⟩
  trc := ⟨by decide, by decide⟩
  history := by decide
  alerts := by decide
  doorbells := by decide
  bufOps := by decide

/-- The hypotheses of `StepKeepsTheInvariant` are met. -/
theorem witness_StepKeepsTheInvariant : ∃ s t : State, Sound s ∧ step s = .next t :=
  ⟨leaf, _, leaf_sound, rfl⟩

/-- The hypotheses of `EpochOnlyGoesOn` are met, by a run of two steps. -/
theorem witness_EpochOnlyGoesOn :
    ∃ (n : Nat) (s t : State), n = 2 ∧ (∀ c ∈ s.pending, isPowerOn c = false) ∧ Reaches n s t :=
  ⟨2, { leaf with pending := [.wake] }, _, rfl, by decide, _, rfl, _, rfl, rfl⟩

/-- The hypotheses of each clause of `FencesStayAsserted` are met, at the last line. -/
theorem witness_FencesStayAsserted :
    (∃ (n : Nat) (s t : State) (i : Nat), n = 1 ∧ i = 255 ∧ s.fence.getLsbD i = true
      ∧ (∀ c ∈ s.pending.take n, isPowerOn c = false ∧ ¬ releases c i) ∧ Reaches n s t) ∧
    (∃ (r : Req) (line : Nat) (s t : State) (i : Nat), 4 ≤ issuerClass r.issuer ∧ i = 255 ∧ line = 255
      ∧ exec (.fenceRelease r line) s = .next t ∧ s.fence.getLsbD i = true) :=
  ⟨⟨1, { fencedLeaf with pending := [.fenceRelease req 254] }, _, 255, rfl, rfl, by decide,
    fun c h => by simp at h; subst h; exact ⟨rfl, by simp [releases]⟩, _, rfl, rfl⟩,
   ⟨sbReq, 255, fencedLeaf, _, 255, by decide, rfl, rfl, rfl, by decide⟩⟩

/-- The hypotheses of each clause of `WaitingReachesTheFt` are met. -/
theorem witness_WaitingReachesTheFt :
    (∃ s : State, timeValid s = true) ∧
    (∃ (ft : Nat) (s : State), timeValid s = true ∧ s.time.frac < 500 ∧ ft ≤ s.time.ft) ∧
    (∃ s : State, timeValid s = false) :=
  ⟨⟨leaf, by decide⟩, ⟨1000000000, leaf, by decide⟩, ⟨aon, by decide⟩⟩

/-- A block whose time front runs in a mode with a hold and a slew. -/
def clocked (mode hold : Nat) (slew : Int) : State :=
  { leaf with time := { leaf.time with mode := mode, hold := hold, slew := slew, frac := 499 } }

/-- The hypotheses of each clause of `CountNeverRunsBack` are met, at the ends of their ranges. -/
theorem witness_CountNeverRunsBack :
    (∃ (c : Instr) (s t : State), isPowerOn c = false ∧ exec c s = .next t) ∧
    (∃ (w : BitVec 72) (s : State), s.rst.aonOk = true ∧ timeValid s = true ∧ s.time.mode ≠ 2 ∧ wordOk w = true
      ∧ s.time.frac < 500 ∧ s.time.ft ≤ wordFt w ∧ wordFt w ≤ s.time.ft + 8 ∧ wordFt w = s.time.ft + 8) ∧
    (∃ (w : BitVec 72) (s : State), s.rst.aonOk = true ∧ timeValid s = true ∧ s.time.mode ≠ 2 ∧ wordOk w = true
      ∧ s.time.frac < 500 ∧ wordFt w < s.time.ft ∧ s.time.ft ≤ wordFt w + 8 ∧ s.time.ft = wordFt w + 8) ∧
    (∃ (w : BitVec 72) (s : State), s.rst.aonOk = true ∧ timeValid s = true ∧ s.time.mode = 2 ∧ s.time.hold = 0
      ∧ wordOk w = true ∧ s.time.frac < 500 ∧ s.time.ft ≤ wordFt w + 20000 ∧ wordFt w ≤ s.time.ft + 20000
      ∧ s.time.ft = wordFt w + 20000) ∧
    (∃ (n : Nat) (s : State), timeValid s = true ∧ 4 * n ≤ s.time.hold ∧ s.time.frac < 500 ∧ 0 < n) ∧
    (∃ s : State, timeValid s = true ∧ s.time.hold = 0 ∧ s.time.slew = 0 ∧ s.time.frac < 500) ∧
    (∃ (n : Nat) (s : State), timeValid s = true ∧ s.time.hold = 0 ∧ (n : Int) ≤ s.time.slew ∧ s.time.frac < 500 ∧ 0 < n) ∧
    (∃ (n : Nat) (s : State), timeValid s = true ∧ s.time.hold = 0 ∧ (n : Int) ≤ -s.time.slew ∧ s.time.frac < 500 ∧ 0 < n) :=
  ⟨⟨.wake, leaf, _, rfl, rfl⟩, ⟨timeWord 1000000008, clocked 1 0 0, by decide⟩, ⟨timeWord 999999992, clocked 1 0 0, by decide⟩,
   ⟨timeWord 999980000, clocked 2 0 0, by decide⟩, ⟨2, clocked 1 8 0, by decide⟩, ⟨clocked 1 0 0, by decide⟩,
   ⟨3, clocked 2 0 3, by decide⟩, ⟨3, clocked 2 0 (-3), by decide⟩⟩

/-- A block with a counter of prescaler 4 and residue 9, its last counter. -/
def counting (n : Option Nat) (dead : Bool) : State :=
  { leaf with smp := { leaf.smp with
      counters := [(32767, { Counter.unbound with binding := 0x08008000#32, residue := 9, snapInc := n, dead := dead })] } }

/-- The hypotheses of each clause of `CountersKeepEveryIncrement` are met, the second for each of its causes. -/
theorem witness_CountersKeepEveryIncrement :
    (∃ (i : Nat) (fs : List CounterFault) (s : State) (n : Nat), i = 32767 ∧ n = 1000 ∧ (counter i s).dead = false
      ∧ voidIn fs i = false ∧ unobserved (counter i s) s = false ∧ (counter i s).snapInc.getD 0 = n) ∧
    (∃ (i : Nat) (s : State), (counter i s).dead = true) ∧
    (∃ (i : Nat) (fs : List CounterFault), voidIn fs i = true) ∧
    (∃ (i : Nat) (s : State), unobserved (counter i s) s = true) :=
  ⟨⟨32767, [], { counting (some 1000) false with smp := { (counting (some 1000) false).smp with
      concs := (List.range 16).map fun c => (c, { Conc.start with sealed := true }) } }, 1000, by decide⟩,
   ⟨32767, counting none true, by decide⟩, ⟨32767, [.tally 32767], by decide⟩, ⟨32767,
     { counting none false with smp := { (counting none false).smp with concs := [(0, { Conc.start with fenced := true })] } }, by decide⟩⟩

/-- A comparator that is armed, disarmed or new, with a latch. -/
def watch (armed : Option Bool) (l : Option Latch) : Cmp := { Cmp.idle with enable := true, armed := armed, threshold := 48000, hyst := 4000, latch := l }

/-- The hypotheses of each clause of `ComparatorsCross` are met: at the threshold, just past the hysteresis, and unsigned at the
top of the range. -/
theorem witness_ComparatorsCross :
    (∃ (c : Cmp) (v : Nat), c.armed = some true ∧ c.down = false ∧ asLevel false c.threshold ≤ asLevel false v
      ∧ v = c.threshold ∧ c.latch = none) ∧
    (∃ (c : Cmp) (v : Nat) (l : Latch), c.armed = some true ∧ c.down = false ∧ asLevel false c.threshold ≤ asLevel false v
      ∧ c.latch = some l ∧ l.count = 0xFFFFFFFF ∧ v = 0xFFFFFFFF) ∧
    (∃ (c : Cmp) (v : Nat), c.armed = some true ∧ c.down = false ∧ ¬ asLevel false c.threshold ≤ asLevel false v) ∧
    (∃ (c : Cmp) (v : Nat), c.armed = some false ∧ v + c.hyst + 1 = c.threshold) ∧
    (∃ c : Cmp, c.armed = none) ∧
    (∃ (c i v k : Nat) (s : State), s.rst.aonOk = true ∧ frontSees c s = true ∧ i < 64 ∧ v < 2 ^ 32
      ∧ gaugeEnable (gauge (64 * c + i) s).config = true ∧ k < 4 ∧ (cmp (4 * (64 * c + i) + k) s).enable = true
      ∧ (cmp (4 * (64 * c + i) + k) s).srcCounter = false) :=
  ⟨⟨watch (some true) none, 48000, by decide⟩,
   ⟨watch (some true) (some { firstFt := 1, lastFt := 2, count := 0xFFFFFFFF, extreme := 4, sat := false }), 0xFFFFFFFF,
    { firstFt := 1, lastFt := 2, count := 0xFFFFFFFF, extreme := 4, sat := false }, by decide⟩,
   ⟨watch (some true) none, 47999, by decide⟩, ⟨watch (some false) none, 43999, by decide⟩, ⟨watch none none, rfl⟩,
   ⟨15, 63, 4294967295, 3, { lined with smp := { lined.smp with cmps := [(4095, watch none none)] } }, by decide⟩⟩

/-- The hypotheses of `TraceFrontsAdmit` are met with each outcome: admitted, dropped, and excluded for each of the five
reasons. -/
theorem witness_TraceFrontsAdmit :
    (∃ (p : TrcPacket) (s : State), s.rst.aonOk = true ∧ trcFrontsOn s = true ∧ p.front < 8 ∧ p.channel < 8 ∧ p.priv < 4
      ∧ mayAdmit (8 * p.front + p.channel) p s = true
      ∧ (frontQueue p.front s).length < (4 - trcClass (sourceOf (8 * p.front + p.channel) s).config) * 128) ∧
    (∃ (p : TrcPacket) (s : State), s.rst.aonOk = true ∧ trcFrontsOn s = true ∧ p.front < 8 ∧ p.channel < 8 ∧ p.priv < 4
      ∧ mayAdmit (8 * p.front + p.channel) p s = true
      ∧ (4 - trcClass (sourceOf (8 * p.front + p.channel) s).config) * 128 ≤ (frontQueue p.front s).length) ∧
    (∃ (p : TrcPacket) (s : State), s.rst.aonOk = true ∧ trcFrontsOn s = true ∧ p.front < 8 ∧ p.channel < 8 ∧ p.priv < 4
      ∧ (sourceOf (8 * p.front + p.channel) s).config.getLsbD 0 = false) ∧
    (∃ (p : TrcPacket) (s : State), s.rst.aonOk = true ∧ trcFrontsOn s = true ∧ p.front < 8 ∧ p.channel < 8 ∧ p.priv = 3
      ∧ s.fuse.trcSecure = false) :=
  ⟨⟨lanePkt, trcLeaf, by decide⟩, ⟨lanePkt, fullTrc, by decide⟩, ⟨{ lanePkt with front := 0 }, trcLeaf, by decide⟩,
   ⟨{ lanePkt with priv := 3 }, trcLeaf, by decide⟩⟩

/-- The hypotheses of each case of `LinesCountByMode` are met. -/
theorem witness_LinesCountByMode :
    (∃ (cfg : Word16) (now : Lines), cfg.getLsbD 2 = true ∧ cfg.getLsbD 3 = false ∧ now.getLsbD (bits cfg.toNat 11 4) = false) ∧
    (∃ cfg : Word16, cfg.getLsbD 2 = false ∧ cfg.toNat % 4 = 0) ∧ (∃ cfg : Word16, cfg.getLsbD 2 = false ∧ cfg.toNat % 4 = 1) ∧
    (∃ cfg : Word16, cfg.getLsbD 2 = false ∧ cfg.toNat % 4 = 2) ∧ (∃ cfg : Word16, cfg.getLsbD 2 = false ∧ cfg.toNat % 4 = 3) :=
  ⟨⟨4#16, 0, by decide⟩, ⟨0#16, by decide⟩, ⟨1#16, by decide⟩, ⟨2#16, by decide⟩, ⟨3#16, by decide⟩⟩

/-- A histogram of one sample. -/
def oneSample (bucket : Nat) (v : Int) : Hist := { Hist.empty with buckets := [(bucket, 1)], n := 1, min := v, max := v, sum := v }

/-- The hypotheses of each clause of `HistogramsMergeExactly` are met. -/
theorem witness_HistogramsMergeExactly :
    (∃ a b c : Hist, tabWf 0 a.buckets = true ∧ tabWf 0 b.buckets = true ∧ tabWf 0 c.buckets = true) ∧
    (∃ a : Hist, tabWf 0 a.buckets = true ∧ -2 ^ 63 ≤ a.max ∧ a.min ≤ 2 ^ 63 - 1 ∧ a.n = 1) :=
  ⟨⟨oneSample 0 1, oneSample 959 7, oneSample 3 2, by decide⟩, ⟨oneSample 3 9223372036854775807, by decide⟩⟩

/-- The hypotheses of `FencesSurviveResets` are met, with a line that the history fences. -/
theorem witness_FencesSurviveResets :
    ∃ (i : FwImage) (s : State), s.rst.aonOk = true ∧ s.pwr.on.getLsbD 1 = true ∧ s.rst.coreOk = true ∧ s.rst.active = false
      ∧ s.stw.running = none ∧ imageReject i s = none ∧ s.stw.serving = false
      ∧ s.nv.history = [{ zHistoryRec with hkind := 1, index := 255 }] :=
  ⟨bootable, { noImage with
    fuse := keyed0, stw := { noImage.stw with serving := false }
    nv := { noImage.nv with history := [{ zHistoryRec with hkind := 1, index := 255 }] } }, by decide⟩

/-- A request is heard, its source comes first in the round, and it may be fetched: the first premises of
`RequestsAreTurnedAway`. -/
def heardB (r : Req) (s : State) : Bool := s.rst.aonOk && stewardUp s && mailboxOpen r.issuer s
def atTurnB (c : Cmd) (r : Req) (s : State) : Bool :=
  (List.range 71).all fun j => !holdsAt j s || roundsTo (sourceIndex r.issuer (c.code == 0x0101)) s ≤ roundsTo j s
def servedB (c : Cmd) (r : Req) (s : State) : Bool :=
  heardB r s && atTurnB c r s && !fetchOutside r.issuer (c.code == 0x0101) s
/-- A Leaf whose PM mailbox 0 holds a request, and one with a tenant's doorbell for an address outside its windows. -/
def busyLeaf : State := { leaf with hrw := { leaf.hrw with pm := [(0, { PmSlot.idle with busy := true })] } }
def outsideLeaf : State :=
  { leaf with stw := { leaf.stw with doorbells := [{ partition := 5, value := 0x10000000#64, session := handleOf 3 7 }] } }

/-- The hypotheses of each clause of `RequestsAreTurnedAway` are met: by a source out of its turn, by a request outside the
windows, by a bad header, by a session that is not open, by a command of the other configuration, by an issuer of another
class, by a reserved byte, by a relay mark, and by an engine that is off. -/
theorem witness_RequestsAreTurnedAway :
    (∃ (i : Instr) (c : Cmd) (r : Req) (s : State), commandOf i = some (c, r) ∧ s.rst.aonOk = true ∧ atTurnB c r s = false) ∧
    (∃ (i : Instr) (c : Cmd) (r : Req) (s : State), commandOf i = some (c, r) ∧ heardB r s = true ∧ atTurnB c r s = true
      ∧ fetchOutside r.issuer (c.code == 0x0101) s = true) ∧
    (∃ (i : Instr) (c : Cmd) (r : Req) (s : State), commandOf i = some (c, r) ∧ servedB c r s = true ∧ headerOk r = false) ∧
    (∃ (i : Instr) (c : Cmd) (r : Req) (st : Nat) (s : State), commandOf i = some (c, r) ∧ servedB c r s = true
      ∧ headerOk r = true ∧ sessionReject r.issuer (c.code == 0x0101) s = some st) ∧
    (∃ (i : Instr) (c : Cmd) (r : Req) (s : State), commandOf i = some (c, r) ∧ servedB c r s = true ∧ headerOk r = true
      ∧ sessionReject r.issuer (c.code == 0x0101) s = none ∧ presentAt c.only s.fuse.plaza = false ∧ r.relay = false) ∧
    (∃ (i : Instr) (c : Cmd) (r : Req) (s : State), commandOf i = some (c, r) ∧ servedB c r s = true ∧ headerOk r = true
      ∧ sessionReject r.issuer (c.code == 0x0101) s = none ∧ presentAt c.only s.fuse.plaza = true
      ∧ c.allow.permits (issuerClass r.issuer) = false) ∧
    (∃ (i : Instr) (c : Cmd) (r : Req) (s : State), commandOf i = some (c, r) ∧ servedB c r s = true ∧ headerOk r = true
      ∧ sessionReject r.issuer (c.code == 0x0101) s = none ∧ presentAt c.only s.fuse.plaza = true
      ∧ c.allow.permits (issuerClass r.issuer) = true ∧ r.reservedOk = false) ∧
    (∃ (i : Instr) (c : Cmd) (r : Req) (s : State), commandOf i = some (c, r) ∧ servedB c r s = true ∧ headerOk r = true
      ∧ sessionReject r.issuer (c.code == 0x0101) s = none ∧ r.relay = true ∧ isCopy r.issuer = false
      ∧ c.allow.permits (issuerClass r.issuer) = true ∧ c.relayable = false) ∧
    (∃ (c : Cmd) (r : Req) (d : Nat) (s : State), Taken c r s ∧ engineUp d s = false) :=
  ⟨⟨.timeStatus sbReq, _, _, busyLeaf, rfl, by decide⟩,
   ⟨.timeStatus tenReq, _, _, outsideLeaf, rfl, by decide⟩,
   ⟨.timeStatus { req with hchkOk := false }, _, _, leaf, rfl, by decide⟩,
   ⟨.timeStatus { tenReq with issuer := .tenant 5 4 7 }, _, _, Config.noSession, leaf, rfl, by decide⟩,
   ⟨.arcadeStatus req, _, _, leaf, rfl, by decide⟩,
   ⟨.fenceSet sbReq 3, _, _, leaf, rfl, by decide⟩,
   ⟨.timeStatus { req with reservedOk := false }, _, _, leaf, rfl, by decide⟩,
   ⟨.timeStatus { req with relay := true }, _, _, leaf, rfl, by decide⟩,
   ⟨{ code := 0x0401, allow := { s := true } }, req, 3, { leaf with pwr := { leaf.pwr with on := 0x3FFFFFF7 } },
    taken_of (by decide), by decide⟩⟩

/-- The hypotheses of each clause of `FramesOfAccesses` are met, by states that the accesses change. -/
theorem witness_FramesOfAccesses :
    (∃ (p : Nat) (s t : State), exec (.ftLoRead p) s = .next t) ∧
    (∃ (p part size : Nat) (v : Word64) (h : Nat) (s t : State), exec (.tmDb p part size v h) s = .next t) ∧
    (∃ (n p part : Nat) (v : Word32) (s t : State), p ≠ 0 ∧ exec (.pmDoorbell n p part v) s = .next t) ∧
    (∃ (p : Nat) (v : Word32) (s t : State), exec (.engRstWrite p v) s = .next t) ∧
    (∃ s t : State, exec .dbgCtlExpiry s = .next t) ∧
    (∃ s t : State, exec .sbiRead s = .next t) ∧
    (∃ (d : Nat) (s t : State), exec (.ijtagMemorySelftest d) s = .next t) ∧
    (∃ (c : Nat) (levels : Lines) (s t : State), exec (.evtOccurrence c levels) s = .next t) ∧
    (∃ (p : TrcPacket) (s t : State), exec (.tracePacket p) s = .next t) ∧
    (∃ (m : Nat) (s t : State), exec (.markerStrobe m) s = .next t) :=
  ⟨⟨0, leaf, _, rfl⟩, ⟨0, 5, 1, 0x100000#64, handleOf 3 7, leaf, _, rfl⟩, ⟨3, 1, 0, 1#32, leaf, _, by decide, rfl⟩, ⟨1,
    0x1000#32, leaf, _, rfl⟩,
   ⟨{ leaf with hrw := { leaf.hrw with dbgOpen := some 5 } }, _, rfl⟩, ⟨sbiLeaf, _, rfl⟩, ⟨3, quietLeaf, _, rfl⟩,
   ⟨15, 1#256 <<< 255, lined, _, rfl⟩, ⟨lanePkt, trcLeaf, _, rfl⟩, ⟨3, leaf, _, rfl⟩⟩

/-- The hypotheses of each clause of `NoPacketPastTheKerb` are met, the second for each of its causes, the last at the first
instant past the Kerb. -/
theorem witness_NoPacketPastTheKerb :
    (∃ s : State, s.upl.gate = none) ∧
    (∃ (g : Gate) (s : State), s.upl.gate = some g ∧ g.kerbPassed = true) ∧
    (∃ (g : Gate) (s : State), s.upl.gate = some g ∧ timeValid s = false) ∧
    (∃ (g : Gate) (s : State), s.upl.gate = some g ∧ s.time.ft < g.start) ∧
    (∃ (g : Gate) (s : State), s.upl.gate = some g
      ∧ g.ends + 1 = s.time.ft + (40960 + g.rate - 1) / g.rate + s.upl.kerbMargin) ∧
    (∃ (g : Gate) (s : State), s.rst.aonOk = true ∧ s.upl.gate = some g ∧ timeValid s = true ∧ 1 ≤ g.rate) :=
  ⟨⟨leaf, by decide⟩, ⟨{ gate0 with kerbPassed := true },
    { leaf with upl := { leaf.upl with gate := some { gate0 with kerbPassed := true } } }, by decide⟩,
   ⟨gate0, { gated leaf.upl with time := { leaf.time with state := .lost } }, by decide⟩,
   ⟨{ gate0 with start := 1000000001 },
     { leaf with upl := { leaf.upl with gate := some { gate0 with start := 1000000001 } } }, by decide⟩,
   ⟨{ gate0 with ends := 1000000072 },
     { leaf with upl := { leaf.upl with gate := some { gate0 with ends := 1000000072 } } }, by decide⟩,
   ⟨gate0, gated leaf.upl, by decide⟩⟩

/-! ## Worked figures of the spec -/

/-- R3: die 0x1F3.2C is in tray 499 at slot 44, and its field reads 127,788. -/
theorem test_die_address : (127788 = 0x1F32C ∧ trayOf 127788 = 499 ∧ slotOf 127788 = 44) := by decide

/-- R70's figures: k = 4, residue 9 and 1,000 increments give a delta of 63 and a residue of 1. -/
theorem test_counter_close :
    let e := (closeCounter 32767 9876545 [] { counting (some 1000) false with smp := { (counting (some 1000) false).smp with
      concs := (List.range 16).map fun c => (c, { Conc.start with sealed := true }) } }).1
    (e.delta, e.residue) = (63, 1) := by decide

/-- The comparator of the queue-depth walk-through after the updates of the list, with whether the last one crossed. -/
def depthAfter (l : List (Nat × Nat)) : Cmp × Bool :=
  l.foldl (fun c u => evalCmp c.1 false u.1 u.2) ({ Cmp.idle with enable := true, threshold := 48000, hyst := 4000, notice := 1 }, false)

/-- The queue depth that came and went, steps 1 to 4: it crosses at 49,500 and re-arms below 44,000. -/
theorem test_watermark_crosses :
    (depthAfter [(41000, 987654612000)]).1.armed = some true ∧
    (depthAfter [(41000, 987654612000), (49500, 987654618400)]).1.latch
      = some { firstFt := 987654618400, lastFt := 987654618400, count := 1, extreme := 49500, sat := false } ∧
    (depthAfter [(41000, 987654612000), (49500, 987654618400), (52300, 987654619100)]).2 = false ∧
    (depthAfter [(41000, 987654612000), (49500, 987654618400), (52300, 987654619100), (43500,
      987654620900)]).1.armed = some true := by
  decide

/-- Steps 5 and 6: the second crossing, the extreme of both, and 47,000 that re-arms nothing; a tally of 2. -/
theorem test_watermark_rearms :
    let c := depthAfter [(41000, 987654612000), (49500, 987654618400), (52300, 987654619100), (43500, 987654620900),
      (48100, 987654621300), (47000, 987654622000)]
    c.1.latch = some { firstFt := 987654618400, lastFt := 987654621300, count := 2, extreme := 52300, sat := false }
      ∧ c.1.armed = some false ∧ c.1.tally = 2 ∧ c.2 = false := by
  decide

/-- The digest of the words 3 and 7, 16 bytes, under K = 5, and of 3 and 6. -/
theorem test_digest : digestOf [3, 7] 16 5 = 0x276#64 ∧ digestOf [3, 6] 16 5 = 0x25D#64 := by decide

/-- The late die on tray 0x12C: 1,610 ns lies in bucket 681, whose representative is 102,726 × 2¹⁰. -/
theorem test_bucket : bucketOf 1610 = 681 ∧ bucketRep 681 = 102726 * 2 ^ 10 := by decide

/-- Of 160 entries the rank is 152: with 151 below bucket 681 the quantile is the bucket's. -/
theorem test_quantile :
    Hist.quantile { Hist.empty with buckets := [(600, 151), (681, 2), (700, 7)], n := 160 } 950000
      = some ⟨some (102726 * 2 ^ 10), false, false⟩ := by decide

/-- The link behind 0x1F3.2C: the sums 80 + 20k with n = 40 and W = 1 (its logarithm 0) give a slope of 819. -/
theorem test_slope : slopeOf ((List.range 15).map fun k => (80 + 20 * (k : Int)) * 65536) 40 0 = 819 := by decide

/-- The nodes of model 0x0000_0A31. -/
def model0A31 : TreeImage :=
  { zTreeImage with
    base := -200, alertLevel := 500, alertAbove := true, alertEn := true, scoreEvery := 1
    dir := [⟨0, 5, 2⟩, ⟨5, 5, 2⟩, ⟨10, 3, 1⟩]
    nodes := [0x0000000000000000_00080000_00010000#128, 0x0000000000000000_FFFFFFD8_00000002#128,
      0x0000000000000000_00200000_00020010#128, 0x0000000000000000_0000000F_00000002#128,
      0x0000000000000000_00000136_00000002#128, 0x0000000000000224_00000000_00010031#128,
      0x0000000000000000_FFFFFFE7_00000002#128, 0x0000000000000000_01F40000_00020044#128,
      0x0000000000000000_0000003C_00000002#128, 0x0000000000000000_00000113_00000002#128,
      0x0000000000000000_00000148_00010020#128, 0x0000000000000000_FFFFFFF6_00000002#128,
      0x0000000000000000_000000BE_00000002#128] }

/-- The vector scored on die 0x1F3.2C, its fifth feature missing. -/
def vector0A31 : List (Option Int) := [some 0x000CC000, some 0x00300000, some 0x333, some 0x00050000, none]

/-- Its three trees give 310, 275 and 190, and the score 575 is an alert. -/
theorem test_tree_walk :
    partialOf model0A31 0 1 vector0A31 = 310 ∧ partialOf model0A31 1 1 vector0A31 = 275
      ∧ partialOf model0A31 2 1 vector0A31 = 190 ∧ model0A31.base + partialOf model0A31 0 3 vector0A31 = 575
      ∧ alerts model0A31 575 = true := by decide

/-- At 100 GB/s and a margin of 32 ns the Kerb is 73 ns. -/
theorem test_kerb : kerbOf 1000 32 = 73 := by decide

/-- The ensemble spanning two Plaza chips: frame 20,000,023 is a scoring frame of `SCORE_EVERY` 8. -/
theorem test_scoring_frame : isScoring 20000023 8 = true ∧ isScoring 20000024 8 = false := by decide

/-! ## Single commands -/

/-- `FENCE_SET` asserts its line and no other (R289). -/
theorem test_fence_set : (match exec (.fenceSet req 255) leaf with
    | .next t => t.fence == 1#256 <<< 255
    | _ => false) = true := by decide

/-- `TIME_STATUS` changes nothing of the time front it reports (R38). -/
theorem test_time_status : (match exec (.timeStatus req) leaf with
    | .next t => t.time == leaf.time && t.hrw != leaf.hrw
    | _ => false) = true := by decide

/-- A tenant's `FENCE_SET` is turned away (R298). -/
theorem test_fence_set_tenant : (match exec (.fenceSet tenReq 255) leaf with
    | .next t => t.fence == leaf.fence
    | _ => false) = true := by decide

/-- Nothing but `POWER_ON` acts while `VDD_AON` is off (R430). -/
theorem test_unpowered : (match exec (.wake) unpowered with
    | .next t => t == unpowered
    | _ => false) = true := by decide

/-- An empty queue passes one edge of 4 ns. -/
theorem test_idle : (match step leaf with
    | .next t => t.time.ft == leaf.time.ft + 4
    | _ => false) = true := by decide

/-- No word spells a command of this block. -/
theorem test_no_words : decodeTableWord 32 0 = none ∧ leaf.withFetchWord 32 0 = leaf := by decide

/-! ## Well-formedness refuses what does not fit -/

/-! A term of each kind that does not fit. -/

def badIssuer : Issuer := .pm 4
def badScope : Scope := .die (2 ^ 32)
def badAckReq : AckReq := { zAckReq with frame := 2 ^ 64 }
def badAck : Ack := { zAck with child := 2 ^ 32 }
def badAdoptMsg : AdoptMsg := { zAdoptMsg with pos := 2 ^ 8 }
def badGateSection : GateSection := { zGateSection with port := 2 ^ 8 }
def badCalImage : CalImage := { zCalImage with job := 2 ^ 32 }
def badCohortRule : CohortRule := { zCohortRule with job := 2 ^ 32 }
def badDesc : Desc := { zDesc with selfAddr := 2 ^ 64 }
def badResultEntry : ResultEntry := { zResultEntry with job := 2 ^ 32 }
def badDigestRecord : DigestRecord := { zDigestRecord with frame := 2 ^ 64 }
def badFeatureRecord : FeatureRecord := { zFeatureRecord with frame := 2 ^ 64 }
def badFuseMap : FuseMap := { FuseMap.blank with dieType := 2 ^ 32 }
def badSigBlock : SigBlock := { zSigBlock with keyIndex := 2 ^ 8 }
def badFwImage : FwImage := { zFwImage with fwLevel := 2 ^ 16 }
def badHist : Hist := { zHist with underN := 2 ^ 32 }
def badHistRecord : HistRecord := { zHistRecord with scope := 4 }
def badPacket : Packet := { zPacket with cls := 2 ^ 8 }
def badPred : Pred := { zPred with pkind := 2 ^ 8 }
def badQuery : Query := { zQuery with qtype := 2 ^ 8 }
def badChildStatus : ChildStatus := { zChildStatus with child := 2 ^ 32 }
def badCoverEntry : CoverEntry := { zCoverEntry with tray := 2 ^ 32 }
def badCounterEntry : CounterEntry := { zCounterEntry with index := 2 ^ 16 }
def badSumEntry : SumEntry := { zSumEntry with index := 2 ^ 32 }
def badGaugeEntry : GaugeEntry := { zGaugeEntry with index := 2 ^ 16 }
def badAggEntry : AggEntry := { zAggEntry with index := 2 ^ 32 }
def badLossEntry : LossEntry := { zLossEntry with lkind := 2 ^ 16 }
def badReport : Report := { zReport with code := 2 ^ 16 }
def badAlertEntry : AlertEntry := .report badReport
def badStormEntry : StormEntry := { zStormEntry with code := 2 ^ 16 }
def badRecord : Record := { zRecord with kind := 2 ^ 8 }
def badReq : Req := { zReq with issuer := badIssuer }
def badScoreEntry : ScoreEntry := { zScoreEntry with model := 2 ^ 32 }
def badScoreRecord : ScoreRecord := { zScoreRecord with frame := 2 ^ 64 }
def badSeriesDesc : SeriesDesc := { zSeriesDesc with index := 2 ^ 16 }
def badSeriesEntry : SeriesEntry := { zSeriesEntry with sindex := 2 ^ 32 }
def badLateEntry : LateEntry := { zLateEntry with marker := 2 ^ 24 }
def badSeriesRecord : SeriesRecord := { zSeriesRecord with frame := 2 ^ 64 }
def badStreamId : StreamId := { zStreamId with kind := 2 ^ 8 }
def badPartEntry : PartEntry := { zPartEntry with model := 2 ^ 32 }
def badTablePart : TablePart := { zTablePart with replica := 2 ^ 8 }
def badTallyValue : TallyValue := { zTallyValue with count := 2 ^ 32 }
def badTallyBlock : TallyBlock := { zTallyBlock with job := 2 ^ 32 }
def badTallyRecord : TallyRecord := { zTallyRecord with frame := 2 ^ 64 }
def badTapBeat : TapBeat := { zTapBeat with kind := 2 ^ 8 }
def badTestEntry : TestEntry := { zTestEntry with testId := 2 ^ 16 }
def badTestPkg : TestPkg := { zTestPkg with tag := 2 ^ 16 }
def badThresholdNotice : ThresholdNotice := { zThresholdNotice with job := 2 ^ 32 }
def badTrcPacket : TrcPacket := { zTrcPacket with front := 2 ^ 32 }
def badFeatDesc : FeatDesc := { zFeatDesc with feature := 2 ^ 16 }
def badDirEntry : DirEntry := { zDirEntry with root := 2 ^ 32 }
def badTreeImage : TreeImage := { zTreeImage with tag := 2 ^ 16 }
def badImageAsk : ImageAsk := { zImageAsk with model := 2 ^ 32 }
def badVerdictNotice : VerdictNotice := { zVerdictNotice with job := 2 ^ 32 }
def badCollEntry : CollEntry := { zCollEntry with coll := 2 ^ 32 }

/-- The issuer and the scope. -/
theorem test_wf_issuer : ([.pm 4, .tenant (2 ^ 16) 3 7, .tenant 5 64 7, .tenant 5 3 1024, .relay (2 ^ 8) 0, .relay 0 (2 ^ 16),
    .role (2 ^ 8) 0, .role 0 2] : List Issuer).all (fun x => !x.wf) = true := by decide
theorem test_wf_scope : ([.quarter (2 ^ 32), .tray (2 ^ 32), .die (2 ^ 32),
    .other (2 ^ 8)] : List Scope).all (fun x => !x.wf) = true := by decide
theorem test_wf_alert : ([.report badReport, .storm badStormEntry] : List AlertEntry).all (fun x => !x.wf) = true := by decide

theorem test_wf_ackReq : ([{ zAckReq with frame := 2 ^ 64 }, { zAckReq with blkFirst := 2 ^ 16 },
    { zAckReq with blkLast := 2 ^ 16 },
      { zAckReq with rqkind := 2 ^ 8 }] : List AckReq).all (fun x => !x.wf) = true := by decide
theorem test_wf_ack : ([{ zAck with child := 2 ^ 32 }, { zAck with epoch := 2 ^ 32 },
    { zAck with ackFrame := some (2 ^ 64) },
      { zAck with reqs := [badAckReq] }] : List Ack).all (fun x => !x.wf) = true := by decide
theorem test_wf_adoptMsg : ([{ zAdoptMsg with pos := 2 ^ 8 }, { zAdoptMsg with die := 2 ^ 32 },
    { zAdoptMsg with parent := 2 ^ 32 }, { zAdoptMsg with epoch := 2 ^ 32 }, { zAdoptMsg with generation := 2 ^ 32 },
    { zAdoptMsg with home := 1024 }, { zAdoptMsg with frameA := some (2 ^ 64) }, { zAdoptMsg with frameB := 2 ^ 64 },
    { zAdoptMsg with period := 2 ^ 20 }, { zAdoptMsg with periodNext := 2 ^ 20 }, { zAdoptMsg with retained := 2 ^ 32 },
    { zAdoptMsg with nextChip := 2 ^ 32 },
      { zAdoptMsg with rep := 2 ^ 8 }] : List AdoptMsg).all (fun x => !x.wf) = true := by decide
theorem test_wf_markerEntry : ([{ zMarkerEntry with mid := 2 ^ 32 }, { zMarkerEntry with cls := 2 ^ 8 },
    { zMarkerEntry with miss := 2 ^ 16 },
      { zMarkerEntry with offset := 2 ^ 64 }] : List MarkerEntry).all (fun x => !x.wf) = true := by decide
theorem test_wf_gateSection : ([{ zGateSection with port := 2 ^ 8 }, { zGateSection with job := 2 ^ 32 },
    { zGateSection with rate := 2 ^ 16 }] : List GateSection).all (fun x => !x.wf) = true := by decide
theorem test_wf_quietWin : ([{ zQuietWin with offset := 2 ^ 64 }, { zQuietWin with len := 2 ^ 32 },
    { zQuietWin with unitFirst := 2 ^ 8 },
      { zQuietWin with unitLast := 2 ^ 8 }] : List QuietWin).all (fun x => !x.wf) = true := by decide
theorem test_wf_calImage : ([{ zCalImage with job := 2 ^ 32 }, { zCalImage with die := 2 ^ 18 },
    { zCalImage with partition := 2 ^ 16 }, { zCalImage with step := 2 ^ 64 }, { zCalImage with steps := 2 ^ 64 },
    { zCalImage with imageCrc := 2 ^ 32 },
      { zCalImage with gateSections := [badGateSection] }] : List CalImage).all (fun x => !x.wf) = true := by decide
theorem test_wf_cohortRule : ([{ zCohortRule with job := 2 ^ 32 }, { zCohortRule with rule := 2 ^ 8 },
    { zCohortRule with scope := 2 ^ 8 }, { zCohortRule with q := 2 ^ 32 }, { zCohortRule with margin := 2 ^ 32 },
    { zCohortRule with run := 2 ^ 8 }, { zCohortRule with clearRun := 2 ^ 8 },
      { zCohortRule with minMembers := 2 ^ 16 }] : List CohortRule).all (fun x => !x.wf) = true := by decide
theorem test_wf_desc : ([{ zDesc with selfAddr := 2 ^ 64 }, { zDesc with addr := 2 ^ 64 }, { zDesc with len := 2 ^ 32 },
    { zDesc with partition := 2 ^ 16 }, { zDesc with dkind := 2 ^ 8 }, { zDesc with nextAddr := 2 ^ 64 },
    { zDesc with descId := 2 ^ 32 }] : List Desc).all (fun x => !x.wf) = true := by decide
theorem test_wf_resultEntry : ([{ zResultEntry with job := 2 ^ 32 }, { zResultEntry with coll := 2 ^ 32 },
    { zResultEntry with inst := 2 ^ 32 }, { zResultEntry with nChunk := 2 ^ 32 },
      { zResultEntry with unchk := 2 ^ 32 }] : List ResultEntry).all (fun x => !x.wf) = true := by decide
theorem test_wf_digestRecord : ([{ zDigestRecord with frame := 2 ^ 64 }, { zDigestRecord with period := 2 ^ 20 },
    { zDigestRecord with epoch := 2 ^ 32 }, { zDigestRecord with die := 2 ^ 18 }, { zDigestRecord with seq := 2 ^ 32 },
    { zDigestRecord with chkOk := 2 ^ 64 }, { zDigestRecord with chkBad := 2 ^ 64 },
    { zDigestRecord with chkNone := 2 ^ 64 },
      { zDigestRecord with results := [badResultEntry] }] : List DigestRecord).all (fun x => !x.wf) = true := by decide
theorem test_wf_featureRecord : ([{ zFeatureRecord with frame := 2 ^ 64 }, { zFeatureRecord with die := 2 ^ 18 },
    { zFeatureRecord with epoch := 2 ^ 32 }, { zFeatureRecord with model := 2 ^ 32 },
    { zFeatureRecord with imageCrc := 2 ^ 32 },
      { zFeatureRecord with leafTrees := 2 ^ 32 }] : List FeatureRecord).all (fun x => !x.wf) = true := by decide
theorem test_wf_fuseMap : ([{ FuseMap.blank with dieType := 2 ^ 32 }, { FuseMap.blank with jtgLock := 4 },
    { FuseMap.blank with ftiMode := 4 }, { FuseMap.blank with i3cSa := 2 ^ 7 }, { FuseMap.blank with i3cPid := 2 ^ 64 },
    { FuseMap.blank with xtimeout := 2 ^ 32 }, { FuseMap.blank with gatePort := 2 ^ 32 },
    { FuseMap.blank with gateRate := 2 ^ 32 }, { FuseMap.blank with gateSpace := 2 ^ 32 },
    { FuseMap.blank with gateLen := 2 ^ 32 }] : List FuseMap).all (fun x => !x.wf) = true := by decide
theorem test_wf_sigBlock : ([{ zSigBlock with keyIndex := 2 ^ 8 }, { zSigBlock with usage := 2 ^ 8 },
    { zSigBlock with svn := 2 ^ 32 }] : List SigBlock).all (fun x => !x.wf) = true := by decide
theorem test_wf_fwImage : ([{ zFwImage with fwLevel := 2 ^ 16 }, { zFwImage with minBlock := 2 ^ 16 },
    { zFwImage with imageBytes := 2 ^ 32 },
      { zFwImage with sig := badSigBlock }] : List FwImage).all (fun x => !x.wf) = true := by decide
theorem test_wf_hist : ([{ zHist with underN := 2 ^ 32 }, { zHist with overN := 2 ^ 32 }, { zHist with n := 2 ^ 32 },
    { zHist with absent := 2 ^ 32 }] : List Hist).all (fun x => !x.wf) = true := by decide
theorem test_wf_histRecord : ([{ zHistRecord with scope := 4 }, { zHistRecord with cls := 2 ^ 8 },
    { zHistRecord with job := 2 ^ 32 }, { zHistRecord with marker := 2 ^ 32 }, { zHistRecord with key := 2 ^ 64 },
    { zHistRecord with source := 2 ^ 32 }, { zHistRecord with frame := 2 ^ 64 },
      { zHistRecord with hist := badHist }] : List HistRecord).all (fun x => !x.wf) = true := by decide
theorem test_wf_packet : ([{ zPacket with cls := 2 ^ 8 }, { zPacket with src := 2 ^ 32 }, { zPacket with dst := 2 ^ 32 },
    { zPacket with srcRep := 2 ^ 8 }, { zPacket with dstRep := 2 ^ 8 }, { zPacket with cseq := 2 ^ 32 },
    { zPacket with epoch := 2 ^ 32 }, { zPacket with rtag := 2 ^ 16 }, { zPacket with nBlk := 2 ^ 8 },
    { zPacket with rseq := 2 ^ 32 }, { zPacket with blkFirst := 2 ^ 16 }, { zPacket with blkTotal := 2 ^ 16 },
    { zPacket with rlen := 2 ^ 32 }, { zPacket with echoTrace := 2 ^ 8 }, { zPacket with echoDump := 2 ^ 8 },
    { zPacket with hdrCrc := 2 ^ 32 }, { zPacket with bytes := 2 ^ 64 }] : List Packet).all (fun x => !x.wf) = true := by decide
theorem test_wf_pred : ([{ zPred with pkind := 2 ^ 8 }, { zPred with op := 2 ^ 8 }, { zPred with selFirst := 2 ^ 32 },
    { zPred with selLast := 2 ^ 32 }] : List Pred).all (fun x => !x.wf) = true := by decide
theorem test_wf_query : ([{ zQuery with qtype := 2 ^ 8 }, { zQuery with engines := 2 ^ 8 },
    { zQuery with queryId := 2 ^ 32 }, { zQuery with ftFirst := 2 ^ 64 }, { zQuery with ftLast := 2 ^ 64 },
    { zQuery with tray := 2 ^ 32 }, { zQuery with lookback := 2 ^ 32 }, { zQuery with p0 := badPred },
    { zQuery with p1 := badPred }] : List Query).all (fun x => !x.wf) = true := by decide
theorem test_wf_childStatus : ([{ zChildStatus with child := 2 ^ 32 }, { zChildStatus with epoch := 2 ^ 32 },
    { zChildStatus with generation := 2 ^ 32 }, { zChildStatus with state := 2 ^ 8 },
    { zChildStatus with lostFrags := 2 ^ 32 }] : List ChildStatus).all (fun x => !x.wf) = true := by decide
theorem test_wf_coverEntry : ([{ zCoverEntry with tray := 2 ^ 32 },
    { zCoverEntry with slots := [2 ^ 32] }] : List CoverEntry).all (fun x => !x.wf) = true := by decide
theorem test_wf_counterEntry : ([{ zCounterEntry with index := 2 ^ 16 }, { zCounterEntry with partition := 2 ^ 16 },
    { zCounterEntry with prescale := 2 ^ 8 }, { zCounterEntry with residue := 2 ^ 16 },
    { zCounterEntry with delta := 2 ^ 64 }] : List CounterEntry).all (fun x => !x.wf) = true := by decide
theorem test_wf_sumEntry : ([{ zSumEntry with index := 2 ^ 32 }, { zSumEntry with partition := 2 ^ 16 },
    { zSumEntry with prescale := 2 ^ 8 }, { zSumEntry with contrib := 2 ^ 32 }, { zSumEntry with void := 2 ^ 32 },
    { zSumEntry with sum := 2 ^ 64 },
      { zSumEntry with lost := 2 ^ 32 }] : List SumEntry).all (fun x => !x.wf) = true := by decide
theorem test_wf_gaugeEntry : ([{ zGaugeEntry with index := 2 ^ 16 }, { zGaugeEntry with sample := 2 ^ 32 },
    { zGaugeEntry with partition := 2 ^ 16 },
      { zGaugeEntry with value := 2 ^ 32 }] : List GaugeEntry).all (fun x => !x.wf) = true := by decide
theorem test_wf_aggEntry : ([{ zAggEntry with index := 2 ^ 32 }, { zAggEntry with sample := 2 ^ 32 },
    { zAggEntry with partition := 2 ^ 16 }, { zAggEntry with present := 2 ^ 32 }, { zAggEntry with inexact := 2 ^ 32 },
    { zAggEntry with missing := 2 ^ 32 }] : List AggEntry).all (fun x => !x.wf) = true := by decide
theorem test_wf_lossEntry : ([{ zLossEntry with lkind := 2 ^ 16 }, { zLossEntry with partition := some (2 ^ 16) },
    { zLossEntry with indexFirst := 2 ^ 32 }, { zLossEntry with indexLast := 2 ^ 32 },
    { zLossEntry with subject := 2 ^ 64 }, { zLossEntry with frame := 2 ^ 64 },
      { zLossEntry with quantity := some (2 ^ 64) }] : List LossEntry).all (fun x => !x.wf) = true := by decide
theorem test_wf_report : ([{ zReport with code := 2 ^ 16 }, { zReport with reporter := 2 ^ 32 },
    { zReport with subject := 2 ^ 64 }, { zReport with ft := 2 ^ 64 }, { zReport with epoch := 2 ^ 32 },
    { zReport with count := 2 ^ 32 }, { zReport with first8 := List.replicate 9 0 }, { zReport with tier := 2 ^ 8 },
    { zReport with detail := 2 ^ 8 }, { zReport with window := 2 ^ 64 }] : List Report).all (fun x => !x.wf) = true := by decide
theorem test_wf_stormEntry : ([{ zStormEntry with code := 2 ^ 16 }, { zStormEntry with source := 2 ^ 32 },
    { zStormEntry with ft := 2 ^ 64 }, { zStormEntry with window := 2 ^ 64 }, { zStormEntry with epoch := 2 ^ 32 },
    { zStormEntry with reports := 2 ^ 32 }, { zStormEntry with first := 2 ^ 18 }, { zStormEntry with tier := 2 ^ 8 },
    { zStormEntry with codesShared := 2 ^ 32 }] : List StormEntry).all (fun x => !x.wf) = true := by decide
theorem test_wf_record : ([{ zRecord with kind := 2 ^ 8 }, { zRecord with tier := 2 ^ 8 },
    { zRecord with replica := 2 ^ 8 }, { zRecord with frame := 2 ^ 64 }, { zRecord with period := 2 ^ 20 },
    { zRecord with epoch := 2 ^ 32 }, { zRecord with source := 2 ^ 32 }, { zRecord with seq := 2 ^ 32 },
    { zRecord with generation := 2 ^ 32 }, { zRecord with missFirst := 2 ^ 64 }, { zRecord with missCount := 2 ^ 32 },
    { zRecord with children := [badChildStatus] }, { zRecord with cover := [badCoverEntry] },
    { zRecord with counters := [badCounterEntry] }, { zRecord with sums := [badSumEntry] },
    { zRecord with gauges := [badGaugeEntry] }, { zRecord with aggs := [badAggEntry] },
    { zRecord with losses := [badLossEntry] },
      { zRecord with alerts := [badAlertEntry] }] : List Record).all (fun x => !x.wf) = true := by decide
theorem test_wf_req : ([{ zReq with issuer := badIssuer }, { zReq with tag := 2 ^ 32 }, { zReq with hver := 2 ^ 8 },
    { zReq with plen := 2 ^ 8 }, { zReq with scope := badScope }] : List Req).all (fun x => !x.wf) = true := by decide
theorem test_wf_scoreEntry : ([{ zScoreEntry with model := 2 ^ 32 }, { zScoreEntry with imageCrc := 2 ^ 32 },
    { zScoreEntry with die := 2 ^ 32 }, { zScoreEntry with firstTree := 2 ^ 32 }, { zScoreEntry with lastTree := 2 ^ 32 },
    { zScoreEntry with sframe := 2 ^ 32 },
      { zScoreEntry with doneUs := 2 ^ 32 }] : List ScoreEntry).all (fun x => !x.wf) = true := by decide
theorem test_wf_scoreRecord : ([{ zScoreRecord with frame := 2 ^ 64 }, { zScoreRecord with source := 2 ^ 32 },
    { zScoreRecord with epoch := 2 ^ 32 }, { zScoreRecord with seq := 2 ^ 32 },
    { zScoreRecord with scores := [badScoreEntry] }] : List ScoreRecord).all (fun x => !x.wf) = true := by decide
theorem test_wf_seriesDesc : ([{ zSeriesDesc with index := 2 ^ 16 }, { zSeriesDesc with kind := 2 ^ 8 },
    { zSeriesDesc with windowLog2 := 2 ^ 8 }, { zSeriesDesc with srcA := 2 ^ 16 }, { zSeriesDesc with srcB := 2 ^ 16 },
    { zSeriesDesc with partition := 2 ^ 16 }, { zSeriesDesc with shift := 2 ^ 8 }, { zSeriesDesc with baseShift := 2 ^ 8 },
    { zSeriesDesc with levelRun := 2 ^ 8 }, { zSeriesDesc with levelK := 2 ^ 16 }, { zSeriesDesc with block := 2 ^ 16 },
    { zSeriesDesc with driftRun := 2 ^ 8 }, { zSeriesDesc with weightB := 2 ^ 8 }, { zSeriesDesc with ports := 2 ^ 16 },
    { zSeriesDesc with target := 2 ^ 32 }] : List SeriesDesc).all (fun x => !x.wf) = true := by decide
theorem test_wf_seriesEntry : ([{ zSeriesEntry with sindex := 2 ^ 32 },
    { zSeriesEntry with sstate := 2 ^ 32 }] : List SeriesEntry).all (fun x => !x.wf) = true := by decide
theorem test_wf_lateEntry : ([{ zLateEntry with marker := 2 ^ 24 }, { zLateEntry with lkind := 16 },
    { zLateEntry with cls := 16 }, { zLateEntry with occ := 2 ^ 32 }] : List LateEntry).all (fun x => !x.wf) = true := by decide
theorem test_wf_seriesRecord : ([{ zSeriesRecord with frame := 2 ^ 64 }, { zSeriesRecord with period := 2 ^ 20 },
    { zSeriesRecord with epoch := 2 ^ 32 }, { zSeriesRecord with die := 2 ^ 18 }, { zSeriesRecord with seq := 2 ^ 32 },
    { zSeriesRecord with job := 2 ^ 32 }, { zSeriesRecord with calCrc := 2 ^ 32 },
    { zSeriesRecord with series := [badSeriesEntry] },
      { zSeriesRecord with late := [badLateEntry] }] : List SeriesRecord).all (fun x => !x.wf) = true := by decide
theorem test_wf_streamId : ([{ zStreamId with kind := 2 ^ 8 }, { zStreamId with coll := 2 ^ 32 },
    { zStreamId with inst := 2 ^ 32 }, { zStreamId with peer := 2 ^ 32 },
      { zStreamId with port := 2 ^ 32 }] : List StreamId).all (fun x => !x.wf) = true := by decide
theorem test_wf_partEntry : ([{ zPartEntry with model := 2 ^ 32 }, { zPartEntry with part := 2 ^ 32 },
    { zPartEntry with firstTree := 2 ^ 32 }, { zPartEntry with lastTree := 2 ^ 32 },
      { zPartEntry with host := 2 ^ 32 }] : List PartEntry).all (fun x => !x.wf) = true := by decide
theorem test_wf_tablePart : ([{ zTablePart with replica := 2 ^ 8 }, { zTablePart with generation := 2 ^ 32 },
    { zTablePart with issuer := 2 ^ 32 }, { zTablePart with target := 2 ^ 32 }, { zTablePart with issueFt := 2 ^ 64 },
    { zTablePart with qreplica := 2 ^ 8 }, { zTablePart with freplica := 2 ^ 8 }, { zTablePart with quarter := 32 },
    { zTablePart with standin := 2 ^ 16 }, { zTablePart with ceiling := 2 ^ 32 }, { zTablePart with qhosts := [2 ^ 16] },
    { zTablePart with fhosts := [2 ^ 16] }, { zTablePart with succs := [2 ^ 16] },
    { zTablePart with parts := [badPartEntry] }] : List TablePart).all (fun x => !x.wf) = true := by decide
theorem test_wf_tallyValue : ([{ zTallyValue with count := 2 ^ 32 },
    { zTallyValue with first8 := List.replicate 9 0 }] : List TallyValue).all (fun x => !x.wf) = true := by decide
theorem test_wf_tallyBlock : ([{ zTallyBlock with job := 2 ^ 32 }, { zTallyBlock with coll := 2 ^ 32 },
    { zTallyBlock with inst := 2 ^ 32 }, { zTallyBlock with scatter := 2 ^ 32 }, { zTallyBlock with unchkRanks := 2 ^ 32 },
    { zTallyBlock with values := [badTallyValue] }] : List TallyBlock).all (fun x => !x.wf) = true := by decide
theorem test_wf_tallyRecord : ([{ zTallyRecord with frame := 2 ^ 64 }, { zTallyRecord with source := 2 ^ 32 },
    { zTallyRecord with epoch := 2 ^ 32 }, { zTallyRecord with seq := 2 ^ 32 },
    { zTallyRecord with blocks := [badTallyBlock] }] : List TallyRecord).all (fun x => !x.wf) = true := by decide
theorem test_wf_tapBeat : ([{ zTapBeat with kind := 2 ^ 8 }, { zTapBeat with coll := 2 ^ 32 },
    { zTapBeat with inst := 2 ^ 32 }, { zTapBeat with peer := 2 ^ 32 }, { zTapBeat with port := 2 ^ 32 },
    { zTapBeat with unit := 2 ^ 32 }, { zTapBeat with off := 2 ^ 32 },
      { zTapBeat with bytes := 2 ^ 64 }] : List TapBeat).all (fun x => !x.wf) = true := by decide
theorem test_wf_testEntry : ([{ zTestEntry with testId := 2 ^ 16 }, { zTestEntry with tkind := 2 ^ 8 },
    { zTestEntry with failLimit := 2 ^ 8 }, { zTestEntry with unitFirst := 2 ^ 8 }, { zTestEntry with unitLast := 2 ^ 8 },
    { zTestEntry with respKib := 2 ^ 16 }, { zTestEntry with duration := 2 ^ 32 }, { zTestEntry with interval := 2 ^ 32 },
    { zTestEntry with patOff := 2 ^ 32 },
      { zTestEntry with patLen := 2 ^ 32 }] : List TestEntry).all (fun x => !x.wf) = true := by decide
theorem test_wf_testPkg : ([{ zTestPkg with tag := 2 ^ 16 }, { zTestPkg with version := 2 ^ 8 },
    { zTestPkg with pkgId := 2 ^ 32 }, { zTestPkg with pkgRev := 2 ^ 32 }, { zTestPkg with dieType := 2 ^ 32 },
    { zTestPkg with sigLen := 2 ^ 16 }, { zTestPkg with patBytes := 2 ^ 32 }, { zTestPkg with sigKey := 2 ^ 64 },
    { zTestPkg with maxDefer := 2 ^ 32 }, { zTestPkg with hdrCrc := 2 ^ 32 }, { zTestPkg with tests := [badTestEntry] },
    { zTestPkg with sig := badSigBlock }] : List TestPkg).all (fun x => !x.wf) = true := by decide
theorem test_wf_thresholdNotice : ([{ zThresholdNotice with job := 2 ^ 32 }, { zThresholdNotice with marker := 2 ^ 32 },
    { zThresholdNotice with rule := 4 }, { zThresholdNotice with scope := 4 }, { zThresholdNotice with occ := 2 ^ 64 },
    { zThresholdNotice with quantile := some (2 ^ 64) }, { zThresholdNotice with margin := 2 ^ 32 },
    { zThresholdNotice with n := 2 ^ 32 }, { zThresholdNotice with threshold := some (2 ^ 64) },
    { zThresholdNotice with absent := 2 ^ 32 },
      { zThresholdNotice with source := 2 ^ 32 }] : List ThresholdNotice).all (fun x => !x.wf) = true := by decide
theorem test_wf_trcPacket : ([{ zTrcPacket with front := 2 ^ 32 }, { zTrcPacket with channel := 2 ^ 32 },
    { zTrcPacket with info := 2 ^ 32 }, { zTrcPacket with priv := 2 ^ 8 }, { zTrcPacket with part := 2 ^ 32 },
    { zTrcPacket with cycle := 2 ^ 64 }] : List TrcPacket).all (fun x => !x.wf) = true := by decide
theorem test_wf_featDesc : ([{ zFeatDesc with feature := 2 ^ 16 }, { zFeatDesc with fkind := 2 ^ 8 },
    { zFeatDesc with shift := 32 }, { zFeatDesc with src := 2 ^ 16 },
      { zFeatDesc with const := 2 ^ 31 }] : List FeatDesc).all (fun x => !x.wf) = true := by decide
theorem test_wf_dirEntry : ([{ zDirEntry with root := 2 ^ 32 }, { zDirEntry with n := 2 ^ 17 },
    { zDirEntry with depth := 32 }] : List DirEntry).all (fun x => !x.wf) = true := by decide
theorem test_wf_treeImage : ([{ zTreeImage with tag := 2 ^ 16 }, { zTreeImage with version := 2 ^ 8 },
    { zTreeImage with model := 2 ^ 32 }, { zTreeImage with partition := 2 ^ 16 }, { zTreeImage with base := 2 ^ 31 },
    { zTreeImage with alertLevel := 2 ^ 63 }, { zTreeImage with scoreEvery := 2 ^ 16 },
    { zTreeImage with maxDepth := 2 ^ 8 }, { zTreeImage with imageCrc := 2 ^ 32 },
    { zTreeImage with features := [badFeatDesc] },
      { zTreeImage with dir := [badDirEntry] }] : List TreeImage).all (fun x => !x.wf) = true := by decide
theorem test_wf_imageAsk : ([{ zImageAsk with model := 2 ^ 32 }, { zImageAsk with imageCrc := 2 ^ 32 },
    { zImageAsk with tray := 1024 }, { zImageAsk with range := some (2 ^ 16, 0) },
    { zImageAsk with range := some (0, 2 ^ 16) }] : List ImageAsk).all (fun x => !x.wf) = true := by decide
theorem test_wf_verdictNotice : ([{ zVerdictNotice with job := 2 ^ 32 }, { zVerdictNotice with coll := 2 ^ 32 },
    { zVerdictNotice with inst := 2 ^ 32 }, { zVerdictNotice with nMaj := 2 ^ 32 },
    { zVerdictNotice with nOther := 2 ^ 32 }, { zVerdictNotice with nAbsent := 2 ^ 32 },
    { zVerdictNotice with source := 2 ^ 32 }] : List VerdictNotice).all (fun x => !x.wf) = true := by decide
theorem test_wf_collEntry : ([{ zCollEntry with coll := 2 ^ 32 }, { zCollEntry with ckind := 2 ^ 8 },
    { zCollEntry with scope := 2 ^ 8 }, { zCollEntry with policy := 2 ^ 8 }, { zCollEntry with fenceAfter := 2 ^ 8 },
    { zCollEntry with ranks := 2 ^ 32 }] : List CollEntry).all (fun x => !x.wf) = true := by decide

/-- What those terms spoil is well formed. -/
theorem test_wf_accepts : ([zAckReq.wf, zAck.wf, zAdoptMsg.wf, zMarkerEntry.wf, zGateSection.wf, zQuietWin.wf, zCalImage.wf,
    zCohortRule.wf, zDesc.wf, zResultEntry.wf, zDigestRecord.wf, zFeatureRecord.wf, FuseMap.blank.wf, zSigBlock.wf,
    zFwImage.wf, zHist.wf, zHistRecord.wf, zPacket.wf, zPred.wf, zQuery.wf, zChildStatus.wf, zCoverEntry.wf,
    zCounterEntry.wf, zSumEntry.wf, zGaugeEntry.wf, zAggEntry.wf, zLossEntry.wf, zReport.wf, zStormEntry.wf, zRecord.wf,
    zReq.wf, zScoreEntry.wf, zScoreRecord.wf, zSeriesDesc.wf, zSeriesEntry.wf, zLateEntry.wf, zSeriesRecord.wf,
    zStreamId.wf, zPartEntry.wf, zTablePart.wf, zTallyValue.wf, zTallyBlock.wf, zTallyRecord.wf, zTapBeat.wf, zTestEntry.wf,
    zTestPkg.wf, zThresholdNotice.wf, zTrcPacket.wf, zFeatDesc.wf, zDirEntry.wf, zTreeImage.wf, zImageAsk.wf,
    zVerdictNotice.wf, zCollEntry.wf] : List Bool).all (fun b => b) = true := by decide

/-! A command with one operand too large. -/

theorem test_wf_commands1 : ([.sessionOpen badReq 0 0 0 false, .sessionOpen req (2 ^ 64) 0 0 false,
    .sessionOpen req 0 (2 ^ 16) 0 false, .sessionOpen req 0 0 (2 ^ 16) false, .sessionClose badReq, .sessionInfo badReq 0,
    .sessionInfo req (2 ^ 16), .sessionQuotaSet badReq 0 0, .sessionQuotaSet req (2 ^ 16) 0, .sessionQuotaSet req 0 (2 ^ 8),
    .sessionIdleSet badReq 0, .sessionIdleSet req (2 ^ 32), .sessionWindowSet badReq 0 0 0 0,
    .sessionWindowSet req (2 ^ 16) 0 0 0, .sessionWindowSet req 0 (2 ^ 8) 0 0, .sessionWindowSet req 0 0 (2 ^ 64) 0,
    .sessionWindowSet req 0 0 0 (2 ^ 64), .partitionRelease badReq 0, .partitionRelease req (2 ^ 16), .timeStatus badReq,
    .timeSetMode badReq 0, .timeSetMode req (2 ^ 8), .frameSetPeriod badReq 0 0, .frameSetPeriod req (2 ^ 32) 0,
    .frameSetPeriod req 0 (2 ^ 64), .frameHalt badReq 0, .frameHalt req (2 ^ 8), .lineSet badReq 0 0,
    .lineSet req (2 ^ 16) 0, .counterBind badReq 0 0, .counterBind req (2 ^ 16) 0, .counterUnbind badReq 0,
    .counterUnbind req (2 ^ 16), .counterPrescaleSet badReq 0 0, .counterPrescaleSet req (2 ^ 16) 0,
    .counterPrescaleSet req 0 (2 ^ 8), .counterRead badReq 0 0, .counterRead req (2 ^ 16) 0, .counterRead req 0 (2 ^ 16),
    .counterStatus badReq, .gaugeSet badReq 0 0, .gaugeSet req (2 ^ 16) 0, .watermarkSet badReq 0 0 0 0 0,
    .watermarkSet req (2 ^ 16) 0 0 0 0, .watermarkSet req 0 0 (2 ^ 16) 0 0, .watermarkSet req 0 0 0 (2 ^ 64) 0,
    .watermarkSet req 0 0 0 0 (2 ^ 64), .watermarkRead badReq 0] : List Instr).all (fun i => !i.wf) = true := by decide
theorem test_wf_commands2 : ([.watermarkRead req (2 ^ 16), .gaugeRead badReq 0, .gaugeRead req (2 ^ 16),
    .snapshotSet badReq zDesc 0, .snapshotSet req badDesc 0, .snapshotSet req zDesc (2 ^ 16), .ledgerStatus badReq,
    .ledgerRetainSet badReq 0 zDesc, .ledgerRetainSet req (2 ^ 32) zDesc, .ledgerRetainSet req 0 badDesc,
    .ledgerRead badReq zDesc 0 0, .ledgerRead req badDesc 0 0, .ledgerRead req zDesc (2 ^ 64) 0,
    .ledgerRead req zDesc 0 (2 ^ 8), .ledgerSinkSet badReq zDesc 0, .ledgerSinkSet req badDesc 0,
    .placeSetConstraints badReq 0 0 0 zDesc zDesc [] [], .placeSetConstraints req (2 ^ 32) 0 0 zDesc zDesc [] [],
    .placeSetConstraints req 0 (2 ^ 8) 0 zDesc zDesc [] [], .placeSetConstraints req 0 0 (2 ^ 16) zDesc zDesc [] [],
    .placeSetConstraints req 0 0 0 badDesc zDesc [] [], .placeSetConstraints req 0 0 0 zDesc badDesc [] [],
    .placeSetConstraints req 0 0 0 zDesc zDesc (List.replicate 1025 0) [],
    .placeSetConstraints req 0 0 0 zDesc zDesc [] ([2 ^ 16]), .placeDrain badReq 0, .placeDrain req (2 ^ 32),
    .placeRestore badReq 0, .placeRestore req (2 ^ 32), .placeStatus badReq, .placeCensusTransfer badReq 0 0,
    .placeCensusTransfer req (2 ^ 32) 0, .placeCensusTransfer req 0 (2 ^ 64), .seriesDefine badReq zSeriesDesc,
    .seriesDefine req badSeriesDesc, .seriesRead badReq 0 0 zDesc, .seriesRead req (2 ^ 16) 0 zDesc,
    .seriesRead req 0 (2 ^ 18) zDesc, .seriesRead req 0 0 badDesc, .histRead badReq zDesc 0 0 0 false 0,
    .histRead req badDesc 0 0 0 false 0, .histRead req zDesc (2 ^ 32) 0 0 false 0, .histRead req zDesc 0 (2 ^ 32) 0 false 0,
    .histRead req zDesc 0 0 (2 ^ 64) false 0, .histRead req zDesc 0 0 0 false (2 ^ 8), .confCalLoad badReq zDesc zCalImage,
    .confCalLoad req badDesc zCalImage, .confCalLoad req zDesc badCalImage,
      .confCalArm badReq 0 0] : List Instr).all (fun i => !i.wf) = true := by decide
theorem test_wf_commands3 : ([.confCalArm req (2 ^ 64) 0, .confCalArm req 0 (2 ^ 32),
    .confCohortSet badReq zCohortRule false, .confCohortSet req badCohortRule false, .confStatus badReq zDesc 0,
    .confStatus req badDesc 0, .confStatus req zDesc (2 ^ 32), .seriesQuotaSet badReq 0 0, .seriesQuotaSet req (2 ^ 16) 0,
    .seriesQuotaSet req 0 (2 ^ 8), .treeLoad badReq zDesc zTreeImage, .treeLoad req badDesc zTreeImage,
    .treeLoad req zDesc badTreeImage, .treeArm badReq 0 0, .treeArm req (2 ^ 32) 0, .treeArm req 0 (2 ^ 64),
    .treeUnload badReq 0, .treeUnload req (2 ^ 32), .treeQuotaSet badReq 0 0 0, .treeQuotaSet req (2 ^ 16) 0 0,
    .treeQuotaSet req 0 (2 ^ 32) 0, .treeQuotaSet req 0 0 (2 ^ 32), .treeStatus badReq 0, .treeStatus req (2 ^ 32),
    .treeScoreRead badReq 0 0, .treeScoreRead req (2 ^ 32) 0, .treeScoreRead req 0 (2 ^ 32), .arcadeStatus badReq,
    .arcadeHold badReq 0 0 0, .arcadeHold req 0 (2 ^ 64) 0, .arcadeHold req 0 0 (2 ^ 64), .arcadeRelease badReq 0,
    .arcadeRelease req (2 ^ 8), .arcadePortRestore badReq 0, .arcadePortRestore req (2 ^ 8),
    .arcadeLocate badReq zDesc 0 0 0, .arcadeLocate req badDesc 0 0 0, .arcadeLocate req zDesc (2 ^ 32) 0 0,
    .arcadeLocate req zDesc 0 (2 ^ 64) 0, .arcadeLocate req zDesc 0 0 (2 ^ 64), .backscanSubmit badReq 0 zQuery zDesc,
    .backscanSubmit req (2 ^ 64) zQuery zDesc, .backscanSubmit req 0 badQuery zDesc, .backscanSubmit req 0 zQuery badDesc,
    .backscanCancel badReq 0, .backscanCancel req (2 ^ 32), .backscanStatus badReq 0,
      .backscanStatus req (2 ^ 32)] : List Instr).all (fun i => !i.wf) = true := by decide
theorem test_wf_commands4 : ([.digestArm badReq 0 0 0 zDesc 0 [], .digestArm req (2 ^ 64) 0 0 zDesc 0 [],
    .digestArm req 0 (2 ^ 32) 0 zDesc 0 [], .digestArm req 0 0 (2 ^ 64) zDesc 0 [], .digestArm req 0 0 0 badDesc 0 [],
    .digestArm req 0 0 0 zDesc (2 ^ 16) [], .digestArm req 0 0 0 zDesc 0 [badCollEntry], .digestStatus badReq 0,
    .digestStatus req (2 ^ 32), .digestVerdictRead badReq 0 0 0, .digestVerdictRead req (2 ^ 32) 0 0,
    .digestVerdictRead req 0 (2 ^ 32) 0, .digestVerdictRead req 0 0 (2 ^ 32), .testPkgLoad badReq zDesc zDesc zTestPkg,
    .testPkgLoad req badDesc zDesc zTestPkg, .testPkgLoad req zDesc badDesc zTestPkg,
    .testPkgLoad req zDesc zDesc badTestPkg, .testPkgUnload badReq 0, .testPkgUnload req (2 ^ 32),
    .testIdleGrant badReq 0 0 0 0, .testIdleGrant req (2 ^ 8) 0 0 0, .testIdleGrant req 0 (2 ^ 8) 0 0,
    .testIdleGrant req 0 0 (2 ^ 64) 0, .testIdleGrant req 0 0 0 (2 ^ 32), .testStatus badReq 0, .testStatus req (2 ^ 32),
    .fenceSet badReq 0, .fenceSet req (2 ^ 8), .fenceRelease badReq 0, .fenceRelease req (2 ^ 8),
    .fenceHistoryRead badReq 0 none, .fenceHistoryRead req (2 ^ 32) none, .fenceHistoryRead req 0 (some badDesc),
    .cdsRelease badReq 0 0, .cdsRelease req (2 ^ 8) 0, .cdsRelease req 0 (2 ^ 8), .traceSourceSet badReq 0 0,
    .traceSourceSet req (2 ^ 8) 0, .traceGrant badReq 0 0 0, .traceGrant req 0 0 (2 ^ 32), .traceRevoke badReq 0,
    .traceRevoke req (2 ^ 8), .traceFlush badReq 0, .traceChainSet badReq 0 zDesc, .traceChainSet req (2 ^ 8) zDesc,
    .traceChainSet req 0 badDesc, .bufChainAppend badReq 0 0 zDesc,
      .bufChainAppend req (2 ^ 8) 0 zDesc] : List Instr).all (fun i => !i.wf) = true := by decide
theorem test_wf_commands5 : ([.bufChainAppend req 0 (2 ^ 8) zDesc, .bufChainAppend req 0 0 badDesc, .traceStatus badReq 0,
    .traceStatus req (2 ^ 8), .uplShaperSet badReq 0 0 0 0, .uplShaperSet req (2 ^ 8) 0 0 0,
    .uplShaperSet req 0 (2 ^ 32) 0 0, .uplShaperSet req 0 0 (2 ^ 32) 0, .uplShaperSet req 0 0 0 (2 ^ 32),
    .uplStandingSet badReq 0 0 0 0 0, .uplStandingSet req (2 ^ 8) 0 0 0 0, .uplStandingSet req 0 (2 ^ 16) 0 0 0,
    .uplStandingSet req 0 0 (2 ^ 32) 0 0, .uplStandingSet req 0 0 0 (2 ^ 32) 0, .uplStandingSet req 0 0 0 0 (2 ^ 16),
    .uplStatus badReq 0, .uplStatus req (2 ^ 8), .pwrPark badReq, .pwrDomainSet badReq 0 0, .pwrDomainSet req (2 ^ 8) 0,
    .pwrDomainSet req 0 (2 ^ 8), .engineReset badReq 0 0, .engineReset req (2 ^ 8) 0, .engineReset req 0 (2 ^ 32),
    .resetRequest badReq 0, .resetRequest req (2 ^ 32), .pwrStatus badReq, .dumpTake badReq zDesc 0 0,
    .dumpTake req badDesc 0 0, .dumpTake req zDesc 0 (2 ^ 64), .wfgBuild badReq zDesc 0, .wfgBuild req badDesc 0,
    .wfgBuild req zDesc (2 ^ 64), .nvlogRead badReq 0 0 none, .nvlogRead req (2 ^ 8) 0 none, .nvlogRead req 0 (2 ^ 32) none,
    .nvlogRead req 0 0 (some badDesc), .epochReset badReq 0, .epochReset req (2 ^ 32), .fwUpdate badReq zDesc zFwImage 0,
    .fwUpdate req badDesc zFwImage 0, .fwUpdate req zDesc badFwImage 0, .fwUpdate req zDesc zFwImage (2 ^ 64),
    .fwCommit badReq, .fwStatus badReq, .pmDoorbell 4 0 0 0, .pmDoorbell 0 4 0 0,
      .pmDoorbell 0 0 (2 ^ 16) 0] : List Instr).all (fun i => !i.wf) = true := by decide
theorem test_wf_commands6 : ([.pmDoneClear 4 0 0, .pmDoneClear 0 4 0, .tmDb 4 0 0 0 0, .tmDb 0 (2 ^ 16) 0 0 0,
    .tmDb 0 0 (2 ^ 8) 0 0, .tmDb 0 0 0 0 (2 ^ 16), .ftLoRead 4, .intStsClear 4 0, .wakeCtlWrite 4 0, .engRstWrite 4 0,
    .bootDb 4 0, .hrwRegisterWrite (2 ^ 16) 0 0 0 0 0, .hrwRegisterWrite 0 4 0 0 0 0, .hrwRegisterWrite 0 0 (2 ^ 16) 0 0 0,
    .hrwRegisterWrite 0 0 0 (2 ^ 8) 0 0, .hrwRegisterWrite 0 0 0 0 0 (2 ^ 16), .sbiRequest (List.replicate 127 0),
    .sbiBootSegment (List.replicate 129 0), .entdaa (2 ^ 7), .setdasa (2 ^ 7), .bypass (2 ^ 8),
    .ijtagInstrumentAccess (2 ^ 8) .status, .ijtagMemorySelftest (2 ^ 8), .powerOn badFuseMap 0,
    .powerOn FuseMap.blank (2 ^ 18), .pinReset (2 ^ 64), .bootImageRun badFwImage, .clockFailure (2 ^ 8),
    .ftiTimeWord (2 ^ 32) 0, .evtOccurrence 16 0, .drainWord (2 ^ 16) false 0 false, .drainWord 0 false (2 ^ 16) false,
    .sealWord 16, .scoreComplete (2 ^ 32) 0 false, .scoreComplete 0 (2 ^ 32) false, .scoreMissingTimeout (2 ^ 32) 0 0,
    .scoreMissingTimeout 0 (2 ^ 32) 0, .scoreMissingTimeout 0 0 (2 ^ 64), .gaugeUpdate 16 0 0, .gaugeUpdate 0 64 0,
    .gaugeUpdate 0 0 (2 ^ 32), .markerStrobe (2 ^ 32), .markerDeadline (2 ^ 32), .tracePacket badTrcPacket,
    .traceServe (2 ^ 8), .traceBlockAgeFlush (2 ^ 8), .traceGrantExpiry (2 ^ 8),
      .tapBeat badTapBeat] : List Instr).all (fun i => !i.wf) = true := by decide
theorem test_wf_commands7 : ([.tapChunkDigest badStreamId, .digestListTimeout badStreamId, .unitMaskExpiry (2 ^ 32) 0 0,
    .unitMaskExpiry 0 (2 ^ 32) 0, .unitMaskExpiry 0 0 (2 ^ 32), .verdictNoticeLeaf badVerdictNotice,
    .dnlPacket badPacket false false .other, .ledgerRecordReceive .plaza badRecord [] [] [], .tierCutoff .plaza (2 ^ 64) 0,
    .tierCutoff .plaza 0 (2 ^ 20), .repairWindowEnd .plaza (2 ^ 64) 0, .repairWindowEnd .plaza 0 (2 ^ 20),
    .settleHorizon .plaza (2 ^ 64) 0, .settleHorizon .plaza 0 (2 ^ 20), .ledgerAck badAck 0, .ledgerAck zAck (2 ^ 32),
    .seriesRecord .plaza badSeriesRecord [], .histogramRecord .plaza badHistRecord,
    .occurrenceCloseTimeout .plaza (2 ^ 32) 0 0, .occurrenceCloseTimeout .plaza 0 (2 ^ 32) 0,
    .occurrenceCloseTimeout .plaza 0 0 (2 ^ 32), .thresholdNotice badThresholdNotice, .thresholdHoldExpiry (2 ^ 32) 0 0,
    .thresholdHoldExpiry 0 (2 ^ 32) 0, .thresholdHoldExpiry 0 0 (2 ^ 32), .featureRecord badFeatureRecord,
    .scoreRecord .plaza badScoreRecord, .digestRecord .plaza badDigestRecord, .tallyRecord .plaza badTallyRecord,
    .verdictNoticePlaza badVerdictNotice, .resultHoldExpiry (2 ^ 32) 0 0, .resultHoldExpiry 0 (2 ^ 32) 0,
    .resultHoldExpiry 0 0 (2 ^ 32), .faultReportReceive .plaza badReport, .stormEntryReceive .plaza badStormEntry,
    .placementTablePart badTablePart, .placementTableIssue .drain [{ zChipInfo with tray := 2 ^ 16 }],
    .adoptReq badAdoptMsg, .adoptOffer badAdoptMsg, .adoptConfirm badAdoptMsg, .adoptAck badAdoptMsg,
    .adoptRefuse badAdoptMsg, .release badAdoptMsg, .keepalive badAdoptMsg, .beacon badAdoptMsg, .keepaliveDue (2 ^ 32),
    .linkSilence (2 ^ 32), .livenessHoldComplete (2 ^ 32)] : List Instr).all (fun i => !i.wf) = true := by decide
theorem test_wf_commands8 : ([.imageRequest badImageAsk 0, .imageRequest zImageAsk (2 ^ 32),
    .ensembleRange badTreeImage 0 0 0 false none, .ensembleRange zTreeImage (2 ^ 16) 0 0 false none,
    .ensembleRange zTreeImage 0 (2 ^ 16) 0 false none, .ensembleRange zTreeImage 0 0 1024 false none,
    .ensembleRange zTreeImage 0 0 0 false (some (2 ^ 64)), .relayedCommand (2 ^ 8) 0 0 0 .fleet 0 [],
    .relayedCommand 0 (2 ^ 16) 0 0 .fleet 0 [], .relayedCommand 0 0 (2 ^ 32) 0 .fleet 0 [],
    .relayedCommand 0 0 0 (2 ^ 16) .fleet 0 [], .relayedCommand 0 0 0 0 .fleet (2 ^ 32) [],
    .relayCompletion (2 ^ 32) 0 0 0 0 0 0 [], .relayCompletion 0 (2 ^ 16) 0 0 0 0 0 [],
    .relayCompletion 0 0 (2 ^ 32) 0 0 0 0 [], .relayCompletion 0 0 0 (2 ^ 32) 0 0 0 [],
    .relayCompletion 0 0 0 0 (2 ^ 32) 0 0 [], .relayCompletion 0 0 0 0 0 (2 ^ 32) 0 [],
    .relayCompletion 0 0 0 0 0 0 (2 ^ 16) [], .relayCompletion 0 0 0 0 0 0 0 (List.replicate 9 0), .relayTimeout (2 ^ 32) 0,
    .relayTimeout 0 (2 ^ 16), .sessionIdleTimeout 64, .responseRingResume 64 0, .responseRingResume 0 (2 ^ 32),
    .bufResponse (2 ^ 16) false none, .bufResponse 0 false (some badDesc), .bufTimeout (2 ^ 16),
    .memResponse (2 ^ 8) 0 false, .memResponse 0 (2 ^ 16) false, .memOpTimeout (2 ^ 8) 0, .memOpTimeout 0 (2 ^ 16),
    .memLinkLoss (2 ^ 8), .segmentSealTimeout (2 ^ 8), .arcadeHoldExpiry (2 ^ 8), .backscanComplete (2 ^ 32),
    .backscanTimeout (2 ^ 32), .testOverdue (2 ^ 32) 0 0, .testOverdue 0 (2 ^ 16) 0, .testOverdue 0 0 (2 ^ 8),
    .blockResourceTest (2 ^ 32) 0 0 false 0 0, .blockResourceTest 0 (2 ^ 16) 0 false 0 0,
    .blockResourceTest 0 0 (2 ^ 8) false 0 0, .resourceFault (2 ^ 8) 0, .resourceFault 0 (2 ^ 16), .quiesceAck (2 ^ 8),
    .quiesceTimeout (2 ^ 8), .engineRelease (2 ^ 8)] : List Instr).all (fun i => !i.wf) = true := by decide
theorem test_wf_commands9 : ([.crossingClockStart (2 ^ 8), .dravaTimeout (2 ^ 8), .hangDeclared (2 ^ 8) 0,
    .hangDeclared 0 (2 ^ 32), .dumpCapture (2 ^ 8) [],
      .domainSettle (2 ^ 8)] : List Instr).all (fun i => !i.wf) = true := by decide

/-- A feature table, a directory or a node list that is longer than its count field can say is refused. -/
theorem test_wf_treeImage_counts (x : TreeImage)
    (h : 2 ^ 16 ≤ x.features.length ∨ 2 ^ 32 ≤ x.dir.length ∨ 2 ^ 32 ≤ x.nodes.length) : x.wf = false := by
  rcases h with h | h | h
  · have : fits16 x.features.length = false := by simp only [fits16, decide_eq_false_iff_not]; omega
    simp [TreeImage.wf, this]
  · have : fits32 x.dir.length = false := by simp only [fits32, decide_eq_false_iff_not]; omega
    simp [TreeImage.wf, this]
  · have : fits32 x.nodes.length = false := by simp only [fits32, decide_eq_false_iff_not]; omega
    simp [TreeImage.wf, this]

end Sys2Proof.Tests
end

section
/-!
The time front: what its alerts leave of it, what an edge adds to the count, what a word that is accepted makes of it; and the
count that never runs back (R26 to R29).
-/

namespace Sys2Proof.Machine

/-! ## What alerts leave of the time front -/

section Kept

variable {s : State}

theorem when_time {b : Bool} {f : State → State} (hf : (f s).time = s.time) : (when b f s).time = s.time := by
  cases b
  · rfl
  · exact hf

@[simp] theorem raiseInt_time {bit : Nat} : (raiseInt bit s).time = s.time := when_time rfl

@[simp] theorem notify_time {subject : NoticeSubject} {p cmd : Nat} {payload : List Fld} :
    (notify subject p cmd payload s).time = s.time := by
  unfold notify; split <;> rfl

@[simp] theorem bypQueue_time {a : AlertEntry} : (bypQueue a s).time = s.time := by
  unfold bypQueue; split <;> rfl

@[simp] theorem raiseAt_time {code subject detail ft : Nat} : (raiseAt code subject detail ft s).time = s.time := by
  unfold raiseAt
  dsimp only
  split
  · rfl
  · rw [notify_time, bypQueue_time]

@[simp] theorem sbiAlert_time {r : Report} : (sbiAlert r s).time = s.time := by
  unfold sbiAlert
  split
  · exact when_time rfl
  · rfl

@[simp] theorem timeAlert_time {code ft : Nat} : (timeAlert code ft s).time = s.time :=
  sbiAlert_time.trans raiseAt_time

end Kept

/-! ## What an edge adds to the count (R26, R28) -/

section Edges

variable {t : TimeFront} {n : Nat}

theorem timeValid_iff {s : State} : timeValid s = true ↔ s.time.state = .locked ∨ s.time.state = .holdover := by
  simp [timeValid]

/-- No edge is no change, where the sub-ns part is in its range. -/
theorem edges_zero (hf : t.frac < 500) : t.edges 0 = t := by
  unfold TimeFront.edges
  simp [Nat.div_eq_of_lt hf, Nat.mod_eq_of_lt hf]

/-- Edges within a hold take up the hold and leave the count. -/
theorem edges_held (hv : t.state = .locked ∨ t.state = .holdover) (hh : 4 * n ≤ t.hold) (hf : t.frac < 500) :
    (t.edges n).ft = t.ft ∧ (t.edges n).hold = t.hold - 4 * n := by
  unfold TimeFront.edges
  simp [hv, Nat.min_eq_right hh, Nat.div_eq_of_lt hf]

/-- With nothing held the count advances 4 ns an edge, and 0.002 ns more or less on as many edges as the slew asks for;
both sides count units of 0.002 ns. -/
theorem edges_free (hv : t.state = .locked ∨ t.state = .holdover) (hh : t.hold = 0) :
    500 * (t.edges n).ft + (t.edges n).frac = 500 * t.ft + (if 0 ≤ t.slew then t.frac + 2000 * n + min t.slew.natAbs n
      else t.frac + 2000 * n - min t.slew.natAbs n) ∧
    (t.edges n).frac < 500 ∧
    (t.edges n).slew = if 0 ≤ t.slew then t.slew - min t.slew.natAbs n else t.slew + min t.slew.natAbs n := by
  have hn : (4 * n - min t.hold (4 * n)) / 4 = n := by omega
  unfold TimeFront.edges
  simp only [hv, if_true, hn, ge_iff_le]
  exact ⟨by omega, Nat.mod_lt _ (by decide), by push_cast⟩

/-- With nothing held and nothing to slew, the count advances 4 ns an edge. -/
theorem edges_steady (hv : t.state = .locked ∨ t.state = .holdover) (hh : t.hold = 0) (hs : t.slew = 0) (hf : t.frac < 500) :
    (t.edges n).ft = t.ft + 4 * n ∧ (t.edges n).frac = t.frac := by
  obtain ⟨hsum, hfrac, -⟩ := edges_free (n := n) hv hh
  rw [hs] at hsum
  simp only [le_refl, if_true, Int.natAbs_zero, Nat.zero_min] at hsum
  omega

/-- While a forward difference is slewed, each edge is 4.002 ns. -/
theorem edges_slewForward (hv : t.state = .locked ∨ t.state = .holdover) (hh : t.hold = 0) (hs : (n : Int) ≤ t.slew) :
    500 * (t.edges n).ft + (t.edges n).frac = 500 * t.ft + t.frac + 2001 * n ∧ (t.edges n).frac < 500 ∧
      (t.edges n).slew = t.slew - n := by
  obtain ⟨hsum, hfrac, hslew⟩ := edges_free (n := n) hv hh
  have hp : 0 ≤ t.slew := by omega
  rw [if_pos hp] at hsum hslew
  omega

/-- While a backward difference is slewed, each edge is 3.998 ns. -/
theorem edges_slewBackward (hv : t.state = .locked ∨ t.state = .holdover) (hh : t.hold = 0) (hs : (n : Int) ≤ -t.slew) :
    500 * (t.edges n).ft + (t.edges n).frac = 500 * t.ft + t.frac + 1999 * n ∧ (t.edges n).frac < 500 ∧
      (t.edges n).slew = t.slew + n := by
  obtain ⟨hsum, hfrac, hslew⟩ := edges_free (n := n) hv hh
  split at hsum <;> omega

end Edges

/-! ## What an accepted word makes of the count (R27 to R29) -/

/-- Two time fronts agree in the mode, the count, and what is still to be held or slewed: all that a correction reads. -/
def SameCount (t u : TimeFront) : Prop := u.mode = t.mode ∧ u.ft = t.ft ∧ u.hold = t.hold ∧ u.slew = t.slew

section Words

variable {s : State} {t u : TimeFront} {d : Int} {v : Nat} {w : BitVec 72}

theorem sameCount_when {b : Bool} {f : State → State} (h : SameCount t s.time)
    (hf : ∀ x, SameCount t x.time → SameCount t (f x).time) : SameCount t (when b f s).time := by
  cases b
  · exact h
  · exact hf s h

theorem sameCount_relocked (h : SameCount t s.time) : SameCount t (relocked s).time := by
  unfold relocked
  dsimp only
  rw [timeAlert_time, raiseInt_time]
  exact h

theorem sameCount_correct (h : SameCount t u) : SameCount (correct d t) (correct d u) := by
  obtain ⟨hm, hft, hhold, hslew⟩ := h
  unfold correct
  rw [hm, hft, hhold]
  split
  · exact ⟨rfl, rfl, rfl, rfl⟩
  · split <;> exact ⟨rfl, rfl, rfl, hslew⟩

/-- A word inside the window corrects the count; the frame's flag and a return to Locked leave it. -/
theorem sameCount_trackWord (h : SameCount t s.time) (hw : inWindow t.mode ((v : Int) - t.ft) = true) :
    SameCount (correct ((v : Int) - t.ft) t) (trackWord v s).time := by
  have ⟨hm, hft, _, _⟩ := h
  unfold trackWord
  simp only [onTime_time, hm, hft, hw, if_true]
  exact sameCount_when (sameCount_when (sameCount_correct h) fun _ h => h) fun _ => sameCount_relocked

/-- A good word inside the window, at an edge that no other edge precedes, corrects the count as R28 says. -/
theorem exec_acceptedWord (hp : s.rst.aonOk = true) (hv : timeValid s = true) (hk : wordOk w = true) (hf : s.time.frac < 500)
    (hw : inWindow s.time.mode ((wordFt w : Int) - s.time.ft) = true) :
    ∃ t, exec (.ftiTimeWord 0 w) s = .next t ∧ SameCount (correct ((wordFt w : Int) - s.time.ft) s.time) t.time := by
  refine ⟨_, (run_powered hp : execFtiTimeWord 0 w s = _), ?_⟩
  have hz : (onTime (fun t => { t with refOn := true }) s).time.edges 0 = { s.time with refOn := true } := edges_zero hf
  have hv' : timeValid (passEdges 0 (onTime (fun t => { t with refOn := true }) s)) = true := by
    rw [timeValid_iff, passEdges_time, hz]
    exact timeValid_iff.mp hv
  simp only [hk, hv', Bool.not_true, Bool.false_eq_true, if_false, if_true]
  refine sameCount_trackWord ?_ hw
  rw [passEdges_time, hz]
  exact ⟨rfl, rfl, rfl, rfl⟩

/-- In counter mode a difference of at most 8 ns lies inside the window. -/
theorem inWindow_counter {m : Nat} (hm : m ≠ 2) (hd : d.natAbs ≤ 8) : inWindow m d = true := by
  simp [inWindow, syncWindow, hm, hd]

/-- In disciplined mode a difference of at most 20 µs lies inside the window. -/
theorem inWindow_disciplined {m : Nat} (hm : m = 2) (hd : d.natAbs ≤ 20000) : inWindow m d = true := by
  simp [inWindow, syncWindow, hm, hd]

theorem correct_forward (hm : t.mode ≠ 2) (hd : 0 ≤ d) :
    (correct d t).ft = t.ft + d.toNat ∧ (correct d t).hold = 0 := by
  unfold correct
  rw [if_neg hm, if_pos hd]
  exact ⟨rfl, rfl⟩

theorem correct_backward (hm : t.mode ≠ 2) (hd : d < 0) : (correct d t).ft = t.ft ∧ (correct d t).hold = d.natAbs := by
  unfold correct
  rw [if_neg hm, if_neg (by omega)]
  exact ⟨rfl, rfl⟩

theorem correct_disciplined (hm : t.mode = 2) :
    (correct d t).ft = t.ft ∧ (correct d t).hold = t.hold ∧ (correct d t).slew = (d + t.hold) * 500 := by
  unfold correct
  rw [if_pos hm]
  exact ⟨rfl, rfl, rfl⟩

/-- In counter mode a word ahead of the count is taken in one step. -/
theorem exec_wordAhead (hp : s.rst.aonOk = true) (hv : timeValid s = true) (hm : s.time.mode ≠ 2) (hk : wordOk w = true)
    (hf : s.time.frac < 500) (hle : s.time.ft ≤ wordFt w) (hin : wordFt w ≤ s.time.ft + 8) :
    ∃ t, exec (.ftiTimeWord 0 w) s = .next t ∧ t.time.ft = wordFt w ∧ t.time.hold = 0 := by
  obtain ⟨t, he, -, hft, hhold, -⟩ := exec_acceptedWord hp hv hk hf (inWindow_counter hm (by omega))
  obtain ⟨cft, chold⟩ := correct_forward (t := s.time) (d := (wordFt w : Int) - s.time.ft) hm (by omega)
  exact ⟨t, he, by omega, by omega⟩

/-- In counter mode a word behind the count is held. -/
theorem exec_wordBehind (hp : s.rst.aonOk = true) (hv : timeValid s = true) (hm : s.time.mode ≠ 2) (hk : wordOk w = true)
    (hf : s.time.frac < 500) (hlt : wordFt w < s.time.ft) (hin : s.time.ft ≤ wordFt w + 8) :
    ∃ t, exec (.ftiTimeWord 0 w) s = .next t ∧ t.time.ft = s.time.ft ∧ t.time.hold = s.time.ft - wordFt w := by
  obtain ⟨t, he, -, hft, hhold, -⟩ := exec_acceptedWord hp hv hk hf (inWindow_counter hm (by omega))
  obtain ⟨cft, chold⟩ := correct_backward (t := s.time) (d := (wordFt w : Int) - s.time.ft) hm (by omega)
  exact ⟨t, he, by omega, by omega⟩

/-- In disciplined mode the difference is left to the slew, in units of 0.002 ns. -/
theorem exec_wordSlewed (hp : s.rst.aonOk = true) (hv : timeValid s = true) (hm : s.time.mode = 2) (hh : s.time.hold = 0)
    (hk : wordOk w = true) (hf : s.time.frac < 500) (hle : s.time.ft ≤ wordFt w + 20000) (hge : wordFt w ≤ s.time.ft + 20000) :
    ∃ t, exec (.ftiTimeWord 0 w) s = .next t ∧ t.time.ft = s.time.ft ∧ t.time.hold = 0 ∧
      t.time.slew = 500 * ((wordFt w : Int) - s.time.ft) := by
  obtain ⟨t, he, -, hft, hhold, hslew⟩ := exec_acceptedWord hp hv hk hf (inWindow_disciplined hm (by omega))
  obtain ⟨cft, chold, cslew⟩ := correct_disciplined (t := s.time) (d := (wordFt w : Int) - s.time.ft) hm
  exact ⟨t, he, by omega, by omega, by omega⟩

end Words

/-! ## The count never runs back (R28) -/

/-- A next state of a command other than a power-on holds a count no lower. -/
theorem exec_ft_le {c : Instr} {s t : State} (hc : isPowerOn c = false) (he : exec c s = .next t) : s.time.ft ≤ t.time.ft :=
  (later_exec hc (Later.refl (releases c) s) t he).ft

/-- Settles O51: the first clause is `Later`'s, the next three are the three corrections, the last four what edges add. -/
theorem countNeverRunsBack : Obligations.CountNeverRunsBack := by
  refine ⟨fun _ _ _ => exec_ft_le, fun _ _ => exec_wordAhead, fun _ _ => exec_wordBehind, fun _ _ => exec_wordSlewed,
    fun _ _ hv => ?held, fun _ _ hv => ?steady, fun _ _ hv hh hs _ => ?forward, fun _ _ hv hh hs _ => ?backward⟩
  case held => exact edges_held (timeValid_iff.mp hv)
  case steady => exact edges_steady (timeValid_iff.mp hv)
  case forward => exact edges_slewForward (timeValid_iff.mp hv) hh hs
  case backward => exact edges_slewBackward (timeValid_iff.mp hv) hh hs

end Sys2Proof.Machine
end

section
/-!
The Sampler's counters, event lines and comparators: what a counter makes of a frame's increments, what a line counts in a
cycle, what an evaluation makes of a comparator, and the evaluations that a gauge's update brings (R56, R66 to R87).
-/

namespace Sys2Proof.Machine

/-! ## A counter at the close of a frame (R70, R74, R76) -/

section Counters

variable {i next : Nat} {fs : List CounterFault} {s : State}

/-- The close of a frame loses what the counter took in it: the counter is void or was not observed (R74, R76). -/
def lostAtClose (i : Nat) (fs : List CounterFault) (s : State) : Prop :=
  (counter i s).dead = true ∨ voidIn fs i = true ∨ unobserved (counter i s) s = true

theorem closeCounter_index : (closeCounter i next fs s).1.index = i := rfl

theorem closeCounter_prescale : (closeCounter i next fs s).1.prescale = bindPrescale (counter i s).binding := rfl

theorem closeCounter_value :
    (closeCounter i next fs s).2.value = ((counter i s).value + (closeCounter i next fs s).1.delta) % 2 ^ 64 := rfl

theorem closeCounter_residue : (closeCounter i next fs s).2.residue = (closeCounter i next fs s).1.residue := rfl

/-- An observed counter divides its residue and its increments by 2^k: the entry takes the quotient and the remainder. -/
theorem closeCounter_counted (h : ¬ lostAtClose i fs s) :
    (closeCounter i next fs s).1.delta
        = ((counter i s).residue + (counter i s).snapInc.getD 0) / 2 ^ bindPrescale (counter i s).binding ∧
      (closeCounter i next fs s).1.residue
        = ((counter i s).residue + (counter i s).snapInc.getD 0) % 2 ^ bindPrescale (counter i s).binding := by
  simp only [lostAtClose, not_or, Bool.not_eq_true] at h
  obtain ⟨hdead, hvoid, hseen⟩ := h
  simp [closeCounter, hdead, hvoid, hseen]

/-- A counter that is void or was not observed reports no increment and keeps its residue. -/
theorem closeCounter_lost (h : lostAtClose i fs s) :
    (closeCounter i next fs s).1.delta = 0 ∧ (closeCounter i next fs s).1.residue = (counter i s).residue := by
  have hb : ((counter i s).dead || voidIn fs i || unobserved (counter i s) s) = true := by
    simpa only [lostAtClose, Bool.or_eq_true, or_assoc] using h
  simp only [closeCounter, hb, if_true, and_self]

end Counters

/-- Settles O52: the quotient and the remainder of the sum by 2^k make up the sum. -/
theorem countersKeepEveryIncrement : Obligations.CountersKeepEveryIncrement := by
  refine ⟨fun i next fs s n hdead hvoid hseen hn => ?counted, fun i next fs s h => ?lost⟩
  case counted =>
    have hkept : ¬ lostAtClose i fs s := by simp [lostAtClose, hdead, hvoid, hseen]
    obtain ⟨hdelta, hres⟩ := closeCounter_counted (next := next) hkept
    rw [hn] at hdelta hres
    refine ⟨closeCounter_index, closeCounter_prescale, hdelta, closeCounter_value, closeCounter_residue, ?below, ?sum⟩
    case below =>
      rw [hres]
      exact Nat.mod_lt _ (Nat.two_pow_pos _)
    case sum =>
      rw [hdelta, hres, Nat.add_comm n]
      exact (Nat.div_add_mod' _ _).symm
  case lost =>
    obtain ⟨hdelta, hres⟩ := closeCounter_lost (next := next) h
    refine ⟨hdelta, closeCounter_residue.trans hres, hres, ?_⟩
    rw [closeCounter_value, hdelta, Nat.add_zero]

/-! ## An event line in one cycle (R56) -/

section LineCounts

variable {cfg : Word16} {i : Nat} {prev now : Lines}

/-- The qualifier lets a line count: it is not enabled, or its level is the one that passes. -/
def qualifierPasses (cfg : Word16) (now : Lines) : Prop :=
  cfg.getLsbD 2 = false ∨ (cfg.getLsbD 3 = false ∧ now.getLsbD (bits cfg.toNat 11 4) = true) ∨
    (cfg.getLsbD 3 = true ∧ now.getLsbD (bits cfg.toNat 11 4) = false)

/-- What the line's mode finds in its level before and now. -/
def modeHit (mode i : Nat) (prev now : Lines) : Bool :=
  match mode with
  | 0 => false
  | 1 => now.getLsbD i
  | 2 => !prev.getLsbD i && now.getLsbD i
  | _ => prev.getLsbD i && !now.getLsbD i

theorem lineCount_eq : lineCount cfg i prev now = bnat (modeHit (lineMode cfg) i prev now &&
    (!cfg.getLsbD 2 || (now.getLsbD (bits cfg.toNat 11 4) != cfg.getLsbD 3))) := rfl

theorem qualifierPasses_iff :
    qualifierPasses cfg now ↔ (!cfg.getLsbD 2 || (now.getLsbD (bits cfg.toNat 11 4) != cfg.getLsbD 3)) = true := by
  unfold qualifierPasses
  cases cfg.getLsbD 2 <;> cases cfg.getLsbD 3 <;> simp

/-- A line that its qualifier stops counts nothing. -/
theorem lineCount_stopped (h : ¬ qualifierPasses cfg now) : lineCount cfg i prev now = 0 := by
  rw [qualifierPasses_iff, Bool.not_eq_true] at h
  rw [lineCount_eq, h, Bool.and_false]
  rfl

/-- A line that its qualifier passes counts what its mode finds. -/
theorem lineCount_passed (h : qualifierPasses cfg now) :
    lineCount cfg i prev now = bnat (modeHit (lineMode cfg) i prev now) := by
  rw [qualifierPasses_iff] at h
  rw [lineCount_eq, h, Bool.and_true]

/-- After a power-on no line has a configuration. -/
theorem exec_powerOn_lines (f : FuseMap) (k : Nat) (s : State) : ∃ t, exec (.powerOn f k) s = .next t ∧ t.smp.lines = [] := by
  refine ⟨_, rfl, ?_⟩
  unfold hotJoin
  split <;> rfl

end LineCounts

/-- Settles O55: the qualifier first, then each mode by its number. -/
theorem linesCountByMode : Obligations.LinesCountByMode := by
  refine ⟨fun cfg i prev now => ⟨fun h => lineCount_stopped h, fun h hm => ?off, fun h hm => ?level, fun h hm => ?rise,
    fun h hm => ?fall⟩, fun f k s => ?powerOn⟩
  case powerOn =>
    obtain ⟨t, he, hlines⟩ := exec_powerOn_lines f k s
    exact ⟨t, he, fun l => by rw [hlines]; rfl⟩
  all_goals
    have hmode : lineMode cfg = _ := hm
    rw [lineCount_passed h, hmode]
  case off => rfl
  case level => rfl
  case rise => simp [modeHit, bnat]
  case fall => simp [modeHit, bnat]

/-! ## One evaluation of a comparator (R82 to R84, R87) -/

section Comparators

variable {c : Cmp} {l : Latch} {sg : Bool} {v w ft : Nat}

theorem pastThreshold_iff : pastThreshold c sg v = true ↔
    if c.down = true then asLevel sg v ≤ asLevel sg c.threshold else asLevel sg c.threshold ≤ asLevel sg v := by
  unfold pastThreshold
  split <;> exact decide_eq_true_iff

theorem furtherThan_iff : furtherThan c sg v w = true ↔
    if c.down = true then asLevel sg v < asLevel sg w else asLevel sg w < asLevel sg v := by
  unfold furtherThan
  split <;> exact decide_eq_true_iff

/-- The least level of a comparison type (R82). -/
def levelMin (sg : Bool) : Int := if sg = true then -2 ^ 31 else 0

/-- The greatest level of a comparison type (R82). -/
def levelMax (sg : Bool) : Int := if sg = true then 2 ^ 31 - 1 else 2 ^ 32 - 1

theorem asLevel_range : levelMin sg ≤ asLevel sg v ∧ asLevel sg v ≤ levelMax sg := by
  unfold levelMin levelMax asLevel toSigned
  split
  · split <;> omega
  · omega

theorem clampLevel_eq {i : Int} : clampLevel sg i = max (levelMin sg) (min i (levelMax sg)) := by
  cases sg <;> rfl

/-- What lies above a level is clamped from above alone. -/
theorem clampLevel_add (n : Nat) : clampLevel sg (asLevel sg v + n) = min (levelMax sg) (asLevel sg v + n) := by
  have hrange := asLevel_range (sg := sg) (v := v)
  rw [clampLevel_eq]
  omega

/-- What lies below a level is clamped from below alone. -/
theorem clampLevel_sub (n : Nat) : clampLevel sg (asLevel sg v - n) = max (levelMin sg) (asLevel sg v - n) := by
  have hrange := asLevel_range (sg := sg) (v := v)
  rw [clampLevel_eq]
  omega

theorem rearms_iff : rearms c sg v = true ↔
    if c.down = true then min (levelMax sg) (asLevel sg c.threshold + c.hyst) < asLevel sg v
    else asLevel sg v < max (levelMin sg) (asLevel sg c.threshold - c.hyst) := by
  unfold rearms
  rw [clampLevel_add, clampLevel_sub]
  split <;> exact decide_eq_true_iff

/-- An evaluation is a crossing where it finds an armed comparator past its threshold. -/
def crosses (c : Cmp) (sg : Bool) (v : Nat) : Prop := c.armed = some true ∧ pastThreshold c sg v = true

/-- Whether a comparator is armed after an evaluation that is no crossing. -/
def armedAfter (c : Cmp) (sg : Bool) (v : Nat) : Bool :=
  match c.armed with
  | none => !pastThreshold c sg v
  | some true => true
  | some false => rearms c sg v

theorem evalCmp_crossing (h : crosses c sg v) : evalCmp c sg v ft
    = ({ c with armed := some false, tally := c.tally + 1, latch := some (latchCross c sg v ft) }, true) := by
  obtain ⟨harmed, hpast⟩ := h
  unfold evalCmp
  simp [harmed, hpast]

theorem evalCmp_watching (h : ¬ crosses c sg v) : evalCmp c sg v ft
    = ({ c with armed := some (armedAfter c sg v), latch := latchWatch c sg v }, false) := by
  unfold evalCmp armedAfter
  rcases harmed : c.armed with _ | _ | _
  · rfl
  · rfl
  · have hnot : pastThreshold c sg v = false := by simpa [crosses, harmed] using h
    simp [hnot, ← harmed]

/-- An evaluation leaves a comparator enabled as it was. -/
theorem evalCmp_enable : (evalCmp c sg v ft).1.enable = c.enable := by
  by_cases h : crosses c sg v
  · rw [evalCmp_crossing h]
  · rw [evalCmp_watching h]

theorem latchCross_empty (h : c.latch = none) :
    latchCross c sg v ft = { firstFt := ft, lastFt := ft, count := 1, extreme := v, sat := false } := by
  simp [latchCross, h]

theorem latchCross_held (h : c.latch = some l) : latchCross c sg v ft
    = { firstFt := l.firstFt, lastFt := ft, count := satInc l.count,
        extreme := if furtherThan c sg v l.extreme then v else l.extreme, sat := l.sat || l.count == 0xFFFFFFFF } := by
  simp [latchCross, h]

theorem latchWatch_held (h : c.latch = some l) : latchWatch c sg v
    = some { l with extreme := if furtherThan c sg v l.extreme then v else l.extreme } := by
  simp [latchWatch, h]

end Comparators

/-! ## What an alert or a notice leaves of the Sampler -/

section SamplerKept

variable {s : State}

theorem when_smp {b : Bool} {f : State → State} (hf : (f s).smp = s.smp) : (when b f s).smp = s.smp := by
  cases b
  · rfl
  · exact hf

@[simp] theorem notify_smp {subject : NoticeSubject} {p cmd : Nat} {payload : List Fld} :
    (notify subject p cmd payload s).smp = s.smp := by
  unfold notify; split <;> rfl

@[simp] theorem bypQueue_smp {a : AlertEntry} : (bypQueue a s).smp = s.smp := by
  unfold bypQueue; split <;> rfl

@[simp] theorem raiseAt_smp {code subject detail ft : Nat} : (raiseAt code subject detail ft s).smp = s.smp := by
  unfold raiseAt
  dsimp only
  split
  · rfl
  · rw [notify_smp, bypQueue_smp]

@[simp] theorem cmpNotice_smp {k : Nat} : (cmpNotice k s).smp = s.smp :=
  (when_smp raiseAt_smp).trans (when_smp notify_smp)

@[simp] theorem cmpNotice_time {k : Nat} : (cmpNotice k s).time = s.time :=
  (when_time raiseAt_time).trans (when_time notify_time)

end SamplerKept

/-! ## The evaluations that a gauge's update brings (R55, R80) -/

section Updates

variable {s : State} {sg : Bool} {g j k v ft : Nat}

/-- An index that is given a value other than the default reads as that value, whatever the table's form. -/
theorem tget_tmod_listed {α : Type} [DecidableEq α] {d : α} {f : α → α} {t : Tab α} (h : f (tget d k t) ≠ d) :
    tget d k (tmod d k f t) = f (tget d k t) := by
  unfold tmod tput
  rw [if_neg h]
  exact tget_tins_self d k _ t

theorem cmp_onGauge {f : Gauge → Gauge} : cmp k (onGauge g f s) = cmp k s := rfl

theorem ftStamp_onGauge {f : Gauge → Gauge} : ftStamp (onGauge g f s) = ftStamp s := rfl

theorem takeUpdate_config {x : Gauge} : (takeUpdate v x).config = x.config := rfl

/-- An update marks its gauge as updated. -/
theorem gauge_onGauge_takeUpdate : gauge g (onGauge g (takeUpdate v) s) = takeUpdate v (gauge g s) :=
  tget_tmod_listed fun h => Bool.noConfusion (congrArg Gauge.updated h)

/-- An evaluation changes one comparator of the Sampler. -/
theorem evaluate_smp : (evaluate k sg v ft s).smp = (onCmp k (fun _ => (evalCmp (cmp k s) sg v ft).1) s).smp :=
  when_smp cmpNotice_smp

theorem evaluate_cmps :
    (evaluate k sg v ft s).smp.cmps = tmod Cmp.idle k (fun _ => (evalCmp (cmp k s) sg v ft).1) s.smp.cmps :=
  congrArg Sampler.cmps evaluate_smp

theorem evaluate_time : (evaluate k sg v ft s).time = s.time := when_time cmpNotice_time

theorem cmp_evaluate_self (h : (cmp k s).enable = true) : cmp k (evaluate k sg v ft s) = (evalCmp (cmp k s) sg v ft).1 := by
  have hlisted : (evalCmp (cmp k s) sg v ft).1 ≠ Cmp.idle := fun hidle => by
    have henable := congrArg Cmp.enable hidle
    rw [evalCmp_enable, h] at henable
    exact Bool.noConfusion henable
  unfold cmp
  rw [evaluate_cmps]
  exact tget_tmod_listed (f := fun _ => (evalCmp (cmp k s) sg v ft).1) hlisted

theorem cmp_evaluate_other (h : j ≠ k) : cmp j (evaluate k sg v ft s) = cmp j s := by
  unfold cmp
  rw [evaluate_cmps]
  exact tget_tmod_other h

/-- What one comparator makes of an update of its gauge. -/
def updateCmp (g v k : Nat) (s : State) : State :=
  when ((cmp k s).enable && !(cmp k s).srcCounter) (evaluate k (gaugeSigned (gauge g s).config) v (ftStamp s)) s

theorem evalGauge_eq : evalGauge g v s = forEach ((List.range 4).map (4 * g + ·)) (updateCmp g v) s := rfl

theorem updateCmp_watching (he : (cmp k s).enable = true) (hc : (cmp k s).srcCounter = false) :
    updateCmp g v k s = evaluate k (gaugeSigned (gauge g s).config) v (ftStamp s) s := by
  simp [updateCmp, he, hc, when]

theorem cmp_updateCmp_other (h : j ≠ k) : cmp j (updateCmp g v k s) = cmp j s := by
  unfold updateCmp when
  split
  · exact cmp_evaluate_other h
  · rfl

theorem gauge_updateCmp : gauge j (updateCmp g v k s) = gauge j s := by
  unfold updateCmp when
  split
  · unfold gauge
    rw [evaluate_smp]
    rfl
  · rfl

theorem ftStamp_updateCmp : ftStamp (updateCmp g v k s) = ftStamp s := by
  have htime : (updateCmp g v k s).time = s.time := when_time evaluate_time
  unfold ftStamp timeValid
  rw [htime]

/-- Comparators that are not named keep their state. -/
theorem cmp_forEach_updateCmp_other {l : List Nat} (h : k ∉ l) : cmp k (forEach l (updateCmp g v) s) = cmp k s := by
  unfold forEach
  induction l generalizing s with
  | nil => rfl
  | cons j l ih =>
    rw [List.mem_cons, not_or] at h
    exact (ih h.2).trans (cmp_updateCmp_other h.1)

/-- Of comparators that are named once each, one that watches the gauge makes one evaluation, as if it were alone. -/
theorem cmp_forEach_updateCmp {l : List Nat} (hn : l.Nodup) (hk : k ∈ l) (he : (cmp k s).enable = true)
    (hc : (cmp k s).srcCounter = false) : cmp k (forEach l (updateCmp g v) s)
      = (evalCmp (cmp k s) (gaugeSigned (gauge g s).config) v (ftStamp s)).1 := by
  induction l generalizing s with
  | nil => cases hk
  | cons j l ih =>
    rw [List.nodup_cons] at hn
    have hstep : forEach (j :: l) (updateCmp g v) s = forEach l (updateCmp g v) (updateCmp g v j s) := rfl
    rw [hstep]
    by_cases hj : k = j
    · subst hj
      rw [cmp_forEach_updateCmp_other hn.1, updateCmp_watching he hc, cmp_evaluate_self he]
    · have hsame : cmp k (updateCmp g v j s) = cmp k s := cmp_updateCmp_other hj
      have htail := ih hn.2 ((List.mem_cons.mp hk).resolve_left hj) (hsame ▸ he) (hsame ▸ hc)
      rwa [hsame, gauge_updateCmp, ftStamp_updateCmp] at htail

/-- An enabled comparator of a gauge evaluates the update of the gauge once. -/
theorem cmp_evalGauge (hk : k < 4) (he : (cmp (4 * g + k) s).enable = true) (hc : (cmp (4 * g + k) s).srcCounter = false) :
    cmp (4 * g + k) (evalGauge g v s)
      = (evalCmp (cmp (4 * g + k) s) (gaugeSigned (gauge g s).config) v (ftStamp s)).1 := by
  rw [evalGauge_eq]
  refine cmp_forEach_updateCmp ?nodup ?mem he hc
  case nodup => exact List.nodup_range.map fun _ _ h => Nat.add_left_cancel h
  case mem => exact List.mem_map.mpr ⟨k, List.mem_range.mpr hk, rfl⟩

/-- A strobe that the front sees and that names an enabled gauge updates the gauge and evaluates its comparators. -/
theorem exec_gaugeUpdate {c i : Nat} (hp : s.rst.aonOk = true) (hf : frontSees c s = true) (hi : i < 64) (hv : v < 2 ^ 32)
    (hg : gaugeEnable (gauge (64 * c + i) s).config = true) :
    exec (.gaugeUpdate c i v) s = .next (evalGauge (64 * c + i) v (onGauge (64 * c + i) (takeUpdate v) s)) := by
  refine (run_powered hp : execGaugeUpdate c i v s = _).trans ?_
  simp only [Nat.mod_eq_of_lt hi, Nat.mod_eq_of_lt hv, hf, hg, when, Bool.and_self, if_true]

end Updates

/-- Settles O53: a crossing on an empty and on a held latch, an evaluation that is no crossing, and an update of a gauge. -/
theorem comparatorsCross : Obligations.ComparatorsCross := by
  refine ⟨fun c sg v ft ha hp hl => ?empty, fun c sg v ft l ha hp hl => ?held, fun c sg v ft h => ?watching,
    fun c i v k s hp hf hi hv hg hk he hc => ?update⟩
  case empty =>
    rw [evalCmp_crossing ⟨ha, pastThreshold_iff.mpr hp⟩, latchCross_empty hl]
  case held =>
    refine ⟨_, evalCmp_crossing ⟨ha, pastThreshold_iff.mpr hp⟩, ?_⟩
    rw [latchCross_held hl]
    refine ⟨rfl, rfl, fun hlt => ?_, fun heq => ?_, fun hb => ?_, fun hb => ?_⟩
    · simp [satInc, hlt, hlt.ne]
    · simp [satInc, heq]
    · exact if_pos (furtherThan_iff.mpr hb)
    · exact if_neg (mt furtherThan_iff.mp hb)
  case watching =>
    have hno : ¬ crosses c sg v := by
      rintro ⟨ha, hp⟩
      rcases h with ⟨-, hn⟩ | h | h
      · exact hn (pastThreshold_iff.mp hp)
      · simp [ha] at h
      · simp [ha] at h
    rw [evalCmp_watching hno]
    refine ⟨armedAfter c sg v, rfl, fun ha => ?_, fun ha => ?_, fun ha => ?_, fun hl => ?_, fun l hl => ?_⟩
    · simp [armedAfter, ha]
    · rw [armedAfter, ha]
      exact rearms_iff
    · rw [armedAfter, ha, Bool.not_eq_true', ← Bool.not_eq_true]
      exact not_congr pastThreshold_iff
    · simp [latchWatch, hl]
    · simp only [latchWatch_held hl]
      exact ⟨rfl, fun hb => congrArg some (if_pos (furtherThan_iff.mpr hb)),
        fun hb => congrArg some (if_neg (mt furtherThan_iff.mp hb))⟩
  case update =>
    refine ⟨_, exec_gaugeUpdate hp hf hi hv hg, ?_⟩
    have heval := cmp_evalGauge (v := v) (s := onGauge (64 * c + i) (takeUpdate v) s) hk he hc
    rwa [gauge_onGauge_takeUpdate, takeUpdate_config, cmp_onGauge, ftStamp_onGauge] at heval

end Sys2Proof.Machine
end

section
/-!
The trace fronts: when a packet may be admitted, and what each of its three outcomes makes of the state (R307 to R312).
-/

namespace Sys2Proof.Machine

/-! ## What a packet makes of its source -/

section SourceCounts

variable {x : Source}

/-- A packet that is excluded is counted at its level (R309). -/
def countExclusion (level : Nat) (x : Source) : Source := { x with excluded := tmod 0 level (· + 1) x.excluded }

/-- A packet that is dropped is counted and leaves a gap (R312). -/
def countIngestDrop (x : Source) : Source := { x with ingestDrops := x.ingestDrops + 1, gap := x.gap + 1 }

/-- A packet that is admitted is counted and takes the gap and the start with it (R307). -/
def countAdmission (x : Source) : Source := { x with admitted := x.admitted + 1, gap := 0, admitStart := false }

theorem tget_countExclusion {level : Nat} :
    tget 0 level (countExclusion level x).excluded = tget 0 level x.excluded + 1 :=
  tget_tmod_listed (f := (· + 1)) (Nat.succ_ne_zero _)

theorem countExclusion_ne_idle {level : Nat} : countExclusion level x ≠ Source.idle := fun h =>
  Nat.succ_ne_zero _ (tget_countExclusion.symm.trans (congrArg (fun y => tget 0 level y.excluded) h))

theorem countIngestDrop_ne_idle : countIngestDrop x ≠ Source.idle := fun h =>
  Nat.succ_ne_zero _ (congrArg Source.ingestDrops h)

theorem countAdmission_ne_idle : countAdmission x ≠ Source.idle := fun h =>
  Nat.succ_ne_zero _ (congrArg Source.admitted h)

end SourceCounts

/-! ## The three outcomes at a front (R307, R309, R312) -/

section TraceFronts

variable {p : TrcPacket} {n : Nat} {s : State} {f : Source → Source}

/-- A source that does not fall back to idle reads as what was made of it, whatever the table's form. -/
theorem sourceOf_onSource (h : f (sourceOf n s) ≠ Source.idle) : sourceOf n (onSource n f s) = f (sourceOf n s) :=
  tget_tmod_listed h

theorem onSource_fronts : (onSource n f s).trc.fronts = s.trc.fronts := rfl

theorem granted_iff {level : Nat} :
    granted n level s = true ↔ ∃ g ∈ s.trc.grants, g.mask.getLsbD n = true ∧ g.levels.getLsbD level = true := by
  simp [granted]

/-- The five conditions of R309. -/
theorem mayAdmit_iff {c : Word32} (hc : c = (sourceOf n s).config) : mayAdmit n p s = true ↔
    c.getLsbD 0 = true ∧ (bits c.toNat 19 10 = 0 ∨ bits c.toNat 19 10 = p.part) ∧ c.getLsbD (6 + p.priv) = true ∧
      (p.priv = 0 ∨ ∃ g ∈ s.trc.grants, g.mask.getLsbD n = true ∧ g.levels.getLsbD p.priv = true) ∧
      (p.priv = 3 → s.fuse.trcSecure = true) := by
  rw [← granted_iff, mayAdmit, ← hc]
  simp [trcEnable, trcPartition, trcLevel, and_assoc, imp_iff_not_or]

/-- What a front's queue takes of a packet. -/
def frontEntry (p : TrcPacket) (s : State) : FrontPkt :=
  { packet := p, dropped := (sourceOf (8 * p.front + p.channel) s).gap, ft := ftStamp s,
    start := (sourceOf (8 * p.front + p.channel) s).admitStart }

/-- A packet joins the end of its front's queue. -/
def joinFront (p : TrcPacket) (s : State) : State :=
  onTrc (fun t => { t with fronts := tmod [] p.front (· ++ [frontEntry p s]) t.fronts })
    (onSource (8 * p.front + p.channel) countAdmission s)

theorem frontQueue_joinFront : frontQueue p.front (joinFront p s) = frontQueue p.front s ++ [frontEntry p s] :=
  tget_tmod_listed (f := (· ++ [frontEntry p s])) (List.append_ne_nil_of_right_ne_nil _ (List.cons_ne_nil _ _))

theorem sourceOf_joinFront (hn : n = 8 * p.front + p.channel) :
    sourceOf n (joinFront p s) = countAdmission (sourceOf n s) := by
  subst hn
  exact sourceOf_onSource (s := s) countAdmission_ne_idle

theorem admitPacket_eq (hn : n = 8 * p.front + p.channel) : admitPacket p s =
    if mayAdmit n p s = true then
      if (frontQueue p.front s).length < (4 - trcClass (sourceOf n s).config) * 128 then joinFront p s
      else onSource n countIngestDrop s
    else onSource n (countExclusion p.priv) s := by
  subst hn
  cases h : mayAdmit (8 * p.front + p.channel) p s <;> simp only [admitPacket, h] <;> rfl

/-- At a front that is on, a packet of one of its channels meets its outcome. -/
theorem exec_tracePacket (hp : s.rst.aonOk = true) (hon : trcFrontsOn s = true) (hf : p.front < 8) (hc : p.channel < 8) :
    exec (.tracePacket p) s = .next (admitPacket p s) := by
  refine (run_powered hp : execTracePacket p s = _).trans ?_
  simp [when, hon, hf, hc]

end TraceFronts

/-- Settles O54: a packet that meets the five conditions finds room or does not, and one that does not meet them is excluded. -/
theorem traceFrontsAdmit : Obligations.TraceFrontsAdmit := by
  intro p n c s hp hon hf hch _ hn hc
  rw [exec_tracePacket hp hon hf hch, admitPacket_eq hn, ← mayAdmit_iff hc, hc, trcClass]
  refine ⟨fun hadmit => ⟨fun hroom => ?admitted, fun hfull => ?dropped⟩, fun hno => ?excluded⟩
  case admitted =>
    rw [if_pos hadmit, if_pos hroom]
    refine ⟨_, frontEntry p s, rfl, rfl, frontQueue_joinFront, ?_⟩
    rw [sourceOf_joinFront hn]
    exact ⟨rfl, rfl⟩
  case dropped =>
    rw [if_pos hadmit, if_neg hfull.not_gt]
    refine ⟨_, rfl, onSource_fronts, ?_⟩
    rw [sourceOf_onSource countIngestDrop_ne_idle]
    exact ⟨rfl, rfl⟩
  case excluded =>
    rw [if_neg hno]
    refine ⟨_, rfl, onSource_fronts, ?_⟩
    rw [sourceOf_onSource countExclusion_ne_idle]
    exact ⟨rfl, tget_countExclusion⟩

end Sys2Proof.Machine
end

section
/-!
Frames: which parts of the state an operation can change at all.  The shared operations of Machine/Ops each have their
footprint here once; a proof reads off it what an operation leaves alone.
-/

namespace Sys2Proof.Machine

/-! ## The parts of the state -/

/-- A part of the state: one field of `State`. -/
inductive Part where
  | pending | fuse | die | time | grid | nv | fence | sbi | rst | hrw | stw | pwr | smp | led | roles | place | conf | tree
  | arc | dig | test | trc | upl | buf | dump | jtag | epoch | exhausted | out | free
deriving DecidableEq

/-- Two states agree in a part. -/
def Part.same (k : Part) (s t : State) : Prop :=
  match k with
  | .pending => t.pending = s.pending | .fuse => t.fuse = s.fuse | .die => t.die = s.die | .time => t.time = s.time
  | .grid => t.grid = s.grid | .nv => t.nv = s.nv | .fence => t.fence = s.fence | .sbi => t.sbi = s.sbi
  | .rst => t.rst = s.rst | .hrw => t.hrw = s.hrw | .stw => t.stw = s.stw | .pwr => t.pwr = s.pwr
  | .smp => t.smp = s.smp | .led => t.led = s.led | .roles => t.roles = s.roles | .place => t.place = s.place
  | .conf => t.conf = s.conf | .tree => t.tree = s.tree | .arc => t.arc = s.arc | .dig => t.dig = s.dig
  | .test => t.test = s.test | .trc => t.trc = s.trc | .upl => t.upl = s.upl | .buf => t.buf = s.buf
  | .dump => t.dump = s.dump | .jtag => t.jtag = s.jtag | .epoch => t.epoch = s.epoch
  | .exhausted => t.exhausted = s.exhausted | .out => t.out = s.out | .free => t.free = s.free

/-- `s` with one part as `t` has it. -/
def Part.put (k : Part) (s t : State) : State :=
  match k with
  | .pending => { s with pending := t.pending } | .fuse => { s with fuse := t.fuse } | .die => { s with die := t.die }
  | .time => { s with time := t.time } | .grid => { s with grid := t.grid } | .nv => { s with nv := t.nv }
  | .fence => { s with fence := t.fence } | .sbi => { s with sbi := t.sbi } | .rst => { s with rst := t.rst }
  | .hrw => { s with hrw := t.hrw } | .stw => { s with stw := t.stw } | .pwr => { s with pwr := t.pwr }
  | .smp => { s with smp := t.smp } | .led => { s with led := t.led } | .roles => { s with roles := t.roles }
  | .place => { s with place := t.place } | .conf => { s with conf := t.conf } | .tree => { s with tree := t.tree }
  | .arc => { s with arc := t.arc } | .dig => { s with dig := t.dig } | .test => { s with test := t.test }
  | .trc => { s with trc := t.trc } | .upl => { s with upl := t.upl } | .buf => { s with buf := t.buf }
  | .dump => { s with dump := t.dump } | .jtag => { s with jtag := t.jtag } | .epoch => { s with epoch := t.epoch }
  | .exhausted => { s with exhausted := t.exhausted } | .out => { s with out := t.out } | .free => { s with free := t.free }

variable {s t u : State} {l l' : List Part} {k : Part}

theorem Part.same_refl : k.same s s := by cases k <;> rfl

theorem Part.same_trans (h : k.same s t) (h' : k.same t u) : k.same s u := by
  cases k <;> exact Eq.trans h' h

theorem Part.same_put {j : Part} (h : j ≠ k) : j.same s (k.put s t) := by
  cases k <;> cases j <;> first | exact absurd rfl h | rfl

/-! ## Footprints -/

/-- `t` differs from `s` in the parts of `l` alone. -/
def Touches (l : List Part) (s t : State) : Prop := ∀ k, k ∉ l → k.same s t

theorem Touches.refl : Touches l s s := fun _ _ => Part.same_refl

/-- One more change, in parts that the footprint has. -/
theorem Touches.andThen (h : Touches l s t) (h' : Touches l' t u) (hl : ∀ k ∈ l', k ∈ l) : Touches l s u :=
  fun k hk => Part.same_trans (h k hk) (h' k fun hm => hk (hl k hm))

/-- Two changes one after the other. -/
theorem Touches.trans (h : Touches l s t) (h' : Touches l t u) : Touches l s u := h.andThen h' fun _ hk => hk

/-- A change in the parts of a smaller footprint. -/
theorem Touches.mono (h : Touches l' s t) (hl : ∀ k ∈ l', k ∈ l) : Touches l s t :=
  Touches.refl.andThen h hl

/-- A change of one part. -/
theorem touches_put (k : Part) (h : t = k.put s t) : Touches [k] s t := fun j hj => by
  rw [h]
  exact Part.same_put fun e => hj (List.mem_singleton.mpr e)

theorem touches_ite {c : Prop} [Decidable c] (ht : Touches l s t) (hu : Touches l s u) : Touches l s (if c then t else u) := by
  split
  · exact ht
  · exact hu

theorem touches_when {b : Bool} {f : State → State} (hf : Touches l s (f s)) : Touches l s (when b f s) :=
  touches_ite hf Touches.refl

theorem touches_forEach {α : Type} {xs : List α} {f : α → State → State} (hf : ∀ a s, Touches l s (f a s)) :
    Touches l s (forEach xs f s) := by
  unfold forEach
  induction xs generalizing s with
  | nil => exact Touches.refl
  | cons a xs ih => exact (hf a s).trans ih

/-- What each pass of a loop leaves alone. -/
theorem forEach_keeps {α β : Type} {xs : List α} {f : α → State → State} (p : State → β) (hf : ∀ a s, p (f a s) = p s) :
    p (forEach xs f s) = p s := by
  unfold forEach
  induction xs generalizing s with
  | nil => rfl
  | cons a xs ih => exact ih.trans (hf a s)

/-! ## What a footprint leaves alone -/

section Leaves

variable (h : Touches l s t)
include h

theorem Touches.pending (hk : .pending ∉ l) : t.pending = s.pending := h .pending hk
theorem Touches.fuse (hk : .fuse ∉ l) : t.fuse = s.fuse := h .fuse hk
theorem Touches.die (hk : .die ∉ l) : t.die = s.die := h .die hk
theorem Touches.time (hk : .time ∉ l) : t.time = s.time := h .time hk
theorem Touches.grid (hk : .grid ∉ l) : t.grid = s.grid := h .grid hk
theorem Touches.nv (hk : .nv ∉ l) : t.nv = s.nv := h .nv hk
theorem Touches.fence (hk : .fence ∉ l) : t.fence = s.fence := h .fence hk
theorem Touches.sbi (hk : .sbi ∉ l) : t.sbi = s.sbi := h .sbi hk
theorem Touches.rst (hk : .rst ∉ l) : t.rst = s.rst := h .rst hk
theorem Touches.hrw (hk : .hrw ∉ l) : t.hrw = s.hrw := h .hrw hk
theorem Touches.stw (hk : .stw ∉ l) : t.stw = s.stw := h .stw hk
theorem Touches.pwr (hk : .pwr ∉ l) : t.pwr = s.pwr := h .pwr hk
theorem Touches.smp (hk : .smp ∉ l) : t.smp = s.smp := h .smp hk
theorem Touches.led (hk : .led ∉ l) : t.led = s.led := h .led hk
theorem Touches.roles (hk : .roles ∉ l) : t.roles = s.roles := h .roles hk
theorem Touches.place (hk : .place ∉ l) : t.place = s.place := h .place hk
theorem Touches.conf (hk : .conf ∉ l) : t.conf = s.conf := h .conf hk
theorem Touches.tree (hk : .tree ∉ l) : t.tree = s.tree := h .tree hk
theorem Touches.arc (hk : .arc ∉ l) : t.arc = s.arc := h .arc hk
theorem Touches.dig (hk : .dig ∉ l) : t.dig = s.dig := h .dig hk
theorem Touches.test (hk : .test ∉ l) : t.test = s.test := h .test hk
theorem Touches.trc (hk : .trc ∉ l) : t.trc = s.trc := h .trc hk
theorem Touches.upl (hk : .upl ∉ l) : t.upl = s.upl := h .upl hk
theorem Touches.buf (hk : .buf ∉ l) : t.buf = s.buf := h .buf hk
theorem Touches.dump (hk : .dump ∉ l) : t.dump = s.dump := h .dump hk
theorem Touches.jtag (hk : .jtag ∉ l) : t.jtag = s.jtag := h .jtag hk
theorem Touches.epoch (hk : .epoch ∉ l) : t.epoch = s.epoch := h .epoch hk
theorem Touches.exhausted (hk : .exhausted ∉ l) : t.exhausted = s.exhausted := h .exhausted hk
theorem Touches.out (hk : .out ∉ l) : t.out = s.out := h .out hk
theorem Touches.free (hk : .free ∉ l) : t.free = s.free := h .free hk

end Leaves

/-! ## The shared operations -/

theorem touches_emit {o : Out} : Touches [.out] s (emit o s) := touches_put .out rfl

theorem touches_countOwn {i n : Nat} : Touches [.led] s (countOwn i n s) := touches_put .led rfl

theorem touches_notify {x : NoticeSubject} {p cmd : Nat} {pl : List Fld} : Touches [.stw] s (notify x p cmd pl s) := by
  unfold notify
  exact touches_ite (touches_put .stw rfl) (touches_put .stw rfl)

theorem touches_bypQueue {a : AlertEntry} : Touches [.upl] s (bypQueue a s) := by
  unfold bypQueue
  exact touches_ite (touches_put .upl rfl) (touches_put .upl rfl)

/-- A report stands in the bypass queue, in the alerts of the next record and among the notices. -/
theorem touches_raiseAt {code subject detail ft : Nat} : Touches [.stw, .led, .upl] s (raiseAt code subject detail ft s) := by
  unfold raiseAt
  dsimp only
  split
  · exact touches_countOwn.mono (by decide)
  · exact (((touches_put .led rfl).mono (by decide)).andThen touches_bypQueue (by decide)).andThen touches_notify (by decide)

theorem touches_raise {code subject detail : Nat} : Touches [.stw, .led, .upl] s (raise code subject detail s) := touches_raiseAt

theorem touches_raiseInt {bit : Nat} : Touches [.hrw, .out] s (raiseInt bit s) := by
  unfold raiseInt
  exact ((touches_put .hrw rfl).mono (by decide)).andThen (touches_when touches_emit) (by decide)

theorem touches_raiseIbi {b : List Nat} : Touches [.out] s (raiseIbi b s) := touches_when touches_emit

theorem touches_sbiAlert {r : Report} : Touches [.sbi, .out] s (sbiAlert r s) := by
  unfold sbiAlert
  exact touches_ite (((touches_put .sbi rfl).mono (by decide)).andThen touches_raiseIbi (by decide)) ((touches_put .sbi rfl).mono (by decide))

theorem touches_raiseSbi {code subject detail ft : Nat} :
    Touches [.sbi, .stw, .led, .upl, .out] s (raiseSbi code subject detail ft s) :=
  (touches_raiseAt.mono (by decide)).andThen touches_sbiAlert (by decide)

theorem touches_isolationFault {p : Nat} : Touches [.hrw, .stw, .led, .upl, .out] s (isolationFault p s) :=
  (((touches_put .stw rfl).mono (by decide)).andThen touches_raiseInt (by decide)).andThen touches_raise (by decide)

theorem touches_nvPush {r : NvRec} : Touches [.nv] s (nvPush r s) := touches_put .nv rfl

theorem touches_absentAt {req d : Nat} : Touches [.pwr] s (absentAt req d s) := by
  unfold absentAt
  exact touches_ite Touches.refl (touches_put .pwr rfl)

theorem touches_passEdges {n : Nat} : Touches [.time] s (passEdges n s) := touches_put .time rfl

theorem touches_passNs {n : Nat} : Touches [.time] s (passNs n s) := by
  unfold passNs
  exact touches_ite touches_passEdges (touches_put .time rfl)

theorem touches_untilFt {ft : Nat} : Touches [.time] s (untilFt ft s) := touches_when touches_passEdges

theorem touches_untilTimer {at_ : Nat} : Touches [.time] s (untilTimer at_ s) := by
  unfold untilTimer
  exact touches_ite touches_passEdges (touches_put .time rfl)

theorem touches_untilLive {at_ : Nat} : Touches [.time] s (untilLive at_ s) := touches_when touches_passEdges

theorem touches_untilOsc {at_ : Nat} : Touches [.time] s (untilOsc at_ s) := touches_passNs

/-! ## The buffer master -/

theorem touches_bufIssue {p : Nat} {x : BufUse} {o : Out} : Touches [.buf, .out] s (bufIssue p x o s) := by
  unfold bufIssue
  exact touches_ite (((touches_put .buf rfl).mono (by decide)).andThen touches_emit (by decide)) ((touches_put .buf rfl).mono (by decide))

theorem touches_chainClose {n : Nat} : Touches [.buf, .out] s (chainClose n s) := by
  unfold chainClose
  dsimp only
  split
  · exact Touches.refl
  · exact ((touches_put .buf rfl).mono (by decide)).andThen touches_bufIssue (by decide)

theorem touches_chainWrite {n bytes : Nat} {d : BufData} : Touches [.buf, .out] s (chainWrite n bytes d s) := by
  unfold chainWrite
  dsimp only
  split
  · exact touches_ite (((touches_put .buf rfl).mono (by decide)).andThen touches_bufIssue (by decide)) (touches_chainClose.andThen (touches_put .buf rfl) (by decide))
  · exact touches_ite ((touches_put .buf rfl).mono (by decide)) ((touches_put .buf rfl).mono (by decide))

theorem touches_descDone {n fill st : Nat} {d : Desc} {e : Bool} : Touches [.stw, .out] s (descDone n d fill st e s) := by
  unfold descDone
  exact (touches_emit.mono (by decide)).andThen (touches_when touches_notify) (by decide)

theorem touches_chainWithdraw {n : Nat} : Touches [.stw, .buf, .out] s (chainWithdraw n s) := by
  unfold chainWithdraw
  dsimp only
  split
  · exact (touches_descDone.mono (by decide)).andThen (touches_put .buf rfl) (by decide)
  · exact touches_ite ((touches_descDone.mono (by decide)).andThen (touches_put .buf rfl) (by decide)) ((touches_put .buf rfl).mono (by decide))
  · exact (touches_put .buf rfl).mono (by decide)

theorem touches_outputTo {d : Desc} {n : Nat} {x : BufData} : Touches [.buf, .out] s (outputTo d n x s).2 := by
  unfold outputTo chainOpen
  dsimp only
  exact ((((touches_put .buf rfl).mono (by decide)).andThen (touches_put .buf rfl) (by decide)).andThen touches_emit (by decide)).andThen touches_bufIssue (by decide)

/-! ## Messages and answers -/

/-- Where messages and answers go. -/
abbrev answerParts : List Part := [.sbi, .hrw, .stw, .upl, .buf, .out]

theorem touches_sendMsg {d : Nat} {o : Out} : Touches [.upl] s (sendMsg d o s) := touches_put .upl rfl

theorem touches_sendAttachment {d tag : Nat} {b : List Byte} : Touches [.upl] s (sendAttachment d tag b s) := touches_put .upl rfl

theorem touches_pmPost {n : Nat} {m : Msg} : Touches [.hrw, .out] s (pmPost n m s) := by
  unfold pmPost
  exact touches_ite ((touches_put .hrw rfl).mono (by decide)) (((touches_put .hrw rfl).mono (by decide)).andThen touches_raiseInt (by decide))

theorem touches_sbiPost {m : Msg} : Touches [.sbi, .out] s (sbiPost m s) :=
  ((touches_put .sbi rfl).mono (by decide)).andThen touches_raiseIbi (by decide)

theorem touches_ringWrite {k : Nat} {m : Msg} : Touches [.stw, .buf, .out] s (ringWrite k m s) := by
  unfold ringWrite
  exact ((touches_bufIssue.mono (by decide)).andThen (touches_put .stw rfl) (by decide)).andThen (touches_when touches_emit) (by decide)

theorem touches_ringPost {k : Nat} {m : Msg} : Touches [.stw, .buf, .out] s (ringPost k m s) := by
  unfold ringPost
  exact touches_ite touches_ringWrite ((touches_put .stw rfl).mono (by decide))

theorem touches_postTo {i : Issuer} {m : Msg} : Touches answerParts s (postTo i m s) := by
  unfold postTo
  split
  · exact touches_pmPost.mono (by decide)
  · exact touches_sbiPost.mono (by decide)
  · exact touches_ite (touches_ringPost.mono (by decide)) (touches_emit.mono (by decide))
  · exact touches_emit.mono (by decide)
  · exact touches_sendMsg.mono (by decide)

theorem touches_relayFinish {e : ReplyEntry} : Touches answerParts s (relayFinish e s) := by
  unfold relayFinish
  dsimp only
  split
  · exact ((touches_put .stw rfl).mono (by decide)).trans (touches_forEach fun _ _ => (touches_sendMsg.mono (by decide)))
  · exact (((touches_put .stw rfl).mono (by decide)).trans (touches_forEach fun _ _ => (touches_sendMsg.mono (by decide)))).trans touches_postTo

theorem touches_relayUpdate {sel : ReplyEntry → Bool} {f : ReplyEntry → ReplyEntry} :
    Touches answerParts s (relayUpdate sel f s) := by
  unfold relayUpdate
  dsimp only
  split
  · exact Touches.refl
  · exact touches_ite (((touches_put .stw rfl).mono (by decide)).trans touches_relayFinish) ((touches_put .stw rfl).mono (by decide))

theorem touches_answer {i : Issuer} {cmd tag st : Nat} {fin : Bool} {p : List Fld} {b : List Byte} :
    Touches answerParts s (answer i cmd tag st fin p b s) := by
  unfold answer ownOutcome
  split
  · exact touches_ite touches_relayUpdate Touches.refl
  · exact touches_postTo

theorem touches_finish {d : Deferred} {st : Nat} {p : List Fld} : Touches answerParts s (finish d st p s) := by
  unfold finish
  exact touches_ite ((touches_put .stw rfl).mono (by decide)) touches_answer

theorem touches_completeWhere {f : Work → Bool} {st : Nat} {p : List Fld} : Touches answerParts s (completeWhere f st p s) :=
  ((touches_put .stw rfl).mono (by decide)).trans (touches_forEach fun _ _ => touches_finish)

theorem touches_complete {w : Work} {st : Nat} {p : List Fld} : Touches answerParts s (complete w st p s) :=
  touches_completeWhere

end Sys2Proof.Machine
end

section
/-!
The runs of the block: what one step does and keeps, and what any number of steps keeps (R28, R75, R296, R379, R410, R422,
R423, R430, R478).
-/

namespace Sys2Proof.Machine

/-! ## One step -/

section Steps

variable {s t : State} {c : Instr} {rest : List Instr}

theorem step_front (h : s.pending = c :: rest) : step s = exec c { s with pending := rest } := by
  unfold step; rw [h]

theorem step_idle (h : s.pending = []) : step s = .next (tick s) := by
  unfold step; rw [h]

end Steps

/-- Settles O42. -/
theorem stepServesTheFront : Obligations.StepServesTheFront := fun _ _ _ => step_front

/-! ## Every command answers (R410, R430) -/

section Answers

variable {s t : State} {c : Instr} {f : State → State}

/-- Every command but a power-on has an effect on a powered block alone. -/
theorem exec_powered (hc : isPowerOn c = false) : ∃ t, exec c s = .next (if s.rst.aonOk then t else s) := by
  cases c
  case powerOn => cases hc
  all_goals exact ⟨_, rfl⟩

theorem exec_powerOn_next (f : FuseMap) (k : Nat) : ∃ t, exec (.powerOn f k) s = .next t := ⟨_, rfl⟩

end Answers

/-- Settles O44: every meaning but the power-on's is an effect on a powered block. -/
theorem everyCommandAnswers : Obligations.EveryCommandAnswers := by
  refine ⟨fun c s => ?answers, fun c s hoff hc => ?silent⟩
  case answers =>
    cases hc : isPowerOn c
    · obtain ⟨t, ht⟩ := exec_powered (s := s) hc
      exact ⟨_, ht⟩
    · cases c
      case powerOn f k => exact exec_powerOn_next f k
      all_goals cases hc
  case silent =>
    obtain ⟨t, ht⟩ := exec_powered (s := s) hc
    rw [ht, hoff]
    rfl

/-! ## The idle step (R26, R31) -/

/-- Settles O43: a powered block passes one edge, or 4 ns of the oscillator; an unpowered one stays. -/
theorem idleStepPassesAnEdge : Obligations.IdleStepPassesAnEdge := by
  refine ⟨fun s hq hp => ⟨_, step_idle hq, ?_⟩, fun s hq hp => ?_⟩
  case refine_2 =>
    rw [step_idle hq, tick, hp]
    rfl
  have ht : tick s = passNs 4 s := by rw [tick, hp]; rfl
  rw [ht, passNs]
  by_cases hv : timeValid s = true
  · have hv' := timeValid_iff.mp hv
    rw [if_pos hv]
    refine ⟨rfl, ?_, ?_, fun _ hh hs hf => (edges_steady hv' hh hs hf).1, fun hn => ?_⟩
    · simp only [passEdges_time, TimeFront.edges, hv', if_true]; rfl
    · simp only [passEdges_time, TimeFront.edges, hv', if_true]
    · rw [hv] at hn; cases hn
  · rw [if_neg hv]
    exact ⟨rfl, rfl, rfl, fun hn => absurd hn hv, fun _ => rfl⟩

/-! ## What a step keeps -/

section Kept

variable {s t u : State} {free free' : Nat → Prop} {c : Instr} {n : Nat}

theorem Later.mono (h : Later free s t) (hf : ∀ i, free i → free' i) : Later free' s t :=
  { h with fence := fun i hi => h.fence i fun hfree => hi (hf i hfree) }

theorem sound_requeue (q : List Instr) {p : List Instr} (h : Sound { s with pending := p }) : Sound { s with pending := q } :=
  ⟨h.upl, h.trc, h.history, h.alerts, h.doorbells, h.bufOps⟩

/-- `t` comes after `s` in the same powered epoch, the queue apart. -/
def Onward (free : Nat → Prop) (s t : State) : Prop := Later free { s with pending := t.pending } t

theorem Onward.refl : Onward free s s := Later.refl free s

theorem Onward.trans (h : Onward free s t) (k : Onward free t u) : Onward free s u := by
  have hq : Later free { s with pending := u.pending } { t with pending := u.pending } :=
    ⟨rfl, h.chip, h.fuse, h.fence, h.ft, h.osc, h.timer, h.live, h.svnFirmware, h.svnTest, h.retired,
      fun x => sound_requeue _ (h.sound (sound_requeue t.pending x))⟩
  exact hq.trans k

/-- The commands named meet no power-on and release no line but those of `free`. -/
def Releasing (free : Nat → Prop) (l : List Instr) : Prop := ∀ c ∈ l, isPowerOn c = false ∧ ∀ i, releases c i → free i

/-- A step takes the front of the queue and goes on in time. -/
theorem step_onward (hl : Releasing free (s.pending.take 1)) (h : step s = .next t) :
    t.pending = s.pending.drop 1 ∧ Onward free s t := by
  cases hq : s.pending with
  | nil =>
    rw [step_idle hq] at h
    injection h with h
    have hl : Later free s t := h ▸ later_tick (Later.refl free s)
    have hp : t.pending = s.pending := hl.queue
    unfold Onward
    rw [hp]
    exact ⟨hq, hl⟩
  | cons c rest =>
    rw [hq] at hl
    obtain ⟨hc, hr⟩ := hl c (List.mem_singleton.mpr rfl)
    rw [step_front hq] at h
    have hl := (later_exec hc (Later.refl (releases c) _) t h).mono hr
    have hp : t.pending = rest := hl.queue
    unfold Onward
    rw [hp]
    exact ⟨rfl, hl⟩

/-- Any number of steps takes as many commands from the queue and goes on in time. -/
theorem reaches_onward (hl : Releasing free (s.pending.take n)) (h : Reaches n s t) :
    t.pending = s.pending.drop n ∧ Onward free s t := by
  induction n generalizing s with
  | zero =>
    obtain rfl : t = s := h
    exact ⟨rfl, Onward.refl⟩
  | succ n ih =>
    obtain ⟨u, hu, ht⟩ := h
    have hfirst : Releasing free (s.pending.take 1) := fun c hc =>
      hl c ((List.take_prefix_take_left (by omega : 1 ≤ n + 1)).subset hc)
    obtain ⟨hpu, hsu⟩ := step_onward hfirst hu
    have hrest : Releasing free (u.pending.take n) := fun c hc => by
      rw [hpu, List.take_drop, Nat.add_comm 1 n] at hc
      exact hl c (List.mem_of_mem_drop hc)
    obtain ⟨hpt, hut⟩ := ih hrest ht
    refine ⟨?_, hsu.trans hut⟩
    rw [hpt, hpu, List.drop_drop, Nat.add_comm 1 n]

end Kept

/-! ## The invariant -/

/-- Settles O45: no queue holds anything, and the accounts are those of a power-on. -/
theorem resetIsSound : Obligations.ResetIsSound :=
  ⟨⟨accounts_start _, Nat.zero_le _, le_refl 1, show 1 ≤ 64 by decide⟩, ⟨Nat.zero_le _, fun _ m => absurd m List.not_mem_nil⟩,
    Nat.zero_le _, Nat.zero_le _, Nat.zero_le _, Nat.zero_le _⟩

/-- Settles O47: every command keeps the invariant, and so does the time that passes in an idle step. -/
theorem stepKeepsTheInvariant : Obligations.StepKeepsTheInvariant := by
  intro s t hs h
  cases hq : s.pending with
  | nil =>
    rw [step_idle hq] at h
    injection h with h
    exact h ▸ (later_tick (Later.refl (fun _ => False) s)).sound hs
  | cons c rest =>
    rw [step_front hq] at h
    exact sound_exec (sound_requeue rest hs) h

/-- Settles O48: each step goes on in time, whatever line it releases. -/
theorem epochOnlyGoesOn : Obligations.EpochOnlyGoesOn := by
  intro n s t hq h
  have hl : Releasing (fun _ => True) (s.pending.take n) := fun c hc => ⟨hq c (List.mem_of_mem_take hc), fun _ _ => trivial⟩
  obtain ⟨hpending, hon⟩ := reaches_onward hl h
  exact ⟨hon.ft, hon.timer, hon.osc, hon.live, hpending, hon.chip, hon.fuse, hon.svnFirmware, hon.svnTest, hon.retired⟩

/-! ## Fences (R296) -/

section Denied

variable {s : State} {c : Cmd} {r : Req} {form : Bool} {own own' : State → State × Reply}

/-- A request of a class that the Issuer column does not permit fails a check of R389. -/
theorem formReject_of_forbidden (h : c.allow.permits (issuerClass r.issuer) = false) : (formReject c r form s).isSome = true := by
  unfold formReject
  split
  · rfl
  · split
    · rfl
    · split
      · rfl
      · rw [h]; rfl

/-- The own part of a command that its issuer may not give is never run. -/
theorem serve_of_forbidden (h : c.allow.permits (issuerClass r.issuer) = false) :
    serve c r form own s = serve c r form own' s := by
  unfold serve
  dsimp only
  obtain ⟨st, hst⟩ := Option.isSome_iff_exists.mp
    (formReject_of_forbidden (form := form) (s := takeRequest r c.code s) h)
  rw [hst]

end Denied

/-- Settles O49: no step but a release of the line clears it, and a release by another issuer than a privileged mailbox is
turned away. -/
theorem fencesStayAsserted : Obligations.FencesStayAsserted := by
  refine ⟨fun n s t i hi hq h => ?steps, fun r line s t i hclass h hi => ?forbidden⟩
  case steps =>
    have hl : Releasing (· ≠ i) (s.pending.take n) := fun c hc =>
      ⟨(hq c hc).1, fun j hj hji => (hq c hc).2 (hji ▸ hj)⟩
    exact (reaches_onward hl h).2.fence i (fun hne => hne rfl) hi
  case forbidden =>
    have hno : ({} : Allow).permits (issuerClass r.issuer) = false := by
      simp [Allow.permits, Nat.not_lt.mpr hclass]
    have hlater : LaterOut (fun _ => False) s (exec (.fenceRelease r line) s) := by
      refine later_run (Later.refl _ s) fun s' hs' => ?_
      rw [serve_of_forbidden (own' := deny 0) hno]
      exact later_serve hs' fun _ => later_deny
    exact (hlater t h).fence i id hi

end Sys2Proof.Machine
end

section
/-!
Histograms: a merge adds every bucket, so its order and its grouping do not matter (R179).
-/

namespace Sys2Proof.Machine

/-! ## Tables that read alike -/

section Tables

variable {α : Type} [DecidableEq α] {d v w : α} {i lo : Nat} {t u : Tab α}

omit [DecidableEq α] in
theorem tget_head : tget d i ((i, v) :: t) = v := by simp [tget]

/-- A table in its one form does not read as the default at its first index. -/
theorem tget_head_ne (h : tabWfFrom d lo ((i, v) :: t) = true) : tget d i ((i, v) :: t) ≠ d := by
  rw [tget_head]
  exact (tabWfFrom_cons.mp h).2.1

/-- Two tables in their one form that read alike are the same table. -/
theorem tab_ext (ht : tabWfFrom d lo t = true) (hu : tabWfFrom d lo u = true) (h : ∀ k, tget d k t = tget d k u) : t = u := by
  induction t generalizing lo u with
  | nil =>
    cases u with
    | nil => rfl
    | cons e u =>
      obtain ⟨j, w⟩ := e
      exact absurd (h j).symm (tget_head_ne hu)
  | cons e t ih =>
    obtain ⟨i, v⟩ := e
    cases u with
    | nil => exact absurd (h i) (tget_head_ne ht)
    | cons e u =>
      obtain ⟨j, w⟩ := e
      have ht' := (tabWfFrom_cons.mp ht).2.2
      have hu' := (tabWfFrom_cons.mp hu).2.2
      obtain hij | rfl | hji := Nat.lt_trichotomy i j
      · have hzero : tget d i ((j, w) :: u) = d :=
          tget_below (tabWfFrom_cons.mpr ⟨le_refl j, (tabWfFrom_cons.mp hu).2⟩) hij
        exact absurd ((h i).trans hzero) (tget_head_ne ht)
      · have hv : v = w := by simpa [tget] using h i
        have htail : ∀ k, tget d k t = tget d k u := fun k => by
          by_cases hk : i = k
          · subst hk
            rw [tget_below ht' (Nat.lt_succ_self i), tget_below hu' (Nat.lt_succ_self i)]
          · simpa [tget, hk] using h k
        rw [hv, ih ht' hu' htail]
      · have hzero : tget d j ((i, v) :: t) = d :=
          tget_below (tabWfFrom_cons.mpr ⟨le_refl i, (tabWfFrom_cons.mp ht).2⟩) hji
        exact absurd ((h j).symm.trans hzero) (tget_head_ne hu)

end Tables

/-! ## The merge of two tables of counts -/

section Merge

variable {lo : Nat} {t u : Tab Nat}

/-- Each entry of `u` added to `t`. -/
def addTab (t u : Tab Nat) : Tab Nat := u.foldl (fun t e => tmod 0 e.1 (· + e.2) t) t

theorem addTab_cons (e : Nat × Nat) : addTab t (e :: u) = addTab (tmod 0 e.1 (· + e.2) t) u := rfl

theorem tabWf_addTab (ht : tabWf 0 t = true) : tabWf 0 (addTab t u) = true := by
  induction u generalizing t with
  | nil => exact ht
  | cons e u ih => exact ih (tabWf_tmod ht)

/-- A sum of tables reads as the sum. -/
theorem tget_addTab (ht : tabWf 0 t = true) (hu : tabWfFrom 0 lo u = true) (k : Nat) :
    tget 0 k (addTab t u) = tget 0 k t + tget 0 k u := by
  induction u generalizing t lo with
  | nil => rfl
  | cons e u ih =>
    obtain ⟨i, n⟩ := e
    obtain ⟨-, -, hu'⟩ := tabWfFrom_cons.mp hu
    rw [addTab_cons, ih (tabWf_tmod ht) hu', tget_tmod ht]
    by_cases hk : k = i
    · subst hk
      simp [tget, tget_below hu' (Nat.lt_succ_self k)]
    · simp [tget, hk, Ne.symm hk]

/-- What reads as the sum of two tables is their sum. -/
theorem addTab_eq {v : Tab Nat} (ht : tabWf 0 t = true) (hu : tabWf 0 u = true) (hv : tabWf 0 v = true)
    (h : ∀ k, tget 0 k v = tget 0 k t + tget 0 k u) : addTab t u = v :=
  tab_ext (tabWf_addTab ht) hv fun k => by rw [tget_addTab ht hu, h]

theorem Hist.merge_eq (a b : Hist) : Hist.merge a b =
    { buckets := addTab a.buckets b.buckets, underN := a.underN + b.underN, overN := a.overN + b.overN, n := a.n + b.n,
      absent := a.absent + b.absent, min := min a.min b.min, max := max a.max b.max, sum := a.sum + b.sum } := rfl

end Merge

/-- Settles O56: the buckets of a merge read as the sums of the buckets, and a table in its one form is what it reads as. -/
theorem histogramsMergeExactly : Obligations.HistogramsMergeExactly := by
  refine ⟨fun a b ha hb => ?comm, fun a b c ha hb hc => ?assoc, fun a b ha hb => ?fields, fun a ha hmax hmin => ?unit⟩
  case comm =>
    have hbuckets : addTab a.buckets b.buckets = addTab b.buckets a.buckets :=
      addTab_eq ha hb (tabWf_addTab hb) fun k => by rw [tget_addTab hb ha, Nat.add_comm]
    simp only [Hist.merge_eq, hbuckets, Nat.add_comm, Int.add_comm, min_comm, max_comm]
  case assoc =>
    have hbuckets : addTab (addTab a.buckets b.buckets) c.buckets = addTab a.buckets (addTab b.buckets c.buckets) :=
      addTab_eq (tabWf_addTab ha) hc (tabWf_addTab ha) fun k => by
        rw [tget_addTab ha (tabWf_addTab hb), tget_addTab hb hc, tget_addTab ha hb, Nat.add_assoc]
    simp only [Hist.merge_eq, hbuckets, Nat.add_assoc, Int.add_assoc, min_assoc, max_assoc]
  case fields =>
    exact ⟨fun k => tget_addTab ha hb k, rfl, rfl, rfl, rfl, rfl, rfl, rfl⟩
  case unit =>
    have hlow : min a.min (2 ^ 63 - 1) = a.min := min_eq_left hmin
    have hhigh : max a.max (-(2 ^ 63)) = a.max := max_eq_left hmax
    rw [Hist.merge_eq]
    simp only [Hist.empty, hlow, hhigh, Nat.add_zero, Int.add_zero]
    rfl

end Sys2Proof.Machine
end

section
/-!
Time that passes up to an instant, and the gate's end that no packet passes (R28, R340, R341).
-/

namespace Sys2Proof.Machine

/-! ## Waiting (R28) -/

section Waiting

variable {s : State} {t : TimeFront} {d ft : Nat}

/-- As many edges as `edgesFor` names advance the count by what it was asked for. -/
theorem edgesFor_reaches (hv : t.state = .locked ∨ t.state = .holdover) : t.ft + d ≤ (t.edges (t.edgesFor d)).ft := by
  unfold TimeFront.edges
  simp only [hv, if_true]
  unfold TimeFront.edgesFor ceilDiv
  by_cases hd : d = 0
  · simp [hd]
  · simp only [hd, if_false, OfNat.ofNat_ne_zero]
    split
    · split <;> omega
    · split <;> omega

theorem untilFt_valid (hv : timeValid s = true) : untilFt ft s = passEdges (s.time.edgesFor (ft - s.time.ft)) s := by
  simp [untilFt, when, hv]

theorem untilFt_invalid (hv : timeValid s = false) : untilFt ft s = s := by
  simp [untilFt, when, hv]

theorem edges_state {n : Nat} : (t.edges n).state = t.state := by
  unfold TimeFront.edges
  dsimp only
  split <;> rfl

/-- Where ft is valid, waiting for an instant reaches it. -/
theorem le_untilFt (hv : timeValid s = true) : ft ≤ (untilFt ft s).time.ft := by
  rw [untilFt_valid hv, passEdges_time]
  have := edgesFor_reaches (d := ft - s.time.ft) (timeValid_iff.mp hv)
  omega

@[simp] theorem untilFt_state : (untilFt ft s).time.state = s.time.state := by
  unfold untilFt when
  split
  · rw [passEdges_time, edges_state]
  · rfl

@[simp] theorem untilFt_timeValid : timeValid (untilFt ft s) = timeValid s := by
  simp [timeValid]

/-- Waiting changes the time front alone. -/
theorem untilFt_eq : untilFt ft s = { s with time := (untilFt ft s).time } := by
  unfold untilFt when
  split <;> rfl

/-- An instant that has passed is not waited for. -/
theorem untilFt_past (hv : timeValid s = true) (hf : s.time.frac < 500) (h : ft ≤ s.time.ft) :
    (untilFt ft s).time = s.time := by
  have hz : s.time.edgesFor (ft - s.time.ft) = 0 := by simp [TimeFront.edgesFor, Nat.sub_eq_zero_of_le h]
  rw [untilFt_valid hv, passEdges_time, hz, edges_zero hf]

end Waiting

/-- Settles O50: the edges passed are those that the wait needs. -/
theorem waitingReachesTheFt : Obligations.WaitingReachesTheFt :=
  ⟨fun _ _ hv => ⟨le_untilFt hv, untilFt_state, untilFt_eq⟩, fun _ _ hv hf h => congrArg TimeFront.ft (untilFt_past hv hf h),
    fun _ _ => untilFt_invalid⟩

/-! ## The Kerb (R340, R341) -/

section Kerb

variable {s : State} {g : Gate} {f : State → State} {rate margin : Nat}

theorem run_kept (h : f s = s) : run f s = .next s := by
  simp [run, h]

theorem kerbOf_pos (h : 1 ≤ rate) : kerbOf rate margin = (40960 + rate - 1) / rate + margin := by
  have hr : rate ≠ 0 := by omega
  simp [kerbOf, ceilDiv, Nat.max_eq_left h, hr]

/-- The Kerb is at least what the transmission of 4,096 bytes takes. -/
theorem le_kerbOf : (40960 + rate - 1) / rate + margin ≤ kerbOf rate margin := by
  rcases Nat.eq_zero_or_pos rate with rfl | h
  · simp [kerbOf]
  · exact (kerbOf_pos h).ge

/-- A gate that does not let a packet start leaves the block as it is. -/
theorem packetInject_shut (hg : s.upl.gate = some g) (h : mayInject g s = false) : exec .packetInject s = .next s := by
  refine (run_kept ?_ : execPacketInject s = .next s)
  simp only [hg, h]
  rfl

theorem packetInject_noGate (hg : s.upl.gate = none) : exec .packetInject s = .next s := by
  refine (run_kept ?_ : execPacketInject s = .next s)
  simp only [hg]

end Kerb

/-- Settles O60: the gate's own test, and the wait of `KERB_REACHED` for the instant after the last start. -/
theorem noPacketPastTheKerb : Obligations.NoPacketPastTheKerb := by
  refine ⟨fun s => packetInject_noGate, fun g s hg h => packetInject_shut hg ?shut, fun g s hp hg hv hr => ?reached, by decide⟩
  case shut =>
    have hk := le_kerbOf (rate := g.rate) (margin := s.upl.kerbMargin)
    rcases h with h | h | h | h
    · simp [mayInject, h]
    · simp [mayInject, h]
    · have hn : ¬ g.start ≤ s.time.ft := by omega
      simp [mayInject, hn]
    · have hn : ¬ s.time.ft + kerbOf g.rate s.upl.kerbMargin ≤ g.ends := by omega
      simp [mayInject, hn]
  case reached =>
    have hnext : exec .kerbReached s = .next (onGate (fun g => { g with kerbPassed := true, visiting := false })
        (untilFt (lastStart g s + 1) s)) := by
      refine (run_powered hp : execKerbReached s = _).trans ?_
      simp [hg, hv]
    refine ⟨_, hnext, ?_, packetInject_shut (g := { g with kerbPassed := true, visiting := false }) ?_ ?_⟩
    · have hle : lastStart g s + 1 ≤ (untilFt (lastStart g s + 1) s).time.ft := le_untilFt hv
      have hk := kerbOf_pos (margin := s.upl.kerbMargin) hr
      unfold lastStart at hle
      show g.ends ≤ (untilFt (lastStart g s + 1) s).time.ft + _ + _
      unfold lastStart
      omega
    · show (untilFt (lastStart g s + 1) s).upl.gate.map _ = _
      rw [untilFt_eq, hg]
      rfl
    · simp [mayInject]

end Sys2Proof.Machine
end

section
/-!
The commands of the time front and the frame grid (group 0x02).
-/

namespace Sys2Proof.Machine

section TimeCommands

variable {s u : State} {mode : Nat}

theorem gridStopped_iff :
    gridStopped s = true ↔ timeValid s = false ∨ (s.grid.halted = true ∧ s.grid.frame = none) := by
  simp [gridStopped]

theorem leadOk_of_le {i : Issuer} {at_ lead : Nat} (h : s.time.ft + lead ≤ at_) : leadOk i at_ lead s = true := by
  unfold leadOk
  split <;> simp <;> omega

end TimeCommands

/-- Settles O1: each command's own part, on the state that taking the request leaves. -/
theorem timeCommandsComplete : Obligations.TimeCommandsComplete := by
  refine ⟨fun r s h => ?status, fun r mode s h hmode hstop => ?setMode, fun r p e s h hlo hhi he hp hlead => ?setPeriod,
    fun r s h => ?halt, fun r s h => ?resume⟩
  case status => exact completes_of h rfl fun u => ⟨rfl, agree_plumb s u⟩
  case setMode =>
    refine completes_of h (by simpa using hmode) fun u => ?_
    have hstop' : gridStopped (plumb s u) = true := gridStopped_iff.mpr hstop
    simp only [hstop', Bool.not_true, Bool.false_eq_true, if_false]
    exact ⟨rfl, agree_when (agree_plumb _ u) fun _ => agree_raiseInt⟩
  case setPeriod =>
    refine completes_of h (by simp [hlo, hhi]) fun u => ?_
    have hlead' : leadOk r.issuer e 10000000 (plumb s u) = true := leadOk_of_le hlead
    have hmult : ¬ (e % ((plumb s u).grid.period * 1000) ≠ 0 ∨ e % (p * 1000) ≠ 0) := by
      rw [not_or, not_not, not_not]
      exact ⟨he, hp⟩
    simp only [if_neg hmult, hlead', Bool.not_true, Bool.false_eq_true, if_false]
    exact ⟨rfl, rfl⟩
  case halt => exact completes_of h rfl fun u => ⟨rfl, rfl⟩
  case resume => exact completes_of h rfl fun u => ⟨rfl, rfl⟩

end Sys2Proof.Machine
end

section
/-!
The commands of the Sampler (group 0x03).
-/

namespace Sys2Proof.Machine

/-! ## What the commands' own checks pass -/

section SamplerCommands

variable {s u : State} {i : Issuer} {k p frame : Nat} {ch : SamplerChange} {binding : Word32} {cflags : BitVec 8}

theorem seesPart_of (h : isTenant i = true → p = issuerPart i) : seesPart i p = true := by
  unfold seesPart
  cases ht : isTenant i
  · rfl
  · simp [h ht]

theorem isBound_of (hk : k < 32768) (hb : bindEnable (counter k s).binding = true) (hr : k ∉ s.smp.retired) :
    isBound k s = true := by
  simp [isBound, hk, hb, hr]

theorem cmpVisible_of (hk : k < 4096) (h : isTenant i = true → cmpPartition k s = issuerPart i) : cmpVisible i k s = true := by
  simp [cmpVisible, hk, seesPart_of h]

/-- A binding that is no tenant's counter on a comparator of another partition is not isolated (R69). -/
theorem bindIsolated_of (h : bindSrcCmp binding = true → bindPartition binding ≠ 0 →
    cmpPartition (bindSrc binding) s = bindPartition binding) : bindIsolated binding s = false := by
  unfold bindIsolated
  cases hc : bindSrcCmp binding
  · rfl
  · by_cases hp : bindPartition binding = 0
    · simp [hp]
    · simp [h hc hp]

/-- A change that waits for its frame is answered with the frame. -/
theorem changeAt_plumb : (changeAt frame ch (plumb s u)).2 = okWith [f64 0 (shownFrame frame s)] ∧
    Agree (addChange frame ch s) (changeAt frame ch (plumb s u)).1 := ⟨rfl, rfl⟩

/-- A Leaf's counts for an issuer other than a tenant. -/
theorem counterStatusPayload_all (h : isTenant i = false) : counterStatusPayload i s =
    [f32 0 (boundCount none s), f32 4 s.smp.retired.length, f32 8 (256 - tsum s.smp.sparesUsed),
     f16 0xC ((List.range 16).foldl (fun n c => n + if (conc c s).fenced then 2 ^ c else 0) 0),
     f32 0x10 s.smp.repairs, f32 0x14 (tsum s.smp.invalidBy)] := by
  simp [counterStatusPayload, h]

/-- A Leaf's counts for a tenant. -/
theorem counterStatusPayload_tenant (h : isTenant i = true) : counterStatusPayload i s =
    [f32 0 (boundCount (some (issuerPart i)) s), f32 4 0, f32 8 0, f16 0xC 0, f32 0x10 (tget 0 (issuerPart i) s.smp.repairsBy),
     f32 0x14 (tget 0 (issuerPart i) s.smp.invalidBy)] := by
  simp [counterStatusPayload, h]

/-- What a Plaza's own counts are after they are taken up does not depend on what carries requests and answers. -/
theorem countChip_plumb : (countChip (plumb s u)).stw.chip = (countChip s).stw.chip := rfl

theorem countChip_rises : s.stw.chip.repairs ≤ (countChip s).stw.chip.repairs ∧
    s.stw.chip.invalid ≤ (countChip s).stw.chip.invalid :=
  ⟨Nat.le_add_right _ _, Nat.le_add_right _ _⟩

theorem plazaCounterStatus_all (h : isTenant i = false) : plazaCounterStatus i s =
    done [f32 0 (countChip s).stw.chip.bound, f32 4 (countChip s).stw.chip.retired, f32 8 (countChip s).stw.chip.spares,
      f16 0xC (countChip s).stw.chip.fenced, f32 0x10 (countChip s).stw.chip.repairs,
      f32 0x14 (countChip s).stw.chip.invalid] (countChip s) := by
  simp [plazaCounterStatus, h]

theorem plazaCounterStatus_tenant (h : isTenant i = true) : plazaCounterStatus i s =
    done [f32 0 (Config.fresh (s.free + 6)), f32 4 0, f32 8 0, f16 0xC 0, f32 0x10 (Config.fresh (s.free + 7)),
      f32 0x14 (Config.fresh (s.free + 8))] { countChip s with free := s.free + 9 } := by
  simp [plazaCounterStatus, h, countChip, draw, onStw]

/-- A Plaza's `COUNTER_STATUS` reports what the Steward has just taken up. -/
theorem exec_plazaStatus_all {r : Req} (h : Taken { code := 0x0306, allow := { s := true, t := true } } r s)
    (hp : s.fuse.plaza = true) (ht : isTenant r.issuer = false) :
    ∃ t, exec (.counterStatus r) s = .next t ∧
      CompletesWith { code := 0x0306, allow := { s := true, t := true } } r
        (fun t => t.stw.chip = (countChip s).stw.chip ∧ t.smp = s.smp)
        [f32 0 (countChip s).stw.chip.bound, f32 4 (countChip s).stw.chip.retired, f32 8 (countChip s).stw.chip.spares,
          f16 0xC (countChip s).stw.chip.fenced, f32 0x10 (countChip s).stw.chip.repairs,
          f32 0x14 (countChip s).stw.chip.invalid] t := by
  refine completesWith_of h rfl (fun u => ?_) fun _ _ ht => ht
  have hp' : (plumb s u).fuse.plaza = true := hp
  simp only [hp', if_true]
  rw [plazaCounterStatus_all ht, countChip_plumb]
  exact ⟨rfl, rfl, rfl⟩

/-- A tenant's part of a Plaza's counts is drawn after the counts themselves. -/
theorem exec_plazaStatus_tenant {r : Req} (h : Taken { code := 0x0306, allow := { s := true, t := true } } r s)
    (hp : s.fuse.plaza = true) (ht : isTenant r.issuer = true) :
    ∃ t, exec (.counterStatus r) s = .next t ∧
      Completes { code := 0x0306, allow := { s := true, t := true } } r
        { s with free := s.free + 9, stw := { s.stw with chip := (countChip s).stw.chip } }
        [f32 0 (Config.fresh (s.free + 6)), f32 4 0, f32 8 0, f16 0xC 0, f32 0x10 (Config.fresh (s.free + 7)),
          f32 0x14 (Config.fresh (s.free + 8))] [] t := by
  refine completes_of h rfl fun u => ?_
  have hp' : (plumb s u).fuse.plaza = true := hp
  simp only [hp', if_true]
  rw [plazaCounterStatus_tenant ht]
  exact ⟨rfl, rfl⟩

end SamplerCommands

/-- Settles O2: each command's own checks pass, and its own part is what the clause says. -/
theorem samplerCommandsComplete : Obligations.SamplerCommandsComplete := by
  refine ⟨fun r line config s h he hline hres hfence => ?lineSet, fun r k b s h he hk hres hp hret hiso => ?bind,
    fun r k s h he hk hb hret => ?unbind, fun r k p s h he hp hk hb hret hown => ?prescale,
    fun r g config s h he hg hres hsample hp => ?gaugeSet, fun r k cflags ctr th hy s h he hres hctr hk hown => ?watermarkSet,
    fun r desc stride s h he hlo hhi hd => ?snapshotSet, fun r desc s h he => ?snapshotEnd,
    fun r first count s h he hlo hhi hv => ?counterRead, fun r s h hp he ht => ?statusAll,
    fun r s h hp he ht => ?statusTenant, fun r s h hp ht => ?plazaStatusAll, fun r s h hp ht => ?plazaStatusTenant,
    fun r k s h he hk hown => ?watermarkRead, fun r g s h he hg hown => ?gaugeRead⟩
  case lineSet =>
    refine completes_of h (by simp [hline, hres]) fun u => ?_
    have hf : (conc (line / 256) (plumb s u)).fenced = false := hfence
    rw [engineServed_up he]
    simp only [hf, Bool.false_eq_true, if_false]
    exact changeAt_plumb
  case bind =>
    refine completes_of h (by simp [hk, hres, hp]) fun u => ?_
    have hr : (plumb s u).smp.retired.contains k = false := by simpa using (show k ∉ (plumb s u).smp.retired from hret)
    have hi : bindIsolated b (plumb s u) = false := bindIsolated_of hiso
    rw [engineServed_up he]
    simp only [hr, hi, Bool.false_eq_true, if_false]
    exact changeAt_plumb
  case unbind =>
    refine completes_of h rfl fun u => ?_
    have hbound : isBound k (plumb s u) = true := isBound_of hk hb hret
    rw [engineServed_up he]
    simp only [hbound, Bool.not_true, Bool.false_eq_true, if_false]
    exact changeAt_plumb
  case prescale =>
    refine completes_of h (by simp [hp]) fun u => ?_
    have hbound : isBound k (plumb s u) = true := isBound_of hk hb hret
    have hsees : seesPart r.issuer (bindPartition (counter k (plumb s u)).binding) = true := seesPart_of hown
    rw [engineServed_up he]
    simp only [hbound, hsees, Bool.not_true, Bool.or_self, Bool.false_eq_true, if_false]
    exact changeAt_plumb
  case gaugeSet =>
    refine completes_of h (by simp [hg, hres, hsample, hp]) fun u => ?_
    rw [engineServed_up he]
    exact changeAt_plumb
  case watermarkSet =>
    refine completes_of h (by simp [hres, hctr]) fun u => ?_
    have hv : cmpVisible r.issuer k (plumb s u) = true := cmpVisible_of hk fun ht => (hown ht).1
    have hsame : (isTenant r.issuer && ((cmp k (plumb s u)).srcCounter != cflags.getLsbD 1 || (cmp k (plumb s u)).counter != ctr))
        = false := by
      cases ht : isTenant r.issuer
      · rfl
      · obtain ⟨-, hsrc, hcounter⟩ := hown ht
        show (true && ((cmp k s).srcCounter != _ || (cmp k s).counter != _)) = false
        simp [hsrc, hcounter]
    rw [engineServed_up he]
    simp only [hv, hsame, Bool.not_true, Bool.false_eq_true, if_false]
    exact ⟨rfl, rfl⟩
  case snapshotSet =>
    refine completes_of h (by simp [hhi]) fun u => ?_
    have hd' : descOk (issuerPart r.issuer) desc (plumb s u) = true := hd
    have hstride : stride ≠ 0 := by omega
    rw [engineServed_up he]
    simp only [hstride, hd', Bool.not_true, Bool.false_eq_true, if_false]
    exact changeAt_plumb
  case snapshotEnd =>
    refine completes_of h rfl fun u => ?_
    rw [engineServed_up he]
    exact changeAt_plumb
  case counterRead =>
    refine completes_of h (by simp [hlo, hhi]) fun u => ?_
    obtain ⟨j, hj, hvisible⟩ := hv
    have hsome : ((List.range count).map (first + ·)).all (fun k => !counterVisible r.issuer k (plumb s u)) = false := by
      rw [List.all_eq_false]
      exact ⟨first + j, List.mem_map.mpr ⟨j, List.mem_range.mpr hj, rfl⟩, by
        rw [show counterVisible r.issuer (first + j) (plumb s u) = true from hvisible]; decide⟩
    rw [engineServed_up he]
    simp only [hsome, Bool.false_eq_true, if_false]
    exact ⟨rfl, rfl⟩
  case statusAll =>
    refine completes_of h rfl fun u => ?_
    have hp' : (plumb s u).fuse.plaza = false := hp
    simp only [hp', Bool.false_eq_true, if_false]
    rw [engineServed_up he, counterStatusPayload_all ht]
    exact ⟨rfl, rfl⟩
  case statusTenant =>
    refine completes_of h rfl fun u => ?_
    have hp' : (plumb s u).fuse.plaza = false := hp
    simp only [hp', Bool.false_eq_true, if_false]
    rw [engineServed_up he, counterStatusPayload_tenant ht]
    exact ⟨rfl, rfl⟩
  case plazaStatusAll =>
    obtain ⟨t, he, ⟨hchip, hsmp⟩, hanswer⟩ := exec_plazaStatus_all h hp ht
    refine ⟨t, he, ?_⟩
    rw [hchip]
    exact ⟨⟨hchip ▸ countChip_rises.1, hchip ▸ countChip_rises.2, hsmp⟩, hanswer⟩
  case plazaStatusTenant =>
    obtain ⟨t, he, hagree, hanswer⟩ := exec_plazaStatus_tenant h hp ht
    have hchip : t.stw.chip = (countChip s).stw.chip := by rw [hagree.eq]; rfl
    refine ⟨t, he, ?_⟩
    rw [hchip]
    exact ⟨hagree, hanswer⟩
  case watermarkRead =>
    refine completes_of h rfl fun u => ?_
    have hv : cmpVisible r.issuer k (plumb s u) = true := cmpVisible_of hk hown
    rw [engineServed_up he]
    simp only [hv, Bool.not_true, Bool.false_eq_true, if_false]
    exact ⟨rfl, rfl⟩
  case gaugeRead =>
    refine completes_of h rfl fun u => ?_
    have hv : ¬ (g ≥ 1024 ∨ seesPart r.issuer (gaugePartition (gauge g (plumb s u)).config) = false) := by
      rw [show seesPart r.issuer (gaugePartition (gauge g (plumb s u)).config) = true from seesPart_of hown]
      simp [hg]
    rw [engineServed_up he]
    simp only [if_neg hv]
    exact ⟨rfl, rfl⟩

end Sys2Proof.Machine
end

section
/-!
Group 0x01: a tenant's close while its ring is full.
-/

namespace Sys2Proof.Machine

set_option maxRecDepth 100000

/-- A tenant's slot whose 16-entry ring is full: `PROD` has wrapped to 0 and `CONS` stands 16 entries behind (R369). -/
def wrappedFullSlot : Slot :=
  { Slot.unused with
    isOpen := true, partition := 5, generation := 7, ring := 4096, ringN := 16, prod := 0, cons := 2 ^ 32 - 16 }

/-- A Leaf at work with that slot as its one session. -/
def wrappedFullRing : State :=
  { Tests.leaf with stw := { Tests.leaf.stw with slots := [(3, wrappedFullSlot)] } }

/-- The session's close finds the ring full, so it leaves no response: the one it held goes with the slot. -/
theorem sessionClose_wrappedFullRing :
    ∃ t, exec (.sessionClose Tests.tenReq) wrappedFullRing = .next t ∧ t.out = [] ∧ t.buf.waiting = [] ∧
      (tget Slot.unused 3 t.stw.slots).held = [] :=
  ⟨_, rfl, by decide, by decide, by decide⟩

/-- Refutes O4: the clause for a tenant's `SESSION_CLOSE` takes the ring for open from `PROD` − `CONS` cut off at 0. With
`PROD` wrapped the ring is full (R369), the answer is held in the slot, and the close discards it. -/
theorem not_sessionCommandsComplete : ¬ Obligations.SessionCommandsComplete := by
  intro h
  obtain ⟨-, -, -, -, -, -, -, -, -, -, -, hclose, -⟩ := h
  obtain ⟨t, ht, -, -, htold⟩ :=
    hclose 5 3 7 Tests.tenReq wrappedFullRing rfl (Tests.taken_of (by decide)) (by decide) (by decide)
  obtain ⟨u, hu, hout, hwaiting, hheld⟩ := sessionClose_wrappedFullRing
  obtain rfl : u = t := by simpa [hu] using ht
  simp [Told, Tests.tenReq, hout, hwaiting, hheld] at htold

end Sys2Proof.Machine
end

section
/-!
The commands of series, calendars, cohorts and histograms (group 0x06).
-/

namespace Sys2Proof.Machine

section ConformanceCommands

variable {s u : State} {r : Req} {d : SeriesDesc} {c : Cmd} {job anchor : Nat} {i : CalImage}

/-- What a taken request leaves, whatever it is answered: the state of its own part, or, where a relay ends at its first
block, the state it came to. -/
theorem served_of {own : State → State × Reply} {P : State → Prop} {form : Bool} (h : Taken c r s) (hf : form = true)
    (ho : ∀ u, (own (plumb s u)).2.after = id ∧ P (own (plumb s u)).1)
    (hs : r.relay = true ∧ isCopy r.issuer = false → P s) (hP : ∀ a u, P a → P (plumb a u)) :
    ∃ t, run (serve c r form own) s = .next t ∧ P t := by
  subst hf
  rw [run_powered h.powered, serve_taken h]
  refine ⟨_, rfl, ?_⟩
  have keep : ∀ {a t : State}, P a → Agree a t → P t := fun ha e => by rw [e.eq]; exact hP _ _ ha
  rw [(agree_takeRequest r c.code s).eq]
  generalize takeRequest r c.code s = u
  obtain ⟨hafter, hown⟩ := ho u
  by_cases hr : r.relay = true ∧ isCopy r.issuer = false
  · rw [if_pos hr]
    unfold serveRelay
    dsimp only
    rw [selfInScope_plumb, (h.relayed hr.1).2.2, ownPart_taken h]
    simp only [if_true]
    split
    · exact keep (hs hr) (agree_answer (agree_plumb s u))
    · rw [hafter]
      exact keep hown (agree_relayOpen (agree_defer (agree_answer rfl)))
  · rw [if_neg hr]
    unfold serveHere
    dsimp only
    rw [hafter]
    exact keep hown (agree_defer (agree_answer rfl))

/-- A descriptor that passes the checks of R170 waits for its frame. -/
theorem seriesDefine_ok (hplaza : d.plaza = s.fuse.plaza) (hmay : mayDefine r.issuer (withDefaults d) s = true)
    (hsrc : sourcesOk (withDefaults d) s = true) (hroom : d.index < 4 * regionKib .series s)
    (hen : d.enable = true →
      (isTenant r.issuer = true → seriesOf d.partition d.index s < tget 16 d.partition s.conf.quotas) ∧
        demandFits (withDefaults d :: (definedAfter s).filter fun x => x.index != d.index) s.conf.doublings s.grid.period s
          = true) :
    seriesDefine r d s = done [f64 0 (shownFrame (changeFrame s) s)] (onConf (fun c => { c with
      pendingDefs := (c.pendingDefs.filter fun p => !(p.1 == changeFrame s && p.2.index == d.index))
        ++ [(changeFrame s, withDefaults d)] }) s) := by
  have hplaza' : ((withDefaults d).plaza != s.fuse.plaza) = false := by simp [withDefaults, hplaza]
  have hroom' : ¬ 4 * regionKib .series s ≤ (withDefaults d).index := by
    show ¬ _ ≤ d.index
    omega
  have hquota : ((withDefaults d).enable && ((isTenant r.issuer
      && decide (tget 16 (withDefaults d).partition s.conf.quotas ≤ seriesOf (withDefaults d).partition (withDefaults d).index s))
      || !demandFits (withDefaults d :: (definedAfter s).filter fun x => x.index != (withDefaults d).index)
        s.conf.doublings s.grid.period s)) = false := by
    show (d.enable && ((isTenant r.issuer && decide (tget 16 d.partition s.conf.quotas ≤ seriesOf d.partition d.index s))
      || !demandFits (withDefaults d :: (definedAfter s).filter fun x => x.index != d.index) s.conf.doublings s.grid.period s))
        = false
    cases he : d.enable
    · rfl
    · obtain ⟨hq, hfit⟩ := hen he
      simpa [hfit] using hq
  unfold seriesDefine
  simp only [hplaza', hmay, hsrc, hquota, hroom', if_false, Bool.not_true, Bool.or_self, Bool.false_eq_true]
  rfl

theorem seriesDefine_other (hplaza : d.plaza ≠ s.fuse.plaza) (hr : r.relay = true) :
    seriesDefine r d s = deny Config.ok s := by
  have hplaza' : ((withDefaults d).plaza != s.fuse.plaza) = true := by simpa [withDefaults] using hplaza
  simp [seriesDefine, hplaza', hr]

theorem loadCalendar_conf :
    (loadCalendar i s).conf = { s.conf with pending := some (fixMiss s i), armed := none } := by
  unfold loadCalendar
  exact (touches_when touches_raise : Touches [.stw, .led, .upl] _ _).conf (by decide)

theorem calArm_ok {i : CalImage} (hlead : leadOk r.issuer anchor 10000000 s = true) (hl : s.fuse.plaza = false)
    (hi : s.conf.pending = some i) (hj : i.job = job) :
    calArm r anchor job s = done [] (onConf (fun c => { c with armed := some anchor }) s) := by
  simp [calArm, hl, when, hlead, hi, hj]

theorem calArm_after : (calArm r anchor job s).2.after = id := by
  unfold calArm
  dsimp only
  split
  · rfl
  · split
    · rfl
    · split <;> rfl

/-- A Plaza's own part of an arm leaves the jobs as they were, or with the arm's, where it is a copy. -/
theorem calArm_jobs : (calArm r anchor job s).1.conf.jobs =
    if (s.fuse.plaza && isCopy r.issuer) = true then tput 0 job (Config.jobPartition job % 1024) s.conf.jobs
    else s.conf.jobs := by
  have hw : (when (s.fuse.plaza && isCopy r.issuer) (noteJob job) s).conf.jobs =
      if (s.fuse.plaza && isCopy r.issuer) = true then tput 0 job (Config.jobPartition job % 1024) s.conf.jobs
      else s.conf.jobs := by
    unfold when
    split <;> rfl
  rw [← hw]
  unfold calArm
  dsimp only
  split
  · rfl
  · split
    · rfl
    · split <;> rfl

theorem taken_noteJob (h : Taken c r s) : Taken c r (noteJob job s) :=
  ⟨h.powered, h.serving, h.room, h.turn, h.fetched, h.header, h.session, h.present, h.permitted, h.reserved, h.relayed⟩

theorem requestPasses_taken (h : Taken c r s) : requestPasses c r true s = true := by
  have hform : formReject c r true s = none := by
    have k := formReject_taken h (code := c.code)
    unfold formReject at k ⊢
    rwa [sessionReject_takeRequest, takeRequest_fuse] at k
  unfold requestPasses
  rw [h.serving, h.room, h.turn, h.fetched, hform]
  rfl

/-- The arm as the Steward serves it, at a Plaza that it passes on its way after the job is noted. -/
theorem exec_confCalArm (h : Taken { code := 0x0605, allow := {}, relayable := true } r s) :
    exec (.confCalArm r anchor job) s = run (serve { code := 0x0605, allow := {}, relayable := true } r true
      (engineServed 6 (calArm r anchor job))) (when (s.fuse.plaza && r.relay && !isCopy r.issuer) (noteJob job) s) := by
  have hw : (s.fuse.plaza && r.relay && !isCopy r.issuer
      && requestPasses { code := 0x0605, allow := {}, relayable := true } r true s)
        = (s.fuse.plaza && r.relay && !isCopy r.issuer) := by rw [requestPasses_taken h, Bool.and_true]
  show execConfCalArm r anchor job s = _
  unfold execConfCalArm
  dsimp only
  rw [run_powered h.powered, hw]
  unfold when
  split
  · exact (run_powered (s := noteJob job s) h.powered).symm
  · exact (run_powered h.powered).symm

/-- A Plaza that an arm passes notes the job's partition, on its way through or as its own. -/
theorem exec_confCalArm_plaza (h : Taken { code := 0x0605, allow := {}, relayable := true } r s) (hp : s.fuse.plaza = true)
    (he : engineUp 6 s = true) (hr : isCopy r.issuer = true ∨ r.relay = true) :
    ∃ t, exec (.confCalArm r anchor job) s = .next t ∧
      t.conf.jobs = tput 0 job (Config.jobPartition job % 1024) s.conf.jobs := by
  cases hcopy : isCopy r.issuer with
  | true =>
    rw [exec_confCalArm h, hcopy, Bool.not_true, Bool.and_false, show when false (noteJob job) s = s from rfl]
    refine served_of h rfl (fun u => ?_) (fun k => absurd (hcopy.symm.trans k.2) (by decide)) fun _ _ ht => ht
    rw [engineServed_up he]
    refine ⟨calArm_after, ?_⟩
    rw [calArm_jobs]
    exact if_pos (by simp [hcopy, show (plumb s u).fuse.plaza = true from hp])
  | false =>
    have hrelay : r.relay = true := hr.resolve_left (by simp [hcopy])
    rw [exec_confCalArm h, hp, hrelay, hcopy, show when (true && true && !false) (noteJob job) s = noteJob job s from rfl]
    have he' : engineUp 6 (noteJob job s) = true := he
    refine served_of (taken_noteJob h) rfl (fun u => ?_) (fun _ => rfl) fun _ _ ht => ht
    rw [engineServed_up he']
    refine ⟨calArm_after, ?_⟩
    rw [calArm_jobs]
    exact if_neg (by simp [hcopy])

end ConformanceCommands

/-- Settles O5: each command's own checks pass, and its own part is what the clause says; a Plaza notes the job of an arm
that passes it before it serves it, or as its copy's own part. -/
theorem conformanceCommandsComplete : Obligations.ConformanceCommandsComplete := by
  refine ⟨fun r d s h he hform hplaza hmay hsrc hroom hen => ?define, fun r d s h he hform hplaza hr => ?other,
    fun r desc image s h he hd hok => ?load, fun r anchor job i s h hl he hlead hi hj => ?arm,
    fun r anchor job s h hp he hr => exec_confCalArm_plaza h hp he hr, fun r rule s h he hrule hv => ?rule,
    fun r rule s h he hrule hv hsome => ?remove, fun r p quota s h he hp hq => ?quota,
    fun r index die desc x s h he hdie hx hd => ?read, fun r desc job marker key lateness scope at_ hr s h he hm hs hfind hv hd => ?hist,
    fun r desc job s h he hk hv hp hd => ?statusPlaza, fun r desc job s h he hk hv hp hd => ?statusLeaf⟩
  case define =>
    refine completes_of h hform fun u => ?_
    rw [engineServed_up he, seriesDefine_ok (s := plumb s u) hplaza hmay hsrc hroom hen]
    exact ⟨rfl, rfl⟩
  case other =>
    refine completes_of h hform fun u => ?_
    rw [engineServed_up he, seriesDefine_other (s := plumb s u) hplaza hr]
    exact ⟨rfl, rfl⟩
  case load =>
    refine finishesWith_of (w := .calLoad) h rfl (fun u => ?_) fun _ _ ht => ht
    have hd' : descOk (issuerPart r.issuer) desc (plumb s u) = true := hd
    have hok' : calOk image (plumb s u) = true := hok
    rw [engineServed_up he]
    simp only [hd', hok', Bool.not_true, Bool.false_eq_true, if_false]
    rw [loadCalendar_conf]
    exact ⟨trivial, rfl, rfl⟩
  case arm =>
    rw [exec_confCalArm h, hl, Bool.false_and, Bool.false_and, show when false (noteJob job) s = s from rfl]
    refine completes_of h rfl fun u => ?_
    rw [engineServed_up he, calArm_ok (s := plumb s u) (leadOk_of_le hlead) hl hi hj]
    exact ⟨rfl, rfl⟩
  case rule =>
    refine completes_of h (by simpa using hrule) fun u => ?_
    have hv' : jobVisible r.issuer rule.job (plumb s u) = true := hv
    rw [engineServed_up he]
    simp only [hv', Bool.not_true, Bool.false_eq_true, if_false, Bool.false_and]
    exact ⟨rfl, rfl⟩
  case remove =>
    refine completes_of h (by simpa using hrule) fun u => ?_
    have hv' : jobVisible r.issuer rule.job (plumb s u) = true := hv
    have hn : (ruleAt rule.job rule.rule ((plumb s u).time.ft + 1) (plumb s u)).isNone = false := by
      show (ruleAt rule.job rule.rule (s.time.ft + 1) s).isNone = false
      simpa [Option.isNone_iff_eq_none, Option.isSome_iff_ne_none] using hsome
    rw [engineServed_up he]
    simp only [hv', hn, Bool.not_true, Bool.false_eq_true, if_false, Bool.and_false]
    exact ⟨rfl, rfl⟩
  case quota =>
    refine completes_of h (by simp [hp, hq]) fun u => ?_
    rw [engineServed_up he]
    exact ⟨rfl, rfl⟩
  case read =>
    refine outputs_of h rfl ?_ (fun u => ?_) hd
    · cases hp : s.fuse.plaza
      · simp [hdie hp]
      · rfl
    · have hx' : seriesFor r.issuer index die (plumb s u) = some x := hx
      rw [engineServed_up he]
      simp only [hx']
  case hist =>
    refine outputs_of h rfl (by simpa using ⟨hm, hs⟩) (fun u => ?_) hd
    have hfind' : ((plumb s u).conf.hists.find? fun x => (plumb s u).time.ft < x.1 + 1000 * frameNs (plumb s u)
        && x.2.lateness == lateness && x.2.scope == scope && x.2.job == job && x.2.key == key
        && (!lateness || x.2.marker == marker)) = some (at_, hr) := hfind
    have hv' : histVisible r.issuer hr (plumb s u) = true := hv
    rw [engineServed_up he]
    simp only [hfind', hv', if_true]
  case statusPlaza =>
    refine outputs_of h rfl rfl (fun u => ?_) hd
    have hk' : jobKnown job (plumb s u) = true := hk
    have hv' : jobVisible r.issuer job (plumb s u) = true := hv
    have hp' : (plumb s u).fuse.plaza = true := hp
    rw [engineServed_up he]
    simp only [hk', hv', hp', Bool.not_true, Bool.or_self, Bool.false_eq_true, if_false, if_true, List.length_map]
    rfl
  case statusLeaf =>
    refine outputs_of h rfl rfl (fun u => ?_) hd
    have hk' : jobKnown job (plumb s u) = true := hk
    have hv' : jobVisible r.issuer job (plumb s u) = true := hv
    have hp' : (plumb s u).fuse.plaza = false := hp
    rw [engineServed_up he]
    simp only [hk', hv', hp', Bool.not_true, Bool.or_self, Bool.false_eq_true, if_false]
    rfl

end Sys2Proof.Machine
end

section
/-!
The marker port, the deadlines of markers and the activation of calendars.
-/

namespace Sys2Proof.Machine

section Markers

variable {s : State} {u : Under} {e : MarkerEntry} {mid at_ k : Nat} {m : MatchState}

/-! ## What activating a calendar leaves alone -/

/-- What no activation changes an anchor that is due leaves alone. -/
theorem activateDue_keeps {α : Type} (f : State → α) (hf : ∀ i a, f (activate i a s) = f s) : f (activateDue s) = f s := by
  unfold activateDue when
  split
  · split
    · exact hf _ _
    · rfl
  · rfl

theorem activateDue_time : (activateDue s).time = s.time := activateDue_keeps (·.time) fun _ _ => rfl

theorem activateDue_strobes : (activateDue s).conf.strobes = s.conf.strobes :=
  activateDue_keeps (·.conf.strobes) fun _ _ => rfl

theorem activateDue_late : (activateDue s).conf.late = s.conf.late := activateDue_keeps (·.conf.late) fun _ _ => rfl

theorem activateDue_invalidStrobes : (activateDue s).conf.invalidStrobes = s.conf.invalidStrobes :=
  activateDue_keeps (·.conf.invalidStrobes) fun _ _ => rfl

theorem activateDue_unknown : (activateDue s).conf.unknown = s.conf.unknown :=
  activateDue_keeps (·.conf.unknown) fun _ _ => rfl

/-! ## The state of a marker -/

theorem setMark_time : (setMark u mid m s).time = s.time := by
  unfold setMark
  split <;> rfl

theorem setMark_late : (setMark u mid m s).conf.late = s.conf.late := by
  unfold setMark
  split <;> rfl

theorem setMark_strobes : (setMark u mid m s).conf.strobes = s.conf.strobes := by
  unfold setMark
  split <;> rfl

theorem setMark_invalidStrobes : (setMark u mid m s).conf.invalidStrobes = s.conf.invalidStrobes := by
  unfold setMark
  split <;> rfl

/-- A marker's state reads the tables of marks alone. -/
theorem markOf_congr {t : State} (hm : t.conf.marks = s.conf.marks) (ho : t.conf.old = s.conf.old) :
    markOf u mid t = markOf u mid s := by
  unfold markOf
  rw [hm, ho]

theorem find_map_same {α : Type} {p : α → Bool} {f : α → α} {l : List α} (hf : ∀ x, p (f x) = p x) :
    (l.map f).find? p = (l.find? p).map f := by
  rw [List.find?_map]
  exact congrArg (Option.map f) (congrFun (congrArg List.find? (funext hf)) l)

/-- A marker's state reads as it was set: under the active calendar, or under an old one that is there. -/
theorem markOf_setMark (hm : m ≠ MatchState.start) (hu : ∀ a, u.before = some a → ∃ o ∈ s.conf.old, o.ends = a) :
    markOf u mid (setMark u mid m s) = m := by
  unfold markOf setMark
  cases hb : u.before with
  | none => exact tget_tput_ne hm
  | some a =>
    obtain ⟨o, ho, hends⟩ := hu a hb
    have hsome : ∃ x, s.conf.old.find? (fun o => o.ends == a) = some x := by
      rw [← Option.isSome_iff_exists, List.find?_isSome]
      exact ⟨o, ho, by simp [hends]⟩
    obtain ⟨x, hx⟩ := hsome
    have hxa : x.ends = a := by simpa using List.find?_some hx
    dsimp only [onConf]
    rw [find_map_same fun y => by split <;> rfl, hx]
    simp only [Option.map_some, hxa, if_true]
    exact tget_tput_ne hm

/-- An open occurrence lies under the active calendar, or under an old one that is there. -/
theorem openUnder_old (h : openUnder mid s = some (u, e)) : ∀ a, u.before = some a → ∃ o ∈ s.conf.old, o.ends = a := by
  intro a ha
  have hpick : ∀ w : Under, (match (markersOf w.cal.image).find? fun e => e.mid == mid with
      | none => none
      | some e => if occExists w.cal e w.before (markOf w mid s).openOcc then some (w, e) else none) = some (u, e) → w = u := by
    intro w hw
    split at hw
    · cases hw
    · split at hw
      · exact congrArg Prod.fst (Option.some.inj hw)
      · cases hw
  unfold openUnder at h
  dsimp only at h
  split at h
  · cases h
  · split at h
    · rename_i x hx
      obtain ⟨o, ho, hsome⟩ := List.exists_of_findSome?_eq_some (hx.trans h)
      have hw := hpick _ hsome
      refine ⟨o, by simpa using ho, ?_⟩
      rw [← hw] at ha
      exact Option.some.inj ha
    · have hw := hpick { cal := _, before := none } h
      rw [← hw] at ha
      cases ha

/-! ## Occurrences that resolve -/

/-- What a resolved occurrence leaves alone: all but the list of those resolved. -/
def OnlyLate (s t : State) : Prop := t = onConf (fun c => { c with late := t.conf.late }) s

theorem onlyLate_declareMissed : OnlyLate s (declareMissed u e k s) := rfl

theorem OnlyLate.trans {t v : State} (h : OnlyLate s t) (h' : OnlyLate t v) : OnlyLate s v := by
  unfold OnlyLate at *
  rw [h'.trans (congrArg (onConf _) h)]
  rfl

theorem onlyLate_forEach {α : Type} {l : List α} {f : α → State → State} (hf : ∀ a s, OnlyLate s (f a s)) :
    OnlyLate s (forEach l f s) := by
  unfold forEach
  induction l generalizing s with
  | nil => rfl
  | cons a l ih => exact (hf a s).trans ih

/-- A strobe with valid time, under the active calendar (R186). -/
theorem matchAt_active {d t : State} (ht : t = matchAt u e at_ d)
    (hk : k = max ((markOf u e.mid d).last.elim 0 (· + 1)) (nearestOcc u.cal e at_)) (hb : u.before = none)
    (hx : occExists u.cal e none k = true) :
    t.conf.strobes = d.conf.strobes ∧
      t.conf.late.getLast? = some (d.time.ft,
        { marker := e.mid, lkind := if k < (markOf u e.mid d).openOcc then 3 else 0, cls := e.cls, occ := k % 2 ^ 32,
          lateness := (at_ : Int) - (expectedAt u.cal e k : Nat) }) ∧
      markOf u e.mid t = { last := some k, openOcc := max (markOf u e.mid d).openOcc (k + 1) } := by
  have hge : ¬ k < (markOf u e.mid d).last.elim 0 (· + 1) := by omega
  have hmatch : matchAt u e at_ d = setMark u e.mid { last := some k, openOcc := max (markOf u e.mid d).openOcc (k + 1) }
      (resolve e (if k < (markOf u e.mid d).openOcc then 3 else 0) k ((at_ : Int) - (expectedAt u.cal e k : Nat))
        (forEach ((List.range (k - (markOf u e.mid d).openOcc)).map (· + (markOf u e.mid d).openOcc))
          (fun j => declareMissed u e j) d)) := by
    unfold matchAt
    cases hl : (markOf u e.mid d).last with
    | none =>
      simp only [hl, Option.elim_none] at hk hge
      simp only [hb, hl, ← hk, hx, hge, or_self, Bool.true_eq_false, if_false]
    | some l =>
      simp only [hl, Option.elim_some] at hk hge
      simp only [hb, hl, ← hk, hx, hge, or_self, Bool.true_eq_false, if_false]
  have hmissed : OnlyLate d (forEach ((List.range (k - (markOf u e.mid d).openOcc)).map (· + (markOf u e.mid d).openOcc))
      (fun j => declareMissed u e j) d) := onlyLate_forEach fun _ _ => onlyLate_declareMissed
  rw [hmatch] at ht
  subst ht
  refine ⟨?_, ?_, markOf_setMark (by simp [MatchState.start]) fun a ha => ?_⟩
  · rw [setMark_strobes, hmissed]
    rfl
  · rw [setMark_late, hmissed]
    exact List.getLast?_concat
  · rw [hb] at ha
    cases ha

end Markers

/-- Settles O6: a strobe is kept or dropped, matched under the calendar in force or counted; a deadline resolves the open
occurrence; at its anchor the armed calendar takes the active one's place. -/
theorem markerEventsComplete : Obligations.MarkerEventsComplete := by
  refine ⟨fun mid s hp hon hroom => ?kept, fun mid s hp hon hfull => ?dropped,
    fun mid at_ rest u e k s hp hup hst hcal hfind hk hb hx => ?matched,
    fun mid at_ rest u e s hp hup hst hcal hfind => ?invalid, fun mid at_ valid rest s hp hup hst hnone => ?unknown,
    fun mid u e s hp hup hv hopen => ?deadline, fun i a s hp hl hv hi ha => ?anchor⟩
  case kept =>
    refine (run_when hp hon : execMarkerStrobe mid s = _).trans ?_
    rw [if_pos hroom]
  case dropped =>
    refine (run_when hp hon : execMarkerStrobe mid s = _).trans ?_
    rw [if_neg (by omega)]
  case matched =>
    refine ⟨_, (run_when hp hup : execStrobeMatch s = _), ?_⟩
    simp only [hst]
    unfold matchStrobe
    simp only [hcal, hfind, if_true]
    obtain ⟨hstrobes, hlate, hmark⟩ := matchAt_active rfl hk hb hx
    refine ⟨hstrobes.trans activateDue_strobes, hlate.trans ?_, hmark⟩
    rw [activateDue_time]
    rfl
  case invalid =>
    refine ⟨_, (run_when hp hup : execStrobeMatch s = _), ?_⟩
    simp only [hst]
    unfold matchStrobe
    simp only [hcal, hfind, Bool.false_eq_true, if_false]
    unfold matchInvalid
    dsimp only
    rw [setMark_strobes, setMark_invalidStrobes, setMark_late]
    refine ⟨activateDue_strobes, congrArg (· + 1) activateDue_invalidStrobes, ?_⟩
    dsimp only [resolve, onConf]
    rw [activateDue_late, activateDue_time]
  case unknown =>
    refine ⟨_, (run_when hp hup : execStrobeMatch s = _), ?_⟩
    simp only [hst]
    have hcount : matchStrobe (mid, at_, valid) (activateDue (onConf (fun c => { c with strobes := rest }) s))
        = countUnknown (activateDue (onConf (fun c => { c with strobes := rest }) s)) := by
      unfold matchStrobe
      split
      · rfl
      · rename_i u hu
        simp only [hnone u hu]
    have hconf : ∀ x : State, (countUnknown x).conf
        = { x.conf with unknown := x.conf.unknown + 1, unknownFrame := x.conf.unknownFrame + 1 } := fun x =>
      ((touches_when touches_raise : Touches [.stw, .led, .upl] _ _).conf (by decide))
    rw [hcount, hconf]
    exact ⟨activateDue_strobes, congrArg (· + 1) activateDue_unknown, activateDue_late⟩
  case deadline =>
    refine ⟨_, (run_when hp (by simp [hup, hv]) : execMarkerDeadline mid s = _), ?_⟩
    unfold passDeadline
    simp only [hopen]
    refine ⟨?_, ?_⟩
    · rw [markOf_setMark]
      · simp [MatchState.start]
      · rw [untilFt_eq]
        exact openUnder_old hopen
    · rw [setMark_late, setMark_time]
      refine ⟨_, List.getLast?_concat, rfl, rfl, rfl, rfl, ?_⟩
      dsimp only
      split
      · exact .inr rfl
      · exact .inl rfl
  case anchor =>
    refine ⟨_, (run_when hp (by simp [hl]) : execCalendarAnchor s = _), ?_⟩
    unfold activateCalendar
    simp only [hi, ha, when, hv, if_true]
    refine ⟨rfl, fun c hc => ?_, le_untilFt hv, rfl, rfl, rfl, rfl⟩
    have hc' : (untilFt a s).conf.active = some c := by rw [untilFt_eq]; exact hc
    have hmarks : (untilFt a s).conf.marks = s.conf.marks := by rw [untilFt_eq]
    dsimp only [activate, onTest, onConf]
    rw [hc', hmarks]
    rfl

end Sys2Proof.Machine
end

section
/-!
Queries of Backscan: how one ends, what its engines leave of it, and when it starts.
-/

namespace Sys2Proof.Machine

section Queries

variable {s t u : State} {q : QueryState} {id flags chain engine : Nat} {early : Bool}

/-- Taking free values changes nothing else. -/
def OnlyDraws (s t : State) : Prop := t = { s with free := t.free }

theorem readBy_draws : OnlyDraws s (readBy early q s).2 := by
  unfold readBy
  split
  · generalize (q.scans.filterMap (·.cur)) = l
    generalize hseen : q.seen = seen
    clear hseen
    induction l generalizing s seen with
    | nil => rfl
    | cons x l ih =>
      have h := ih (s := (draw s).2)
        (seen := seen ++ ((entriesOf x.1 (draw s).2).take ((draw s).1 % ((entriesOf x.1 (draw s).2).length + 1))).map
          fun e => (x.1, e))
      exact h
  · rfl

theorem resultOf_draws {bytes : Nat} : OnlyDraws s (resultOf q flags bytes s).2 := rfl

theorem bufIssue_arc {p : Nat} {x : BufUse} {o : Out} : (bufIssue p x o s).arc = s.arc := touches_bufIssue.arc (by decide)

/-- The query that an identifier names, which ends, is in the list with its result (R253, R255). -/
theorem endQuery_ended (h : (s.arc.queries.find? fun q => q.query.queryId == id && !q.done && q.result.isNone) = some q) :
    ∃ x ∈ (endQuery id flags early s).arc.queries, x.chain = q.chain ∧ x.running = false ∧ x.result.isSome = true := by
  have hmem := List.mem_of_find?_eq_some h
  have hread : (readBy early q s).2.arc = s.arc := by rw [readBy_draws]
  unfold endQuery
  rw [h]
  dsimp only
  rw [bufIssue_arc]
  refine ⟨_, List.mem_map.mpr ⟨q, ?_, rfl⟩, ?_⟩
  · show q ∈ (readBy early q s).2.arc.queries
    rw [hread]
    exact hmem
  · rw [if_pos rfl]
    exact ⟨rfl, rfl, rfl⟩

/-! ## What the engines leave of a query -/

/-- A query after its engines have gone on: the same but for what they read. -/
def SameRun (x y : QueryState) : Prop :=
  y.chain = x.chain ∧ y.running = x.running ∧ y.startFt = x.startFt ∧ y.deadline = x.deadline

/-- Every query is still there, but for what its engines have read. -/
def RunsKept (s t : State) : Prop := ∀ x ∈ s.arc.queries, ∃ y ∈ t.arc.queries, SameRun x y

theorem RunsKept.of_queries (h : t.arc.queries = s.arc.queries) : RunsKept s t :=
  fun x hx => ⟨x, h ▸ hx, rfl, rfl, rfl, rfl⟩

theorem RunsKept.trans (h : RunsKept s t) (h' : RunsKept t u) : RunsKept s u := fun x hx => by
  obtain ⟨y, hy, h1, h2, h3, h4⟩ := h x hx
  obtain ⟨z, hz, k1, k2, k3, k4⟩ := h' y hy
  exact ⟨z, hz, k1.trans h1, k2.trans h2, k3.trans h3, k4.trans h4⟩

theorem runsKept_onQuery {f : QueryState → QueryState} (hf : ∀ x, SameRun x (f x)) : RunsKept s (onQuery chain f s) :=
  fun x hx => by
    refine ⟨_, List.mem_map.mpr ⟨x, hx, rfl⟩, ?_⟩
    split
    · exact hf x
    · exact ⟨rfl, rfl, rfl, rfl⟩

theorem runsKept_onScan {f : Scan → Scan} : RunsKept s (onScan chain engine f s) :=
  runsKept_onQuery fun _ => ⟨rfl, rfl, rfl, rfl⟩

theorem runsKept_skip {hole : Bool} : RunsKept s (onQuery chain (skipSegment hole) s) :=
  runsKept_onQuery fun _ => ⟨rfl, rfl, rfl, rfl⟩

theorem runsKept_memStart {o : MemOp} : RunsKept s (memStart o s) := .of_queries rfl

theorem runsKept_driveScan {n : Nat} : RunsKept s (driveScan chain engine n s) := by
  induction n generalizing s with
  | zero => exact .of_queries rfl
  | succ n ih =>
    unfold driveScan
    split
    · exact .of_queries rfl
    · split
      · exact .of_queries rfl
      · dsimp only
        split
        · exact (runsKept_onScan.trans runsKept_skip).trans ih
        · split
          · exact (runsKept_onScan.trans runsKept_skip).trans ih
          · exact (runsKept_onScan.trans runsKept_onScan).trans ih
      · dsimp only
        split
        · exact .of_queries rfl
        · split
          · exact (runsKept_onScan.trans runsKept_memStart).trans ih
          · exact .of_queries rfl

theorem runsKept_forEach {α : Type} {l : List α} {f : α → State → State} (hf : ∀ a s, RunsKept s (f a s)) :
    RunsKept s (forEach l f s) := by
  unfold forEach
  induction l generalizing s with
  | nil => exact .of_queries rfl
  | cons a l ih => exact (hf a s).trans ih

theorem nextQuery_mem (h : nextQuery s = some q) : q ∈ s.arc.queries := by
  unfold nextQuery at h
  dsimp only at h
  split at h
  · rename_i p hp
    split at h
    · rw [Option.some.inj h] at hp
      exact List.mem_of_find?_eq_some hp
    · exact List.mem_of_find?_eq_some (Option.filter_eq_some_iff.mp h).1
  · exact List.mem_of_find?_eq_some (Option.filter_eq_some_iff.mp h).1

/-- A query as it starts: its snapshot point is now, and its engines have their parts (R250, R254). -/
def startedQuery (q : QueryState) (s : State) : QueryState :=
  let q' := { q with startFt := some s.time.ft, running := true, deadline := some (s.time.timer + 10000000000) }
  { q' with segs := querySegments q' s, scans := dealScans q.query.engines ((querySegments q' s).map (·.1)) }

/-- The state in which a query starts. -/
def withStarted (q : QueryState) (s : State) : State := onQuery q.chain (fun _ => startedQuery q s) s

theorem startedQuery_mem (h : q ∈ s.arc.queries) : startedQuery q s ∈ (withStarted q s).arc.queries :=
  List.mem_map.mpr ⟨q, h, if_pos rfl⟩

end Queries

/-- Settles O13: the query whose turn it is takes its snapshot point, and a query that ends holds its result. -/
theorem backscanEventsComplete : Obligations.BackscanEventsComplete := by
  refine ⟨fun q s hp hplaza he hnext => ?start, fun id q s hp he hrun hq => ?complete, fun id p q s hp hrun hq => ?timeout⟩
  case start =>
    refine ⟨_, (run_powered hp : execBackscanStart s = _), ?_⟩
    simp only [hplaza, he, hnext, Bool.not_true, Bool.or_self, Bool.false_eq_true, if_false]
    have hkept : RunsKept (withStarted q s) (forEach (startedQuery q s).scans
        (fun c => drive q.chain c.engine) (intermediate (.query q.query.queryId) [] (withStarted q s))) := by
      refine (RunsKept.of_queries ?_).trans (runsKept_forEach fun _ _ => runsKept_driveScan)
      exact congrArg Arcade.queries ((touches_forEach fun _ _ => touches_answer : Touches answerParts (withStarted q s) _).arc (by decide))
    have hstarted := startedQuery_mem (nextQuery_mem hnext)
    obtain ⟨y, hy, hrun⟩ := hkept _ hstarted
    exact ⟨y, hy, hrun⟩
  case complete =>
    have hany : (s.arc.queries.any fun q => q.query.queryId == id && q.running) = true := by
      have hid := List.find?_some hq
      simp only [Bool.and_eq_true] at hid
      exact List.any_eq_true.mpr ⟨q, List.mem_of_find?_eq_some hq, by simp [hid.1.1, hrun]⟩
    refine ⟨_, (run_powered hp : execBackscanComplete id s = _), ?_⟩
    simp only [he, hany, Bool.and_self, if_true]
    exact endQuery_ended hq
  case timeout =>
    refine ⟨_, (run_powered hp : execBackscanTimeout id s = _), ?_⟩
    simp only [hrun]
    refine endQuery_ended ?_
    rw [touches_untilTimer.arc (by decide)]
    exact hq

end Sys2Proof.Machine
end

section
/-!
The commands of the Arcade, of Backscan and of the digests (groups 0x08 and 0x09).
-/

namespace Sys2Proof.Machine

section ArcadeDigestCommands

variable {s u : State} {r : Req} {t : KeyTable} {d : Desc} {i : Issuer} {id : Nat} {q : QueryState}

theorem any_of_find {α : Type} {l : List α} {p f : α → Bool} {x : α} (hx : l.find? p = some x) (hf : f x = true) :
    (l.any fun y => p y && f y) = true :=
  List.any_eq_true.mpr ⟨x, List.mem_of_find?_eq_some hx, by simp [List.find?_some hx, hf]⟩

theorem OnlyDraws.touches {t : State} (h : OnlyDraws s t) : Touches [.free] s t := touches_put .free h

theorem OnlyDraws.kept {t : State} (h : OnlyDraws s t) : Kept s t := by
  rw [h]
  exact Kept.refl s

theorem touches_onArc {f : Arcade → Arcade} : Touches [.arc] s (onArc f s) := touches_put .arc rfl

theorem kept_onArc {f : Arcade → Arcade} : Kept s (onArc f s) := Kept.refl s

theorem touches_onChain {n : Nat} {f : Chain → Chain} : Touches [.buf] s (onChain n f s) := touches_put .buf rfl

theorem kept_onChain {n : Nat} {f : Chain → Chain} : Kept s (onChain n f s) := Kept.refl s

theorem touches_endQuery {flags : Nat} {early : Bool} : Touches [.arc, .buf, .out, .free] s (endQuery id flags early s) := by
  unfold endQuery
  split
  · exact Touches.refl
  · dsimp only
    refine Touches.andThen ?_ touches_bufIssue (by decide)
    refine Touches.andThen ?_ touches_onChain (by decide)
    refine Touches.andThen ?_ touches_onArc (by decide)
    refine Touches.andThen ?_ touches_onArc (by decide)
    refine Touches.andThen ?_ resultOf_draws.touches (by decide)
    exact readBy_draws.touches.mono (by decide)

/-- A query's end keeps what has been said. -/
theorem kept_endQuery {flags : Nat} {early : Bool} : Kept s (endQuery id flags early s) := by
  unfold endQuery
  split
  · exact Kept.refl s
  · dsimp only
    refine Kept.trans ?_ kept_bufIssue
    refine Kept.trans ?_ kept_onChain
    refine Kept.trans ?_ kept_onArc
    refine Kept.trans ?_ kept_onArc
    refine Kept.trans ?_ resultOf_draws.kept
    exact readBy_draws.kept

theorem Told.endQuery {m : Msg} {flags : Nat} {early : Bool} (h : Told i m s) : Told i m (endQuery id flags early s) :=
  h.mono (congrArg Hrw.pm (touches_endQuery.hrw (by decide))) (congrArg (·.responses) (touches_endQuery.sbi (by decide))) kept_endQuery

/-- A query as it is accepted (R252, R253). -/
def submittedQuery (r : Req) (query : Query) (desc : Desc) (chain : Nat) : QueryState :=
  { query := if isTenant r.issuer then { query with engines := min 4 query.engines } else query, issuer := r.issuer,
    tag := r.tag, chain := chain, desc := desc, startFt := none, result := none, deadline := none, running := false,
    done := false, lost := false, overwritten := false, holes := false, skippedMib := 0, segs := [], scans := [], seen := [],
    read := 0 }

/-- An arm that passes its checks installs its key and table. -/
theorem digestArm_ok (hlead : leadOk r.issuer t.anchor 10000000 s = true) (hd : descOk (issuerPart r.issuer) d s = true)
    (ht : collTableOk t.table s = true) :
    digestArm r t d s = (installTable t s,
      { status := Config.accepted, work := some (.digestArm t.job), after := complete (.digestArm t.job) Config.ok [] }) := by
  simp [digestArm, hlead, inputOk, hd, ht]

/-- An installed table stands among a chip's, or is a Leaf's next one, in front of the key in force. -/
theorem installTable_dig : if s.fuse.plaza then t ∈ (installTable t s).dig.tables
    else (installTable t s).dig.next = some t ∧ (installTable t s).dig.current = (dueKey s).dig.current := by
  unfold installTable
  split
  · exact List.mem_append_right _ (List.mem_singleton.mpr rfl)
  · exact ⟨rfl, rfl⟩

theorem dueKey_plumb : (dueKey (plumb s u)).dig = (dueKey s).dig := by
  have hd : (plumb s u).dig = s.dig := rfl
  unfold dueKey when
  rw [hd]
  cases s.dig.next with
  | none => rfl
  | some t =>
    have hv : timeValid (plumb s u) = timeValid s := rfl
    have ht : (plumb s u).time = s.time := rfl
    dsimp only
    rw [hv, ht]
    split <;> rfl

/-- An arm in whose scope the block lies is the block's own. -/
theorem exec_digestArm {key job anchor : Nat} {table : List CollEntry}
    (hself : r.relay = true → selfInScope r.scope s = true) :
    exec (.digestArm r key job anchor d table.length table) s =
      run (serve { code := 0x0901, allow := {}, relayable := true, attachment := attachedTo r d (table.flatMap collEntryBytes) s }
        r (2 ≤ key && key < digestP && table.length == table.length && inputRelayOk r d)
        (engineServed 8 (digestArm r { job := job, key := key, anchor := anchor, table := table } d))) s := by
  have hpass : (r.relay && !selfInScope r.scope s) = false := by
    cases hr : r.relay
    · rfl
    · rw [hself hr]; rfl
  show execDigestArm r key job anchor d table.length table s = _
  have hnone : ∀ a b c x y z : Bool, (a && b && r.relay && c && !selfInScope r.scope s && x && y && z) = false := by
    intro a b c x y z
    rcases Bool.and_eq_false_iff.mp hpass with h | h <;> simp [h]
  unfold execDigestArm run
  dsimp only
  rw [hnone]
  rfl

end ArcadeDigestCommands

/-- Settles O11: each command's own checks pass, and its own part is what the clause says. -/
theorem arcadeDigestCommandsComplete : Obligations.ArcadeDigestCommandsComplete := by
  refine ⟨fun r s h he => ?status, fun r logs a b gs s h he hlogs hab hgs hroom hbytes => ?hold, fun r id s h he hid => ?release,
    fun r port s h he hport hfence => ?restore, fun r desc tray a b q es s h he htray hab hq hnum hd hes => ?locate,
    fun r addr query desc s h he haddr hten hwin hd hform hroom => ?submit, fun r id q s h he hq hname => ?cancel,
    fun r id q s h he hid hq => ?named, fun r s h he => ?queue, fun r key job anchor desc table s h he hlo hhi hin hlead hd ht => ?arm,
    fun r job s h he hk hv => ?digestStatus, fun r job coll inst v s h he hv hlast => ?verdict⟩
  case status =>
    refine completes_of h rfl fun u => ?_
    rw [engineServed_up he]
    exact ⟨rfl, rfl⟩
  case hold =>
    subst hgs
    refine completesWith_of h (by simp [hlogs, hab]) (fun u => ?_) fun _ _ ht => ht
    rw [engineServed_up he]
    have hroom' : ¬ 8 ≤ (plumb s u).arc.holds.length := by show ¬ 8 ≤ s.arc.holds.length; omega
    have hbytes' : ¬ 2 ^ 40 < heldBytes (plumb s u)
        + segmentBytes * (((plumb s u).arc.segments.filter (inHold logs a b)).filter fun g => !g.held).length :=
      Nat.not_lt.mpr hbytes
    simp only [hroom', hbytes', if_false]
    refine ⟨rfl, ⟨_, List.mem_append_right _ (List.mem_singleton.mpr rfl), rfl, rfl, rfl⟩, fun g hg hseq => ?_⟩
    obtain ⟨x, -, hmark⟩ := List.mem_map.mp hg
    split at hmark
    · rw [← hmark]
    · rename_i hnot
      rw [← hmark] at hseq
      exact absurd (List.contains_iff_mem.mpr hseq) hnot
  case release =>
    refine completes_of h rfl fun u => ?_
    have hany : ((plumb s u).arc.holds.any fun h => h.id == id) = true := by
      obtain ⟨x, hx, hxid⟩ := hid
      exact List.any_eq_true.mpr ⟨x, hx, by simp [hxid]⟩
    rw [engineServed_up he]
    simp only [hany, if_true]
    exact ⟨rfl, rfl⟩
  case restore =>
    refine completesWith_of h (by simp [hport]) (fun u => ?_) fun _ _ ht => ht
    have hfence' : (plumb s u).fence.getLsbD (Config.memFenceLine port % 256) = false := hfence
    rw [engineServed_up he]
    simp only [hfence', Bool.false_eq_true, if_false]
    refine ⟨rfl, by simp [done, onArc], fun hdead g hg => ?_⟩
    have hdead' : (plumb s u).arc.deadPorts.contains port = true := List.contains_iff_mem.mpr hdead
    dsimp only [done, onArc] at hg
    rw [if_pos hdead'] at hg
    simpa using (List.mem_filter.mp hg).2
  case locate =>
    subst hes
    refine outputs_of h rfl (by simp [htray, hab]) (fun u => ?_) hd
    have hq' : findRole .quarter (plumb s u) = some q := hq
    rw [engineServed_up he]
    simp only [hq', hnum, beq_self_eq_true, Bool.not_true, Bool.false_eq_true, if_false]
    rfl
  case submit =>
    refine ⟨submittedQuery r query desc s.buf.nextChain, rfl, rfl, rfl, rfl, defers_of h (by simp [haddr]) fun u => ?_⟩
    have hten' : (isTenant r.issuer && tenantQueryBad query) = false := by
      cases hi : isTenant r.issuer
      · rfl
      · rw [hten hi]; rfl
    have hwin' : inWindows (issuerPart r.issuer) addr 112 (plumb s u) = true := hwin
    have hd' : descOk (issuerPart r.issuer) desc (plumb s u) = true := hd
    have hroom' : queueFull r.issuer (plumb s u) = false := hroom
    rw [engineServed_up he]
    simp only [hten', hwin', hd', hform, hroom', Bool.not_true, Bool.or_self, Bool.false_eq_true, if_false]
    refine ⟨?_, rfl⟩
    cases isTenant r.issuer <;> rfl
  case cancel =>
    have hagree : Agree s (takeRequest r 0x0807 s) := agree_takeRequest r _ s
    have he' : engineUp 11 (takeRequest r 0x0807 s) = true := by rw [hagree.eq]; exact he
    have harc : (takeRequest r 0x0807 s).arc = s.arc := by rw [hagree.eq]; rfl
    have hown : engineServed 11 (fun s =>
        if s.arc.queries.any fun q => q.query.queryId == id && !q.done && q.result.isNone && mayName r.issuer q then
          (s, ({ status := Config.ok, after := endQuery id 16 true } : Reply))
        else deny Config.notFound s) (takeRequest r 0x0807 s) =
        (takeRequest r 0x0807 s, { status := Config.ok, after := endQuery id 16 true }) := by
      refine (if_pos he').trans (if_pos ?_)
      rw [harc]
      exact any_of_find hq hname
    have hnext : exec (.backscanCancel r id) s = .next (endQuery id 16 true
        (answer r.issuer 0x0807 r.tag Config.ok true [] [] (takeRequest r 0x0807 s))) := by
      refine (serve_local h rfl rfl).trans ?_
      rw [hown]
      rfl
    refine ⟨_, hnext, endQuery_ended ?_, answered_local h rfl told_answer.endQuery⟩
    rw [touches_answer.arc (by decide), harc]
    exact hq
  case named =>
    refine completes_of h rfl fun u => ?_
    have hq' : (((plumb s u).arc.queries.filter (mayName r.issuer)).reverse.find? fun q => q.query.queryId == id) = some q := hq
    rw [engineServed_up he]
    simp only [hid, if_false, hq']
    exact ⟨rfl, rfl⟩
  case queue =>
    refine completes_of h rfl fun u => ?_
    rw [engineServed_up he]
    exact ⟨rfl, rfl⟩
  case arm =>
    rw [exec_digestArm fun hr => (h.relayed hr).2.2]
    have h' : Taken
        { code := 0x0901, allow := {}, relayable := true, attachment := attachedTo r desc (table.flatMap collEntryBytes) s }
        r s :=
      ⟨h.powered, h.serving, h.room, h.turn, h.fetched, h.header, h.session, h.present, h.permitted, h.reserved, h.relayed⟩
    refine finishesWith_of (w := .digestArm job) h' (by simp [hlo, hhi, hin]) (fun u => ?_) fun _ _ ht => ht
    have hlead' : leadOk r.issuer anchor 10000000 (plumb s u) = true := leadOk_of_le hlead
    rw [engineServed_up he, digestArm_ok (s := plumb s u) hlead' hd ht]
    refine ⟨rfl, ?_⟩
    rw [← dueKey_plumb (u := u)]
    exact installTable_dig (s := plumb s u)
  case digestStatus =>
    refine completes_of h rfl fun u => ?_
    have hk' : digestKnows job (plumb s u) = true := hk
    have hv' : jobVisible r.issuer job (plumb s u) = true := hv
    rw [engineServed_up he]
    simp only [hk', hv', Bool.not_true, Bool.or_self, Bool.false_eq_true, if_false]
    exact ⟨rfl, rfl⟩
  case verdict =>
    refine completes_of h rfl fun u => ?_
    have hv' : jobVisible r.issuer job (plumb s u) = true := hv
    have hlast' : ((plumb s u).dig.verdicts.filter fun v =>
      v.job == job && v.coll == coll && (inst == 0 || v.inst == inst)).getLast? = some v := hlast
    rw [engineServed_up he]
    simp only [hlast', hv', Bool.not_true, Bool.false_eq_true, if_false]
    exact ⟨rfl, rfl⟩

end Sys2Proof.Machine
end

section
/-!
The events of the Arcade: operations that end, ports that fail, segments that are sealed and holds that end.
-/

namespace Sys2Proof.Machine

section ArcadeEvents

variable {s t u : State} {o : MemOp} {id port line chain engine x lines got n : Nat} {g : Segment} {q : QueryState}

/-! ## Operations that are issued (R237) -/

/-- What issuing operations leaves alone: all but the operations, those that wait, the next tag and the ports' record. -/
def OnlyIssues (s t : State) : Prop :=
  t = { s with arc := { s.arc with ops := t.arc.ops, waiting := t.arc.waiting, nextTag := t.arc.nextTag }, out := t.out }

theorem OnlyIssues.trans (h : OnlyIssues s t) (h' : OnlyIssues t u) : OnlyIssues s u := by
  unfold OnlyIssues at *
  rw [h'.trans (congrArg (fun s : State => { s with
    arc := { s.arc with ops := u.arc.ops, waiting := u.arc.waiting, nextTag := u.arc.nextTag }, out := u.out }) h)]

theorem onlyIssues_issueWaiting : OnlyIssues s (issueWaiting n s) := by
  induction n generalizing s with
  | zero => rfl
  | succ n ih =>
    unfold issueWaiting
    split
    · rfl
    · have hstart : OnlyIssues s (memStart ‹MemOp› (onArc (fun a => { a with waiting := a.waiting.erase ‹MemOp› }) s)) := rfl
      exact hstart.trans ih

/-- An operation that waited is in flight or waits still. -/
theorem issueWaiting_length :
    (issueWaiting n s).arc.ops.length + (issueWaiting n s).arc.waiting.length = s.arc.ops.length + s.arc.waiting.length := by
  induction n generalizing s with
  | zero => rfl
  | succ n ih =>
    unfold issueWaiting
    split
    · rfl
    · rename_i o ho
      have hmem := List.mem_of_find?_eq_some ho
      have herase := List.length_erase_of_mem hmem
      have hpos := List.length_pos_of_mem hmem
      rw [ih]
      show (s.arc.ops ++ [_]).length + (s.arc.waiting.erase o).length = _
      rw [List.length_append, herase]
      simp only [List.length_singleton]
      omega

/-- An operation as it was asked for stands among those in flight or those that wait. -/
def HasOp (o : MemOp) (s : State) : Prop :=
  ∃ x, (x ∈ s.arc.ops ∨ x ∈ s.arc.waiting) ∧ x.port = o.port ∧ x.write = o.write ∧ x.addr = o.addr ∧ x.use = o.use

theorem hasOp_issueWaiting (h : HasOp o s) : HasOp o (issueWaiting n s) := by
  induction n generalizing s with
  | zero => exact h
  | succ n ih =>
    unfold issueWaiting
    split
    · exact h
    · rename_i w hw
      refine ih ?_
      obtain ⟨x, hx | hx, hrest⟩ := h
      · exact ⟨x, .inl (List.mem_append_left _ hx), hrest⟩
      · by_cases hxw : x = w
        · subst hxw
          exact ⟨_, .inl (List.mem_append_right _ (List.mem_singleton.mpr rfl)), hrest⟩
        · exact ⟨x, .inr ((List.mem_erase_of_ne hxw).mpr hx), hrest⟩

/-! ## A response (R237, R244, R250) -/

theorem runningQuery_onQuery {f : QueryState → QueryState} (hf : ∀ y, (f y).chain = y.chain ∧ (f y).running = y.running)
    (h : runningQuery chain s = some q) : runningQuery chain (onQuery chain f s) = some (f q) := by
  have hq := List.find?_some h
  simp only [Bool.and_eq_true, beq_iff_eq] at hq
  obtain ⟨hchain, -⟩ := hq
  unfold runningQuery onQuery onArc at *
  dsimp only
  rw [find_map_same, h, Option.map_some, if_pos hchain]
  intro y
  split
  · rw [(hf y).1, (hf y).2]
  · rfl

/-- An operation that is over leaves its place, and what waits takes it. -/
theorem opDone_length (huse : ∀ c e, o.use ≠ .scan c e) :
    (opDone o s).arc.ops.length + (opDone o s).arc.waiting.length
        + (s.arc.ops.filter fun y => y.port == o.port && y.tag == o.tag).length
      = s.arc.ops.length + s.arc.waiting.length := by
  have hsplit := List.length_eq_length_filter_add (l := s.arc.ops) fun y => y.port == o.port && y.tag == o.tag
  have hops : (opDone o s).arc.ops.length + (opDone o s).arc.waiting.length
      = (s.arc.ops.filter fun y => !(y.port == o.port && y.tag == o.tag)).length + s.arc.waiting.length := by
    unfold opDone
    rw [issueWaiting_length]
    split
    · rfl
    · rename_i c e hce
      exact absurd hce (huse c e)
    · rfl
  omega

/-- An entry is released with its last acknowledgement (R244). -/
theorem opDone_staged (huse : o.use = .entry id) (hleft : ∀ y ∈ s.arc.staged, y.id = id → y.left = 1) :
    ∀ y ∈ (opDone o s).arc.staged, y.id ≠ id := by
  intro y hy
  unfold opDone at hy
  rw [onlyIssues_issueWaiting, huse] at hy
  obtain ⟨hmap, hnonzero⟩ := List.mem_filter.mp hy
  obtain ⟨z, hz, hzy⟩ := List.mem_map.mp hmap
  split at hzy
  · rename_i hid
    rw [← hzy, hleft z hz hid] at hnonzero
    cases hnonzero
  · rename_i hid
    rw [← hzy]
    exact hid

/-- The query that runs on a chain is there, and `P` holds of it. -/
def Runs (chain : Nat) (P : QueryState → Prop) (s : State) : Prop := ∃ p, runningQuery chain s = some p ∧ P p

theorem runs_onQuery {P : QueryState → Prop} {f : QueryState → QueryState}
    (hf : ∀ y, (f y).chain = y.chain ∧ (f y).running = y.running) (hP : ∀ y, P y → P (f y)) (h : Runs chain P s) :
    Runs chain P (onQuery chain f s) := by
  obtain ⟨p, hp, hPp⟩ := h
  exact ⟨f p, runningQuery_onQuery hf hp, hP p hPp⟩

/-- What an engine's going on leaves of a query: all that its scans and its skipped segments do not say. -/
theorem runs_driveScan {P : QueryState → Prop} (hscan : ∀ q l, P q → P { q with scans := l })
    (hskip : ∀ q b, P q → P (skipSegment b q)) (h : Runs chain P s) : Runs chain P (driveScan chain engine n s) := by
  have hs : ∀ {f : Scan → Scan} {s : State}, Runs chain P s → Runs chain P (onScan chain engine f s) :=
    fun h => runs_onQuery (fun _ => ⟨rfl, rfl⟩) (fun _ hy => hscan _ _ hy) h
  have hk : ∀ {b : Bool} {s : State}, Runs chain P s → Runs chain P (onQuery chain (skipSegment b) s) :=
    fun h => runs_onQuery (fun _ => ⟨rfl, rfl⟩) (fun _ hy => hskip _ _ hy) h
  induction n generalizing s with
  | zero => exact h
  | succ n ih =>
    unfold driveScan
    split
    · exact h
    · split
      · exact h
      · dsimp only
        split
        · exact ih (hk (hs h))
        · split
          · exact ih (hk (hs h))
          · exact ih (hs (hs h))
      · dsimp only
        split
        · exact h
        · split
          · exact ih (hs h)
          · exact h

/-- An engine has answers to so many of the lines of a segment. -/
def ReadsAt (engine x lines got : Nat) (q : QueryState) : Prop :=
  ∃ d n, (q.scans.find? fun c => c.engine == engine) = some d ∧ d.cur = some (x, n, lines, got)

theorem readsAt_scan {f : Scan → Scan} {d : Scan} (hd : (q.scans.find? fun c => c.engine == engine) = some d)
    (hf : ∀ c, (f c).engine = c.engine) (hcur : (f d).cur = some (x, n, lines, got)) :
    ReadsAt engine x lines got { q with scans := q.scans.map fun c => if c.engine = engine then f c else c } := by
  have he : d.engine = engine := by simpa using List.find?_some hd
  refine ⟨f d, n, ?_, hcur⟩
  dsimp only
  rw [find_map_same, hd, Option.map_some, if_pos he]
  intro c
  split
  · rw [hf c]
  · rfl

/-- While an engine is in a segment that is there, it goes on in it. -/
theorem readsAt_driveScan (hg : (s.arc.segments.find? fun g => g.seq == x) = some g)
    (h : Runs chain (ReadsAt engine x lines got) s) : Runs chain (ReadsAt engine x lines got) (driveScan chain engine n s) := by
  induction n generalizing s with
  | zero => exact h
  | succ n ih =>
    obtain ⟨q, hq, d, k, hd, hcur⟩ := h
    unfold driveScan
    simp only [hq, Option.bind_some, hd, hcur, hg]
    split
    · exact ih hg ⟨_, runningQuery_onQuery (fun _ => ⟨rfl, rfl⟩) hq, readsAt_scan hd (fun _ => rfl) rfl⟩
    · exact ⟨q, hq, d, k, hd, hcur⟩

theorem Runs.issued {P : QueryState → Prop} (h : Runs chain P s) : Runs chain P (issueWaiting n s) := by
  unfold Runs runningQuery at *
  rw [onlyIssues_issueWaiting]
  exact h

/-- A read that is answered in the middle of a segment (R250). -/
theorem scanAnswered_reads {c : Scan} {next : Nat} (hq : runningQuery chain s = some q)
    (hc : (q.scans.find? fun c => c.engine == engine) = some c) (hcur : c.cur = some (x, next, lines, got))
    (hg : (s.arc.segments.find? fun g => g.seq == x) = some g) (hmore : got + 1 < lines) :
    Runs chain (ReadsAt engine x lines (got + 1)) (scanAnswered chain engine s) := by
  unfold scanAnswered drive
  simp only [hq, Option.bind_some, hc, hcur, hg, hmore, if_true]
  exact readsAt_driveScan hg ⟨_, runningQuery_onQuery (fun _ => ⟨rfl, rfl⟩) hq, readsAt_scan hc (fun _ => rfl) rfl⟩

/-- The last read of a segment (R250). -/
theorem scanAnswered_seen {c : Scan} {next : Nat} (hq : runningQuery chain s = some q)
    (hc : (q.scans.find? fun c => c.engine == engine) = some c) (hcur : c.cur = some (x, next, lines, got))
    (hg : (s.arc.segments.find? fun g => g.seq == x) = some g) (hlast : lines ≤ got + 1) :
    Runs chain (fun p => ∀ e ∈ g.entries, (x, e) ∈ p.seen) (scanAnswered chain engine s) := by
  unfold scanAnswered drive
  simp only [hq, Option.bind_some, hc, hcur, hg, Nat.not_lt.mpr hlast, if_false]
  refine runs_driveScan (fun _ _ hp => hp) (fun _ _ hp => hp) ⟨_, runningQuery_onQuery (fun _ => ⟨rfl, rfl⟩)
    (runningQuery_onQuery (fun _ => ⟨rfl, rfl⟩) hq), fun e he => ?_⟩
  exact List.mem_append_right _ (List.mem_map_of_mem he)

/-- A read that is answered, of a segment that is there: one line more, or the segment has been seen (R250). -/
theorem opDone_scan {c : Scan} {next : Nat} (huse : o.use = .scan chain engine) (hq : runningQuery chain s = some q)
    (hc : (q.scans.find? fun c => c.engine == engine) = some c) (hcur : c.cur = some (x, next, lines, got))
    (hg : (s.arc.segments.find? fun g => g.seq == x) = some g) :
    ∃ p, runningQuery chain (opDone o s) = some p ∧ (got + 1 < lines → ReadsAt engine x lines (got + 1) p) ∧
      (lines ≤ got + 1 → ∀ e ∈ g.entries, (x, e) ∈ p.seen) := by
  unfold opDone
  rw [huse]
  dsimp only
  let s' := onArc (fun a => { a with ops := a.ops.filter fun x => !(x.port == o.port && x.tag == o.tag) }) s
  have hq' : runningQuery chain s' = some q := hq
  have hg' : (s'.arc.segments.find? fun g => g.seq == x) = some g := hg
  rcases Nat.lt_or_ge (got + 1) lines with hmore | hlast
  · obtain ⟨p, hp, hreads⟩ := (scanAnswered_reads hq' hc hcur hg' hmore).issued
    exact ⟨p, hp, fun _ => hreads, fun hle => absurd hmore (Nat.not_lt.mpr hle)⟩
  · obtain ⟨p, hp, hseen⟩ := (scanAnswered_seen hq' hc hcur hg' hlast).issued
    exact ⟨p, hp, fun hlt => absurd hlt (Nat.not_lt.mpr hlast), fun _ => hseen⟩

theorem found_op {tag : Nat} (h : (s.arc.ops.find? fun o => o.port == port && o.tag == tag) = some o) :
    o.port = port ∧ o.tag = tag := by
  simpa using List.find?_some h

/-! ## An error (R256) -/

/-- Fewer than 16 errors within a second leave the port alive. -/
theorem portError_counted (h : recentErrors port s < 15) :
    portError port s = onArc (fun a => { a with errors := a.errors ++ [(port, s.time.ft)] }) s := by
  unfold portError when
  refine if_neg ?_
  have hone : recentErrors port (onArc (fun a => { a with errors := a.errors ++ [(port, s.time.ft)] }) s)
      ≤ recentErrors port s + 1 := by
    unfold recentErrors onArc
    dsimp only
    rw [List.filter_append, List.length_append]
    exact Nat.add_le_add_left (List.length_filter_le _ _) _
  simp only [decide_eq_true_eq]
  omega

/-- An operation that fails is asked for again while its port lives. -/
theorem opFailed_again (h : recentErrors o.port s < 15) (hlive : o.port ∉ s.arc.deadPorts) :
    (opFailed o s).arc.errors = s.arc.errors ++ [(o.port, s.time.ft)] ∧ (opFailed o s).time = s.time ∧
      HasOp o (opFailed o s) := by
  have hlive' : ¬ (s.arc.deadPorts.contains o.port) = true := fun hc => hlive (List.contains_iff_mem.mp hc)
  unfold opFailed
  rw [portError_counted h]
  dsimp only [onArc]
  rw [if_neg hlive']
  refine ⟨?_, ?_, hasOp_issueWaiting ⟨_, .inr (List.mem_cons_self ..), rfl, rfl, rfl, rfl⟩⟩
  · rw [onlyIssues_issueWaiting]
  · rw [onlyIssues_issueWaiting]

/-- As ft goes on, no error becomes recent. -/
theorem recentErrors_mono (ha : t.arc = s.arc) (ht : s.time.ft ≤ t.time.ft) : recentErrors port t ≤ recentErrors port s := by
  unfold recentErrors
  rw [ha]
  refine (List.monotone_filter_right _ fun e he => ?_).length_le
  simp only [Bool.and_eq_true, decide_eq_true_eq] at he ⊢
  exact ⟨he.1, by omega⟩

/-! ## A port that fails (R256, R257) -/

/-- A port has failed: it is dead, fenced and in the Cul-de-sac, and its segments are lost. -/
def PortGone (port line : Nat) (s : State) : Prop :=
  port ∈ s.arc.deadPorts ∧ (7, port) ∈ s.pwr.culDeSac ∧ s.fence.getLsbD line = true ∧
    ∀ g ∈ s.arc.segments, g.port = port → g.lost = true

theorem PortGone.of_same (h : PortGone port line s) (hd : t.arc.deadPorts = s.arc.deadPorts)
    (hs : t.arc.segments = s.arc.segments) (hp : t.pwr = s.pwr) (hf : t.fence = s.fence) : PortGone port line t := by
  unfold PortGone
  rw [hd, hs, hp, hf]
  exact h

theorem PortGone.onArc {f : Arcade → Arcade} (h : PortGone port line s) (hd : (f s.arc).deadPorts = s.arc.deadPorts)
    (hs : ∀ g ∈ (f s.arc).segments, g.port = port → g.lost = true ∨ g ∈ s.arc.segments) :
    PortGone port line (onArc f s) := by
  obtain ⟨hdead, hcds, hfence, hlost⟩ := h
  refine ⟨?_, hcds, hfence, fun g hg hp => (hs g hg hp).elim id fun hm => hlost g hm hp⟩
  show port ∈ (f s.arc).deadPorts
  rw [hd]
  exact hdead

theorem PortGone.onSegment {f : Segment → Segment} (hf : ∀ g, (f g).port = g.port ∧ (g.lost = true → (f g).lost = true))
    (h : PortGone port line s) : PortGone port line (onSegment n f s) := by
  refine h.onArc rfl fun g hg hp => ?_
  obtain ⟨y, hy, hyg⟩ := List.mem_map.mp hg
  split at hyg
  · subst hyg
    exact .inl ((hf y).2 (h.2.2.2 y hy ((hf y).1 ▸ hp)))
  · exact .inr (hyg ▸ hy)

theorem PortGone.forEach {α : Type} {l : List α} {f : α → State → State}
    (hf : ∀ a s, PortGone port line s → PortGone port line (f a s)) (h : PortGone port line s) :
    PortGone port line (forEach l f s) := by
  unfold Machine.forEach
  induction l generalizing s with
  | nil => exact h
  | cons a l ih => exact ih (hf a s h)

theorem PortGone.issued (h : PortGone port line s) : PortGone port line (issueWaiting n s) := by
  rw [onlyIssues_issueWaiting]
  exact h

theorem PortGone.memQueue {l : List MemOp} (h : PortGone port line s) : PortGone port line (memQueue l s) :=
  (h.onArc rfl fun _ hg _ => .inr hg).issued

theorem PortGone.onQuery {f : QueryState → QueryState} (h : PortGone port line s) : PortGone port line (onQuery chain f s) :=
  h.onArc rfl fun _ hg _ => .inr hg

theorem PortGone.memStart (h : PortGone port line s) : PortGone port line (memStart o s) := h.of_same rfl rfl rfl rfl

theorem PortGone.driveScan (h : PortGone port line s) : PortGone port line (driveScan chain engine n s) := by
  induction n generalizing s with
  | zero => exact h
  | succ n ih =>
    unfold Machine.driveScan
    split
    · exact h
    · split
      · exact h
      · dsimp only
        split
        · exact ih h.onQuery.onQuery
        · split
          · exact ih h.onQuery.onQuery
          · exact ih h.onQuery.onQuery
      · dsimp only
        split
        · exact h
        · split
          · exact ih h.onQuery.memStart
          · exact h

theorem PortGone.markSkipped {b : Bool} (h : PortGone port line s) : PortGone port line (markSkipped g b s) :=
  .forEach (fun _ _ h => .forEach (fun _ _ h => h.driveScan) h) (.forEach (fun _ _ h => h.onQuery) h)

theorem PortGone.sealLog (h : PortGone port line s) : PortGone port line (sealLog n s) := by
  unfold Machine.sealLog
  split
  · exact h
  · exact PortGone.memQueue (PortGone.onSegment (fun _ => ⟨rfl, id⟩) h)

theorem PortGone.reclaim (h : PortGone port line s) : PortGone port line (reclaim s).2 := by
  unfold Machine.reclaim
  split
  · exact h
  · exact h.markSkipped.onArc rfl fun _ hg _ => .inr (List.mem_filter.mp hg).1

theorem PortGone.placeSegment (h : PortGone port line s) : PortGone port line (placeSegment s).2 := by
  unfold Machine.placeSegment
  split
  · exact h
  · exact h.reclaim

/-- A new segment does not go to the port that has failed. -/
theorem PortGone.place_ne (h : PortGone port line s) {p : Nat × Nat} (hp : (Machine.placeSegment s).1 = some p) :
    p.1 ≠ port := by
  obtain ⟨hdead, -, -, hlost⟩ := h
  unfold Machine.placeSegment at hp
  split at hp
  · rename_i k hk
    obtain ⟨slot, -, rfl⟩ := Option.map_eq_some_iff.mp hp
    have hlive := List.find?_some hk
    simp only [Bool.and_eq_true, Bool.not_eq_true'] at hlive
    rintro rfl
    exact absurd (List.contains_iff_mem.mpr hdead) (by rw [hlive.1]; decide)
  · unfold Machine.reclaim at hp
    split at hp
    · cases hp
    · rename_i g hg
      cases hp
      obtain ⟨hmem, hnot⟩ := List.mem_filter.mp (List.mem_of_find?_eq_some hg)
      intro hport
      rw [hlost g hmem hport] at hnot
      cases hnot

theorem PortGone.segmentFor {log bytes : Nat} (h : PortGone port line s) : PortGone port line (segmentFor log bytes s).2 := by
  have hite : ∀ {c : Prop} [Decidable c] {a b : Option Segment × State}, PortGone port line a.2 → PortGone port line b.2 →
      PortGone port line (if c then a else b).2 := by
    intro c _ a b ha hb
    split
    · exact ha
    · exact hb
  have hseal : PortGone port line (Machine.sealLog log s) := h.sealLog
  have hplace := hseal.placeSegment
  have hne := fun p => hseal.place_ne (p := p)
  unfold Machine.segmentFor
  refine hite h ?_
  revert hplace hne
  generalize Machine.placeSegment (Machine.sealLog log s) = x
  intro hplace hne
  rcases x with ⟨_ | p, t⟩
  · exact hplace
  · refine hplace.onArc rfl fun g hg hp => ?_
    rcases List.mem_append.mp hg with hg | hg
    · exact .inr hg
    · rw [List.mem_singleton.mp hg] at hp
      exact absurd hp (hne p rfl)

theorem PortGone.arcWrite {log : Nat} {e : ArcEntry} (h : PortGone port line s) : PortGone port line (arcWrite log e s) := by
  have hseg := h.segmentFor (log := log) (bytes := e.bytes)
  unfold Machine.arcWrite
  revert hseg
  generalize Machine.segmentFor log e.bytes s = x
  intro hseg
  rcases x with ⟨_ | g, t⟩
  · exact hseg.onArc rfl fun _ hg _ => .inr hg
  · refine PortGone.memQueue (PortGone.onArc (PortGone.onSegment (fun _ => ⟨rfl, id⟩) hseg) rfl fun _ hg _ => .inr hg)

theorem PortGone.touched {l : List Part} (h : PortGone port line s) (ht : Touches l s t)
    (hl : ∀ k ∈ [Part.arc, .pwr, .fence], k ∉ l) : PortGone port line t :=
  h.of_same (congrArg Arcade.deadPorts (ht.arc (hl _ (by simp)))) (congrArg Arcade.segments (ht.arc (hl _ (by simp))))
    (ht.pwr (hl _ (by simp))) (ht.fence (hl _ (by simp)))

theorem touches_portShortage : Touches [.stw, .led, .upl, .out] s (portShortage s) := by
  unfold portShortage
  split
  · exact touches_emit.mono (by decide)
  · exact (touches_raise.mono (by decide)).andThen touches_emit (by decide)
  · exact Touches.refl

/-- Segments of a port lie lost once each of those that were not has been marked. -/
theorem lost_forEach {l : List Segment} {f : Segment → Segment} (hf : ∀ g, (f g).port = g.port ∧ (f g).seq = g.seq ∧ (f g).lost = true)
    (h : ∀ g ∈ s.arc.segments, g.port = port → g.lost = true ∨ ∃ y ∈ l, y.seq = g.seq) :
    ∀ g ∈ (forEach l (fun y => onSegment y.seq f) s).arc.segments, g.port = port → g.lost = true := by
  induction l generalizing s with
  | nil => exact fun g hg hp => (h g hg hp).resolve_right fun ⟨_, hy, _⟩ => (List.not_mem_nil hy).elim
  | cons a l ih =>
    refine ih (s := onSegment a.seq f s) fun g hg hp => ?_
    obtain ⟨y, hy, hyg⟩ := List.mem_map.mp hg
    split at hyg
    · subst hyg
      exact .inl (hf y).2.2
    · rename_i hne
      subst hyg
      rcases h y hy hp with hlost | ⟨z, hz, hzs⟩
      · exact .inl hlost
      · rcases List.mem_cons.mp hz with rfl | hz
        · exact absurd hzs.symm hne
        · exact .inr ⟨z, hz, hzs⟩

theorem sealLog_sealed {log : Nat} (h : openSegment log s = some g) :
    ∀ y ∈ (sealLog log s).arc.segments, y.seq = g.seq → y.sealed = true := by
  intro y hy hseq
  unfold sealLog at hy
  rw [h] at hy
  unfold memQueue at hy
  dsimp only at hy
  rw [onlyIssues_issueWaiting] at hy
  obtain ⟨z, -, hzy⟩ := List.mem_map.mp hy
  split at hzy
  · rw [← hzy]
  · rename_i hne
    rw [← hzy] at hseq
    exact absurd hseq hne

theorem getLsbD_putBit_self {w i : Nat} (v : BitVec w) (hi : i < w) : (putBit v i true).getLsbD i = true := by
  unfold putBit
  simp [hi]

theorem touches_joinCds_port {a b c : Nat} :
    Touches [.pwr, .nv, .arc, .hrw, .out, .stw, .led, .upl] s (joinCds 7 port a b c s) := by
  unfold joinCds
  refine touches_ite Touches.refl ?_
  dsimp only [shrinkFor]
  refine Touches.andThen ?_ touches_raise (by decide)
  refine Touches.andThen ?_ touches_raiseInt (by decide)
  refine Touches.andThen ?_ touches_onArc (by decide)
  refine Touches.andThen ?_ touches_nvPush (by decide)
  exact (touches_put .pwr rfl).mono (by decide)

/-- A port joins the Cul-de-sac, and is dead there. -/
theorem joinCds_port {a b c : Nat} (hp : s.fuse.plaza = true) (hnot : (7, port) ∉ s.pwr.culDeSac) :
    (joinCds 7 port a b c s).pwr.culDeSac = s.pwr.culDeSac ++ [(7, port)] ∧
      (joinCds 7 port a b c s).arc = { s.arc with deadPorts := addOnce port s.arc.deadPorts } := by
  have hin : (decide ((7, port) ∈ s.pwr.culDeSac) || !hasResource 7 s) = false := by simp [hnot, hasResource, hp]
  unfold joinCds
  rw [hin, if_neg Bool.false_ne_true]
  have hr : ∀ x : State, Touches [.stw, .led, .upl, .hrw, .out] x
      (raise 0x0A06 (engineKey s.die (cdsDomain 7 port)) 0 (raiseInt 5 x)) :=
    fun x => Touches.andThen (touches_raiseInt.mono (by decide)) touches_raise (by decide)
  exact ⟨congrArg (·.culDeSac) ((hr _).pwr (by decide)), (hr _).arc (by decide)⟩

theorem mem_addOnce_self {k : Nat} {l : List Nat} : k ∈ addOnce k l := by
  unfold addOnce
  split
  · assumption
  · exact List.mem_append_right _ (List.mem_singleton.mpr rfl)

/-- A live port of a chip that fails (R256, R257). -/
theorem portGone_failPort (hp : s.fuse.plaza = true) (hlt : port < 8) (hlive : port ∉ s.arc.deadPorts)
    (hcds : (7, port) ∉ s.pwr.culDeSac) : PortGone port (Config.memFenceLine port % 256) (failPort port s) := by
  have hgo : ¬ (8 ≤ port ∨ s.arc.deadPorts.contains port = true ∨ s.fuse.plaza = false) := by
    simp [hlt, hlive, hp]
  unfold failPort
  rw [if_neg hgo]
  dsimp only
  have hjoin := joinCds_port (s := assertFence (Config.memFenceLine port % 256) 4 0x0801 0 0 s) (port := port)
    (a := 4) (b := 0) (c := 0) hp hcds
  have hfence : (joinCds 7 port 4 0 0 (assertFence (Config.memFenceLine port % 256) 4 0x0801 0 0 s)).fence.getLsbD
      (Config.memFenceLine port % 256) = true := by
    rw [touches_joinCds_port.fence (by decide)]
    exact getLsbD_putBit_self _ (Nat.mod_lt _ (by decide))
  revert hjoin hfence
  generalize joinCds 7 port 4 0 0 (assertFence (Config.memFenceLine port % 256) 4 0x0801 0 0 s) = j
  intro hjoin hfence
  obtain ⟨hpwr, harc⟩ := hjoin
  refine PortGone.touched ?_ touches_portShortage (by decide)
  refine PortGone.touched ?_ touches_raise (by decide)
  refine PortGone.issued ?_
  refine PortGone.forEach (fun _ _ h => h.arcWrite) ?_
  refine PortGone.forEach (fun _ _ h => h.markSkipped) ?_
  have hmarked : ∀ l : List Segment, Touches [.arc] j (forEach l (fun g => onSegment g.seq fun g =>
      { g with lost := true, sealed := true, entries := [] }) j) := fun _ => touches_forEach fun _ _ => touches_onArc
  have hdead : ∀ l : List Segment, (forEach l (fun g => onSegment g.seq fun g =>
      { g with lost := true, sealed := true, entries := [] }) j).arc.deadPorts = j.arc.deadPorts := by
    intro l
    exact forEach_keeps (fun s => s.arc.deadPorts) fun _ _ => rfl
  refine PortGone.onArc (s := forEach _ _ j) ⟨?_, ?_, ?_, lost_forEach (fun _ => ⟨rfl, rfl, rfl⟩) fun g hg hport => ?_⟩ rfl
    fun _ hg _ => .inr hg
  · rw [hdead, harc]
    exact mem_addOnce_self
  · rw [(hmarked _).pwr (by decide), hpwr]
    exact List.mem_append_right _ (List.mem_singleton.mpr rfl)
  · rw [(hmarked _).fence (by decide)]
    exact hfence
  · cases hl : g.lost with
    | true => exact .inl rfl
    | false => exact .inr ⟨g, List.mem_filter.mpr ⟨hg, by simp [hport, hl]⟩, rfl⟩

end ArcadeEvents

/-- Settles O12: an operation that ends frees its place, one that fails is asked for again, and a port whose link falls is
gone. -/
theorem arcadeEventsComplete : Obligations.ArcadeEventsComplete := by
  refine ⟨fun port tag o s hp ho huse => ?done, fun port tag o id s hp ho huse hleft => ?released,
    fun port tag o chain engine q c x next lines got g s hp ho huse hq hc hcur hg => ?read,
    fun port tag o s hp ho herr hlive => ?error, fun port tag o s hp ho herr hlive => ?silence,
    fun port s hp hplaza hlt hlive hcds => ?link, fun log g s hp hv hopen hne => ?sealed, fun id h s hp hh => ?hold⟩
  case done =>
    refine ⟨_, (run_powered hp : execMemResponse port tag false s = _), ?_⟩
    simp only [ho, Bool.false_eq_true, if_false]
    obtain ⟨rfl, rfl⟩ := found_op ho
    exact opDone_length huse
  case released =>
    refine ⟨_, (run_powered hp : execMemResponse port tag false s = _), ?_⟩
    simp only [ho, Bool.false_eq_true, if_false]
    exact opDone_staged huse hleft
  case read =>
    obtain ⟨p, hp', hreads, hseen⟩ := opDone_scan huse hq hc hcur hg
    have hnext : exec (.memResponse port tag false) s = .next (opDone o s) := by
      refine (run_powered hp : execMemResponse port tag false s = _).trans ?_
      simp only [ho, Bool.false_eq_true, if_false]
    exact ⟨_, p, hnext, hp', hreads, hseen⟩
  case error =>
    obtain ⟨rfl, rfl⟩ := found_op ho
    obtain ⟨herrs, htime, x, hx, hrest⟩ := opFailed_again herr hlive
    refine ⟨_, x, (run_powered hp : execMemResponse o.port o.tag true s = _), ?_⟩
    simp only [ho, if_true]
    exact ⟨by rw [herrs, htime], hx, hrest⟩
  case silence =>
    obtain ⟨rfl, rfl⟩ := found_op ho
    have harc : (untilTimer (o.issued + 100000000) s).arc = s.arc := touches_untilTimer.arc (by decide)
    have hft : s.time.ft ≤ (untilTimer (o.issued + 100000000) s).time.ft :=
      (later_untilTimer (Later.refl (ok := fun _ => False) s)).ft
    obtain ⟨herrs, htime, x, hx, hrest⟩ := opFailed_again (s := untilTimer (o.issued + 100000000) s) (o := o)
      (Nat.lt_of_le_of_lt (recentErrors_mono harc hft) herr) (by rw [harc]; exact hlive)
    refine ⟨_, x, (run_powered hp : execMemOpTimeout o.port o.tag s = _), ?_⟩
    simp only [ho]
    exact ⟨by rw [herrs, htime, harc], hx, hrest⟩
  case link =>
    refine ⟨_, (run_powered hp : execMemLinkLoss port s = _), ?_⟩
    have hgone := portGone_failPort hplaza hlt hlive hcds
    have hhole : ∀ {t : State}, PortGone port (Config.memFenceLine port % 256) t →
        PortGone port (Config.memFenceLine port % 256) (holeQueries t) := by
      intro t ht
      unfold holeQueries when
      split
      · exact ht.onArc rfl fun _ hg _ => .inr hg
      · exact ht
    exact hhole hgone
  case sealed =>
    have hempty : (g.entries.isEmpty || !timeValid s) = false := by simp [hv, hne]
    refine ⟨_, (run_powered hp : execSegmentSealTimeout log s = _), fun x hx hseq => ?_⟩
    simp only [hopen, hempty, Bool.false_eq_true, if_false] at hx
    refine sealLog_sealed ?_ x hx hseq
    unfold openSegment
    rw [touches_untilFt.arc (by decide)]
    exact hopen
  case hold =>
    refine ⟨_, (run_powered hp : execArcadeHoldExpiry id s = _), ?_⟩
    simp only [hh]
    show (List.filter _ (untilTimer h.ends s).arc.holds) = _
    rw [touches_untilTimer.arc (by decide)]

end Sys2Proof.Machine
end

section
/-!
What stays said: operations that keep every output, every response that waits and every message that is queued.
-/

namespace Sys2Proof.Machine

variable {s t u : State} {l : List Part} {n : Nat} {d : Desc}

/-- A change outside the parts that hold what has been said. -/
theorem Touches.kept (h : Touches l s t) (hl : ∀ k ∈ [Part.out, .buf, .stw, .upl], k ∉ l) : Kept s t := by
  unfold Kept
  rw [h.out (hl _ (by simp)), h.buf (hl _ (by simp)), h.stw (hl _ (by simp)), h.upl (hl _ (by simp))]
  exact Kept.refl s

theorem kept_ite {c : Prop} [Decidable c] (ht : Kept s t) (hu : Kept s u) : Kept s (if c then t else u) := by
  split
  · exact ht
  · exact hu

theorem kept_notify {x : NoticeSubject} {p cmd : Nat} {pl : List Fld} : Kept s (notify x p cmd pl s) := by
  unfold notify
  exact kept_ite (Kept.refl s) (Kept.refl s)

theorem kept_bypQueue {a : AlertEntry} : Kept s (bypQueue a s) := by
  unfold bypQueue
  exact kept_ite (Kept.refl s) (Kept.refl s)

theorem kept_raiseAt {code subject detail ft : Nat} : Kept s (raiseAt code subject detail ft s) := by
  unfold raiseAt
  exact kept_ite (Kept.refl s) (Kept.from (kept_bypQueue.trans kept_notify) rfl rfl rfl rfl)

theorem kept_raise {code subject detail : Nat} : Kept s (raise code subject detail s) := kept_raiseAt

theorem kept_raiseIbi {b : List Nat} : Kept s (raiseIbi b s) := kept_when kept_emit

theorem kept_sbiAlert {r : Report} : Kept s (sbiAlert r s) := by
  unfold sbiAlert
  exact kept_ite (Kept.from kept_raiseIbi rfl rfl rfl rfl) (Kept.refl s)

theorem kept_raiseSbi {code subject detail ft : Nat} : Kept s (raiseSbi code subject detail ft s) :=
  kept_raiseAt.trans kept_sbiAlert

theorem kept_finish {w : Deferred} {st : Nat} {p : List Fld} : Kept s (finish w st p s) := by
  unfold finish
  exact kept_ite (Kept.refl s) kept_answer

theorem kept_completeWhere {f : Work → Bool} {st : Nat} {p : List Fld} : Kept s (completeWhere f st p s) :=
  Kept.from (kept_forEach fun _ _ => kept_finish) rfl rfl rfl rfl

theorem kept_complete {w : Work} {st : Nat} {p : List Fld} : Kept s (complete w st p s) := kept_completeWhere

/-! ## Chains (R373) -/

theorem kept_chainDrop : Kept s (chainDrop n s) := Kept.refl s

theorem kept_descDone {fill st : Nat} {e : Bool} : Kept s (descDone n d fill st e s) :=
  kept_emit.trans (kept_when kept_notify)

/-- A completed descriptor is written out. -/
theorem mem_out_descDone {fill st : Nat} {e : Bool} :
    Out.buf d.partition n (.completion d.descId fill st (1 + 2 * bnat e) (ftStamp s)) ∈ (descDone n d fill st e s).out :=
  (kept_when kept_notify).1 _ (List.mem_append_right _ (List.mem_singleton.mpr rfl))

theorem kept_chainClose : Kept s (chainClose n s) := by
  unfold chainClose
  dsimp only
  split
  · exact Kept.refl s
  · exact kept_onChain.trans kept_bufIssue

theorem kept_chainWrite {bytes : Nat} {x : BufData} : Kept s (chainWrite n bytes x s) := by
  unfold chainWrite
  dsimp only
  split
  · exact kept_ite (kept_onChain.trans kept_bufIssue) (kept_chainClose.trans kept_onChain)
  · exact kept_ite kept_onChain kept_onChain

theorem kept_chainWithdraw : Kept s (chainWithdraw n s) := by
  unfold chainWithdraw
  dsimp only
  split
  · exact kept_descDone.trans kept_chainDrop
  · exact kept_ite (kept_descDone.trans kept_chainDrop) kept_onChain
  · exact kept_chainDrop

theorem kept_dropForeign {p : Nat} : Kept s (dropForeign p s) := Kept.from kept_raise rfl rfl rfl rfl

theorem kept_chainPut {h : Nat × BufData} : Kept s (chainPut n h s) := by
  unfold chainPut
  exact kept_ite kept_dropForeign kept_chainWrite

theorem kept_chainResume : Kept s (chainResume n d s) := by
  unfold chainResume
  exact (kept_onChain.trans (kept_forEach fun _ _ => kept_chainPut)).trans (kept_when kept_chainWithdraw)

theorem kept_countBlocks {l : List (Nat × BufData)} : Kept s (countBlocks l s) := by
  unfold countBlocks
  refine kept_forEach fun h s => ?_
  split
  · exact Kept.refl s
  · exact Kept.refl s

theorem kept_countDropped {c : Chain} {k : Nat} : Kept s (countDropped c k s) := by
  unfold countDropped
  exact kept_ite (Kept.refl s) (Kept.refl s)

theorem kept_chainExhaust : Kept s (chainExhaust n s) := by
  unfold chainExhaust
  exact kept_ite kept_chainDrop ((kept_onChain.trans kept_countBlocks).trans kept_countDropped)

theorem kept_queryWritten {rest status : Nat} : Kept s (queryWritten n rest status s) := by
  unfold queryWritten
  split
  · exact Kept.refl s
  · split
    · exact Kept.refl s
    · exact (kept_emit.trans kept_onArc).trans kept_complete

end Sys2Proof.Machine
end

section
/-!
The buffer master's answers, its time-outs and the append to a chain.
-/

namespace Sys2Proof.Machine

section BufferEvents

variable {s t u : State} {n rest fill : Nat} {d : Desc} {next : Option Desc} {op : BufOp} {c : Chain}

/-! ## Completions -/

theorem bufRetire_ftStamp {id : Nat} : ftStamp (bufRetire id s) = ftStamp s := by
  unfold bufRetire
  dsimp only
  split <;> rfl

theorem bufRetire_chains {id : Nat} : (bufRetire id s).buf.chains = s.buf.chains := by
  unfold bufRetire
  dsimp only
  split <;> rfl

theorem bufRetire_faults {id : Nat} : (bufRetire id s).buf.faults = s.buf.faults := by
  unfold bufRetire
  dsimp only
  split <;> rfl

/-- The completion of a chain's closed buffer stands in the output. -/
def Completed (d : Desc) (n : Nat) (s t : State) : Prop :=
  ∃ flags, Out.buf d.partition n
    (.completion d.descId (tget Chain.empty n s.buf.chains).fill Config.ok flags (ftStamp s)) ∈ t.out

theorem completed_of {e : Bool} (h : Kept (descDone n d (tget Chain.empty n s.buf.chains).fill Config.ok e s) t) :
    Completed d n s t := ⟨_, h.1 _ mem_out_descDone⟩

/-- The answer to a close completes the buffer (R373). -/
theorem closeAnswered_completed (hd : (tget Chain.empty n s.buf.chains).closing = some d) :
    Completed d n s (closeAnswered n false next s) := by
  unfold closeAnswered
  dsimp only
  rw [hd]
  simp only [Bool.false_eq_true, if_false]
  split
  · exact completed_of kept_chainExhaust
  · refine completed_of (e := false) (kept_ite ?_ ?_)
    · exact kept_onChain.trans kept_chainResume
    · exact Kept.from kept_chainExhaust rfl rfl rfl rfl

/-- The answer to the close of an output's buffer completes it (R391). -/
theorem outputAnswered_completed (hd : (tget Chain.empty n s.buf.chains).closing = some d) :
    Completed d n s (outputAnswered n rest fill false next s) := by
  have hend : ∀ {st : Nat} {p : List Fld} {x : State},
      Kept x (chainDrop n (complete (.output n) st p (queryWritten n rest st x))) :=
    (kept_queryWritten.trans kept_complete).trans kept_chainDrop
  unfold outputAnswered
  dsimp only
  rw [hd]
  simp only [Bool.false_eq_true, if_false]
  split
  · exact completed_of hend
  · exact completed_of (e := false) (kept_ite hend (kept_ite hend (kept_onChain.trans kept_bufIssue)))

/-! ## Faults -/

theorem complete_faults {w : Work} {st : Nat} {p : List Fld} : (complete w st p s).buf.faults = s.buf.faults := by
  rw [(agree_complete (Agree.rfl' s)).eq]
  rfl

theorem descDone_buf {st : Nat} {e : Bool} : (descDone n d fill st e s).buf = s.buf := touches_descDone.buf (by decide)

theorem countBlocks_buf {l : List (Nat × BufData)} : (countBlocks l s).buf = s.buf := by
  unfold countBlocks
  refine forEach_keeps State.buf fun h s => ?_
  split <;> rfl

theorem countDropped_buf {k : Nat} : (countDropped c k s).buf = s.buf := by
  unfold countDropped
  split <;> rfl

theorem chainExhaust_faults : (chainExhaust n s).buf.faults = s.buf.faults := by
  unfold chainExhaust
  dsimp only
  split
  · rfl
  · rw [countDropped_buf, countBlocks_buf]
    rfl

theorem queryWritten_faults {st : Nat} : (queryWritten n rest st s).buf.faults = s.buf.faults := by
  unfold queryWritten
  split
  · rfl
  · split
    · rfl
    · rw [complete_faults]
      rfl

theorem closeAnswered_faults : (closeAnswered n true none s).buf.faults = s.buf.faults := by
  unfold closeAnswered
  dsimp only
  split
  · rfl
  · rw [if_pos rfl, chainExhaust_faults, descDone_buf]

theorem outputAnswered_faults : (outputAnswered n rest fill true none s).buf.faults = s.buf.faults := by
  unfold outputAnswered
  dsimp only
  split
  · rfl
  · rw [if_pos rfl]
    show (complete _ _ _ (queryWritten _ _ _ _)).buf.faults = _
    rw [complete_faults, queryWritten_faults, descDone_buf]

/-- An operation that fails is one fault (R406). -/
theorem bufFailed_faults : (bufFailed op s).buf.faults = s.buf.faults + 1 := by
  unfold bufFailed
  dsimp only
  split
  · exact closeAnswered_faults
  · exact outputAnswered_faults
  · rw [countDropped_buf]
    rfl
  · rfl

/-- A write that fails counts an overrun of its chain. -/
theorem bufFailed_overruns {lost : Nat} (huse : op.use = .write n lost) :
    (tget Chain.empty n (bufFailed op s).buf.chains).overruns = (tget Chain.empty n s.buf.chains).overruns + 1 := by
  unfold bufFailed
  rw [huse]
  dsimp only
  rw [countDropped_buf]
  refine congrArg Chain.overruns (tget_tput_ne fun h => ?_)
  exact absurd (congrArg Chain.overruns h) (Nat.succ_ne_zero _)

/-! ## The append (R325, R373) -/

/-- A chain with a buffer open, or its next one being read, takes the descriptor at its tail. -/
theorem chainAppend_queued (h : (tget Chain.empty n s.buf.chains).cur.isSome = true
    ∨ (tget Chain.empty n s.buf.chains).closing.isSome = true) :
    chainAppend n d s = onChain n (fun y => { y with queue := y.queue ++ [d] }) s := by
  unfold chainAppend
  refine if_neg ?_
  rcases h with h | h <;> simp [Option.isNone_iff_eq_none, Option.isSome_iff_ne_none.mp h]

/-- An exhausted chain that holds nothing goes on in the descriptor. -/
theorem chainAppend_resumed (hcur : (tget Chain.empty n s.buf.chains).cur = none)
    (hclosing : (tget Chain.empty n s.buf.chains).closing = none) (hheld : (tget Chain.empty n s.buf.chains).held = [])
    (hkind : (tget Chain.empty n s.buf.chains).ckind ≤ 3) :
    (tget Chain.empty n (chainAppend n d s).buf.chains).cur = some d ∧
      (tget Chain.empty n (chainAppend n d s).buf.chains).fill = 0 := by
  have hbuf : (when ((tget Chain.empty n s.buf.chains).ckind == 0)
      (restartChain (tget Chain.empty n s.buf.chains).index) s).buf = s.buf := by
    unfold when
    split <;> rfl
  have hne : ((tget Chain.empty n s.buf.chains).ckind == 5) = false := by
    rw [beq_eq_false_iff_ne]
    omega
  have hnew : tget Chain.empty n (chainAppend n d s).buf.chains
      = { tget Chain.empty n s.buf.chains with cur := some d, closing := none, fill := 0, held := [] } := by
    unfold chainAppend
    dsimp only
    rw [hcur, hclosing]
    simp only [Option.isNone_none, Bool.and_self, if_true]
    unfold chainResume
    dsimp only
    rw [hbuf, hheld, hne]
    show tget Chain.empty n (tput Chain.empty n _ (when _ _ s).buf.chains) = _
    rw [hbuf]
    refine tget_tput_ne fun h => ?_
    exact absurd (congrArg Chain.cur h) (by simp [Chain.empty])
  rw [hnew]
  exact ⟨rfl, rfl⟩

end BufferEvents

/-- Settles O14: what an answer or a silence does is its operation's own part; an append goes to the chain's tail, or opens
the chain again. -/
theorem bufferEventsComplete : Obligations.BufferEventsComplete := by
  refine ⟨fun id next op k s hp ho huse => ?ring, fun id next op n lost s hp ho huse => ?written,
    fun id next op n lost s hp ho huse => ?fault, fun id next op n d s hp ho huse hd => ?closed,
    fun id next op n rest fill d s hp ho huse hd => ?output, fun id op s hp ho => ?timeout,
    fun r k chain n x desc s h hk hfind hx hmay hd hopen => ?append,
    fun r k chain n x desc s h hk hfind hx hmay hd hcur hclosing hheld => ?resume⟩
  case ring =>
    refine (run_powered hp : execBufResponse id false next s = _).trans ?_
    simp only [ho, Bool.false_eq_true, if_false, bufDone, huse]
  case written =>
    refine (run_powered hp : execBufResponse id false next s = _).trans ?_
    simp only [ho, Bool.false_eq_true, if_false, bufDone, huse]
  case fault =>
    refine ⟨_, (run_powered hp : execBufResponse id true next s = _), ?_⟩
    simp only [ho, if_true]
    rw [bufFailed_faults, bufFailed_overruns huse, bufRetire_faults, bufRetire_chains]
    exact ⟨rfl, rfl⟩
  case closed =>
    have hdone := closeAnswered_completed (s := bufRetire id s) (next := next) (by rw [bufRetire_chains]; exact hd)
    obtain ⟨flags, hmem⟩ := hdone
    rw [bufRetire_chains, bufRetire_ftStamp] at hmem
    refine ⟨_, flags, (run_powered hp : execBufResponse id false next s = _), ?_⟩
    simp only [ho, Bool.false_eq_true, if_false, bufDone, huse]
    exact hmem
  case output =>
    have hdone := outputAnswered_completed (s := bufRetire id s) (next := next) (rest := rest) (fill := fill)
      (by rw [bufRetire_chains]; exact hd)
    obtain ⟨flags, hmem⟩ := hdone
    rw [bufRetire_chains, bufRetire_ftStamp] at hmem
    refine ⟨_, flags, (run_powered hp : execBufResponse id false next s = _), ?_⟩
    simp only [ho, Bool.false_eq_true, if_false, bufDone, huse]
    exact hmem
  case timeout =>
    refine ⟨_, (run_powered hp : execBufTimeout id s = _), ?_⟩
    simp only [ho]
    rw [bufFailed_faults, bufRetire_faults, touches_untilTimer.buf (by decide)]
  case append =>
    subst hx
    refine completes_of h (by simp [hk]) fun u => ?_
    have hfind' : chainFind k (if k = 0 then chain else if k = 1 then issuerPart r.issuer else 0) (plumb s u)
      = some (n, tget Chain.empty n s.buf.chains) := hfind
    have hd' : descOk (issuerPart r.issuer) desc (plumb s u) = true := hd
    simp only [hfind', hmay, hd', Bool.not_true, Bool.false_eq_true, if_false]
    rw [chainAppend_queued (s := plumb s u) hopen]
    exact ⟨rfl, rfl⟩
  case resume =>
    subst hx
    have hkind : (tget Chain.empty n s.buf.chains).ckind ≤ 3 := by
      have := List.find?_some hfind
      simp only [Bool.and_eq_true, beq_iff_eq] at this
      omega
    refine completesWith_of h (by simp [hk]) (fun u => ?_) fun _ _ ht => ht
    have hfind' : chainFind k (if k = 0 then chain else if k = 1 then issuerPart r.issuer else 0) (plumb s u)
      = some (n, tget Chain.empty n s.buf.chains) := hfind
    have hd' : descOk (issuerPart r.issuer) desc (plumb s u) = true := hd
    simp only [hfind', hmay, hd', Bool.not_true, Bool.false_eq_true, if_false]
    exact ⟨rfl, chainAppend_resumed (s := plumb s u) hcur hclosing hheld hkind⟩

end Sys2Proof.Machine
end

section
/-!
The commands of field test, of the fences and of the Cul-de-sac (group 0x0A).
-/

namespace Sys2Proof.Machine

section TestFenceCommands

variable {s t u : State} {pkg : TestPkg} {rkind index : Nat}

theorem touches_regrow {n : RegionName} : Touches [.stw] s (regrow n s) := touches_put .stw rfl

theorem touches_unshrink : Touches [.place, .stw] s (unshrink s) := by
  unfold unshrink
  exact touches_ite ((touches_put .place rfl).mono (by decide))
    (((touches_regrow.mono (by decide)).trans touches_regrow').trans touches_regrow')
where
  touches_regrow' {n : RegionName} {s : State} : Touches [.place, .stw] s (regrow n s) := touches_regrow.mono (by decide)

theorem touches_restoreResource : Touches [.place, .stw, .smp] s (restoreResource rkind index s) := by
  unfold restoreResource
  split
  · exact touches_when (touches_unshrink.mono (by decide))
  · exact (touches_put .smp rfl).mono (by decide)
  · exact Touches.refl

/-- A resource that is taken back leaves the list, and its release is recorded (R301). -/
theorem cdsRelease_leaves {s' : State} (h : Touches [.place, .stw, .smp] s' t) (r : NvRec) :
    (raiseInt 5 (nvPush r t)).pwr = s'.pwr ∧ (raiseInt 5 (nvPush r t)).nv.queue = s'.nv.queue ++ [r] := by
  refine ⟨(touches_raiseInt.pwr (by decide)).trans (h.pwr (by decide)), ?_⟩
  rw [touches_raiseInt.nv (by decide)]
  show t.nv.queue ++ [r] = _
  rw [h.nv (by decide)]

end TestFenceCommands

/-- Settles O17: each command's own checks pass, and its own part is what the clause says. -/
theorem testFenceCommandsComplete : Obligations.TestFenceCommandsComplete := by
  refine ⟨fun r desc patDesc pkg s h hd hpat hpart hok hroom hlen => ?load, fun r id s h hid => ?unload,
    fun r a b start ms s h hab hb hlo hhi hcal hlead => ?grant, fun r s h => ?statusAll, fun r id q s h hid hq => ?status,
    fun r line s h hline => ?fence, fun r line s h hline hset => ?release, fun r line s h hline hclear => ?idle,
    fun r offset s h => ?inlined, fun r offset desc s h hd => ?chained, fun r k i s h hin => ?cds⟩
  case load =>
    refine finishesWith_of (w := .pkgLoad pkg.pkgId) h rfl (fun u => ?_) fun _ _ ht => ht
    have hd' : descOk (issuerPart r.issuer) desc (plumb s u) = true := hd
    have hpat' : descOk (issuerPart r.issuer) patDesc (plumb s u) = true := hpat
    have hok' : pkgReject pkg (plumb s u) = none := hok
    have hroom' : pkgRoom pkg (plumb s u) = true := hroom
    simp only [hd', hpat', hpart, hok', hroom', Nat.not_lt.mpr hlen, bne_self_eq_false, Bool.not_true, Bool.or_self,
      decide_false, Bool.false_eq_true, if_false]
    exact ⟨trivial, rfl, rfl, rfl⟩
  case unload =>
    refine completes_of h rfl fun u => ?_
    have hany : ((plumb s u).test.pkgs.all fun q => q.pkgId != id) = false := by
      obtain ⟨q, hq, hqid⟩ := hid
      rw [List.all_eq_false]
      exact ⟨q, hq, by simp [hqid]⟩
    simp only [hany, Bool.false_eq_true, if_false]
    exact ⟨rfl, rfl⟩
  case grant =>
    refine completes_of h (by simp [hab, hb, hlo, hhi]) fun u => ?_
    have hcal' : (plumb s u).conf.active = none := hcal
    have hlead' : ¬ start < (plumb s u).time.ft + 1000000 := Nat.not_lt.mpr hlead
    simp only [hcal', hlead', Option.isSome_none, Bool.false_eq_true, if_false]
    exact ⟨rfl, rfl⟩
  case statusAll => exact completes_of h rfl fun u => ⟨rfl, rfl⟩
  case status =>
    refine completes_of h rfl fun u => ?_
    have hq' : ((plumb s u).test.pkgs.find? fun q => q.pkgId == id) = some q := hq
    simp only [hid, if_false, hq']
    exact ⟨rfl, rfl⟩
  case fence => exact completesWith_of h (by simp [hline]) (fun u => ⟨rfl, rfl, rfl⟩) fun _ _ ht => ht
  case release =>
    refine completesWith_of h (by simp [hline]) (fun u => ?_) fun _ _ ht => ht
    have hrel : releaseFence line (plumb s u)
        = nvPush (historyRec 2 3 line 0 0 0 0 s) { plumb s u with fence := putBit s.fence line false } := if_pos hset
    rw [hrel]
    exact ⟨rfl, rfl, rfl⟩
  case idle =>
    refine completes_of h (by simp [hline]) fun u => ?_
    have hrel : releaseFence line (plumb s u) = plumb s u := if_neg (by rw [show (plumb s u).fence = s.fence from rfl, hclear]; decide)
    rw [hrel]
    exact ⟨rfl, rfl⟩
  case inlined => exact completes_of h rfl fun u => ⟨rfl, rfl⟩
  case chained => exact outputs_of h rfl rfl (fun u => rfl) hd
  case cds =>
    refine completesWith_of h rfl (fun u => ?_) fun _ _ ht => ht
    have hin' : (k, i) ∈ (plumb s u).pwr.culDeSac := hin
    simp only [hin', if_true]
    obtain ⟨hpwr, hnv⟩ := cdsRelease_leaves touches_restoreResource (historyRec 4 3 i 0 k 0 0 (plumb s u))
    exact ⟨rfl, congrArg (·.culDeSac) hpwr, hnv⟩

end Sys2Proof.Machine
end

section
/-!
Field test: the grant that starts when two wait.
-/

namespace Sys2Proof.Machine

set_option maxRecDepth 100000

/-- A grant of a start that has not begun. -/
def grantAt (start : Nat) : IdleGrant := { unitFirst := 0, unitLast := 0, start := start, len := 1000000, ends := none }

/-- A Leaf at work with two grants that wait, the later one recorded first. -/
def twoGrants : State :=
  { Tests.leaf with test := { Tests.leaf.test with grants := [grantAt 2000000000, grantAt 1000000000] } }

/-- The earlier one starts, and the later one waits on (R289). -/
theorem idleGrantStart_twoGrants :
    ∃ t, exec .idleGrantStart twoGrants = .next t ∧ ∀ g ∈ t.test.grants, g.start = 2000000000 → g.ends = none :=
  ⟨_, rfl, by decide⟩

/-- Refutes O18: the clause for `IDLE_GRANT_START` says that the first grant recorded starts, and the one of the earliest
start does (R289). -/
theorem not_testEventsComplete : ¬ Obligations.TestEventsComplete := by
  intro h
  obtain ⟨-, -, -, hstart, -⟩ := h
  obtain ⟨t, ht, hbegun⟩ := hstart (grantAt 2000000000) twoGrants rfl rfl rfl
  obtain ⟨u, hu, hwaits⟩ := idleGrantStart_twoGrants
  obtain rfl : u = t := by simpa [hu] using ht
  exact absurd (hwaits _ hbegun rfl) (by simp)

end Sys2Proof.Machine
end

section
/-!
Records that reach the Arcade, and messages that the Control class carries: what they leave alone.
-/

namespace Sys2Proof.Machine

variable {s t u : State} {n chain engine log : Nat} {g : Segment} {e : ArcEntry} {o : Out}

/-- A change of the Arcade and of the ports' record that loses nothing said. -/
def ArcOnly (s t : State) : Prop := Touches [.arc, .out] s t ∧ Kept s t

theorem ArcOnly.refl : ArcOnly s s := ⟨Touches.refl, Kept.refl s⟩

theorem ArcOnly.trans (h : ArcOnly s t) (h' : ArcOnly t u) : ArcOnly s u := ⟨h.1.trans h'.1, h.2.trans h'.2⟩

theorem arcOnly_onArc {f : Arcade → Arcade} : ArcOnly s (onArc f s) := ⟨touches_onArc.mono (by decide), kept_onArc⟩

theorem arcOnly_ite {c : Prop} [Decidable c] (ht : ArcOnly s t) (hu : ArcOnly s u) : ArcOnly s (if c then t else u) := by
  split
  · exact ht
  · exact hu

theorem arcOnly_forEach {α : Type} {xs : List α} {f : α → State → State} (hf : ∀ a s, ArcOnly s (f a s)) :
    ArcOnly s (forEach xs f s) := ⟨touches_forEach fun a s => (hf a s).1, kept_forEach fun a s => (hf a s).2⟩

theorem arcOnly_memStart {o : MemOp} : ArcOnly s (memStart o s) :=
  ⟨(touches_onArc.mono (by decide)).andThen touches_emit (by decide), kept_onArc.trans kept_emit⟩

theorem arcOnly_issueWaiting : ArcOnly s (issueWaiting n s) := by
  induction n generalizing s with
  | zero => exact ArcOnly.refl
  | succ n ih =>
    unfold issueWaiting
    split
    · exact ArcOnly.refl
    · exact (arcOnly_onArc.trans arcOnly_memStart).trans ih

theorem arcOnly_memQueue {l : List MemOp} : ArcOnly s (memQueue l s) := arcOnly_onArc.trans arcOnly_issueWaiting

theorem arcOnly_driveScan : ArcOnly s (driveScan chain engine n s) := by
  induction n generalizing s with
  | zero => exact ArcOnly.refl
  | succ n ih =>
    unfold driveScan
    split
    · exact ArcOnly.refl
    · split
      · exact ArcOnly.refl
      · dsimp only
        split
        · exact ArcOnly.trans (ArcOnly.trans arcOnly_onArc arcOnly_onArc) ih
        · exact arcOnly_ite (ArcOnly.trans (ArcOnly.trans arcOnly_onArc arcOnly_onArc) ih)
            (ArcOnly.trans (ArcOnly.trans arcOnly_onArc arcOnly_onArc) ih)
      · dsimp only
        split
        · exact ArcOnly.refl
        · exact arcOnly_ite (ArcOnly.trans (ArcOnly.trans arcOnly_onArc arcOnly_memStart) ih) ArcOnly.refl

theorem arcOnly_markSkipped {b : Bool} : ArcOnly s (markSkipped g b s) :=
  (arcOnly_forEach fun _ _ => arcOnly_onArc).trans
    (arcOnly_forEach fun _ _ => arcOnly_forEach fun _ _ => arcOnly_driveScan)

theorem arcOnly_sealLog : ArcOnly s (sealLog log s) := by
  unfold sealLog
  split
  · exact ArcOnly.refl
  · exact arcOnly_onArc.trans arcOnly_memQueue

theorem arcOnly_placeSegment : ArcOnly s (placeSegment s).2 := by
  unfold placeSegment
  split
  · exact ArcOnly.refl
  · unfold reclaim
    split
    · exact ArcOnly.refl
    · exact arcOnly_markSkipped.trans arcOnly_onArc

theorem arcOnly_segmentFor {bytes : Nat} : ArcOnly s (segmentFor log bytes s).2 := by
  have hite : ∀ {c : Prop} [Decidable c] {a b : Option Segment × State}, ArcOnly s a.2 → ArcOnly s b.2 →
      ArcOnly s (if c then a else b).2 := by
    intro c _ a b ha hb
    split
    · exact ha
    · exact hb
  unfold segmentFor
  refine hite ArcOnly.refl ?_
  have hplace : ArcOnly s (placeSegment (sealLog log s)).2 := arcOnly_sealLog.trans arcOnly_placeSegment
  revert hplace
  generalize placeSegment (sealLog log s) = x
  intro hplace
  rcases x with ⟨_ | p, t⟩
  · exact hplace
  · exact hplace.trans arcOnly_onArc

theorem arcOnly_arcWrite : ArcOnly s (arcWrite log e s) := by
  unfold arcWrite
  have hseg : ArcOnly s (segmentFor log e.bytes s).2 := arcOnly_segmentFor
  revert hseg
  generalize segmentFor log e.bytes s = x
  intro hseg
  rcases x with ⟨_ | g, t⟩
  · exact hseg.trans arcOnly_onArc
  · exact ArcOnly.trans (ArcOnly.trans (ArcOnly.trans hseg arcOnly_onArc) arcOnly_onArc) arcOnly_memQueue

/-- A record that reaches its log changes the Arcade, and raises what it raises. -/
theorem touches_arcIngest : Touches [.arc, .out, .stw, .led, .upl] s (arcIngest log e s) := by
  unfold arcIngest
  refine touches_ite Touches.refl (touches_ite ?_ (touches_ite (touches_onArc.mono (by decide)) ?_))
  · exact (touches_onArc.mono (by decide)).andThen touches_raise (by decide)
  · exact ((arcOnly_onArc.trans arcOnly_arcWrite).1.mono (by decide))

theorem kept_arcIngest : Kept s (arcIngest log e s) := by
  unfold arcIngest
  refine kept_ite (Kept.refl s) (kept_ite ?_ (kept_ite kept_onArc ?_))
  · exact kept_onArc.trans kept_raise
  · exact (arcOnly_onArc.trans arcOnly_arcWrite).2

/-! ## The Control class -/

theorem touches_sendControl {src dst tag bytes : Nat} : Touches [.upl] s (sendControl src dst tag bytes o s) :=
  touches_put .upl rfl

theorem kept_sendControl {src dst tag bytes : Nat} : Kept s (sendControl src dst tag bytes o s) :=
  ⟨fun _ h => h, fun _ h => h, fun _ _ h => h, fun _ h => List.mem_append_left _ h⟩

theorem queued_sendControl {src dst tag bytes : Nat} : Queued o (sendControl src dst tag bytes o s) :=
  ⟨_, List.mem_append_right _ (List.mem_singleton.mpr rfl), rfl⟩

/-- What goes to each of a list goes to one of them. -/
theorem queued_forEach {α : Type} {xs : List α} {a : α} {f : α → State → State} (ha : a ∈ xs)
    (hf : ∀ s, Queued o (f a s)) (hk : ∀ a s, Kept s (f a s)) : Queued o (forEach xs f s) := by
  unfold forEach
  induction xs generalizing s with
  | nil => cases ha
  | cons b xs ih =>
    rcases List.mem_cons.mp ha with rfl | ha
    · exact (hf s).mono (kept_forEach hk)
    · exact ih ha

/-! ## Transfers to an engine -/

theorem kept_absentAt {req d : Nat} : Kept s (absentAt req d s) := touches_absentAt.kept (by decide)

theorem kept_toEngine {req d : Nat} {f : State → State} (hf : Kept s (f s)) : Kept s (toEngine req d f s) :=
  kept_ite hf kept_absentAt

/-- Whether an engine answers is read off the power and reset state. -/
theorem Touches.engineUp {l : List Part} {d : Nat} (h : Touches l s t) (hl : ∀ k ∈ [Part.pwr, .rst, .jtag], k ∉ l) :
    engineUp d t = engineUp d s := by
  unfold Machine.engineUp
  rw [h.pwr (hl _ (by simp)), h.rst (hl _ (by simp)), h.jtag (hl _ (by simp))]

theorem toEngine_up {req d : Nat} {f : State → State} (h : engineUp d s = true) : toEngine req d f s = f s := if_pos h

theorem toEngine_down {req d : Nat} {f : State → State} (h : engineUp d s = false) :
    toEngine req d f s = absentAt req d s := if_neg (by rw [h]; decide)

theorem absentAt_absent {req d : Nat} : (absentAt req d s).pwr.absent =
    if (req, d) ∈ s.pwr.noRetry then s.pwr.absent else tmod 0 d (· + 1) s.pwr.absent := by
  unfold absentAt
  split <;> rfl

end Sys2Proof.Machine
end

section
/-!
Digests at the tiers: results, child blocks and verdict notices.
-/

namespace Sys2Proof.Machine

section Tallies

variable {s t u : State} {k : RoleKind} {job coll inst die : Nat} {e : CollEntry} {x : Tally} {n : VerdictNotice}
  {h : HeldResults} {r : Role} {v : TallyValue}

/-! ## What a tally keeps as values join it -/

theorem addValue_entries : (addValue v x).entries = x.entries := by
  unfold addValue
  split
  · rfl
  · split <;> rfl

theorem addValue_heard : (addValue v x).heard = x.heard := by
  unfold addValue
  split
  · rfl
  · split <;> rfl

theorem isTally_addValue : isTally k job coll inst (addValue v x) = isTally k job coll inst x := by
  unfold addValue
  split
  · rfl
  · split <;> rfl

theorem foldl_addValue {β : Type} (f : Tally → β) (hf : ∀ v x, f (addValue v x) = f x) (l : List TallyValue) :
    f (l.foldl (fun t v => addValue v t) x) = f x := by
  induction l generalizing x with
  | nil => rfl
  | cons v l ih => exact ih.trans (hf v x)

/-! ## What is shut stays shut -/

/-- The instances that are closed are the same. -/
def SameShut (s t : State) : Prop := t.dig.shut = s.dig.shut

theorem Touches.sameShut {l : List Part} (h : Touches l t u) (hl : .dig ∉ l) (ht : SameShut s t) : SameShut s u :=
  (congrArg Digests.shut (h.dig hl)).trans ht

theorem sameShut_raise {code subject detail : Nat} : SameShut s (raise code subject detail s) :=
  touches_raise.sameShut (by decide) rfl

theorem touches_raiseForJob {code subject : Nat} : Touches [.stw, .led, .upl] s (raiseForJob code subject job s) :=
  touches_raise.andThen (touches_when touches_notify) (by decide)

theorem kept_raiseForJob {code subject : Nat} : Kept s (raiseForJob code subject job s) :=
  kept_raise.trans (kept_when kept_notify)

theorem touches_spreadVerdict : Touches [.upl] s (spreadVerdict r n s) := touches_forEach fun _ _ => touches_sendControl

theorem kept_spreadVerdict : Kept s (spreadVerdict r n s) := kept_forEach fun _ _ => kept_sendControl

theorem touches_tellRanks {l : List (Nat × Word64)} {code : Nat} : Touches [.stw, .led, .upl] s (forEach l (fun r s =>
    sendVerdict (selfSource s) r.1 n (raiseForJob code (dieKey r.1) n.job s)) s) :=
  touches_forEach fun _ _ => touches_raiseForJob.andThen touches_sendControl (by decide)

theorem kept_applyVerdict : Kept s (applyVerdict n s) := by
  unfold applyVerdict
  split
  · exact Kept.refl s
  · split
    · exact kept_when kept_raise
    · exact Kept.from (kept_when (kept_forEach fun _ _ => kept_raiseForJob.trans kept_sendControl)) rfl rfl rfl rfl

theorem sameShut_applyVerdict : SameShut s (applyVerdict n s) := by
  unfold applyVerdict
  split
  · rfl
  · split
    · exact (touches_when touches_raise).sameShut (by decide) rfl
    · exact (touches_when touches_tellRanks).sameShut (by decide) rfl

theorem sameShut_judgeTally : SameShut s (judgeTally x r s) := by
  unfold judgeTally
  dsimp only
  split
  · exact sameShut_raise
  · split
    · rfl
    · split
      · exact sameShut_applyVerdict
      · exact touches_spreadVerdict.sameShut (by decide) rfl

theorem touches_enqueueSeries {src dst tag seq bytes : Nat} {bs : List Block} {o : Out} :
    Touches [.upl] s (enqueueSeries src dst tag seq bytes bs o s) := touches_put .upl rfl

theorem sameShut_sendTally : SameShut s (sendTally x r s) := by
  unfold sendTally
  exact (touches_forEach fun _ _ => touches_enqueueSeries).sameShut (by decide) (touches_arcIngest.sameShut (by decide) rfl)

/-- A tally that closes is shut. -/
theorem tallyShut_closeTally (hx : isTally k job coll inst x = true) (hr : (findRole k s).isSome = true) :
    tallyShut k job coll inst (closeTally x s) = true := by
  simp only [isTally, Bool.and_eq_true, beq_iff_eq] at hx
  obtain ⟨⟨⟨rfl, rfl⟩, rfl⟩, rfl⟩ := hx
  obtain ⟨r, hr⟩ := Option.isSome_iff_exists.mp hr
  have hshut : ∀ {a b : State}, SameShut a b → (x.role, x.job, x.coll, x.inst, s.time.ft) ∈ a.dig.shut →
      tallyShut x.role x.job x.coll x.inst b = true := by
    intro a b hab ha
    unfold tallyShut
    rw [hab]
    exact List.any_eq_true.mpr ⟨_, ha, by simp⟩
  unfold closeTally
  simp only [hr]
  split
  · exact hshut sameShut_judgeTally (List.mem_append_right _ (List.mem_singleton.mpr rfl))
  · exact hshut sameShut_sendTally (List.mem_append_right _ (List.mem_singleton.mpr rfl))

theorem shut_keepVerdict {w : Verdict} (h : (k, job, coll, inst, u.time.ft) ∈ s.dig.shut) :
    tallyShut k job coll inst (keepVerdict w s) = true := by
  unfold tallyShut
  exact List.any_eq_true.mpr ⟨_, h, by simp⟩

/-- What reaches a tally stands in it, or the tally is shut (R274, R275). -/
theorem onTally_stands {g : Tally → Tally} {P : Tally → Prop} (hr : (findRole k s).isSome = true)
    (hkey : ∀ y, isTally k job coll inst y = true → isTally k job coll inst (g y) = true)
    (hP : ∀ y, P (g y)) :
    (∃ y ∈ (onTally k job coll inst e g s).dig.tallies, isTally k job coll inst y = true ∧ P y) ∨
      tallyShut k job coll inst (onTally k job coll inst e g s) = true := by
  unfold onTally
  dsimp only
  split
  · rename_i hshut
    exact .inr hshut
  · split
    · exact .inr (shut_keepVerdict (u := s) (List.mem_append_right _ (List.mem_singleton.mpr rfl)))
    · have hisT : ∀ new, isTally k job coll inst new = true →
          isTally k job coll inst (g ((s.dig.tallies.find? (isTally k job coll inst)).getD new)) = true := by
        intro new hnew
        refine hkey _ ?_
        cases hold : s.dig.tallies.find? (isTally k job coll inst) with
        | none => exact hnew
        | some y => exact List.find?_some hold
      have hthis := hisT
        { role := k, job := job, coll := coll, inst := inst, ranks := e.ranks, scope := e.scope, firstEnd := nextOpenFt s,
          values := [], scatter := 0, unchkRanks := 0, entries := [], heard := [], quality := 0 } (by simp [isTally])
      split
      · exact .inr (tallyShut_closeTally hthis hr)
      · exact .inl ⟨_, List.mem_append_right _ (List.mem_singleton.mpr rfl), hthis, hP _⟩

theorem tableFor_same {j : Nat} (hd : t.dig = s.dig) (ht : t.time = s.time) : tableFor j t = tableFor j s := by
  unfold tableFor
  rw [hd, ht]

theorem findRole_same (hr : t.roles = s.roles) : findRole k t = findRole k s := congrArg (List.find? _) hr

/-- The one result of a record of an adopted Leaf, for a collective that is checked (R274). -/
theorem digestRecord_stands {rcd : DigestRecord} {c : Child} {x : ResultEntry}
    (ha : Touches [.arc, .out, .stw, .led, .upl] s t) (hrole : findRole .plaza s = some r) (hchild : childOf rcd.die r = some c)
    (hres : rcd.results = [x]) (hinc : x.incomplete = false) (hcoll : (tableFor x.job s).bind (collEntry x.coll) = some e)
    (hchk : e.checkResult = true) :
    ∃ u, when ((findRole .plaza t).bind (childOf rcd.die)).isSome (forEach rcd.results (takeResult rcd.die rcd.timeQuality)) t = u ∧
      ((∃ y ∈ u.dig.tallies, isTally .plaza x.job x.coll x.inst y = true ∧ (rcd.die, x.result) ∈ y.entries) ∨
        tallyShut .plaza x.job x.coll x.inst u = true) := by
  have hfind : findRole .plaza t = some r := (findRole_same (ha.roles (by decide))).trans hrole
  have htable : (tableFor x.job t).bind (collEntry x.coll) = some e := by
    rw [tableFor_same (ha.dig (by decide)) (ha.time (by decide))]
    exact hcoll
  refine ⟨_, rfl, ?_⟩
  rw [hfind, hres, Option.bind_some, hchild]
  show (∃ y ∈ (takeResult rcd.die rcd.timeQuality x t).dig.tallies, _) ∨ tallyShut _ _ _ _ (takeResult rcd.die rcd.timeQuality x t) = _
  unfold takeResult
  simp only [htable, hchk, hinc, Bool.not_true, Bool.false_eq_true, if_false]
  refine onTally_stands (by rw [hfind]; rfl) (fun y hy => by rw [isTally_addValue]; exact hy) fun y => ?_
  rw [addValue_entries]
  exact List.mem_append_right _ (List.mem_singleton.mpr rfl)

/-- A child's block for a collective that is checked (R274). -/
theorem takeBlock_stands {b : TallyBlock} {src : Nat} {q : BitVec 8} (ha : Touches [.arc, .out, .stw, .led, .upl] s t)
    (hrole : (findRole k s).isSome = true) (hcoll : (tableFor b.job s).bind (collEntry b.coll) = some e)
    (hchk : e.checkResult = true) :
    (∃ y ∈ (takeBlock k src q b t).dig.tallies, isTally k b.job b.coll b.inst y = true ∧ src ∈ y.heard) ∨
      tallyShut k b.job b.coll b.inst (takeBlock k src q b t) = true := by
  have htable : (tableFor b.job t).bind (collEntry b.coll) = some e := by
    rw [tableFor_same (ha.dig (by decide)) (ha.time (by decide))]
    exact hcoll
  unfold takeBlock
  simp only [htable, hchk, Bool.not_true, Bool.false_eq_true, if_false]
  refine onTally_stands (by rw [findRole_same (ha.roles (by decide))]; exact hrole) (fun y hy => ?_) fun y => ?_
  · split
    · exact hy
    · rw [foldl_addValue (isTally k b.job b.coll b.inst) fun _ _ => isTally_addValue]
      exact hy
  · split
    · rename_i hheard
      simpa using hheard
    · rw [foldl_addValue Tally.heard fun _ _ => addValue_heard]
      exact List.mem_append_right _ (List.mem_singleton.mpr rfl)

/-! ## Verdict notices -/

/-- A notice on its way: recorded, and passed down by a Quarter replica that has it from the Forum (R278). -/
def passNotice (n : VerdictNotice) (s : State) : State :=
  let s := arcIngest 1 (mkEntry n.source 192 (.verdict n) s) s
  match findRole .quarter s with
  | some r => when (sourceKind n.source == 3) (spreadVerdict r n) s
  | none => s

theorem touches_passNotice : Touches [.arc, .out, .stw, .led, .upl] s (passNotice n s) := by
  unfold passNotice
  dsimp only
  split
  · exact touches_arcIngest.andThen (touches_when touches_spreadVerdict) (by decide)
  · exact touches_arcIngest

theorem execVerdictNoticePlaza_eq (hp : s.rst.aonOk = true) (hplaza : s.fuse.plaza = true) :
    execVerdictNoticePlaza n s =
      .next (when (findRole .plaza (passNotice n s)).isSome (toEngine 13 8 (applyVerdict n)) (passNotice n s)) :=
  run_when hp hplaza

/-- Each child of the Quarter role gets the Forum's notice. -/
theorem passNotice_spreads {c : Child} (hr : findRole .quarter s = some r) (hsrc : sourceKind n.source = 3) (hc : c ∈ r.children) :
    Queued (.verdict c.source n) (passNotice n s) := by
  have ha := touches_arcIngest (log := 1) (e := mkEntry n.source 192 (.verdict n) s) (s := s)
  unfold passNotice
  simp only [findRole_same (ha.roles (by decide)), hr, hsrc]
  exact queued_forEach hc (fun _ => queued_sendControl) fun _ _ => kept_sendControl

/-- The first notice of a collective that a Plaza holds is kept with its results (R278). -/
theorem applyVerdict_held (hh : heldFor n s = some h) (hn : h.noticed = none) :
    verdictOf n 0 ∈ (applyVerdict n s).dig.verdicts ∧
      ∃ y, heldFor n (applyVerdict n s) = some y ∧ y.noticed = some n ∧ y.ranks = h.ranks := by
  have htold := fun a : State => touches_when (b := !n.noMajority) (touches_tellRanks (s := a)
    (l := h.ranks.filter fun r => r.2 != n.result) (n := n) (code := 0x0902))
  unfold applyVerdict
  rw [hh]
  simp only [hn]
  refine ⟨?_, { h with noticed := some n }, ?_, rfl, rfl⟩
  · rw [(htold _).dig (by decide)]
    exact List.mem_append_right _ (List.mem_singleton.mpr rfl)
  · unfold heldFor at hh ⊢
    rw [(htold _).dig (by decide), (htold _).time (by decide)]
    dsimp only [keepVerdict, onDig]
    rw [find_map_same]
    · exact (congrArg (Option.map _) hh).trans (by rw [Option.map_some, if_pos rfl])
    · intro y
      split <;> rfl

end Tallies

/-- Settles O16: what reaches a tally stands in it until it is shut, and a notice is kept with the results it judges. -/
theorem digestTierEventsComplete : Obligations.DigestTierEventsComplete := by
  refine ⟨fun rcd role k x e s hp hplaza hup hrole hchild hres hinc hcoll hchk => ?result, fun rcd s hp hplaza hup => ?absent,
    fun role rcd b e s hp hplaza hup hnp hrole hblocks hcoll hchk => ?block,
    fun n h s hp hplaza hup hrole hh hn => ?notice, fun n role k s hp hplaza hrole hsrc hk => ?spread,
    fun job coll inst h s hp hh => ?expiry⟩
  case result =>
    refine ⟨_, (run_when hp (by rw [hplaza]; rfl) : execDigestRecord .plaza rcd s = _), ?_⟩
    have ha := touches_arcIngest (log := 1) (e := mkEntry rcd.die (digestBytes rcd).length (.digests rcd) s) (s := s)
    rw [toEngine_up ((ha.engineUp (by decide)).trans hup)]
    obtain ⟨_, rfl, hstands⟩ := digestRecord_stands ha hrole hchild hres hinc hcoll hchk
    exact hstands
  case absent =>
    refine ⟨_, (run_when hp (by rw [hplaza]; rfl) : execDigestRecord .plaza rcd s = _), ?_⟩
    have ha := touches_arcIngest (log := 1) (e := mkEntry rcd.die (digestBytes rcd).length (.digests rcd) s) (s := s)
    rw [toEngine_down ((ha.engineUp (by decide)).trans hup), absentAt_absent, ha.pwr (by decide)]
    exact ⟨(touches_absentAt.dig (by decide)).trans (ha.dig (by decide)), rfl⟩
  case block =>
    refine ⟨_, (run_when hp (by simp [hplaza, hnp, hrole]) : execTallyRecord role rcd s = _), ?_⟩
    have ha := touches_arcIngest (log := 1)
      (e := { mkEntry rcd.source (tallyBytes rcd).length (.tallies rcd) s with hosted := true }) (s := s)
    rw [toEngine_up ((ha.engineUp (by decide)).trans hup), hblocks]
    exact takeBlock_stands ha hrole hcoll hchk
  case notice =>
    refine ⟨_, execVerdictNoticePlaza_eq hp hplaza, ?_⟩
    have ha := touches_passNotice (n := n) (s := s)
    rw [show findRole .plaza (passNotice n s) = findRole .plaza s from congrArg (List.find? _) (ha.roles (by decide)),
      hrole, when, if_pos rfl, toEngine_up ((ha.engineUp (by decide)).trans hup)]
    refine applyVerdict_held ?_ hn
    unfold heldFor at hh ⊢
    rw [ha.dig (by decide), ha.time (by decide), hh]
  case spread =>
    refine ⟨_, execVerdictNoticePlaza_eq hp hplaza, ?_⟩
    exact (passNotice_spreads hrole hsrc hk).mono (kept_when (kept_toEngine kept_applyVerdict))
  case expiry =>
    refine ⟨_, (run_powered hp : execResultHoldExpiry job coll inst s = _), ?_⟩
    simp only [hh]
    show List.filter _ (untilTimer h.ends s).dig.heldResults = _
    rw [touches_untilTimer.dig (by decide)]

end Sys2Proof.Machine
end

section
/-!
What accesses, transfers and front inputs leave alone: the footprints of the register window, of the sideband, of the test
port and of the fronts.
-/

namespace Sys2Proof.Machine

section AccessFootprints

variable {s t : State} {l : List Part}

/-! ## A footprint as a next state -/

/-- States that agree in every part are one. -/
theorem Part.ext (h : ∀ k, Part.same k s t) : t = s := by
  obtain ⟨⟩ := s
  obtain ⟨⟩ := t
  exact State.mk.injEq .. |>.mpr ⟨h .pending, h .fuse, h .die, h .time, h .grid, h .nv, h .fence, h .sbi, h .rst, h .hrw, h .stw,
    h .pwr, h .smp, h .led, h .roles, h .place, h .conf, h .tree, h .arc, h .dig, h .test, h .trc, h .upl, h .buf, h .dump,
    h .jtag, h .epoch, h .exhausted, h .out, h .free⟩

theorem Part.same_symm {k : Part} (h : k.same s t) : k.same t s := by
  cases k <;> exact Eq.symm h

theorem Part.put_same {k : Part} : k.same (k.put s t) t := by cases k <;> rfl

/-- What a footprint has left of its parts once one of them is put in place. -/
theorem Touches.putFirst {k : Part} (h : Touches (k :: l) s t) : Touches l (k.put s t) t := fun j hj => by
  by_cases e : j = k
  · rw [e]
    exact Part.put_same
  · exact Part.same_trans (Part.same_symm (Part.same_put e)) (h j (by simp [e, hj]))

/-- The next state is the first with the footprint's parts as the next has them. -/
theorem Touches.eq (h : Touches l s t) : t = l.foldl (fun u k => k.put u t) s := by
  induction l generalizing s with
  | nil => exact Part.ext fun k => h k (by simp)
  | cons k l ih => exact ih h.putFirst

/-- What a command's effect touches, its next state does. -/
theorem Touches.of_run {f : State → State} (h : run f s = .next t) (hf : Touches l s (f s)) : Touches l s t := by
  rw [run] at h
  cases h
  exact touches_ite hf Touches.refl

/-! ## The register window -/

theorem touches_hrwDiscard : Touches [.hrw] s (hrwDiscard s) := touches_put .hrw rfl

/-- A write that needs supervisor level touches the register file, whatever becomes of it, and what the write does. -/
theorem touches_hrwWriteS {priv : Nat} {f : State → State} (hl : .hrw ∈ l) (hf : Touches l s (f s)) :
    Touches l s (hrwWriteS priv f s) := by
  have hd : Touches l s (hrwDiscard s) := touches_hrwDiscard.mono fun k hk => by rwa [List.mem_singleton.mp hk]
  unfold hrwWriteS
  exact touches_ite hd (touches_ite Touches.refl (touches_ite hd hf))

theorem touches_clearDone {n value : Nat} : Touches [.hrw, .out] s (clearDone n value s) := by
  unfold clearDone
  refine touches_ite Touches.refl ?_
  split
  · exact (touches_put .hrw rfl).mono (by decide)
  · exact ((touches_put .hrw rfl).mono (by decide)).andThen touches_raiseInt (by decide)

theorem touches_ringBoot {v : Word32} : Touches [.out] s (ringBoot v s) := touches_when touches_emit

theorem touches_ringPm {n v : Nat} : Touches [.hrw] s (ringPm n v s) := by
  unfold ringPm
  exact touches_ite Touches.refl (touches_ite touches_hrwDiscard (touches_put .hrw rfl))

theorem touches_startQuiesce {d timeout : Nat} {why : QuiesceFor} : Touches [.pwr] s (startQuiesce d why timeout s) := by
  unfold startQuiesce
  exact touches_ite Touches.refl (touches_put .pwr rfl)

theorem touches_engRstBit {d : Nat} : Touches [.hrw, .pwr] s (engRstBit d s) := by
  unfold engRstBit
  exact touches_ite (((touches_put .hrw rfl).mono (by decide)).andThen touches_startQuiesce (by decide)) Touches.refl

/-- A tenant's doorbell reaches the queue or the counts of those discarded. -/
theorem touches_writeTmDb {part size session : Nat} {v : Word64} : Touches [.hrw, .stw] s (writeTmDb part size v session s) := by
  have hcount : ∀ f : Steward → Steward, ∀ g : Hrw → Hrw, Touches [.hrw, .stw] s (onHrw g (onStw f s)) := fun f g =>
    ((touches_put .stw rfl).mono (by decide)).andThen (touches_put .hrw rfl) (by decide)
  unfold writeTmDb ringTenant
  exact touches_ite (hcount _ _) (touches_ite Touches.refl (touches_ite (touches_hrwDiscard.mono (by decide))
    (touches_ite Touches.refl (touches_ite ((touches_put .stw rfl).mono (by decide)) (hcount _ _)))))

/-- Of the Steward a tenant's doorbell reaches the queue and its counts alone. -/
theorem writeTmDb_stw {part size session : Nat} {v : Word64} : (writeTmDb part size v session s).stw =
    { s.stw with doorbells := (writeTmDb part size v session s).stw.doorbells
                 dbDrops := (writeTmDb part size v session s).stw.dbDrops } := by
  unfold writeTmDb ringTenant
  repeat' split
  all_goals rfl

/-! ## The sideband and the test port -/

theorem touches_exhaustIbi : Touches [.sbi, .out] s (exhaustIbi s) := by
  unfold exhaustIbi
  exact touches_ite (((touches_put .sbi rfl).mono (by decide)).andThen touches_emit (by decide)) Touches.refl

theorem touches_onSbi {f : SbiTarget → SbiTarget} : Touches [.sbi] s (onSbi f s) := touches_put .sbi rfl

theorem touches_setAddr {a : Nat} : Touches [.sbi, .out] s
    (exhaustIbi (when s.sbi.addr.isNone (onSbi fun b => { b with addr := some (a % 128) }) s)) :=
  ((touches_when touches_onSbi).mono (by decide)).andThen touches_exhaustIbi (by decide)

theorem touches_sbiTake : Touches [.sbi, .out] s (sbiTake s) := by
  have hread : ∀ f : SbiTarget → SbiTarget, ∀ o : Out, Touches [.sbi, .out] s (emit o (onSbi f s)) := fun f o =>
    (touches_onSbi.mono (by decide)).andThen touches_emit (by decide)
  have hnone : ∀ o : Out, Touches [.sbi, .out] s (emit o s) := fun o => touches_emit.mono (by decide)
  unfold sbiTake
  refine touches_ite ?_ ?_
  · split
    · exact hnone _
    · exact hread _ _
  · split
    · exact hnone _
    · exact hread _ _

theorem touches_shiftFree : Touches [.free, .out] s (shiftFree s) :=
  ((touches_put .free rfl).mono (by decide)).andThen touches_emit (by decide)

/-! ## The fronts -/

theorem touches_onConc {c : Nat} {f : Conc → Conc} : Touches [.smp] s (onConc c f s) := touches_put .smp rfl

theorem touches_countEdge {c : Nat} {levels : Lines} : Touches [.smp] s (countEdge c levels s) :=
  (touches_forEach fun _ _ => touches_put .smp rfl).trans touches_onConc

theorem touches_turnOn {line : Nat} {half : Bool} : Touches [.smp] s (turnOn line half s) := by
  unfold turnOn
  exact touches_ite Touches.refl touches_onConc

theorem touches_ackWord {line count : Nat} {half : Bool} : Touches [.smp] s (ackWord line half count s) :=
  touches_turnOn.trans (touches_put .smp rfl)

theorem touches_onTrc {f : Trace → Trace} : Touches [.trc] s (onTrc f s) := touches_put .trc rfl

theorem touches_admitPacket {p : TrcPacket} : Touches [.trc] s (admitPacket p s) := by
  unfold admitPacket
  exact touches_ite (touches_put .trc rfl) (touches_ite (touches_put .trc rfl) (touches_put .trc rfl))

theorem touches_onConf {f : Conf → Conf} : Touches [.conf] s (onConf f s) := touches_put .conf rfl

end AccessFootprints

/-- Settles O59: the next state is the first with the parts of each command's footprint as the next has them. -/
theorem framesOfAccesses : Obligations.FramesOfAccesses := by
  refine ⟨fun p v e s t h => ?accesses, fun p part size v k s t h => ?doorbell, fun n p part v s t hp h => ?pmDoorbell,
    fun p v s t h => ?engines, fun s t h => ?debug, fun a b e s t h => ?sideband, fun d i s t h => ?instruments,
    fun c levels line half n s t h => ?edges, fun p s t h => ?packets, fun m s t h => ?strobes⟩
  case accesses =>
    suffices hf : Touches [.hrw, .out] s t from hf.eq
    rcases h with h | h | h | h
    · exact .of_run h (touches_when (((touches_put .hrw rfl).mono (by decide)).andThen touches_emit (by decide)))
    · exact .of_run h (touches_hrwWriteS (by decide) ((touches_put .hrw rfl).mono (by decide)))
    · exact .of_run h (touches_hrwWriteS (by decide) (touches_ringBoot.mono (by decide)))
    · exact .of_run h (touches_hrwWriteS (by decide) touches_clearDone)
  case doorbell =>
    refine ⟨(Touches.of_run h touches_writeTmDb).eq, ?_⟩
    have h : Host.Outcome.next (if s.rst.aonOk then writeTmDb part size v k s else s) = Host.Outcome.next t := h
    cases h
    split
    · exact writeTmDb_stw
    · rfl
  case pmDoorbell =>
    have hsup : when (p == 0 && hrwUp s) (isolationFault part) s = s := by simp [when, hp]
    refine (Touches.of_run (l := [.hrw]) h ?_).eq
    rw [pmWrite, hsup]
    exact touches_hrwWriteS (by decide) touches_ringPm
  case engines =>
    exact (Touches.of_run h (touches_hrwWriteS (l := [.hrw, .pwr]) (by decide) (touches_forEach fun _ _ => touches_engRstBit))).eq
  case debug =>
    refine (Touches.of_run (l := [.hrw, .time]) (show execDbgCtlExpiry s = _ from h) ?_).eq
    split
    · exact Touches.refl
    · exact (touches_untilTimer.mono (by decide)).andThen (touches_put .hrw rfl) (by decide)
  case sideband =>
    suffices hf : Touches [.sbi, .out, .free] s t from hf.eq
    rcases h with h | h | h | h | h | h | h | h | h | h | h | h | h | h | h
    · exact .of_run h (touches_onSbi.mono (by decide))
    · exact .of_run h (touches_onSbi.mono (by decide))
    · exact .of_run h ((touches_when touches_onSbi).mono (by decide))
    · exact .of_run h (touches_sbiTake.mono (by decide))
    · exact .of_run (show execEntdaa a s = _ from h) (touches_setAddr.mono (by decide))
    · exact .of_run (show execSetdasa a s = _ from h) (touches_setAddr.mono (by decide))
    · exact .of_run h (touches_onSbi.mono (by decide))
    · exact .of_run (show execEnec e s = _ from h) ((touches_onSbi.mono (by decide)).andThen touches_exhaustIbi (by decide))
    · exact .of_run h (touches_onSbi.mono (by decide))
    · exact .of_run h (touches_emit.mono (by decide))
    · exact .of_run h (touches_emit.mono (by decide))
    · exact .of_run h (touches_emit.mono (by decide))
    · exact .of_run (show execGetstatus s = _ from h) (((touches_put .free rfl).mono (by decide)).andThen touches_emit (by decide))
    · exact .of_run h (touches_emit.mono (by decide))
    · exact .of_run h (touches_emit.mono (by decide))
  case instruments =>
    suffices hf : Touches [.jtag, .out, .free] s t from hf.eq
    rcases h with h | h
    · refine .of_run (show execIjtagInstrumentAccess d i s = _ from h) (touches_ite Touches.refl ?_)
      cases i with
      | status => exact (touches_when touches_shiftFree).mono (by decide)
      | counts => exact (touches_when touches_shiftFree).mono (by decide)
      | memoryContent secret =>
        refine touches_when ?_
        cases secret
        · exact touches_shiftFree.mono (by decide)
        · exact touches_emit.mono (by decide)
    · exact .of_run (show execIjtagMemorySelftest d s = _ from h) (touches_ite Touches.refl (touches_ite
        (((touches_put .jtag rfl).mono (by decide)).andThen touches_shiftFree (by decide)) ((touches_put .jtag rfl).mono (by decide))))
  case edges =>
    suffices hf : Touches [.smp] s t from hf.eq
    rcases h with h | h
    · exact .of_run h (touches_when touches_countEdge)
    · exact .of_run (show execDrainWord line half n true s = _ from h) (touches_ite Touches.refl touches_ackWord)
  case packets => exact (Touches.of_run h (touches_when touches_admitPacket)).eq
  case strobes => exact (Touches.of_run h (touches_when (touches_ite touches_onConf touches_onConf))).eq

end Sys2Proof.Machine
end

section
/-!
Engines that are reset: an engine whose regions two bank groups ask for, out of time.
-/

namespace Sys2Proof.Machine

set_option maxRecDepth 100000

/-- A Leaf at work whose Ledger merger quiesces for the moves of two bank groups, soon after an automatic dump. -/
def twoMoves : State :=
  { Tests.leaf with
    pwr := { Tests.leaf.pwr with quiescing := [(3, .move 0, 0), (3, .move 1, 0)] }
    dump := { Tests.leaf.dump with lastAuto := some Tests.leaf.time.ft, awaiting := [] } }

/-- The engine goes on with the first move alone, and no dump is awaited (R17, R452). -/
theorem quiesceTimeout_twoMoves :
    ∃ t, exec (.quiesceTimeout 3) twoMoves = .next t ∧ (true, 3) ∉ t.dump.awaiting ∧ (3, .move 1, 0) ∈ t.pwr.quiescing :=
  ⟨_, rfl, by decide⟩

/-- Refutes O30: the clause for `QUIESCE_TIMEOUT` says of every engine out of time that a dump is awaited or that it quiesces
no more, and an engine whose regions two groups ask for still quiesces for the second. -/
theorem not_engineEventsComplete : ¬ Obligations.EngineEventsComplete := by
  intro h
  obtain ⟨-, -, htimeout, -⟩ := h
  obtain ⟨t, ht, -, -, hdone⟩ := htimeout 3 (.move 0) 0 twoMoves rfl rfl (by decide)
  obtain ⟨u, hu, hawait, hmore⟩ := quiesceTimeout_twoMoves
  obtain rfl : u = t := by simpa [hu] using ht
  rcases hdone with hd | hd
  · exact hawait hd
  · exact hd _ hmore rfl

end Sys2Proof.Machine
end

section
/-!
The time front: the first good word where power-on has found the last epoch stored, before the boot ROM has read it.
-/

namespace Sys2Proof.Machine

set_option maxRecDepth 100000

/-- A Leaf whose time front is Unlocked with no word kept, the log holding the last epoch, the epoch not yet taken (R49). -/
def lastEpoch : State :=
  { Tests.leaf with
    time := { Tests.leaf.time with state := .unlocked, candidate := none }
    nv := { Tests.leaf.nv with epoch := 0xFFFFFFFF }
    epoch := 0
    exhausted := false }

/-- The word is good, and it is not kept: a power-on that finds the epoch exhausted never locks (R49). -/
theorem ftiTimeWord_lastEpoch :
    ∃ t, exec (.ftiTimeWord 0 0) lastEpoch = .next t ∧ t.time.candidate = none :=
  ⟨_, rfl, by decide⟩

/-- Refutes O32: its clause for the first good word asks only that the epoch is not declared exhausted, and the word is not
kept where the log already holds the last epoch and none is taken (R49). -/
theorem not_timeFrontEventsComplete : ¬ Obligations.TimeFrontEventsComplete := by
  intro h
  obtain ⟨-, hfirst, -⟩ := h
  obtain ⟨t, ht, hkept, -⟩ := hfirst 0 0 lastEpoch rfl (by decide) (by decide) rfl rfl
  obtain ⟨u, hu, hnone⟩ := ftiTimeWord_lastEpoch
  obtain rfl : u = t := by injection hu.symm.trans ht
  rw [hnone] at hkept
  cases hkept

end Sys2Proof.Machine
end

section
/-!
Reports at the Forum: the copy that a Quarter's other replica sends.
-/

namespace Sys2Proof.Machine

set_option maxRecDepth 100000

/-- The report of the same faults that the other replica of the reporter has sent. -/
def twinOfReport0 : Report := { Tests.report0 with tier := 1 }

/-- A Forum chip whose Arcade has no live port, with a replica that has counted the other replica's report under the entry of its key. -/
def forumTwin : State :=
  { Tests.chip with
    arc := { Tests.chip.arc with deadPorts := List.range 8 }
    roles := [{ Tests.zRole with
      kind := .forum, merge := [entryOfReport Tests.report0], counted := [.report twinOfReport0] }] }

/-- The same faults are not counted again: the entry stands as it was (R125, R130). -/
theorem faultReportReceive_forumTwin :
    ∃ t, exec (.faultReportReceive .forum Tests.report0) forumTwin = .next t ∧
      findRole .forum t = some { Tests.zRole with
        kind := .forum, merge := [entryOfReport Tests.report0], counted := [.report twinOfReport0] } :=
  ⟨_, rfl, by decide⟩

/-- Refutes O36: its clause for a report that joins an entry asks only that the role has not counted that report, and the Forum
does not count one whose twin from a Quarter's other replica it has (R125). -/
theorem not_alertEventsComplete : ¬ Obligations.AlertEventsComplete := by
  intro h
  obtain ⟨hjoin, -⟩ := h
  obtain ⟨t, q, ht, hq, hjoined⟩ := hjoin .forum Tests.report0 _ (entryOfReport Tests.report0) forumTwin rfl (by decide) rfl
    (by decide) rfl (by decide) (by decide) (by decide)
  obtain ⟨u, hu, hrole⟩ := faultReportReceive_forumTwin
  obtain rfl : u = t := by injection hu.symm.trans ht
  obtain rfl := Option.some.inj (hrole.symm.trans hq)
  exact absurd hjoined (by decide)

end Sys2Proof.Machine
end

section
/-!
The placement table: chips that the leader hears of out of order.
-/

namespace Sys2Proof.Machine

set_option maxRecDepth 100000

/-- A silent chip of a tray. -/
def silentChip (tray : Nat) : ChipInfo := { Tests.zChipInfo with tray := tray, live := false }

/-- The leader's chip with no port of its Arcade live. -/
def leaderWithoutArcade : State :=
  { Tests.leaderChip with arc := { Tests.leaderChip.arc with deadPorts := List.range 8 } }

/-- The leader keeps the chips by ascending tray. -/
theorem placementTableIssue_outOfOrder :
    ∃ t, exec (.placementTableIssue .liveness [silentChip 2, silentChip 1]) leaderWithoutArcade = .next t ∧
      t.place.chips = [silentChip 1, silentChip 2] :=
  ⟨_, rfl, by decide⟩

/-- Refutes O37: the clause for `PLACEMENT_TABLE_ISSUE` says that the leader keeps the chips as they come, and it keeps them by
ascending tray. -/
theorem not_tableEventsComplete : ¬ Obligations.TableEventsComplete := by
  intro h
  obtain ⟨-, hissue, -⟩ := h
  obtain ⟨t, ht, -, hchips, -⟩ := hissue .liveness [silentChip 2, silentChip 1] leaderWithoutArcade rfl (by decide) (by decide)
  obtain ⟨u, hu, hsorted⟩ := placementTableIssue_outOfOrder
  obtain rfl : u = t := by injection hu.symm.trans ht
  exact absurd (hsorted.symm.trans hchips) (by decide)

end Sys2Proof.Machine
end

section
/-!
The frame grid: a change of period behind which another waits.
-/

namespace Sys2Proof.Machine

set_option maxRecDepth 100000

/-- A Leaf at work with a frame open, a change of period pending and another behind it (R45, R47). -/
def twoChanges : State :=
  { Tests.leaf with
    grid := { Tests.leaf.grid with
      frame := some { frame := 1000, period := 1000, quality := 0 }
      pending := some (1000, 0), next := some (2000, 2000000000000) } }

/-- The change behind it is then the one pending. -/
theorem periodChangeEffect_twoChanges :
    ∃ t, exec .periodChangeEffect twoChanges = .next t ∧ t.grid.pending = some (2000, 2000000000000) :=
  ⟨_, rfl, by decide⟩

/-- Refutes O33: the clause for `PERIOD_CHANGE_EFFECT` says that no change is pending after it, and one that waits behind it is
(R45, R47). -/
theorem not_gridEventsComplete : ¬ Obligations.GridEventsComplete := by
  intro h
  obtain ⟨-, -, -, -, hperiod, -⟩ := h
  obtain ⟨t, ht, -, hnone, -⟩ := hperiod 1000 0 twoChanges rfl rfl rfl
  obtain ⟨u, hu, hwaits⟩ := periodChangeEffect_twoChanges
  obtain rfl : u = t := by injection hu.symm.trans ht
  rw [hwaits] at hnone
  cases hnone

end Sys2Proof.Machine
end

section
/-!
Trace: the fronts' turns.
-/

namespace Sys2Proof.Machine

set_option maxRecDepth 100000

/-- A packet that waits at a front. -/
def waitingPkt (front : Nat) : FrontPkt :=
  { packet := { Tests.zTrcPacket with front := front }, dropped := 0, ft := 0, start := false }

/-- A Leaf at work with a packet at fronts 0 and 1, and front 0's turn. -/
def twoFronts : State :=
  { Tests.leaf with trc := { Tests.leaf.trc with turn := 0, fronts := [(0, [waitingPkt 0]), (1, [waitingPkt 1])] } }

/-- Front 1 keeps its packet (R313). -/
theorem traceServe_twoFronts : ∃ t, exec (.traceServe 1) twoFronts = .next t ∧ frontQueue 1 t = [waitingPkt 1] :=
  ⟨_, rfl, by decide⟩

/-- Refutes O20: the clause for `TRACE_SERVE` says of every front that its oldest packet is taken, and the compressor takes one of
the front whose turn it is (R313). -/
theorem not_traceEventsComplete : ¬ Obligations.TraceEventsComplete := by
  intro h
  obtain ⟨-, -, -, hserve, -⟩ := h
  obtain ⟨t, ht, hrest, -⟩ := hserve 1 (waitingPkt 1) [] 8 twoFronts rfl (by decide) (by decide) rfl rfl (by decide)
  obtain ⟨u, hu, hkept⟩ := traceServe_twoFronts
  obtain rfl : u = t := by injection hu.symm.trans ht
  rw [hkept] at hrest
  cases hrest

end Sys2Proof.Machine
end

section
/-!
The adoption handshake at the Leaf: a list with an unused position.
-/

namespace Sys2Proof.Machine

set_option maxRecDepth 100000

/-- A Leaf that confirms to its first entry, with an unused position behind it in its list (R138). -/
def unusedPosition : State :=
  { Tests.inPhase .confirming with
    place := { (Tests.inPhase .confirming).place with
      part := some { Tests.tablePart0 with alts := [(0, [0x40000000, 0xFFFFFFFF])] } } }

/-- A refusal leaves the Leaf an orphan: the unused position names no chip (R138, R150). -/
theorem adoptRefuse_unusedPosition :
    ∃ t, exec (.adoptRefuse Tests.fromChip) unusedPosition = .next t ∧ t.place.phase = .orphan :=
  ⟨_, rfl, by decide⟩

/-- Refutes O39: the clause for `ADOPT_REFUSE` says that the Leaf tries whatever stands at the next position of its list, and it
passes over an unused one (R138). -/
theorem not_adoptionEventsComplete : ¬ Obligations.AdoptionEventsComplete := by
  intro h
  obtain ⟨-, -, hrefuse, -⟩ := h
  obtain ⟨t, ht, hphase, -⟩ := hrefuse Tests.fromChip 0xFFFFFFFF unusedPosition rfl rfl (by decide) (by decide)
  obtain ⟨u, hu, horphan⟩ := adoptRefuse_unusedPosition
  obtain rfl : u = t := by injection hu.symm.trans ht
  rw [horphan] at hphase
  cases hphase

end Sys2Proof.Machine
end

section
/-!
Notices: one of a watermark while the Sampler is quiesced.
-/

namespace Sys2Proof.Machine

set_option maxRecDepth 100000

/-- A notice of a comparator to the partition of the Leaf's one session. -/
def watermarkNotice : Notice := { Tests.notice0 with subject := .watermark 0 }

/-- A Leaf whose Sampler is quiesced, with that notice waiting. -/
def quietSampler : State :=
  { Tests.leaf with
    stw := { Tests.leaf.stw with notices := [watermarkNotice] }
    smp := { Tests.leaf.smp with quiesced := true } }

/-- The notice waits on. -/
theorem noticeDeliver_quietSampler :
    ∃ t, exec (.noticeDeliver (.watermark 0)) quietSampler = .next t ∧ t.stw.notices = [watermarkNotice] :=
  ⟨_, rfl, by decide⟩

/-- Refutes O41: the clause for `NOTICE_DELIVER` says of every notice with a recipient that it goes out, and a watermark's waits
while the Sampler is quiesced. -/
theorem not_stewardEventsComplete : ¬ Obligations.StewardEventsComplete := by
  intro h
  obtain ⟨-, -, -, -, -, -, -, hnotice, -⟩ := h
  obtain ⟨t, ht, hgone, -⟩ := hnotice (.watermark 0) watermarkNotice quietSampler rfl (by decide) rfl (by decide)
  obtain ⟨u, hu, hwaits⟩ := noticeDeliver_quietSampler
  obtain rfl : u = t := by injection hu.symm.trans ht
  rw [hwaits] at hgone
  exact absurd hgone (by decide)

end Sys2Proof.Machine
end

section
/-!
What accesses to the register window do: a write at supervisor level, the bits of `ENG_RST`, the bytes of a request slot.
-/

namespace Sys2Proof.Machine

section RegisterWindow

variable {s : State} {priv part n : Nat} {f : State → State}

/-- From supervisor level a register that answers does what its row says. -/
theorem hrwWriteS_up (hu : hrwUp s = true) (hp : priv ≠ 0) : hrwWriteS priv f s = f s := by
  have hparked : s.pwr.parked = false := by
    simp only [hrwUp, Bool.and_eq_true, Bool.not_eq_true'] at hu
    exact hu.2
  simp [hrwWriteS, hparked, hu, hp]

theorem pmWrite_up (hu : hrwUp s = true) (hp : priv ≠ 0) : pmWrite priv part f s = f s := by
  have hw : when (priv == 0 && hrwUp s) (isolationFault part) s = s := by
    simp [when, hp]
  rw [pmWrite, hw, hrwWriteS_up hu hp]

theorem writeTmDb_up {v : Word64} {h : Nat} (hu : hrwUp s = true) : writeTmDb part 1 v h s = ringTenant part v h s := by
  have hparked : s.pwr.parked = false := by
    simp only [hrwUp, Bool.and_eq_true, Bool.not_eq_true'] at hu
    exact hu.2
  simp [writeTmDb, hparked, hu]

/-- A 32-bit value carried in 64 bits is itself again in 32. -/
theorem ofNat_setWidth (v : Word32) : BitVec.ofNat 32 (v.setWidth 64).toNat = v :=
  BitVec.eq_of_toNat_eq (by
    have := v.isLt
    simp only [BitVec.toNat_setWidth, BitVec.toNat_ofNat]
    omega)

theorem toNat_setWidth_word (v : Word32) : (v.setWidth 64).toNat = v.toNat := by
  have := v.isLt
  simp only [BitVec.toNat_setWidth]
  omega

theorem bitOf_toNat (v : Word32) (i : Nat) : bitOf v.toNat i = v.getLsbD i := by
  simp [bitOf, BitVec.getLsbD, Nat.testBit_eq_decide_div_mod_eq, beq_eq_decide]

theorem odd_of_bit {v : Word32} (hv : v.getLsbD 0 = true) : ¬ v.toNat % 2 = 0 := by
  have h := (bitOf_toNat v 0).trans hv
  simp only [bitOf, pow_zero, Nat.div_one, beq_iff_eq] at h
  omega

/-! ## The bits of `ENG_RST` -/

/-- Engine `d` quiesces for its reset with its `ENG_RST` bit set. -/
def Resetting (d : Nat) (until' : Nat) (s : State) : Prop :=
  (d, .reset, until') ∈ s.pwr.quiescing ∧ s.hrw.engRst.getLsbD d = true

theorem getLsbD_putBit_ne {w : Nat} {v : BitVec w} {d e : Nat} (h : d ≠ e) :
    (putBit v e true).getLsbD d = v.getLsbD d := by
  simp [putBit, Ne.symm h]

theorem resetting_engRstBit {d e until' : Nat} (h : Resetting d until' s) : Resetting d until' (engRstBit e s) := by
  obtain ⟨hq, hb⟩ := h
  unfold engRstBit startQuiesce
  split
  · split
    · exact ⟨hq, getLsbD_putBit_true _ _ _ hb⟩
    · exact ⟨List.mem_append_left _ hq, getLsbD_putBit_true _ _ _ hb⟩
  · exact ⟨hq, hb⟩

/-- An engine that nothing resets or switches, and whose bit is clear. -/
def Resettable (d : Nat) (s : State) : Prop :=
  s.pwr.on.getLsbD d = true ∧ s.hrw.engRst.getLsbD d = false ∧ (∀ q ∈ s.pwr.quiescing, q.1 ≠ d) ∧ ∀ q ∈ s.pwr.releasing, q.1 ≠ d

theorem engRstBit_self {d : Nat} (hd : d < 32) (h : Resettable d s) : Resetting d (s.time.timer + 200000) (engRstBit d s) := by
  obtain ⟨hon, hb, hq, hr⟩ := h
  have hfree : (s.pwr.quiescing.any (fun q => q.1 == d && goesDown q) || s.pwr.releasing.any fun q => q.1 == d) = false := by
    rw [Bool.or_eq_false_iff, List.any_eq_false, List.any_eq_false]
    exact ⟨fun q hm => by simp [hq q hm], fun q hm => by simp [hr q hm]⟩
  simp only [engRstBit, hon, hb, Bool.not_false, Bool.and_self, if_true, startQuiesce, onHrw_pwr, hfree, Bool.false_eq_true, if_false]
  exact ⟨List.mem_append_right _ (List.mem_singleton.mpr rfl), by simp [putBit, hd]⟩

theorem resettable_engRstBit {d e : Nat} (hde : d ≠ e) (h : Resettable d s) : Resettable d (engRstBit e s) := by
  obtain ⟨hon, hb, hq, hr⟩ := h
  unfold engRstBit startQuiesce
  split
  · split
    · exact ⟨hon, (getLsbD_putBit_ne hde).trans hb, hq, hr⟩
    · refine ⟨hon, (getLsbD_putBit_ne hde).trans hb, fun q hm => ?_, hr⟩
      obtain hm | hm := List.mem_append.mp hm
      · exact hq q hm
      · rw [List.mem_singleton.mp hm]
        exact Ne.symm hde
  · exact ⟨hon, hb, hq, hr⟩

theorem engRstBit_timer {e : Nat} : (engRstBit e s).time = s.time := by
  unfold engRstBit startQuiesce
  split
  · split <;> rfl
  · rfl

/-- Each written bit resets its engine. -/
theorem resetting_engRstBits {d : Nat} {ds : List Nat} (hd : d < 32) (hm : d ∈ ds) (h : Resettable d s) :
    Resetting d (s.time.timer + 200000) (forEach ds engRstBit s) := by
  induction ds generalizing s with
  | nil => cases hm
  | cons e ds ih =>
    by_cases hde : d = e
    · subst hde
      exact List.foldlRecOn ds _ (engRstBit_self hd h) fun _ hb _ _ => resetting_engRstBit hb
    · have := ih ((List.mem_cons.mp hm).resolve_left hde) (resettable_engRstBit hde h)
      rwa [engRstBit_timer] at this

/-! ## Request slots -/

/-- Bytes written from `off` on, with the byte at each offset that the write covers. -/
theorem tget_writeBytes {off i : Nat} {bytes : List Byte} {b : Byte} {k : Nat} {t : Tab Byte} (ht : tabWf 0 t = true)
    (hb : bytes[i]? = some b) :
    tget 0 (off + (k + i)) (((List.range' k bytes.length).zip bytes).foldl (fun t ib => tput 0 (off + ib.1) ib.2 t) t) = b := by
  have hafter : ∀ (l : List (Nat × Byte)) (t : Tab Byte) (j : Nat), (∀ x ∈ l, x.1 ≠ j) →
      tget 0 (off + j) (l.foldl (fun t ib => tput 0 (off + ib.1) ib.2 t) t) = tget 0 (off + j) t := fun l => by
    induction l with
    | nil => exact fun _ _ _ => rfl
    | cons x l ih =>
      intro t j hl
      have hx := hl x (by simp)
      rw [List.foldl_cons, ih _ _ fun y hy => hl y (List.mem_cons_of_mem _ hy), tget_tput_other (by omega)]
  induction bytes generalizing i k t with
  | nil => cases hb
  | cons a bytes ih =>
    rw [List.length_cons, List.range'_succ, List.zip_cons_cons, List.foldl_cons]
    cases i with
    | zero =>
      obtain rfl : a = b := by simpa using hb
      rw [hafter _ _ _ fun x hx => ?_]
      · exact tget_tput_self ht
      · have := (List.mem_range'_1.mp (List.of_mem_zip hx).1).1
        omega
    | succ i =>
      rw [show k + (i + 1) = k + 1 + i by omega]
      exact ih (tabWf_tput ht) (by simpa using hb)

/-- Bytes written to a request slot that is not `BUSY` stand in it. -/
theorem tget_pmReqWrite {off i : Nat} {bytes : List Byte} {b : Byte} (hpm : tabWf PmSlot.idle s.hrw.pm = true)
    (hreq : tabWf 0 (tget PmSlot.idle n s.hrw.pm).req = true) (hbusy : (tget PmSlot.idle n s.hrw.pm).busy = false)
    (hb : bytes[i]? = some b) : tget 0 (off + i) (tget PmSlot.idle n (pmReqWrite n off bytes s).hrw.pm).req = b := by
  simp only [pmReqWrite, hbusy, Bool.false_eq_true, if_false, onHrw_hrw]
  rw [tget_tput_self hpm, List.range_eq_range']
  have h := tget_writeBytes (off := off) (k := 0) hreq hb
  rwa [Nat.zero_add] at h

theorem beginWake_waking : (beginWake s).pwr.waking = some s.time.osc := by
  have h : (beginWake s).pwr = _ := (touches_when touches_emit).pwr (by decide)
  rw [h]
  rfl

/-! ## Offsets -/

theorem pmOffset_slot {o : Nat} (hn : n < 4) (ho : o < 0x200) : pmOffset (0x400 + 0x200 * n + o) = some (n, o) := by
  have hslot : (0x400 + 0x200 * n + o - 0x400) / 0x200 = n := by omega
  have hoff : (0x400 + 0x200 * n + o - 0x400) % 0x200 = o := by omega
  exact (if_pos (by omega)).trans (by rw [hslot, hoff])

/-- A 32-bit write at an offset in a PM slot. -/
theorem exec_hrwSlot {o : Nat} {v : Word32} (hn : n < 4) (ho : o < 0x200) :
    exec (.hrwRegisterWrite (0x400 + 0x200 * n + o) priv part 0 (v.setWidth 64) 0) s
      = run (hrwPm n o priv part 0 (v.setWidth 64)) s := by
  change execHrwRegisterWrite (0x400 + 0x200 * n + o) priv part 0 (v.setWidth 64) 0 s = _
  rw [execHrwRegisterWrite, pmOffset_slot hn ho]

/-- A 32-bit write at an offset outside the PM slots, `WAKE_CTL` and `TM_DB`. -/
theorem exec_hrwWord {off : Nat} {v : Word32} (haon : s.rst.aonOk = true) (hu : hrwUp s = true) (hp : priv ≠ 0)
    (ho : pmOffset off = none) (hw : off ≠ 0x060) (ht : off ≠ 0x100) :
    exec (.hrwRegisterWrite off priv part 0 (v.setWidth 64) 0) s = .next (hrwWord off v s) := by
  change execHrwRegisterWrite off priv part 0 (v.setWidth 64) 0 s = _
  rw [execHrwRegisterWrite, ho]
  refine (run_powered haon).trans (congrArg _ ?_)
  simp only [hw, ht, if_false, hrwPlain, hrwWriteS_up hu hp, ofNat_setWidth]
  rfl

end RegisterWindow

/-- Settles O24: each access runs its register's row. -/
theorem registerAccessesComplete : Obligations.RegisterAccessesComplete := by
  unfold Obligations.RegisterAccessesComplete
  refine ⟨?_, ?_, ?_, ?_, ?_, ?_, ?_, ?_, ?_, ?_, ?_, ?_, ?_, ?_, ?_, ?_, ?_, ?_⟩
  · intro n priv part v s haon hu hp hv hb
    refine ⟨_, (run_powered haon : execPmDoorbell n priv part v s = _), ?_⟩
    rw [pmWrite_up hu hp, ringPm, if_neg (odd_of_bit hv), if_neg (by simp [hb])]
    refine ⟨?_, rfl⟩
    have hne : ({ tget PmSlot.idle n s.hrw.pm with busy := true } : PmSlot) ≠ PmSlot.idle := fun h => by
      have : true = PmSlot.idle.busy := congrArg (·.busy) h
      revert this
      decide
    exact congrArg (·.busy) (tget_tput_ne hne)
  · intro n priv part v s haon hu hp hv hb
    refine (run_powered haon : execPmDoorbell n priv part v s = _).trans ?_
    rw [pmWrite_up hu hp, ringPm, if_neg (odd_of_bit hv), if_pos hb]
    rfl
  · intro n priv v s haon hu hp hv hwf hd hh
    refine ⟨_, (run_powered haon : execPmDoneClear n priv v s = _), ?_⟩
    rw [hrwWriteS_up hu hp]
    simp only [clearDone, bitOf_toNat, hv, hd, hh, Bool.not_true, Bool.or_self, Bool.false_eq_true, if_false, onHrw_hrw]
    rw [tget_tput_self hwf]
  · intro n priv v m rest s haon hu hp hv hd hh
    refine ⟨_, (run_powered haon : execPmDoneClear n priv v s = _), ?_⟩
    rw [hrwWriteS_up hu hp]
    have hbit : (!bitOf v.toNat 1 || !(tget PmSlot.idle n s.hrw.pm).done) = false := by rw [bitOf_toNat, hv, hd]; rfl
    simp only [clearDone, hbit, hh, Bool.false_eq_true, if_false, raiseInt_pm, onHrw_hrw]
    have hne : ({ tget PmSlot.idle n s.hrw.pm with rsp := some m, held := rest } : PmSlot) ≠ PmSlot.idle := fun h => by
      have : true = PmSlot.idle.done := hd.symm.trans (congrArg (·.done) h)
      revert this
      decide
    rw [tget_tput_ne hne]
    exact ⟨rfl, hd, rfl⟩
  · intro priv part v h s haon hu hk hl
    refine (run_powered haon : execTmDb priv part 1 v h s = _).trans ?_
    rw [writeTmDb_up hu, ringTenant, if_neg (by omega), if_pos hl]
  · intro priv part v h s haon hu hk hl
    refine ⟨_, (run_powered haon : execTmDb priv part 1 v h s = _), ?_⟩
    rw [writeTmDb_up hu, ringTenant, if_neg (by omega), if_neg (by omega)]
    exact ⟨rfl, tget_tput_ne (Nat.succ_ne_zero _), rfl⟩
  · intro priv s haon hu
    exact ⟨_, run_when haon (by simpa using hu), rfl, rfl⟩
  · intro priv v s haon hu hp
    refine (run_powered haon : execIntStsClear priv v s = _).trans ?_
    rw [hrwWriteS_up hu hp]
  · intro priv v s haon hpark hp hv hno hw hc
    refine ⟨_, (run_powered haon : execWakeCtlWrite priv v s = _), ?_⟩
    simp only [writeWakeCtl, hpark, Bool.not_true, Bool.false_and, Bool.false_eq_true, if_false, hp, hv, when, if_true,
      wakeRequest, hno, hw, hc, Option.isSome_none, Option.isNone_none, Bool.and_self, beginWake_waking]
  · intro priv v d s haon hu hp h2 h12 hv hon hb hq hr
    refine ⟨_, (run_powered haon : execEngRstWrite priv v s = _), ?_⟩
    rw [hrwWriteS_up hu hp]
    refine resetting_engRstBits (by omega) (List.mem_filter.mpr ⟨?_, hv⟩) ⟨hon, hb, hq, hr⟩
    interval_cases d <;> decide
  · intro priv v s haon hu hp hv hr
    refine (run_powered haon : execBootDb priv v s = _).trans ?_
    rw [hrwWriteS_up hu hp, ringBoot, when, if_pos (by simp [hv, hr])]
  · intro priv part v s haon hu hp
    have row : ∀ off, pmOffset off = none → off ≠ 0x060 → off ≠ 0x100 →
        exec (.hrwRegisterWrite off priv part 0 (v.setWidth 64) 0) s = .next (hrwWord off v s) :=
      fun _ => exec_hrwWord haon hu hp
    exact ⟨row 0x044 rfl (by decide) (by decide), row 0x048 rfl (by decide) (by decide), row 0x0C0 rfl (by decide) (by decide),
      row 0x0C4 rfl (by decide) (by decide), row 0x0A8 rfl (by decide) (by decide)⟩
  · intro n priv part v s haon hu hp hn
    refine (exec_hrwWord haon hu hp ?_ (by omega) (by omega)).trans ?_
    · rw [pmOffset, if_neg (by omega)]
    · interval_cases n <;> rfl
  · intro priv part v s haon hu hp
    have row : ∀ off, pmOffset off = none → off ≠ 0x060 → off ≠ 0x100 →
        exec (.hrwRegisterWrite off priv part 0 (v.setWidth 64) 0) s = .next (hrwWord off v s) :=
      fun _ => exec_hrwWord haon hu hp
    have alone : ∀ f : State → State, run (hrwWriteS priv f) s = .next (f s) := fun f =>
      (run_powered haon).trans (congrArg _ (hrwWriteS_up hu hp))
    exact ⟨(row 0x040 rfl (by decide) (by decide)).trans (alone _).symm,
      (row 0x080 rfl (by decide) (by decide)).trans (alone _).symm, (row 0x0C8 rfl (by decide) (by decide)).trans (alone _).symm⟩
  · intro priv part v s
    change run (writeWakeCtl priv (BitVec.ofNat 32 (v.setWidth 64).toNat)) s = run (writeWakeCtl priv v) s
    rw [ofNat_setWidth]
  · intro priv part size v h s
    rfl
  · intro n priv part v s hn
    rw [show 0x500 + 0x200 * n = 0x400 + 0x200 * n + 0x100 by omega, show 0x508 + 0x200 * n = 0x400 + 0x200 * n + 0x108 by omega,
      exec_hrwSlot hn (o := 0x100) (by decide), exec_hrwSlot hn (o := 0x108) (by decide)]
    constructor
    · change run (hrwWriteS priv (clearDone n (v.setWidth 64).toNat)) s = _
      rw [toNat_setWidth_word]
      rfl
    · change run (pmWrite priv part (ringPm n (v.setWidth 64).toNat)) s = _
      rw [toNat_setWidth_word]
      rfl
  · intro n o i b priv part v s haon hu hp hn ho hpm hreq hbusy hb
    have hexec : exec (.hrwRegisterWrite (0x400 + 0x200 * n + o) priv part 0 (v.setWidth 64) 0) s
        = .next (pmReqWrite n o (bytesOf v.toNat 4) s) := by
      rw [exec_hrwSlot hn (by omega)]
      refine (run_powered haon).trans ?_
      rw [hrwPm, if_pos ho, pmWrite_up hu hp, toNat_setWidth_word]
      rfl
    exact ⟨_, hexec, tget_pmReqWrite hpm hreq hbusy hb⟩

end Sys2Proof.Machine
end

section
/-!
What the concentrators' fronts do: an edge counted, a word taken, a parity error, a seal, an update of a gauge.
-/

namespace Sys2Proof.Machine

section Fronts

variable {s : State}

/-! ## Tables in their one form -/

theorem mem_tabWf {α : Type} [DecidableEq α] {d v : α} {lo k : Nat} {t : Tab α} (h : tabWfFrom d lo t = true) (hm : (k, v) ∈ t) :
    lo ≤ k ∧ v ≠ d ∧ tget d k t = v := by
  induction t generalizing lo with
  | nil => cases hm
  | cons e t ih =>
    obtain ⟨i, w⟩ := e
    obtain ⟨hi, hw, ht⟩ := tabWfFrom_cons.mp h
    obtain hm | hm := List.mem_cons.mp hm
    · obtain ⟨rfl, rfl⟩ := Prod.mk.inj hm
      exact ⟨hi, hw, by simp [tget]⟩
    · obtain ⟨hk, hv, hg⟩ := ih ht hm
      refine ⟨by omega, hv, ?_⟩
      rw [tget, if_neg (by omega), hg]

/-- A table lists each index once. -/
theorem pairwise_tabWf {α : Type} [DecidableEq α] {d : α} {lo : Nat} {t : Tab α} (h : tabWfFrom d lo t = true) :
    t.Pairwise fun a b => a.1 ≠ b.1 := by
  induction t generalizing lo with
  | nil => exact .nil
  | cons e t ih =>
    obtain ⟨i, w⟩ := e
    obtain ⟨-, -, ht⟩ := tabWfFrom_cons.mp h
    refine .cons (fun b hb => ?_) (ih ht)
    have := (mem_tabWf ht hb).1
    omega

/-! ## An edge -/

theorem accKey_inj {l m : Nat} {h k : Bool} (e : accKey l h = accKey m k) : l = m ∧ h = k := by
  cases h <;> cases k <;> simp [accKey, bnat] at e ⊢ <;> omega

/-- One line's count added to its half. -/
def countLine (half : Bool) (prev now : Lines) (a : Tab Nat) (e : Nat × Word16) : Tab Nat :=
  tmod 0 (accKey e.1 half) (fun n => (n + lineCount e.2 (e.1 % 256) prev now) % 2 ^ 40) a

theorem tget_countLines_other {half : Bool} {prev now : Lines} {es : List (Nat × Word16)} {a : Tab Nat} {j : Nat}
    (hj : ∀ e ∈ es, accKey e.1 half ≠ j) : tget 0 j (es.foldl (countLine half prev now) a) = tget 0 j a := by
  induction es generalizing a with
  | nil => rfl
  | cons e es ih =>
    rw [List.foldl_cons, ih fun x hx => hj x (List.mem_cons_of_mem _ hx)]
    exact tget_tmod_other (Ne.symm (hj e List.mem_cons_self))

theorem tget_countLines {half : Bool} {prev now : Lines} {es : List (Nat × Word16)} {a : Tab Nat} {e : Nat × Word16}
    (ha : tabWf 0 a = true) (hes : es.Pairwise fun a b => a.1 ≠ b.1) (hm : e ∈ es) :
    tget 0 (accKey e.1 half) (es.foldl (countLine half prev now) a)
      = (tget 0 (accKey e.1 half) a + lineCount e.2 (e.1 % 256) prev now) % 2 ^ 40 := by
  induction es generalizing a with
  | nil => cases hm
  | cons x es ih =>
    obtain ⟨hx, hes⟩ := List.pairwise_cons.mp hes
    rw [List.foldl_cons]
    obtain rfl | hm := List.mem_cons.mp hm
    · rw [tget_countLines_other fun y hy h => hx y hy (accKey_inj h).1.symm]
      exact tget_tmod_self ha
    · rw [ih (a := countLine half prev now a x) (tabWf_tmod ha) hes hm, countLine,
        tget_tmod_other fun h => hx e hm (accKey_inj h).1.symm]

/-- What an edge leaves in the halves and the levels. -/
theorem countEdge_smp {c : Nat} {levels : Lines} : (countEdge c levels s).smp =
    { s.smp with
      acc := (s.smp.lines.filter fun e => e.1 / 256 == c).foldl (countLine (conc c s).half (conc c s).levels levels) s.smp.acc
      concs := tmod Conc.start c (fun k => { k with levels := levels }) s.smp.concs } := by
  have hall : ∀ (es : List (Nat × Word16)) (k : Conc) (u : State), (forEach es (fun e => onSmp fun m => { m with
      acc := tmod 0 (accKey e.1 k.half) (fun n => (n + lineCount e.2 (e.1 % 256) k.levels levels) % 2 ^ 40) m.acc }) u).smp
      = { u.smp with acc := es.foldl (countLine k.half k.levels levels) u.smp.acc } := fun es k => by
    induction es with
    | nil => exact fun _ => rfl
    | cons e es ih => exact fun u => ih _
  unfold countEdge
  exact congrArg (fun m : Sampler => { m with concs := tmod Conc.start c (fun k => { k with levels := levels }) m.concs })
    (hall _ _ _)

/-! ## A parity error -/

theorem fenceConc_acc {c : Nat} : (fenceConc c s).smp.acc = s.smp.acc := rfl

theorem joinCds_conc {c a b d : Nat} :
    (joinCds 6 c a b d s).smp.acc = s.smp.acc ∧ (s.fuse.plaza = false → (6, c) ∈ (joinCds 6 c a b d s).pwr.culDeSac) := by
  unfold joinCds
  split
  case isTrue h =>
    refine ⟨rfl, fun hp => ?_⟩
    simpa [hasResource, hp] using h
  case isFalse =>
    have hr : ∀ (k : Nat) (x : State), Touches [.stw, .led, .upl, .hrw, .out] x (raise 0x0A06 k 0 (raiseInt 5 x)) :=
      fun _ _ => Touches.andThen (touches_raiseInt.mono (by decide)) touches_raise (by decide)
    refine ⟨congrArg (·.acc) ((hr _ _).smp (by decide)), fun _ => ?_⟩
    have hin : (6, c) ∈ s.pwr.culDeSac ++ [(6, c)] := List.mem_append_right _ (List.mem_singleton.mpr rfl)
    exact (congrArg (·.culDeSac) ((hr _ _).pwr (by decide))).symm ▸ hin

theorem parityError_acc {c : Nat} : (parityError c s).smp.acc = s.smp.acc := by
  unfold parityError when
  dsimp only
  split
  · exact joinCds_conc.1
  · rfl

theorem mem_parityError {c : Nat} (hp : s.fuse.plaza = false)
    (h : 16 ≤ (recentParity (collectingFrame s) ((conc c s).parity ++ [collectingFrame s])).length) :
    (6, c) ∈ (parityError c s).pwr.culDeSac := by
  unfold parityError
  dsimp only
  rw [when, if_pos (decide_eq_true h)]
  exact joinCds_conc.2 hp

/-! ## Words and seals -/

theorem touches_settleGroup {g : Nat} : Touches [.pwr] s (settleGroup g s) := by
  unfold settleGroup
  exact touches_ite Touches.refl (touches_put .pwr rfl)

theorem turnOn_smp {line : Nat} {half : Bool} : (turnOn line half s).smp.acc = s.smp.acc ∧
    (turnOn line half s).smp.counters = s.smp.counters := by
  unfold turnOn
  dsimp only
  split <;> exact ⟨rfl, rfl⟩

/-- A word reaches every counter that counts its line. -/
theorem mem_ackWord {line n : Nat} {half : Bool} {e : Nat × Counter} (hm : e ∈ s.smp.counters)
    (he : bindEnable e.2.binding = true) (hg : e.2.gone = false) (hc : bindSrcCmp e.2.binding = false)
    (hl : bindSrc e.2.binding = line) :
    (e.1, { e.2 with inc := e.2.inc + n }) ∈ (ackWord line half n s).smp.counters := by
  have hcounts : (ackWord line half n s).smp.counters = s.smp.counters.map (fun e =>
      if bindEnable e.2.binding && !e.2.gone && !bindSrcCmp e.2.binding && bindSrc e.2.binding == line then
        (e.1, { e.2 with inc := e.2.inc + n }) else e) := by
    rw [← (turnOn_smp (s := s) (line := line) (half := half)).2]
    rfl
  rw [hcounts]
  exact List.mem_map.mpr ⟨e, hm, if_pos (by simp [he, hg, hc, hl])⟩

theorem mem_sealConc {c : Nat} {e : Nat × Counter} (hm : e ∈ s.smp.counters) (hb : boundTo c e.2 = true) :
    (e.1, { e.2 with snapInc := some e.2.inc, inc := 0 }) ∈ (sealConc c s).smp.counters :=
  List.mem_map.mpr ⟨e, hm, if_pos hb⟩

theorem conc_sealConc {c : Nat} : conc c (sealConc c s) = { conc c s with sealDue := false, sealed := true } := by
  refine tget_tput_ne fun h => ?_
  have : true = Conc.start.sealed := congrArg (·.sealed) h
  revert this
  decide

theorem conc_onConc {c : Nat} {f : Conc → Conc} (h : tabWf Conc.start s.smp.concs = true) :
    conc c (onConc c f s) = f (conc c s) := tget_tmod_self h

/-! ## Updates of gauges -/

theorem touches_cmpNotice {k : Nat} : Touches [.stw, .led, .upl] s (cmpNotice k s) := by
  unfold cmpNotice
  exact ((touches_when touches_notify).mono (by decide)).andThen (touches_when touches_raise) (by decide)

theorem evaluate_gauges {k v ft : Nat} {signed : Bool} : (evaluate k signed v ft s).smp.gauges = s.smp.gauges := by
  unfold evaluate
  exact congrArg (·.gauges) ((touches_when touches_cmpNotice).smp (by decide))

theorem evalGauge_gauges {g v : Nat} : (evalGauge g v s).smp.gauges = s.smp.gauges := by
  refine forEach_keeps (fun x : State => x.smp.gauges) fun k u => ?_
  unfold when
  split
  · exact evaluate_gauges
  · rfl

theorem gauge_takeUpdate {g v : Nat} : gauge g (onGauge g (takeUpdate v) s) = takeUpdate v (gauge g s) := by
  refine tget_tput_ne fun h => ?_
  have : true = Gauge.idle.updated := congrArg (·.updated) h
  revert this
  decide

end Fronts

/-- Settles O34: the counts of each line, the words and seals of each counter, the update of its gauge. -/
theorem samplerEventsComplete : Obligations.SamplerEventsComplete := by
  unfold Obligations.SamplerEventsComplete
  refine ⟨?_, ?_, ?_, ?_, ?_, ?_⟩
  · intro c levels s haon hsees hlines hacc hconcs
    refine ⟨_, run_when haon hsees, ?_, fun l hl hcfg => ?_, fun l h hout => ?_⟩
    · simp only [conc, countEdge_smp, tget_tmod_self hconcs]
    · have hm : (l, tget 0 l s.smp.lines) ∈ s.smp.lines.filter fun e => e.1 / 256 == c :=
        List.mem_filter.mpr ⟨mem_of_tget hcfg, by simp [hl]⟩
      rw [accOf, countEdge_smp]
      exact tget_countLines hacc ((pairwise_tabWf hlines).filter _) hm
    · rw [accOf, countEdge_smp]
      refine tget_countLines_other fun e he hk => ?_
      obtain ⟨hline, hc⟩ := List.mem_filter.mp he
      obtain ⟨hl, hh⟩ := accKey_inj hk
      obtain ⟨-, hv, hg⟩ := mem_tabWf hlines hline
      obtain h1 | h1 | h1 := hout
      · exact h1 (by simpa [hl] using hc)
      · exact h1 hh.symm
      · exact hv (by rw [← hg, hl, h1])
  · intro line h n s haon hup hsees hword hacc
    refine ⟨_, (run_powered haon : execDrainWord line h n true s = _), ?_⟩
    simp only [hup, hsees, hword, Bool.not_true, Bool.or_self, Bool.false_eq_true, if_false, if_true]
    refine ⟨?_, fun e hm he hg hc hl => mem_ackWord hm he hg hc hl⟩
    have hacc' : (ackWord line h n s).smp.acc = tmod 0 (accKey line h) (· - n) s.smp.acc := by
      rw [← (turnOn_smp (s := s) (line := line) (half := h)).1]
      rfl
    rw [accOf, hacc']
    exact tget_tmod_self hacc
  · intro line h n s haon hup hsees hword
    refine ⟨_, (run_powered haon : execDrainWord line h n false s = _), ?_⟩
    simp only [hup, hsees, hword, Bool.not_true, Bool.or_self, Bool.false_eq_true, if_false]
    have hp : s.fuse.plaza = false := by
      simp only [samplerUp, Bool.and_eq_true, Bool.not_eq_true'] at hup
      exact hup.1.1
    exact ⟨parityError_acc, mem_parityError hp⟩
  · intro c s haon hup hsees hdue hdrained hlate
    refine ⟨_, (run_powered haon : execSealWord c s = _), ?_⟩
    simp only [hup, hsees, hdue, hdrained, hlate, Bool.not_true, Bool.or_self, Bool.false_eq_true, if_false]
    rw [conc, touches_settleGroup.smp (by decide)]
    exact ⟨congrArg (·.sealed) conc_sealConc, congrArg (·.sealDue) conc_sealConc, fun e hm hb => mem_sealConc hm hb⟩
  · intro c s haon hup hsees hdue hdrained hlate hconcs
    refine ⟨_, (run_powered haon : execSealWord c s = _), ?_⟩
    simp only [hup, hsees, hdue, hdrained, hlate, Bool.not_true, Bool.or_self, Bool.false_eq_true, if_false, if_true]
    rw [conc, touches_settleGroup.smp (by decide), touches_settleGroup.grid (by decide)]
    refine ⟨?_, rfl, rfl⟩
    rw [← conc, conc_onConc (s := onGrid _ s) hconcs]
  · intro c i v s haon hsees hi hen hv
    have hg : 64 * c + i % 64 = 64 * c + i := by rw [Nat.mod_eq_of_lt hi]
    refine ⟨_, run_when haon (by rw [hg, hsees, hen]; rfl), ?_⟩
    rw [gauge, evalGauge_gauges, hg, Nat.mod_eq_of_lt hv]
    exact gauge_takeUpdate

end Sys2Proof.Machine
end

section
/-!
Quiet footprints: which parts an operation changes beside what carries requests, answers and reports.
-/

namespace Sys2Proof.Machine

variable {s t u e : State} {l l' : List Part}

/-! ## What answers and reports change -/

/-- The block without what answers, sessions and reports change: `plain` has no requests and answers, this has no notices,
sessions and alerts either, and not the regions that the Steward shrinks. -/
def hush (s : State) : State :=
  { plain s with
    stw := { (plain s).stw with
      notices := [], isolation := [], pmOpen := [], pmNotice := [], sbiOpen := false, dbDrops := [], regions := [] }
    led := { s.led with issued := [], alerts := [], own := [] }
    upl := { (plain s).upl with byp := [], bypDiscarded := 0 }
    sbi := { (plain s).sbi with alerts := [], merged := 0 } }

/-- `t` differs from `s` in the parts of `l`, in reports and in answers alone. -/
def Quiet (l : List Part) (s t : State) : Prop := Touches l (hush s) (hush t)

theorem Part.same_hush {k : Part} (h : k.same s t) : k.same (hush s) (hush t) := by
  cases k
  all_goals
    first
      | exact h
      | exact congrArg (fun x : Steward => (hush { s with stw := x }).stw) h
      | exact congrArg (fun x : Hrw => (hush { s with hrw := x }).hrw) h
      | exact congrArg (fun x : SbiTarget => (hush { s with sbi := x }).sbi) h
      | exact congrArg (fun x : Uplink => (hush { s with upl := x }).upl) h
      | exact congrArg (fun x : Buf => (hush { s with buf := x }).buf) h
      | exact congrArg (fun x : LeafLedger => (hush { s with led := x }).led) h
      | rfl

theorem Touches.quiet (h : Touches l s t) : Quiet l s t := fun k hk => Part.same_hush (h k hk)

theorem Quiet.refl : Quiet l s s := Touches.refl
theorem Quiet.trans (h : Quiet l s t) (h' : Quiet l t u) : Quiet l s u := Touches.trans h h'
theorem Quiet.andThen (h : Quiet l s t) (h' : Quiet l' t u) (hl : ∀ k ∈ l', k ∈ l) : Quiet l s u := Touches.andThen h h' hl
theorem Quiet.mono (h : Quiet l' s t) (hl : ∀ k ∈ l', k ∈ l) : Quiet l s t := Touches.mono h hl

/-- The last change of several, in parts that the footprint has. -/
theorem Quiet.after (h' : Quiet l' t u) (hl : ∀ k ∈ l', k ∈ l) (h : Quiet l s t) : Quiet l s u := h.andThen h' hl

theorem Quiet.of_eq (h : hush t = hush s) : Quiet l s t := by
  unfold Quiet
  rw [h]
  exact Touches.refl

theorem Quiet.of_agree (h : Agree s t) : Quiet l s t :=
  .of_eq (congrArg (fun x => hush x) h : hush (plain t) = hush (plain s))

theorem quiet_ite {c : Prop} [Decidable c] (ht : Quiet l s t) (hu : Quiet l s u) : Quiet l s (if c then t else u) := by
  split
  · exact ht
  · exact hu

theorem quiet_when {b : Bool} {f : State → State} (hf : Quiet l s (f s)) : Quiet l s (when b f s) := quiet_ite hf Quiet.refl

theorem quiet_forEach {α : Type} {xs : List α} {f : α → State → State} (hf : ∀ a s, Quiet l s (f a s)) :
    Quiet l s (forEach xs f s) := by
  unfold forEach
  induction xs generalizing s with
  | nil => exact Quiet.refl
  | cons a xs ih => exact (hf a s).trans ih

/-! ## What a quiet footprint leaves alone -/

section Leaves

variable (h : Quiet l s t)
include h

theorem Quiet.grid (hk : .grid ∉ l) : t.grid = s.grid := h .grid hk
theorem Quiet.time (hk : .time ∉ l) : t.time = s.time := h .time hk
theorem Quiet.fence (hk : .fence ∉ l) : t.fence = s.fence := h .fence hk
theorem Quiet.fuse (hk : .fuse ∉ l) : t.fuse = s.fuse := h .fuse hk
theorem Quiet.rst (hk : .rst ∉ l) : t.rst = s.rst := h .rst hk
theorem Quiet.nv (hk : .nv ∉ l) : t.nv = s.nv := h .nv hk
theorem Quiet.pwr (hk : .pwr ∉ l) : t.pwr = s.pwr := h .pwr hk
theorem Quiet.smp (hk : .smp ∉ l) : t.smp = s.smp := h .smp hk
theorem Quiet.roles (hk : .roles ∉ l) : t.roles = s.roles := h .roles hk
theorem Quiet.place (hk : .place ∉ l) : t.place = s.place := h .place hk
theorem Quiet.conf (hk : .conf ∉ l) : t.conf = s.conf := h .conf hk
theorem Quiet.tree (hk : .tree ∉ l) : t.tree = s.tree := h .tree hk
theorem Quiet.arc (hk : .arc ∉ l) : t.arc = s.arc := h .arc hk
theorem Quiet.dig (hk : .dig ∉ l) : t.dig = s.dig := h .dig hk
theorem Quiet.test (hk : .test ∉ l) : t.test = s.test := h .test hk
theorem Quiet.trc (hk : .trc ∉ l) : t.trc = s.trc := h .trc hk
theorem Quiet.dump (hk : .dump ∉ l) : t.dump = s.dump := h .dump hk
theorem Quiet.jtag (hk : .jtag ∉ l) : t.jtag = s.jtag := h .jtag hk
theorem Quiet.epoch (hk : .epoch ∉ l) : t.epoch = s.epoch := h .epoch hk

/-- Of the Steward, what answers and reports do not change. -/
theorem Quiet.stw {α : Type} (p : Steward → α) (hp : ∀ x : State, p (hush x).stw = p x.stw) (hk : .stw ∉ l) :
    p t.stw = p s.stw :=
  (hp t).symm.trans ((congrArg p (h .stw hk)).trans (hp s))

/-- Of the register file, what answers and reports do not change. -/
theorem Quiet.hrw {α : Type} (p : Hrw → α) (hp : ∀ x : State, p (hush x).hrw = p x.hrw) (hk : .hrw ∉ l) :
    p t.hrw = p s.hrw :=
  (hp t).symm.trans ((congrArg p (h .hrw hk)).trans (hp s))

/-- Of the scheduler, what answers and reports do not change. -/
theorem Quiet.upl {α : Type} (p : Uplink → α) (hp : ∀ x : State, p (hush x).upl = p x.upl) (hk : .upl ∉ l) :
    p t.upl = p s.upl :=
  (hp t).symm.trans ((congrArg p (h .upl hk)).trans (hp s))

/-- Of the Ledger, what answers and reports do not change. -/
theorem Quiet.led {α : Type} (p : LeafLedger → α) (hp : ∀ x : State, p (hush x).led = p x.led) (hk : .led ∉ l) :
    p t.led = p s.led :=
  (hp t).symm.trans ((congrArg p (h .led hk)).trans (hp s))

end Leaves

/-! ## Reports, notices and answers -/

theorem quiet_emit {o : Out} : Quiet l s (emit o s) := .of_eq rfl

theorem quiet_notify {x : NoticeSubject} {p cmd : Nat} {pl : List Fld} : Quiet l s (notify x p cmd pl s) := by
  unfold notify
  exact quiet_ite (.of_eq rfl) (.of_eq rfl)

theorem quiet_raiseAt {code subject detail ft : Nat} : Quiet l s (raiseAt code subject detail ft s) := by
  have hbyp : ∀ (a : AlertEntry) (x : State), Quiet l x (bypQueue a x) := fun a x => by
    unfold bypQueue
    exact quiet_ite (.of_eq rfl) (.of_eq rfl)
  unfold raiseAt
  dsimp only
  split
  · exact .of_eq rfl
  · refine Quiet.trans (Quiet.trans ?_ (hbyp _ _)) quiet_notify
    exact .of_eq rfl

theorem quiet_raise {code subject detail : Nat} : Quiet l s (raise code subject detail s) := quiet_raiseAt

theorem quiet_raiseInt {bit : Nat} : Quiet l s (raiseInt bit s) := .of_agree (agree_raiseInt rfl)

theorem quiet_raiseSbi {code subject detail ft : Nat} : Quiet l s (raiseSbi code subject detail ft s) := by
  have halert : ∀ (r : Report) (x : State), Quiet l x (sbiAlert r x) := fun r x => by
    unfold sbiAlert raiseIbi
    refine quiet_ite (Quiet.trans ?_ (quiet_when quiet_emit)) (.of_eq rfl)
    exact .of_eq rfl
  exact Quiet.trans quiet_raiseAt (halert _ _)

theorem quiet_descDone {n fill st : Nat} {d : Desc} {x : Bool} : Quiet l s (descDone n d fill st x s) :=
  Quiet.trans quiet_emit (quiet_when quiet_notify)

theorem quiet_completeWhere {f : Work → Bool} {st : Nat} {p : List Fld} : Quiet l s (completeWhere f st p s) :=
  .of_agree (agree_completeWhere rfl)

theorem quiet_complete {w : Work} {st : Nat} {p : List Fld} : Quiet l s (complete w st p s) := quiet_completeWhere

theorem quiet_bufIssue {p : Nat} {x : BufUse} {o : Out} : Quiet l s (bufIssue p x o s) := .of_agree (agree_bufIssue rfl)

theorem quiet_sendControl {src dst tag bytes : Nat} {o : Out} : Quiet l s (sendControl src dst tag bytes o s) := .of_eq rfl

theorem quiet_raiseForJob {code subject job : Nat} : Quiet l s (raiseForJob code subject job s) :=
  Quiet.trans quiet_raise (quiet_when quiet_notify)

/-! ## Sessions that close -/

theorem quiet_ringPost {k : Nat} {m : Msg} : Quiet l s (ringPost k m s) := .of_agree (agree_ringPost rfl)

theorem quiet_orphanWork {i : Issuer} : Quiet l s (orphanWork i s) := .of_eq rfl

theorem quiet_closeSlot {k : Nat} {r : Option Nat} : Quiet l s (closeSlot k r s) := by
  have hclear : ∀ (a : Tab Slot) (b : Tab Nat) (x : State), Quiet l x { x with stw := { x.stw with slots := a, dbDrops := b } } :=
    fun _ _ _ => .of_eq rfl
  unfold closeSlot
  refine quiet_ite Quiet.refl ?_
  dsimp only
  refine Quiet.trans ?_ (hclear _ _ _)
  exact quiet_ite (Quiet.trans quiet_orphanWork quiet_ringPost) quiet_orphanWork

theorem quiet_closePm {n : Nat} {r : Option Nat} : Quiet l s (closePm n r s) := by
  unfold closePm
  refine quiet_ite Quiet.refl ?_
  cases r with
  | none => exact .of_eq rfl
  | some r => exact Quiet.trans (.of_agree (agree_pmPost (agree_orphanWork rfl))) (.of_eq rfl)

theorem quiet_closeSbi {r : Option Nat} : Quiet l s (closeSbi r s) := by
  unfold closeSbi
  refine quiet_ite Quiet.refl ?_
  cases r with
  | none => exact .of_eq rfl
  | some r => exact Quiet.trans (.of_agree (agree_sbiPost (agree_orphanWork rfl))) (.of_eq rfl)

theorem quiet_closeAll {reason : Nat} : Quiet l s (closeAll reason s) :=
  Quiet.trans (Quiet.trans (quiet_forEach fun _ _ => quiet_closeSlot) (quiet_forEach fun _ _ => quiet_closePm)) quiet_closeSbi

/-! ## Chains -/

theorem touches_chainDrop {n : Nat} : Touches [.buf] s (chainDrop n s) := touches_put .buf rfl

theorem quiet_chainClose {n : Nat} : Quiet [.buf] s (chainClose n s) := by
  unfold chainClose
  dsimp only
  split
  · exact Quiet.refl
  · exact touches_onChain.quiet.trans quiet_bufIssue

theorem quiet_chainWrite {n bytes : Nat} {d : BufData} : Quiet [.buf] s (chainWrite n bytes d s) := by
  unfold chainWrite
  dsimp only
  split
  · exact quiet_ite (touches_onChain.quiet.trans quiet_bufIssue) (quiet_chainClose.trans touches_onChain.quiet)
  · exact quiet_ite touches_onChain.quiet touches_onChain.quiet

theorem quiet_chainWithdraw {n : Nat} : Quiet [.buf] s (chainWithdraw n s) := by
  unfold chainWithdraw
  dsimp only
  split
  · exact quiet_descDone.trans touches_chainDrop.quiet
  · exact quiet_ite (quiet_descDone.trans touches_chainDrop.quiet) touches_onChain.quiet
  · exact touches_chainDrop.quiet

theorem quiet_isolation {p : Nat} : Quiet l s (onStw (fun t => { t with isolation := tmod 0 p (· + 1) t.isolation }) s) :=
  .of_eq rfl

theorem touches_onBuf {f : Buf → Buf} : Touches [.buf] s (onBuf f s) := touches_put .buf rfl

theorem quiet_dropForeign {p : Nat} : Quiet [.buf] s (dropForeign p s) := by
  refine Quiet.trans (Quiet.trans ?_ quiet_isolation) quiet_raise
  exact touches_onBuf.quiet

/-! ## The Arcade, records and scores -/

theorem quiet_arcIngest {log : Nat} {x : ArcEntry} : Quiet [.arc] s (arcIngest log x s) := by
  have hout : ∀ {a b : State}, Touches [.arc, .out] a b → Quiet [.arc] a b := fun h k hk => by
    by_cases ho : k = .out
    · rw [ho]
      rfl
    · exact Part.same_hush (h k (by simp_all))
  unfold arcIngest
  refine quiet_ite Quiet.refl (quiet_ite ?_ (quiet_ite touches_onArc.quiet ?_))
  · exact touches_onArc.quiet.trans quiet_raise
  · exact hout (arcOnly_onArc.trans arcOnly_arcWrite).1

theorem touches_enqueueRecord {cls src dst rtag rseq rlen : Nat} {b : Bool} {bs : List Block} {o : Out} :
    Touches [.upl] s (enqueueRecord cls src dst rtag rseq rlen b bs o s) := touches_put .upl rfl

theorem quiet_dumpUp {d : Dump} : Quiet [.arc, .upl] s (dumpUp d s) :=
  (quiet_arcIngest.mono (by decide)).trans (quiet_forEach fun _ _ => touches_enqueueRecord.quiet.mono (by decide))

theorem quiet_deliverAuto : Quiet [.arc, .upl, .dump] s (deliverAuto s) := by
  unfold deliverAuto
  split
  · exact quiet_ite (((touches_put .dump rfl).quiet.mono (by decide)).andThen quiet_dumpUp (by decide)) Quiet.refl
  · exact Quiet.refl

theorem touches_onTree {f : Trees → Trees} : Touches [.tree] s (onTree f s) := touches_put .tree rfl

theorem touches_keepScore {x : ScoreEntry} : Touches [.tree] s (keepScore x s) := by
  unfold keepScore
  dsimp only
  exact touches_ite touches_onTree (touches_onTree.trans touches_onTree)

theorem quiet_sendScores {k : Option RoleKind} {es : List ScoreEntry} : Quiet [.arc, .upl, .tree] s (sendScores k es s) := by
  unfold sendScores
  dsimp only
  refine Quiet.trans ?_ (quiet_forEach fun _ _ => touches_enqueueSeries.quiet.mono (by decide))
  refine Quiet.trans ?_ (quiet_when (quiet_arcIngest.mono (by decide)))
  exact touches_onTree.quiet.mono (by decide)

theorem quiet_finishScore {k : Option RoleKind} {x : ScoreEntry} : Quiet [.arc, .upl, .tree] s (finishScore k x s) :=
  Quiet.trans ((touches_onTree.trans touches_keepScore).quiet.mono (by decide)) quiet_sendScores

theorem quiet_failScore {k : Option RoleKind} {i : TreeImage} {die frame frameEnd : Nat} {f : BitVec 16} :
    Quiet [.arc, .upl, .tree] s (failScore k i die frame frameEnd f s) := quiet_finishScore

/-! ## Trace -/

theorem touches_onSource {n : Nat} {f : Source → Source} : Touches [.trc] s (onSource n f s) := touches_put .trc rfl

theorem touches_stageBlock {fuel src cls : Nat} {b : Block} : Touches [.trc] s (stageBlock fuel src cls b s) := by
  induction fuel generalizing s with
  | zero => exact touches_onSource
  | succ fuel ih =>
    unfold stageBlock
    refine touches_ite (touches_put .trc rfl) (touches_ite touches_onSource ?_)
    exact Touches.trans (touches_onSource.trans (touches_put .trc rfl)) ih

theorem quiet_chainBlock {src : Nat} {b : Block} : Quiet [.trc, .buf] s (chainBlock src b s) := by
  unfold chainBlock
  dsimp only
  split
  · exact touches_onSource.quiet.mono (by decide)
  · refine quiet_ite (quiet_dropForeign.mono (by decide)) (quiet_ite (quiet_chainWrite.mono (by decide)) ?_)
    exact touches_onSource.quiet.mono (by decide)

theorem quiet_emitTraceBlock {src : Nat} {b : Bool} : Quiet [.trc, .buf] s (emitTraceBlock src b s) := by
  unfold emitTraceBlock
  refine quiet_ite Quiet.refl ?_
  dsimp only
  refine .after (quiet_when touches_stageBlock.quiet) (by decide) (.trans ?_ (quiet_when quiet_chainBlock))
  exact touches_onSource.quiet.mono (by decide)

theorem quiet_flushTrace : Quiet [.trc, .buf] s (flushTrace s) := quiet_forEach fun _ _ => quiet_emitTraceBlock

theorem touches_endGrants : Touches [.nv, .trc] s (endGrants s) :=
  touches_forEach fun _ _ => ((touches_put .trc rfl).mono (by decide)).andThen touches_nvPush (by decide)

/-! ## Field test and queries -/

theorem touches_onTest {f : Tests → Tests} : Touches [.test] s (onTest f s) := touches_put .test rfl

theorem quiet_abortRun : Quiet [.test] s (abortRun s) := by
  unfold abortRun endRun
  split
  · exact Quiet.refl
  · refine .trans ?_ quiet_raise
    refine .trans (.trans (.trans ?_ quiet_emit) touches_onTest.quiet) touches_onTest.quiet
    exact touches_onTest.quiet

theorem abortRun_run : (abortRun s).test.run = none := by
  unfold abortRun endRun
  split
  · assumption
  · exact congrArg (·.run) (quiet_raise (l := []).test (by decide))

theorem quiet_stopQueries {flag : Nat} {b : Bool} : Quiet [.arc, .buf, .free] s (stopQueries flag b s) := by
  refine quiet_forEach fun _ x k hk => ?_
  by_cases ho : k = .out
  · rw [ho]
    rfl
  · exact Part.same_hush (touches_endQuery k (by simp_all))

end Sys2Proof.Machine
end

section
/-!
The resets: what each operation of a reset, of a release and of a wake can change.
-/

namespace Sys2Proof.Machine

variable {s t u : State} {l l' : List Part}

/-! ## One-part changes -/

theorem touches_onGrid {f : Grid → Grid} : Touches [.grid] s (onGrid f s) := touches_put .grid rfl
theorem touches_onNv {f : NvLog → NvLog} : Touches [.nv] s (onNv f s) := touches_put .nv rfl
theorem touches_onRst {f : ResetCtl → ResetCtl} : Touches [.rst] s (onRst f s) := touches_put .rst rfl
theorem touches_onHrw {f : Hrw → Hrw} : Touches [.hrw] s (onHrw f s) := touches_put .hrw rfl
theorem touches_onStw {f : Steward → Steward} : Touches [.stw] s (onStw f s) := touches_put .stw rfl
theorem touches_onPwr {f : Power → Power} : Touches [.pwr] s (onPwr f s) := touches_put .pwr rfl
theorem touches_onSmp {f : Sampler → Sampler} : Touches [.smp] s (onSmp f s) := touches_put .smp rfl
theorem touches_onPlace {f : Place → Place} : Touches [.place] s (onPlace f s) := touches_put .place rfl
theorem touches_onDig {f : Digests → Digests} : Touches [.dig] s (onDig f s) := touches_put .dig rfl
theorem touches_onUpl {f : Uplink → Uplink} : Touches [.upl] s (onUpl f s) := touches_put .upl rfl
theorem touches_onDump {f : Dumps → Dumps} : Touches [.dump] s (onDump f s) := touches_put .dump rfl

theorem Touches.after (h' : Touches l' t u) (hl : ∀ k ∈ l', k ∈ l) (h : Touches l s t) : Touches l s u := h.andThen h' hl

/-! ## The logic of one engine -/

theorem touches_loseFrames {b : Bool} : Touches [.grid, .smp] s (loseFrames b s) := by
  refine .after touches_onGrid (by decide) ?_
  exact touches_when (touches_onSmp.mono (by decide))

theorem touches_resetDrift {b : Bool} : Touches [.conf, .free] s (resetDrift b s) := by
  unfold resetDrift
  refine touches_ite Touches.refl ?_
  have hdraw : Touches [.conf, .free] s (draw s).2 := (touches_put .free rfl).mono (by decide)
  revert hdraw
  generalize draw s = x
  obtain ⟨k, x⟩ := x
  intro hdraw
  dsimp only
  split
  · exact hdraw
  · exact hdraw.andThen touches_onConf (by decide)

theorem quiet_resetTree : Quiet [.arc, .upl, .tree] s (resetTree s) := by
  unfold resetTree
  refine .trans ?_ (quiet_forEach fun v x => ?_)
  · exact touches_onTree.quiet.mono (by decide)
  · split
    · exact Quiet.refl
    · exact quiet_ite (quiet_when quiet_failScore) (quiet_when quiet_failScore)

theorem touches_resetTrace : Touches [.trc] s (resetTrace s) := by
  refine .trans ?_ touches_onTrc
  exact touches_onTrc

/-- The parts that the logic of an engine keeps its work in. -/
abbrev logicParts : List Part := [.grid, .smp, .roles, .conf, .free, .arc, .upl, .tree, .dig, .trc, .buf]

theorem quiet_resetLogic {d : Nat} {b : Bool} : Quiet logicParts s (resetLogic d b s) := by
  unfold resetLogic
  split
  · exact quiet_ite Quiet.refl (touches_loseFrames.quiet.mono (by decide))
  · exact (touches_put .roles rfl).quiet.mono (by decide)
  · exact touches_resetDrift.quiet.mono (by decide)
  · exact quiet_resetTree.mono (by decide)
  · exact touches_onDig.quiet.mono (by decide)
  · exact touches_resetTrace.quiet.mono (by decide)
  · exact quiet_stopQueries.mono (by decide)
  · exact Quiet.refl

/-! ## Memory groups -/

theorem quiet_resizeRegion {n : RegionName} {k : Nat} : Quiet l s (resizeRegion n k s) := .of_eq rfl

theorem quiet_shrinkGroup : Quiet [.place, .tree, .conf] s (shrinkGroup s) := by
  unfold shrinkGroup
  refine quiet_ite ?_ ?_
  · unfold shrinkPlaza
    exact quiet_ite Quiet.refl (quiet_ite (touches_onPlace.quiet.mono (by decide)) quiet_emit)
  · unfold shrinkLeaf
    dsimp only
    have hslots : ∀ k x, Quiet [.tree] x (dropSlots (resizeRegion .nodes k x)) := fun k x => by
      refine .after touches_onTree.quiet (by decide) ?_
      exact quiet_resizeRegion
    have hseries : ∀ k x, Quiet [.conf] x (dropSeries (resizeRegion .series k x)) := fun k x => by
      refine .after touches_onConf.quiet (by decide) ?_
      exact quiet_resizeRegion
    refine .after (quiet_ite (hseries _ _) Quiet.refl) (by decide) ?_
    refine .after (quiet_ite (hslots _ _) Quiet.refl) (by decide) ?_
    exact quiet_resizeRegion

/-- What the end of a move changes of the power state: the move itself, and a switch-off that it was for. -/
theorem endMove_pwr {g : Nat} {off : Bool} : (endMove g off s).pwr =
    { s.pwr with moving := (endMove g off s).pwr.moving, settling := (endMove g off s).pwr.settling
                 isolated := (endMove g off s).pwr.isolated } := by
  unfold endMove
  split
  · rfl
  · rw [quiet_shrinkGroup.pwr (by decide)]
    rfl

theorem quiet_endMove {g : Nat} {off : Bool} : Quiet [.pwr, .place, .tree, .conf] s (endMove g off s) := by
  unfold endMove
  refine quiet_ite ?_ ?_
  · exact (touches_onPwr.trans touches_onPwr).quiet.mono (by decide)
  · refine .after quiet_shrinkGroup (by decide) ?_
    exact touches_onPwr.quiet.mono (by decide)

theorem quiet_holdDomains : Quiet [.pwr, .place, .tree, .conf] s (holdDomains s) := by
  refine .after touches_onPwr.quiet (by decide) ?_
  exact quiet_forEach fun _ _ => quiet_endMove

theorem holdDomains_forced : (holdDomains s).pwr.dravaForced = s.pwr.dravaForced :=
  forEach_keeps (fun x : State => x.pwr.dravaForced) fun _ _ => by rw [endMove_pwr]

/-! ## The Steward's image -/

theorem quiet_revertTrial : Quiet [.nv, .stw] s (revertTrial s) := by
  unfold revertTrial
  refine quiet_ite Quiet.refl ?_
  refine .trans (.trans (.after touches_nvPush.quiet (by decide) ?_) quiet_raiseInt) quiet_raise
  exact touches_onStw.quiet.mono (by decide)

theorem quiet_toCommitted : Quiet [.nv, .stw] s (toCommitted s) :=
  quiet_revertTrial.andThen touches_onStw.quiet (by decide)

/-! ## A whole-block reset -/

/-- The parts that a reset clears. -/
abbrev resetParts : List Part :=
  [.grid, .nv, .hrw, .stw, .pwr, .smp, .roles, .place, .conf, .tree, .arc, .dig, .test, .trc, .upl, .buf, .dump, .free]

theorem quiet_resetEngines : Quiet logicParts s (resetEngines s) := by
  refine .after (touches_onArc.trans (touches_onArc.trans touches_onArc)).quiet (by decide) ?_
  refine .after touches_onUpl.quiet (by decide) (.after touches_onBuf.quiet (by decide) ?_)
  refine .trans ?_ (quiet_forEach fun _ _ => quiet_resetLogic)
  exact touches_loseFrames.quiet.mono (by decide)

theorem quiet_stopWork : Quiet [.hrw, .nv, .trc, .test] s (abortRun (endGrants (resetRegs s))) := by
  refine .after quiet_abortRun (by decide) (.after touches_endGrants.quiet (by decide) ?_)
  exact touches_onHrw.quiet.mono (by decide)

theorem quiet_enterReset : Quiet resetParts s (enterReset s) := by
  unfold enterReset
  extract_lets s₁ s₂ s₃ s₄ s₅ s₆ s₇
  refine .after touches_onSmp.quiet (by decide) ?_
  refine .after touches_onStw.quiet (by decide) ?_
  refine .after touches_onDump.quiet (by decide) ?_
  refine .after touches_onHrw.quiet (by decide) ?_
  refine .after quiet_holdDomains (by decide) (.after quiet_resetEngines (by decide) ?_)
  refine .trans (.trans ?_ quiet_completeWhere) quiet_closeAll
  exact quiet_stopWork.mono (by decide)

/-- A group that has fallen back to Drava stays so through a reset. -/
theorem enterReset_forced : (enterReset s).pwr.dravaForced = s.pwr.dravaForced := by
  unfold enterReset
  extract_lets s₁ s₂ s₃ s₄ s₅ s₆ s₇
  have hbefore : Quiet [.hrw, .nv, .trc, .test, .grid, .smp, .roles, .conf, .free, .arc, .upl, .tree, .dig, .buf] s s₃ := by
    refine .after quiet_resetEngines (by decide) (.trans (.trans ?_ quiet_completeWhere) quiet_closeAll)
    exact quiet_stopWork.mono (by decide)
  have hhold : s₄.pwr.dravaForced = s₃.pwr.dravaForced := holdDomains_forced
  exact hhold.trans (congrArg (·.dravaForced) (hbefore.pwr (by decide)))

/-- A block that sources have put into a whole-block reset. -/
structure InReset (cs : List Nat) (s t : State) : Prop where
  active : t.rst.active = true
  applied : t.rst.applied = s.rst.applied ++ cs
  pending : t.rst.pending = s.rst.pending
  pinLow : t.rst.pinLow = s.rst.pinLow
  softwareDue : t.rst.softwareDue = none
  coreOk : t.rst.coreOk = (s.rst.coreOk && !cs.contains srcBrownOut)
  forced : t.pwr.dravaForced = s.pwr.dravaForced

theorem countSources_rst {cs : List Nat} : (forEach cs countSource s).rst =
    { s.rst with counts := (forEach cs countSource s).rst.counts } := by
  unfold forEach
  induction cs generalizing s with
  | nil => rfl
  | cons c cs ih => exact ih

theorem touches_countSource {c : Nat} : Touches [.rst] s (countSource c s) := touches_onRst

theorem inReset_applyWhole {cs : List Nat} : InReset cs s (applyWhole cs s) := by
  have hin : ∀ x : State, x = (if s.rst.active then s else enterReset s) → x.rst = s.rst ∧ x.pwr.dravaForced = s.pwr.dravaForced := by
    intro x hx
    rw [hx]
    split
    · exact ⟨rfl, rfl⟩
    · exact ⟨quiet_enterReset.rst (by decide), enterReset_forced⟩
  have hafter : ∀ (b c : Bool) (x : State), Quiet [.buf, .nv, .stw] x
      (when c toCommitted (when b (onBuf fun b => { b with ops := [] }) x)) := fun b c x => by
    refine .after (quiet_when quiet_toCommitted) (by decide) (quiet_when (touches_onBuf.quiet.mono (by decide)))
  obtain ⟨hrst, hforced⟩ := hin _ rfl
  have hall : (applyWhole cs s).rst = { s.rst with
      counts := (applyWhole cs s).rst.counts
      active := true, applied := s.rst.applied ++ cs, last := listMin 0 (s.rst.applied ++ cs), softwareDue := none
      coreOk := s.rst.coreOk && !cs.contains srcBrownOut } := by
    unfold applyWhole
    dsimp only [onRst]
    rw [(hafter _ _ _).rst (by decide), countSources_rst, hrst]
  have hpwr : (applyWhole cs s).pwr.dravaForced = s.pwr.dravaForced := by
    unfold applyWhole
    dsimp only [onRst]
    rw [(hafter _ _ _).pwr (by decide), (touches_forEach fun _ _ => touches_countSource).pwr (by decide), hforced]
  exact ⟨by rw [hall], by rw [hall], by rw [hall], by rw [hall], by rw [hall], by rw [hall], hpwr⟩

theorem quiet_applyWhole {cs : List Nat} : Quiet (.rst :: resetParts) s (applyWhole cs s) := by
  refine .after touches_onRst.quiet (by decide) (.after (quiet_when quiet_toCommitted) (by decide) ?_)
  refine .after (quiet_when touches_onBuf.quiet) (by decide) ?_
  refine .after (quiet_forEach fun _ _ => touches_countSource.quiet) (by decide) ?_
  exact quiet_ite Quiet.refl (quiet_enterReset.mono (by decide))

/-! ## A lock-up -/

theorem quiet_lockupReset : Quiet [.rst, .hrw, .nv, .trc, .test, .stw] s (lockupReset s) := by
  unfold lockupReset
  extract_lets trial s₁ s₂ s₃ s₄
  refine .trans (.after touches_onStw.quiet (by decide) ?_) quiet_raise
  refine .trans (.after quiet_toCommitted (by decide) ?_) (quiet_when quiet_closeAll)
  refine .trans (.after quiet_stopWork (by decide) ?_) quiet_completeWhere
  exact (touches_countSource.trans touches_onRst).quiet.mono (by decide)

theorem quiet_applySources {cs : List Nat} : Quiet (.rst :: resetParts) s (applySources cs s) := by
  unfold applySources
  exact quiet_ite Quiet.refl (quiet_ite (quiet_lockupReset.mono (by decide)) quiet_applyWhole)

theorem quiet_raiseSource {c : Nat} : Quiet (.rst :: resetParts) s (raiseSource c s) := by
  unfold raiseSource
  refine quiet_ite (touches_onRst.quiet.mono (by decide)) ?_
  refine .trans ?_ quiet_applySources
  exact touches_onRst.quiet.mono (by decide)

/-- Sources of which one is no lock-up put the whole block into reset. -/
theorem inReset_applySources {c : Nat} {cs : List Nat} (hm : c ∈ cs) (hc : c ≠ srcLockup) : InReset cs s (applySources cs s) := by
  have hne : cs.isEmpty = false := by
    cases cs
    · cases hm
    · rfl
  have hall : (cs.all fun c => c == srcLockup) = false := by
    rw [List.all_eq_false]
    exact ⟨c, hm, by simpa using hc⟩
  unfold applySources
  rw [hne, hall]
  exact inReset_applyWhole

/-- A source that no pulse holds puts the block into reset with what is held. -/
theorem inReset_raiseSource {c : Nat} (hc : c ≠ srcLockup) (hfree : s.nv.pulse = false ∨ c = srcBrownOut) :
    ∃ w, InReset (s.rst.pending ++ [c] ++ w) (onRst (fun r => { r with pending := [] }) s) (raiseSource c s) := by
  have hgo : ¬ (s.nv.pulse && c != srcBrownOut) = true := by
    obtain h | h := hfree <;> simp [h]
  refine ⟨if c = srcLockup then [] else (s.dump.awaiting.filter fun x => !x.1).map (·.2), ?_⟩
  unfold raiseSource
  rw [if_neg hgo]
  exact inReset_applySources (List.mem_append_left _ (List.mem_append_right _ (List.mem_singleton.mpr rfl))) hc

/-- A source that a pulse holds waits behind it. -/
theorem raiseSource_held {c : Nat} (hc : c ≠ srcBrownOut) (hp : s.nv.pulse = true) :
    raiseSource c s = onRst (fun r => { r with pending := r.pending ++ [c] }) s := by
  unfold raiseSource
  rw [if_pos (by simp [hp, hc])]

end Sys2Proof.Machine
end

section
/-!
Deferred work: what ends it, and what leaves it alone.
-/

namespace Sys2Proof.Machine

variable {s : State}

theorem deferred_notify {x : NoticeSubject} {p cmd : Nat} {pl : List Fld} :
    (notify x p cmd pl s).stw.deferred = s.stw.deferred := by
  unfold notify
  split <;> rfl

theorem deferred_raiseAt {code subject detail ft : Nat} : (raiseAt code subject detail ft s).stw.deferred = s.stw.deferred := by
  unfold raiseAt
  extract_lets r
  split
  · rfl
  · refine deferred_notify.trans ?_
    rw [touches_bypQueue.stw (by decide)]

theorem deferred_raise {code subject detail : Nat} : (raise code subject detail s).stw.deferred = s.stw.deferred :=
  deferred_raiseAt

/-! ## Answers -/

theorem deferred_ringWrite {k : Nat} {m : Msg} : (ringWrite k m s).stw.deferred = s.stw.deferred := by
  unfold ringWrite
  extract_lets sl s₁ s₂
  rw [(touches_when touches_emit).stw (by decide)]
  exact congrArg (·.deferred) (touches_bufIssue.stw (by decide))

theorem deferred_ringPost {k : Nat} {m : Msg} : (ringPost k m s).stw.deferred = s.stw.deferred := by
  unfold ringPost
  extract_lets sl
  split
  · exact deferred_ringWrite
  · rfl

theorem deferred_postTo {i : Issuer} {m : Msg} : (postTo i m s).stw.deferred = s.stw.deferred := by
  unfold postTo
  split
  · rw [touches_pmPost.stw (by decide)]
  · rw [touches_sbiPost.stw (by decide)]
  · split
    · exact deferred_ringPost
    · rfl
  · rfl
  · rfl

theorem deferred_relayFinish {e : ReplyEntry} : (relayFinish e s).stw.deferred = s.stw.deferred := by
  have hall : ∀ (xs : List Nat) (f : Nat → Out) (x : State),
      (forEach xs (fun p => sendMsg p (f p)) x).stw.deferred = x.stw.deferred :=
    fun _ _ _ => congrArg (·.deferred) ((touches_forEach fun _ _ => touches_sendMsg).stw (by decide))
  unfold relayFinish
  extract_lets t e' r s₁ s₂
  have h : s₂.stw.deferred = s.stw.deferred := hall _ _ s₁
  split
  · exact h
  · exact deferred_postTo.trans h

theorem deferred_relayUpdate {sel : ReplyEntry → Bool} {f : ReplyEntry → ReplyEntry} :
    (relayUpdate sel f s).stw.deferred = s.stw.deferred := by
  unfold relayUpdate
  split
  · rfl
  · extract_lets e' s₁
    split
    · exact deferred_relayFinish
    · rfl

theorem deferred_answer {i : Issuer} {cmd tag st : Nat} {b : Bool} {p : List Fld} {a : List Byte} :
    (answer i cmd tag st b p a s).stw.deferred = s.stw.deferred := by
  unfold answer ownOutcome
  split
  · split
    · exact deferred_relayUpdate
    · rfl
  · exact deferred_postTo

theorem deferred_finish {d : Deferred} {st : Nat} {p : List Fld} : (finish d st p s).stw.deferred = s.stw.deferred := by
  unfold finish
  split
  · rfl
  · exact deferred_answer

/-- Work that is answered is deferred no longer; the rest is as it was. -/
theorem deferred_completeWhere {f : Work → Bool} {st : Nat} {p : List Fld} :
    (completeWhere f st p s).stw.deferred = s.stw.deferred.filter fun d => !f d.work :=
  forEach_keeps (fun x : State => x.stw.deferred) fun _ _ => deferred_finish

theorem deferred_completeAll {st : Nat} {p : List Fld} : (completeWhere (fun _ => true) st p s).stw.deferred = [] := by
  simp [deferred_completeWhere]

/-! ## Sessions that close -/

/-- Nothing is deferred, and nothing becomes so. -/
theorem idle_closeSlot {k : Nat} {r : Option Nat} (h : s.stw.deferred = []) : (closeSlot k r s).stw.deferred = [] := by
  unfold closeSlot
  extract_lets sl s₁ m s₂
  split
  · exact h
  · have h₁ : s₁.stw.deferred = [] := by
      change List.map _ s.stw.deferred = []
      rw [h]
      rfl
    change s₂.stw.deferred = []
    unfold s₂
    split
    · exact deferred_ringPost.trans h₁
    · exact h₁

theorem idle_orphanWork {i : Issuer} (h : s.stw.deferred = []) : (orphanWork i s).stw.deferred = [] := by
  change List.map _ s.stw.deferred = []
  rw [h]
  rfl

theorem idle_closePm {n : Nat} {r : Option Nat} (h : s.stw.deferred = []) : (closePm n r s).stw.deferred = [] := by
  unfold closePm
  split
  · exact h
  · cases r with
    | none => exact idle_orphanWork h
    | some r => exact (congrArg (·.deferred) (touches_pmPost.stw (by decide))).trans (idle_orphanWork h)

theorem idle_closeSbi {r : Option Nat} (h : s.stw.deferred = []) : (closeSbi r s).stw.deferred = [] := by
  unfold closeSbi
  split
  · exact h
  · cases r with
    | none => exact idle_orphanWork h
    | some r => exact (congrArg (·.deferred) (touches_sbiPost.stw (by decide))).trans (idle_orphanWork h)

theorem idle_closeAll {reason : Nat} (h : s.stw.deferred = []) : (closeAll reason s).stw.deferred = [] := by
  have hall : ∀ {α : Type} (xs : List α) (f : α → State → State) (x : State),
      (∀ a y, y.stw.deferred = [] → (f a y).stw.deferred = []) → x.stw.deferred = [] → (forEach xs f x).stw.deferred = [] :=
    fun xs f x hf hx =>
      List.foldlRecOn (motive := fun y : State => y.stw.deferred = []) xs _ hx fun y hy a _ => hf a y hy
  exact idle_closeSbi (hall _ _ _ (fun _ _ => idle_closePm) (hall _ _ _ (fun _ _ => idle_closeSlot) h))

/-! ## Images and dumps -/

theorem deferred_revertTrial : (revertTrial s).stw.deferred = s.stw.deferred := by
  unfold revertTrial
  split
  · rfl
  · refine deferred_raise.trans ?_
    rw [touches_raiseInt.stw (by decide)]
    rfl

theorem deferred_toCommitted : (toCommitted s).stw.deferred = s.stw.deferred := deferred_revertTrial

theorem deferred_arcIngest {log : Nat} {x : ArcEntry} : (arcIngest log x s).stw.deferred = s.stw.deferred := by
  unfold arcIngest
  split
  · rfl
  · split
    · exact deferred_raise
    · split
      · rfl
      · exact congrArg (·.deferred) ((arcOnly_onArc.trans arcOnly_arcWrite).1.stw (by decide))

theorem deferred_deliverAuto : (deliverAuto s).stw.deferred = s.stw.deferred := by
  unfold deliverAuto
  split
  · split
    · refine (congrArg (·.deferred) ((touches_forEach fun _ _ => touches_enqueueRecord).stw (by decide))).trans ?_
      exact deferred_arcIngest
    · rfl
  · rfl

end Sys2Proof.Machine
end

section
/-!
The events that raise, hold and release a reset.
-/

namespace Sys2Proof.Machine

section ResetEvents

variable {s t : State}

/-! ## Dumps -/

theorem autoDump_accepted {k : Nat} (h : autoAccepted s = true) : autoDump k s = onDump (fun d => { d with
    pending := d.pending ++ [{ trigger := k, reqFt := s.time.ft, dest := 0, desc := none }] }) s := by
  rw [autoDump, if_pos h]

theorem autoDump_suppressed {k : Nat} (h : autoAccepted s = false) :
    autoDump k s = onDump (fun d => { d with suppressed := d.suppressed + 1 }) s := by
  rw [autoDump, if_neg (by rw [h]; decide)]

/-- With a dump accepted what it precedes waits for the capture. -/
theorem dumpThen_accepted {k n : Nat} {b : Bool} {f : State → State} (h : autoAccepted s = true) :
    dumpThen k b n f s = onDump (fun d => { d with
      pending := d.pending ++ [{ trigger := k, reqFt := s.time.ft, dest := 0, desc := none }]
      awaiting := d.awaiting ++ [(b, n)] }) s := by
  rw [dumpThen, if_pos h, autoDump_accepted h]
  rfl

theorem dumpThen_suppressed {k n : Nat} {b : Bool} {f : State → State} (h : autoAccepted s = false) :
    dumpThen k b n f s = f (onDump (fun d => { d with suppressed := d.suppressed + 1 }) s) := by
  rw [dumpThen, if_neg (by rw [h]; decide), autoDump_suppressed h]

/-! ## A lock-up -/

/-- A lock-up resets the Steward alone: the reset controller takes its count and its code. -/
theorem lockupReset_rst : (lockupReset s).rst = { s.rst with
    counts := (lockupReset s).rst.counts, last := srcLockup } := by
  have hafter : ∀ x : State, ∀ b : Bool, ∀ o : Nat, Quiet [.hrw, .nv, .trc, .test, .stw] x
      (reportSource srcLockup (onStw (fun t => { t with lastService := o })
        (when b (closeAll 2) (toCommitted (completeWhere (fun _ => true) Config.aborted []
          (abortRun (endGrants (resetRegs x)))))))) := fun x b o => by
    refine .trans (.after touches_onStw.quiet (by decide) ?_) quiet_raise
    refine .trans (.after quiet_toCommitted (by decide) ?_) (quiet_when quiet_closeAll)
    exact .trans (quiet_stopWork.mono (by decide)) quiet_completeWhere
  unfold lockupReset
  extract_lets trial s₁ s₂ s₃ s₄
  rw [(hafter s₁ trial _).rst (by decide)]
  rfl

theorem lockupReset_idle : (lockupReset s).stw.deferred = [] := by
  have hclose : ∀ (b : Bool) (x : State), x.stw.deferred = [] → (when b (closeAll 2) x).stw.deferred = [] := fun b x hx => by
    unfold when
    split
    · exact idle_closeAll hx
    · exact hx
  unfold lockupReset
  extract_lets trial s₁ s₂ s₃ s₄
  refine deferred_raise.trans ?_
  exact hclose trial _ (deferred_toCommitted.trans deferred_completeAll)

/-- A lock-up that nothing holds, with no other source held. -/
theorem raiseSource_lockup (hp : s.nv.pulse = false) (hrst : s.rst.pending = []) (ha : s.rst.active = false) :
    raiseSource srcLockup s = lockupReset (onRst (fun r => { r with pending := [] }) s) := by
  unfold raiseSource
  rw [if_neg (by simp [hp])]
  have hcs : s.rst.pending ++ [srcLockup] ++ (if srcLockup = srcLockup then [] else (s.dump.awaiting.filter fun x => !x.1).map (·.2))
      = [srcLockup] := by
    rw [hrst, if_pos rfl]
    rfl
  extract_lets waiting held
  change applySources (s.rst.pending ++ [srcLockup] ++ waiting) _ = _
  rw [show s.rst.pending ++ [srcLockup] ++ waiting = [srcLockup] from hcs, applySources]
  have hgo : (([srcLockup].all fun c => c == srcLockup) && !(onRst (fun r => { r with pending := [] }) s).rst.active) = true := by
    simp [ha]
  rw [if_neg (by decide), if_pos hgo]

/-- A source that nothing holds is among those applied. -/
theorem raiseSource_applied {c : Nat} (hc : c ≠ srcLockup) (hp : s.nv.pulse = false) : (raiseSource c s).rst.active = true ∧
    c ∈ (raiseSource c s).rst.applied ∧ (raiseSource c s).rst.pinLow = s.rst.pinLow ∧
    (raiseSource c s).rst.softwareDue = none ∧ (raiseSource c s).pwr.dravaForced = s.pwr.dravaForced := by
  obtain ⟨w, hin⟩ := inReset_raiseSource hc (.inl hp)
  refine ⟨hin.active, ?_, hin.pinLow, hin.softwareDue, hin.forced⟩
  rw [hin.applied]
  simp

/-- Sources held, of which one is no lock-up, put the block into reset. -/
theorem releaseHeld_applied {c : Nat} (hm : c ∈ s.rst.pending) (hc : c ≠ srcLockup) : (releaseHeld s).rst.active = true ∧
    (releaseHeld s).rst.pending = [] ∧ ∀ x ∈ s.rst.pending, x ∈ (releaseHeld s).rst.applied := by
  have hin : InReset s.rst.pending (onRst (fun r => { r with pending := [] }) s) (releaseHeld s) := inReset_applySources hm hc
  refine ⟨hin.active, hin.pending, fun x hx => ?_⟩
  rw [hin.applied]
  exact List.mem_append_right _ hx

/-! ## The end of a pulse -/

theorem writeHistory_nv {r : HistoryRec} : (writeHistory r s).nv.queue = s.nv.queue ∧ (writeHistory r s).nv.pulse = s.nv.pulse := by
  unfold writeHistory
  split
  · exact ⟨rfl, rfl⟩
  · extract_lets kept
    split
    · exact ⟨rfl, rfl⟩
    · rw [touches_raise.nv (by decide)]
      exact ⟨rfl, rfl⟩

theorem quiet_writeHistory {r : HistoryRec} : Quiet [.nv] s (writeHistory r s) := by
  unfold writeHistory
  refine quiet_ite touches_onNv.quiet (quiet_ite touches_onNv.quiet ?_)
  refine .trans ?_ quiet_raise
  exact touches_onNv.quiet

theorem quiet_commitRecord {r : NvRec} : Quiet [.nv] s (commitRecord r s) := by
  unfold commitRecord
  split
  case h_2 => exact quiet_writeHistory
  case h_5 => exact quiet_ite touches_onNv.quiet touches_onNv.quiet
  all_goals exact touches_onNv.quiet

theorem commitRecord_nv {r : NvRec} : (commitRecord r s).nv.queue = s.nv.queue ∧ (commitRecord r s).nv.pulse = s.nv.pulse := by
  unfold commitRecord
  split
  case h_2 => exact writeHistory_nv
  case h_5 => split <;> exact ⟨rfl, rfl⟩
  all_goals exact ⟨rfl, rfl⟩

theorem quiet_endPulse : Quiet [.nv] s (endPulse s) := by
  unfold endPulse
  split
  · exact touches_onNv.quiet
  · refine .trans ?_ quiet_commitRecord
    exact touches_onNv.quiet

theorem endPulse_nv {r : NvRec} {rest : List NvRec} (h : s.nv.queue = r :: rest) :
    (endPulse s).nv.queue = rest ∧ (endPulse s).nv.pulse = !rest.isEmpty := by
  unfold endPulse
  rw [h]
  exact commitRecord_nv

theorem releaseHeld_none (h : s.rst.pending = []) : releaseHeld s = s := by
  unfold releaseHeld applySources
  have hr : ({ s.rst with pending := [] } : ResetCtl) = s.rst := by rw [← h]
  rw [h]
  exact congrArg (fun r => { s with rst := r }) hr

/-! ## The release -/

theorem quiet_sendMsgAdopt {dst msg : Nat} {m : AdoptMsg} : Quiet [.arc, .upl] s (sendMsgAdopt dst msg m s) := by
  refine .after quiet_arcIngest (by decide) ?_
  exact touches_onUpl.quiet.mono (by decide)

theorem quiet_tryAt {pos : Nat} : Quiet [.place, .arc, .upl] s (tryAt pos s) := by
  unfold tryAt
  split
  · refine .trans (.after touches_onPlace.quiet (by decide) ?_) quiet_raiseSbi
    exact touches_onUpl.quiet.mono (by decide)
  · refine .after quiet_sendMsgAdopt (by decide) (.after touches_onPlace.quiet (by decide) ?_)
    exact touches_onUpl.quiet.mono (by decide)

theorem touches_onRoles {f : List Role → List Role} : Touches [.roles] s { s with roles := f s.roles } := touches_put .roles rfl

theorem touches_onChild {k : RoleKind} {src : Nat} {f : Child → Child} : Touches [.roles] s (onChild k src f s) :=
  touches_put .roles rfl

theorem touches_sendAck {k : RoleKind} {src : Nat} : Touches [.roles, .upl] s (sendAck k src s) := by
  unfold sendAck
  split
  · exact Touches.refl
  · split
    · exact Touches.refl
    · refine .after touches_sendControl (by decide) ?_
      exact touches_onChild.mono (by decide)

theorem touches_rebuildFrames : Touches [.roles, .upl] s (rebuildFrames s) := by
  refine touches_forEach fun r x => touches_forEach fun c y => ?_
  refine .after (touches_when touches_sendAck) (by decide) ?_
  exact touches_forEach fun _ _ => touches_onChild.mono (by decide)

theorem quiet_afterRelease {d : Nat} : Quiet [.roles, .place, .arc, .upl] s (afterRelease d s) := by
  unfold afterRelease
  split
  · exact touches_rebuildFrames.quiet.mono (by decide)
  · exact quiet_when (quiet_tryAt.mono (by decide))
  · exact Quiet.refl

theorem quiet_issueWaiting {n : Nat} : Quiet [.arc] s (issueWaiting n s) := fun k hk => by
  by_cases ho : k = .out
  · rw [ho]
    rfl
  · exact Part.same_hush (arcOnly_issueWaiting.1 k (by simp_all))

/-- A released block: no source stands, nothing is in reset, and the Steward serves with an image. -/
theorem releaseBlock_facts : (releaseBlock s).rst.active = false ∧ (releaseBlock s).rst.applied = [] ∧
    (releaseBlock s).pwr.inReset = 0 ∧ (releaseBlock s).stw.serving = s.stw.running.isSome := by
  unfold releaseBlock
  extract_lets cs s₁ s₂ s₃ s₄ s₅ s₆
  have hlast : Quiet [.roles, .place, .arc, .upl, .dump] s₄
      (deliverAuto (issueWaiting s₆.arc.waiting.length (forEach [3, 12] afterRelease s₆))) := by
    refine .after quiet_deliverAuto (by decide) (.after quiet_issueWaiting (by decide) ?_)
    refine .after (quiet_forEach fun _ _ => quiet_afterRelease) (by decide) (.trans ?_ (quiet_when quiet_raise))
    exact quiet_forEach fun _ _ => quiet_raise
  rw [hlast.rst (by decide), hlast.pwr (by decide)]
  exact ⟨rfl, rfl, rfl, hlast.stw (·.serving) (fun _ => rfl) (by decide)⟩

end ResetEvents

/-- Settles O28: a source is held, or puts the block into reset with what is held; a lock-up resets the Steward; the release
ends it. -/
theorem resetEventsComplete : Obligations.ResetEventsComplete := by
  unfold Obligations.ResetEventsComplete
  refine ⟨?_, ?_, ?_, ?_, ?_, ?_, ?_, ?_, ?_, ?_, ?_, ?_, ?_, ?_, ?_⟩
  · intro n s haon hn hp
    have hnv : (onRst (fun r => { r with pinLow := true }) (passNs 50 s)).nv.pulse = true := by
      rw [onRst_nv, touches_passNs.nv (by decide), hp]
    refine ⟨_, run_when haon (by simpa using hn), ?_⟩
    rw [raiseSource_held (by decide) hnv]
    simp only [onRst_rst, touches_passNs.rst (by decide)]
    exact ⟨trivial, rfl, trivial⟩
  · intro n s haon hn hp
    have hnv : (onRst (fun r => { r with pinLow := true }) (passNs 50 s)).nv.pulse = false := by
      rw [onRst_nv, touches_passNs.nv (by decide), hp]
    obtain ⟨hactive, hin, hlow, -, -⟩ := raiseSource_applied (c := srcPin) (by decide) hnv
    exact ⟨_, run_when haon (by simpa using hn), hlow, hactive, hin⟩
  · intro s haon
    exact run_powered haon
  · intro s haon hr
    exact ⟨_, run_when haon hr, releaseBlock_facts⟩
  · intro s haon hw hp
    have hnv : (untilOsc (s.stw.lastService + 100000000) s).nv.pulse = true := by rw [touches_untilOsc.nv (by decide), hp]
    refine ⟨_, run_when haon hw, ?_⟩
    rw [raiseSource_held (by decide) hnv, onRst_rst, touches_untilOsc.rst (by decide)]
    rfl
  · intro s haon hw hp
    have hnv : (untilOsc (s.stw.lastService + 100000000) s).nv.pulse = false := by rw [touches_untilOsc.nv (by decide), hp]
    obtain ⟨hactive, hin, -, -, -⟩ := raiseSource_applied (c := srcWatchdog) (by decide) hnv
    exact ⟨_, run_when haon hw, hactive, hin⟩
  · intro s haon hw
    exact run_when haon hw
  · intro s haon hw ha
    refine ⟨_, run_when haon hw, ?_⟩
    rw [dumpThen_accepted ha]
    exact ⟨rfl, rfl, rfl⟩
  · intro s haon hw ha hp hrst
    have hactive : s.rst.active = false := by
      simp only [watchdogRuns, Bool.and_eq_true, Bool.not_eq_true'] at hw
      exact hw.2
    refine ⟨_, run_when haon hw, ?_⟩
    rw [dumpThen_suppressed ha, raiseSource_lockup (s := onDump _ s) hp hrst hactive, lockupReset_rst,
      quiet_lockupReset.dump (by decide)]
    exact ⟨hactive, rfl, lockupReset_idle, rfl⟩
  · intro g s haon hg hw ha
    refine ⟨_, run_when haon (by simp [hg, hw]), ?_⟩
    rw [dumpThen_accepted (s := onPwr _ s) ha]
    exact ⟨rfl, rfl, getLsbD_putBit_self _ hg, getLsbD_putBit_self _ hg⟩
  · intro g s haon hg hw ha hp
    refine ⟨_, run_when haon (by simp [hg, hw]), ?_⟩
    rw [dumpThen_suppressed (s := onPwr _ s) ha]
    obtain ⟨hactive, hin, -, -, hforced⟩ := raiseSource_applied (s := onDump _ (onPwr _ s)) (c := srcClock) (by decide) hp
    refine ⟨hactive, hin, ?_⟩
    rw [hforced]
    exact getLsbD_putBit_self _ hg
  · intro e s haon hdue hp
    have hnv : (onRst (fun r => { r with softwareDue := none }) (untilTimer e s)).nv.pulse = true := by
      rw [onRst_nv, touches_untilTimer.nv (by decide), hp]
    refine ⟨_, (run_powered haon : execSoftwareReset s = _), ?_⟩
    rw [hdue]
    dsimp only
    rw [raiseSource_held (by decide) hnv]
    simp only [onRst_rst, touches_untilTimer.rst (by decide)]
    exact ⟨trivial, rfl⟩
  · intro e s haon hdue hp
    have hnv : (onRst (fun r => { r with softwareDue := none }) (untilTimer e s)).nv.pulse = false := by
      rw [onRst_nv, touches_untilTimer.nv (by decide), hp]
    refine ⟨_, (run_powered haon : execSoftwareReset s = _), ?_⟩
    rw [hdue]
    dsimp only
    obtain ⟨hactive, hin, -, hdue, -⟩ := raiseSource_applied (c := srcSoftware) (by decide) hnv
    exact ⟨hdue, hactive, hin⟩
  · intro r rest s haon hp hq hrst
    refine ⟨_, run_when haon hp, ?_⟩
    rw [releaseHeld_none (by rw [quiet_endPulse.rst (by decide), hrst])]
    exact ⟨(endPulse_nv hq).1, (endPulse_nv hq).2, quiet_endPulse.rst (by decide)⟩
  · intro s haon hp hex
    obtain ⟨c, hc, hne⟩ := hex
    have hrst : (endPulse s).rst = s.rst := quiet_endPulse.rst (by decide)
    rw [← hrst] at hc ⊢
    exact ⟨_, run_when haon hp, releaseHeld_applied hc hne⟩

end Sys2Proof.Machine
end

section
/-!
Parked is entered and left; the frame that a wake opens.
-/

namespace Sys2Proof.Machine

section ParkEvents

variable {s : State}

/-! ## A frame that opens -/

theorem touches_onCounter {i : Nat} {f : Counter → Counter} : Touches [.smp] s (onCounter i f s) := touches_put .smp rfl
theorem touches_onGauge {i : Nat} {f : Gauge → Gauge} : Touches [.smp] s (onGauge i f s) := touches_put .smp rfl

theorem touches_chainOpen {k i p : Nat} {d : Desc} : Touches [.buf] s (chainOpen k i p d s).2 := touches_put .buf rfl

theorem touches_setSnapshot {p n : Nat} {d : Option Desc} : Touches [.stw, .smp, .buf, .out] s (setSnapshot p d n s) := by
  unfold setSnapshot
  extract_lets old s₁
  have h : Touches [.stw, .smp, .buf, .out] s s₁ := touches_ite Touches.refl (touches_chainWithdraw.mono (by decide))
  split
  · exact h.andThen touches_onSmp (by decide)
  · refine .after touches_onSmp (by decide) ?_
    exact h.andThen touches_chainOpen (by decide)

theorem touches_applyChange {c : SamplerChange} : Touches [.stw, .smp, .buf, .out] s (applyChange c s) := by
  unfold applyChange
  split
  · exact touches_onSmp.mono (by decide)
  · exact touches_onCounter.mono (by decide)
  · exact touches_onCounter.mono (by decide)
  · exact touches_onCounter.mono (by decide)
  · exact touches_onGauge.mono (by decide)
  · exact touches_setSnapshot

theorem touches_applyChanges {f : Nat} {sel : SamplerChange → Bool} : Touches [.stw, .smp, .buf, .out] s (applyChanges f sel s) := by
  refine .trans ?_ (touches_forEach fun _ _ => touches_applyChange)
  exact touches_onSmp.mono (by decide)

theorem touches_onClass {c : Nat} {f : UplClass → UplClass} : Touches [.upl] s (onClass c f s) := touches_put .upl rfl

theorem touches_applyShapers : Touches [.upl] s (applyShapers s) := by
  unfold applyShapers
  extract_lets due s₁ s₂
  have h : Touches [.upl] s s₂ := (touches_forEach fun _ _ => touches_onClass).trans touches_onUpl
  split
  · exact h
  · exact h.trans touches_onUpl

theorem touches_refillClass {c : Nat} : Touches [.upl] s (refillClass c s) := by
  refine .trans ?_ touches_onClass
  exact touches_when touches_onClass

theorem touches_checkLawC : Touches [.stw, .led, .upl] s (checkLawC s) := by
  refine touches_when (.after touches_raise (by decide) ?_)
  exact touches_onUpl.mono (by decide)

theorem touches_checkBacklog : Touches [.stw, .led, .upl] s (checkBacklog s) := by
  refine touches_ite (.after touches_raise (by decide) ?_) (touches_ite (touches_onUpl.mono (by decide)) Touches.refl)
  exact touches_onUpl.mono (by decide)

theorem touches_setStride {n : Nat} : Touches [.stw, .led, .upl] s (setStride n s) := by
  refine touches_ite Touches.refl (.after touches_raise (by decide) ?_)
  exact touches_onUpl.mono (by decide)

theorem touches_checkStride : Touches [.stw, .led, .upl] s (checkStride s) :=
  touches_ite touches_setStride (touches_ite touches_setStride Touches.refl)

theorem touches_refill : Touches [.stw, .led, .upl] s (refill s) := by
  unfold refill
  extract_lets s₁ s₂ s₃ s₄
  refine .after touches_onUpl (by decide) ?_
  refine .trans (.trans (.trans ?_ touches_checkLawC) touches_checkBacklog) touches_checkStride
  refine .after touches_onUpl (by decide) ?_
  refine .after (touches_forEach fun _ _ => touches_refillClass) (by decide) ?_
  exact touches_applyShapers.mono (by decide)

theorem touches_endGap {n : Nat} : Touches [.grid] s (endGap n s) := by
  unfold endGap
  split
  · exact Touches.refl
  · exact touches_onGrid

theorem touches_openChanges {n : Nat} : Touches [.stw, .smp, .buf, .out] s
    (clearUpdates (applyChanges n (fun _ => true) s)) :=
  touches_applyChanges.andThen (touches_forEach fun _ _ => touches_onGauge) (by decide)

theorem touches_openFrame {ft : Nat} {b : Bool} : Touches [.grid, .stw, .smp, .led, .upl, .buf, .out] s (openFrame ft b s) := by
  unfold openFrame
  extract_lets n gap s₁ f s₂ s₃
  refine .after touches_refill (by decide) (.after (touches_ite touches_openChanges Touches.refl) (by decide) ?_)
  refine .after touches_onGrid (by decide) ?_
  exact touches_endGap.mono (by decide)

/-! ## A change of period that falls due -/

theorem touches_fitWindows {p : Nat} : Touches [.stw, .led, .upl, .conf] s (fitWindows p s) := by
  unfold fitWindows
  refine touches_ite Touches.refl ?_
  extract_lets old k s₁ s₂
  refine .after (touches_when touches_raise) (by decide) (touches_ite ?_ ?_)
  · exact touches_onConf.mono (by decide)
  · exact (touches_onConf.trans touches_onConf).mono (by decide)

theorem touches_setStretch {k n : Nat} : Touches [.tree] s (setStretch k n s) := touches_onTree

theorem touches_restretch {n : Nat} : Touches [.stw, .led, .upl, .tree] s (restretch n s) := by
  unfold restretch
  refine touches_ite Touches.refl ?_
  extract_lets fits k k'
  refine touches_ite (touches_ite (touches_setStretch.mono (by decide)) Touches.refl) (touches_ite Touches.refl ?_)
  refine .after touches_raise (by decide) (.after touches_onTree (by decide) ?_)
  exact touches_setStretch.mono (by decide)

theorem touches_onLed {f : LeafLedger → LeafLedger} : Touches [.led] s (onLed f s) := touches_put .led rfl

theorem touches_changePeriod {p at_ : Nat} : Touches [.grid, .stw, .smp, .led, .conf, .tree, .upl] s (changePeriod p at_ s) := by
  unfold changePeriod
  extract_lets old oldFirst newFirst s₁ s₂ s₃ s₄ s₅ s₆
  refine .after touches_restretch (by decide) (.after (touches_when touches_fitWindows) (by decide) ?_)
  refine .after touches_onLed (by decide) (.after touches_onTree (by decide) ?_)
  refine .after touches_onConf (by decide) (.after touches_onSmp (by decide) ?_)
  exact touches_onGrid.mono (by decide)

theorem touches_dueChange {n : Nat} : Touches [.grid, .stw, .smp, .led, .conf, .tree, .upl] s (dueChange n s) := by
  unfold dueChange
  split
  · exact Touches.refl
  · exact touches_ite touches_changePeriod Touches.refl

theorem touches_duePeriod {n : Nat} : Touches [.grid, .stw, .smp, .led, .conf, .tree, .upl] s (duePeriod n s) :=
  touches_dueChange.trans touches_dueChange

theorem touches_deliverAuto : Touches [.arc, .out, .stw, .led, .upl, .dump] s (deliverAuto s) := by
  unfold deliverAuto
  split
  · refine touches_ite (.after (touches_forEach fun _ _ => touches_enqueueRecord) (by decide) ?_) Touches.refl
    exact .after touches_arcIngest (by decide) (touches_onDump.mono (by decide))
  · exact Touches.refl

/-! ## Parking -/

/-- What ends as the block parks, but for deferred work: nothing of the power state and of the reset controller. -/
theorem quiet_parkWork : Quiet [.trc, .buf, .test, .arc, .free, .upl] s (parkWork s) := by
  unfold parkWork
  extract_lets s₁ isQuery s₂
  refine .after touches_onUpl.quiet (by decide) (.trans ?_ quiet_completeWhere)
  refine .after quiet_stopQueries (by decide) (.after quiet_abortRun (by decide) ?_)
  exact quiet_flushTrace.mono (by decide)

theorem parkWork_run : (parkWork s).test.run = none := by
  unfold parkWork
  extract_lets s₁ isQuery s₂
  have h : Quiet [.arc, .buf, .free, .upl] (abortRun (flushTrace s)) (onUpl (fun u => { u with gate := none }) s₂) := by
    refine .after touches_onUpl.quiet (by decide) (.trans ?_ quiet_completeWhere)
    exact quiet_stopQueries.mono (by decide)
  rw [h.test (by decide)]
  exact abortRun_run

/-- Queries alone may still be deferred. -/
theorem parkWork_deferred : ∀ d ∈ (parkWork s).stw.deferred, ∃ k, d.work = .query k := by
  intro d hd
  unfold parkWork at hd
  rw [onUpl_stw, deferred_completeWhere] at hd
  have hq := (List.mem_filter.mp hd).2
  rcases hw : d.work
  all_goals simp_all

theorem touches_wakeRequest : Touches [.pwr, .out] s (wakeRequest s) := by
  have hbegin : Touches [.pwr, .out] s (beginWake s) := by
    refine .after (touches_when touches_emit) (by decide) ?_
    exact touches_onPwr.mono (by decide)
  unfold wakeRequest
  exact touches_ite (touches_onPwr.mono (by decide)) (touches_ite (touches_ite hbegin (touches_onPwr.mono (by decide))) Touches.refl)

theorem beginWake_parked : (beginWake s).pwr.parked = s.pwr.parked ∧ (beginWake s).pwr.parking = s.pwr.parking := by
  have h : (beginWake s).pwr = _ := (touches_when touches_emit).pwr (by decide)
  rw [h]
  exact ⟨rfl, rfl⟩

theorem wakeRequest_parked : (wakeRequest s).pwr.parked = s.pwr.parked ∧ (wakeRequest s).pwr.parking = s.pwr.parking := by
  unfold wakeRequest
  split
  · exact ⟨rfl, rfl⟩
  · split
    · split
      · exact beginWake_parked
      · exact ⟨rfl, rfl⟩
    · exact ⟨rfl, rfl⟩

theorem becomeParked_facts : (becomeParked s).pwr.parked = true ∧ (becomeParked s).pwr.parking = none ∧
    (becomeParked s).rst.parks = s.rst.parks + 1 ∧ (becomeParked s).test.run = none ∧
    ∀ d ∈ (becomeParked s).stw.deferred, ∃ k, d.work = .query k := by
  have hwake : ∀ (b : Bool) (x : State), Touches [.pwr, .out] x (when b wakeRequest x) ∧
      (when b wakeRequest x).pwr.parked = x.pwr.parked ∧ (when b wakeRequest x).pwr.parking = x.pwr.parking := fun b x => by
    refine ⟨touches_when touches_wakeRequest, ?_⟩
    unfold when
    split
    · exact wakeRequest_parked
    · exact ⟨rfl, rfl⟩
  unfold becomeParked
  extract_lets again s₁ s₂ s₃
  obtain ⟨htouch, hparked, hparking⟩ := hwake again s₃
  have hemit : Touches [.out] (parkWork s) s₁ := touches_when touches_emit
  refine ⟨hparked, hparking, ?_, ?_, ?_⟩
  · rw [htouch.rst (by decide)]
    change s₁.rst.parks + 1 = _
    rw [hemit.rst (by decide), quiet_parkWork.rst (by decide)]
  · rw [htouch.test (by decide)]
    change s₁.test.run = none
    rw [hemit.test (by decide), parkWork_run]
  · rw [htouch.stw (by decide)]
    change ∀ d ∈ s₁.stw.deferred, _
    rw [hemit.stw (by decide)]
    exact parkWork_deferred

theorem touches_parkWait : Touches [.time] s (parkWait s) := by
  unfold parkWait
  split
  · exact Touches.refl
  · exact touches_when touches_untilFt

/-! ## Waking -/

theorem raiseInt_bit {b : Nat} (hb : b < 32) : (raiseInt b s).hrw.intSts.getLsbD b = true := by
  have h : (raiseInt b s).hrw = _ := (touches_when touches_emit).hrw (by decide)
  rw [h]
  exact getLsbD_putBit_self _ hb

theorem becomeAwake_facts : (becomeAwake s).pwr.parked = false ∧ (becomeAwake s).pwr.waking = none ∧
    (becomeAwake s).hrw.intSts.getLsbD 8 = true := by
  unfold becomeAwake
  extract_lets s₁ s₂ s₃
  have h : Touches [.grid, .stw, .smp, .led, .conf, .tree, .upl, .buf, .out, .arc, .dump] (raiseInt 8 s₂)
      (deliverAuto (when (gridMayRun s₃) (openFrame s₃.time.ft true) s₃)) := by
    refine .after touches_deliverAuto (by decide) (.after (touches_when touches_openFrame) (by decide) ?_)
    exact touches_duePeriod.mono (by decide)
  rw [h.pwr (by decide), h.hrw (by decide), touches_raiseInt.pwr (by decide)]
  exact ⟨rfl, rfl, raiseInt_bit (by decide)⟩

end ParkEvents

/-- Settles O29: what a park ends and what a wake opens leave the power state as the two set it. -/
theorem parkEventsComplete : Obligations.ParkEventsComplete := by
  unfold Obligations.ParkEventsComplete
  refine ⟨?_, ?_, ?_, ?_, ?_⟩
  · intro b s haon hpark hsnap hgate hq hr
    refine ⟨_, run_when haon (by simp [hpark, hsnap, hgate, hq, hr]), ?_⟩
    have hrst : (parkWait s).rst = s.rst := touches_parkWait.rst (by decide)
    rw [← hrst]
    exact becomeParked_facts
  · intro s haon hno hpark hw hc
    refine ⟨_, (run_powered haon : execWake s = _), ?_⟩
    rw [wakeRequest, hno, hpark, hw, hc]
    exact ⟨beginWake_waking, beginWake_parked.1.trans hpark⟩
  · intro s haon hno hpark hw hc
    refine ⟨_, (run_powered haon : execWake s = _), ?_⟩
    rw [wakeRequest, hno, hpark, hw, hc]
    exact ⟨hw, rfl⟩
  · intro b s haon hpark
    refine (run_powered haon : execWake s = _).trans ?_
    rw [wakeRequest, hpark]
    rfl
  · intro b s haon hpark hw hc
    exact ⟨_, run_when haon (by simp [hpark, hw, hc]), becomeAwake_facts⟩

end Sys2Proof.Machine
end

section
/-!
The supplies: power-on, power loss, the core supply and the boot image; the fences across resets and power-ons.
-/

namespace Sys2Proof.Machine

section Supplies

variable {s : State}

/-! ## Power-on -/

theorem touches_hotJoin : Touches [.sbi, .out] s (hotJoin s) := by
  unfold hotJoin
  exact touches_ite (.after touches_emit (by decide) (touches_onSbi.mono (by decide))) Touches.refl

/-- What a loss of power may commit first: the record whose pulse survives it. -/
theorem quiet_losePower : Quiet [.free, .nv, .pwr, .rst] s (losePower s) := by
  have hdraw : Quiet [.free, .nv, .pwr, .rst] s (draw s).2 := ((touches_put .free rfl).mono (by decide) : Touches _ _ _).quiet
  have hlast : ∀ x : State, Quiet [.free, .nv, .pwr, .rst] x (onRst (fun r => { r with aonOk := false, coreOk := false })
      (onPwr (fun p => { p with on := 0 }) (onNv (fun v => { v with queue := [], pulse := false }) x))) := fun x => by
    refine .after touches_onRst.quiet (by decide) (.after touches_onPwr.quiet (by decide) ?_)
    exact touches_onNv.quiet.mono (by decide)
  refine .trans ?_ (hlast _)
  exact quiet_ite (hdraw.andThen quiet_endPulse (by decide)) hdraw

theorem losePower_facts : (losePower s).rst.aonOk = false ∧ (losePower s).rst.coreOk = false ∧ (losePower s).pwr.on = 0 ∧
    (losePower s).nv.queue = [] ∧ (losePower s).nv.pulse = false := ⟨rfl, rfl, rfl, rfl, rfl⟩

theorem exec_powerOn {f : FuseMap} {k : Nat} :
    ∃ x t, exec (.powerOn f k) s = .next t ∧ Touches [.sbi, .out] (poweredOn f k x) t ∧ x.pending = s.pending ∧
      (s.rst.aonOk = false → x = s) := by
  refine ⟨_, _, rfl, touches_hotJoin, ?_, fun h => ?_⟩
  · split
    · exact quiet_losePower .pending (by decide)
    · rfl
  · rw [if_neg (by rw [h]; decide)]

/-! ## The core supply -/

theorem untilOsc_reaches {n : Nat} : n ≤ (untilOsc n s).time.osc := by
  unfold untilOsc passNs
  split
  · have h : (passEdges (ceilDiv (n - s.time.osc) 4) s).time.osc = s.time.osc + 4 * ceilDiv (n - s.time.osc) 4 := by
      unfold passEdges TimeFront.edges
      dsimp only
      split <;> rfl
    have hceil : ceilDiv (n - s.time.osc) 4 = (n - s.time.osc + 4 - 1) / 4 := rfl
    rw [h, hceil]
    omega
  · change n ≤ s.time.osc + (n - s.time.osc)
    omega

/-- The ROM powers PD01 and PD13. -/
theorem runRom_facts : (runRom s).rst = s.rst ∧ (runRom s).pwr.on = s.pwr.on ||| 0x2002 ∧ (runRom s).time = s.time := by
  unfold runRom
  extract_lets s₁
  split
  · rw [touches_exhaustIbi.rst (by decide), touches_exhaustIbi.pwr (by decide), touches_exhaustIbi.time (by decide)]
    exact ⟨rfl, rfl, rfl⟩
  · exact ⟨rfl, rfl, rfl⟩

theorem runRom_counts (h : s.nv.epoch ≠ 0xFFFFFFFF) : (runRom s).epoch = s.nv.epoch + 1 ∧
    (runRom s).nv.queue = s.nv.queue ++ [.epoch (s.nv.epoch + 1)] := by
  unfold runRom
  extract_lets s₁
  rw [if_neg (show ¬ s₁.nv.epoch = 0xFFFFFFFF from h)]
  exact ⟨rfl, rfl⟩

theorem runRom_exhausted (h : s.nv.epoch = 0xFFFFFFFF) : (runRom s).exhausted = true ∧ (runRom s).nv.queue = s.nv.queue := by
  unfold runRom
  extract_lets s₁
  rw [if_pos (show s₁.nv.epoch = 0xFFFFFFFF from h), touches_exhaustIbi.exhausted (by decide), touches_exhaustIbi.nv (by decide)]
  exact ⟨rfl, rfl⟩

theorem exec_coreRise (haon : s.rst.aonOk = true) (hcore : s.rst.coreOk = false) :
    exec .pwrOkCoreRise s = .next (let x := onRst (fun r => { r with coreOk := true }) s
      if !x.pwr.on.getLsbD 1 then runRom (untilOsc 50000 x)
      else when (x.pwr.parked && x.pwr.wakeAsked && x.pwr.waking.isNone) beginWake x) := by
  refine (run_powered haon : execPwrOkCoreRise s = _).trans ?_
  rw [if_neg (by rw [hcore]; decide)]

theorem exec_coreRise_off (haon : s.rst.aonOk = true) (hcore : s.rst.coreOk = false) (hoff : s.pwr.on.getLsbD 1 = false) :
    exec .pwrOkCoreRise s = .next (runRom (untilOsc 50000 (onRst (fun r => { r with coreOk := true }) s))) := by
  refine (exec_coreRise haon hcore).trans ?_
  dsimp only
  rw [if_pos (by rw [onRst_pwr, hoff]; rfl)]

/-! ## A boot image -/

theorem quiet_placeRegions : Quiet [] s (placeRegions s) := .of_eq rfl

theorem quiet_shrinkFor {k i : Nat} : Quiet [.pwr, .place, .tree, .conf, .smp, .arc] s (shrinkFor k i s) := by
  have hmove : Quiet [.pwr, .place, .tree, .conf, .smp, .arc] s (startMove i false s) := by
    unfold startMove
    extract_lets ws s₁
    have h : Quiet [.pwr, .place, .tree, .conf, .smp, .arc] s s₁ := touches_onPwr.quiet.mono (by decide)
    exact quiet_ite (h.andThen quiet_endMove (by decide)) (h.andThen touches_onPwr.quiet (by decide))
  unfold shrinkFor
  split
  · exact hmove
  · exact touches_onSmp.quiet.mono (by decide)
  · exact touches_onArc.quiet.mono (by decide)
  · exact Quiet.refl

theorem touches_setRole {k : RoleKind} {b : Bool} {n r g : Nat} : Touches [.roles] s (setRole k b n r g s) := by
  unfold setRole
  split
  · exact touches_when (touches_put .roles rfl)
  · refine touches_ite Touches.refl ?_
    refine .trans ?_ (touches_when (touches_put .roles rfl))
    exact touches_put .roles rfl

theorem quiet_firstRole : Quiet [.roles, .place, .arc, .upl] s (firstRole s) :=
  quiet_ite (touches_setRole.quiet.mono (by decide)) (quiet_tryAt.mono (by decide))

/-- The fence lines that a history leaves asserted. -/
theorem mem_fencedInHistory {l : Nat} {h : List HistoryRec} : l ∈ fencedInHistory h ↔
    ∃ pre r post, h = pre ++ r :: post ∧ r.hkind = 1 ∧ r.index = l ∧ ∀ x ∈ post, ¬ (x.hkind = 2 ∧ x.index = l) := by
  induction h with
  | nil => simp [fencedInHistory]
  | cons a h ih =>
    have hhead : (a.hkind = 1 ∧ releasedLater a h = false) ∧ a.index = l ↔
        a.hkind = 1 ∧ a.index = l ∧ ∀ x ∈ h, ¬ (x.hkind = 2 ∧ x.index = l) := by
      constructor
      · rintro ⟨⟨hk, hr⟩, rfl⟩
        simp only [releasedLater, hk, beq_self_eq_true, Bool.true_and, List.any_eq_false, Bool.and_eq_true, beq_iff_eq] at hr
        exact ⟨hk, rfl, hr⟩
      · rintro ⟨hk, rfl, hr⟩
        refine ⟨⟨hk, ?_⟩, rfl⟩
        simp only [releasedLater, hk, beq_self_eq_true, Bool.true_and, List.any_eq_false, Bool.and_eq_true, beq_iff_eq]
        exact hr
    have hmem : l ∈ fencedInHistory (a :: h) ↔ ((a.hkind = 1 ∧ releasedLater a h = false) ∧ a.index = l) ∨ l ∈ fencedInHistory h := by
      rw [fencedInHistory]
      split
      case isTrue hc => simp [hc, eq_comm]
      case isFalse hc => simp [hc]
    rw [hmem, hhead, ih]
    constructor
    · rintro (⟨hk, hi, hp⟩ | ⟨pre, r, post, rfl, hr⟩)
      · exact ⟨[], a, h, rfl, hk, hi, hp⟩
      · exact ⟨a :: pre, r, post, rfl, hr⟩
    · rintro ⟨pre, r, post, he, hr⟩
      cases pre with
      | nil =>
        obtain ⟨rfl, rfl⟩ := List.cons.inj he
        exact .inl hr
      | cons b pre =>
        obtain ⟨rfl, rfl⟩ := List.cons.inj he
        exact .inr ⟨pre, r, post, rfl, hr⟩

theorem getLsbD_putBits {w l : Nat} {ls : List Nat} {f : BitVec w} (hl : l < w) :
    (ls.foldl (fun f l => putBit f l true) f).getLsbD l = true ↔ f.getLsbD l = true ∨ l ∈ ls := by
  induction ls generalizing f with
  | nil => simp
  | cons a ls ih =>
    rw [List.foldl_cons, ih, List.mem_cons]
    by_cases h : l = a
    · subst h
      simp [getLsbD_putBit_self f hl]
    · rw [getLsbD_putBit_ne h]
      simp [h]

/-- What the ROM does for an image that passes: it runs, and asserts what the history has fenced. -/
theorem runImage_facts {i : FwImage} : (runImage i s).stw.running = some i ∧ (runImage i s).stw.committed = some i ∧
    (runImage i s).stw.serving = true ∧ (runImage i s).grid = s.grid ∧
    (runImage i s).fence = (fencedInHistory s.nv.history).foldl (fun f l => putBit f l true) s.fence := by
  unfold runImage
  extract_lets s₁ s₂ cds s₃ s₄ s₅ s₆
  have h : Quiet [.pwr, .place, .tree, .conf, .smp, .arc] s₃
      (onPwr (fun p => { p with on := (bringUpDomains s₆).foldl (fun w d => putBit w d true) p.on }) s₆) := by
    refine .after touches_onPwr.quiet (by decide) (.trans ?_ (quiet_forEach fun r x => ?_))
    · refine .after (quiet_when quiet_placeRegions) (by decide) ?_
      exact touches_onSmp.quiet.mono (by decide)
    · refine .trans ?_ quiet_shrinkFor
      exact touches_onPwr.quiet.mono (by decide)
  exact ⟨h.stw (·.running) (fun _ => rfl) (by decide), h.stw (·.committed) (fun _ => rfl) (by decide),
    h.stw (·.serving) (fun _ => rfl) (by decide), h.grid (by decide), h.fence (by decide)⟩

theorem exec_bootImageRun {i : FwImage} (haon : s.rst.aonOk = true) (hon : s.pwr.on.getLsbD 1 = true) (hcore : s.rst.coreOk = true)
    (ha : s.rst.active = false) (hr : s.stw.running = none) (hi : imageReject i s = none) :
    exec (.bootImageRun i) s = .next (firstRole (runImage i s)) := by
  refine (run_powered haon : execBootImageRun i s = _).trans ?_
  rw [if_neg (by simp [hon, hcore, ha, hr, hi])]

/-! ## Fences -/

/-- A command's effect that leaves the fences alone. -/
theorem exec_fence {f : State → State} (h : (f s).fence = s.fence) : ∃ t, run f s = .next t ∧ t.fence = s.fence := by
  refine ⟨_, rfl, ?_⟩
  split
  · exact h
  · rfl

theorem raiseSource_fence {c : Nat} {x : State} (h : x.fence = s.fence) : (raiseSource c x).fence = s.fence :=
  (quiet_raiseSource.fence (by decide)).trans h

theorem when_fence {b : Bool} {f : State → State} (h : (f s).fence = s.fence) : (when b f s).fence = s.fence := by
  unfold when
  split
  · exact h
  · rfl

theorem dumpThen_fence {k c : Nat} {x : State} (h : x.fence = s.fence) :
    (dumpThen k false c (raiseSource c) x).fence = s.fence := by
  have hd : Quiet [.dump] x (autoDump k x) := quiet_ite touches_onDump.quiet touches_onDump.quiet
  unfold dumpThen
  split
  · exact (hd.fence (by decide)).trans h
  · exact raiseSource_fence ((hd.fence (by decide)).trans h)

theorem quiet_becomeParked : Quiet [.trc, .buf, .test, .arc, .free, .upl, .pwr, .rst] s (becomeParked s) := by
  unfold becomeParked
  extract_lets again s₁ s₂ s₃
  refine .trans ?_ (quiet_when ?_)
  · refine .after touches_onRst.quiet (by decide) (.after touches_onPwr.quiet (by decide) ?_)
    exact .trans (quiet_parkWork.mono (by decide)) (quiet_when quiet_emit)
  · intro k hk
    by_cases ho : k = .out
    · rw [ho]
      rfl
    · exact Part.same_hush (touches_wakeRequest k (by simp_all))

theorem becomeAwake_fence : (becomeAwake s).fence = s.fence := by
  unfold becomeAwake
  extract_lets s₁ s₂ s₃
  have h : Touches [.grid, .stw, .smp, .led, .conf, .tree, .upl, .buf, .out, .arc, .dump, .hrw, .pwr] s
      (deliverAuto (when (gridMayRun s₃) (openFrame s₃.time.ft true) s₃)) := by
    refine .after touches_deliverAuto (by decide) (.after (touches_when touches_openFrame) (by decide) ?_)
    refine .after touches_duePeriod (by decide) (.after touches_raiseInt (by decide) ?_)
    exact .after touches_onStw (by decide) (touches_onPwr.mono (by decide))
  exact h.fence (by decide)

theorem releaseBlock_fence : (releaseBlock s).fence = s.fence := by
  unfold releaseBlock
  extract_lets cs s₁ s₂ s₃ s₄ s₅ s₆
  have hlast : Quiet [.roles, .place, .arc, .upl, .dump] s₄
      (deliverAuto (issueWaiting s₆.arc.waiting.length (forEach [3, 12] afterRelease s₆))) := by
    refine .after quiet_deliverAuto (by decide) (.after quiet_issueWaiting (by decide) ?_)
    refine .after (quiet_forEach fun _ _ => quiet_afterRelease) (by decide) (.trans ?_ (quiet_when quiet_raise))
    exact quiet_forEach fun _ _ => quiet_raise
  exact hlast.fence (by decide)

/-- The sources of a reset, its end, and Parked leave the fences alone. -/
theorem resets_fence {n : Nat} {c : Instr} (hc : c ∈ [Instr.brownOut, .pinReset n, .pinResetRelease, .watchdogTimeout,
    .softwareReset, .lockup, .nvlogWriteComplete, .samplerRelease, .ijtagDebugReset, .clockFailure n, .parkEntryComplete, .wake,
    .wakeComplete]) : ∃ t, exec c s = .next t ∧ t.fence = s.fence := by
  simp only [List.mem_cons, List.not_mem_nil, or_false] at hc
  rcases hc with rfl | rfl | rfl | rfl | rfl | rfl | rfl | rfl | rfl | rfl | rfl | rfl | rfl
  · exact exec_fence (when_fence (raiseSource_fence rfl))
  · exact exec_fence (when_fence (raiseSource_fence (touches_passNs.fence (by decide))))
  · exact exec_fence rfl
  · exact exec_fence (when_fence (raiseSource_fence (touches_untilOsc.fence (by decide))))
  · refine (exec_fence ?_ : ∃ t, execSoftwareReset s = .next t ∧ t.fence = s.fence)
    split
    · rfl
    · exact raiseSource_fence (touches_untilTimer.fence (by decide))
  · exact exec_fence (when_fence (dumpThen_fence rfl))
  · exact exec_fence (when_fence ((quiet_applySources.fence (by decide)).trans (quiet_endPulse.fence (by decide))))
  · exact exec_fence (when_fence releaseBlock_fence)
  · exact exec_fence (when_fence (raiseSource_fence rfl))
  · exact exec_fence (when_fence (dumpThen_fence rfl))
  · exact exec_fence (when_fence ((quiet_becomeParked.fence (by decide)).trans (touches_parkWait.fence (by decide))))
  · exact exec_fence (touches_wakeRequest.fence (by decide))
  · exact exec_fence (when_fence becomeAwake_fence)

end Supplies

/-- Settles O57: what a reset, an end of it and Parked touch has no fence; at power-on the fuse map gives the lines, and the
image that runs adds those of the history. -/
theorem fencesSurviveResets : Obligations.FencesSurviveResets := by
  unfold Obligations.FencesSurviveResets
  refine ⟨fun n s c hc => resets_fence hc, fun f k s => ?_, ?_⟩
  · obtain ⟨x, t, he, ht, -, -⟩ := exec_powerOn (s := s) (f := f) (k := k)
    refine ⟨t, he, fun i hi => ?_⟩
    rw [ht.fence (by decide)]
    change (powerOnFences f).getLsbD i = _
    unfold powerOnFences
    split
    case isTrue h => rw [h, Bool.not_true, Bool.or_false]
    case isFalse h => rw [BitVec.getLsbD_allOnes, Bool.eq_false_iff.mpr h, Bool.not_false, Bool.or_true, decide_eq_true hi]
  · intro i s haon hon hcore ha hr hi _
    obtain ⟨-, -, hserving, hgrid, hfence⟩ := runImage_facts (s := s) (i := i)
    refine ⟨_, exec_bootImageRun haon hon hcore ha hr hi, ?_, ?_, fun l hl => ?_⟩
    · exact (quiet_firstRole.stw (·.serving) (fun _ => rfl) (by decide)).trans hserving
    · rw [quiet_firstRole.grid (by decide), hgrid]
    · rw [quiet_firstRole.fence (by decide), hfence, getLsbD_putBits hl, mem_fencedInHistory]

/-- Settles O27: a power-on starts from the reset values; the core supply starts the ROM, a wake or a reset; an image runs. -/
theorem supplyEventsComplete : Obligations.SupplyEventsComplete := by
  unfold Obligations.SupplyEventsComplete
  refine ⟨fun f k s => ?_, ?_, ?_, ?_, ?_, ?_, ?_, ?_, ?_⟩
  · obtain ⟨x, t, he, ht, hpending, hoff⟩ := exec_powerOn (s := s) (f := f) (k := k)
    exact ⟨t, he, ht.fuse (by decide), ht.die (by decide), (ht.pending (by decide)).trans hpending, ht.rst (by decide),
      ht.pwr (by decide), ht.grid (by decide), ht.hrw (by decide), ht.stw (by decide), ht.smp (by decide), ht.led (by decide),
      ht.roles (by decide), ht.place (by decide), ht.conf (by decide), ht.arc (by decide), ht.trc (by decide),
      ht.buf (by decide), ht.dump (by decide), ht.fence (by decide), congrArg (·.state) (ht.time (by decide)),
      fun h => (ht.nv (by decide)).trans (congrArg (·.nv) (hoff h))⟩
  · intro s haon
    exact ⟨_, run_powered haon, losePower_facts⟩
  · intro s haon hcore hoff hne
    obtain ⟨hrst, hpwr, htime⟩ := runRom_facts (s := untilOsc 50000 (onRst (fun r => { r with coreOk := true }) s))
    obtain ⟨hepoch, hqueue⟩ := runRom_counts (s := untilOsc 50000 (onRst (fun r => { r with coreOk := true }) s))
      (by rw [touches_untilOsc.nv (by decide)]; exact hne)
    refine ⟨_, exec_coreRise_off haon hcore hoff, ?_, ?_, ?_, ?_, ?_⟩
    · rw [hrst, touches_untilOsc.rst (by decide)]
      rfl
    · rw [hpwr, touches_untilOsc.pwr (by decide)]
      rfl
    · rw [hepoch, touches_untilOsc.nv (by decide)]
      rfl
    · rw [hqueue, touches_untilOsc.nv (by decide)]
      rfl
    · rw [htime]
      exact untilOsc_reaches
  · intro s haon hcore hoff hex
    obtain ⟨hrst, hpwr, htime⟩ := runRom_facts (s := untilOsc 50000 (onRst (fun r => { r with coreOk := true }) s))
    obtain ⟨hexh, hqueue⟩ := runRom_exhausted (s := untilOsc 50000 (onRst (fun r => { r with coreOk := true }) s))
      (by rw [touches_untilOsc.nv (by decide)]; exact hex)
    refine ⟨_, exec_coreRise_off haon hcore hoff, ?_, ?_, hexh, ?_, ?_⟩
    · rw [hrst, touches_untilOsc.rst (by decide)]
      rfl
    · rw [hpwr, touches_untilOsc.pwr (by decide)]
      rfl
    · rw [hqueue, touches_untilOsc.nv (by decide)]
      rfl
    · rw [htime]
      exact untilOsc_reaches
  · intro s haon hcore hon hask
    refine (exec_coreRise haon hcore).trans ?_
    simp only [onRst_pwr, hon, hask, Bool.not_true, Bool.and_false, Bool.false_and, Bool.false_eq_true, if_false, when]
  · intro s haon hcore hon hpark hask hw
    refine ⟨_, exec_coreRise haon hcore, ?_⟩
    simp only [onRst_pwr, hon, hpark, hask, hw, Bool.not_true, Bool.false_eq_true, if_false, when, Option.isNone_none,
      Bool.and_self, if_true]
    have h : (beginWake (onRst (fun r => { r with coreOk := true }) s)).rst = _ :=
      ((touches_onPwr.mono (by decide)).andThen (touches_when touches_emit) (by decide) : Touches [.pwr, .out] _ _).rst (by decide)
    rw [h]
    exact ⟨rfl, beginWake_waking⟩
  · intro s haon hcore hpark
    obtain ⟨w, hin⟩ := inReset_raiseSource (s := s) (c := srcBrownOut) (by decide) (.inr rfl)
    refine ⟨_, run_when haon (by simp [hcore, hpark]), hin.active, ?_, fun c hc => ?_, hin.pending, ?_⟩
    · rw [hin.applied]
      simp [srcBrownOut]
    · rw [hin.applied]
      simp [hc]
    · rw [hin.coreOk]
      simp [srcBrownOut]
  · intro s haon hpark
    exact run_when haon hpark
  · intro i s haon hon hcore ha hr hi
    obtain ⟨hrun, hcommit, hserving, -, -⟩ := runImage_facts (s := s) (i := i)
    refine ⟨_, exec_bootImageRun haon hon hcore ha hr hi, ?_, ?_, ?_⟩
    · exact (quiet_firstRole.stw (·.running) (fun _ => rfl) (by decide)).trans hrun
    · exact (quiet_firstRole.stw (·.committed) (fun _ => rfl) (by decide)).trans hcommit
    · exact (quiet_firstRole.stw (·.serving) (fun _ => rfl) (by decide)).trans hserving

end Sys2Proof.Machine
end

section
/-!
The test access port and the instruments of the 1687 network.
-/

namespace Sys2Proof.Machine

section TestPort

variable {s : State}

/-! ## Instructions of the port -/

theorem touches_onJtag {f : Jtag → Jtag} : Touches [.jtag] s (onJtag f s) := touches_put .jtag rfl

/-- The engines are held or released as the instruction says, and the instruction stays. -/
theorem holdEngines_jtag {b : Bool} : (holdEngines b s).jtag = { s.jtag with hold := b } := by
  unfold holdEngines
  split
  case isTrue h =>
    rw [beq_iff_eq.mp h]
  case isFalse =>
    split
    case isTrue hb =>
      have h : Quiet logicParts s (forEach [3, 5, 7, 8, 9, 11] (fun d => resetLogic d false) (loseFrames true s)) := by
        refine .trans ?_ (quiet_forEach fun _ _ => quiet_resetLogic)
        exact touches_loseFrames.quiet.mono (by decide)
      rw [hb, onJtag_jtag, h.jtag (by decide)]
    case isFalse hb =>
      have h : ∀ x : State, Quiet [.roles, .place, .arc, .upl] x (forEach [3, 12] afterRelease x) := fun _ =>
        quiet_forEach fun _ _ => quiet_afterRelease
      rw [(h _).jtag (by decide), Bool.eq_false_iff.mpr hb]
      rfl

theorem selectJtag_jtag {ir : Nat} {b : Bool} (hp : s.fuse.plaza = true) :
    (selectJtag ir b s).jtag = { s.jtag with ir := ir, hold := b } := by
  rw [selectJtag, hp]
  exact holdEngines_jtag

/-- An instruction of a chip's port is selected, with the engines held or released. -/
theorem exec_select {ir : Nat} {b : Bool} (haon : s.rst.aonOk = true) (hp : s.fuse.plaza = true) :
    ∃ t, run (selectJtag ir b) s = .next t ∧ t.jtag.ir = ir ∧ t.jtag.hold = b := by
  refine ⟨_, run_powered haon, ?_⟩
  rw [selectJtag_jtag hp]
  exact ⟨rfl, rfl⟩

theorem run_same {f : State → State} (h : f s = s) : run f s = .next s := by
  unfold run
  rw [h, ite_self]

/-- A Leaf has no port. -/
theorem run_select_leaf {ir : Nat} {b : Bool} (hp : s.fuse.plaza = false) : run (selectJtag ir b) s = .next s :=
  run_same (by rw [selectJtag, hp]; rfl)

/-! ## Instruments -/

/-- What an instrument of a domain shifts out, under the fuse lock. -/
def readInstrument (i : Instrument) (s : State) : State :=
  match i with
  | .status => when (mayRead s) shiftFree s
  | .counts => when (mayRead s) shiftFree s
  | .memoryContent secret => when (mayDebug s) (if secret then emit (.jtagData 0) else shiftFree) s

theorem exec_access {d : Nat} {i : Instrument} (haon : s.rst.aonOk = true) (hd : d ≤ 29) :
    exec (.ijtagInstrumentAccess d i) s = .next (readInstrument i s) := by
  refine (run_powered haon : execIjtagInstrumentAccess d i s = _).trans ?_
  rw [if_neg (by omega)]
  cases i <;> rfl

/-- An instrument that may be read shifts out a free value. -/
theorem exec_access_free {d : Nat} {i : Instrument} (haon : s.rst.aonOk = true) (hd : d ≤ 29) (hi : readInstrument i s = shiftFree s) :
    ∃ t, exec (.ijtagInstrumentAccess d i) s = .next t ∧ t.out = s.out ++ [.jtagData (Config.fresh s.free)] :=
  ⟨_, (exec_access haon hd).trans (congrArg _ hi), rfl⟩

end TestPort

/-- Settles O26: the port's instructions and the instruments under the fuse lock. -/
theorem testPortCommandsComplete : Obligations.TestPortCommandsComplete := by
  unfold Obligations.TestPortCommandsComplete
  refine ⟨?_, ?_, ?_, ?_, ?_, ?_, ?_, ?_, ?_, ?_⟩
  · intro s haon hp
    refine ⟨exec_select haon hp, ?_, exec_select haon hp, exec_select haon hp, exec_select haon hp, exec_select haon hp,
      exec_select haon hp⟩
    refine ⟨_, (run_powered haon : execIdcode s = _), ?_⟩
    rw [when, if_pos hp, touches_emit.jtag (by decide), selectJtag_jtag hp]
    exact ⟨rfl, rfl, List.mem_append_right _ (List.mem_singleton.mpr rfl)⟩
  · intro code s haon hp hc hlisted
    refine ⟨_, (run_powered haon : execBypass code s = _), ?_⟩
    rw [if_neg (by simpa [listedCode] using hlisted), Nat.mod_eq_of_lt hc, selectJtag_jtag hp]
    exact ⟨rfl, rfl⟩
  · intro code s hp
    refine ⟨run_select_leaf hp, ?_, run_select_leaf hp, run_select_leaf hp, run_select_leaf hp, run_select_leaf hp, ?_,
      run_select_leaf hp⟩
    · refine (run_same ?_ : execIdcode s = _)
      rw [when, if_neg (by rw [hp]; decide), selectJtag, hp]
      rfl
    · refine (run_same ?_ : execBypass code s = _)
      rw [selectJtag, hp]
      exact ite_self _
  · rintro d i s haon hd (rfl | rfl) hm
    · exact exec_access_free haon hd (if_pos hm)
    · exact exec_access_free haon hd (if_pos hm)
  · intro d s haon hd hm
    exact ⟨exec_access_free haon hd (if_pos hm), (exec_access haon hd).trans (congrArg _ (if_pos hm))⟩
  · intro d s haon hm hr
    refine ⟨_, (run_powered haon : execIjtagMemorySelftest d s = _), ?_⟩
    rw [if_neg (by rw [hm]; decide), if_pos hr]
    rfl
  · intro d s haon hm hr
    refine ⟨_, (run_powered haon : execIjtagMemorySelftest d s = _), ?_⟩
    rw [if_neg (by rw [hm]; decide), if_neg (by rw [hr]; decide)]
    rfl
  · intro s haon hm ha
    refine ⟨_, run_when haon hm, ?_⟩
    rw [autoDump_accepted ha]
    rfl
  · intro s haon hm hp
    exact (run_when haon hm).trans (congrArg _ (raiseSource_held (by decide) hp))
  · intro s haon hm hp
    obtain ⟨hactive, hin, -, -, -⟩ := raiseSource_applied (c := srcDebug) (by decide) hp
    exact ⟨_, run_when haon hm, hactive, hin⟩

end Sys2Proof.Machine
end

section
/-!
The Crossings: a clock that starts, and a transfer that times out.
-/

namespace Sys2Proof.Machine

section Crossings

variable {s : State} {n : Nat}

/-! ## The buffer master's errors -/

theorem quiet_bufRetire {id : Nat} : Quiet [] s (bufRetire id s) := by
  unfold bufRetire
  extract_lets rest
  split
  · exact .of_eq rfl
  · exact .of_eq rfl

theorem touches_countDropped {c : Chain} {k : Nat} : Touches [.smp] s (countDropped c k s) :=
  touches_ite touches_onSmp Touches.refl

theorem touches_countBlocks {l : List (Nat × BufData)} : Touches [.trc] s (countBlocks l s) :=
  touches_forEach fun _ _ => by
    split
    · exact touches_onSource
    · exact Touches.refl

theorem quiet_chainExhaust : Quiet [.buf, .trc, .smp] s (chainExhaust n s) := by
  unfold chainExhaust
  extract_lets c
  refine quiet_ite (touches_chainDrop.quiet.mono (by decide)) ?_
  refine .after touches_countDropped.quiet (by decide) (.after touches_countBlocks.quiet (by decide) ?_)
  exact touches_onChain.quiet.mono (by decide)

theorem quiet_closeFailed : Quiet [.buf, .trc, .smp] s (closeAnswered n true none s) := by
  unfold closeAnswered
  extract_lets c
  split
  · exact Quiet.refl
  · exact .trans quiet_descDone quiet_chainExhaust

theorem quiet_queryWritten {rest st : Nat} : Quiet [.arc] s (queryWritten n rest st s) := by
  unfold queryWritten
  split
  · exact Quiet.refl
  · split
    · exact Quiet.refl
    · extract_lets flags r s₁ mark s₂
      refine .trans (.trans ?_ touches_onArc.quiet) quiet_complete
      exact quiet_emit

theorem quiet_outputFailed {rest fill : Nat} : Quiet [.buf, .arc] s (outputAnswered n rest fill true none s) := by
  unfold outputAnswered
  extract_lets c
  split
  · exact Quiet.refl
  · extract_lets finishWith
    refine .after touches_chainDrop.quiet (by decide) (.trans (.after quiet_queryWritten (by decide) ?_) quiet_complete)
    exact quiet_descDone

theorem quiet_bufFailed {op : BufOp} : Quiet [.buf, .arc, .trc, .smp] s (bufFailed op s) := by
  unfold bufFailed
  extract_lets s₁
  have h : Quiet [.buf, .arc, .trc, .smp] s s₁ := touches_onBuf.quiet.mono (by decide)
  split
  · exact h.andThen quiet_closeFailed (by decide)
  · exact h.andThen quiet_outputFailed (by decide)
  · refine .after touches_countDropped.quiet (by decide) ?_
    exact h.andThen touches_onChain.quiet (by decide)
  · exact h

/-! ## A port's errors -/

theorem Touches.quiet_out {t : State} {l l' : List Part} (h : Touches l s t) (hl : ∀ k ∈ l, k = .out ∨ k ∈ l') :
    Quiet l' s t := fun k hk => by
  by_cases ho : k = .out
  · rw [ho]
    rfl
  · exact Part.same_hush (h k fun hm => (hl k hm).elim ho hk)

theorem ArcOnly.quiet {t : State} (h : ArcOnly s t) : Quiet [.arc] s t := h.1.quiet_out (by decide)

theorem quiet_joinCds {k i a b c : Nat} : Quiet [.pwr, .nv, .place, .tree, .conf, .smp, .arc] s (joinCds k i a b c s) := by
  unfold joinCds
  refine quiet_ite Quiet.refl ?_
  extract_lets s₁ s₂
  refine .trans (.trans (.after quiet_shrinkFor (by decide) ?_) quiet_raiseInt) quiet_raise
  refine .after touches_nvPush.quiet (by decide) ?_
  exact touches_onPwr.quiet.mono (by decide)

theorem quiet_portShortage : Quiet [] s (portShortage s) := by
  unfold portShortage
  split
  · exact quiet_emit
  · exact .trans quiet_raise quiet_emit
  · exact Quiet.refl

theorem touches_assertFence {l h c a b : Nat} : Touches [.fence, .nv] s (assertFence l h c a b s) := by
  refine .after touches_nvPush (by decide) ?_
  exact (touches_put .fence rfl).mono (by decide)

theorem quiet_failPort {p : Nat} : Quiet [.fence, .pwr, .nv, .place, .tree, .conf, .smp, .arc] s (failPort p s) := by
  unfold failPort
  refine quiet_ite Quiet.refl ?_
  extract_lets s₁ s₂ gone s₃ here lostOps cut again s₄ s₅ s₆ s₇
  refine .trans (.trans (.after quiet_issueWaiting (by decide) ?_) quiet_raise) (quiet_portShortage.mono (by decide))
  refine .after (quiet_forEach fun _ _ => arcOnly_arcWrite.quiet) (by decide) ?_
  refine .after (quiet_forEach fun _ _ => arcOnly_markSkipped.quiet) (by decide) ?_
  refine .after touches_onArc.quiet (by decide) ?_
  refine .after (quiet_forEach fun _ _ => touches_onArc.quiet) (by decide) ?_
  exact .after quiet_joinCds (by decide) (touches_assertFence.quiet.mono (by decide))

theorem quiet_portError {p : Nat} : Quiet [.fence, .pwr, .nv, .place, .tree, .conf, .smp, .arc] s (portError p s) := by
  refine .trans ?_ (quiet_when quiet_failPort)
  exact touches_onArc.quiet.mono (by decide)

theorem quiet_opFailed {o : MemOp} : Quiet [.fence, .pwr, .nv, .place, .tree, .conf, .smp, .arc] s (opFailed o s) := by
  unfold opFailed
  extract_lets s₁ s₂
  have h : Quiet [.fence, .pwr, .nv, .place, .tree, .conf, .smp, .arc] s s₁ := quiet_portError
  refine quiet_ite h (.after quiet_issueWaiting (by decide) ?_)
  exact h.andThen touches_onArc.quiet (by decide)

/-! ## A packet's way out -/

theorem touches_emitSome {o : Option Out} : Touches [.out] s (emitSome o s) := by
  unfold emitSome
  split
  · exact Touches.refl
  · exact touches_emit

theorem touches_inject {p : Packet} {port : Nat} : Touches [.upl, .place, .out] s (inject p port s) := by
  unfold inject
  extract_lets marks echo p' s₁ s₂ s₃
  refine .after touches_emit (by decide) (.after touches_onPlace (by decide) ?_)
  refine .after (touches_when touches_onUpl) (by decide) ?_
  exact (touches_put .upl rfl).mono (by decide)

theorem touches_onGate {f : Gate → Gate} : Touches [.upl] s (onGate f s) := touches_onUpl

theorem touches_roundabout {fuel : Nat} : Touches [.upl] s (roundabout fuel s).2 := by
  induction fuel generalizing s with
  | zero => exact Touches.refl
  | succ fuel ih =>
    unfold roundabout
    split
    · exact Touches.refl
    · rename_i g _
      extract_lets c s₁ visiting
      have h : Touches [.upl] s s₁ := touches_ite (touches_onClass.trans touches_onGate) Touches.refl
      have hite : ∀ {b : Prop} [Decidable b] {x y : Option Nat × State}, Touches [.upl] s x.2 → Touches [.upl] s y.2 →
          Touches [.upl] s (if b then x else y).2 := fun hx hy => by
        split
        · exact hx
        · exact hy
      exact hite h ((h.trans touches_onGate).trans ih)

theorem touches_charge {c k : Nat} : Touches [.upl] s (charge c k s) := by
  unfold charge
  extract_lets own s₁ fromTrace fromDump
  refine touches_ite touches_onClass (.trans (.trans ?_ touches_onClass) touches_onClass)
  exact touches_onClass

theorem touches_popHead {c : Nat} : Touches [.trc, .upl] s (popHead c s) :=
  touches_ite (touches_onTrc.mono (by decide)) (touches_onUpl.mono (by decide))

theorem touches_sendHead {c port : Nat} : Touches [.trc, .upl, .place, .out] s (sendHead c port s) := by
  unfold sendHead
  split
  · exact Touches.refl
  · extract_lets o s₁ s₂
    have h : Touches [.trc, .upl, .place, .out] s s₂ := by
      refine .after touches_charge (by decide) (.after touches_emitSome (by decide) ?_)
      exact .after touches_inject (by decide) (touches_popHead.mono (by decide))
    refine touches_ite h (.after touches_onGate (by decide) ?_)
    exact h.andThen touches_onClass (by decide)

theorem touches_viaRoundabout {port : Nat} : Touches [.trc, .upl, .place, .out] s (viaRoundabout port s).2 := by
  have h : Touches [.upl] s (roundabout 9 s).2 := touches_roundabout
  unfold viaRoundabout
  revert h
  generalize roundabout 9 s = x
  obtain ⟨_ | c, x⟩ := x
  · exact fun h => h.mono (by decide)
  · exact fun h => .after touches_sendHead (by decide) (h.mono (by decide))

theorem touches_nextPacket {port : Nat} : Touches [.trc, .upl, .place, .out] s (nextPacket port s).2 := by
  have hite : ∀ {b : Prop} [Decidable b] {x y : Nat × State}, Touches [.trc, .upl, .place, .out] s x.2 →
      Touches [.trc, .upl, .place, .out] s y.2 → Touches [.trc, .upl, .place, .out] s (if b then x else y).2 := fun hx hy => by
    split
    · exact hx
    · exact hy
  unfold nextPacket
  split
  · refine hite (.after touches_emit (by decide) (.after touches_inject (by decide) ?_)) touches_viaRoundabout
    exact touches_onUpl.mono (by decide)
  · refine hite (.after touches_emitSome (by decide) (.after touches_inject (by decide) ?_)) touches_viaRoundabout
    exact touches_onUpl.mono (by decide)
  · exact touches_viaRoundabout

theorem touches_discardPacket {port : Nat} : Touches [.trc, .upl, .place, .out] s (discardPacket port s) := by
  unfold discardPacket
  split
  · exact Touches.refl
  · refine touches_ite (.after (touches_put .out rfl) (by decide) ?_) Touches.refl
    exact touches_nextPacket

/-! ## A transfer that times out -/

theorem endRun_run {b : Bool} : (endRun wrapperError b s).test.run = none := by
  unfold endRun
  split
  · assumption
  · exact congrArg (·.run) (quiet_raise (l := []).test (by decide))

theorem quiet_endRun {b : Bool} : Quiet [.test] s (endRun wrapperError b s) := by
  unfold endRun
  split
  · exact Quiet.refl
  · refine .trans (.trans (.trans (.trans ?_ quiet_emit) touches_onTest.quiet) touches_onTest.quiet) quiet_raise
    exact touches_onTest.quiet

/-- No outcome of a time-out touches the count of time-outs. -/
theorem quiet_timeoutOutcome {u : GroupUse} :
    Quiet [.fence, .pwr, .nv, .place, .tree, .conf, .smp, .arc, .trc, .upl, .buf, .test] s (timeoutOutcome u s) := by
  unfold timeoutOutcome
  split
  · exact touches_onConc.quiet.mono (by decide)
  · exact touches_discardPacket.quiet_out (by decide)
  · exact touches_onUpl.quiet.mono (by decide)
  · split
    · exact Quiet.refl
    · exact .after quiet_bufFailed (by decide) (quiet_bufRetire.mono (by decide))
  · exact quiet_endRun.mono (by decide)
  · split
    · exact quiet_portError.mono (by decide)
    · exact quiet_opFailed.mono (by decide)
  all_goals exact Quiet.refl

end Crossings

/-- Settles O31: a clock that runs ends its group's wait; a time-out is counted, with the outcome of its group's use. -/
theorem crossingEventsComplete : Obligations.CrossingEventsComplete := by
  unfold Obligations.CrossingEventsComplete
  have hexec : ∀ g s, s.rst.aonOk = true → g < 32 → nativeGroup g s = false → mayTimeOut g s = true →
      exec (.dravaTimeout g) s = .next (timeoutOutcome (groupUse g s.fuse.plaza) (onPwr (fun p => { p with
        xingWait := putBit p.xingWait g (p.dravaForced.getLsbD g) }) (onHrw (fun h => { h with xingTmo := satInc h.xingTmo }) s))) := by
    intro g s haon hg hn hm
    refine (run_powered haon : execDravaTimeout g s = _).trans ?_
    rw [if_neg (by simp [hn, hm, hg])]
    rfl
  refine ⟨?_, ?_, ?_, ?_, ?_⟩
  · intro g s haon hg
    refine ⟨_, run_when haon (by simpa using hg), ?_⟩
    have hbits : ∀ x : State, (settleGroup g x).pwr.xingWait = x.pwr.xingWait ∧
        (settleGroup g x).pwr.dravaForced = x.pwr.dravaForced := fun x => by
      unfold settleGroup
      split <;> exact ⟨rfl, rfl⟩
    have hclear : ∀ v : Word32, (putBit v g false).getLsbD g = false := fun v => by simp [putBit]
    rw [groupRuns, (hbits _).1, (hbits _).2]
    exact ⟨hclear _, hclear _⟩
  · intro g s haon hg hn hm
    exact ⟨_, hexec g s haon hg hn hm, quiet_timeoutOutcome.hrw (·.xingTmo) (fun _ => rfl) (by decide)⟩
  · intro g c s haon hg hn hm hu
    refine ⟨_, hexec g s haon hg hn hm, ?_⟩
    rw [hu]
    have hne : ({ conc c s with skipSeal := true } : Conc) ≠ Conc.start := fun h => by
      have : true = Conc.start.skipSeal := congrArg (·.skipSeal) h
      revert this
      decide
    exact congrArg (·.skipSeal) (tget_tput_ne hne)
  · intro g s haon hg hn hm hu
    refine ⟨_, hexec g s haon hg hn hm, ?_⟩
    rw [hu]
    rfl
  · intro g u s haon hg hn hm hu _
    refine ⟨_, hexec g s haon hg hn hm, ?_⟩
    rw [hu]
    exact endRun_run

end Sys2Proof.Machine
end

section
/-!
Captures, hangs, trial images and debug access.
-/

namespace Sys2Proof.Machine

section DumpEvents

variable {s : State} {d : Dump}

/-! ## A capture -/

theorem touches_storeDump : Touches [.dump, .stw, .led, .upl] s (storeDump d s) := by
  unfold storeDump
  extract_lets next s₁ lost s₂
  have h : Touches [.dump, .stw, .led, .upl] s s₁ := touches_onDump.mono (by decide)
  refine touches_ite (.after touches_onDump (by decide) ?_) (h.andThen touches_onDump (by decide))
  exact h.andThen (touches_when touches_raise) (by decide)

theorem storeDump_auto (h : d.auto = true) : (storeDump d s).dump =
    { s.dump with seq := s.dump.seq + 1, slot0 := some (d, s.time.ft, false), lastAuto := some s.time.ft } := by
  unfold storeDump
  extract_lets next s₁ lost s₂
  rw [if_pos h]
  have h₂ : Touches [.stw, .led, .upl] s₁ s₂ := touches_when touches_raise
  change ({ s₂.dump with slot0 := some (d, s₂.time.ft, false), lastAuto := some s₂.time.ft } : Dumps) = _
  rw [h₂.dump (by decide), h₂.time (by decide)]
  rfl

theorem storeDump_commanded (h : d.auto = false) : (storeDump d s).dump =
    { s.dump with seq := s.dump.seq + 1, slot1 := some d } := by
  unfold storeDump
  extract_lets next s₁ lost s₂
  rw [if_neg (by rw [h]; decide)]
  rfl

theorem quiet_deliverCommanded {q : DumpReq} : Quiet [.arc, .upl, .buf] s (deliverCommanded d q s) := by
  have hup : ∀ x : State, Quiet [.arc, .upl, .buf] x (when (q.dest.getLsbD 1) (dumpUp d) x) := fun _ =>
    quiet_when (quiet_dumpUp.mono (by decide))
  have hchain : ∀ (e : Desc) (x : State), Quiet [.arc, .upl, .buf] x (dumpToChain d q e x) := fun e x => by
    have hout : Quiet [.arc, .upl, .buf] x (outputTo e (dumpSize d) (.dump d) x).2 := touches_outputTo.quiet_out (by decide)
    exact hout.trans (.of_eq rfl)
  unfold deliverCommanded
  extract_lets s₁
  split
  · exact quiet_ite ((hup s).trans (hchain _ _)) ((hup s).trans quiet_complete)
  · exact (hup s).trans quiet_complete

/-- Delivery marks the dump of slot 0 as delivered, or leaves the dump unit alone. -/
theorem deliverAuto_dump {ft : Nat} {b : Bool} (h : s.dump.slot0 = some (d, ft, b)) :
    ∃ b', (deliverAuto s).dump = { s.dump with slot0 := some (d, ft, b') } := by
  have hsame : s.dump = { s.dump with slot0 := some (d, ft, b) } := by rw [← h]
  cases b
  case true =>
    refine ⟨true, ?_⟩
    unfold deliverAuto
    rw [h]
    exact hsame
  case false =>
    unfold deliverAuto
    rw [h]
    dsimp only
    split
    · exact ⟨true, quiet_dumpUp.dump (by decide)⟩
    · exact ⟨false, hsame⟩

/-- Whatever becomes of slot 0, the other fields of the dump unit stay. -/
theorem deliverAuto_other : (deliverAuto s).dump = { s.dump with slot0 := (deliverAuto s).dump.slot0 } := by
  unfold deliverAuto
  split
  · split
    · rw [quiet_dumpUp.dump (by decide)]
      rfl
    · rfl
  · rfl

theorem foldl_min_le {l : List Nat} {k : Nat} : l.foldl min k ≤ k := by
  induction l generalizing k with
  | nil => exact Nat.le_refl k
  | cons a l ih => exact ih.trans (Nat.min_le_left k a)

theorem le_foldl_min {l : List Nat} {k n : Nat} (hk : n ≤ k) (hl : ∀ x ∈ l, n ≤ x) : n ≤ l.foldl min k := by
  induction l generalizing k with
  | nil => exact hk
  | cons a l ih => exact ih (Nat.le_min.mpr ⟨hk, hl a (by simp)⟩) fun x hx => hl x (List.mem_cons_of_mem _ hx)

/-- A capture as it is before its delivery: which dump it stores, and in which state. -/
theorem captureDump_eq {k : Nat} {es : List DumpEntry} {q : DumpReq} (hq : (s.dump.pending.find? fun x => x.trigger == k) = some q)
    (hft : q.reqFt ≤ s.time.ft) (hp : s.pwr.parked = false) :
    ∃ (d : Dump) (x : State) (due : List DumpReq), captureDump k es s
        = deliverAuto (forEach (due.filter fun y => y.trigger ≤ 2) (deliverCommanded d)
            (when d.truncated (raise 0x0E02 (engineKey (storeDump d x).die 13) 0) (storeDump d x))) ∧
      d.reqFt = q.reqFt ∧ d.dumpSeq = s.dump.seq ∧ (∀ y ∈ due, y ∈ s.dump.pending) ∧
      d.auto = decide (3 ≤ (due.map (·.trigger)).foldl min k) ∧ x.dump.seq = s.dump.seq ∧ x.dump.slot1 = s.dump.slot1 ∧
      x.dump.awaiting = s.dump.awaiting ∧ x.dump.pending = s.dump.pending.filter fun y => !(y.reqFt ≤ x.time.ft) := by
  have hlater : s.time.ft ≤ (untilFt q.reqFt s).time.ft :=
    (later_untilFt (Later.refl (ok := fun _ => False) s)).ft
  have htouch : Touches [.time] s (untilFt q.reqFt s) := touches_untilFt
  have hgo : ¬ ((untilFt q.reqFt s).pwr.parked || (untilFt q.reqFt s).time.ft < q.reqFt) = true := by
    rw [htouch.pwr (by decide), hp]
    simp
    omega
  unfold captureDump
  rw [hq]
  dsimp only
  rw [if_neg hgo]
  refine ⟨_, _, _, rfl, rfl, ?_, fun y hy => ?_, rfl, ?_, ?_, ?_, ?_⟩
  · exact congrArg (·.seq) (htouch.dump (by decide))
  · have := (List.mem_filter.mp hy).1
    rwa [htouch.dump (by decide)] at this
  · exact congrArg (·.seq) (htouch.dump (by decide))
  · exact congrArg (·.slot1) (htouch.dump (by decide))
  · exact congrArg (·.awaiting) (htouch.dump (by decide))
  · exact congrArg (fun z : Dumps => z.pending.filter _) (htouch.dump (by decide))

/-- What a capture delivers and reports leaves the dump unit and the time as the store left them. -/
theorem quiet_delivered {x : State} {due : List DumpReq} : Quiet [.arc, .upl, .buf] x
    (forEach (due.filter fun y => y.trigger ≤ 2) (deliverCommanded d)
      (when d.truncated (raise 0x0E02 (engineKey x.die 13) 0) x)) :=
  .trans (quiet_when quiet_raise) (quiet_forEach fun _ _ => quiet_deliverCommanded)

/-- Nothing waits for a capture. -/
theorem afterCapture_none (h : s.dump.awaiting = []) : afterCapture s = s := by
  have hd : ({ s.dump with awaiting := [] } : Dumps) = s.dump := by rw [← h]
  unfold afterCapture
  rw [h]
  exact congrArg (fun x => { s with dump := x }) hd

theorem exec_dumpCapture {k : Nat} {es : List DumpEntry} (haon : s.rst.aonOk = true)
    (h : (captureDump k es s).dump.awaiting = []) : exec (.dumpCapture k es) s = .next (captureDump k es s) := by
  refine (run_powered haon : execDumpCapture k es s = _).trans ?_
  dsimp only
  rw [afterCapture_none h, ite_self]

/-! ## Trial images -/

/-- A new image runs in trial, and what it stops is answered. -/
theorem quiet_restart : Quiet [] s (closeAll 2 (completeWhere (fun _ => true) Config.aborted [] s)) :=
  .trans quiet_completeWhere quiet_closeAll

theorem revertTrial_trial {e : Nat} (h : s.stw.trialEnd = some e) : ∃ ft, (revertTrial s).stw.running = s.stw.committed ∧
    (revertTrial s).stw.trialEnd = none ∧ (revertTrial s).stw.reverts = s.stw.reverts + 1 ∧
    (revertTrial s).nv.queue = s.nv.queue ++ [.event ft 0x0F01] := by
  unfold revertTrial
  rw [h, if_neg (by simp)]
  have hq : ∀ (a : Nat) (x : State), Quiet [] x (raise 0x0F01 a 0 (raiseInt 7 x)) := fun _ _ => .trans quiet_raiseInt quiet_raise
  refine ⟨ftStamp s, (hq _ _).stw (·.running) (fun _ => rfl) (by decide), (hq _ _).stw (·.trialEnd) (fun _ => rfl) (by decide),
    (hq _ _).stw (·.reverts) (fun _ => rfl) (by decide), ?_⟩
  rw [(hq _ _).nv (by decide)]
  rfl

/-- An image that starts in trial. -/
theorem started_facts {img : FwImage} {n o : Nat} {t : State} (hidle : s.stw.deferred = []) (ht : t = deliverAuto (onStw (fun t => { t with
    running := some img, staged := none, trialEnd := some n, lastService := o }) s)) :
    t.stw.running = some img ∧ t.stw.staged = none ∧ t.stw.deferred = [] ∧ t.stw.committed = s.stw.committed ∧
      t.stw.trialEnd = some n ∧ t.time = s.time := by
  subst ht
  have hq : Quiet [.arc, .upl, .dump] (onStw (fun t => { t with
    running := some img, staged := none, trialEnd := some n, lastService := o }) s) _ := quiet_deliverAuto
  exact ⟨hq.stw (·.running) (fun _ => rfl) (by decide), hq.stw (·.staged) (fun _ => rfl) (by decide),
    deferred_deliverAuto.trans hidle, hq.stw (·.committed) (fun _ => rfl) (by decide),
    hq.stw (·.trialEnd) (fun _ => rfl) (by decide), hq.time (by decide)⟩

/-- What the end of a trial leaves, where nothing is deferred. -/
theorem reverted_facts {e : Nat} {t : State} (he : s.stw.trialEnd = some e) (hidle : s.stw.deferred = [])
    (ht : t = closeAll 2 (revertTrial s)) : ∃ ft, t.stw.running = s.stw.committed ∧ t.stw.trialEnd = none ∧
      t.stw.reverts = s.stw.reverts + 1 ∧ t.stw.deferred = [] ∧ t.nv.queue = s.nv.queue ++ [.event ft 0x0F01] := by
  subst ht
  obtain ⟨ft, hrun, hend, hrev, hnv⟩ := revertTrial_trial he
  have hclose : Quiet [] (revertTrial s) (closeAll 2 (revertTrial s)) := quiet_closeAll
  exact ⟨ft, (hclose.stw (·.running) (fun _ => rfl) (by decide)).trans hrun,
    (hclose.stw (·.trialEnd) (fun _ => rfl) (by decide)).trans hend,
    (hclose.stw (·.reverts) (fun _ => rfl) (by decide)).trans hrev, idle_closeAll (deferred_revertTrial.trans hidle),
    (congrArg (·.queue) (hclose.nv (by decide))).trans hnv⟩

end DumpEvents

/-- Settles O23: one capture stores one dump, in the slot of its kind; a hang asks for one; an image in trial starts, and is
given up. -/
theorem dumpFirmwareEventsComplete : Obligations.DumpFirmwareEventsComplete := by
  unfold Obligations.DumpFirmwareEventsComplete
  refine ⟨?_, ?_, ?_, ?_, ?_, ?_, ?_⟩
  · intro k es q s haon hawait hq hft hp hauto
    obtain ⟨d, x, due, heq, hreq, hseq, hdue, hd, hxseq, hxslot, hxawait, hxpend⟩ := captureDump_eq (es := es) hq hft hp
    have hk : 3 ≤ k := by
      have htrigger : q.trigger = k := by simpa using List.find?_some hq
      rw [← htrigger]
      exact hauto q (List.mem_of_find?_eq_some hq)
    have hda : d.auto = true := by
      rw [hd, decide_eq_true_eq]
      exact le_foldl_min hk fun y hy => by
        obtain ⟨z, hz, rfl⟩ := List.mem_map.mp hy
        exact hauto z (hdue z hz)
    have hdelivered := quiet_delivered (d := d) (x := storeDump d x) (due := due)
    have hdump := (hdelivered.dump (by decide)).trans (storeDump_auto (s := x) hda)
    have hslot := congrArg (·.slot0) hdump
    obtain ⟨b, hb⟩ := deliverAuto_dump hslot
    rw [hdump] at hb
    have htime : (captureDump k es s).time = x.time := by
      rw [heq, quiet_deliverAuto.time (by decide), hdelivered.time (by decide), touches_storeDump.time (by decide)]
    rw [← heq] at hb
    refine ⟨_, d, b, exec_dumpCapture haon (by rw [hb]; exact hxawait.trans hawait), ?_, hreq, hseq, ?_, ?_, ?_⟩
    · rw [hb, htime]
    · rw [hb]
      exact congrArg (· + 1) hxseq
    · rw [hb]
      exact hxslot
    · rw [hb, htime]
      exact hxpend
  · intro k es q s haon hawait hq hft hp hk
    obtain ⟨d, x, due, heq, hreq, hseq, hdue, hd, hxseq, hxslot, hxawait, hxpend⟩ := captureDump_eq (es := es) hq hft hp
    have hda : d.auto = false := by
      rw [hd, decide_eq_false_iff_not]
      have := foldl_min_le (l := due.map (·.trigger)) (k := k)
      omega
    have hdelivered := quiet_delivered (d := d) (x := storeDump d x) (due := due)
    have hdump := (hdelivered.dump (by decide)).trans (storeDump_commanded (s := x) hda)
    have hb := deliverAuto_other (s := forEach (due.filter fun y => y.trigger ≤ 2) (deliverCommanded d)
      (when d.truncated (raise 0x0E02 (engineKey (storeDump d x).die 13) 0) (storeDump d x)))
    have htime : (captureDump k es s).time = x.time := by
      rw [heq, quiet_deliverAuto.time (by decide), hdelivered.time (by decide), touches_storeDump.time (by decide)]
    rw [hdump, ← heq] at hb
    refine ⟨_, d, exec_dumpCapture haon (by rw [hb]; exact hxawait.trans hawait), ?_, hreq, hseq, ?_, ?_⟩
    · rw [hb]
    · rw [hb]
      exact congrArg (· + 1) hxseq
    · rw [hb, htime]
      exact hxpend
  · intro d o s haon hp ha
    refine ⟨_, run_when haon (by rw [hp]; rfl), ?_⟩
    rw [touches_raise.dump (by decide), autoDump_accepted ha]
    rfl
  · intro d o s haon hp ha
    refine ⟨_, run_when haon (by rw [hp]; rfl), ?_⟩
    rw [touches_raise.dump (by decide), autoDump_suppressed ha]
    exact ⟨rfl, rfl⟩
  · intro img at_ s haon hv hst
    refine ⟨_, (run_powered haon : execFwRestart s = _), ?_⟩
    rw [hst]
    dsimp only
    rw [if_neg (by rw [hv]; decide)]
    have hidle : (closeAll 2 (completeWhere (fun _ => true) Config.aborted [] (untilFt at_ s))).stw.deferred = [] :=
      idle_closeAll deferred_completeAll
    have hquiet : Quiet [.time] s (closeAll 2 (completeWhere (fun _ => true) Config.aborted [] (untilFt at_ s))) :=
      touches_untilFt.quiet.andThen quiet_restart (by decide)
    have hcommitted := hquiet.stw (·.committed) (fun _ => rfl) (by decide)
    revert hidle hcommitted
    generalize closeAll 2 (completeWhere (fun _ => true) Config.aborted [] (untilFt at_ s)) = x
    intro hidle hcommitted
    obtain ⟨hrun, hstaged, hdef, hcom, hend, htime⟩ := started_facts hidle rfl
    exact ⟨hrun, hstaged, hdef, hcom.trans hcommitted, by rw [htime]; exact hend⟩
  · intro e s haon he
    have hexec : execFwTrialTimeout s
        = .next (closeAll 2 (revertTrial (completeWhere (fun _ => true) Config.aborted [] (untilTimer e s)))) := by
      refine (run_powered haon).trans ?_
      rw [he]
    have hidle : (completeWhere (fun _ => true) Config.aborted [] (untilTimer e s)).stw.deferred = [] := deferred_completeAll
    have hquiet : Quiet [.time] s (completeWhere (fun _ => true) Config.aborted [] (untilTimer e s)) :=
      touches_untilTimer.quiet.trans quiet_completeWhere
    revert hexec hidle hquiet
    generalize completeWhere (fun _ => true) Config.aborted [] (untilTimer e s) = x
    intro hexec hidle hquiet
    obtain ⟨ft, hrun, hend, hrev, hdef, hnv⟩ :=
      reverted_facts ((hquiet.stw (·.trialEnd) (fun _ => rfl) (by decide)).trans he) hidle rfl
    refine ⟨_, ft, hexec, hrun.trans (hquiet.stw (·.committed) (fun _ => rfl) (by decide)), hend, hrev.trans ?_, hdef, ?_⟩
    · exact congrArg (· + 1) (hquiet.stw (·.reverts) (fun _ => rfl) (by decide))
    · rw [hnv, hquiet.nv (by decide)]
  · intro e s haon he
    refine ⟨_, (run_powered haon : execDbgCtlExpiry s = _), ?_⟩
    rw [he]
    rfl

end Sys2Proof.Machine
end

section
/-!
Keepalives, beacons and silences of the links.
-/

namespace Sys2Proof.Machine

section LinkEvents

variable {s : State} {k peer : Nat}

/-! ## Hearing a peer -/

theorem parentName_seeGeneration {g : Nat} : parentName k (seeGeneration g s) = parentName k s := rfl

/-- A peer that is heard has its instant, and is silent no longer. -/
theorem heardFrom_facts : tget 0 (parentName k s) (heardFrom k s).place.heardAt = s.time.live + 1 ∧
    parentName k s ∉ (heardFrom k s).place.silent := by
  refine ⟨tget_tput_ne (Nat.succ_ne_zero _), fun h => ?_⟩
  have := (List.mem_filter.mp h).2
  simp at this

theorem touches_takeSuccession : Touches [.roles, .free] s (takeSuccession s) := by
  unfold takeSuccession
  split
  · have hdraw : Touches [.roles, .free] s (draw s).2 := (touches_put .free rfl).mono (by decide)
    exact hdraw.andThen (touches_when touches_setRole) (by decide)
  · exact Touches.refl

/-! ## Messages on a link -/

theorem arcIngest_adoption {log : Nat} {x : ArcEntry} : (arcIngest log x s).upl.adoption = s.upl.adoption :=
  quiet_arcIngest.upl (·.adoption) (fun _ => rfl) (by decide)

/-- An adoption message joins the queue, under its destination's name. -/
theorem sendMsgAdopt_adoption {msg : Nat} {m : AdoptMsg} : ∃ p, (sendMsgAdopt peer msg m s).upl.adoption
    = s.upl.adoption ++ [(p, m, msg)] ∧ dstKey p = peer :=
  ⟨_, arcIngest_adoption, replicaKey_plainSource peer⟩

/-- The adoption queue holds a keepalive or a beacon for a peer. -/
def LinkMessage (peer : Nat) (s : State) : Prop := ∃ x ∈ s.upl.adoption, dstKey x.1 = peer ∧ (x.2.2 = 7 ∨ x.2.2 = 8)

theorem linkMessage_sent {msg : Nat} {m : AdoptMsg} (h : msg = 7 ∨ msg = 8) : LinkMessage peer (sendMsgAdopt peer msg m s) := by
  obtain ⟨p, hp, hd⟩ := sendMsgAdopt_adoption (peer := peer) (msg := msg) (m := m) (s := s)
  exact ⟨(p, m, msg), by simp [hp], hd, h⟩

theorem LinkMessage.send {dst msg : Nat} {m : AdoptMsg} (h : LinkMessage peer s) : LinkMessage peer (sendMsgAdopt dst msg m s) := by
  obtain ⟨x, hx, hd⟩ := h
  obtain ⟨p, hp, -⟩ := sendMsgAdopt_adoption (peer := dst) (msg := msg) (m := m) (s := s)
  exact ⟨x, by simp [hp, hx], hd⟩

/-- What the parents of a role are does not change with its messages. -/
theorem parentsOf_send {r : Role} {dst msg : Nat} {m : AdoptMsg} : parentsOf r (sendMsgAdopt dst msg m s) = parentsOf r s := by
  have hp : (sendMsgAdopt dst msg m s).place = s.place := quiet_sendMsgAdopt.place (by decide)
  unfold parentsOf
  rw [hp]

/-- The messages of one role on a link. -/
def roleMessages (peer : Nat) (r : Role) (s : State) : State :=
  let s := when (r.children.any fun c => c.source == peer) (sendKeepalive (selfKey r) peer) s
  when ((parentsOf r s).contains peer) (sendBeacon (selfKey r) peer) s

theorem LinkMessage.role {r : Role} (h : LinkMessage peer s) : LinkMessage peer (roleMessages peer r s) := by
  unfold roleMessages
  extract_lets s₁
  have h₁ : LinkMessage peer s₁ := by
    unfold s₁ when
    split
    · exact h.send
    · exact h
  unfold when
  split
  · exact h₁.send
  · exact h₁

/-- A role at the other end of whose link the peer is sends it a message. -/
theorem linkMessage_role {r : Role} (h : (r.children.any fun c => c.source == peer) = true ∨ (parentsOf r s).contains peer = true) :
    LinkMessage peer (roleMessages peer r s) := by
  unfold roleMessages
  extract_lets s₁
  by_cases hchild : (r.children.any fun c => c.source == peer) = true
  · have h₁ : LinkMessage peer s₁ := by
      unfold s₁
      rw [hchild]
      exact linkMessage_sent (.inl rfl)
    unfold when
    split
    · exact h₁.send
    · exact h₁
  · have h₁ : s₁ = s := if_neg hchild
    rw [h₁, when, if_pos (h.resolve_left hchild)]
    exact linkMessage_sent (.inr rfl)

theorem linkMessage_roles {rs : List Role} {r : Role} (hr : r ∈ rs)
    (h : (r.children.any fun c => c.source == peer) = true ∨ (parentsOf r s).contains peer = true) :
    LinkMessage peer (forEach rs (roleMessages peer) s) := by
  have hpar : ∀ (q : Role) (x : State), parentsOf r (roleMessages peer q x) = parentsOf r x := fun q x => by
    unfold roleMessages
    extract_lets s₁
    have h₁ : parentsOf r s₁ = parentsOf r x := by
      unfold s₁ when
      split
      · exact parentsOf_send
      · rfl
    unfold when
    split
    · exact parentsOf_send.trans h₁
    · exact h₁
  unfold forEach
  induction rs generalizing s with
  | nil => cases hr
  | cons q rs ih =>
    obtain rfl | hr := List.mem_cons.mp hr
    · exact List.foldlRecOn rs _ (linkMessage_role h) fun _ hx _ _ => hx.role
    · exact ih hr (by rwa [hpar])

/-- Every link gets its message. -/
theorem linkMessage_due (h : isPeer peer s = true) : LinkMessage peer (linkMessages peer s) := by
  unfold isPeer at h
  unfold linkMessages
  cases hp : s.fuse.plaza
  · rw [hp] at h
    rw [if_pos (by decide)] at h ⊢
    rw [h]
    exact linkMessage_sent (.inr rfl)
  · rw [hp] at h
    rw [if_neg (by decide)] at h ⊢
    obtain ⟨r, hr, hlink⟩ := List.any_eq_true.mp h
    exact linkMessage_roles hr (by simpa using hlink)

theorem isPeer_later : isPeer peer (untilLive k s) = isPeer peer s := by
  have h : Touches [.time] s (untilLive k s) := touches_untilLive
  unfold isPeer parentsOf
  rw [h.fuse (by decide), h.place (by decide), h.roles (by decide)]

/-! ## Silence -/

theorem nextTry_facts : (nextTry s).place.parent = none ∧ (nextTry s).place.phase ≠ .adopted ∧
    (nextTry s).place.silent = s.place.silent := by
  unfold nextTry tryAt
  split
  · have h : (enterOrphan s).place = _ := quiet_raiseSbi (l := []).place (by decide)
    rw [h]
    exact ⟨rfl, nofun, rfl⟩
  · rename_i chip at_ _
    have h : (startTry at_ chip s).place = _ := quiet_sendMsgAdopt.place (by decide)
    rw [h]
    exact ⟨rfl, nofun, rfl⟩

end LinkEvents

/-- Settles O40: a peer that is heard has its instant, a link that is quiet its message, and a peer that is silent its mark. -/
theorem linkEventsComplete : Obligations.LinkEventsComplete := by
  unfold Obligations.LinkEventsComplete
  refine ⟨?_, ?_, ?_, ?_, ?_⟩
  · intro m s haon hcrc hfor
    have hexec : exec (.keepalive m) s = .next (heardFrom (if s.fuse.plaza then replicaKey m.parent m.rep else m.parent)
        (if s.fuse.plaza then seeGeneration m.generation s else s)) := by
      refine (run_powered haon : execKeepalive m s = _).trans ?_
      rw [if_neg (by rw [hcrc]; decide)]
      cases hp : s.fuse.plaza
      · obtain h | ⟨hd, hphase⟩ := hfor
        · rw [hp] at h
          cases h
        · simp [hd, hphase]
      · rfl
    refine ⟨_, _, hexec, rfl, ?_⟩
    cases s.fuse.plaza
    · exact heardFrom_facts
    · exact heardFrom_facts (s := seeGeneration m.generation s)
  · intro m s haon hcrc hp
    have hexec : exec (.beacon m) s = .next (if sourceKind m.die = 2
        then takeSuccession (onPlace (fun p => { p with heardBy := tins (replicaKey m.die m.rep) m.heard p.heardBy })
          (heardFrom (replicaKey m.die m.rep) (seeGeneration m.generation s)))
        else heardFrom (replicaKey m.die m.rep) (seeGeneration m.generation s)) := by
      refine (run_powered haon : execBeacon m s = _).trans ?_
      rw [if_neg (by rw [hcrc]; decide), if_neg (by rw [hp]; decide)]
    obtain ⟨hat, hsilent⟩ := heardFrom_facts (k := replicaKey m.die m.rep) (s := seeGeneration m.generation s)
    refine ⟨_, _, hexec, rfl, ?_⟩
    split
    case isTrue h =>
      rw [touches_takeSuccession.place (by decide)]
      exact ⟨hat, hsilent, fun _ => tget_tins_self _ _ _ _⟩
    case isFalse h => exact ⟨hat, hsilent, fun hk => absurd hk h⟩
  · intro peer s haon hpeer hv hup
    have hexec : exec (.keepaliveDue peer) s
        = .next (linkMessages peer (untilLive (tget 0 peer s.place.sentAt - 1 + 1000000) s)) := by
      refine (run_powered haon : execKeepaliveDue peer s = _).trans ?_
      rw [if_neg (by simp [hpeer, hv, hup])]
    obtain ⟨x, hx, hd⟩ := linkMessage_due (isPeer_later.trans hpeer)
    exact ⟨_, x, hexec, hx, hd⟩
  · intro peer s haon hpeer hv
    refine ⟨_, (run_powered haon : execLinkSilence peer s = _), ?_⟩
    rw [if_neg (by simp [hpeer, hv])]
    dsimp only
    have hfuse : ∀ n, (untilLive n s).fuse = s.fuse := fun _ => touches_untilLive.fuse (by decide)
    cases hp : s.fuse.plaza
    · rw [hfuse, hp, if_pos (by decide)]
      obtain ⟨hparent, hphase, hsilent⟩ := nextTry_facts (s := raise Config.silenceCode (roleKey 1 (sourceNum peer)) 0
        (onPlace (fun p => { p with parent := none, silent := addOnce peer p.silent })
          (untilLive (tget 0 peer s.place.heardAt - 1 + silenceLimit s) s)))
      refine ⟨?_, fun _ => ⟨hparent, hphase⟩⟩
      rw [hsilent, touches_raise.place (by decide)]
      exact mem_addOnce_self
    · rw [hfuse, hp, if_neg (by decide)]
      exact ⟨mem_addOnce_self, fun h => by cases h⟩
  · intro r s haon hr hv hno
    refine ⟨_, (run_powered haon : execForumSilence s = _), ?_⟩
    rw [hr]
    dsimp only
    rw [if_neg (by simp [hv, hno])]
    have hsend : ∀ (p : Nat) (x : State), Quiet [.arc, .upl] x
        (sendBeacon (selfKey r) p (forEach r.sent (fun y => enqueueLedger y.record p true) x)) := fun p x => by
      refine .trans ?_ quiet_sendMsgAdopt
      exact quiet_forEach fun _ _ => touches_enqueueRecord.quiet.mono (by decide)
    rw [(quiet_forEach hsend).place (by decide)]
    rfl

end Sys2Proof.Machine
end

section
/-!
The commands of Trace and of the uplink (groups 0x0B and 0x0C).
-/

namespace Sys2Proof.Machine

section OpenBlocks

variable {s t u : State} {m n src : Nat} {f : Source → Source} {b : Block}

/-- What each source has in its open block stands in `t` as in `s`. -/
def SameOpen (s t : State) : Prop := ∀ n, (sourceOf n t).openPkts = (sourceOf n s).openPkts

theorem SameOpen.refl : SameOpen s s := fun _ => rfl
theorem SameOpen.trans (h : SameOpen s t) (k : SameOpen t u) : SameOpen s u := fun n => (k n).trans (h n)
theorem SameOpen.of_trc (h : t.trc = s.trc) : SameOpen s t := fun n => by unfold sourceOf; rw [h]

theorem sourceOf_onSource_self (h : f (sourceOf n s) ≠ Source.idle) : sourceOf n (onSource n f s) = f (sourceOf n s) :=
  tget_tmod_listed h

theorem sourceOf_onSource_other (h : n ≠ m) : sourceOf n (onSource m f s) = sourceOf n s := tget_tmod_other h

theorem sameOpen_onSource (hopen : ∀ x, (f x).openPkts = x.openPkts) (hlisted : ∀ x, f x ≠ Source.idle) :
    SameOpen s (onSource m f s) := fun n => by
  by_cases h : n = m
  · subst h
    rw [sourceOf_onSource_self (hlisted _), hopen]
  · rw [sourceOf_onSource_other h]

/-- Counting a lost block keeps the open one. -/
theorem sameOpen_countDiscard : SameOpen s (countDiscard src s) :=
  sameOpen_onSource (fun _ => rfl) fun x h => Nat.succ_ne_zero x.discarded (congrArg (·.discarded) h)

theorem sameOpen_stageBlock {fuel cls : Nat} : SameOpen s (stageBlock fuel src cls b s) := by
  induction fuel generalizing s with
  | zero => exact sameOpen_countDiscard
  | succ fuel ih =>
    unfold stageBlock
    dsimp only
    split
    · exact SameOpen.refl
    · split
      · exact sameOpen_countDiscard
      · refine SameOpen.trans ?_ ih
        exact sameOpen_countDiscard (src := newestSource (lowestStaged s) s)

theorem sameOpen_chainBlock : SameOpen s (chainBlock src b s) := by
  have hlost : SameOpen s (onSource src (fun x => { x with discarded := x.discarded + 1, overruns := x.overruns + 1 }) s) :=
    sameOpen_onSource (fun _ => rfl) fun x h => Nat.succ_ne_zero x.discarded (congrArg (·.discarded) h)
  unfold chainBlock
  dsimp only
  split
  · exact hlost
  · split
    · exact .of_trc (quiet_dropForeign.trc (by decide))
    · split
      · exact .of_trc (quiet_chainWrite.trc (by decide))
      · exact hlost

theorem sameOpen_when {c : Bool} {g : State → State} (h : SameOpen s (g s)) : SameOpen s (when c g s) := by
  cases c
  · exact SameOpen.refl
  · exact h

/-- A block that is put out is open no longer, and no other source's is touched (R322). -/
theorem openPkts_emitTraceBlock {flushed : Bool} :
    (sourceOf n (emitTraceBlock src flushed s)).openPkts = if n = src then [] else (sourceOf n s).openPkts := by
  unfold emitTraceBlock
  dsimp only
  split
  · rename_i hopen
    split
    · rename_i hn
      rw [hn, List.isEmpty_iff.mp hopen]
    · rfl
  · refine (sameOpen_when sameOpen_stageBlock n).trans ((sameOpen_when sameOpen_chainBlock n).trans ?_)
    by_cases hn : n = src
    · subst hn
      rw [if_pos rfl, sourceOf_onSource_self fun h => Nat.succ_ne_zero _ (congrArg (·.bseq) h)]
    · rw [if_neg hn, sourceOf_onSource_other hn]

/-- After a flush of some sources the block of each is put out. -/
theorem openPkts_flush {xs : List Nat} (h : n ∈ xs ∨ (sourceOf n s).openPkts = []) :
    (sourceOf n (forEach xs (fun i => emitTraceBlock i true) s)).openPkts = [] := by
  induction xs generalizing s with
  | nil => exact h.resolve_left (by simp)
  | cons x xs ih =>
    refine ih ?_
    rw [openPkts_emitTraceBlock]
    by_cases hn : n = x
    · exact .inr (if_pos hn)
    · rw [if_neg hn]
      exact h.imp_left fun hm => (List.mem_cons.mp hm).resolve_left hn

/-- What stands at a source after `TRACE_SOURCE_SET` (R308). -/
theorem sourceOf_configured {c : Word32} :
    sourceOf n (onSource n (fun x => { x with config := c, admitStart := true }) s)
      = { sourceOf n s with config := c, admitStart := true } :=
  sourceOf_onSource_self fun h => Bool.noConfusion (congrArg (·.admitStart) h)

theorem chainWithdraw_nextChain {k : Nat} : (chainWithdraw k s).buf.nextChain = s.buf.nextChain := by
  unfold chainWithdraw
  dsimp only
  split
  · exact congrArg (·.nextChain) (touches_descDone.buf (by decide))
  · split
    · exact congrArg (·.nextChain) (touches_descDone.buf (by decide))
    · rfl
  · rfl

/-- A chain that is opened holds its descriptor. -/
theorem chain_chainOpen {k i p : Nat} {d : Desc} : tget Chain.empty s.buf.nextChain (chainOpen k i p d s).2.buf.chains
    = { Chain.empty with ckind := k, index := i, partition := p, cur := some d } :=
  tget_tput_ne fun h => by cases congrArg (·.cur) h

/-- The sources of a restarted chain have a start sync due. -/
theorem startDue_restartChain {chain : Nat} {e : Nat × Source} (h : e ∈ (restartChain chain s).trc.sources)
    (hc : trcChain e.2.config = chain) : e.2.startDue = true := by
  obtain ⟨x, -, rfl⟩ := List.mem_map.mp h
  dsimp only at hc ⊢
  split
  · rfl
  · rename_i hx
    rw [if_neg hx] at hc
    exact absurd (beq_iff_eq.mpr hc) hx

end OpenBlocks

/-- The chain that a Trace chain's index names, if any, is withdrawn before another takes its place. -/
def withdrawOld (old : Option (Nat × Chain)) (s : State) : State :=
  match old with
  | some x => chainWithdraw x.1 s
  | none => s

theorem withdrawOld_nextChain {old : Option (Nat × Chain)} {s : State} :
    (withdrawOld old s).buf.nextChain = s.buf.nextChain := by
  cases old with
  | none => rfl
  | some x => exact chainWithdraw_nextChain

/-- A tenant's check that its condition meets. -/
theorem own_passes {a : Bool} {x y : Nat} (h : a = true → x = y) : (a && x != y) = false := by
  cases a with
  | false => rfl
  | true => simpa using h rfl

/-- Settles O19: each command's own checks pass, and its own part is what the clause says. -/
theorem traceUplinkCommandsComplete : Obligations.TraceUplinkCommandsComplete := by
  refine ⟨fun r n config s h hup hn hform hten hpriv => ?source, fun r mask levels len s h hlev hlo hhi hroom => ?grant,
    fun r id s h hid => ?revoke, fun r mask s h hup => ?flush, fun r chain desc s h hup hc hd hown => ?chain,
    fun r n s h hup hn hten => ?status, fun r cls rate cap q s h hup h1 h4 hlo hhi => ?shaper,
    fun r port rate space len margin s h hup hport hrate hlen hmargin hfit => ?standing,
    fun r cls s h hup h1 h4 => ?uplStatus⟩
  case source =>
    refine completesWith_of h (by simp [hn, hform]) (fun u => ?_) fun _ _ ht => ht
    rw [engineServed_up hup]
    have hself : (isTenant r.issuer && trcPartition (sourceOf n (plumb s u)).config != issuerPart r.issuer) = false :=
      own_passes fun hi => (hten hi).1
    have hsame : (isTenant r.issuer && trcPartition config != trcPartition (sourceOf n (plumb s u)).config) = false :=
      own_passes fun hi => (hten hi).2
    have hshared : (trcPrivileged config && trcPartition config != 0) = false := own_passes hpriv
    simp only [sourceSet, hself, hsame, hshared, Bool.false_eq_true, if_false]
    refine ⟨rfl, ?_⟩
    simp only [done, sourceOf_configured, openPkts_emitTraceBlock, if_true, and_self]
  case grant =>
    refine completes_of h (by simp [hlev, hlo, hhi]) fun u => ?_
    have hroom' : ¬ 4 ≤ (plumb s u).trc.grants.length := Nat.not_le.mpr hroom
    simp only [hroom', if_false]
    exact ⟨rfl, rfl⟩
  case revoke =>
    refine completesWith_of h rfl (fun u => ?_) fun _ _ ht => ht
    have hany : ((plumb s u).trc.grants.any fun g => g.id == id) = true := by
      obtain ⟨g, hg, hgid⟩ := hid
      exact List.any_eq_true.mpr ⟨g, hg, by simp [hgid]⟩
    simp only [hany, if_true]
    exact ⟨rfl, rfl, rfl⟩
  case flush =>
    refine completesWith_of h rfl (fun u => ?_) fun _ _ ht => ht
    rw [engineServed_up hup]
    refine ⟨rfl, fun n hn hbit hmine => openPkts_flush (.inl ?_)⟩
    refine List.mem_filter.mpr ⟨List.mem_filter.mpr ⟨List.mem_range.mpr hn, hbit⟩, ?_⟩
    cases hi : isTenant r.issuer with
    | false => rfl
    | true =>
      have hsame : trcPartition (sourceOf n (plumb s u)).config = issuerPart r.issuer := hmine hi
      simp [hsame]
  case chain =>
    refine completesWith_of h (by simp [hc]) (fun u => ?_) fun _ _ ht => ht
    rw [engineServed_up hup]
    have hd' : descOk (issuerPart r.issuer) desc (plumb s u) = true := hd
    have hown' : ∀ x, chainFind 0 chain (plumb s u) = some x → isTenant r.issuer = true → x.2.partition = issuerPart r.issuer :=
      hown
    have hold : ∀ old : Option (Nat × Chain),
        tget Chain.empty s.buf.nextChain
            (restartChain chain (chainOpen 0 chain desc.partition desc (withdrawOld old (plumb s u))).2).buf.chains
          = { Chain.empty with ckind := 0, index := chain, partition := desc.partition, cur := some desc } := fun old =>
      (congrArg (fun k => tget Chain.empty k _) (withdrawOld_nextChain (old := old) (s := plumb s u)).symm).trans chain_chainOpen
    dsimp only
    generalize chainFind 0 chain (plumb s u) = old at hown'
    cases old with
    | none =>
      simp only [hd', Bool.false_eq_true, if_false, Bool.not_true]
      exact ⟨rfl, hold none, fun e => startDue_restartChain⟩
    | some x =>
      have hforeign : (isTenant r.issuer && x.2.partition != issuerPart r.issuer) = false := own_passes (hown' x rfl)
      simp only [hforeign, hd', Bool.false_eq_true, if_false, Bool.not_true]
      exact ⟨rfl, hold (some x), fun e => startDue_restartChain⟩
  case status =>
    refine completes_of h (by simp [hn]) fun u => ?_
    rw [engineServed_up hup]
    have hself : (isTenant r.issuer && trcPartition (sourceOf n (plumb s u)).config != issuerPart r.issuer) = false :=
      own_passes hten
    simp only [hself, Bool.false_eq_true, if_false]
    exact ⟨rfl, rfl⟩
  case shaper =>
    refine completes_of h (by simp [h1, h4, hlo, hhi]) fun u => ?_
    rw [engineServed_up hup]
    exact ⟨rfl, rfl⟩
  case standing =>
    refine completes_of h (by simpa [hport, hrate, hmargin] using hlen) fun u => ?_
    rw [engineServed_up hup]
    have hfit' : marginFits margin (plumb s u) = true := hfit
    simp only [hfit', Bool.not_true, Bool.false_eq_true, if_false]
    exact ⟨rfl, rfl⟩
  case uplStatus =>
    refine completes_of h (by simp [h1, h4]) fun u => ?_
    rw [engineServed_up hup]
    exact ⟨rfl, rfl⟩

end Sys2Proof.Machine
end

section
/-!
The commands of power, of dumps, of the log and of firmware (groups 0x0D to 0x0F).
-/

namespace Sys2Proof.Machine

section PowerDumpCommands

variable {c : Cmd} {r : Req} {e s t u : State} {i : Issuer} {m m' : Msg}

/-! ## What reads and changes nothing of requests and answers -/

theorem agree_ite {p : Prop} [Decidable p] {a b a' b' : State} (ha : Agree a a') (hb : Agree b b') :
    Agree (if p then a else b) (if p then a' else b') := by
  split
  · exact ha
  · exact hb

theorem agree_notify {x : NoticeSubject} {p cmd : Nat} {f : List Fld} (h : Agree s t) :
    Agree (notify x p cmd f s) (notify x p cmd f t) := by
  rw [h.eq]
  exact agree_ite rfl rfl

theorem agree_bypQueue {a : AlertEntry} (h : Agree s t) : Agree (bypQueue a s) (bypQueue a t) := by
  rw [h.eq]
  exact agree_ite rfl rfl

theorem agree_raise {code subject detail : Nat} (h : Agree s t) : Agree (raise code subject detail s) (raise code subject detail t) := by
  rw [h.eq]
  exact agree_ite rfl (agree_notify (agree_bypQueue rfl))

theorem agree_when_same {b : Bool} {f : State → State} (h : Agree s t) (hf : Agree (f s) (f t)) :
    Agree (when b f s) (when b f t) := agree_ite hf h

theorem agree_startQuiesce {d n : Nat} {w : QuiesceFor} (h : Agree s t) : Agree (startQuiesce d w n s) (startQuiesce d w n t) := by
  rw [h.eq]
  exact agree_ite rfl rfl

theorem agree_startMove {g : Nat} (h : Agree s t) : Agree (startMove g true s) (startMove g true t) := by
  rw [h.eq]
  exact agree_ite rfl rfl

theorem agree_beginSwitch {d : Nat} {on : Bool} (h : Agree s t) : Agree (beginSwitch d on s) (beginSwitch d on t) := by
  rw [h.eq]
  refine agree_ite (agree_startQuiesce rfl) ?_
  cases on with
  | true => exact rfl
  | false => exact agree_startMove rfl

/-! ## What the commands check -/

/-- A descriptor is judged by its own bytes and the windows. -/
theorem descOk_of_windows {p : Nat} {d : Desc} (h : t.stw.windows = s.stw.windows) : descOk p d t = descOk p d s := by
  unfold descOk inWindows windowsOf
  rw [h]

theorem windows_whenRaise {b : Bool} {code subject detail : Nat} :
    (when b (raise code subject detail) s).stw.windows = s.stw.windows :=
  (quiet_when (l := []) quiet_raise).stw (·.windows) (fun _ => rfl) (by decide)

/-- The domain may be switched (R433). -/
theorem domainSet_allowed {d st : Nat} (hlo : 2 ≤ d) (hd : d ≠ 13) (hcds : st = 1 → ¬ (14 ≤ d ∧ (2, d - 14) ∈ s.pwr.culDeSac)) :
    ¬ (d ≤ 1 ∨ d = 13) ∧ ((st == 1) && decide (14 ≤ d) && s.pwr.culDeSac.contains (2, d - 14)) = false := by
  refine ⟨by omega, Bool.eq_false_iff.mpr fun h => ?_⟩
  rw [Bool.and_eq_true, Bool.and_eq_true] at h
  obtain ⟨⟨hst, h14⟩, hin⟩ := h
  exact hcds (beq_iff_eq.mp hst) ⟨of_decide_eq_true h14, List.contains_iff_mem.mp hin⟩

/-- The engine is neither settling nor being switched off (R444). -/
theorem engineReset_allowed {d : Nat} (hset : ∀ x ∈ s.pwr.settling, x.1 ≠ d)
    (hoff : ∀ q ∈ s.pwr.quiescing, ¬ (q.1 = d ∧ q.2.1 = .off)) :
    ((s.pwr.settling.any fun x => x.1 == d) || s.pwr.quiescing.any fun q => q.1 == d && q.2.1 == .off) = false := by
  rw [Bool.or_eq_false_iff, List.any_eq_false, List.any_eq_false]
  exact ⟨fun x hx hb => hset x hx (by simpa using hb), fun q hq hb => hoff q hq (by simpa using hb)⟩

/-! ## Output that comes from another state -/

/-- `outputs_of`, where the command's own part first goes on to `e`. -/
theorem outputsFrom_of {own : State → State × Reply} {d : Desc} {n : Nat} {x : BufData} {form : Bool} (h : Taken c r s)
    (hc : c.relayable = false) (hf : form = true) (ho : ∀ u, ∃ v, own (plumb s u) = outputReply r d n x v ∧ Agree e v)
    (hd : descOk (issuerPart r.issuer) d e = true) :
    ∃ t, run (serve c r form own) s = .next t ∧ Outputs c r d n x e t := by
  refine ⟨_, serve_local h hc hf, ?_⟩
  rw [(agree_takeRequest r c.code s).eq]
  generalize takeRequest r c.code s = u
  obtain ⟨v, hv, ha⟩ := ho u
  rw [hv, ha.eq]
  generalize v = w
  have hd' : descOk (issuerPart r.issuer) d (plumb e w) = true := hd
  unfold Outputs outputReply
  rw [hd']
  refine ⟨agree_defer (agree_answer agree_outputTo), answered_local h hc (Told.defer told_answer),
    ⟨_, List.mem_append_right _ (List.mem_singleton.mpr rfl), rfl, rfl, rfl⟩, ?_⟩
  refine kept_answer.1 _ ?_
  exact kept_bufIssue.1 _ (List.mem_append_right _ (List.mem_singleton.mpr rfl))

/-! ## An answer outlives the close of every session -/

/-- A tenant's answers stand in its slot; those of the others do not. -/
theorem Told.of_slots (hi : isTenant i = false) (h : Told i m s) (hpm : t.hrw.pm = s.hrw.pm)
    (hsb : t.sbi.responses = s.sbi.responses) (hq : t.upl.control = s.upl.control) : Told i m t := by
  cases i with
  | pm n => unfold Told at h ⊢; rw [hpm]; exact h
  | sideband => unfold Told at h ⊢; rw [hsb]; exact h
  | tenant p k g => cases hi
  | relay a b => exact trivial
  | role a b => unfold Told Queued at h ⊢; rw [hq]; exact h

theorem Told.closeSlot {k reason : Nat} (hi : isTenant i = false) (h : Told i m s) : Told i m (closeSlot k (some reason) s) := by
  unfold Machine.closeSlot
  dsimp only
  split
  · exact h
  · refine Told.of_slots hi (s := ringPost k _ (orphanWork _ s)) ?_ rfl rfl rfl
    exact Told.of_slots hi h (congrArg (·.pm) (touches_ringPost.hrw (by decide))) (congrArg (·.responses) (touches_ringPost.sbi (by decide)))
      (congrArg (·.control) (touches_ringPost.upl (by decide)))

theorem Told.closePm {n reason : Nat} (hi : isTenant i = false) (h : Told i m s) : Told i m (closePm n (some reason) s) := by
  unfold Machine.closePm
  dsimp only
  split
  · exact h
  · refine Told.of_slots hi (s := Machine.postTo (.pm n) _ (orphanWork (.pm n) s)) (Told.postTo ?_) rfl rfl rfl
    exact Told.of_slots hi h rfl rfl rfl

theorem Told.closeSbi {reason : Nat} (hi : isTenant i = false) (h : Told i m s) : Told i m (closeSbi (some reason) s) := by
  unfold Machine.closeSbi
  dsimp only
  split
  · exact h
  · refine Told.of_slots hi (s := Machine.postTo .sideband _ (orphanWork .sideband s)) (Told.postTo ?_) rfl rfl rfl
    exact Told.of_slots hi h rfl rfl rfl

theorem Told.closeAll {reason : Nat} (hi : isTenant i = false) (h : Told i m s) : Told i m (closeAll reason s) :=
  Told.closeSbi hi (Told.forEach (Told.forEach h fun _ _ => Told.closeSlot hi) fun _ _ => Told.closePm hi)

/-- The state that a command leaves which is answered at once and after whose answer every session may close. -/
theorem completesThenCloses_of {own : State → State × Reply} {P : State → Prop} {b : Bool} {reason : Nat} {form : Bool}
    (h : Taken c r s) (hc : c.relayable = false) (hi : isTenant r.issuer = false) (hf : form = true)
    (ho : ∀ u, (own (plumb s u)).2 = { status := Config.ok, after := when b (closeAll reason) } ∧ P (own (plumb s u)).1)
    (hP : ∀ a u, P a → P (plumb a u)) (hclose : ∀ a, P a → P (closeAll reason a)) :
    ∃ t, run (serve c r form own) s = .next t ∧ CompletesWith c r P [] t := by
  refine ⟨_, serve_local h hc hf, ?_⟩
  rw [(agree_takeRequest r c.code s).eq]
  generalize takeRequest r c.code s = u
  obtain ⟨h2, h1⟩ := ho u
  rw [h2]
  have hpart : ∀ a, Agree (own (plumb s u)).1 a → P a := fun a ha => by rw [ha.eq]; exact hP _ _ h1
  have hdone : P (defer c r r.issuer none (answer r.issuer c.code r.tag Config.ok true [] [] (own (plumb s u)).1)) :=
    hpart _ (agree_defer (agree_answer rfl))
  have htold : Told r.issuer (rspMsg c.code r.tag Config.ok true [] [])
      (defer c r r.issuer none (answer r.issuer c.code r.tag Config.ok true [] [] (own (plumb s u)).1)) :=
    Told.defer told_answer
  cases b with
  | false => exact ⟨hdone, answered_local h hc htold⟩
  | true => exact ⟨hclose _ hdone, answered_local h hc (Told.closeAll hi htold)⟩

/-- A command that the tenant column does not permit is no tenant's. -/
theorem isTenant_of_permitted (h : Taken c r s) (ht : c.allow.t = false) : isTenant r.issuer = false := by
  refine Bool.eq_false_iff.mpr fun hi => ?_
  have hp := h.permitted
  rw [show issuerClass r.issuer = 5 from beq_iff_eq.mp hi, show c.allow.permits 5 = c.allow.t from rfl, ht] at hp
  cases hp

end PowerDumpCommands

/-- Settles O22: each command's own checks pass, and its own part is what the clause says. -/
theorem powerDumpCommandsComplete : Obligations.PowerDumpCommandsComplete := by
  refine ⟨fun r s h => ?park, fun r d st s h hlo hhi hd hst hnever hcds hbusy hon => ?already,
    fun r d st s h hlo hhi hd hst hnever hcds hbusy hon => ?switch, fun r d us s h hlo hhi hnever hon hset hoff => ?engine,
    fun r s h => ?reset, fun r s h => ?status, fun r desc dest at_ s h hlo hhi hrel hat hd => ?dump,
    fun r desc at_ u g s h hnear hd hu hg => ?graph, fun r region offset s h hreg => ?inlined,
    fun r region offset desc s h hreg hd => ?chained, fun r s h hex => ?epoch, fun r desc image at_ s h htrial hd hat hok => ?update,
    fun r e img s h htrial hrun => ?commit, fun r s h => ?fwStatus⟩
  case park => exact completes_of h rfl fun u => ⟨rfl, rfl⟩
  case already =>
    refine finishesWith_of (w := .domainSet d (st == 1)) h (by simp [hhi, hst]) (fun u => ?_) fun _ _ ht => ht
    have hnever' : neverPowered d (plumb s u) = false := hnever
    have hbusy' : domainBusy d (plumb s u) = false := hbusy
    obtain ⟨hfixed, hgroup⟩ := domainSet_allowed hlo hd hcds
    have hon' : (s.pwr.on.getLsbD d == (st == 1)) = true := by rw [hon]; exact beq_self_eq_true _
    simp only [hnever', hbusy', hfixed, hgroup, show (plumb s u).pwr = s.pwr from rfl, hon', Bool.false_eq_true, if_false, if_true]
    exact ⟨trivial, trivial⟩
  case switch =>
    refine defers_of h (by simp [hhi, hst]) fun u => ?_
    have hnever' : neverPowered d (plumb s u) = false := hnever
    have hbusy' : domainBusy d (plumb s u) = false := hbusy
    obtain ⟨hfixed, hgroup⟩ := domainSet_allowed hlo hd hcds
    have hon' : (s.pwr.on.getLsbD d == (st == 1)) = false := beq_eq_false_iff_ne.mpr hon
    simp only [hnever', hbusy', hfixed, hgroup, show (plumb s u).pwr = s.pwr from rfl, hon', Bool.false_eq_true, if_false]
    exact ⟨rfl, agree_beginSwitch rfl⟩
  case engine =>
    refine defers_of h (by simp [hlo, hhi]) fun u => ?_
    have hnever' : neverPowered d (plumb s u) = false := hnever
    simp only [hnever', show (plumb s u).pwr = s.pwr from rfl, hon, engineReset_allowed hset hoff, Bool.not_true,
      Bool.false_eq_true, if_false]
    exact ⟨rfl, agree_startQuiesce rfl⟩
  case reset => exact completes_of h rfl fun u => ⟨rfl, rfl⟩
  case status => exact completes_of h rfl fun u => ⟨rfl, rfl⟩
  case dump =>
    refine defers_of h (by cases hr : r.relay <;> simp [hlo, hhi, hr, hrel]) fun u => ?_
    have hlate : ¬ (at_ ≠ 0 ∧ at_ < (plumb s u).time.ft) := fun hx => Nat.not_lt.mpr (hat.resolve_left hx.1) hx.2
    have hdesc : (dest.getLsbD 0 && !descOk (issuerPart r.issuer) desc (plumb s u)) = false := by
      cases hb : dest.getLsbD 0 with
      | false => rfl
      | true =>
        have hd' : descOk (issuerPart r.issuer) desc (plumb s u) = true := hd hb
        rw [hd']
        rfl
    rw [if_neg hlate, hdesc]
    exact ⟨rfl, rfl⟩
  case graph =>
    subst hu hg
    refine outputsFrom_of h rfl rfl (fun u => ?_) ?_
    · refine ⟨_, ?_, agree_when_same (agree_plumb _ u) (agree_raise (agree_plumb _ u))⟩
      have hnear' : (dumpsNear at_ (plumb s u)).isEmpty = false := List.isEmpty_eq_false_iff.mpr hnear
      have hd' : descOk (issuerPart r.issuer) desc (plumb s u) = true := hd
      simp only [hnear', hd', Bool.not_true, Bool.false_eq_true, if_false]
      rfl
    · exact (descOk_of_windows windows_whenRaise).trans hd
  case inlined => exact completes_of h (by simp [hreg]) fun u => ⟨rfl, rfl⟩
  case chained => exact outputs_of h rfl (by simp [hreg]) (fun u => rfl) hd
  case epoch =>
    refine completes_of h rfl fun u => ?_
    have hex' : (plumb s u).exhausted = true := hex
    simp only [hex', Bool.not_true, Bool.false_eq_true, if_false]
    exact ⟨rfl, rfl⟩
  case update =>
    refine finishesWith_of (w := .fwUpdate) h rfl (fun u => ?_) fun _ _ ht => ht
    have htrial' : (plumb s u).stw.trialEnd = none := htrial
    have hd' : descOk (issuerPart r.issuer) desc (plumb s u) = true := hd
    have hat' : ¬ at_ < (plumb s u).time.ft + 10000000 := Nat.not_lt.mpr hat
    have hok' : imageReject image (plumb s u) = none := hok
    simp only [htrial', hd', hat', hok', Option.isSome_none, Bool.not_true, Bool.false_eq_true, if_false]
    exact ⟨trivial, rfl⟩
  case commit =>
    refine completesThenCloses_of (b := (s.stw.committed.map (·.fwLevel)) != some img.fwLevel) (reason := 2) h rfl (isTenant_of_permitted h rfl) rfl (fun u => ?_) (fun _ _ ht => ht) fun a ha => ?_
    · have htrial' : (plumb s u).stw.trialEnd = some e := htrial
      have hrun' : (plumb s u).stw.running = some img := hrun
      simp only [htrial', hrun']
      refine ⟨rfl, ?_⟩
      cases img.raiseSvn with
      | false => exact ⟨rfl, rfl, hrun, rfl⟩
      | true => exact ⟨rfl, rfl, hrun, List.append_assoc _ _ _⟩
    · obtain ⟨hcom, htr, hr, hnv⟩ := ha
      have hq : Quiet [] a (closeAll 2 a) := quiet_closeAll
      exact ⟨(hq.stw (·.committed) (fun _ => rfl) (by decide)).trans hcom,
        (hq.stw (·.trialEnd) (fun _ => rfl) (by decide)).trans htr,
        (hq.stw (·.running) (fun _ => rfl) (by decide)).trans hr, (congrArg (·.queue) (hq.nv (by decide))).trans hnv⟩
  case fwStatus => exact completes_of h rfl fun u => ⟨rfl, rfl⟩

end Sys2Proof.Machine
end

section
/-!
Requests that fail a check of the Steward (R362, R363, R374, R389).
-/

namespace Sys2Proof.Machine

section TurnedAway

variable {c : Cmd} {r : Req} {i : Instr} {s : State} {st : Nat} {form : Bool} {own : State → State × Reply}

/-- The Steward hears the request: it waits at its turn, where a mailbox can be served (R362, R363). -/
structure Heard (c : Cmd) (r : Req) (s : State) : Prop where
  powered : s.rst.aonOk = true
  serving : stewardUp s = true
  room : mailboxOpen r.issuer s = true
  turn : inTurn r.issuer (c.code == 0x0101) s = true

/-- The source of a request comes first in the round. -/
theorem inTurn_iff {j : Issuer} {opening : Bool} : inTurn j opening s = true ↔
    ∀ k < 71, holdsAt k s = true → roundsTo (sourceIndex j opening) s ≤ roundsTo k s := by
  unfold inTurn
  rw [List.all_eq_true]
  refine forall_congr' fun k => ?_
  rw [List.mem_range]
  cases holdsAt k s <;> simp

/-- A request whose form the Steward refuses does not pass its checks. -/
theorem requestPasses_of_reject (h : formReject c r form s = some st) : requestPasses c r form s = false := by
  unfold requestPasses
  rw [h, Option.isNone_some, Bool.and_false]

theorem requestPasses_of_turn (h : inTurn r.issuer (c.code == 0x0101) s = false) : requestPasses c r form s = false := by
  unfold requestPasses
  rw [h, Bool.and_false, Bool.false_and, Bool.false_and]

theorem requestPasses_of_outside (h : fetchOutside r.issuer (c.code == 0x0101) s = true) : requestPasses c r form s = false := by
  unfold requestPasses
  rw [h, Bool.not_true, Bool.and_false, Bool.false_and]

/-! ## Every command is a service -/

/-- What a chip on a request's way to its scope does first is done by no request that fails a check. -/
theorem when_passesOn {f : State → State} (h : requestPasses c r form s = false) : when (passesOn c r form s) f s = s := by
  unfold passesOn
  rw [h, Bool.and_false]
  rfl

theorem exec_of_command (hc : commandOf i = some (c, r)) (h : ∀ form, requestPasses c r form s = false) :
    ∃ a form own, exec i s = run (serve { c with attachment := a } r form own) s := by
  cases i
  case confCalArm r anchor job =>
    cases hc
    refine ⟨[], _, engineServed 6 (calArm r anchor job), congrArg (fun x => run (fun _ => x) s) (congrArg (serve _ r true _) ?_)⟩
    have hp := h true
    exact if_neg (by rw [hp, Bool.and_false]; exact Bool.false_ne_true)
  case treeLoad r desc image =>
    cases hc
    refine ⟨attachedTo r desc (imageFile image) s, inputRelayOk r desc, engineServed 7 (treeLoad r desc image),
      congrArg (fun x => run (fun _ => x) s) (congrArg (serve _ r _ _) (if_neg ?_))⟩
    have hp : ∀ a, requestPasses ⟨0x0701, { t := true }, true, .both, a⟩ r (inputRelayOk r desc) s = false := fun _ => h _
    unfold passesOn
    rw [hp, Bool.and_false, Bool.false_and, Bool.false_and]
    exact Bool.false_ne_true
  case treeArm r model frame =>
    cases hc
    refine ⟨[], true, engineServed 7 (treeArm r model frame), congrArg (fun x => run (fun _ => x) s) (if_neg ?_)⟩
    unfold passesOn
    rw [h true, Bool.and_false]
    exact Bool.false_ne_true
  case treeUnload r model =>
    cases hc
    exact ⟨[], true, engineServed 7 (treeUnload r model),
      congrArg (fun x => run (fun _ => x) s) (congrArg (serve _ r true _) (when_passesOn (h true)))⟩
  case digestArm r key job anchor desc n table =>
    cases hc
    refine ⟨attachedTo r desc (table.flatMap collEntryBytes) s, _,
      engineServed 8 (digestArm r { job := job, key := key, anchor := anchor, table := table } desc),
      congrArg (fun x => run (fun _ => x) s) (congrArg (serve _ r _ _) (if_neg ?_))⟩
    have hp : ∀ a, requestPasses ⟨0x0901, {}, true, .both, a⟩ r
        (2 ≤ key && key < digestP && n == table.length && inputRelayOk r desc) s = false := fun _ => h _
    rw [hp, Bool.and_false, Bool.false_and, Bool.false_and]
    exact Bool.false_ne_true
  all_goals cases hc <;> exact ⟨_, _, _, rfl⟩

/-! ## The service of a request that fails a check -/

theorem serve_early (h : inTurn r.issuer (c.code == 0x0101) s = false) : serve c r form own s = s := by
  unfold serve
  dsimp only
  rw [h, Bool.not_false, Bool.or_true, if_pos rfl]

theorem serve_outside (h : Heard c r s) (hf : fetchOutside r.issuer (c.code == 0x0101) s = true) :
    serve c r form own s = isolationFault (issuerPart r.issuer) (takeRequest r c.code s) := by
  unfold serve
  dsimp only
  rw [h.serving, h.room, h.turn, hf]
  rfl

theorem serve_rejected (h : Heard c r s) (hf : fetchOutside r.issuer (c.code == 0x0101) s = false)
    (hr : formReject c r form s = some st) : serve c r form own s = answerReject c r st (takeRequest r c.code s) := by
  have htaken : formReject c r form (takeRequest r c.code s) = some st := by
    rw [← hr]
    unfold formReject
    rw [sessionReject_takeRequest, takeRequest_fuse]
  unfold serve
  dsimp only
  rw [h.serving, h.room, h.turn, hf, htaken]
  rfl

/-- A request is turned away with a status: the block is left as it was but for requests and answers (R374, R389). -/
def Turned (c : Cmd) (r : Req) (st : Nat) (s : State) (o : Host.Outcome State Fault Refusal) : Prop :=
  ∃ t, o = .next t ∧ Agree s t ∧ Told r.issuer (rspMsg c.code r.tag st true
    (if r.relay = true ∧ isCopy r.issuer = false then relayPayload ⟨0, 1, 0, st, [s.die]⟩ else []) []) t

theorem turned_of_reject (hc : commandOf i = some (c, r)) (h : Heard c r s)
    (hf : fetchOutside r.issuer (c.code == 0x0101) s = false) (hr : ∀ form, formReject c r form s = some st) :
    Turned c r st s (exec i s) := by
  obtain ⟨a, form, own, hx⟩ := exec_of_command hc fun form => requestPasses_of_reject (hr form)
  refine ⟨answerReject c r st (takeRequest r c.code s), ?_, ?_, ?_⟩
  · rw [hx, run_powered h.powered]
    have hs : serve { c with attachment := a } r form own s = answerReject { c with attachment := a } r st (takeRequest r c.code s) :=
      serve_rejected (c := { c with attachment := a }) ⟨h.powered, h.serving, h.room, h.turn⟩ hf (hr form)
    rw [hs]
    rfl
  · exact agree_answer (agree_takeRequest r c.code s)
  · have hp : rejectPayload r st (takeRequest r c.code s)
        = if r.relay = true ∧ isCopy r.issuer = false then relayPayload ⟨0, 1, 0, st, [s.die]⟩ else [] := by
      rw [(agree_takeRequest r c.code s).eq]
      rfl
    rw [← hp]
    exact told_answer

end TurnedAway

/-- Settles O58: every command is a service, and a service turns a request away at the first check that fails. -/
theorem requestsAreTurnedAway : Obligations.RequestsAreTurnedAway := by
  have hear : ∀ {c : Cmd} {r : Req} {s : State}, (s.rst.aonOk = true ∧ stewardUp s = true ∧ mailboxOpen r.issuer s = true) →
      (∀ j < 71, holdsAt j s = true → roundsTo (sourceIndex r.issuer (c.code == 0x0101)) s ≤ roundsTo j s) → Heard c r s :=
    fun h ht => ⟨h.1, h.2.1, h.2.2, inTurn_iff.mpr ht⟩
  refine ⟨fun i c r s hc hp ht => ?early, fun i c r s hc h ht hf => ?outside, fun i c r s hc h ht hf hh => ?header,
    fun i c r st s hc h ht hf hh hs => ?session, fun i c r s hc h ht hf hh hs hpres hcopy => ?absent,
    fun i c r s hc h ht hf hh hs hpres hperm => ?issuer, fun i c r s hc h ht hf hh hs hpres hperm hbad => ?reserved,
    fun c r d own s h hd => ?engine⟩
  case early =>
    have hturn : inTurn r.issuer (c.code == 0x0101) s = false := Bool.eq_false_iff.mpr fun h => ht (inTurn_iff.mp h)
    obtain ⟨a, form, own, hx⟩ := exec_of_command hc fun _ => requestPasses_of_turn hturn
    rw [hx, run_powered hp, serve_early (c := { c with attachment := a }) hturn]
  case outside =>
    obtain ⟨a, form, own, hx⟩ := exec_of_command hc fun _ => requestPasses_of_outside hf
    have hk : Heard { c with attachment := a } r s := hear h ht
    rw [hx, run_powered hk.powered, serve_outside hk hf]
  case header => exact turned_of_reject hc (hear h ht) hf fun form => by simp [formReject, hh]
  case session => exact turned_of_reject hc (hear h ht) hf fun form => by simp [formReject, hh, hs]
  case absent =>
    refine turned_of_reject hc (hear h ht) hf fun form => ?_
    have hrelay : (!r.relay || isCopy r.issuer) = true := by
      obtain hr | hr := hcopy
      · rw [hr]; rfl
      · rw [hr, Bool.or_true]
    simp [formReject, hh, hs, hpres, hrelay]
  case issuer =>
    refine turned_of_reject hc (hear h ht) hf fun form => ?_
    simp [formReject, hh, hs, hperm, present_or_passed hpres]
  case reserved =>
    refine turned_of_reject hc (hear h ht) hf fun form => ?_
    have hform : (!form || !r.reservedOk || (r.relay && !(c.relayable && scopeOk r))) = true := by
      obtain hr | ⟨hr, hr' | hr'⟩ := hbad
      · rw [hr, Bool.not_false, Bool.or_true, Bool.true_or]
      · rw [hr, hr', Bool.false_and, Bool.not_false, Bool.and_true, Bool.or_true]
      · rw [hr, hr', Bool.and_false, Bool.not_false, Bool.and_true, Bool.or_true]
    simp only [formReject, hh, hs, hperm, present_or_passed hpres, hform, Bool.not_true, Bool.false_eq_true, if_false, if_true]
  case engine => exact rejects_of h rfl fun u => if_neg (by rw [show engineUp d (plumb s u) = false from hd]; exact Bool.false_ne_true)
where
  present_or_passed {c : Cmd} {r : Req} {s : State}
      (h : presentAt c.only s.fuse.plaza = true ∨ (r.relay = true ∧ isCopy r.issuer = false)) :
      (!presentAt c.only s.fuse.plaza && (!r.relay || isCopy r.issuer)) = false := by
    obtain h | ⟨h, h'⟩ := h
    · rw [h]; rfl
    · rw [h, h', Bool.not_true, Bool.or_self, Bool.and_false]

end Sys2Proof.Machine
end

section
/-!
Roles: what is found after a change of one, and what the records that a role sends leave of it.
-/

namespace Sys2Proof.Machine

section Roles

variable {β : Type} {p : Role → β} {s t u : State} {k j : RoleKind} {f : Role → Role} {r : Role} {src : Nat} {g : Child → Child}

/-! ## What stands of every role -/

/-- Of every role, `p` stands in `t` as in `s`. -/
def Alike (p : Role → β) (s t : State) : Prop :=
  t.roles.map (fun r => (r.kind, p r)) = s.roles.map fun r => (r.kind, p r)

theorem Alike.refl : Alike p s s := rfl
theorem Alike.trans (h : Alike p s t) (h' : Alike p t u) : Alike p s u := Eq.trans h' h
theorem Alike.of_roles (h : t.roles = s.roles) : Alike p s t := by unfold Alike; rw [h]

theorem alike_when {b : Bool} {f : State → State} (h : Alike p s (f s)) : Alike p s (when b f s) := by
  cases b
  · exact Alike.refl
  · exact h

theorem roles_when {b : Bool} {f : State → State} (h : (f s).roles = s.roles) : (when b f s).roles = s.roles := by
  cases b
  · rfl
  · exact h

theorem Quiet.die {l : List Part} (h : Quiet l s t) (hk : .die ∉ l) : t.die = s.die := h .die hk

theorem alike_forEach {α : Type} {xs : List α} {f : α → State → State} (h : ∀ a s, Alike p s (f a s)) :
    Alike p s (forEach xs f s) := by
  unfold forEach
  induction xs generalizing s with
  | nil => exact Alike.refl
  | cons a xs ih => exact (h a s).trans ih

theorem alike_modRole (h : ∀ r, (f r).kind = r.kind ∧ p (f r) = p r) : Alike p s (modRole k f s) := by
  unfold Alike modRole
  rw [List.map_map]
  refine List.map_congr_left fun r _ => ?_
  dsimp only [Function.comp]
  split
  · rw [(h r).1, (h r).2]
  · rfl

theorem Alike.find (h : Alike p s t) : (findRole k t).map p = (findRole k s).map p := by
  have hx : ∀ x : State, (findRole k x).map p
      = ((x.roles.map fun r => (r.kind, p r)).find? fun e => e.1 == k).map (·.2) := fun x => by
    rw [List.find?_map, Option.map_map]
    rfl
  rw [hx, hx, h]

theorem Alike.found (h : Alike p s t) (hr : findRole k s = some r) : ∃ q, findRole k t = some q ∧ p q = p r := by
  have hm := h.find (k := k)
  rw [hr] at hm
  exact Option.map_eq_some_iff.mp hm

/-! ## A role that is changed -/

theorem findRole_kind (h : findRole k s = some r) : r.kind = k := beq_iff_eq.mp (List.find?_some (p := fun r : Role => r.kind == k) h)

theorem findRole_modRole (hf : ∀ r, (f r).kind = r.kind) : findRole k (modRole k f s) = (findRole k s).map f := by
  have hkind : (fun r : Role => (if r.kind = k then f r else r).kind == k) = fun r => r.kind == k := by
    funext r
    split
    · rw [hf r]
    · rfl
  unfold findRole modRole
  dsimp only
  rw [List.find?_map, show ((fun r : Role => r.kind == k) ∘ fun r => if r.kind = k then f r else r) = _ from hkind]
  cases hr : s.roles.find? fun r => r.kind == k with
  | none => rfl
  | some r => exact congrArg some (if_pos (findRole_kind hr))

theorem findRole_modRole_some (hf : ∀ r, (f r).kind = r.kind) (h : findRole k s = some r) :
    findRole k (modRole k f s) = some (f r) := by
  rw [findRole_modRole hf, h]
  rfl

theorem findRole_modRole_other (hf : ∀ r, (f r).kind = r.kind) (hj : j ≠ k) : findRole j (modRole k f s) = findRole j s := by
  unfold findRole modRole
  dsimp only
  induction s.roles with
  | nil => rfl
  | cons r l ih =>
    rw [List.map_cons, List.find?_cons, List.find?_cons]
    by_cases hr : r.kind = k
    · rw [if_pos hr, hf r, hr, beq_eq_false_iff_ne.mpr (Ne.symm hj)]
      exact ih
    · rw [if_neg hr]
      split
      · rfl
      · exact ih

/-! ## Children -/

/-- The children of a role with those of one source changed. -/
def withChild (src : Nat) (g : Child → Child) (r : Role) : Role :=
  { r with children := r.children.map fun c => if c.source = src then g c else c }

theorem findRole_onChild (h : findRole k s = some r) : findRole k (onChild k src g s) = some (withChild src g r) :=
  findRole_modRole_some (fun _ => rfl) h

theorem childOf_withChild (hg : ∀ c, (g c).source = c.source) : childOf src (withChild src g r) = (childOf src r).map g := by
  unfold childOf withChild
  dsimp only
  induction r.children with
  | nil => rfl
  | cons c l ih =>
    rw [List.map_cons, List.find?_cons, List.find?_cons]
    by_cases hc : c.source = src
    · rw [if_pos hc, hg c, hc, beq_self_eq_true]
      rfl
    · rw [if_neg hc, beq_eq_false_iff_ne.mpr hc]
      exact ih

theorem childOf_source {c : Child} (h : childOf src r = some c) : c.source = src :=
  beq_iff_eq.mp (List.find?_some (p := fun c : Child => c.source == src) h)

theorem childOf_of_children {q : Role} (h : q.children = r.children) : childOf src q = childOf src r := by
  unfold childOf
  rw [h]

/-! ## Records that a role sends -/

/-- A frame's number and period. -/
def frameKey (t : TierFrame) : Nat × Nat := (t.frame, t.period)

/-- `p` reads no more of a role's frames than their numbers and periods. -/
def SparesFrames (p : Role → β) : Prop :=
  ∀ (r : Role) (f : TierFrame → TierFrame), (∀ t, frameKey (f t) = frameKey t) → p { r with frames := r.frames.map f } = p r

/-- `p` reads neither a role's alerts nor its records sent. -/
def SparesSent (p : Role → β) : Prop :=
  ∀ r : Role, ∀ alerts seq sent, p { r with alerts := alerts, seq := seq, sent := sent } = p r

theorem touches_enqueueLedger {x : Record} {d : Nat} {b : Bool} : Touches [.upl] s (enqueueLedger x d b s) := touches_put .upl rfl

theorem touches_sinkRecord {x : Record} : Touches [.led, .buf, .out] s (sinkRecord x s) := by
  unfold sinkRecord
  split
  · exact Touches.refl
  · refine touches_ite Touches.refl (touches_ite (touches_chainWrite.mono (by decide)) ?_)
    exact (touches_put .led rfl).mono (by decide)

theorem alike_onFrame {n period : Nat} {h : TierFrame → TierFrame} (hp : SparesFrames p) (hh : ∀ t, frameKey (h t) = frameKey t) :
    Alike p s (onFrame k n period h s) :=
  alike_modRole fun r => ⟨rfl, hp r _ fun t => by
    split
    · exact hh t
    · rfl⟩

theorem alike_takeAlerts (hp : SparesSent p) : Alike p s (takeAlerts k s).2 := by
  unfold takeAlerts
  split
  · exact Alike.refl
  · have h : Alike p s (modRole k (fun r => { r with alerts := [] }) s) :=
      alike_modRole fun r => ⟨rfl, hp r [] r.seq r.sent⟩
    split
    · exact h.trans (Alike.of_roles rfl)
    · exact h

/-- The record as it leaves, with the sequence of its role. -/
def sentRecord (x : Record) (role : Role) : Record := (markExpanded { x with seq := role.seq }).1

/-- A role with a record sent: a parent may ask for it again, but no one is the parent of a Forum role. -/
def withSent (k : RoleKind) (y : Record) (q : Role) : Role :=
  { q with seq := q.seq + 1, sent := if k = .forum then q.sent else q.sent ++ [{ record := y, ackedBy := [] }] }

theorem roles_sendRoleRecord {x : Record} {b : Bool} (h : findRole k s = some r) :
    (sendRoleRecord k x b s).roles = (modRole k (withSent k (sentRecord x r)) s).roles := by
  unfold sendRoleRecord sentRecord
  rw [h]
  dsimp only
  generalize markExpanded { x with seq := r.seq } = m
  obtain ⟨y, n⟩ := m
  refine ((touches_when touches_sinkRecord).roles (by decide)).trans ?_
  refine ((touches_forEach fun _ _ => touches_enqueueLedger).roles (by decide)).trans ?_
  refine (quiet_arcIngest.roles (by decide)).trans ?_
  rfl

theorem alike_sendRoleRecord {x : Record} {b : Bool} (hp : SparesSent p) : Alike p s (sendRoleRecord k x b s) := by
  cases h : findRole k s with
  | none =>
    unfold sendRoleRecord
    rw [h]
    exact Alike.refl
  | some r =>
    have hsent : Alike p s (modRole k (withSent k (sentRecord x r)) s) :=
      alike_modRole fun r => ⟨rfl, hp r r.alerts _ _⟩
    exact hsent.trans (Alike.of_roles (roles_sendRoleRecord h))

theorem alike_amend {n period : Nat} {a : Added} {st : List ChildStatus} (hp : SparesSent p) :
    Alike p s (amend k n period a st s) := by
  unfold amend
  split
  · exact Alike.refl
  · split
    · exact Alike.refl
    · exact (alike_takeAlerts hp).trans (alike_sendRoleRecord hp)

/-- A frame with what is merged into it, and with the status of some children. -/
def mergedInto (a : Added) (st : List ChildStatus) (t : TierFrame) : TierFrame := st.foldl (fun t c => setStatus c t) (mergeInto a t)

theorem mergedInto_keeps {γ : Type} {a : Added} {st : List ChildStatus} {t : TierFrame} (f : TierFrame → γ)
    (hm : ∀ t, f (mergeInto a t) = f t) (hs : ∀ c t, f (setStatus c t) = f t) : f (mergedInto a st t) = f t := by
  unfold mergedInto
  refine Eq.trans ?_ (hm t)
  generalize mergeInto a t = u
  induction st generalizing u with
  | nil => rfl
  | cons c st ih => exact (ih _).trans (hs c u)

theorem alike_contribute {n period : Nat} {a : Added} {st : List ChildStatus} (hf : SparesFrames p) (hs : SparesSent p) :
    Alike p s (contribute k n period a st s) :=
  (alike_onFrame (h := mergedInto a st) hf fun _ => mergedInto_keeps frameKey (fun _ => rfl) fun _ _ => rfl).trans
    (alike_when (alike_amend hs))

/-! ## The end of a child's epoch -/

theorem children_spareFrames : SparesFrames (·.children) := fun _ _ _ => rfl
theorem children_spareSent : SparesSent (·.children) := fun _ _ _ _ => rfl

/-- A child of a new epoch, of whose records nothing is expected yet. -/
def inEpoch (epoch : Nat) (c : Child) : Child := { c with epoch := epoch, seqNext := 0, gaps := [], ackFrame := none, reqs := [] }

/-- The end of a child's epoch leaves the child in its new one (R50). -/
theorem child_endChildEpoch {c d : Child} {epoch opens : Nat} (hr : findRole k s = some r) (hd : childOf c.source r = some d) :
    ∃ q, findRole k (endChildEpoch k c epoch opens s) = some q ∧ childOf c.source q = some (inEpoch epoch d) := by
  unfold endChildEpoch
  rw [hr]
  dsimp -zeta only
  extract_lets frames x y
  have hy : y.roles = x.roles := roles_when rfl
  have hx : Alike (·.children) s x := alike_forEach fun f y => by
    refine Alike.trans ?_ (alike_contribute children_spareFrames children_spareSent)
    exact alike_onFrame children_spareFrames fun _ => rfl
  obtain ⟨q, hq, hc⟩ := Alike.found (k := k) (hx.trans (Alike.of_roles hy)) hr
  refine ⟨_, findRole_onChild (g := inEpoch epoch) hq, ?_⟩
  rw [childOf_withChild (g := inEpoch epoch) fun _ => rfl, childOf_of_children hc, hd]
  rfl

end Roles

end Sys2Proof.Machine
end

section
/-!
The candidate parent in the adoption handshake.
-/

namespace Sys2Proof.Machine

section CandidateEvents

variable {m : AdoptMsg} {o : Offer} {s t : State} {r : Role} {reason : Nat}

/-! ## The candidate's census -/

/-- The child of an offer stands in the census from `join` on. -/
def Joined (o : Offer) (join : Nat) (s : State) : Prop :=
  ∃ q c, findRole .plaza s = some q ∧ childOf o.die q = some c ∧ c.epoch = o.epoch ∧ c.joinFt = join ∧ c.leaveFt = none

theorem Joined.of_roles {join : Nat} (h : Joined o join s) (ht : t.roles = s.roles) : Joined o join t := by
  unfold Joined
  rw [findRole_same ht]
  exact h

theorem joined_onChild {join finalTo : Nat} {c : Child} (hr : findRole .plaza s = some r) (hc : childOf o.die r = some c)
    (he : c.epoch = o.epoch) : Joined o join (onChild .plaza o.die (rejoin o join finalTo) s) := by
  refine ⟨_, rejoin o join finalTo c, findRole_onChild hr, ?_, he, rfl, rfl⟩
  rw [childOf_withChild (g := rejoin o join finalTo) fun _ => rfl, hc]
  rfl

theorem roles_forgetSeries {die : Nat} : (forgetSeries die s).roles = s.roles := rfl

/-- A new child joins at the end of the census. -/
theorem joined_newChild {join : Nat} (hr : findRole .plaza s = some r) (hc : childOf o.die r = none) :
    Joined o join (modRole .plaza (fun r => { r with children := r.children ++ [newChild o.die o.epoch 0 join o.home o.ackFrame] }) s) := by
  refine ⟨_, newChild o.die o.epoch 0 join o.home o.ackFrame, findRole_modRole_some (fun _ => rfl) hr, ?_, rfl, rfl, rfl⟩
  unfold childOf at hc ⊢
  dsimp only
  rw [List.find?_append, hc, Option.none_or, List.find?_singleton]
  exact if_pos (beq_self_eq_true _)

/-- A child that joins, or joins again, stands in the census under its epoch (R146, R150). -/
theorem joined_joinCensus {join : Nat} (hr : findRole .plaza s = some r) : Joined o join (joinCensus o join s) := by
  unfold joinCensus
  extract_lets x
  have hx : findRole .plaza x = some r := hr
  rw [hx]
  dsimp -zeta only
  split
  · rename_i hc
    exact joined_newChild (s := forgetSeries o.die x) hx hc
  · rename_i c hc
    have hsrc := childOf_source hc
    extract_lets y z
    have hy : findRole .plaza y = some r := (findRole_same (roles_when roles_forgetSeries)).trans hx
    cases he : c.epoch != o.epoch with
    | false =>
      have hz : z = y := by simp only [z, he]; rfl
      rw [hz]
      exact joined_onChild hy hc (by simpa using he)
    | true =>
      have hz : z = endChildEpoch .plaza c o.epoch (min join (o.keptFt.getD join)) y := by simp only [z, he]; rfl
      obtain ⟨q, hq, hd⟩ := child_endChildEpoch (epoch := o.epoch) (opens := min join (o.keptFt.getD join)) hy (hsrc ▸ hc)
      rw [hz]
      exact joined_onChild hq (hsrc ▸ hd) rfl

/-! ## Messages -/

theorem touches_heardFrom {peer : Nat} : Touches [.place] s (heardFrom peer s) := touches_put .place rfl

theorem quiet_chipHears {peer : Nat} : Quiet [.arc, .place] s (chipHears peer m s) :=
  .after touches_heardFrom.quiet (by decide) (.after (touches_put .place rfl).quiet (by decide) (quiet_arcIngest.mono (by decide)))

/-- What a chip hears leaves its offers, its part and its losses to stand-ins. -/
theorem place_chipHears {peer : Nat} : (chipHears peer m s).place.offers = s.place.offers ∧
    (chipHears peer m s).place.part = s.place.part ∧ (chipHears peer m s).place.standinLost = s.place.standinLost := by
  have h : (arcIngest 4 (mkEntry m.die 64 (.adopt m) s) s).place = s.place := quiet_arcIngest.place (l := [.arc]) (by decide)
  exact ⟨congrArg (·.offers) h, congrArg (·.part) h, congrArg (·.standinLost) h⟩

theorem die_chipHears {peer : Nat} : (chipHears peer m s).die = s.die := quiet_chipHears.die (by decide)

theorem plazaCensus_of_roles (h : t.roles = s.roles) : plazaCensus t = plazaCensus s := by
  unfold plazaCensus
  rw [findRole_same h]

theorem ceilingFor_chipHears {peer home : Nat} : ceilingFor home (chipHears peer m s) = ceilingFor home s := by
  obtain ⟨-, hpart, hlost⟩ := place_chipHears (peer := peer) (m := m) (s := s)
  unfold ceilingFor
  rw [hpart, hlost, die_chipHears]

theorem refusal_chipHears {peer : Nat} : refusal m (chipHears peer m s) = refusal m s := by
  obtain ⟨-, hpart, -⟩ := place_chipHears (peer := peer) (m := m) (s := s)
  have hroles : (chipHears peer m s).roles = s.roles := quiet_chipHears.roles (by decide)
  unfold refusal hostedReplicas isDrained
  rw [plazaCensus_of_roles hroles, ceilingFor_chipHears, hroles, hpart, die_chipHears]

theorem nextOpenFt_chipHears {peer : Nat} : nextOpenFt (chipHears peer m s) = nextOpenFt s := by
  unfold nextOpenFt frameAt frameNs
  rw [quiet_chipHears.grid (by decide), quiet_chipHears.time (by decide)]

/-- The offer that answers a request, and a candidate that has made it. -/
def offerFor (m : AdoptMsg) : Offer :=
  { die := m.die, home := m.home, epoch := m.epoch, ackFrame := m.frameA,
    keptFt := if m.retained = 0 then none else some (frameOpens m.frameB m.period) }

def withOffer (o : Offer) (s : State) : State :=
  onPlace (fun p => { p with offers := (p.offers.filter fun x => x.die != o.die) ++ [o] }) s

/-- A message of the handshake waits for its peer. -/
def HandshakeMessage (peer msg : Nat) (s : State) : Prop := ∃ x ∈ s.upl.adoption, dstKey x.1 = peer ∧ x.2.2 = msg

theorem handshakeMessage_sent {peer msg : Nat} {q : AdoptMsg} : HandshakeMessage peer msg (sendMsgAdopt peer msg q s) := by
  obtain ⟨p, hp, hd⟩ := sendMsgAdopt_adoption (peer := peer) (msg := msg) (m := q) (s := s)
  exact ⟨(p, q, msg), by simp [hp], hd, rfl⟩

/-- A refusal leaves the offers and roles, and says its reason (R149). -/
theorem refuse_facts : (refuse m reason s).place = s.place ∧ (refuse m reason s).roles = s.roles ∧
    ∃ x ∈ (refuse m reason s).upl.adoption, dstKey x.1 = m.die ∧ x.2.2 = 5 ∧ x.2.1.pos = reason := by
  have hq : Quiet [.arc, .upl] s (refuse m reason s) := quiet_sendMsgAdopt
  obtain ⟨p, hp, hd⟩ := sendMsgAdopt_adoption (peer := m.die) (msg := 5) (m := parentMsg m reason s) (s := s)
  refine ⟨hq.place (by decide), hq.roles (by decide), (p, parentMsg m reason s, 5), ?_, hd, rfl, rfl⟩
  show _ ∈ (sendMsgAdopt m.die 5 (parentMsg m reason s) s).upl.adoption
  rw [hp]
  exact List.mem_append_right _ (List.mem_singleton.mpr rfl)

/-- The list that goes with an acknowledgement changes no role and keeps what waits for the chips. -/
theorem handList_facts {die held : Nat} : (handList die held s).roles = s.roles ∧ (handList die held s).upl.adoption = s.upl.adoption := by
  unfold handList
  split
  · exact ⟨rfl, rfl⟩
  · split
    · exact ⟨rfl, rfl⟩
    · split
      · exact ⟨rfl, rfl⟩
      · exact ⟨quiet_arcIngest.roles (l := [.arc]) (by decide), arcIngest_adoption⟩

end CandidateEvents

/-- Settles O38: the candidate hears the chip, and answers a request and a confirm by what it can take. -/
theorem candidateEventsComplete : Obligations.CandidateEventsComplete := by
  refine ⟨fun m s hp hup hcrc hpar hnone => ?offer, fun m reason s hp hup hcrc hpar hsome => ?refused,
    fun m o s hp hup hcrc ho he hfit => ?joins, fun m o s hp hup hcrc ho he hover => ?full,
    fun m o s hp hup hcrc ho he => ?elsewhere, fun m s hp hup hcrc => ?bad⟩
  case offer =>
    have hx : ∃ q, exec (.adoptReq m) s = .next (sendMsgAdopt m.die 2 q (withOffer (offerFor m) (chipHears m.die m s))) := by
      refine ⟨{ parentMsg m 0 (withOffer (offerFor m) (chipHears m.die m s)) with
        frameB := ((chipHears m.die m s).grid.pending.map (·.2)).getD 0 }, ?_⟩
      show execAdoptReq m s = _
      unfold execAdoptReq
      rw [run_powered hp]
      simp only [hup, hcrc, hpar, refusal_chipHears, hnone, Bool.not_true, Bool.false_eq_true, if_false, ne_eq, not_true_eq_false]
      rfl
    obtain ⟨q, hx⟩ := hx
    obtain ⟨x, hmem, hdst, hmsg⟩ := handshakeMessage_sent (peer := m.die) (msg := 2) (q := q)
      (s := withOffer (offerFor m) (chipHears m.die m s))
    refine ⟨_, x, hx, ?_, hmem, hdst, hmsg⟩
    rw [quiet_sendMsgAdopt.place (by decide)]
    exact List.mem_append_right _ (List.mem_singleton.mpr rfl)
  case refused =>
    have hx : exec (.adoptReq m) s = .next (refuse m reason (chipHears m.die m s)) := by
      show execAdoptReq m s = _
      unfold execAdoptReq
      rw [run_powered hp]
      simp only [hup, hcrc, hpar, refusal_chipHears, hsome, Bool.not_true, Bool.false_eq_true, if_false, ne_eq, not_true_eq_false]
    obtain ⟨hplace, -, x, hmem, hfacts⟩ := refuse_facts (m := m) (reason := reason) (s := chipHears m.die m s)
    obtain ⟨hoffers, -⟩ := place_chipHears (peer := m.die) (m := m) (s := s)
    exact ⟨_, x, hx, (congrArg (·.offers) hplace).trans hoffers, hmem, hfacts⟩
  case joins =>
    obtain ⟨hoffers, -⟩ := place_chipHears (peer := m.die) (m := m) (s := s)
    have hroles : (chipHears m.die m s).roles = s.roles := quiet_chipHears.roles (by decide)
    have hx : ∃ q, exec (.adoptConfirm m) s = .next (handList m.die m.generation
        (sendMsgAdopt m.die 4 q (joinCensus o (nextOpenFt s) (chipHears m.die m s)))) := by
      refine ⟨{ parentMsg m 0 (chipHears m.die m s) with
        frameA := some (numberAt (nextOpenFt s) (chipHears m.die m s)) }, ?_⟩
      show execAdoptConfirm m s = _
      unfold execAdoptConfirm
      rw [run_powered hp]
      simp only [hup, hcrc, hoffers, ho, he, ceilingFor_chipHears, plazaCensus_of_roles hroles, Nat.not_lt.mpr hfit,
        nextOpenFt_chipHears, Bool.not_true, Bool.false_eq_true, if_false, ne_eq, not_true_eq_false]
    obtain ⟨q, hx⟩ := hx
    have hdie : o.die = m.die := beq_iff_eq.mp (List.find?_some (p := fun o : Offer => o.die == m.die) ho)
    obtain ⟨r, hr⟩ := Option.isSome_iff_exists.mp (Bool.and_eq_true_iff.mp hup).2
    have hj : Joined o (nextOpenFt s) (joinCensus o (nextOpenFt s) (chipHears m.die m s)) :=
      joined_joinCensus ((findRole_same hroles).trans hr)
    obtain ⟨hlistRoles, hlistAdoption⟩ := handList_facts (die := m.die) (held := m.generation)
      (s := sendMsgAdopt m.die 4 q (joinCensus o (nextOpenFt s) (chipHears m.die m s)))
    obtain ⟨r', c, hr', hc, hep, hjoin, hleave⟩ := hj.of_roles (hlistRoles.trans (quiet_sendMsgAdopt.roles (by decide)))
    obtain ⟨x, hmem, hdst, hmsg⟩ := handshakeMessage_sent (peer := m.die) (msg := 4) (q := q)
      (s := joinCensus o (nextOpenFt s) (chipHears m.die m s))
    exact ⟨_, r', c, x, hx, hr', hdie ▸ hc, hep, hjoin, hleave, hlistAdoption ▸ hmem, hdst, hmsg⟩
  case full =>
    obtain ⟨hoffers, -⟩ := place_chipHears (peer := m.die) (m := m) (s := s)
    have hroles : (chipHears m.die m s).roles = s.roles := quiet_chipHears.roles (by decide)
    have hx : ∃ u, u.roles = s.roles ∧ exec (.adoptConfirm m) s = .next (refuse m 1 u) := by
      refine ⟨onPlace (fun p => { p with offers := p.offers.filter fun x => x.die != m.die }) (chipHears m.die m s), hroles, ?_⟩
      show execAdoptConfirm m s = _
      unfold execAdoptConfirm
      rw [run_powered hp]
      simp only [hup, hcrc, hoffers, ho, he, ceilingFor_chipHears, plazaCensus_of_roles hroles, hover,
        Bool.not_true, Bool.false_eq_true, if_false, if_true, ne_eq, not_true_eq_false]
    obtain ⟨u, hu, hx⟩ := hx
    obtain ⟨-, hkept, x, hmem, hfacts⟩ := refuse_facts (m := m) (reason := 1) (s := u)
    exact ⟨_, x, hx, hkept.trans hu, hmem, hfacts⟩
  case elsewhere =>
    obtain ⟨hoffers, -⟩ := place_chipHears (peer := m.die) (m := m) (s := s)
    have hx : exec (.adoptConfirm m) s
        = .next (onPlace (fun p => { p with offers := p.offers.filter fun x => x.die != m.die }) (chipHears m.die m s)) := by
      show execAdoptConfirm m s = _
      unfold execAdoptConfirm
      rw [run_powered hp]
      simp only [hup, hcrc, hoffers, ho, he, Bool.not_true, Bool.false_eq_true, if_false, if_true, ne_eq, not_false_eq_true]
    refine ⟨_, hx, (quiet_chipHears (peer := m.die) (m := m)).roles (by decide), fun x hmem hdie => ?_⟩
    have hkept := (List.mem_filter.mp hmem).2
    rw [hdie, bne_self_eq_false] at hkept
    cases hkept
  case bad =>
    constructor
    · show execAdoptReq m s = _
      unfold execAdoptReq
      rw [run_powered hp]
      simp only [hup, hcrc, Bool.not_true, Bool.not_false, Bool.false_eq_true, if_false, if_true]
      rfl
    · show execAdoptConfirm m s = _
      unfold execAdoptConfirm
      rw [run_powered hp]
      simp only [hup, hcrc, Bool.not_true, Bool.not_false, Bool.false_eq_true, if_false, if_true]
      rfl

end Sys2Proof.Machine
end

section
/-!
Records in the uplink's queues: the last packet of a record completes it.
-/

namespace Sys2Proof.Machine

section QueuedRecords

variable {s t : State} {cls cls' : Nat} {o o' : Out} {ps : List Packet} {bs : List Block}

theorem fillPackets_ne_nil {base : Packet} {total : Nat} {blocks : List (Nat × Nat)} {cur : Packet}
    (h : blocks ≠ [] ∨ cur.nBlk ≠ 0) : fillPackets base total blocks cur ≠ [] := by
  induction blocks generalizing cur with
  | nil =>
    unfold fillPackets
    rw [if_neg (h.resolve_left fun h => h rfl)]
    exact List.cons_ne_nil _ _
  | cons b l ih =>
    unfold fillPackets
    split
    · exact List.cons_ne_nil _ _
    · exact ih (.inr (Nat.succ_ne_zero _))

theorem withRecord_carries (h : ps ≠ []) : ∃ q ∈ withRecord o ps, q.carries = some o := by
  induction ps with
  | nil => exact absurd rfl h
  | cons p l ih =>
    cases l with
    | nil => exact ⟨_, List.mem_singleton.mpr rfl, rfl⟩
    | cons q l =>
      obtain ⟨x, hx, ho⟩ := ih (List.cons_ne_nil _ _)
      exact ⟨x, List.mem_cons_of_mem _ hx, ho⟩

theorem leaves_enqueue (h : ps ≠ []) : Leaves cls o (enqueue cls ps o s) := by
  obtain ⟨x, hx, ho⟩ := withRecord_carries (o := o) h
  refine ⟨x, ?_, ho⟩
  have hin : x ∈ tget [] cls s.upl.queues ++ withRecord o ps := List.mem_append_right _ hx
  show x ∈ tget [] cls (tmod [] cls (fun q => q ++ withRecord o ps) s.upl.queues)
  rw [tget_tmod_listed (f := fun q => q ++ withRecord o ps) (List.ne_nil_of_mem hin)]
  exact hin

theorem Leaves.enqueue (h : Leaves cls o s) : Leaves cls o (enqueue cls' ps o' s) := by
  obtain ⟨x, hx, ho⟩ := h
  refine ⟨x, ?_, ho⟩
  show x ∈ tget [] cls (tmod [] cls' (fun q => q ++ withRecord o' ps) s.upl.queues)
  by_cases hc : cls = cls'
  · subst hc
    have hin : x ∈ tget [] cls s.upl.queues ++ withRecord o' ps := List.mem_append_left _ hx
    rw [tget_tmod_listed (f := fun q => q ++ withRecord o' ps) (List.ne_nil_of_mem hin)]
    exact hin
  · rw [tget_tmod_other hc]
    exact hx

theorem Leaves.of_queues (h : Leaves cls o s) (hq : t.upl.queues = s.upl.queues) : Leaves cls o t := by
  unfold Leaves
  rw [hq]
  exact h

theorem blockSizes_ne_nil (h : bs ≠ []) : blockSizes bs ≠ [] := by
  unfold blockSizes
  simpa using h

theorem leaves_enqueueSeries {src dst rtag rseq rlen : Nat} (h : bs ≠ []) : Leaves 2 o (enqueueSeries src dst rtag rseq rlen bs o s) :=
  (leaves_enqueue (fillPackets_ne_nil (.inl (blockSizes_ne_nil h)))).of_queues rfl

theorem Leaves.enqueueSeries {src dst rtag rseq rlen : Nat} (h : Leaves cls o s) :
    Leaves cls o (enqueueSeries src dst rtag rseq rlen bs o' s) :=
  (Leaves.enqueue h).of_queues rfl

theorem leaves_enqueueRecord {src dst rtag rseq rlen : Nat} {b : Bool} (h : bs ≠ []) :
    Leaves cls o (enqueueRecord cls src dst rtag rseq rlen b bs o s) :=
  leaves_enqueue (fillPackets_ne_nil (.inl (blockSizes_ne_nil h)))

theorem Leaves.enqueueRecord {src dst rtag rseq rlen : Nat} {b : Bool} (h : Leaves cls o s) :
    Leaves cls o (enqueueRecord cls' src dst rtag rseq rlen b bs o' s) := Leaves.enqueue h

/-- A record for each of several peers waits for every one of them. -/
theorem leaves_forEach {α : Type} {xs : List α} {f : α → State → State} {g : α → Out} (hsend : ∀ a s, Leaves cls (g a) (f a s))
    (hkeep : ∀ a o s, Leaves cls o s → Leaves cls o (f a s)) (a : α) (ha : a ∈ xs) : Leaves cls (g a) (forEach xs f s) := by
  have hkeeps : ∀ (l : List α) (o : Out) (s : State), Leaves cls o s → Leaves cls o (forEach l f s) := fun l o s h =>
    List.foldlRecOn (motive := fun y : State => Leaves cls o y) l _ h fun y hy a _ => hkeep a o y hy
  induction xs generalizing s with
  | nil => cases ha
  | cons x xs ih =>
    rcases List.mem_cons.mp ha with rfl | ha
    · exact hkeeps xs _ _ (hsend a s)
    · exact ih ha

theorem recordBlocks_ne_nil {bytes : List Byte} {lo hi : Nat} (h : bytes ≠ []) : recordBlocks bytes lo hi ≠ [] := by
  have hlen : 0 < bytes.length := List.length_pos_of_ne_nil h
  have hdiv : ceilDiv bytes.length 256 = (bytes.length + 255) / 256 - 1 + 1 := by
    unfold ceilDiv
    rw [if_neg (by decide)]
    omega
  have hchunks : chunks256 (ceilDiv bytes.length 256) bytes ≠ [] := by
    rw [hdiv]
    unfold chunks256
    rw [if_neg (by simpa using h)]
    exact List.cons_ne_nil _ _
  unfold recordBlocks
  simpa using hchunks

end QueuedRecords

end Sys2Proof.Machine
end

section
/-!
Scores: vectors that the lanes finish, feature records and scores that do not come.
-/

namespace Sys2Proof.Machine

theorem Quiet.engineUp {l : List Part} {s t : State} {d : Nat} (h : Quiet l s t) (hl : ∀ k ∈ [Part.pwr, .rst, .jtag], k ∉ l) :
    engineUp d t = engineUp d s := by
  unfold Machine.engineUp
  rw [h.pwr (hl _ (by simp)), h.rst (hl _ (by simp)), h.jtag (hl _ (by simp))]

section Scores

variable {s t : State} {k : Option RoleKind} {e : ScoreEntry} {model die frame frameEnd : Nat} {i : TreeImage}

theorem self_mem_addOnce {α : Type} [DecidableEq α] {a : α} {l : List α} : a ∈ addOnce a l := by
  unfold addOnce
  split
  · rename_i h
    exact h
  · exact List.mem_append_right _ (List.mem_singleton.mpr rfl)

/-! ## The latest score of a model and die -/

theorem latestScore_of_scores (h : t.tree.scores = s.tree.scores) : latestScore model die t = latestScore model die s := by
  unfold latestScore
  rw [h]

/-- Nothing newer than frame `frame` is known of a model and die. -/
def NoNewer (model die frame : Nat) (s : State) : Prop := ∀ e, latestScore model die s = some e → e.sframe ≤ frame

theorem latestScore_none {l : List ScoreEntry} :
    (l.filter fun x => !(x.model == model && x.die == die)).find? (fun x => x.model == model && x.die == die) = none := by
  rw [List.find?_eq_none]
  intro x hx hm
  have hkept := (List.mem_filter.mp hx).2
  rw [hm] at hkept
  cases hkept

/-- An entry than which none is newer becomes the latest of its model and die (R217, R222). -/
theorem latestScore_keepScore (h : NoNewer e.model e.die e.sframe s) : latestScore e.model e.die (keepScore e s) = some e := by
  unfold keepScore
  extract_lets older x
  have holder : older = false := by
    unfold older
    split
    · rename_i y hy
      exact decide_eq_false (Nat.not_lt.mpr (h y hy))
    · rfl
  rw [holder, if_neg Bool.false_ne_true]
  show ((s.tree.scores.filter _) ++ [e]).find? _ = some e
  rw [List.find?_append, latestScore_none, Option.none_or, List.find?_singleton]
  exact if_pos (by simp)

/-- What a score that is kept leaves of the tree engine. -/
theorem keepScore_spares {β : Type} (p : Trees → β) (hp : ∀ t done scores, p { t with done := done, scores := scores } = p t) :
    p (keepScore e s).tree = p s.tree := by
  unfold keepScore
  extract_lets older x
  have hx : p x.tree = p s.tree := hp s.tree _ s.tree.scores
  split
  · exact hx
  · exact (hp x.tree x.tree.done _).trans hx

theorem settled_keepScore : settled e.model e.die e.sframe (keepScore e s) = true := by
  have hin : (e.model, e.die, e.sframe) ∈ addOnce (e.model, e.die, e.sframe) s.tree.done := self_mem_addOnce
  unfold settled keepScore
  extract_lets older x
  rw [List.contains_iff_mem]
  split
  · exact hin
  · exact hin

/-! ## Scores that leave -/

/-- A record of scores leaves everything of the tree engine but the sequence of its records. -/
theorem sendScores_tree {es : List ScoreEntry} : ∃ q, (sendScores k es s).tree = { s.tree with seq := q } := by
  unfold sendScores
  dsimp only
  rw [(touches_forEach fun _ _ => touches_enqueueSeries).tree (by decide), (quiet_when (l := [.arc]) quiet_arcIngest).tree (by decide)]
  exact ⟨_, rfl⟩

theorem sendScores_spares {β : Type} {es : List ScoreEntry} (p : Trees → β) (hp : ∀ t q, p { t with seq := q } = p t) :
    p (sendScores k es s).tree = p s.tree := by
  obtain ⟨q, hq⟩ := sendScores_tree (k := k) (es := es) (s := s)
  rw [hq, hp]

/-- The tree engine with a score counted among those present, late, missing or skipped (R214, R227). -/
def counted (e : ScoreEntry) (s : State) : State :=
  onTree (fun t => { t with
    present := t.present + bnat (!e.scflags.getLsbD 1 && !e.scflags.getLsbD 2), late := t.late + bnat (e.scflags.getLsbD 0),
    missing := t.missing + bnat (e.scflags.getLsbD 1), skipped := t.skipped + bnat (e.scflags.getLsbD 2) }) s

theorem finishScore_eq : finishScore k e s = sendScores k [e] (keepScore e (counted e s)) := rfl

/-- A finished score leaves everything of the tree engine but its counts, the scores and what they send. -/
theorem finishScore_spares {β : Type} (p : Trees → β)
    (hp : ∀ t done scores q present late missing skipped, p { t with
      done := done, scores := scores, seq := q, present := present, late := late, missing := missing, skipped := skipped } = p t) :
    p (finishScore k e s).tree = p s.tree := by
  rw [finishScore_eq, sendScores_spares p fun t q => hp t t.done t.scores q t.present t.late t.missing t.skipped,
    keepScore_spares p fun t done scores => hp t done scores t.seq t.present t.late t.missing t.skipped]
  exact hp s.tree s.tree.done s.tree.scores s.tree.seq _ _ _ _

theorem missing_finishScore : (finishScore k e s).tree.missing = s.tree.missing + bnat (e.scflags.getLsbD 1) := by
  rw [finishScore_eq, sendScores_spares (·.missing) fun _ _ => rfl, keepScore_spares (·.missing) fun _ _ _ => rfl]
  rfl

theorem latestScore_finishScore (h : NoNewer e.model e.die e.sframe s) : latestScore e.model e.die (finishScore k e s) = some e := by
  rw [finishScore_eq, latestScore_of_scores (sendScores_spares (·.scores) fun _ _ => rfl)]
  exact latestScore_keepScore h

theorem settled_finishScore : settled e.model e.die e.sframe (finishScore k e s) = true := by
  have hkeep := settled_keepScore (e := e) (s := counted e s)
  unfold settled at hkeep ⊢
  rw [finishScore_eq, sendScores_spares (·.done) fun _ _ => rfl]
  exact hkeep

/-- A completed score: its value is the latest, and the vectors stay as they are. -/
theorem completeScore_facts {period delay : Nat} {v : Int} (h : NoNewer i.model die frame s) :
    (completeScore k i die frame frameEnd period delay v s).tree.vecs = s.tree.vecs ∧
    ∃ e, latestScore i.model die (completeScore k i die frame frameEnd period delay v s) = some e ∧ e.sframe = frame ∧ e.value = v := by
  unfold completeScore
  extract_lets late al flags x
  have hx : x.tree = s.tree := by
    refine (quiet_when (l := []) ?_).tree (by decide)
    exact Quiet.trans quiet_raise (quiet_when quiet_notify)
  have hn : NoNewer i.model die frame x := fun e he => h e ((latestScore_of_scores (congrArg (·.scores) hx)).symm.trans he)
  refine ⟨(finishScore_spares (·.vecs) fun _ _ _ _ _ _ _ _ => rfl).trans (congrArg (·.vecs) hx), ?_⟩
  exact ⟨_, latestScore_finishScore (e := scoreEntry i.model i.imageCrc die 0 (i.dir.length - 1) frame v flags (doneUs frameEnd x)) hn, rfl, rfl⟩

/-! ## Vectors -/

/-- The slot of a vector holds its model. -/
theorem slotForVec_model {v : Vec} {x : TreeSlot} (h : slotForVec v s = some x) : x.image.model = v.model := by
  have hm := List.find?_some h
  simp only [Bool.and_eq_true, beq_iff_eq] at hm
  exact hm.1.1.1.1

/-- A request for a range stands among those that wait (R232). -/
theorem askImage_facts {a : ImageAsk} : a ∈ (askImage a s).tree.requested ∧ (askImage a s).tree.vecs = s.tree.vecs ∧
    (askImage a s).tree.missing = s.tree.missing ∧ (askImage a s).tree.scores = s.tree.scores := by
  unfold askImage
  split
  · rename_i h
    exact ⟨List.contains_iff_mem.mp h, rfl, rfl, rfl⟩
  · have ht : ∀ x : State, (forEach (forumNames x) (fun d => sendControl (selfSource x) d 0x4D47 128 (.imageReq a)) x).tree = x.tree :=
      fun x => (touches_forEach fun _ _ => touches_sendControl).tree (by decide)
    dsimp only
    rw [ht]
    exact ⟨List.mem_append_right _ (List.mem_singleton.mpr rfl), rfl, rfl, rfl⟩

theorem featureBytes_ne_nil {f : FeatureRecord} : featureBytes f ≠ [] := by
  unfold featureBytes withCrc fields
  simp [bytesOf]

/-- A feature record for the Leaf's parent waits in the Series queue (R219). -/
theorem leaves_forwardVector {v : Vec} {part : Int} {late : Bool} {p : Nat} (hp : s.place.parent = some p) :
    ∃ f, Leaves 2 (.featureRec p f) (forwardVector v part late s) ∧ f.frame = v.frame ∧ f.model = v.model ∧ f.values = v.values ∧
      f.leafPartial = part := by
  unfold forwardVector
  extract_lets r bytes
  refine ⟨r, ?_, rfl, rfl, rfl, rfl⟩
  rw [hp]
  refine leaves_forEach (g := fun d => Out.featureRec d r) (fun d s => ?_) (fun d o s => Leaves.enqueueSeries) p ?_
  · exact leaves_enqueueSeries (recordBlocks_ne_nil featureBytes_ne_nil)
  · exact List.mem_append_left _ self_mem_addOnce

theorem forwardVector_tree {v : Vec} {part : Int} {late : Bool} : (forwardVector v part late s).tree = s.tree := by
  unfold forwardVector
  dsimp only
  split
  · rfl
  · exact (touches_forEach fun _ _ => touches_enqueueSeries).tree (by decide)

/-- A lost vector is counted, and nothing that a score reads changes (R220). -/
theorem countLostVector_tree : ∃ n l, (countLostVector model die frame s).tree = { s.tree with lostRecords := n, came := l } := by
  unfold countLostVector
  split
  · exact ⟨_, _, rfl⟩
  · exact ⟨_, _, rfl⟩

/-- The model of the slot or header that completes a score (R213, R218). -/
theorem completingHere_model {x : TreeSlot} (h : completingHere model die frame s = some (k, x)) : x.image.model = model := by
  have hserves : ∀ {l : List TreeSlot} {b : TreeSlot → Bool} {y : TreeSlot},
      (l.find? fun t => (t.image.model == model && b t)) = some y → y.image.model = model := fun hy => by
    have := List.find?_some hy
    simp only [Bool.and_eq_true, beq_iff_eq] at this
    exact this.1
  unfold completingHere at h
  dsimp only at h
  simp only [Bool.and_assoc] at h
  split at h
  · split at h
    · obtain ⟨y, hy, hxy⟩ := Option.map_eq_some_iff.mp h
      cases hxy
      exact hserves hy
    · cases h
  · split at h
    · rename_i hy
      cases h
      exact hserves hy
    · split at h
      · cases h
      · split at h
        · obtain ⟨y, hy, hxy⟩ := Option.map_eq_some_iff.mp h
          cases hxy
          exact hserves hy
        · cases h

/-- A score that does not come is settled without a value (R214). -/
theorem failScore_facts {flags : BitVec 16} :
    settled i.model die frame (failScore k i die frame frameEnd flags s) = true ∧
    (failScore k i die frame frameEnd flags s).tree.missing = s.tree.missing + bnat (flags.getLsbD 1) ∧
    (failScore k i die frame frameEnd flags s).tree.vecs = s.tree.vecs ∧
    (failScore k i die frame frameEnd flags s).tree.mismatches = s.tree.mismatches ∧
    (failScore k i die frame frameEnd flags s).tree.requested = s.tree.requested ∧
    (NoNewer i.model die frame s → ∃ e, latestScore i.model die (failScore k i die frame frameEnd flags s) = some e ∧
      e.sframe = frame ∧ e.scflags = flags ∧ e.value = 0) :=
  ⟨settled_finishScore (e := scoreEntry i.model i.imageCrc die 0 (i.dir.length - 1) frame 0 flags (doneUs frameEnd s)),
    missing_finishScore, finishScore_spares (·.vecs) fun _ _ _ _ _ _ _ _ => rfl,
    finishScore_spares (·.mismatches) fun _ _ _ _ _ _ _ _ => rfl, finishScore_spares (·.requested) fun _ _ _ _ _ _ _ _ => rfl,
    fun h => ⟨_, latestScore_finishScore
      (e := scoreEntry i.model i.imageCrc die 0 (i.dir.length - 1) frame 0 flags (doneUs frameEnd s)) h, rfl, rfl, rfl⟩⟩

/-- Once the wait is over, a score that is not settled fails, with a vector counted that has not come (R214, R220). -/
theorem missed_unsettled (hset : settled model die frame s = false) (h : t.tree = s.tree) :
    ∃ u n l, u.tree = { s.tree with lostRecords := n, came := l } ∧
      (if settled model die frame (countLostVector model die frame t) = true then countLostVector model die frame t
        else failScore k i die frame frameEnd scMissing (dropScore model die frame (countLostVector model die frame t)))
      = failScore k i die frame frameEnd scMissing (dropScore model die frame u) := by
  obtain ⟨n, l, hl⟩ := countLostVector_tree (model := model) (die := die) (frame := frame) (s := t)
  have hset' : settled model die frame (countLostVector model die frame t) = false := by
    unfold settled at hset ⊢
    rw [hl, h]
    exact hset
  exact ⟨countLostVector model die frame t, n, l, by rw [hl, h], if_neg (by rw [hset']; exact Bool.false_ne_true)⟩

/-- A vector that cannot be scored: a score without a value where it would be completed here (R213, R215, R227). -/
theorem failVector_facts {v : Vec} {x : TreeSlot} {flags : BitVec 16} (h : flags.getLsbD 1 = true) :
    (failVector v x flags s).tree.missing = s.tree.missing + bnat (wholeHere x) ∧
    (failVector v x flags s).tree.vecs = s.tree.vecs ∧ (failVector v x flags s).tree.mismatches = s.tree.mismatches := by
  unfold failVector
  cases wholeHere x with
  | true =>
    obtain ⟨-, hmissing, hvecs, hmismatches, -⟩ := failScore_facts (k := some .plaza) (i := x.image) (die := v.die)
      (frame := v.frame) (frameEnd := v.frameEnd) (flags := flags) (s := s)
    rw [h] at hmissing
    exact ⟨hmissing, hvecs, hmismatches⟩
  | false =>
    exact ⟨sendScores_spares (·.missing) fun _ _ => rfl, sendScores_spares (·.vecs) fun _ _ => rfl,
      sendScores_spares (·.mismatches) fun _ _ => rfl⟩

/-- The vector of a feature record is fixed for its slot, and counted as its die's and frame's (R208, R220). -/
theorem takeVector_scored {rcd : FeatureRecord} {x : TreeSlot}
    (hx : slotForRecord rcd.model rcd.die rcd.frame (adoptedHere rcd.die s) s = some x) (hcrc : x.image.imageCrc = rcd.imageCrc)
    (hscore : isScoring rcd.frame (intervalAt rcd.frame x) = true) :
    ∃ v, (takeVector rcd s).tree.vecs = s.tree.vecs ++ [v] ∧ v.model = rcd.model ∧ v.die = rcd.die ∧ v.frame = rcd.frame ∧
      v.leafPartial = rcd.leafPartial ∧ v.leafTrees = rcd.leafTrees := by
  unfold takeVector
  extract_lets home period frameEnd y
  have hx' : slotForRecord rcd.model rcd.die rcd.frame home y = some x := hx
  rw [hx']
  dsimp only
  rw [if_neg (fun h => h hcrc), hscore]
  exact ⟨vectorOf rcd x period frameEnd y, rfl, rfl, rfl, rfl, rfl, rfl⟩

/-- A feature record of another image than the slot's is a mismatch (R227). -/
theorem takeVector_mismatch {rcd : FeatureRecord} {x : TreeSlot}
    (hx : slotForRecord rcd.model rcd.die rcd.frame (adoptedHere rcd.die s) s = some x) (hcrc : x.image.imageCrc ≠ rcd.imageCrc) :
    (takeVector rcd s).tree.mismatches = s.tree.mismatches + 1 ∧ (takeVector rcd s).tree.vecs = s.tree.vecs ∧
      (takeVector rcd s).tree.missing = s.tree.missing + bnat (wholeHere x) := by
  unfold takeVector
  extract_lets home period frameEnd y
  have hx' : slotForRecord rcd.model rcd.die rcd.frame home y = some x := hx
  rw [hx']
  dsimp only
  rw [if_pos hcrc, touches_raise.tree (by decide)]
  obtain ⟨hmissing, hvecs, hmismatches⟩ := failVector_facts (v := vectorOf rcd x period frameEnd y) (x := x)
    (flags := scMissing ||| scMismatch) (s := onTree (fun x => { x with mismatches := x.mismatches + 1 }) y) rfl
  exact ⟨hmismatches, hvecs, hmissing⟩

theorem slotForRecord_same {home : Bool} (htree : t.tree = s.tree) :
    slotForRecord model die frame home t = slotForRecord model die frame home s := by
  unfold slotForRecord
  rw [htree]

theorem adoptedHere_same (hroles : t.roles = s.roles) : adoptedHere die t = adoptedHere die s := by
  unfold adoptedHere
  rw [findRole_same hroles]

end Scores

/-- What `SCORE_COMPLETE` does to a vector whose slot stands. -/
theorem scoreComplete_runs {model die : Nat} {err : Bool} {v : Vec} {rest : List Vec} {x : TreeSlot} {s : State}
    (hp : s.rst.aonOk = true) (hup : engineUp 7 s = true) (hv : takeVec model die s.tree.vecs = some (v, rest))
    (hx : slotForVec v s = some x) :
    exec (.scoreComplete model die err) s = .next (if s.fuse.plaza = true
      then plazaScore v x err (onTree (fun t => { t with vecs := rest }) s)
      else leafScore v x err (onTree (fun t => { t with vecs := rest }) s)) := by
  show execScoreComplete model die err s = _
  unfold execScoreComplete
  have hx' : slotForVec v (onTree (fun t => { t with vecs := rest }) s) = some x := hx
  rw [run_when hp hup, hv]
  dsimp only
  rw [hx']
  rfl

/-- What a feature record does at a Plaza whose tree engine works. -/
theorem featureRecord_runs {rcd : FeatureRecord} {s : State} (hp : s.rst.aonOk = true) (hpl : s.fuse.plaza = true)
    (hup : engineUp 7 s = true) : ∃ u, Quiet [.arc] s u ∧ exec (.featureRecord rcd) s = .next (takeVector rcd u) := by
  have hq : Quiet [.arc] s (arcIngest 1 (mkEntry rcd.die (featureBytes rcd).length (.features rcd) s) s) := quiet_arcIngest
  refine ⟨_, hq, (run_when hp hpl).trans (congrArg _ (toEngine_up ?_))⟩
  exact (hq.engineUp (by decide)).trans hup

/-- Settles O9: what the lanes, a time-out and a feature record leave of the tree engine. -/
theorem treeScoresComplete : Obligations.TreeScoresComplete := by
  refine ⟨fun model die v rest x s hp hup hv hx hleaf hall hnew => ?leafWhole,
    fun model die v rest x p s hp hup hv hx hleaf hall hpar => ?leafPart,
    fun model die v rest x s hp hup hv hx hpl hhome hall hfirst hnew => ?plazaWhole,
    fun model die v rest x s hp hup hv hx hleaf => ?nodeError,
    fun model die frame k x s hp hvalid hx hset => ?timeout,
    fun rcd x s hp hpl hup hx hcrc hscore => ?taken, fun rcd x s hp hpl hup hx hcrc => ?mismatch, fun rcd s hp hpl hdown => ?absent⟩
  case leafWhole =>
    have hm := slotForVec_model hx
    have hrun := scoreComplete_runs (err := false) hp hup hv hx
    rw [hleaf, if_neg Bool.false_ne_true] at hrun
    unfold leafScore at hrun
    simp only [hall, Bool.false_eq_true, if_false, if_true] at hrun
    obtain ⟨hvecs, e, he, hframe, hval⟩ := completeScore_facts (k := none) (i := x.image) (die := v.die) (frame := v.frame)
      (frameEnd := v.frameEnd) (period := v.period) (delay := 0) (v := x.image.base + partialOf x.image 0 x.leafTrees v.values)
      (s := onTree (fun t => { t with vecs := rest }) s) (by rw [hm]; exact hnew)
    rw [hm] at he
    rw [hall] at hvecs he hval
    exact ⟨_, e, hrun, hvecs, he, hframe, hall ▸ hval⟩
  case leafPart =>
    have hrun := scoreComplete_runs (err := false) hp hup hv hx
    rw [hleaf, if_neg Bool.false_ne_true] at hrun
    unfold leafScore at hrun
    simp only [hall, Bool.false_eq_true, if_false] at hrun
    obtain ⟨f, hf, hfacts⟩ := leaves_forwardVector (v := v) (part := partialOf x.image 0 x.leafTrees v.values)
      (late := v.frameEnd + x.image.scoreEvery * v.period * 1000 < s.time.ft)
      (s := onTree (fun t => { t with vecs := rest }) s) hpar
    exact ⟨_, f, hrun, congrArg (·.vecs) forwardVector_tree, hf, hfacts⟩
  case plazaWhole =>
    have hm := slotForVec_model hx
    have hrun := scoreComplete_runs (err := false) hp hup hv hx
    rw [hpl, if_pos rfl] at hrun
    unfold plazaScore at hrun
    simp only [hhome, hall, hfirst, beq_self_eq_true, Bool.and_self, Bool.false_eq_true, if_false, if_true] at hrun
    obtain ⟨hvecs, e, he, hfacts⟩ := completeScore_facts (k := some .plaza) (i := x.image) (die := v.die) (frame := v.frame)
      (frameEnd := v.frameEnd) (period := v.period) (delay := tierDelay .plaza)
      (v := x.image.base + v.leafPartial + partialOf x.image x.first x.count v.values)
      (s := onTree (fun t => { t with vecs := rest }) s) (by rw [hm]; exact hnew)
    rw [hm] at he
    exact ⟨_, e, hrun, hvecs, he, hfacts⟩
  case nodeError =>
    have hm := slotForVec_model hx
    have hrun := scoreComplete_runs (err := true) hp hup hv hx
    rw [hleaf, if_neg Bool.false_ne_true] at hrun
    unfold leafScore at hrun
    simp only [if_true] at hrun
    obtain ⟨hreq, hvecs, hmissing, hscores⟩ := askImage_facts (a := reloadOf x) (s := onTree (fun t => { t with vecs := rest }) s)
    refine ⟨_, hrun, ?_⟩
    by_cases hall : x.leafTrees = x.image.dir.length
    · rw [if_pos hall]
      obtain ⟨-, hmiss, hv', -, hreq', hlatest⟩ := failScore_facts (k := none) (i := x.image) (die := v.die) (frame := v.frame)
        (frameEnd := v.frameEnd) (flags := scMissing) (s := askImage (reloadOf x) (onTree (fun t => { t with vecs := rest }) s))
      refine ⟨hv'.trans hvecs, by rw [hreq']; exact hreq, fun _ hnew => ⟨hmiss.trans ?_, ?_⟩, fun h => absurd hall h⟩
      · rw [hmissing]
        rfl
      · rw [hm] at hlatest
        obtain ⟨e, he, hframe, hflags, -⟩ := hlatest fun e he => hnew e ((latestScore_of_scores hscores).symm.trans he)
        exact ⟨e, he, hframe, hflags⟩
    · rw [if_neg hall]
      exact ⟨hvecs, hreq, fun h => absurd h hall, fun _ => ⟨hmissing, hscores⟩⟩
  case timeout =>
    have hm := completingHere_model hx
    have hrun : ∃ u n l, u.tree = { s.tree with lostRecords := n, came := l } ∧ execScoreMissingTimeout model die frame s
        = .next (failScore k x.image die frame (frameEnds frame (framePeriod frame s)) scMissing (dropScore model die frame u)) := by
      unfold execScoreMissingTimeout
      rw [run_when hp hvalid, hx]
      obtain ⟨u, n, l, hu, he⟩ := missed_unsettled (k := k) (i := x.image) (frameEnd := frameEnds frame (framePeriod frame s)) hset
        (touches_untilFt.tree (by decide))
      exact ⟨u, n, l, hu, congrArg _ he⟩
    obtain ⟨u, n, l, hu, hrun⟩ := hrun
    obtain ⟨hsettled, hmiss, hvecs, -, -, hlatest⟩ := failScore_facts (k := k) (i := x.image) (die := die) (frame := frame)
      (frameEnd := frameEnds frame (framePeriod frame s)) (flags := scMissing) (s := dropScore model die frame u)
    rw [hm] at hsettled hlatest
    refine ⟨_, hrun, hsettled, hmiss.trans ?_, hvecs.trans ?_, fun hnew => hlatest ?_⟩
    · show u.tree.missing + 1 = _
      rw [hu]
    · show u.tree.vecs.filter _ = _
      rw [hu]
    · have hscores : (dropScore model die frame u).tree.scores = s.tree.scores := by
        show u.tree.scores = _
        rw [hu]
      exact fun e he => hnew e ((latestScore_of_scores hscores).symm.trans he)
  case taken =>
    obtain ⟨u, hu, hrun⟩ := featureRecord_runs (rcd := rcd) hp hpl hup
    have htree : u.tree = s.tree := hu.tree (by decide)
    have hx' : slotForRecord rcd.model rcd.die rcd.frame (adoptedHere rcd.die u) u = some x := by
      rw [adoptedHere_same (hu.roles (by decide)), slotForRecord_same htree, hx]
    obtain ⟨v, hv, hfacts⟩ := takeVector_scored hx' hcrc hscore
    exact ⟨_, v, hrun, htree ▸ hv, hfacts⟩
  case mismatch =>
    obtain ⟨u, hu, hrun⟩ := featureRecord_runs (rcd := rcd) hp hpl hup
    have htree : u.tree = s.tree := hu.tree (by decide)
    have hx' : slotForRecord rcd.model rcd.die rcd.frame (adoptedHere rcd.die u) u = some x := by
      rw [adoptedHere_same (hu.roles (by decide)), slotForRecord_same htree, hx]
    have hfacts := takeVector_mismatch hx' hcrc
    rw [htree] at hfacts
    exact ⟨_, hrun, hfacts⟩
  case absent =>
    have hq : Quiet [.arc] s (arcIngest 1 (mkEntry rcd.die (featureBytes rcd).length (.features rcd) s) s) := quiet_arcIngest
    refine ⟨_, (run_when hp hpl).trans (congrArg _ (toEngine_down ((hq.engineUp (by decide)).trans hdown))), ?_, ?_⟩
    · exact (touches_absentAt.tree (by decide)).trans (hq.tree (by decide))
    · rw [absentAt_absent, hq.pwr (by decide)]

end Sys2Proof.Machine
end

section
/-!
Score records, image requests and ensemble ranges at the tiers.
-/

namespace Sys2Proof.Machine

section ScoreRecords

variable {s t : State} {e : ScoreEntry} {h : TreeSlot} {rcd : ScoreRecord} {role : RoleKind}

/-- What a score record of one entry does at a chip whose role and tree engine take it. -/
theorem scoreRecord_runs (hp : s.rst.aonOk = true) (hpl : s.fuse.plaza = true) (hup : engineUp 7 s = true)
    (hrole : (findRole role s).isSome = true) (he : rcd.scores = [e]) :
    ∃ u, Quiet [.arc] s u ∧ exec (.scoreRecord role rcd) s = .next (if e.scflags.getLsbD 5 = true
      then (if role = .quarter then takePartial e u else u) else takeScore role rcd e u) := by
  have hq : Quiet [.arc] s (arcIngest 1 { mkEntry rcd.source (scoreBytes rcd).length (.scores rcd) s with
    hosted := role != .plaza } s) := quiet_arcIngest
  refine ⟨_, hq, (run_when hp hpl).trans (congrArg _ ?_)⟩
  dsimp only
  rw [findRole_same (hq.roles (by decide)), hrole, he]
  exact toEngine_up ((hq.engineUp (by decide)).trans hup)

theorem noNewer_of_none {model die frame : Nat} (hn : latestScore model die s = none) : NoNewer model die frame s := fun e he => by
  rw [hn] at he
  cases he

/-- A completed entry that passes up is the latest of its model and die (R222). -/
theorem takeScore_latest (hrole : role ≠ .forum) (hn : latestScore e.model e.die s = none) :
    latestScore e.model e.die (takeScore role rcd e s) = some e := by
  have hkept : ∀ x : State, x.tree.scores = s.tree.scores →
      latestScore e.model e.die (sendScores (some role) [e] (keepScore e x)) = some e := fun x hx =>
    (latestScore_of_scores (sendScores_spares (·.scores) fun _ _ => rfl)).trans
      (latestScore_keepScore (noNewer_of_none ((latestScore_of_scores hx).trans hn)))
  cases role with
  | forum => exact absurd rfl hrole
  | quarter => exact hkept _ rfl
  | plaza => exact hkept _ rfl

/-- The replica whose entry stands at a Forum replica: the one adopted for the frame, or any while no other has come (R122). -/
theorem forumScore_latest {r : Role} (hr : findRole .forum s = some r) (hn : latestScore e.model e.die s = none)
    (hc : rcd.replica = (adoptedOf (sourceNum rcd.source % 256) e.sframe (framePeriod e.sframe s) r).getD 0 ∨
      (∀ x ∈ s.tree.rivals, x.2.model = e.model → x.2.die = e.die → x.2.sframe = e.sframe → x.1 = rcd.replica)) :
    latestScore e.model e.die (forumScore rcd e s) = some e := by
  unfold forumScore
  extract_lets q period chosen same other y z
  have hy : y.tree.scores = s.tree.scores := rfl
  have hz : z.tree.scores = s.tree.scores := by
    clear_value other
    cases other with
    | none => exact hy
    | some x => exact (congrArg (·.scores) ((touches_when touches_raise).tree (by decide))).trans hy
  have hstands : (decide (rcd.replica = chosen) || other.isNone) = true := by
    rw [Bool.or_eq_true, decide_eq_true_eq]
    rcases hc with hc | hc
    · refine .inl (hc.trans ?_)
      simp only [chosen, hr]
      rfl
    · refine .inr ?_
      rw [Option.isNone_iff_eq_none, List.find?_eq_none]
      intro x hx hm
      simp only [same, Bool.and_eq_true, beq_iff_eq, bne_iff_ne] at hm
      exact hm.1.2 (hc x hx hm.1.1.1 hm.1.1.2 hm.2)
  rw [if_pos hstands]
  exact latestScore_keepScore (noNewer_of_none ((latestScore_of_scores hz).trans hn))

/-- The parts of a score that a Quarter replica has gathered. -/
def gathered (e : ScoreEntry) (s : State) : List (Nat × Nat × Int) :=
  ((s.tree.parts.find? fun x => x.model == e.model && x.die == e.die && x.frame == e.sframe).map (·.parts)).getD []

/-- A partial of the image in force, whose score is not settled (R218, R222). -/
structure Partial (e : ScoreEntry) (h : TreeSlot) (s : State) : Prop where
  flags : e.scflags = scPartial
  header : (s.tree.headers.find? fun h => h.image.model == e.model && activeAt e.sframe h) = some h
  image : h.image.imageCrc = e.imageCrc
  unsettled : settled e.model e.die e.sframe s = false

theorem Partial.of_tree (hp : Partial e h s) (ht : t.tree = s.tree) : Partial e h t where
  flags := hp.flags
  header := by rw [ht]; exact hp.header
  image := hp.image
  unsettled := by unfold settled; rw [ht]; exact hp.unsettled

theorem partial_model (hp : Partial e h s) : h.image.model = e.model := by
  have hm := List.find?_some hp.header
  simp only [Bool.and_eq_true, beq_iff_eq] at hm
  exact hm.1

/-- The parts of a score with those of an entry, under its key. -/
theorem gathered_joined {old : Option ScoreParts} (h : old = s.tree.parts.find? fun x => x.model == e.model && x.die == e.die && x.frame == e.sframe)
    {d : ScoreParts} (hd : d.model = e.model ∧ d.die = e.die ∧ d.frame = e.sframe ∧ d.parts = []) :
    (old.getD d).model = e.model ∧ (old.getD d).die = e.die ∧ (old.getD d).frame = e.sframe ∧ (old.getD d).parts = gathered e s := by
  unfold gathered
  rw [← h]
  cases old with
  | none => exact hd
  | some x =>
    have hm := List.find?_some h.symm
    simp only [Bool.and_eq_true, beq_iff_eq] at hm
    exact ⟨hm.1.1, hm.1.2, hm.2, rfl⟩

/-- A partial joins the parts of its score, which wait while they do not cover every tree (R218). -/
theorem takePartial_waits (hp : Partial e h s)
    (hc : partsCover h.image.dir.length 0 (insertPart (e.firstTree, e.lastTree, e.value) (gathered e s)) = false) :
    ∃ p ∈ (takePartial e s).tree.parts, p.model = e.model ∧ p.die = e.die ∧ p.frame = e.sframe ∧
      p.parts = insertPart (e.firstTree, e.lastTree, e.value) (gathered e s) := by
  unfold takePartial
  rw [hp.header]
  dsimp -zeta only
  extract_lets period frameEnd x ended y old new w
  have hended : ended = false := hp.unsettled
  obtain ⟨hmodel, hdie, hframe, hparts⟩ := gathered_joined (e := e) (s := s) (old := x.tree.parts.find? _) rfl
    (d := { model := e.model, die := e.die, frame := e.sframe, imageCrc := e.imageCrc, parts := [] }) ⟨rfl, rfl, rfl, rfl⟩
  have hnew : new.parts = insertPart (e.firstTree, e.lastTree, e.value) (gathered e s) := congrArg (insertPart _) hparts
  rw [if_neg (fun hx => hx hp.image), hended, hp.flags, hnew, hc]
  exact ⟨new, List.mem_append_right _ (List.mem_singleton.mpr rfl), hmodel, hdie, hframe, hnew⟩

/-- A partial that covers the last of its trees completes the score, with their sum and the base (R218). -/
theorem takePartial_completes (hp : Partial e h s) (hn : NoNewer e.model e.die e.sframe s)
    (hc : partsCover h.image.dir.length 0 (insertPart (e.firstTree, e.lastTree, e.value) (gathered e s)) = true) :
    ∃ f, latestScore e.model e.die (takePartial e s) = some f ∧ f.sframe = e.sframe ∧
      f.value = (insertPart (e.firstTree, e.lastTree, e.value) (gathered e s)).foldl (fun a p => a + p.2.2) h.image.base := by
  unfold takePartial
  rw [hp.header]
  dsimp -zeta only
  extract_lets period frameEnd x ended y old new w
  have hended : ended = false := hp.unsettled
  obtain ⟨-, -, -, hparts⟩ := gathered_joined (e := e) (s := s) (old := x.tree.parts.find? _) rfl
    (d := { model := e.model, die := e.die, frame := e.sframe, imageCrc := e.imageCrc, parts := [] }) ⟨rfl, rfl, rfl, rfl⟩
  have hnew : new.parts = insertPart (e.firstTree, e.lastTree, e.value) (gathered e s) := congrArg (insertPart _) hparts
  rw [if_neg (fun hx => hx hp.image), hended, hp.flags, hnew, hc, ← partial_model hp]
  obtain ⟨-, f, hf, hfacts⟩ := completeScore_facts (k := some .quarter) (i := h.image) (die := e.die) (frame := e.sframe)
    (frameEnd := frameEnd) (period := period) (delay := tierDelay .quarter)
    (v := (insertPart (e.firstTree, e.lastTree, e.value) (gathered e s)).foldl (fun a p => a + p.2.2) h.image.base) (s := w)
    (by rw [partial_model hp]; exact hn)
  exact ⟨f, hf, hfacts⟩

/-! ## Ranges -/

/-- A slot but for the intervals at which it is scored. -/
def bare (x : TreeSlot) : TreeSlot := { x with intervals := [] }

/-- A change of the visit intervals leaves the slots otherwise, the headers and what is asked for (R209). -/
theorem restretch_facts {n : Nat} : (restretch n s).tree.slots.map bare = s.tree.slots.map bare ∧
    (restretch n s).tree.headers = s.tree.headers ∧ (restretch n s).tree.requested = s.tree.requested := by
  have hset : ∀ k, (setStretch k n s).tree.slots.map bare = s.tree.slots.map bare := fun k => by
    show (s.tree.slots.map _).map bare = _
    rw [List.map_map]
    rfl
  unfold restretch
  split
  · exact ⟨rfl, rfl, rfl⟩
  · extract_lets fits k k'
    split
    · split
      · exact ⟨hset 0, rfl, rfl⟩
      · exact ⟨rfl, rfl, rfl⟩
    · split
      · exact ⟨rfl, rfl, rfl⟩
      · rw [touches_raise.tree (by decide)]
        exact ⟨hset k', rfl, rfl⟩

/-- A slot still stands after a change of the visit intervals. -/
theorem mem_restretch {n : Nat} {x : TreeSlot} (hx : x ∈ s.tree.slots) : ∃ y ∈ (restretch n s).tree.slots, bare y = bare x := by
  obtain ⟨hslots, -⟩ := restretch_facts (s := s) (n := n)
  have hin : bare x ∈ (restretch n s).tree.slots.map bare := hslots ▸ List.mem_map_of_mem hx
  obtain ⟨y, hy, hb⟩ := List.mem_map.mp hin
  exact ⟨y, hy, hb⟩

/-- A range that a message brings. -/
structure RangeMsg where
  image : TreeImage
  first : Nat
  last : Nat
  tray : Nat
  home : Bool

/-- What a block asks for, and a range that comes answers. -/
def answers (m : RangeMsg) (a : ImageAsk) : Bool :=
  a.imageCrc == m.image.imageCrc && a.model == m.image.model && a.home == m.home && a.tray == m.tray

/-- The block with what it asked for answered. -/
def answered (m : RangeMsg) (s : State) : State :=
  onTree (fun t => { t with requested := t.requested.filter fun a => !answers m a }) s

/-- The tree engine with the slots `l`. -/
def holding (l : List TreeSlot) (s : State) : State := onTree (fun t => { t with slots := l }) s

/-- The last slot that the tree engine takes still stands after a change of the visit intervals. -/
theorem last_restretch {n : Nat} {l : List TreeSlot} {x : TreeSlot} :
    ∃ y ∈ (restretch n (holding (l ++ [x]) s)).tree.slots, bare y = bare x :=
  mem_restretch (s := holding (l ++ [x]) s) (List.mem_append_right l (List.mem_singleton.mpr rfl))

theorem not_asked {m : RangeMsg} {l : List ImageAsk} {a : ImageAsk} (ha : a ∈ l.filter fun a => !answers m a) :
    ¬ (a.model = m.image.model ∧ a.imageCrc = m.image.imageCrc ∧ a.home = m.home ∧ a.tray = m.tray) := by
  rintro ⟨hmodel, hcrc, hhome, htray⟩
  have hkept := (List.mem_filter.mp ha).2
  simp [answers, hmodel, hcrc, hhome, htray] at hkept

/-- What a range that this block holds already does: it may be served from now on (R231). -/
theorem ensembleRange_held {m : RangeMsg} {since : Option Nat} {x : TreeSlot} (hp : s.rst.aonOk = true) (hup : engineUp 7 s = true)
    (hok : imageOk m.image = true) (hle : m.first ≤ m.last) (hlt : m.last < m.image.dir.length)
    (hx : s.tree.slots.find? (holdsRange m.image m.first m.last m.tray m.home) = some x) :
    ∃ l, exec (.ensembleRange m.image m.first m.last m.tray m.home since) s = .next (
      if (x.activeFrom.isSome || since.isNone) = true then answered m s
      else restretch (nextFrame s)
        (holding (l ++ [{ x with activeFrom := since.map fun f => max f (nextFrame s) }]) (answered m s))) := by
  have hguard : (engineUp 7 s && imageOk m.image && m.first ≤ m.last && m.last < m.image.dir.length) = true := by
    simp [hup, hok, hle, hlt]
  refine ⟨endPrevious { x with activeFrom := since.map fun f => max f (nextFrame s) }
    (s.tree.slots.filter fun y => !holdsRange m.image m.first m.last m.tray m.home y), ?_⟩
  show execEnsembleRange m.image m.first m.last m.tray m.home since s = _
  unfold execEnsembleRange
  rw [run_when hp hguard]
  extract_lets same came u from_
  have hu : u.tree.slots.find? same = some x := hx
  rw [hu]
  dsimp only
  rw [show from_.isNone = since.isNone from Option.isNone_map]
  rfl

/-- What a range that this block does not hold does: it takes a slot, where there is room (R231). -/
theorem ensembleRange_new {m : RangeMsg} {since : Option Nat} (hp : s.rst.aonOk = true) (hup : engineUp 7 s = true)
    (hok : imageOk m.image = true) (hle : m.first ≤ m.last) (hlt : m.last < m.image.dir.length)
    (hnone : ∀ x ∈ s.tree.slots, holdsRange m.image m.first m.last m.tray m.home x = false)
    (hfits : slotFits (pendingSlot m.image m.first (m.last + 1 - m.first) (leafRange m.image) m.home m.tray s) s = true) :
    ∃ l, exec (.ensembleRange m.image m.first m.last m.tray m.home since) s = .next (
      restretch (nextFrame s) (holding
        (l ++ [{ pendingSlot m.image m.first (m.last + 1 - m.first) (leafRange m.image) m.home m.tray s with
          activeFrom := since.map fun f => max f (nextFrame s) }]) (answered m s))) := by
  have hguard : (engineUp 7 s && imageOk m.image && m.first ≤ m.last && m.last < m.image.dir.length) = true := by
    simp [hup, hok, hle, hlt]
  refine ⟨endPrevious { pendingSlot m.image m.first (m.last + 1 - m.first) (leafRange m.image) m.home m.tray s with
    activeFrom := since.map fun f => max f (nextFrame s) } s.tree.slots, ?_⟩
  show execEnsembleRange m.image m.first m.last m.tray m.home since s = _
  unfold execEnsembleRange
  rw [run_when hp hguard]
  extract_lets same came u from_
  have hu : u.tree.slots.find? same = none := by
    rw [List.find?_eq_none]
    exact fun x hx => Bool.not_eq_true _ ▸ hnone x hx
  rw [hu]
  exact congrArg _ (if_pos hfits)

end ScoreRecords

/-- Settles O10: what an entry, a request for an image and a range leave. -/
theorem scoreRecordsComplete : Obligations.ScoreRecordsComplete := by
  refine ⟨fun role rcd e s hp hpl hup hrole he hflag hn hk => ?passes, fun rcd e r s hp hpl hup hr he hflag hn hc => ?forum,
    fun rcd e h old s hp hpl hup hr he hflag hh hcrc hset hold hc => ?waits,
    fun rcd e h old s hp hpl hup hr he hflag hh hcrc hset hold hn hc => ?completes,
    fun ask q role i s hp hup hr hi => ?asked, fun i first last tray home since s hp hup hok hle hlt hnone hfits => ?comes,
    fun i first last tray home since x s hp hup hok hle hlt hx hknown => ?known,
    fun i first last tray home f x s hp hup hok hle hlt hx hpend => ?armed⟩
  case passes =>
    obtain ⟨u, hu, hrun⟩ := scoreRecord_runs (rcd := rcd) hp hpl hup hrole he
    rw [hflag, if_neg Bool.false_ne_true] at hrun
    have htree : u.tree = s.tree := hu.tree (by decide)
    exact ⟨_, hrun, takeScore_latest hk ((latestScore_of_scores (congrArg (·.scores) htree)).trans hn)⟩
  case forum =>
    obtain ⟨u, hu, hrun⟩ := scoreRecord_runs (rcd := rcd) hp hpl hup (Option.isSome_iff_exists.mpr ⟨r, hr⟩) he
    rw [hflag, if_neg Bool.false_ne_true] at hrun
    have htree : u.tree = s.tree := hu.tree (by decide)
    have hroles : u.roles = s.roles := hu.roles (by decide)
    have hperiod : framePeriod e.sframe u = framePeriod e.sframe s := by
      unfold framePeriod
      rw [hroles, hu.grid (by decide)]
    refine ⟨_, hrun, forumScore_latest ((findRole_same hroles).trans hr)
      ((latestScore_of_scores (congrArg (·.scores) htree)).trans hn) ?_⟩
    rw [hperiod, htree]
    exact hc
  case waits =>
    subst hold
    obtain ⟨u, hu, hrun⟩ := scoreRecord_runs (rcd := rcd) hp hpl hup hr he
    rw [hflag, if_pos (by decide), if_pos rfl] at hrun
    have htree : u.tree = s.tree := hu.tree (by decide)
    have hpart : Partial e h u := Partial.of_tree ⟨hflag, hh, hcrc, hset⟩ htree
    have hparts : gathered e u = gathered e s := by unfold gathered; rw [htree]
    obtain ⟨p, hin, hfacts⟩ := takePartial_waits hpart (by rw [hparts]; exact hc)
    rw [hparts] at hfacts
    exact ⟨_, p, hrun, hin, hfacts⟩
  case completes =>
    subst hold
    obtain ⟨u, hu, hrun⟩ := scoreRecord_runs (rcd := rcd) hp hpl hup hr he
    rw [hflag, if_pos (by decide), if_pos rfl] at hrun
    have htree : u.tree = s.tree := hu.tree (by decide)
    have hpart : Partial e h u := Partial.of_tree ⟨hflag, hh, hcrc, hset⟩ htree
    have hparts : gathered e u = gathered e s := by unfold gathered; rw [htree]
    have hnew : NoNewer e.model e.die e.sframe u := fun f hf =>
      hn f ((latestScore_of_scores (congrArg (·.scores) htree)).symm.trans hf)
    obtain ⟨f, hf, hfacts⟩ := takePartial_completes hpart hnew (by rw [hparts]; exact hc)
    rw [hparts] at hfacts
    exact ⟨_, f, hrun, hf, hfacts⟩
  case asked =>
    refine ⟨sendRange role.replica q i (askedRange ask q i s).1 (askedRange ask q i s).2 ask.tray ask.home s, ?_,
      ⟨_, List.mem_append_right _ (List.mem_singleton.mpr rfl), rfl⟩⟩
    show execImageRequest ask q s = _
    unfold execImageRequest
    rw [run_when hp hup, hr, hi]
  case comes =>
    obtain ⟨l, hrun⟩ := ensembleRange_new (m := ⟨i, first, last, tray, home⟩) (since := since) hp hup hok hle hlt hnone hfits
    obtain ⟨y, hy, hb⟩ := last_restretch (n := nextFrame s) (l := l) (s := answered ⟨i, first, last, tray, home⟩ s)
    refine ⟨_, y, hrun, hy, congrArg (·.image) hb, congrArg (·.first) hb, congrArg (·.count) hb, congrArg (·.home) hb,
      congrArg (·.tray) hb, congrArg (·.activeFrom) hb, fun a ha => ?_⟩
    rw [restretch_facts.2.2] at ha
    exact not_asked (m := ⟨i, first, last, tray, home⟩) ha
  case known =>
    obtain ⟨l, hrun⟩ := ensembleRange_held (m := ⟨i, first, last, tray, home⟩) (since := since) hp hup hok hle hlt hx
    have hguard : (x.activeFrom.isSome || since.isNone) = true := by
      rw [Bool.or_eq_true, Option.isNone_iff_eq_none]
      exact hknown
    rw [if_pos hguard] at hrun
    exact ⟨_, hrun, rfl, fun a ha => not_asked (m := ⟨i, first, last, tray, home⟩) ha⟩
  case armed =>
    obtain ⟨l, hrun⟩ := ensembleRange_held (m := ⟨i, first, last, tray, home⟩) (since := some f) hp hup hok hle hlt hx
    rw [hpend, if_neg (by simp)] at hrun
    obtain ⟨y, hy, hb⟩ := last_restretch (n := nextFrame s) (l := l) (s := answered ⟨i, first, last, tray, home⟩ s)
    exact ⟨_, y, hrun, hy, congrArg (·.image) hb, congrArg (·.first) hb, congrArg (·.count) hb, congrArg (·.activeFrom) hb⟩

end Sys2Proof.Machine
end

section
/-!
The commands of the tree engine (group 0x07).
-/

namespace Sys2Proof.Machine

section TreeCommands

variable {r : Req} {d : Desc} {i : TreeImage} {s t u : State} {x : TreeSlot} {model : Nat}

/-! ## A load -/

/-- A load in whose scope the block lies is the block's own. -/
theorem passesOn_inScope {c : Cmd} {form : Bool} (h : r.relay = true → selfInScope r.scope s = true) :
    passesOn c r form s = false := by
  unfold passesOn
  cases hr : r.relay with
  | false => rw [Bool.and_false, Bool.false_and, Bool.false_and, Bool.false_and]
  | true => rw [h hr, Bool.not_true, Bool.and_false, Bool.false_and]

theorem exec_treeLoad (h : r.relay = true → selfInScope r.scope s = true) :
    exec (.treeLoad r d i) s =
      run (serve { code := 0x0701, allow := { t := true }, relayable := true, attachment := attachedTo r d (imageFile i) s }
        r (inputRelayOk r d) (engineServed 7 (treeLoad r d i))) s := by
  show execTreeLoad r d i s = _
  unfold execTreeLoad run
  dsimp only
  rw [passesOn_inScope h]
  rfl

/-- The tiers of a chip keep the header, and nothing of the slots changes with it (R225). -/
theorem loadTiers_facts : (loadTiers i s).tree.slots = s.tree.slots ∧
    (s.fuse.plaza = true → pendingHeader i s ∈ (loadTiers i s).tree.headers) := by
  unfold loadTiers
  extract_lets y
  have htree : ∀ b : Bool, ∀ e : State → ArcEntry, (when b (fun s => arcIngest 4 (e s)
      (onTree (fun t => { t with kept := addOnce i.model t.kept }) s)) y).tree.slots = y.tree.slots ∧
      (when b (fun s => arcIngest 4 (e s) (onTree (fun t => { t with kept := addOnce i.model t.kept }) s)) y).tree.headers
        = y.tree.headers := fun b e => by
    cases b with
    | false => exact ⟨rfl, rfl⟩
    | true =>
      have hq := (quiet_arcIngest (log := 4) (x := e y)
        (s := onTree (fun t => { t with kept := addOnce i.model t.kept }) y)).tree (by decide)
      exact ⟨congrArg (·.slots) hq, congrArg (·.headers) hq⟩
  obtain ⟨hslots, hheaders⟩ := htree (findRole .forum y).isSome fun s =>
    { mkEntry forumSource (imageSize i) (.image i) s with hosted := true }
  refine ⟨hslots.trans ?_, fun hpl => ?_⟩
  · unfold y
    cases s.fuse.plaza <;> rfl
  · refine hheaders.symm ▸ ?_
    unfold y
    rw [hpl]
    exact List.mem_append_right _ (List.mem_singleton.mpr rfl)

theorem touches_reportRemainder : Touches [.upl] s (reportRemainder x s) := by
  unfold reportRemainder
  dsimp only
  split
  · exact touches_when (touches_forEach fun _ _ => touches_sendControl)
  · exact Touches.refl

/-- What a load leaves that makes a slot: the slot, and at a chip the header (R216, R217, R225). -/
theorem loadImage_slot (hx : loadSlot r i (dropPending i.model s) = some x) (hfits : slotFits x (dropPending i.model s) = true)
    (hquota : isTenant r.issuer = true → quotaFits (issuerPart r.issuer) x (dropPending i.model s) = true)
    (hcount : s.fuse.plaza = true → x.count ≠ 0) :
    ∃ t, loadImage r i s = (Config.ok, t) ∧ x ∈ t.tree.slots ∧ (s.fuse.plaza = true → pendingHeader i s ∈ t.tree.headers) := by
  unfold loadImage
  dsimp only
  rw [hx]
  dsimp only
  have htenant : (isTenant r.issuer && !quotaFits (issuerPart r.issuer) x (dropPending i.model s)) = false := by
    cases hi : isTenant r.issuer with
    | false => rfl
    | true => rw [hquota hi]; rfl
  have hempty : (s.fuse.plaza && x.count == 0) = false := by
    cases hp : s.fuse.plaza with
    | false => rfl
    | true => exact beq_eq_false_iff_ne.mpr (hcount hp)
  rw [hfits, htenant, show (dropPending i.model s).fuse = s.fuse from rfl, hempty]
  refine ⟨_, rfl, ?_⟩
  have hrem := touches_reportRemainder (x := x) (s := holding ((dropPending i.model s).tree.slots ++ [x]) (dropPending i.model s))
  obtain ⟨hslots, hheader⟩ := loadTiers_facts (i := i)
    (s := reportRemainder x (holding ((dropPending i.model s).tree.slots ++ [x]) (dropPending i.model s)))
  rw [hrem.tree (by decide)] at hslots
  have hsame : pendingHeader i (reportRemainder x (holding ((dropPending i.model s).tree.slots ++ [x]) (dropPending i.model s)))
      = pendingHeader i s := by
    unfold pendingHeader pendingSlot
    rw [hrem.tree (by decide), hrem.die (by decide)]
    rfl
  rw [hsame, hrem.fuse (by decide)] at hheader
  exact ⟨hslots.symm ▸ List.mem_append_right _ (List.mem_singleton.mpr rfl), hheader⟩

/-- What a load leaves that makes no slot at a chip: the header of its tiers (R225). -/
theorem loadImage_tiers (hpl : s.fuse.plaza = true) (hx : loadSlot r i (dropPending i.model s) = none) :
    ∃ t, loadImage r i s = (Config.ok, t) ∧ pendingHeader i s ∈ t.tree.headers := by
  unfold loadImage
  dsimp only
  rw [hx]
  obtain ⟨-, hheader⟩ := loadTiers_facts (i := i) (s := dropPending i.model s)
  exact ⟨_, rfl, hheader hpl⟩

/-- A load that passes its checks does what it leaves (R205, R225). -/
theorem treeLoad_ok (hd : descOk (issuerPart r.issuer) d s = true) (hok : imageOk i = true)
    (hpart : isTenant r.issuer = true → i.partition = issuerPart r.issuer) (hmine : ∀ f ∈ i.features, featureMine i.partition f s = true)
    (hl : loadImage r i s = (Config.ok, t)) :
    treeLoad r d i s = (t,
      { status := Config.accepted, work := some (.treeLoad i.model), after := complete (.treeLoad i.model) Config.ok [] }) := by
  have hin : inputOk r d s = true := by unfold inputOk; rw [hd, Bool.or_true]
  have hall : (i.features.all fun f => featureMine i.partition f s) = true := List.all_eq_true.mpr hmine
  unfold treeLoad
  rw [hin, hok, own_passes hpart, hall, hl]
  rfl

/-! ## An arm -/

theorem armHelpers_tree : (armHelpers model s).tree = s.tree := by
  unfold armHelpers
  split
  · rfl
  · refine (touches_forEach (l := [.upl]) fun p s => ?_).tree (by decide)
    unfold sendHelper
    split
    · exact Touches.refl
    · exact touches_sendControl

/-- An arm in whose scope the block lies is the block's own. -/
theorem exec_treeArm {frame : Nat} (h : r.relay = true → selfInScope r.scope s = true) :
    exec (.treeArm r model frame) s = run (serve { code := 0x0702, allow := { t := true }, relayable := true } r true
      (engineServed 7 (treeArm r model frame))) s := by
  show execTreeArm r model frame s = _
  unfold execTreeArm run
  dsimp only
  rw [passesOn_inScope h]
  rfl

theorem exec_treeUnload (h : r.relay = true → selfInScope r.scope s = true) :
    exec (.treeUnload r model) s = run (serve { code := 0x0703, allow := { t := true }, relayable := true } r true
      (engineServed 7 (treeUnload r model))) s := by
  show execTreeUnload r model s = _
  unfold execTreeUnload run
  dsimp only
  rw [passesOn_inScope h]
  rfl

end TreeCommands

/-- Settles O8: each command's own checks pass, and its own part is what the clause says. -/
theorem treeCommandsComplete : Obligations.TreeCommandsComplete := by
  refine ⟨fun r desc i x s h hup hin hd hok hpart hmine hx hfits hquota hcount => ?load,
    fun r desc i s h hup hin hd hok hpart hmine hpl hx => ?passed,
    fun r model frame i rest p s h hup himg hp hevery hlead => ?arm,
    fun r model frame i rest s h hup himg hp hkept hevery hlead => ?armKept, fun r model s h hup himg => ?unload,
    fun r p trees nodes s h hup hle => ?quota, fun r model x s h hup hx => ?status, fun r model die e s h hup he himg => ?score⟩
  case load =>
    rw [exec_treeLoad fun hr => (h.relayed hr).2.2]
    have h' : Taken { code := 0x0701, allow := { t := true }, relayable := true, attachment := attachedTo r desc (imageFile i) s } r s :=
      ⟨h.powered, h.serving, h.room, h.turn, h.fetched, h.header, h.session, h.present, h.permitted, h.reserved, h.relayed⟩
    refine finishesWith_of (w := .treeLoad i.model) h' hin (fun u => ?_) fun _ _ ht => ht
    obtain ⟨t, hl, hfacts⟩ := loadImage_slot (s := plumb s u) hx hfits hquota hcount
    rw [engineServed_up hup, treeLoad_ok (s := plumb s u) hd hok hpart hmine hl]
    exact ⟨rfl, hfacts⟩
  case passed =>
    rw [exec_treeLoad fun hr => (h.relayed hr).2.2]
    have h' : Taken { code := 0x0701, allow := { t := true }, relayable := true, attachment := attachedTo r desc (imageFile i) s } r s :=
      ⟨h.powered, h.serving, h.room, h.turn, h.fetched, h.header, h.session, h.present, h.permitted, h.reserved, h.relayed⟩
    refine finishesWith_of (w := .treeLoad i.model) h' hin (fun u => ?_) fun _ _ ht => ht
    obtain ⟨t, hl, hfacts⟩ := loadImage_tiers (s := plumb s u) hpl hx
    rw [engineServed_up hup, treeLoad_ok (s := plumb s u) hd hok hpart hmine hl]
    exact ⟨rfl, hfacts⟩
  case arm =>
    rw [exec_treeArm fun hr => (h.relayed hr).2.2]
    refine completesWith_of h rfl (fun u => ?_) fun _ _ ht => ht
    rw [engineServed_up hup]
    have himg' : imagesFor r.issuer model (plumb s u) = i :: rest := himg
    have hp' : (((plumb s u).tree.slots ++ (plumb s u).tree.headers).find? fun t => t.image.model == model && t.activeFrom.isNone) = some p := hp
    have hlead' : leadOk r.issuer (frame * frameNs (plumb s u)) 10000000 (plumb s u) = true := leadOk_of_le hlead
    unfold treeArm
    simp only [himg', hp', hlead', hevery, Option.map_some, Option.getD_some, Option.isNone_some, Bool.false_and, Bool.not_true,
      Bool.false_eq_true, if_false, ne_eq, not_true_eq_false]
    refine ⟨rfl, ?_⟩
    simp only [done, armHelpers_tree]
    obtain ⟨hslots, hheaders, -⟩ := restretch_facts (n := nextFrame (plumb s u)) (s := onTree (fun t => { t with
      slots := armSlots model frame t.slots, headers := armSlots model frame t.headers }) (plumb s u))
    refine ⟨?_, hheaders⟩
    have hnow := congrArg (List.map fun x : TreeSlot => (x.image, x.first, x.count, x.activeFrom, x.activeTo)) hslots
    rw [List.map_map, List.map_map] at hnow
    exact hnow
  case armKept =>
    rw [exec_treeArm fun hr => (h.relayed hr).2.2]
    refine completes_of h rfl fun u => ?_
    rw [engineServed_up hup]
    have himg' : imagesFor r.issuer model (plumb s u) = i :: rest := himg
    have hp' : (((plumb s u).tree.slots ++ (plumb s u).tree.headers).find? fun t => t.image.model == model && t.activeFrom.isNone) = none := hp
    have hlead' : leadOk r.issuer (frame * frameNs (plumb s u)) 10000000 (plumb s u) = true := leadOk_of_le hlead
    have hkept' : (plumb s u).tree.kept.contains model = true := List.contains_iff_mem.mpr hkept
    unfold treeArm
    simp only [himg', hp', hlead', hevery, hkept', Option.map_none, Option.getD_none, Option.isNone_none, Bool.not_true, Bool.and_false,
      Bool.false_eq_true, if_false, if_true, ne_eq, not_true_eq_false]
    exact ⟨rfl, rfl⟩
  case unload =>
    rw [exec_treeUnload fun hr => (h.relayed hr).2.2]
    refine completes_of h rfl fun u => ?_
    rw [engineServed_up hup]
    have himg' : (imagesFor r.issuer model (plumb s u)).isEmpty = false := List.isEmpty_eq_false_iff.mpr himg
    unfold treeUnload
    simp only [himg', Bool.false_eq_true, if_false]
    exact ⟨rfl, rfl⟩
  case quota =>
    refine completes_of h (by simp [hle]) fun u => ?_
    rw [engineServed_up hup]
    exact ⟨rfl, rfl⟩
  case status =>
    refine completes_of h rfl fun u => ?_
    rw [engineServed_up hup]
    have hx' : ((plumb s u).tree.slots ++ (plumb s u).tree.headers |>.filter fun t =>
        t.image.model == model && (!isTenant r.issuer || t.image.partition == issuerPart r.issuer)) =
        ((s.tree.slots ++ s.tree.headers).filter fun t =>
        t.image.model == model && (!isTenant r.issuer || t.image.partition == issuerPart r.issuer)) := rfl
    dsimp only
    rw [hx']
    generalize (s.tree.slots ++ s.tree.headers).filter _ = mine at hx
    cases hl : mine.find? fun t => t.activeFrom.isSome with
    | some y =>
      rw [hl] at hx
      cases hx
      exact ⟨rfl, rfl⟩
    | none =>
      rw [hl] at hx
      rw [show mine.head? = some x from hx]
      exact ⟨rfl, rfl⟩
  case score =>
    refine completes_of h rfl fun u => ?_
    rw [engineServed_up hup]
    have he' : latestScore model (if (plumb s u).fuse.plaza then die else (plumb s u).die) (plumb s u) = some e := he
    have hown : (isTenant r.issuer && (imagesFor r.issuer model (plumb s u)).isEmpty) = false := by
      cases hi : isTenant r.issuer with
      | false => rfl
      | true => exact List.isEmpty_eq_false_iff.mpr (himg hi)
    simp only [he', hown, Bool.false_eq_true, if_false]
    exact ⟨rfl, rfl⟩

end Sys2Proof.Machine
end

section
/-!
What the operations of a tier leave of its roles.
-/

namespace Sys2Proof.Machine

section Spares

variable {β : Type} {p : Role → β} {s t u : State} {k : RoleKind} {r : Role} {src : Nat}

/-! ## What a projection of a role reads -/

/-- The sources and epochs of a role's children. -/
def kin (r : Role) : List (Nat × Nat) := r.children.map fun c => (c.source, c.epoch)

/-- A frame but for what its census, its disputes and its acknowledgements are. -/
def frameFirm (t : TierFrame) : (Nat × Nat) × List ChildStatus × List CoverEntry × Bool × List HeldRecord :=
  (frameKey t, t.children, t.cover, t.closed, t.held)

/-- `p` reads of a role's children no more than their sources and epochs. -/
def SparesAcks (p : Role → β) : Prop :=
  ∀ r src g, (∀ c : Child, ((g c).source, (g c).epoch) = (c.source, c.epoch)) → p (withChild src g r) = p r

/-- `p` reads nothing of the reports and storm entries that a role merges. -/
def SparesReports (p : Role → β) : Prop :=
  ∀ r : Role, ∀ merge storms shared counted alerts closedTo inEpoch, p { r with
    merge := merge, storms := storms, sharedCodes := shared, counted := counted, alerts := alerts, closedTo := closedTo,
    stormsInEpoch := inEpoch } = p r

/-- `p` reads nothing of the census of a role's frames and of its transfers. -/
def SparesCensus (p : Role → β) : Prop :=
  ∀ (r : Role) (f : TierFrame → TierFrame) (transfers : List (Nat × Nat)), (∀ t, frameFirm (f t) = frameFirm t) →
    p { r with frames := r.frames.map f, transfers := transfers } = p r

/-- `p` reads nothing of a role's counts and adopted replicas. -/
def SparesCounts (p : Role → β) : Prop :=
  ∀ r : Role, ∀ duplicates late mismatches adopted, p { r with
    duplicates := duplicates, lateAfterFinal := late, mismatches := mismatches, adopted := adopted } = p r

/-- What messages, reports and the census leave of a role. -/
def firm (r : Role) : List ((Nat × Nat) × List ChildStatus × List CoverEntry × Bool × List HeldRecord) × List (Nat × Nat)
    × List SentRecord × Nat × Option Nat :=
  (r.frames.map frameFirm, kin r, r.sent, r.finalTo, r.lastFinal)

/-- What a role's frames are, but for their census. -/
def framesFirm (r : Role) : List ((Nat × Nat) × List ChildStatus × List CoverEntry × Bool × List HeldRecord) :=
  r.frames.map frameFirm

/-- The names of a role's frames and children. -/
def named (r : Role) : List (Nat × Nat) × List (Nat × Nat) := (r.frames.map frameKey, kin r)

theorem kin_withChild {g : Child → Child} (hg : ∀ c : Child, ((g c).source, (g c).epoch) = (c.source, c.epoch)) :
    kin (withChild src g r) = kin r := by
  unfold kin withChild
  rw [List.map_map]
  refine List.map_congr_left fun c _ => ?_
  dsimp only [Function.comp]
  split
  · exact hg c
  · rfl

theorem map_keeps {γ : Type} {f : TierFrame → γ} {g : TierFrame → TierFrame} {l : List TierFrame} (h : ∀ t, f (g t) = f t) :
    (l.map g).map f = l.map f := by
  rw [List.map_map]
  exact List.map_congr_left fun t _ => h t

theorem frameKey_of_firm {f : TierFrame → TierFrame} (h : ∀ t, frameFirm (f t) = frameFirm t) (t : TierFrame) :
    frameKey (f t) = frameKey t := congrArg (·.1) (h t)

/-! ### The projections in use -/

theorem firm_sparesAcks : SparesAcks firm := fun r src g hg => by
  unfold firm
  rw [kin_withChild hg]
  rfl

theorem firm_sparesReports : SparesReports firm := fun _ _ _ _ _ _ _ _ => rfl

theorem firm_sparesCensus : SparesCensus firm := fun r f _ hf => by
  unfold firm
  rw [show List.map frameFirm _ = r.frames.map frameFirm from map_keeps hf]
  rfl

theorem framesFirm_sparesAcks : SparesAcks framesFirm := fun _ _ _ _ => rfl
theorem framesFirm_sparesReports : SparesReports framesFirm := fun _ _ _ _ _ _ _ _ => rfl
theorem framesFirm_sparesCensus : SparesCensus framesFirm := fun _ _ _ hf => map_keeps hf
theorem framesFirm_sparesSent : SparesSent framesFirm := fun _ _ _ _ => rfl
theorem framesFirm_sparesCounts : SparesCounts framesFirm := fun _ _ _ _ _ => rfl

theorem named_sparesAcks : SparesAcks named := fun r src g hg => by
  unfold named
  rw [kin_withChild hg]
  rfl

theorem named_sparesReports : SparesReports named := fun _ _ _ _ _ _ _ _ => rfl
theorem named_sparesSent : SparesSent named := fun _ _ _ _ => rfl
theorem named_sparesCounts : SparesCounts named := fun _ _ _ _ _ => rfl

theorem named_sparesFrames : SparesFrames named := fun r f hf => by
  unfold named
  rw [show List.map frameKey _ = r.frames.map frameKey from map_keeps hf]
  rfl

theorem named_sparesCensus : SparesCensus named := fun r f _ hf => by
  unfold named
  rw [show List.map frameKey _ = r.frames.map frameKey from map_keeps (frameKey_of_firm hf)]
  rfl

theorem Alike.map {γ : Type} (f : β → γ) (h : Alike p s t) : Alike (fun r => f (p r)) s t := by
  have hm := congrArg (List.map fun e : RoleKind × β => (e.1, f e.2)) h
  rw [List.map_map, List.map_map] at hm
  exact hm

/-! ## Requests and acknowledgements -/

theorem alike_onChild {g : Child → Child} (hp : SparesAcks p) (hg : ∀ c : Child, ((g c).source, (g c).epoch) = (c.source, c.epoch)) :
    Alike p s (onChild k src g s) :=
  alike_modRole fun r => ⟨rfl, hp r src g hg⟩

theorem alike_request {q : AckReq} (hp : SparesAcks p) : Alike p s (request k src q s) := alike_onChild hp fun _ => rfl

theorem alike_sendAck (hp : SparesAcks p) : Alike p s (sendAck k src s) := by
  unfold sendAck
  split
  · exact Alike.refl
  · split
    · exact Alike.refl
    · refine Alike.trans (alike_onChild (k := k) (src := src) (g := fun c => { c with reqs := c.reqs.drop 240 }) hp fun _ => rfl) ?_
      exact Alike.of_roles (touches_sendControl.roles (by decide))

theorem alike_ackRecord (hp : SparesAcks p) : Alike p s (ackRecord k src s) := by
  unfold ackRecord
  split
  · exact Alike.refl
  · split
    · exact Alike.refl
    · refine Alike.trans ?_ (alike_sendAck hp)
      exact alike_onChild hp fun _ => rfl

theorem alike_updateAcks (hp : SparesAcks p) : Alike p s (updateAcks k s) := by
  unfold updateAcks
  split
  · exact Alike.refl
  · refine alike_forEach fun c x => ?_
    unfold updateAck
    split
    · exact Alike.refl
    · split
      · exact Alike.refl
      · dsimp only
        split
        · exact Alike.refl
        · refine Alike.trans ?_ (alike_sendAck hp)
          exact alike_onChild hp fun _ => rfl

theorem alike_requestGap {x : Record} {n : Nat} {c : Child} (hp : SparesAcks p) : Alike p s (requestGap k x n c s) := by
  unfold requestGap
  split
  · exact Alike.refl
  · exact alike_forEach fun _ _ => alike_request hp

/-! ## Reports -/

theorem alike_roleAlert {a : AlertEntry} (hp : SparesReports p) : Alike p s (roleAlert k a s) := by
  have h : Alike p s (modRole k (fun r => { r with alerts := r.alerts ++ [a] }) s) :=
    alike_modRole fun r => ⟨rfl, hp r r.merge r.storms r.sharedCodes r.counted _ r.closedTo r.stormsInEpoch⟩
  unfold roleAlert
  dsimp only
  split
  · exact h.trans (Alike.of_roles (touches_notify.roles (by decide)))
  · exact h
  · exact h.trans (Alike.of_roles (touches_bypQueue.roles (by decide)))

theorem alike_stormAdd {e : StormEntry} (hp : SparesReports p) : Alike p s (stormAdd k e s) := by
  unfold stormAdd
  split
  · exact Alike.refl
  · exact alike_modRole fun r => ⟨rfl, hp r r.merge _ _ r.counted r.alerts r.closedTo _⟩

theorem alike_takeReport {x : Report} (hp : SparesReports p) : Alike p s (takeReport k x s) := by
  have hmerge : ∀ (m : Role → List MergeEntry) (y : State), Alike p y (modRole k (fun r => { r with merge := m r }) y) := fun m y =>
    alike_modRole fun r => ⟨rfl, hp r _ r.storms r.sharedCodes r.counted r.alerts r.closedTo r.stormsInEpoch⟩
  unfold takeReport
  split
  · exact Alike.refl
  · split
    · exact Alike.refl
    · have hcount : Alike p s (modRole k (fun r => { r with counted := .report x :: r.counted }) s) :=
        alike_modRole fun r => ⟨rfl, hp r r.merge r.storms r.sharedCodes _ r.alerts r.closedTo r.stormsInEpoch⟩
      refine hcount.trans ?_
      dsimp only
      split
      · unfold mergeOpen
        dsimp only
        split
        · exact Alike.refl
        · exact (hmerge _ _).trans (alike_roleAlert hp)
      · unfold mergeCounted
        dsimp only
        split
        · exact alike_roleAlert hp
        · split
          · exact hmerge _ _
          · split
            · exact (hmerge _ _).trans (alike_roleAlert hp)
            · exact alike_stormAdd hp

theorem alike_takeStorm {e : StormEntry} (hp : SparesReports p) : Alike p s (takeStorm k e s) := by
  unfold takeStorm
  split
  · exact Alike.refl
  · split
    · exact Alike.refl
    · have hcount : Alike p s (modRole k (fun r => { r with counted := .storm e :: r.counted }) s) :=
        alike_modRole fun r => ⟨rfl, hp r r.merge r.storms r.sharedCodes _ r.alerts r.closedTo r.stormsInEpoch⟩
      refine hcount.trans ?_
      dsimp only
      split
      · exact alike_roleAlert hp
      · exact alike_stormAdd hp

theorem alike_takeRecordAlerts {l : List AlertEntry} (hp : SparesReports p) : Alike p s (takeRecordAlerts k l s) := by
  refine alike_forEach fun a x => ?_
  split
  · exact alike_takeReport hp
  · exact alike_takeStorm hp

theorem alike_closeWindow {n : Nat} (hp : SparesReports p) : Alike p s (closeWindow k n s) := by
  unfold closeWindow
  split
  · exact Alike.refl
  · split
    · exact Alike.refl
    · dsimp only
      refine Alike.trans (Alike.trans ?_ (alike_forEach fun _ _ => alike_roleAlert hp)) (alike_forEach fun _ _ => alike_roleAlert hp)
      exact alike_modRole fun r => ⟨rfl, hp r _ _ _ r.counted r.alerts n r.stormsInEpoch⟩

/-! ## The census -/

theorem alike_censusFrames {n period : Nat} {h : TierFrame → TierFrame} (hp : SparesCensus p)
    (hh : ∀ t, frameFirm (h t) = frameFirm t) : Alike p s (onFrame k n period h s) :=
  alike_modRole fun r => ⟨rfl, hp r _ r.transfers fun t => by
    split
    · exact hh t
    · rfl⟩

theorem alike_transfers {f : Role → List (Nat × Nat)} (hp : SparesCensus p) :
    Alike p s (modRole k (fun r => { r with transfers := f r }) s) :=
  alike_modRole fun r => ⟨rfl, by
    have h := hp r id (f r) fun _ => rfl
    rw [List.map_id] at h
    exact h⟩

theorem alike_sendTransfer {die n : Nat} (hp : SparesCensus p) : Alike p s (sendTransfer die n s) := by
  unfold sendTransfer
  dsimp only
  split
  · exact Alike.refl
  · split
    · exact Alike.refl
    · refine Alike.trans ?_ (Alike.of_roles (touches_sendControl.roles (by decide)))
      exact Alike.trans (Alike.of_roles rfl) (alike_transfers hp)

theorem alike_takeCensus {x : Record} (hp : SparesCensus p) : Alike p s (takeCensus x s) := by
  unfold takeCensus
  dsimp only
  refine Alike.trans (Alike.trans ?_ (alike_transfers hp)) (alike_forEach fun _ _ => alike_sendTransfer hp)
  exact alike_censusFrames hp fun _ => rfl

theorem alike_takeLeaves {x : Record} (hp : SparesCensus p) : Alike p s (takeLeaves x s) := alike_censusFrames hp fun _ => rfl

end Spares

end Sys2Proof.Machine
end

section
/-!
Records that reach a role: what stands of its frames and children, and that what is merged stays merged.
-/

namespace Sys2Proof.Machine

section Records

variable {β : Type} {p : Role → β} {s t u : State} {k : RoleKind} {r q : Role} {src n period : Nat} {h : HeldRecord} {c : Child}
  {x : Record} {f : TierFrame → TierFrame} {g : TierFrame}

/-! ## A frame that is changed -/

/-- A role with one of its frames changed. -/
def withFrame (n period : Nat) (f : TierFrame → TierFrame) (r : Role) : Role :=
  { r with frames := r.frames.map fun t => if isFrame n period t then f t else t }

theorem findRole_onFrame (hr : findRole k s = some r) : findRole k (onFrame k n period f s) = some (withFrame n period f r) :=
  findRole_modRole_some (fun _ => rfl) hr

theorem isFrame_of_key {a b : TierFrame} (hk : frameKey a = frameKey b) : isFrame n period a = isFrame n period b := by
  unfold isFrame
  rw [show a.frame = b.frame from congrArg (·.1) hk, show a.period = b.period from congrArg (·.2) hk]

theorem frameOf_key (hg : frameOf n period r = some g) : frameKey g = (n, period) := by
  have hm : isFrame n period g = true := List.find?_some hg
  unfold isFrame at hm
  rw [Bool.and_eq_true, beq_iff_eq, beq_iff_eq] at hm
  exact Prod.ext hm.1 hm.2

theorem isFrame_iff {t : TierFrame} : isFrame n period t = true ↔ frameKey t = (n, period) := by
  unfold isFrame frameKey
  rw [Bool.and_eq_true, beq_iff_eq, beq_iff_eq, Prod.mk.injEq]

/-- The frame that is changed is found with its change. -/
theorem frameOf_withFrame (hf : ∀ t, isFrame n period t = true → isFrame n period (f t) = true) :
    frameOf n period (withFrame n period f r) = (frameOf n period r).map f := by
  unfold frameOf withFrame
  dsimp only
  induction r.frames with
  | nil => rfl
  | cons t l ih =>
    rw [List.map_cons, List.find?_cons, List.find?_cons]
    cases ht : isFrame n period t with
    | true =>
      rw [if_pos rfl, hf t ht]
      rfl
    | false =>
      rw [if_neg Bool.false_ne_true, ht]
      exact ih

theorem keepsFrame (hf : ∀ t, frameKey (f t) = frameKey t) (t : TierFrame) (ht : isFrame n period t = true) :
    isFrame n period (f t) = true := (isFrame_of_key (hf t)).trans ht

/-- A frame is found by its number and period. -/
theorem frameOf_of_map {γ : Type} {v : TierFrame → (Nat × Nat) × γ} (hv : ∀ t, (v t).1 = frameKey t)
    (hm : q.frames.map v = r.frames.map v) : (frameOf n period q).map v = (frameOf n period r).map v := by
  have hx : ∀ y : Role, (frameOf n period y).map v = (y.frames.map v).find? fun e => e.1 == (n, period) := fun y => by
    unfold frameOf
    rw [List.find?_map]
    refine congrArg (Option.map v) (congrArg (fun b => List.find? b y.frames) ?_)
    funext t
    rw [Function.comp_apply, hv t, Bool.eq_iff_iff, beq_iff_eq, isFrame_iff]
  rw [hx, hx, hm]

theorem Alike.frame (ha : Alike framesFirm s t) (hr : findRole k s = some r) (hg : frameOf n period r = some g) :
    ∃ q g', findRole k t = some q ∧ frameOf n period q = some g' ∧ frameFirm g' = frameFirm g := by
  obtain ⟨q, hq, hm⟩ := ha.found hr
  have hf := frameOf_of_map (n := n) (period := period) (v := frameFirm) (fun _ => rfl) hm
  rw [hg] at hf
  obtain ⟨g', hg', he⟩ := Option.map_eq_some_iff.mp hf
  exact ⟨q, g', hq, hg', he⟩

theorem Alike.named_frame (ha : Alike named s t) (hr : findRole k s = some r) (hg : (frameOf n period r).isSome = true) :
    ∃ q, findRole k t = some q ∧ (frameOf n period q).isSome = true := by
  obtain ⟨q, hq, hm⟩ := ha.found hr
  have hk : q.frames.map frameKey = r.frames.map frameKey := congrArg (·.1) hm
  have hv : q.frames.map (fun t => (frameKey t, ())) = r.frames.map fun t => (frameKey t, ()) := by
    have := congrArg (List.map fun e : Nat × Nat => (e, ())) hk
    rwa [List.map_map, List.map_map] at this
  have hf := congrArg Option.isSome (frameOf_of_map (n := n) (period := period) (fun _ => rfl) hv)
  rw [Option.isSome_map, Option.isSome_map] at hf
  exact ⟨q, hq, hf.trans hg⟩

/-! ## The parts of a record's way -/

theorem keepGauges_kin : ((keepGauges x c).source, (keepGauges x c).epoch) = (c.source, c.epoch) := by
  unfold keepGauges
  dsimp only
  split
  · rfl
  · split
    · rfl
    · split <;> rfl

theorem noteSeq_kin : ((noteSeq n c).source, (noteSeq n c).epoch) = (c.source, c.epoch) := by
  unfold noteSeq
  split <;> rfl

theorem putBinds_frames {y : Folded} (hp : SparesCensus p) : p (putBinds x src y r) = p r := by
  unfold putBinds
  dsimp only
  split
  · exact hp r _ r.transfers fun t => by
      split
      · rfl
      · split
        · split <;> rfl
        · rfl
  · rfl

theorem alike_putBinds {y : Folded} (hp : SparesCensus p) : Alike p s (modRole k (putBinds x src y) s) :=
  alike_modRole fun r => ⟨by unfold putBinds; dsimp only; split <;> rfl, putBinds_frames hp⟩

theorem roles_keepRecord {late mismatch : Bool} : (keepRecord x late mismatch k s).roles = s.roles :=
  quiet_arcIngest.roles (l := [.arc]) (by decide)

theorem alike_counts {d l m : Role → Nat} {a : Role → List (Nat × Nat × Nat × Nat)} (hp : SparesCounts p) :
    Alike p s (modRole k (fun r => { r with duplicates := d r, lateAfterFinal := l r, mismatches := m r, adopted := a r }) s) :=
  alike_modRole fun r => ⟨rfl, hp r _ _ _ _⟩

theorem alike_lateRecord (hp : SparesCounts p) : Alike p s (lateRecord k x s) := by
  unfold lateRecord
  exact (alike_counts (d := (·.duplicates)) (m := (·.mismatches)) (a := (·.adopted)) hp).trans (Alike.of_roles roles_keepRecord)

theorem alike_adopt {m rep : Nat} (hp : SparesCounts p) : Alike p s (adopt m n period rep s) :=
  alike_counts (d := (·.duplicates)) (l := (·.lateAfterFinal)) (m := (·.mismatches)) hp

theorem alike_unhold (hp : SparesFrames p) : Alike p s (unhold k x s) := alike_onFrame hp fun _ => rfl

/-- A frame as a record is merged in it: what waited of the record has come, and its gaps and its finality are noted. -/
def takesHeld (h : HeldRecord) (src : Nat) (t : TierFrame) : TierFrame :=
  { t with held := t.held.filter (fun y => childKey y.record != src || y.record.seq != h.record.seq),
           voidSeqs := if h.missing.isEmpty then t.voidSeqs else t.voidSeqs ++ [(src, h.record.seq)],
           finals := if h.record.kind = 3 then addOnce src t.finals else t.finals }

/-- What follows once a record's contents are merged: the child is updated, its alerts and census taken, and it has its
acknowledgement. -/
def afterMerge (k : RoleKind) (h : HeldRecord) (src : Nat) (s : State) : State :=
  let upd (c : Child) : Child :=
    { keepGauges h.record c with bindings := learnBinds h.record c.bindings, generation := h.record.generation }
  let s := takeRecordAlerts k h.record.alerts (onChild k src upd s)
  let s := when (k == .forum) (takeLeaves h.record) (when (k == .quarter) (takeCensus h.record) s)
  if k = .plaza then s else ackRecord k src s

theorem mergeHeld_eq (hr : findRole k s = some r) : mergeHeld k h c s = afterMerge k h c.source
    (contribute k h.record.frame h.record.period (addedHeld h (foldRecord h.record c r).sums c.gauges)
      [statusEntry { c with generation := h.record.generation } (if h.missing.isEmpty then 0 else 4) h.missing.length]
      (onFrame k h.record.frame h.record.period (takesHeld h c.source)
        (modRole k (putBinds h.record c.source (foldRecord h.record c r)) s))) := by
  unfold mergeHeld
  rw [hr]
  rfl

theorem mergeHeld_none (hr : findRole k s = none) : mergeHeld k h c s = s := by
  unfold mergeHeld
  rw [hr]

theorem alike_afterMerge (ha : SparesAcks p) (hr : SparesReports p) (hc : SparesCensus p) : Alike p s (afterMerge k h src s) := by
  unfold afterMerge
  extract_lets upd y z
  have hy : Alike p s y := by
    refine Alike.trans ?_ (alike_takeRecordAlerts hr)
    exact alike_onChild ha fun c => keepGauges_kin
  have hz : Alike p s z := (hy.trans (alike_when (alike_takeCensus hc))).trans (alike_when (alike_takeLeaves hc))
  split
  · exact hz
  · exact hz.trans (alike_ackRecord ha)

theorem alike_mergeHeld : Alike named s (mergeHeld k h c s) := by
  cases hr : findRole k s with
  | none =>
    rw [mergeHeld_none hr]
    exact Alike.refl
  | some r =>
    rw [mergeHeld_eq hr]
    refine Alike.trans ?_ (alike_afterMerge named_sparesAcks named_sparesReports named_sparesCensus)
    refine Alike.trans ?_ (alike_contribute named_sparesFrames named_sparesSent)
    refine Alike.trans ?_ (alike_onFrame (h := takesHeld h c.source) named_sparesFrames fun _ => rfl)
    exact alike_putBinds named_sparesCensus

theorem alike_judgeCover {b : Bool} : Alike named s (judgeCover k h b c s) := by
  have hdup : ∀ y : State, Alike named y (ackRecord k c.source (modRole k (fun r => { r with duplicates := r.duplicates + 1 }) y)) :=
    fun y => (alike_counts (l := (·.lateAfterFinal)) (m := (·.mismatches)) (a := (·.adopted)) named_sparesCounts).trans
      (alike_ackRecord named_sparesAcks)
  unfold judgeCover
  dsimp only
  split
  · exact Alike.refl
  · split
    · split
      · exact hdup _
      · exact alike_mergeHeld
    · split
      · refine Alike.trans ?_ (hdup _)
        split
        · exact Alike.refl
        · exact alike_onFrame named_sparesFrames fun _ => rfl
      · split
        · exact (alike_request named_sparesAcks).trans (alike_sendAck named_sparesAcks)
        · exact alike_mergeHeld

theorem alike_noteDispute : Alike named s (noteDispute x s) := by
  unfold noteDispute
  split
  · exact Alike.refl
  · dsimp only
    have hd : Alike named s (onFrame .forum x.frame x.period (fun t => { t with dispute := true }) s) :=
      alike_onFrame named_sparesFrames fun _ => rfl
    split
    · exact hd.trans (Alike.of_roles (touches_countOwn.roles (by decide)))
    · refine Alike.trans (hd.trans (Alike.of_roles ?_)) (alike_roleAlert named_sparesReports)
      exact touches_bypQueue.roles (by decide)

theorem alike_forumRecord {b : Bool} : Alike named s (forumRecord h b c s) := by
  unfold forumRecord
  extract_lets rec_ q
  split
  · split
    · exact (alike_counts (l := (·.lateAfterFinal)) (m := (·.mismatches)) (a := (·.adopted)) named_sparesCounts).trans
        (alike_ackRecord named_sparesAcks)
    · extract_lets y z
      have hz : Alike named s z := by
        have hy : Alike named s y := alike_when alike_noteDispute
        have hu : Alike named s (unhold .forum rec_ y) := hy.trans (alike_unhold named_sparesFrames)
        exact hu.trans (alike_onFrame named_sparesFrames fun _ => rfl)
      split
      · exact hz.trans (alike_onFrame named_sparesFrames fun _ => rfl)
      · split
        · split
          · exact hz.trans alike_judgeCover
          · exact hz.trans (alike_ackRecord named_sparesAcks)
        · exact hz.trans ((alike_adopt named_sparesCounts).trans alike_judgeCover)
  · exact Alike.refl

theorem alike_holdRecord : Alike named s (holdRecord k h c s) := by
  unfold holdRecord
  dsimp only
  refine Alike.trans (Alike.trans ?_ (alike_forEach fun _ _ => alike_request named_sparesAcks)) (alike_sendAck named_sparesAcks)
  refine (alike_unhold named_sparesFrames).trans (alike_onFrame named_sparesFrames fun t => ?_)
  split <;> rfl

/-! ## Children -/

theorem Alike.kin (ha : Alike named s t) : Alike Machine.kin s t := ha.map (·.2)

theorem alike_addFrame {b : TierFrame} : Alike Machine.kin s (modRole k (fun r => { r with frames := addFrame b r.frames }) s) :=
  alike_modRole fun _ => ⟨rfl, rfl⟩

theorem alike_mismatchRecord : Alike Machine.kin s (mismatchRecord k x c s) := by
  unfold mismatchRecord
  extract_lets at_ y
  have hy : Alike Machine.kin s y := (Alike.of_roles roles_keepRecord).trans (alike_modRole fun _ => ⟨rfl, rfl⟩)
  split
  · exact hy
  · refine hy.trans (Alike.trans ?_ (alike_contribute named_sparesFrames named_sparesSent).kin)
    exact alike_addFrame

/-- A record leaves a role's children under their sources and epochs. -/
theorem alike_takeRecord : Alike Machine.kin s (takeRecord k h r c s) := by
  unfold takeRecord
  extract_lets rec_ opens frame waits again a b d e
  have ha : Alike Machine.kin s a := (alike_onChild named_sparesAcks fun _ => noteSeq_kin).kin
  have hb : Alike Machine.kin s b := ha.trans (alike_when (alike_requestGap named_sparesAcks)).kin
  split
  · exact hb.trans (alike_lateRecord named_sparesCounts).kin
  · split
    · exact hb.trans alike_mismatchRecord
    · split
      · exact hb.trans (alike_lateRecord named_sparesCounts).kin
      · have he : Alike Machine.kin s e := (hb.trans (Alike.of_roles roles_keepRecord)).trans alike_addFrame
        split
        · exact he.trans alike_holdRecord.kin
        · split
          · exact he.trans alike_forumRecord.kin
          · exact he.trans ((alike_unhold named_sparesFrames).trans alike_judgeCover).kin

theorem childOf_epoch (hk : kin q = kin r) : (childOf src q).map (·.epoch) = (childOf src r).map (·.epoch) := by
  have hx : ∀ y : Role, (childOf src y).map (·.epoch) = ((kin y).find? fun e => e.1 == src).map (·.2) := fun y => by
    unfold childOf kin
    rw [List.find?_map, Option.map_map]
    rfl
  rw [hx, hx, hk]

end Records

end Sys2Proof.Machine
end

section
/-!
A record that a role receives: it is merged, counted as late, or ends its child's epoch.
-/

namespace Sys2Proof.Machine

section Received

variable {s t u : State} {k : RoleKind} {r q : Role} {src n period : Nat} {h : HeldRecord} {c : Child} {x : Record} {g : TierFrame}

/-! ## A frame that is added -/

theorem find_addFrame {l : List TierFrame} (hg : l.find? (isFrame n period) = some g) :
    (addFrame (TierFrame.blank n period) l).find? (isFrame n period) = some g
      ∨ (addFrame (TierFrame.blank n period) l).find? (isFrame n period) = some (TierFrame.blank n period) := by
  have hblank : isFrame n period (TierFrame.blank n period) = true := isFrame_iff.mpr rfl
  induction l with
  | nil => cases hg
  | cons y l ih =>
    unfold addFrame
    split
    · exact .inl hg
    · next hne =>
      split
      · exact .inr (List.find?_cons_of_pos hblank)
      · have hkey : ∀ hy : isFrame n period y = true, y.frame = n ∧ y.period = period := fun hy =>
          ⟨congrArg (·.1) (isFrame_iff.mp hy), congrArg (·.2) (isFrame_iff.mp hy)⟩
        have hy : ¬ isFrame n period y = true := fun hy => hne (hkey hy)
        rw [List.find?_cons_of_neg hy] at hg ⊢
        exact ih hg

/-- A cover that holds nothing meets nothing and has nothing that counts inside it. -/
theorem coverMeets_nil {l : List CoverEntry} : coverMeets l [] = false := by
  unfold coverMeets covers
  simp

theorem coverInside_nil {l : List CoverEntry} (hs : coverSize l ≠ 0) : coverInside l [] = false := by
  have hsum : ∀ (l : List CoverEntry) (n : Nat), coverInside l [] = true → l.foldl (fun n c => n + c.slots.length) n = n := by
    intro l
    induction l with
    | nil => exact fun _ _ => rfl
    | cons c l ih =>
      intro n hi
      unfold coverInside covers at hi
      rw [List.all_cons, Bool.and_eq_true] at hi
      have hc : c.slots = [] := by
        cases hs : c.slots with
        | nil => rfl
        | cons a b =>
          rw [hs] at hi
          simp at hi
      rw [List.foldl_cons, hc]
      exact ih _ hi.2
  cases hi : coverInside l [] with
  | false => rfl
  | true => exact absurd (hsum l 0 hi) hs

/-! ## A record that is merged -/

theorem mergeHeld_merges (hr : findRole k s = some r) (hg : (frameOf h.record.frame h.record.period r).isSome = true) :
    ∃ q g, findRole k (mergeHeld k h c s) = some q ∧ frameOf h.record.frame h.record.period q = some g
      ∧ isMerged c.source g = true := by
  rw [mergeHeld_eq hr]
  set y := onFrame k h.record.frame h.record.period (takesHeld h c.source)
    (modRole k (putBinds h.record c.source (foldRecord h.record c r)) s) with hy
  have hname : Alike named s y := (alike_putBinds named_sparesCensus).trans
    (alike_onFrame (h := takesHeld h c.source) named_sparesFrames fun _ => rfl)
  obtain ⟨r', hr', hg'⟩ := hname.named_frame hr hg
  obtain ⟨g', hg'⟩ := Option.isSome_iff_exists.mp hg'
  set a := addedHeld h (foldRecord h.record c r).sums c.gauges
  set st := statusEntry { c with generation := h.record.generation } (if h.missing.isEmpty then 0 else 4) h.missing.length with hst
  have hkey : ∀ t, frameKey (mergedInto a [st] t) = frameKey t := fun _ => rfl
  have hput := frameOf_withFrame (r := r') (keepsFrame (n := h.record.frame) (period := h.record.period) hkey)
  rw [hg'] at hput
  have hfirm : Alike framesFirm (onFrame k h.record.frame h.record.period (mergedInto a [st]) y)
      (afterMerge k h c.source (contribute k h.record.frame h.record.period a [st] y)) := by
    refine Alike.trans ?_ (alike_afterMerge framesFirm_sparesAcks framesFirm_sparesReports framesFirm_sparesCensus)
    unfold contribute
    exact alike_when (alike_amend framesFirm_sparesSent)
  obtain ⟨q, z, hq, hz, hm⟩ := hfirm.frame (findRole_onFrame hr') hput
  refine ⟨q, z, hq, hz, ?_⟩
  have hchildren : z.children = g'.children.filter (fun e => e.child != st.child) ++ [st] := congrArg (·.2.1) hm
  have hstatus : statusOf c.source z = some st := by
    unfold statusOf
    rw [hchildren, List.find?_append, List.find?_eq_none.mpr fun e he => ?_]
    · exact List.find?_cons_of_pos (p := fun e : ChildStatus => e.child == plainSource c.source) (beq_self_eq_true (plainSource c.source))
    · have hne := (List.mem_filter.mp he).2
      rw [bne_iff_ne] at hne
      rw [beq_iff_eq]
      exact hne
  unfold isMerged
  rw [hstatus, hst]
  unfold statusEntry
  split <;> rfl

theorem judgeCover_merges {b : Bool} (hg : (findRole k s).bind (frameOf h.record.frame h.record.period) = some g)
    (hb : coverSize (recordCover h.record) = 0 → b = false)
    (hin : coverSize (recordCover h.record) ≠ 0 → coverInside (recordCover h.record) g.cover = false)
    (hm : coverMeets (recordCover h.record) g.cover = false) : judgeCover k h b c s = mergeHeld k h c s := by
  unfold judgeCover
  extract_lets x
  rw [hg]
  dsimp only
  by_cases h0 : coverSize (recordCover h.record) = 0
  · rw [if_pos h0, hb h0]
    rfl
  · rw [if_neg h0, hin h0, hm]
    rfl

/-- A whole record of which nothing is merged yet is merged (R98). -/
theorem takeRecord_merges (hk : k ≠ .forum) (hr : findRole k s = some r) (hg : frameOf h.record.frame h.record.period r = some g)
    (hmiss : h.missing = []) (hft : r.finalTo ≤ frameOpens h.record.frame h.record.period)
    (hdec : declaredOf h.record c.source g = false) (hseq : c.seqNext ≤ h.record.seq ∨ coverSize (recordCover h.record) ≠ 0)
    (hin : coverSize (recordCover h.record) ≠ 0 → coverInside (recordCover h.record) g.cover = false)
    (hm : coverMeets (recordCover h.record) g.cover = false) :
    ∃ q g, findRole k (takeRecord k h r c s) = some q ∧ frameOf h.record.frame h.record.period q = some g
      ∧ isMerged c.source g = true := by
  unfold takeRecord
  extract_lets x opens frame waits again y z v w
  have hframe : frame = some g := hg
  have hnone : ¬ (frame.isNone = true ∧ x.period ≠ periodExpected opens r z) := fun hn => by
    rw [hframe] at hn
    exact Bool.false_ne_true hn.1
  have hfree : ¬ ((frame.map (declaredOf x c.source)).getD false && !again) = true := fun hn => by
    rw [hframe, Option.map_some, Option.getD_some, show declaredOf x c.source g = false from hdec] at hn
    exact Bool.false_ne_true hn
  rw [if_neg (Nat.not_lt.mpr hft), if_neg hnone, if_neg hfree, if_neg (not_not.mpr hmiss), if_neg hk]
  have hfirm : Alike framesFirm s v :=
    ((alike_onChild framesFirm_sparesAcks fun _ => noteSeq_kin).trans (alike_when (alike_requestGap framesFirm_sparesAcks))).trans
      (Alike.of_roles roles_keepRecord)
  obtain ⟨r', g', hr', hg', hgg⟩ := hfirm.frame hr hg
  have hcover : g'.cover = g.cover := congrArg (·.2.2.1) hgg
  have hw : findRole k w = some { r' with frames := addFrame (TierFrame.blank x.frame x.period) r'.frames } :=
    findRole_modRole_some (fun _ => rfl) hr'
  obtain ⟨f, hf, hfc⟩ : ∃ f, frameOf x.frame x.period { r' with frames := addFrame (TierFrame.blank x.frame x.period) r'.frames } = some f
      ∧ (f.cover = g.cover ∨ f.cover = []) := by
    rcases find_addFrame hg' with hfind | hfind
    · exact ⟨_, hfind, .inl hcover⟩
    · exact ⟨_, hfind, .inr rfl⟩
  have hun := findRole_onFrame (n := x.frame) (period := x.period)
    (f := fun t => { t with held := t.held.filter fun y => childKey y.record != childKey x || y.record.seq != x.seq }) hw
  have huf := frameOf_withFrame (n := x.frame) (period := x.period)
    (f := fun t => { t with held := t.held.filter fun y => childKey y.record != childKey x || y.record.seq != x.seq })
    (r := { r' with frames := addFrame (TierFrame.blank x.frame x.period) r'.frames }) (keepsFrame fun _ => rfl)
  rw [hf] at huf
  have hbind : (findRole k (unhold k x w)).bind (frameOf x.frame x.period)
      = some { f with held := f.held.filter fun y => childKey y.record != childKey x || y.record.seq != x.seq } :=
    (congrArg (fun o => Option.bind o _) hun).trans huf
  rw [judgeCover_merges hbind]
  · exact mergeHeld_merges hun (by rw [huf]; rfl)
  · intro h0
    have hs : ¬ x.seq < c.seqNext := Nat.not_lt.mpr (hseq.resolve_right (not_not.mpr h0))
    show (decide (x.seq < c.seqNext) && _ && _) = false
    rw [decide_eq_false hs]
    rfl
  · intro h0
    show coverInside _ f.cover = false
    rcases hfc with hfc | hfc
    · rw [hfc]
      exact hin h0
    · rw [hfc]
      exact coverInside_nil h0
  · show coverMeets _ f.cover = false
    rcases hfc with hfc | hfc
    · rw [hfc]
      exact hm
    · rw [hfc]
      exact coverMeets_nil

/-! ## A record that is received -/

theorem receiveRecord_known (hr : findRole k s = some r) (hc : childOf (childKey h.record) r = some c)
    (hl : r.liveFt ≤ frameOpens h.record.frame h.record.period) (he : h.record.epoch = c.epoch) :
    receiveRecord k h s = takeRecord k h r c (seeGeneration h.record.generation s) := by
  have hr' : findRole k (seeGeneration h.record.generation s) = some r := hr
  have hens : ensureChild k h.record (seeGeneration h.record.generation s) = seeGeneration h.record.generation s := by
    unfold ensureChild
    rw [hr']
    exact if_pos (.inr (by rw [hc]; rfl))
  unfold receiveRecord
  extract_lets x y
  rw [show y = seeGeneration h.record.generation s from hens, hr']
  dsimp only
  rw [hc]
  dsimp only
  rw [if_neg (Nat.not_lt.mpr hl), if_neg (not_not.mpr he.symm)]

theorem receiveRecord_newEpoch (hr : findRole k s = some r) (hc : childOf (childKey h.record) r = some c)
    (hl : r.liveFt ≤ frameOpens h.record.frame h.record.period) (he : h.record.epoch ≠ c.epoch) :
    ∃ q d, findRole k (receiveRecord k h s) = some q ∧ childOf (childKey h.record) q = some d ∧ d.epoch = h.record.epoch := by
  have hr' : findRole k (seeGeneration h.record.generation s) = some r := hr
  have hens : ensureChild k h.record (seeGeneration h.record.generation s) = seeGeneration h.record.generation s := by
    unfold ensureChild
    rw [hr']
    exact if_pos (.inr (by rw [hc]; rfl))
  have hsrc : c.source = childKey h.record := childOf_source hc
  obtain ⟨r', hr'', hc'⟩ := child_endChildEpoch (c := c) (epoch := h.record.epoch) (opens := frameOpens h.record.frame h.record.period) hr'
    (by rw [hsrc]; exact hc)
  rw [hsrc] at hc'
  unfold receiveRecord
  extract_lets x y
  have hy : y = seeGeneration h.record.generation s := hens
  rw [hy, hr']
  dsimp only
  rw [hc]
  dsimp only
  rw [if_neg (Nat.not_lt.mpr hl), if_pos (Ne.symm he), hr'']
  dsimp only [Option.bind]
  rw [hc']
  dsimp only
  obtain ⟨q, hq, hkin⟩ := (alike_takeRecord (h := h) (r := r') (c := inEpoch h.record.epoch c)).found hr''
  have hd := childOf_epoch (src := childKey h.record) hkin
  rw [hc'] at hd
  obtain ⟨d, hd, hde⟩ := Option.map_eq_some_iff.mp hd
  exact ⟨q, d, hq, hd, hde⟩

/-! ## A record that is late -/

theorem findRole_of_roles (h : t.roles = s.roles) : findRole k t = findRole k s := by
  unfold findRole
  rw [h]

/-- What a late record may change of a role: its counts of records after their frame. -/
def lateness (r : Role) : List TierFrame × Nat := (r.frames, r.lateAfterFinal)

theorem lateness_sparesAcks : SparesAcks lateness := fun _ _ _ _ => rfl

theorem takeRecord_late (hr : findRole k s = some r) (hft : frameOpens h.record.frame h.record.period < r.finalTo) :
    ∃ q, findRole k (takeRecord k h r c s) = some q ∧ q.lateAfterFinal = r.lateAfterFinal + 1 ∧ q.frames = r.frames := by
  unfold takeRecord
  extract_lets x opens frame waits again y z v w
  rw [if_pos hft]
  have hz : Alike lateness s z := (alike_onChild lateness_sparesAcks fun _ => noteSeq_kin).trans
    (alike_when (alike_requestGap lateness_sparesAcks))
  obtain ⟨q, hq, hl⟩ := hz.found hr
  refine ⟨{ q with lateAfterFinal := q.lateAfterFinal + 1 }, ?_, ?_, ?_⟩
  · exact (findRole_of_roles roles_keepRecord).trans
      (findRole_modRole_some (f := fun r => { r with lateAfterFinal := r.lateAfterFinal + 1 }) (fun _ => rfl) hq)
  · exact congrArg (· + 1) (congrArg (·.2) hl)
  · exact congrArg (·.1) hl

/-! ## The command -/

theorem quiet_feedTemplate {die : Nat} {w : BitVec 8} {i : SeriesIn} {e : Nat × Series} :
    Quiet [.conf, .tree] s (feedTemplate die n period w i e s) := by
  have hconf : ∀ (f : Conf → Conf) (y : State), Quiet [.conf, .tree] y (onConf f y) := fun _ _ => touches_onConf.quiet.mono (by decide)
  have htree : ∀ (f : Trees → Trees) (y : State), Quiet [.conf, .tree] y (onTree f y) := fun _ _ => touches_onTree.quiet.mono (by decide)
  unfold feedTemplate
  dsimp only
  refine Quiet.trans ?_ (quiet_when (quiet_forEach fun _ _ => hconf _ _))
  refine Quiet.trans ?_ (quiet_forEach fun _ _ => quiet_raise)
  exact (hconf _ _).trans (htree _ _)

theorem roles_feedTemplates {die : Nat} {w : BitVec 8} {b : Bool} {i : SeriesIn} :
    (feedTemplates die n period w b i s).roles = s.roles := by
  unfold feedTemplates toEngine
  split
  · exact (quiet_forEach (l := [.conf, .tree]) fun e y => quiet_when quiet_feedTemplate).roles (by decide)
  · exact touches_absentAt.roles (by decide)

/-- A Quarter replica is heard of by its first record alone. -/
theorem known_quarter (hr : findRole k s = some r) :
    when (k == .forum && (findRole .forum s).isNone) (hearQuarter (childKey x)) s = s := by
  by_cases hk : k = .forum
  · subst hk
    rw [hr]
    rfl
  · rw [beq_eq_false_iff_ne.mpr hk]
    rfl

theorem ledgerRecordReceive_roles {m : List Nat} {lc : List CounterEntry} {lg : List GaugeEntry} (hp : s.rst.aonOk = true)
    (hup : mergerUp s = true) (hr : findRole k s = some r) :
    ∃ t, exec (.ledgerRecordReceive k x m lc lg) s = .next t
      ∧ t.roles = (receiveRecord k { record := x, missing := m, lostCounters := lc, lostGauges := lg } s).roles := by
  unfold mergerUp at hup
  rw [Bool.and_eq_true] at hup
  obtain ⟨hpl, hup⟩ := hup
  show ∃ t, execLedgerRecordReceive k x m lc lg s = .next t ∧ _
  unfold execLedgerRecordReceive atMerger
  refine ⟨_, run_powered hp, ?_⟩
  rw [hpl, show ∀ f : State → State, when true f s = f s from fun _ => rfl, toEngine_up hup]
  dsimp only
  rw [known_quarter hr]
  exact roles_when roles_feedTemplates

end Received

end Sys2Proof.Machine
end

section
/-!
Records that a role sends: they stand among its sent ones and wait for every parent; what a repair window's end leaves held.
-/

namespace Sys2Proof.Machine

section Sending

variable {s t u : State} {k : RoleKind} {r q : Role} {src n period kind : Nat} {h : HeldRecord} {c : Child} {x : Record} {g : TierFrame}
  {l : List Part}

/-! ## What keeps what waits -/

/-- What waits in the queues of records in `s` waits in `t`, and the place is the same. -/
def Carries (s t : State) : Prop := t.place = s.place ∧ ∀ cls o, Leaves cls o s → Leaves cls o t

theorem Carries.refl : Carries s s := ⟨rfl, fun _ _ h => h⟩

theorem Carries.trans (h : Carries s t) (h' : Carries t u) : Carries s u :=
  ⟨h'.1.trans h.1, fun cls o hl => h'.2 cls o (h.2 cls o hl)⟩

theorem Quiet.queues (h : Quiet l s t) (hl : .upl ∉ l) : t.upl.queues = s.upl.queues := h.upl (·.queues) (fun _ => rfl) hl

theorem Quiet.carries (h : Quiet l s t) (hp : .place ∉ l) (hu : .upl ∉ l) : Carries s t :=
  ⟨h.place hp, fun _ _ hl => hl.of_queues (h.queues hu)⟩

theorem carries_forEach {α : Type} {xs : List α} {f : α → State → State} (h : ∀ a s, Carries s (f a s)) : Carries s (forEach xs f s) := by
  unfold forEach
  induction xs generalizing s with
  | nil => exact Carries.refl
  | cons a xs ih => exact (h a s).trans ih

theorem touches_modRole {f : Role → Role} : Touches [.roles] s (modRole k f s) := touches_put .roles rfl

theorem quiet_bypQueue {a : AlertEntry} : Quiet l s (bypQueue a s) := by
  unfold bypQueue
  exact quiet_ite (.of_eq rfl) (.of_eq rfl)

theorem quiet_roleAlert {a : AlertEntry} : Quiet [.roles] s (roleAlert k a s) := by
  unfold roleAlert
  dsimp only
  split
  · exact touches_modRole.quiet.trans quiet_notify
  · exact touches_modRole.quiet
  · exact touches_modRole.quiet.trans quiet_bypQueue

theorem quiet_closeWindow : Quiet [.roles] s (closeWindow k n s) := by
  unfold closeWindow
  split
  · exact Quiet.refl
  · split
    · exact Quiet.refl
    · dsimp only
      refine Quiet.trans (Quiet.trans ?_ (quiet_forEach fun _ _ => quiet_roleAlert)) (quiet_forEach fun _ _ => quiet_roleAlert)
      exact touches_modRole.quiet

theorem quiet_sendAck : Quiet [.roles] s (sendAck k src s) := by
  unfold sendAck
  split
  · exact Quiet.refl
  · split
    · exact Quiet.refl
    · refine Quiet.trans ?_ quiet_sendControl
      exact touches_modRole.quiet

theorem quiet_updateAcks : Quiet [.roles] s (updateAcks k s) := by
  unfold updateAcks
  split
  · exact Quiet.refl
  · refine quiet_forEach fun c y => ?_
    unfold updateAck
    split
    · exact Quiet.refl
    · split
      · exact Quiet.refl
      · dsimp only
        split
        · exact Quiet.refl
        · refine Quiet.trans ?_ quiet_sendAck
          exact touches_modRole.quiet

theorem quiet_closeTemplates : Quiet [.conf, .tree] s (closeTemplates n period s) := by
  have hconf : ∀ (f : Conf → Conf) (y : State), Quiet [.conf, .tree] y (onConf f y) := fun _ _ => touches_onConf.quiet.mono (by decide)
  unfold closeTemplates
  split
  · exact Quiet.refl
  · dsimp only
    refine Quiet.trans ?_ (hconf _ _)
    refine Quiet.trans ?_ (touches_onTree.quiet.mono (by decide))
    split
    · exact Quiet.refl
    · exact quiet_forEach fun _ _ => quiet_forEach fun _ _ => quiet_when quiet_feedTemplate

/-! ### Tallies -/

theorem quiet_sendVerdict {src dst : Nat} {v : VerdictNotice} : Quiet l s (sendVerdict src dst v s) := quiet_sendControl

theorem quiet_applyVerdict {v : VerdictNotice} : Quiet [.dig] s (applyVerdict v s) := by
  have hdig : ∀ (f : Digests → Digests) (y : State), Quiet [.dig] y (onDig f y) := fun _ _ => touches_onDig.quiet
  unfold applyVerdict
  split
  · exact Quiet.refl
  · split
    · exact quiet_when quiet_raise
    · refine Quiet.trans ?_ (quiet_when (quiet_forEach fun _ _ => quiet_raiseForJob.trans quiet_sendVerdict))
      exact (hdig _ _).trans (hdig _ _)

theorem quiet_judgeTally {y : Tally} : Quiet [.dig] s (judgeTally y r s) := by
  have hdig : ∀ (f : Digests → Digests) (y : State), Quiet [.dig] y (onDig f y) := fun _ _ => touches_onDig.quiet
  unfold judgeTally
  dsimp only
  split
  · exact quiet_raise.trans (hdig _ _)
  · split
    · exact hdig _ _
    · split
      · exact Quiet.trans (hdig _ _) quiet_applyVerdict
      · exact Quiet.trans (hdig _ _) (quiet_forEach fun _ _ => quiet_sendVerdict)

theorem carries_sendTally {y : Tally} : Carries s (sendTally y r s) := by
  unfold sendTally
  dsimp only
  refine Carries.trans ?_ (carries_forEach fun _ _ => ⟨rfl, fun _ _ h => h.enqueueSeries⟩)
  refine Carries.trans ?_ (quiet_arcIngest.carries (by decide) (by decide))
  exact touches_onDig.quiet.carries (by decide) (by decide)

theorem roles_sendTally {y : Tally} : (sendTally y r s).roles = s.roles := by
  unfold sendTally
  dsimp only
  refine Eq.trans ((touches_forEach fun _ _ => touches_enqueueSeries).roles (by decide)) ?_
  exact quiet_arcIngest.roles (by decide)

theorem closeTally_facts {y : Tally} : Carries s (closeTally y s) ∧ (closeTally y s).roles = s.roles := by
  have hdig : ∀ (f : Digests → Digests) (y : State), Quiet [.dig] y (onDig f y) := fun _ _ => touches_onDig.quiet
  unfold closeTally
  split
  · exact ⟨Carries.refl, rfl⟩
  · dsimp only
    split
    · exact ⟨((hdig _ _).trans quiet_judgeTally).carries (by decide) (by decide), ((hdig _ _).trans quiet_judgeTally).roles (by decide)⟩
    · exact ⟨((hdig _ _).carries (by decide) (by decide)).trans carries_sendTally, roles_sendTally⟩

theorem carries_cutTallies : Carries s (cutTallies k n s) := by
  unfold cutTallies
  split
  · exact Carries.refl
  · exact carries_forEach fun _ _ => closeTally_facts.1

theorem roles_cutTallies : (cutTallies k n s).roles = s.roles := by
  unfold cutTallies
  split
  · rfl
  · exact forEach_keeps (·.roles) fun _ _ => closeTally_facts.2

/-! ## A record that is sent -/

/-- A record of this kind, of this frame, stands among those that the role has sent, and waits for every parent. -/
def Sent (kind n period : Nat) (q : Role) (t : State) : Prop :=
  ∃ y ∈ q.sent, y.record.kind = kind ∧ y.record.frame = n ∧ y.record.period = period ∧
    ∀ d ∈ parentsOf q t, Leaves 1 (.ledger d y.record 0 0xFFFF) t

theorem parentsOf_eq (hk : q.kind = r.kind) (hp : t.place = s.place) : parentsOf q t = parentsOf r s := by
  unfold parentsOf
  rw [hp, hk]

theorem Sent.carried (hy : Sent kind n period q t) (hc : Carries t u) (hk : r.kind = q.kind) (hs : r.sent = q.sent) :
    Sent kind n period r u := by
  obtain ⟨y, hm, h1, h2, h3, hl⟩ := hy
  refine ⟨y, by rw [hs]; exact hm, h1, h2, h3, fun d hd => hc.2 _ _ (hl d ?_)⟩
  rwa [parentsOf_eq hk hc.1] at hd

theorem ledgerBlocks_ne_nil : ledgerBlocks x ≠ [] := by
  unfold ledgerBlocks
  refine recordBlocks_ne_nil fun h => ?_
  have hlen := congrArg List.length h
  unfold ledgerBytes at hlen
  dsimp only at hlen
  rw [List.length_append] at hlen
  have hzero : (bytesOf 0 10).length = 10 := by decide
  rw [hzero] at hlen
  exact absurd hlen (Nat.succ_ne_zero _)

theorem leaves_enqueueLedger {d : Nat} {b : Bool} : Leaves 1 (.ledger d x 0 0xFFFF) (enqueueLedger x d b s) :=
  leaves_enqueueRecord ledgerBlocks_ne_nil

theorem sentRecord_names : (sentRecord x r).kind = x.kind ∧ (sentRecord x r).frame = x.frame ∧ (sentRecord x r).period = x.period := by
  unfold sentRecord markExpanded
  dsimp only
  split <;> exact ⟨rfl, rfl, rfl⟩

theorem sendRoleRecord_leaves {b : Bool} (hr : findRole k s = some r) :
    (∀ d ∈ parentsOf r s, Leaves 1 (.ledger d (sentRecord x r) 0 0xFFFF) (sendRoleRecord k x b s))
      ∧ (sendRoleRecord k x b s).place = s.place := by
  unfold sendRoleRecord sentRecord
  rw [hr]
  dsimp only
  generalize markExpanded { x with seq := r.seq } = m
  obtain ⟨y, a⟩ := m
  dsimp only
  set z := arcIngest _ _ _ with hz
  have hplace : z.place = s.place := quiet_arcIngest.place (by decide)
  have hlast : Carries (forEach (parentsOf r z) (fun p => enqueueLedger y p b) z)
      (when (k == .forum) (sinkRecord y) (forEach (parentsOf r z) (fun p => enqueueLedger y p b) z)) := by
    have hsink := touches_when (b := k == .forum) (f := sinkRecord y) (s := forEach (parentsOf r z) (fun p => enqueueLedger y p b) z)
      touches_sinkRecord
    exact ⟨hsink.place (by decide), fun _ _ h => h.of_queues (congrArg (·.queues) (hsink.upl (by decide)))⟩
  refine ⟨fun d hd => hlast.2 _ _ ?_, hlast.1.trans ?_⟩
  · refine leaves_forEach (g := fun d => .ledger d y 0 0xFFFF) (fun _ _ => leaves_enqueueLedger) (fun _ _ _ h => h.enqueueRecord) d ?_
    rwa [parentsOf_eq rfl hplace]
  · exact ((touches_forEach fun _ _ => touches_enqueueLedger).place (by decide)).trans hplace

/-- What a role sends stands among its records sent and leaves for its parents. -/
theorem sendRoleRecord_sends {b : Bool} (hk : k ≠ .forum) (hr : findRole k s = some r) :
    Sent x.kind x.frame x.period (withSent k (sentRecord x r) r) (sendRoleRecord k x b s) := by
  obtain ⟨h1, h2, h3⟩ := sentRecord_names (x := x) (r := r)
  refine ⟨{ record := sentRecord x r, ackedBy := [] }, ?_, h1, h2, h3, fun d hd => ?_⟩
  · show _ ∈ if k = .forum then _ else _
    rw [if_neg hk]
    exact List.mem_append_right _ (List.mem_singleton.mpr rfl)
  · obtain ⟨hleaves, hplace⟩ := sendRoleRecord_leaves (x := x) (b := b) hr
    rw [parentsOf_eq (q := withSent k (sentRecord x r) r) (r := r) rfl hplace] at hd
    exact hleaves d hd

end Sending

end Sys2Proof.Machine
end

section
/-!
The tiers' ledger events: records, cut-offs, repair windows, horizons and acknowledgements.
-/

namespace Sys2Proof.Machine

section LedgerEvents

variable {s t u : State} {k : RoleKind} {r q : Role} {src n period kind : Nat} {h : HeldRecord} {c : Child} {x : Record}
  {f g : TierFrame} {P Q : HeldRecord → Prop}

/-! ## A cut-off -/

theorem roles_untilFt {ft : Nat} : (untilFt ft s).roles = s.roles := touches_untilFt.roles (by decide)

theorem alike_adoptQuarters : Alike named s (adoptQuarters n period s) := by
  unfold adoptQuarters
  dsimp only
  refine alike_forEach fun q y => ?_
  split
  · exact Alike.refl
  · refine Alike.trans (alike_adopt named_sparesCounts) (alike_forEach fun h z => ?_)
    split
    · exact alike_unhold named_sparesFrames
    · split
      · exact (alike_unhold named_sparesFrames).trans alike_judgeCover
      · exact (alike_unhold named_sparesFrames).trans (alike_ackRecord named_sparesAcks)

theorem roles_takeOwn : (takeOwn k s).2.roles = s.roles := by
  unfold takeOwn
  split
  · rfl
  · rfl

theorem frameKey_setStatuses {l : List Child} {st : TierFrame → Child → ChildStatus} :
    frameKey (l.foldl (fun t c => setStatus (st t c) t) g) = frameKey g := by
  induction l generalizing g with
  | nil => rfl
  | cons c l ih => exact ih

theorem closePrimary_sends (hr : findRole k s = some r) (hg : (frameOf n period r).isSome = true) :
    ∃ q g, findRole k (closePrimary k n period s) = some q ∧ frameOf n period q = some g ∧ g.closed = true
      ∧ (k ≠ .forum → Sent 1 n period q (closePrimary k n period s)) := by
  unfold closePrimary
  extract_lets y
  have hy : Alike named s y := alike_when alike_adoptQuarters
  obtain ⟨r1, hr1, hg1⟩ := hy.named_frame hr hg
  obtain ⟨f1, hf1⟩ := Option.isSome_iff_exists.mp hg1
  rw [hr1]
  dsimp -zeta only
  rw [hf1]
  dsimp -zeta only
  generalize ha : takeAlerts k y = a
  obtain ⟨alerts, z⟩ := a
  dsimp -zeta only
  generalize ho : takeOwn k z = o
  obtain ⟨own, w⟩ := o
  dsimp -zeta only
  extract_lets late t1 t2 pending rec1 rec2 v b e
  have hw : Alike framesFirm y w := by
    have h1 : Alike framesFirm y z := by
      have := alike_takeAlerts (k := k) (s := y) framesFirm_sparesSent
      rwa [ha] at this
    have h2 : w.roles = z.roles := by
      have := roles_takeOwn (k := k) (s := z)
      rwa [ho] at this
    exact h1.trans (Alike.of_roles h2)
  obtain ⟨r2, f2, hr2, hf2, -⟩ := hw.frame hr1 hf1
  have hkey : frameKey t2 = (n, period) := (frameKey_setStatuses (g := f1) (l := late) (st := pendingStatus)).trans (frameOf_key hf1)
  have hput := frameOf_withFrame (n := n) (period := period) (f := fun _ => t2) (r := r2) fun _ _ => isFrame_iff.mpr hkey
  rw [hf2] at hput
  obtain ⟨r3, hr3, hm3⟩ : ∃ r3, findRole k b = some r3 ∧ firm r3 = firm (withFrame n period (fun _ => t2) r2) := by
    refine Alike.found (s := v) ?_ (findRole_onFrame hr2)
    exact alike_forEach fun _ _ => alike_request firm_sparesAcks
  have hsent : findRole k e = some (withSent k (sentRecord rec2 r3) r3) :=
    (findRole_of_roles (roles_sendRoleRecord hr3)).trans (findRole_modRole_some (fun _ => rfl) hr3)
  obtain ⟨q, hq, hmq⟩ : ∃ q, findRole k (forEach late (fun c => sendAck k c.source) e) = some q
      ∧ firm q = firm (withSent k (sentRecord rec2 r3) r3) :=
    Alike.found (alike_forEach fun _ _ => alike_sendAck firm_sparesAcks) hsent
  have hframes : q.frames.map frameFirm = (withFrame n period (fun _ => t2) r2).frames.map frameFirm :=
    (congrArg (·.1) hmq).trans (congrArg (·.1) hm3)
  have hfound := frameOf_of_map (n := n) (period := period) (v := frameFirm) (fun _ => rfl) hframes
  rw [hput] at hfound
  obtain ⟨g', hg', he⟩ := Option.map_eq_some_iff.mp hfound
  refine ⟨q, g', hq, hg', congrArg (·.2.2.2.1) he, fun hk => ?_⟩
  have hs := sendRoleRecord_sends (x := rec2) (b := false) hk hr3
  have hcar : Carries e (forEach late (fun c => sendAck k c.source) e) :=
    (quiet_forEach fun _ _ => quiet_sendAck).carries (l := [.roles]) (by decide) (by decide)
  have hnames : rec2.frame = n ∧ rec2.period = period := ⟨congrArg (·.1) hkey, congrArg (·.2) hkey⟩
  rw [hnames.1, hnames.2] at hs
  exact hs.carried hcar ((findRole_kind hq).trans (findRole_kind hr3).symm) (congrArg (·.2.2.1) hmq)

/-- A cut-off closes the primary record, which leaves for the role's parents (R98). -/
theorem cutOff_sends (hr : findRole k s = some r) (hf : frameOf n period r = some f) :
    ∃ q g, findRole k (cutOff k f s) = some q ∧ frameOf n period q = some g ∧ g.closed = true
      ∧ (k ≠ .forum → Sent 1 n period q (cutOff k f s)) := by
  have hkey := frameOf_key hf
  have h1 : f.frame = n := congrArg (·.1) hkey
  have h2 : f.period = period := congrArg (·.2) hkey
  unfold cutOff
  extract_lets y z v w
  have hy : findRole k y = some r := (findRole_of_roles roles_untilFt).trans hr
  obtain ⟨r', g', hr', hg', hc', hs'⟩ := closePrimary_sends (n := n) (period := period) hy (by rw [hf]; rfl)
  have hz : z = closePrimary k n period y := by rw [← h1, ← h2]
  rw [← hz] at hr' hs'
  have hv : Quiet [.conf, .tree] z v := quiet_when quiet_closeTemplates
  have hlast : Alike firm z (when (f.frame % 2 == 1) (closeWindow k (frameEnds f.frame f.period)) w) := by
    refine Alike.trans ?_ (alike_when (alike_closeWindow firm_sparesReports))
    exact Alike.of_roles (roles_cutTallies.trans (hv.roles (by decide)))
  have hcar : Carries z (when (f.frame % 2 == 1) (closeWindow k (frameEnds f.frame f.period)) w) := by
    refine Carries.trans ?_ ((quiet_when quiet_closeWindow).carries (by decide) (by decide))
    exact (hv.carries (by decide) (by decide)).trans carries_cutTallies
  obtain ⟨q, hq, hm⟩ := hlast.found hr'
  have hfound := frameOf_of_map (n := n) (period := period) (v := frameFirm) (fun _ => rfl) (congrArg (·.1) hm : q.frames.map frameFirm = _)
  rw [hg'] at hfound
  obtain ⟨g, hg, he⟩ := Option.map_eq_some_iff.mp hfound
  refine ⟨q, g, hq, hg, (congrArg (·.2.2.2.1) he).trans hc', fun hk => ?_⟩
  exact (hs' hk).carried hcar ((findRole_kind hq).trans (findRole_kind hr').symm) (congrArg (·.2.2.1) hm)

/-! ## The end of a repair window -/

/-- The frame's held records all satisfy `P`. -/
def HeldAll (k : RoleKind) (n period : Nat) (P : HeldRecord → Prop) (s : State) : Prop :=
  ∃ q g, findRole k s = some q ∧ frameOf n period q = some g ∧ ∀ h ∈ g.held, P h

theorem HeldAll.alike (hs : HeldAll k n period P s) (ha : Alike framesFirm s t) : HeldAll k n period P t := by
  obtain ⟨q, g, hq, hg, hp⟩ := hs
  obtain ⟨q', g', hq', hg', he⟩ := ha.frame hq hg
  exact ⟨q', g', hq', hg', by rw [show g'.held = g.held from congrArg (·.2.2.2.2) he]; exact hp⟩

theorem HeldAll.onFrame {F : TierFrame → TierFrame} (hs : HeldAll k n period P s) (hkey : ∀ t, frameKey (F t) = frameKey t)
    (hheld : ∀ t : TierFrame, (∀ h ∈ t.held, P h) → ∀ h ∈ (F t).held, Q h) : HeldAll k n period Q (Machine.onFrame k n period F s) := by
  obtain ⟨q, g, hq, hg, hp⟩ := hs
  have hput := frameOf_withFrame (r := q) (keepsFrame (n := n) (period := period) hkey)
  rw [hg] at hput
  exact ⟨_, _, findRole_onFrame hq, hput, hheld g hp⟩

theorem held_mergedInto {a : Added} {st : List ChildStatus} {t : TierFrame} : (mergedInto a st t).held = t.held :=
  mergedInto_keeps (·.held) (fun _ => rfl) fun _ _ => rfl

/-- Records of other children, or of another sequence. -/
def otherRecord (h y : HeldRecord) : Prop := childKey y.record ≠ childKey h.record ∨ y.record.seq ≠ h.record.seq

theorem HeldAll.unhold (hs : HeldAll k h.record.frame h.record.period P s) :
    HeldAll k h.record.frame h.record.period (fun y => P y ∧ otherRecord h y) (Machine.unhold k h.record s) := by
  refine HeldAll.onFrame hs (fun _ => rfl) fun t ht y hy => ?_
  obtain ⟨hm, hne⟩ := List.mem_filter.mp hy
  rw [Bool.or_eq_true, bne_iff_ne, bne_iff_ne] at hne
  exact ⟨ht y hm, hne⟩

theorem HeldAll.mergeHeld (hs : HeldAll k h.record.frame h.record.period P s) :
    HeldAll k h.record.frame h.record.period P (Machine.mergeHeld k h c s) := by
  obtain ⟨r, -, hr, -, -⟩ := id hs
  rw [mergeHeld_eq hr]
  refine HeldAll.alike ?_ (alike_afterMerge framesFirm_sparesAcks framesFirm_sparesReports framesFirm_sparesCensus)
  refine HeldAll.alike ?_ (alike_when (alike_amend framesFirm_sparesSent))
  refine HeldAll.onFrame (P := P) (F := mergedInto _ _) ?_ (fun _ => rfl) fun t ht y hy => ht y (by rwa [held_mergedInto] at hy)
  refine HeldAll.onFrame (P := P) (F := takesHeld h c.source) ?_ (fun _ => rfl) fun t ht y hy => ht y (List.mem_of_mem_filter hy)
  exact hs.alike (alike_putBinds framesFirm_sparesCensus)

theorem HeldAll.repairRecord (hs : HeldAll k h.record.frame h.record.period P s) :
    HeldAll k h.record.frame h.record.period (fun y => P y ∧ otherRecord h y) (Machine.repairRecord k h s) := by
  have hu := hs.unhold
  unfold Machine.repairRecord
  dsimp only
  split
  · split
    · exact hu.alike (alike_onChild framesFirm_sparesAcks fun _ => rfl)
    · split
      · exact hu
      · exact hu.mergeHeld
  · exact hu

theorem HeldAll.repairHeld (hs : HeldAll k h.record.frame h.record.period P s) :
    HeldAll k h.record.frame h.record.period (fun y => P y ∧ otherRecord h y) (Machine.repairHeld k h s) := by
  unfold Machine.repairHeld
  dsimp only
  split
  · exact hs.repairRecord
  · next hk =>
    obtain rfl : k = .forum := not_not.mp hk
    split
    · split
      · exact hs.repairRecord
      · exact hs.unhold
    · exact (hs.alike (alike_when (alike_adopt framesFirm_sparesCounts))).repairRecord

theorem HeldAll.repairAll {l : List HeldRecord} (hl : ∀ h ∈ l, h.record.frame = n ∧ h.record.period = period)
    (hs : HeldAll k n period P s) : HeldAll k n period (fun y => P y ∧ ∀ h ∈ l, otherRecord h y) (forEach l (Machine.repairHeld k) s) := by
  unfold forEach
  induction l generalizing s P with
  | nil =>
    obtain ⟨q, g, hq, hg, hp⟩ := hs
    exact ⟨q, g, hq, hg, fun y hy => ⟨hp y hy, fun _ h => absurd h List.not_mem_nil⟩⟩
  | cons h l ih =>
    obtain ⟨rfl, rfl⟩ := hl h List.mem_cons_self
    obtain ⟨q, g, hq, hg, hp⟩ := ih (fun y hy => hl y (List.mem_cons_of_mem _ hy)) hs.repairHeld
    refine ⟨q, g, hq, hg, fun y hy => ⟨(hp y hy).1.1, fun z hz => ?_⟩⟩
    rcases List.mem_cons.mp hz with rfl | hz
    · exact (hp y hy).1.2
    · exact (hp y hy).2 z hz

/-- No record with gaps is held past its repair window. -/
theorem endRepair_whole (hr : findRole k s = some r) (hf : frameOf n period r = some f)
    (hh : ∀ h ∈ f.held, h.record.frame = n ∧ h.record.period = period) :
    HeldAll k n period (fun h => h.missing = []) (endRepair k n period s) := by
  unfold endRepair
  rw [hr]
  dsimp only
  rw [hf]
  dsimp only
  have hs : HeldAll k n period (fun h => h ∈ f.held) s := ⟨r, f, hr, hf, fun _ h => h⟩
  obtain ⟨q, g, hq, hg, hp⟩ := hs.repairAll (l := f.held.filter fun h => !h.missing.isEmpty) fun h hm => hh h (List.mem_of_mem_filter hm)
  refine ⟨q, g, hq, hg, fun h hm => ?_⟩
  obtain ⟨hin, hother⟩ := hp h hm
  by_contra hne
  have hgap : h ∈ f.held.filter fun h => !h.missing.isEmpty := List.mem_filter.mpr ⟨hin, by simpa using hne⟩
  exact (hother h hgap).elim (fun h => h rfl) fun h => h rfl

/-! ## A frame that is settled -/

theorem settleFrame_facts (hr : findRole k s = some r) (hf : frameOf n period r = some f) :
    ∃ q, findRole k (settleFrame k n period s) = some q ∧ q.lastFinal = some n ∧ frameEnds n period ≤ q.finalTo
      ∧ frameOf n period q = none ∧ (k ≠ .forum → Sent 3 n period q (settleFrame k n period s)) := by
  unfold settleFrame
  rw [hr]
  dsimp -zeta only
  rw [hf]
  dsimp -zeta only
  generalize ha : takeAlerts k s = a
  obtain ⟨alerts, y⟩ := a
  dsimp -zeta only
  extract_lets late named homeless losses aggs st rec0 rec1 e upd
  have hy : Alike framesFirm s y := by
    have := alike_takeAlerts (k := k) (s := s) framesFirm_sparesSent
    rwa [ha] at this
  obtain ⟨r1, hr1, -⟩ := hy.found hr
  have hsent : findRole k e = some (withSent k (sentRecord rec1 r1) r1) :=
    (findRole_of_roles (roles_sendRoleRecord hr1)).trans (findRole_modRole_some (fun _ => rfl) hr1)
  have hupd : findRole k (modRole k upd e) = some (upd (withSent k (sentRecord rec1 r1) r1)) :=
    findRole_modRole_some (fun _ => rfl) hsent
  obtain ⟨q, hq, hm⟩ := (alike_updateAcks (k := k) firm_sparesAcks).found hupd
  have hnone : frameOf n period (upd (withSent k (sentRecord rec1 r1) r1)) = none :=
    List.find?_eq_none.mpr fun x hx hfr => by
      have hne := (List.mem_filter.mp hx).2
      rw [hfr] at hne
      exact Bool.false_ne_true hne
  have hfound := frameOf_of_map (n := n) (period := period) (v := frameFirm) (fun _ => rfl) (congrArg (·.1) hm : q.frames.map frameFirm = _)
  rw [hnone] at hfound
  refine ⟨q, hq, congrArg (·.2.2.2.2) hm, ?_, Option.map_eq_none_iff.mp hfound, fun hk => ?_⟩
  · rw [show q.finalTo = max r1.finalTo (frameEnds n period) from congrArg (·.2.2.2.1) hm]
    exact Nat.le_max_right _ _
  · have hs := sendRoleRecord_sends (x := rec1) (b := false) hk hr1
    have hkey := frameOf_key hf
    rw [show rec1.frame = n from congrArg (·.1) hkey, show rec1.period = period from congrArg (·.2) hkey] at hs
    have hcar : Carries e (updateAcks k (modRole k upd e)) :=
      (touches_modRole.quiet.trans quiet_updateAcks).carries (by decide) (by decide)
    exact hs.carried hcar ((findRole_kind hq).trans (findRole_kind hr1).symm) (congrArg (·.2.2.1) hm)

/-! ## Acknowledgements -/

theorem touches_sendToParent {b : Bool} : Touches [.upl] s (sendToParent x b s) := by
  unfold sendToParent
  split
  · exact Touches.refl
  · exact touches_enqueueLedger

theorem touches_answerRequest {a : AckReq} : Touches [.upl] s (answerRequest a s) := by
  unfold answerRequest
  refine touches_forEach fun y z => ?_
  split
  · exact Touches.refl
  · exact touches_ite (touches_put .upl rfl) touches_sendToParent

/-- An acknowledgement ends a Leaf's ownership of what it names (R115). -/
theorem releaseTo_retained : (releaseTo n s).led.retained = keptAfter n s := by
  unfold releaseTo
  extract_lets kept spilled empties y
  split
  · have hbuf : ∀ i, Touches [.buf] y (when empties (onChain i fun c => { c with fill := 0 }) y) := fun i =>
      touches_when (touches_put .buf rfl)
    exact congrArg (·.retained) ((hbuf _).led (by decide))
  · rfl

theorem leafAck_retained {a : Ack} {p : Nat} (hd : a.child = s.die) (he : a.epoch = s.epoch) (hp : s.place.parent = some p)
    (hn : a.ackFrame = some n) : (leafAck a p s).led.retained = keptAfter n s := by
  unfold leafAck
  rw [if_neg (by rw [hd, he, hp]; simp), hn]
  dsimp only
  exact (congrArg (·.retained) ((touches_forEach fun _ _ => touches_answerRequest).led (by decide))).trans releaseTo_retained

theorem ledgerAck_runs {a : Ack} {p : Nat} (hp : s.rst.aonOk = true) (hup : engineUp 3 s = true) (hb : a.bodyOk = true) :
    exec (.ledgerAck a p) s
      = .next (if s.fuse.plaza then forEach [.plaza, .quarter] (fun k => roleAck k a p) s else leafAck a p s) := by
  show execLedgerAck a p s = _
  unfold execLedgerAck
  rw [run_powered hp, hb, show ∀ f : State → State, when true f s = f s from fun _ => rfl, toEngine_up hup]

/-! ## The obligation -/

theorem endOf_some (hr : findRole k s = some r) (hf : frameOf n period r = some f) : endOf k n period s = some (frameEnds f.frame f.period) := by
  unfold endOf
  rw [hr]
  show (frameOf n period r).map _ = _
  rw [hf]
  rfl

/-- Settles O35: each event turns on what its operation does to one frame of one role. What a record brings beside its sums
spares the frames' statuses, and what follows a record that is sent spares the queue that it waits in. -/
theorem ledgerEventsComplete : Obligations.LedgerEventsComplete := by
  unfold Obligations.LedgerEventsComplete
  refine ⟨?_, ?_, ?_, ?_, ?_, ?_, ?_, ?_⟩
  · intro role rcd lc lg r c f s hp hup hk hr hc hl he hf hft hd hv hfin hseq hm hin
    set h : HeldRecord := { record := rcd, missing := [], lostCounters := lc, lostGauges := lg } with hh
    obtain ⟨t, ht, hroles⟩ := ledgerRecordReceive_roles (x := rcd) (m := []) (lc := lc) (lg := lg) hp hup hr
    rw [← hh, receiveRecord_known (h := h) hr hc hl he] at hroles
    have hdec : declaredOf h.record c.source f = false := by
      unfold declaredOf
      rw [hd, List.contains_eq_mem, decide_eq_false hv, List.contains_eq_mem, decide_eq_false hfin]
      rfl
    have hinside : coverSize (recordCover rcd) ≠ 0 → coverInside (recordCover rcd) f.cover = false := fun h0 =>
      Bool.eq_false_iff.mpr fun hi => hin ⟨h0, hi⟩
    obtain ⟨q, g, hq, hg, hmer⟩ := takeRecord_merges (s := seeGeneration rcd.generation s) (h := h) hk hr hf rfl hft hdec hseq hinside hm
    refine ⟨t, q, g, ht, (findRole_of_roles hroles).trans hq, hg, ?_⟩
    rwa [childOf_source hc] at hmer
  · intro role rcd m lc lg r c s hp hup hr hc hl he hft
    set h : HeldRecord := { record := rcd, missing := m, lostCounters := lc, lostGauges := lg } with hh
    obtain ⟨t, ht, hroles⟩ := ledgerRecordReceive_roles (x := rcd) (m := m) (lc := lc) (lg := lg) hp hup hr
    rw [← hh, receiveRecord_known (h := h) hr hc hl he] at hroles
    obtain ⟨q, hq, hfacts⟩ := takeRecord_late (s := seeGeneration rcd.generation s) (h := h) (c := c) hr hft
    exact ⟨t, q, ht, (findRole_of_roles hroles).trans hq, hfacts⟩
  · intro role rcd m lc lg r c s hp hup hr hc hl he
    obtain ⟨t, ht, hroles⟩ := ledgerRecordReceive_roles (x := rcd) (m := m) (lc := lc) (lg := lg) hp hup hr
    obtain ⟨q, d, hq, hd⟩ :=
      receiveRecord_newEpoch (h := { record := rcd, missing := m, lostCounters := lc, lostGauges := lg }) hr hc hl he
    exact ⟨t, q, d, ht, (findRole_of_roles hroles).trans hq, hd⟩
  · intro role n p f s hp hup hv hf ho
    obtain ⟨r, hr, hfr⟩ := Option.bind_eq_some_iff.mp hf
    obtain ⟨q, g, hq, hg, hc, hs⟩ := cutOff_sends hr hfr
    refine ⟨cutOff role f s, q, g, ?_, hq, hg, hc, hs⟩
    show execTierCutoff role n p s = _
    unfold execTierCutoff
    rw [run_powered hp, hf]
    dsimp only
    rw [hup, hv, ho]
    rfl
  · intro role n p r f s hp hup hv hr hf hh
    obtain ⟨q, g, hq, hg, hw⟩ := endRepair_whole (s := untilFt (frameEnds f.frame f.period + 10000000) s)
      ((findRole_of_roles roles_untilFt).trans hr) hf hh
    refine ⟨_, q, g, ?_, hq, hg, hw⟩
    show execRepairWindowEnd role n p s = _
    unfold execRepairWindowEnd
    rw [run_powered hp, endOf_some hr hf]
    dsimp only
    rw [hup, hv]
    rfl
  · intro role n p f s hp hup hv hf
    obtain ⟨r, hr, hfr⟩ := Option.bind_eq_some_iff.mp hf
    obtain ⟨q, hq, hfacts⟩ := settleFrame_facts (s := untilFt (frameEnds f.frame f.period + horizonNs role) s)
      ((findRole_of_roles roles_untilFt).trans hr) hfr
    refine ⟨_, q, ?_, hq, hfacts⟩
    show execSettleHorizon role n p s = _
    unfold execSettleHorizon
    rw [run_powered hp, endOf_some hr hfr]
    dsimp only
    rw [hup, hv]
    rfl
  · intro a p n s hp hpl hup hb hd he hpar hn
    refine ⟨leafAck a p s, ?_, leafAck_retained hd he hpar hn⟩
    rw [ledgerAck_runs hp hup hb, hpl]
    rfl
  · intro a p s hp hpl hup hb
    rw [ledgerAck_runs hp hup hb, hpl]
    rfl

end LedgerEvents

end Sys2Proof.Machine
end

section
/-!
Verdict notices at a Leaf: one on results retained past their time.
-/

namespace Sys2Proof.Machine

set_option maxRecDepth 100000

/-- Retained results whose masks have expired. -/
def pastInstance : Retained := { Tests.kept0 with ends := 0 }

/-- A Leaf that has not let them go yet. -/
def pastLeaf : State := { Tests.keyLeaf with dig := { Tests.keyLeaf.dig with retained := [pastInstance] } }

/-- A verdict on them finds nothing. -/
theorem verdictNoticeLeaf_pastLeaf :
    ∃ t, exec (.verdictNoticeLeaf Tests.verdictN) pastLeaf = .next t ∧ t.dig.verdicts = [] :=
  ⟨_, rfl, by decide⟩

/-- Refutes O15: the clause for a verdict notice on retained results does not ask that their masks still stand, and
a notice at or past their end is counted as idle and leaves no verdict. -/
theorem not_digestLeafEventsComplete : ¬ Obligations.DigestLeafEventsComplete := by
  intro h
  obtain ⟨-, -, -, -, -, -, -, -, -, -, -, -, -, -, hnotice⟩ := h
  obtain ⟨t, ht, hverdict, -⟩ := hnotice Tests.verdictN pastInstance pastLeaf rfl rfl (by decide) (by decide) (by decide)
  obtain ⟨u, hu, hnone⟩ := verdictNoticeLeaf_pastLeaf
  obtain rfl : u = t := by injection hu.symm.trans ht
  rw [hnone] at hverdict
  exact List.not_mem_nil hverdict

end Sys2Proof.Machine
end

section
/-!
The commands of the Ledger and of placement.
-/

namespace Sys2Proof.Machine

section LedgerPlacement

variable {s t : State} {c : Cmd} {r : Req} {m n : RegionName} {kib want : Nat}

/-! ## Regions of the Steward's memory -/

theorem regionKib_eq : regionKib n s = ((s.stw.regions.find? fun r => r.name == n).map (·.kib)).getD (placedKib n) := by
  unfold regionKib
  cases s.stw.regions.find? fun r => r.name == n <;> rfl

/-- A region with a new size. -/
def sized (m : RegionName) (kib want : Nat) (s : State) : State := resizeRegion m kib (wantRegion m (max kib want) s)

/-- The names of the regions. -/
def namesOf (s : State) : List RegionName := s.stw.regions.map (·.name)

theorem find_wanted {l : List Region} : ((l.map fun r => if r.name = m then { r with want := want } else r).find? fun r => r.name == n).map (·.kib)
    = (l.find? fun r => r.name == n).map (·.kib) := by
  induction l with
  | nil => rfl
  | cons r l ih =>
    rw [List.map_cons, List.find?_cons, List.find?_cons,
      show (if r.name = m then { r with want := want } else r).name = r.name by split <;> rfl]
    cases r.name == n with
    | true =>
      dsimp only
      split <;> rfl
    | false => exact ih

theorem find_resized {l : List Region} (hm : m ∈ l.map (·.name)) :
    ((l.map fun r => if r.name = m then { r with kib := kib } else r).find? fun r => r.name == n).map (·.kib)
      = if n = m then some kib else (l.find? fun r => r.name == n).map (·.kib) := by
  induction l with
  | nil => cases hm
  | cons r l ih =>
    rw [List.map_cons, List.find?_cons, List.find?_cons,
      show (if r.name = m then { r with kib := kib } else r).name = r.name by split <;> rfl]
    by_cases hr : r.name = n
    · subst hr
      rw [beq_self_eq_true]
      by_cases hn : r.name = m
      · rw [if_pos hn, if_pos hn]
        rfl
      · rw [if_neg hn, if_neg hn]
    · rw [beq_eq_false_iff_ne.mpr hr]
      dsimp only
      by_cases hrest : m ∈ l.map (·.name)
      · exact ih hrest
      · have hhead : m = r.name := (List.mem_cons.mp hm).resolve_right hrest
        rw [if_neg fun h => hr (hhead.symm.trans h.symm)]
        have hsame : l.map (fun r => if r.name = m then { r with kib := kib } else r) = l.map id :=
          List.map_congr_left fun x hx => if_neg fun hx' : x.name = m => hrest (hx' ▸ List.mem_map_of_mem hx)
        rw [hsame, List.map_id]

theorem names_sized : namesOf (sized m kib want s) = namesOf s := by
  unfold namesOf sized resizeRegion wantRegion onStw
  dsimp only
  rw [List.map_map, List.map_map]
  refine List.map_congr_left fun r _ => ?_
  dsimp only [Function.comp]
  by_cases hr : r.name = m
  · rw [if_pos hr, if_pos (show _ = m from hr)]
  · rw [if_neg hr, if_neg hr]

theorem regionKib_sized (hm : m ∈ namesOf s) : regionKib n (sized m kib want s) = if n = m then kib else regionKib n s := by
  have hwant : namesOf (wantRegion m (max kib want) s) = namesOf s := by
    unfold namesOf wantRegion onStw
    dsimp only
    rw [List.map_map]
    refine List.map_congr_left fun r _ => ?_
    dsimp only [Function.comp]
    split <;> rfl
  rw [← hwant] at hm
  rw [regionKib_eq, regionKib_eq]
  unfold sized resizeRegion
  refine (congrArg (fun o => Option.getD o (placedKib n)) (find_resized hm)).trans ?_
  split
  · rfl
  · exact congrArg (fun o => Option.getD o (placedKib n)) find_wanted

theorem regionKib_setRetention {nodes staging : Nat} (hn : namesOf s = regionNames) :
    regionKib n (setRetention kib nodes staging s)
      = if n = .retention then kib else if n = .nodes then nodes else if n = .staging then staging else regionKib n s := by
  show regionKib n (sized .retention kib kib (sized .nodes nodes (1024 - (kib - 2048)) (sized .staging staging (768 - (kib - 2048)) s))) = _
  have hin : ∀ m : RegionName, m ∈ regionNames := fun m => by cases m <;> decide
  rw [regionKib_sized, regionKib_sized, regionKib_sized]
  · rw [hn]
    exact hin _
  · rw [names_sized, hn]
    exact hin _
  · rw [names_sized, names_sized, hn]
    exact hin _

theorem chainWithdraw_regions {k : Nat} : (chainWithdraw k s).stw.regions = s.stw.regions := by
  have hdone : ∀ (k fill st : Nat) (d : Desc) (b : Bool), (descDone k d fill st b s).stw.regions = s.stw.regions := fun k fill st d b => by
    unfold descDone notify when
    dsimp only
    split
    · split <;> rfl
    · rfl
  unfold chainWithdraw
  dsimp only
  split
  · exact hdone _ _ _ _ _
  · split
    · exact hdone _ _ _ _ _
    · rfl
  · rfl

theorem withdrawOld_facts {old : Option (Nat × Chain)} :
    (withdrawOld old s).led = s.led ∧ (withdrawOld old s).stw.regions = s.stw.regions := by
  cases old with
  | none => exact ⟨rfl, rfl⟩
  | some x => exact ⟨touches_chainWithdraw.led (by decide), chainWithdraw_regions⟩

/-- The chain that takes the place of another holds its descriptor. -/
theorem chain_renewed {old : Option (Nat × Chain)} {k i : Nat} {d : Desc} :
    tget Chain.empty s.buf.nextChain (chainOpen k i d.partition d (withdrawOld old s)).2.buf.chains
      = { Chain.empty with ckind := k, index := i, partition := d.partition, cur := some d } :=
  (congrArg (fun j => tget Chain.empty j _) (withdrawOld_nextChain (old := old) (s := s)).symm).trans chain_chainOpen

/-- The regions after `LEDGER_RETAIN_SET` (R102). -/
theorem regions_retained {nodes staging : Nat} {y : State} (hn : namesOf s = regionNames) (hy : y.stw.regions = s.stw.regions) :
    regionKib .retention (setRetention kib nodes staging y) = kib ∧ regionKib .nodes (setRetention kib nodes staging y) = nodes ∧
      regionKib .staging (setRetention kib nodes staging y) = staging ∧
      ∀ n, n ≠ .retention → n ≠ .nodes → n ≠ .staging → regionKib n (setRetention kib nodes staging y) = regionKib n s := by
  have hnames : namesOf y = regionNames := (congrArg (List.map Region.name) hy).trans hn
  have hsame : ∀ n, regionKib n y = regionKib n s := fun n => by rw [regionKib_eq, regionKib_eq, hy]
  refine ⟨?_, ?_, ?_, fun n h1 h2 h3 => ?_⟩
  · rw [regionKib_setRetention hnames, if_pos rfl]
  · rw [regionKib_setRetention hnames, if_neg (by decide), if_pos rfl]
  · rw [regionKib_setRetention hnames, if_neg (by decide), if_neg (by decide), if_pos rfl]
  · rw [regionKib_setRetention hnames, if_neg h1, if_neg h2, if_neg h3, hsame]

theorem touches_setRetention {nodes staging : Nat} : Touches [.stw] s (setRetention kib nodes staging s) := by
  have hone : ∀ (m : RegionName) (a b : Nat) (y : State), Touches [.stw] y (resizeRegion m a (wantRegion m b y)) := fun m a b y =>
    Touches.trans (touches_put (s := y) (t := wantRegion m b y) .stw rfl) (touches_put .stw rfl)
  unfold setRetention
  exact ((hone _ _ _ _).trans (hone _ _ _ _)).trans (hone _ _ _ _)

/-! ## Placement -/

/-- Opening of the frame from which a transferred Leaf is in no census of the home role. -/
def transferOpens (frame : Nat) (s : State) : Nat :=
  match (findRole .plaza s).bind (frameNamed frame) with
  | some t => frameOpens t.frame t.period
  | none => frame * frameNs s

/-- What the commands of placement say. -/
def said (p : Place) : Nat × Nat × Nat × List Word32 × List Nat × List Nat :=
  (p.seed, p.separation, p.standinMin, p.locations, p.noHost, p.drained)

theorem place_sendPart {p : TablePart} : (sendPart p s).place = s.place := by
  unfold sendPart sendPartFrom
  dsimp only
  exact quiet_arcIngest.place (by decide)

theorem place_sendHelper {k : Nat} {p : Nat × PartEntry} : (sendHelper k p s).place = s.place := by
  unfold sendHelper
  split
  · rfl
  · rfl

theorem place_reportShortage {hosts : List (Nat × Nat × Nat)} {l : List (Nat × Nat)} : (reportShortage hosts l s).place = s.place := by
  unfold reportShortage
  dsimp only
  exact ((touches_forEach fun _ _ => touches_raise).place (by decide)).trans
    ((touches_forEach fun _ _ => touches_raise).place (by decide))

/-- The leader's table has the next generation, and what the commands of placement say stands. -/
theorem place_issueTable {role : Role} (hr : findRole .forum s = some role) :
    said (issueTable s).place = said s.place ∧ (issueTable s).place.generation = s.place.generation + 1 := by
  unfold issueTable
  rw [hr]
  dsimp -zeta only
  extract_lets gen hosts helpers a b d e f gone
  have hb : b.place = a.place := forEach_keeps (·.place) fun _ _ => place_sendHelper
  have hd : d.place = b.place := place_reportShortage.trans (forEach_keeps (·.place) fun _ _ => place_sendPart)
  have he : e.place = d.place := touches_complete.place (by decide)
  have hf : f.place = e.place := touches_completeWhere.place (by decide)
  rw [show (completeWhere _ Config.ok [] f).place = f.place from touches_completeWhere.place (by decide), hf, he, hd, hb]
  exact ⟨rfl, rfl⟩

/-- A Forum replica keeps what a command of placement says, and the leader issues the next table (R395). -/
theorem forumCommand_keeps {own : State → State × Reply} {w : Work} {f : Place → Place} {form : Bool} (h : Taken c r s)
    (hc : c.relayable = false) (hf : form = true) (hup : engineUp 12 s = true) (hr : (findRole .forum s).isSome = true)
    (ho : ∀ u, own (plumb s u) = forumCommand w (onPlace f) (plumb s u)) :
    ∃ t, run (serve c r form (engineServed 12 own)) s = .next t ∧ said t.place = said (f s.place) ∧
      t.place.generation = (f s.place).generation + bnat (isLeader s) := by
  refine ⟨_, serve_local h hc hf, ?_⟩
  rw [(agree_takeRequest r c.code s).eq]
  generalize takeRequest r c.code s = u
  obtain ⟨role, hrole⟩ := Option.isSome_iff_exists.mp hr
  have hsome : (findRole .forum (plumb s u)).isNone = false := by
    rw [show findRole .forum (plumb s u) = some role from hrole]
    rfl
  have hlead : isLeader (plumb s u) = isLeader s := rfl
  rw [engineServed_up hup, ho]
  unfold forumCommand
  rw [hsome, hlead]
  have hplace : ∀ (i : Issuer) (x : Reply) (y : State), y.place = f s.place →
      (defer c r r.issuer x.work (answer i c.code r.tag x.status x.work.isNone x.payload x.bytes y)).place = f s.place :=
    fun i x y hy => by
      rw [show (defer c r r.issuer x.work _).place = _ from congrArg (·.place) (agree_defer (agree_answer rfl)).eq]
      exact hy
  have hroles : ∀ (i : Issuer) (x : Reply) (y : State), y.roles = s.roles →
      (defer c r r.issuer x.work (answer i c.code r.tag x.status x.work.isNone x.payload x.bytes y)).roles = s.roles :=
    fun i x y hy => by
      rw [show (defer c r r.issuer x.work _).roles = _ from congrArg (·.roles) (agree_defer (agree_answer rfl)).eq]
      exact hy
  cases isLeader s with
  | true =>
    rw [if_neg Bool.false_ne_true, if_pos rfl]
    set x : Reply := { status := Config.accepted, work := some w, after := issueTable }
    have hp := hplace (x.who.getD r.issuer) x (onPlace f (plumb s u)) rfl
    have hf := (findRole_of_roles (k := .forum) (hroles (x.who.getD r.issuer) x (onPlace f (plumb s u)) rfl)).trans hrole
    obtain ⟨h1, h2⟩ := place_issueTable hf
    rw [hp] at h1 h2
    exact ⟨h1, h2⟩
  | false =>
    rw [if_neg Bool.false_ne_true, if_neg Bool.false_ne_true]
    set x : Reply := { status := Config.accepted, work := some w, after := complete w Config.ok [f32 0 0] }
    have hp := (touches_complete (w := w) (st := Config.ok) (p := [f32 0 0])).place (by decide) |>.trans
      (hplace (x.who.getD r.issuer) x (onPlace f (plumb s u)) rfl)
    exact ⟨congrArg said hp, congrArg (·.generation) hp⟩

theorem leaveFrom_facts {opens : Nat} {k : Child} : (leaveFrom opens k).source = k.source ∧
    ((leaveFrom opens k).joinFt ≤ opens → ∃ f ∈ (leaveFrom opens k).leaveFt, f ≤ opens) := by
  unfold leaveFrom
  dsimp only
  split
  · next h => exact ⟨rfl, fun hj => absurd hj (Nat.not_le.mpr h)⟩
  · refine ⟨rfl, fun _ => ⟨_, rfl, ?_⟩⟩
    split
    · exact Nat.min_le_right _ _
    · exact Nat.le_refl _

/-- From a frame's opening on a transferred Leaf is in no census of the home role (R156). -/
theorem leaves_census {die opens : Nat} {x : Role} (hx : x ∈ (onChild .plaza die (leaveFrom opens) s).roles) (hk : x.kind = .plaza)
    {k : Child} (hc : k ∈ x.children) (hd : k.source = die) (hj : k.joinFt ≤ opens) : ∃ f ∈ k.leaveFt, f ≤ opens := by
  obtain ⟨y, -, rfl⟩ := List.mem_map.mp hx
  by_cases hy : y.kind = .plaza
  · rw [if_pos hy] at hc
    obtain ⟨z, -, rfl⟩ := List.mem_map.mp hc
    by_cases hz : z.source = die
    · rw [if_pos hz] at hj ⊢
      exact leaveFrom_facts.2 hj
    · rw [if_neg hz] at hd
      exact absurd hd hz
  · rw [if_neg hy] at hk
    exact absurd hk hy

/-! ## The obligation -/

/-- Settles O3: the chains are renewed, the regions take their sizes, and the leader's table follows what it was told. -/
theorem ledgerPlacementCommandsComplete : Obligations.LedgerPlacementCommandsComplete := by
  unfold Obligations.LedgerPlacementCommandsComplete
  refine ⟨fun r s h hup => ?ledgerStatus, fun r kib desc nodes staging s h hup hlo hhi hd huse hnames hsplit => ?retain,
    fun r desc frame kind s h hup hlo hhi hne hd => ?read, fun r desc select s h hup hsel hr hd => ?sink,
    fun r seed separation standinMin d1 d2 locations noHost s h hup hsep hmin hd1 hd2 hr => ?constraints,
    fun r tray s h hup htray hr hknown => ?drain, fun r tray s h hup htray hr hdrained => ?restore,
    fun r s h hup => ?placeStatus, fun r die frame s h hup hdie hnew => ?transfer, fun r die frame s h hup hdie hold => ?again⟩
  case ledgerStatus =>
    refine completes_of h rfl fun u => ?_
    rw [engineServed_up hup]
    exact ⟨rfl, rfl⟩
  case retain =>
    refine completesWith_of h (by simp [hlo, hhi]) (fun u => ?_) fun _ _ ht => ht
    rw [engineServed_up hup]
    have hd' : (!descOk (issuerPart r.issuer) desc (plumb s u)) = false := by
      rw [show descOk (issuerPart r.issuer) desc (plumb s u) = true from hd]
      rfl
    have huse' : ¬ 1024 * kib < regionUse (plumb s u) := Nat.not_lt.mpr huse
    have hsplit' : retainSplit kib (plumb s u) = some (nodes, staging) := hsplit
    rw [hd', if_neg Bool.false_ne_true, if_neg huse', hsplit']
    generalize chainFind 2 0 (plumb s u) = old
    have hled : (chainOpen 2 0 desc.partition desc (withdrawOld old (plumb s u))).2.led = s.led := withdrawOld_facts.1
    have hregions : (chainOpen 2 0 desc.partition desc (withdrawOld old (plumb s u))).2.stw.regions = s.stw.regions :=
      withdrawOld_facts.2
    have hnames' : namesOf s = regionNames := hnames
    have hchain := chain_renewed (s := plumb s u) (old := old) (k := 2) (i := 0) (d := desc)
    obtain ⟨h1, h2, h3, h4⟩ := regions_retained (kib := kib) (nodes := nodes) (staging := staging) hnames' hregions
    rw [← (touches_setRetention (kib := kib) (nodes := nodes) (staging := staging)).led (by decide)] at hled
    rw [← (touches_setRetention (kib := kib) (nodes := nodes) (staging := staging)).buf (by decide)] at hchain
    cases old with
    | none => exact ⟨rfl, h1, h2, h3, h4, hled, hchain⟩
    | some x => exact ⟨rfl, h1, h2, h3, h4, hled, hchain⟩
  case read =>
    refine outputs_of h rfl (by simp [hlo, hhi]) (fun u => ?_) hd
    have hne' : (recordsHeld frame kind (plumb s u)).isEmpty = false := by
      rw [show recordsHeld frame kind (plumb s u) = recordsHeld frame kind s from rfl]
      simpa using hne
    rw [engineServed_up hup]
    dsimp only
    rw [hne', if_neg Bool.false_ne_true]
    rfl
  case sink =>
    refine completesWith_of h (by simp [hsel]) (fun u => ?_) fun _ _ ht => ht
    rw [engineServed_up hup]
    have hd' : (!descOk (issuerPart r.issuer) desc (plumb s u)) = false := by
      rw [show descOk (issuerPart r.issuer) desc (plumb s u) = true from hd]
      rfl
    have hr' : (findRole .forum (plumb s u)).isNone = false := by
      rw [show findRole .forum (plumb s u) = findRole .forum s from rfl, ← Option.not_isSome, hr]
      rfl
    rw [hd', hr', if_neg Bool.false_ne_true, if_neg Bool.false_ne_true]
    generalize chainFind 3 0 (plumb s u) = old
    have hled : (chainOpen 3 0 desc.partition desc (withdrawOld old (plumb s u))).2.led = s.led := withdrawOld_facts.1
    have hchain := chain_renewed (s := plumb s u) (old := old) (k := 3) (i := 0) (d := desc)
    cases old with
    | none => exact ⟨rfl, rfl, hchain⟩
    | some x => exact ⟨rfl, congrArg (fun l : LeafLedger => { l with sink := select }) hled, hchain⟩
  case constraints =>
    obtain ⟨t, ht, hsaid, hgen⟩ := forumCommand_keeps (form := separation ≤ 3 && standinMin ≤ 256) (w := .constraints)
      (f := fun p => { p with seed := seed, separation := separation, standinMin := standinMin, locations := locations, noHost := noHost })
      (own := fun s => if !descOk (issuerPart r.issuer) d1 s || !descOk (issuerPart r.issuer) d2 s then deny Config.bufferFault s
        else forumCommand .constraints (onPlace fun p => { p with
          seed := seed, separation := separation, standinMin := standinMin, locations := locations, noHost := noHost }) s)
      h rfl (by simp [hsep, hmin]) hup hr fun u => by
        have hd1' : descOk (issuerPart r.issuer) d1 (plumb s u) = true := hd1
        have hd2' : descOk (issuerPart r.issuer) d2 (plumb s u) = true := hd2
        rw [hd1', hd2']
        exact if_neg Bool.false_ne_true
    obtain ⟨hseed, hs, hm, hl, hn, -⟩ : seed = _ ∧ separation = _ ∧ standinMin = _ ∧ locations = _ ∧ noHost = _ ∧ _ = _ := by
      simpa [said] using hsaid.symm
    exact ⟨t, ht, hseed.symm, hs.symm, hm.symm, hl.symm, hn.symm, hgen⟩
  case drain =>
    obtain ⟨t, ht, hsaid, hgen⟩ := forumCommand_keeps (form := tray < 1024) (w := .drain tray)
      (f := fun p => { p with drained := addOnce tray p.drained })
      (own := fun s => if (findRole .forum s).isSome && !knownTray tray s then deny Config.notFound s
        else forumCommand (.drain tray) (onPlace fun p => { p with drained := addOnce tray p.drained }) s)
      h rfl (by simp [htray]) hup hr fun u => by
        have hknown' : knownTray tray (plumb s u) = true := hknown
        rw [hknown', Bool.not_true, Bool.and_false]
        exact if_neg Bool.false_ne_true
    exact ⟨t, ht, congrArg (·.2.2.2.2.2) hsaid, hgen⟩
  case restore =>
    obtain ⟨t, ht, hsaid, hgen⟩ := forumCommand_keeps (form := tray < 1024) (w := .restore tray)
      (f := fun p => { p with drained := p.drained.filter (· != tray) })
      (own := fun s => if (findRole .forum s).isSome && !s.place.drained.contains tray then deny Config.notFound s
        else forumCommand (.restore tray) (onPlace fun p => { p with drained := p.drained.filter (· != tray) }) s)
      h rfl (by simp [htray]) hup hr fun u => by
        have hin : (plumb s u).place.drained.contains tray = true := List.contains_iff_mem.mpr hdrained
        rw [hin, Bool.not_true, Bool.and_false]
        exact if_neg Bool.false_ne_true
    exact ⟨t, ht, congrArg (·.2.2.2.2.2) hsaid, hgen⟩
  case placeStatus =>
    refine completes_of h rfl fun u => ?_
    rw [engineServed_up hup]
    exact ⟨rfl, rfl⟩
  case transfer =>
    have hopens : ∀ opens, opens = transferOpens frame s → ∃ t, exec (.placeCensusTransfer r die frame) s = .next t ∧
        CompletesWith { code := 0x0505, allow := { p := false, q := true }, only := .plaza } r
          (fun t => t.place = { s.place with transfers := s.place.transfers ++ [(die, frame)] } ∧
            ∀ x ∈ t.roles, x.kind = .plaza → ∀ k ∈ x.children, k.source = die → k.joinFt ≤ opens →
              ∃ f ∈ k.leaveFt, f ≤ opens) [] t := by
      rintro _ rfl
      refine completesWith_of h (decide_eq_true hdie) (fun u => ?_) fun _ _ ht => ht
      rw [engineServed_up hup]
      have hout : (plumb s u).place.transfers.contains (die, frame) = false := by
        rw [List.contains_eq_mem]
        exact decide_eq_false hnew
      dsimp only
      rw [hout, if_neg Bool.false_ne_true]
      exact ⟨rfl, rfl, fun x hx hk k hc hd hj => leaves_census hx hk hc hd hj⟩
    obtain ⟨t, ht, hc⟩ := hopens _ rfl
    exact ⟨t, transferOpens frame s, ht, rfl, hc⟩
  case again =>
    refine completes_of h (decide_eq_true hdie) fun u => ?_
    rw [engineServed_up hup]
    have hin : (plumb s u).place.transfers.contains (die, frame) = true := List.contains_iff_mem.mpr hold
    rw [hin, if_pos rfl]
    exact ⟨rfl, rfl⟩

end LedgerPlacement

end Sys2Proof.Machine
end

section
/-!
Cohort occurrences: what verdicts, closes and notices leave of them.
-/

namespace Sys2Proof.Machine

section Occurrences

variable {β : Type} {p : Conf → β} {s t : State} {k : RoleKind} {o : Occurrence} {r : CohortRule} {job marker occ : Nat}

/-! ## What a projection of the cohort engine's state reads -/

/-- `p` reads no runs. -/
def SparesRuns (p : Conf → β) : Prop := ∀ c runs, p { c with runs := runs } = p c

/-- `p` reads no counts of verdicts. -/
def SparesCounted (p : Conf → β) : Prop := ∀ c judged unjudged, p { c with judged := judged, unjudged := unjudged } = p c

/-- An occurrence but for the rules whose verdict has been given. -/
def unsettled (o : Occurrence) : Occurrence := { o with settled := [] }

/-- `p` reads nothing of the verdicts given on an occurrence. -/
def SparesSettled (p : Conf → β) : Prop :=
  ∀ c g, (∀ o, unsettled (g o) = unsettled o) → p { c with occs := c.occs.map g } = p c

/-- The occurrences but for their verdicts. -/
def unsettledOccs (c : Conf) : List Occurrence := c.occs.map unsettled

theorem unsettledOccs_sparesRuns : SparesRuns unsettledOccs := fun _ _ => rfl
theorem unsettledOccs_sparesCounted : SparesCounted unsettledOccs := fun _ _ _ => rfl

theorem unsettledOccs_sparesSettled : SparesSettled unsettledOccs := fun c g hg => by
  unfold unsettledOccs
  dsimp only
  rw [List.map_map]
  exact List.map_congr_left fun o _ => hg o

/-! ## Verdicts -/

theorem conf_raiseStraggler {code die j : Nat} : (raiseStraggler code die j s).conf = s.conf := by
  unfold raiseStraggler
  exact (touches_raise.andThen (touches_when touches_notify) (by decide)).conf (by decide)

theorem conf_stepRun {die : Nat} {b : Bool} (hp : SparesRuns p) : p (stepRun r die b s).conf = p s.conf := by
  unfold stepRun
  extract_lets same a x onset cleared y z
  have hz : p z.conf = p s.conf := hp s.conf _
  split
  · rw [conf_raiseStraggler]
    exact hz
  · unfold when
    split
    · rw [conf_raiseStraggler]
      exact hz
    · exact hz

theorem conf_judgeMembers {n : Nat} {l : List (Nat × Option Int)} (hp : SparesRuns p) : p (judgeMembers r n l s).conf = p s.conf :=
  forEach_keeps (fun s => p s.conf) fun _ _ => conf_stepRun hp

theorem conf_judgeTray (hp : SparesRuns p) (hc : SparesCounted p) : p (judgeTray o r s).conf = p s.conf := by
  unfold judgeTray
  dsimp only
  split
  · split
    · exact (conf_judgeMembers hp).trans (hc _ _ _)
    · exact hc _ _ _
  · exact hc _ _ _

theorem conf_giveVerdict (hp : SparesRuns p) (hc : SparesCounted p) (hs : SparesSettled p) :
    p (giveVerdict o r s).conf = p s.conf := by
  unfold giveVerdict
  extract_lets y unjudged
  have hy : p y.conf = p s.conf := hs _ _ fun o => by
    split
    · rfl
    · rfl
  split
  · exact (conf_judgeTray hp hc).trans hy
  · split
    · exact hy
    · split
      · split
        · exact (hc _ _ _).trans hy
        · exact (conf_judgeMembers hp).trans ((hc _ _ _).trans hy)
      · exact (hc _ _ _).trans hy

theorem conf_giveVerdicts {fuel : Nat} (hp : SparesRuns p) (hc : SparesCounted p) (hs : SparesSettled p) :
    p (giveVerdicts fuel s).conf = p s.conf := by
  induction fuel generalizing s with
  | zero => rfl
  | succ fuel ih =>
    unfold giveVerdicts
    split
    · rfl
    · exact ih.trans (conf_giveVerdict hp hc hs)

/-- Every verdict that can be wanted on an occurrence has been given, and no wider one can come. -/
def finished (o : Occurrence) : Bool :=
  o.role == .plaza && o.closed && o.holdUntil.isNone && (covering o).all fun r => isJudged r o

theorem settleVerdicts_eq : settleVerdicts s = onConf (fun c => { c with occs := c.occs.filter fun o => !finished o })
    (giveVerdicts (4 * s.conf.occs.length + 4) s) := rfl

/-- `p` reads no occurrence. -/
def SparesOccs (p : Conf → β) : Prop := ∀ c occs, p { c with occs := occs } = p c

theorem SparesOccs.settled (h : SparesOccs p) : SparesSettled p := fun c _ _ => h c _

theorem conf_settleVerdicts (hp : SparesRuns p) (hc : SparesCounted p) (ho : SparesOccs p) :
    p (settleVerdicts s).conf = p s.conf := by
  rw [settleVerdicts_eq]
  exact (ho _ _).trans (conf_giveVerdicts hp hc ho.settled)

/-! ## Reports and messages that verdicts leave -/

theorem kept_raiseStraggler {code die j : Nat} : Kept s (raiseStraggler code die j s) := by
  unfold raiseStraggler
  exact kept_raise.trans (kept_when kept_notify)

theorem kept_onConf {f : Conf → Conf} : Kept s (onConf f s) := Kept.refl s

theorem kept_stepRun {die : Nat} {b : Bool} : Kept s (stepRun r die b s) := by
  unfold stepRun
  dsimp only
  exact kept_ite (kept_onConf.trans kept_raiseStraggler) (kept_onConf.trans (kept_when kept_raiseStraggler))

theorem kept_judgeMembers {n : Nat} {l : List (Nat × Option Int)} : Kept s (judgeMembers r n l s) :=
  kept_forEach fun _ _ => kept_stepRun

theorem kept_judgeTray : Kept s (judgeTray o r s) := by
  unfold judgeTray
  dsimp only
  split
  · exact kept_ite (kept_onConf.trans kept_judgeMembers) kept_onConf
  · exact kept_onConf

theorem kept_giveVerdict : Kept s (giveVerdict o r s) := by
  unfold giveVerdict
  extract_lets y unjudged
  have hy : Kept s y := kept_onConf
  refine kept_ite (hy.trans kept_judgeTray) ?_
  split
  · exact hy
  · split
    · exact kept_ite (hy.trans kept_onConf) (hy.trans (kept_onConf.trans kept_judgeMembers))
    · exact hy.trans kept_onConf

theorem kept_giveVerdicts {fuel : Nat} : Kept s (giveVerdicts fuel s) := by
  induction fuel generalizing s with
  | zero => exact Kept.refl s
  | succ fuel ih =>
    unfold giveVerdicts
    split
    · exact Kept.refl s
    · exact kept_giveVerdict.trans ih

theorem kept_settleVerdicts : Kept s (settleVerdicts s) := kept_giveVerdicts.trans kept_onConf

theorem kept_applyNotice {n : ThresholdNotice} : Kept s (applyNotice n s) := by
  unfold applyNotice
  split
  · exact Kept.refl s
  · split
    · exact kept_when kept_raise
    · exact kept_ite (kept_onConf.trans kept_settleVerdicts) (Kept.refl s)

/-! ## Occurrences that close -/

theorem conf_sendHist {h : HistRecord} {q : Role} : (sendHist q h s).conf = s.conf := by
  unfold sendHist
  dsimp only
  exact ((touches_forEach fun _ _ => touches_enqueueSeries).conf (by decide)).trans (quiet_arcIngest.conf (by decide))

theorem conf_sendNotice {n : ThresholdNotice} {q : Role} : (sendNotice q n s).conf = s.conf := by
  unfold sendNotice
  exact ((touches_forEach fun _ _ => touches_sendControl).conf (by decide)).trans (quiet_arcIngest.conf (by decide))

theorem conf_noticeOf {source : Nat} : (noticeOf o r source s).2.conf = s.conf := by
  unfold noticeOf
  dsimp only
  split <;> rfl

/-- `p` reads neither occurrences nor kept histograms nor what is shut. -/
def SparesClosed (p : Conf → β) : Prop :=
  ∀ c occs hists shut, p { c with occs := occs, hists := hists, shut := shut } = p c

theorem SparesClosed.occs (h : SparesClosed p) : SparesOccs p := fun c occs => h c occs c.hists c.shut

/-- A tier's notice for a rule goes to its children, and its verdict is counted. -/
def tellNotice (o : Occurrence) (source : Nat) (q : Role) (r : CohortRule) (s : State) : State :=
  sendNotice q (noticeOf o r source s).1 (onConf (fun c =>
    if (noticeOf o r source s).1.notJudged then { c with unjudged := c.unjudged + 1 } else { c with judged := c.judged + 1 })
    (noticeOf o r source s).2)

theorem conf_tellNotice {source : Nat} {q : Role} (hc : SparesCounted p) : p (tellNotice o source q r s).conf = p s.conf := by
  unfold tellNotice
  rw [conf_sendNotice]
  unfold onConf
  dsimp only
  rw [conf_noticeOf]
  split
  · exact hc _ _ _
  · exact hc _ _ _

theorem conf_tellNotices {l : List CohortRule} {source : Nat} {q : Role} (hc : SparesCounted p) :
    p (forEach l (tellNotice o source q) s).conf = p s.conf :=
  forEach_keeps (fun s => p s.conf) fun _ _ => conf_tellNotice hc

/-- An occurrence that a tier closes is held no more, is shut, and its notices go out. -/
theorem closeAtTier_eq {o : Occurrence} {q : Role} : ∃ l x h, closeAtTier o q s = forEach l (tellNotice x (roleSource q) q)
    (shutOcc q.kind o.job o.marker o.occ (keepHist h
      (onConf (fun c => { c with occs := c.occs.filter fun x => !isOcc q.kind o.job o.marker o.occ x }) s))) := by
  unfold closeAtTier
  exact ⟨_, _, _, rfl⟩

theorem conf_closeOcc (hp : SparesRuns p) (hc : SparesCounted p) (hx : SparesClosed p) : p (closeOcc o s).conf = p s.conf := by
  unfold closeOcc
  split
  · rfl
  · split
    · unfold closeAtPlaza
      dsimp only
      refine (conf_settleVerdicts hp hc hx.occs).trans ?_
      unfold when
      split
      · rw [conf_sendHist]
        exact hx s.conf _ _ _
      · exact hx s.conf _ _ _
    · obtain ⟨l, x, h, he⟩ := closeAtTier_eq (s := s) (o := o)
      rw [he, conf_tellNotices hc]
      exact hx s.conf _ _ _

theorem conf_closeComplete {fuel : Nat} (hp : SparesRuns p) (hc : SparesCounted p) (hx : SparesClosed p) :
    p (closeComplete k fuel s).conf = p s.conf := by
  induction fuel generalizing s with
  | zero => rfl
  | succ fuel ih =>
    unfold closeComplete
    dsimp only
    split
    · rfl
    · exact ih.trans (conf_closeOcc hp hc hx)

theorem conf_openOcc {cls frame period : Nat} (hc : SparesCounted p) (hx : SparesClosed p) :
    p (openOcc k job marker cls occ frame period s).conf = p s.conf := by
  unfold openOcc
  split
  · rfl
  · split
    · exact (hx _ _ _ _).trans (hc _ _ _)
    · exact hx s.conf _ s.conf.hists s.conf.shut

theorem conf_plazaLate {x : SeriesRecord} {e : LateEntry} (hc : SparesCounted p) (hx : SparesClosed p) :
    p (plazaLate x e s).conf = p s.conf := by
  unfold plazaLate
  extract_lets y
  have hy : p y.conf = p s.conf := conf_openOcc hc hx
  split
  · exact hy
  · split
    · exact hy
    · exact (hx.occs _ _).trans hy

/-! ### What is shut -/

theorem isShut_of_shut (h : t.conf.shut = s.conf.shut) : isShut k job marker occ t = isShut k job marker occ s := by
  unfold isShut
  rw [h]

theorem isShut_shutOcc : isShut k job marker occ (shutOcc k job marker occ s) = true := by
  unfold isShut
  exact List.any_eq_true.mpr ⟨_, List.mem_append_right _ (List.mem_singleton.mpr rfl), by simp⟩

theorem isOcc_iff {x : Occurrence} : isOcc k job marker occ x = true ↔ x.role = k ∧ x.job = job ∧ x.marker = marker ∧ x.occ = occ := by
  unfold isOcc
  simp [and_assoc]

theorem findOcc_names (h : findOcc k job marker occ s = some o) : o.role = k ∧ o.job = job ∧ o.marker = marker ∧ o.occ = occ :=
  isOcc_iff.mp (List.find?_some (p := isOcc k job marker occ) h)

/-- An occurrence that closes does not open again (R192). -/
theorem closeOcc_shut {q : Role} (hr : findRole o.role s = some q) : isShut o.role o.job o.marker o.occ (closeOcc o s) = true := by
  unfold closeOcc
  rw [hr]
  dsimp only
  split
  · next hk =>
    rw [hk]
    unfold closeAtPlaza
    dsimp only
    refine (isShut_of_shut (conf_settleVerdicts (p := (·.shut)) (fun _ _ => rfl) (fun _ _ _ => rfl) fun _ _ => rfl)).trans ?_
    unfold when
    split
    · refine (isShut_of_shut (congrArg (·.shut) conf_sendHist)).trans ?_
      exact (isShut_of_shut rfl).trans isShut_shutOcc
    · exact (isShut_of_shut rfl).trans isShut_shutOcc
  · rw [← findRole_kind hr]
    obtain ⟨l, x, h, he⟩ := closeAtTier_eq (s := s) (o := o) (q := q)
    rw [he]
    exact (isShut_of_shut (conf_tellNotices (p := (·.shut)) fun _ _ _ => rfl)).trans isShut_shutOcc

end Occurrences

end Sys2Proof.Machine
end

section
/-!
Series records, occurrences and threshold notices at the tiers.
-/

namespace Sys2Proof.Machine

section Cohorts

variable {s t : State} {k : RoleKind} {o x : Occurrence} {v : CohortRule} {n : ThresholdNotice} {rcd : SeriesRecord} {c : Child}
  {job marker occ : Nat} {role : Role}

/-! ## Series records -/

theorem childSeq_feedTemplate {die frame period : Nat} {w : BitVec 8} {i : SeriesIn} {e : Nat × Series} :
    (feedTemplate die frame period w i e s).conf.childSeq = s.conf.childSeq := by
  unfold feedTemplate
  extract_lets f a b
  have hb : b.conf.childSeq = s.conf.childSeq :=
    congrArg (·.childSeq) (((touches_forEach fun _ _ => touches_raise).conf (by decide)).trans rfl)
  unfold when
  split
  · refine Eq.trans ?_ hb
    exact forEach_keeps (·.conf.childSeq) fun _ _ => rfl
  · exact hb

theorem childSeq_feedTemplates {die frame period : Nat} {w : BitVec 8} {b : Bool} {i : SeriesIn} :
    (feedTemplates die frame period w b i s).conf.childSeq = s.conf.childSeq := by
  unfold feedTemplates toEngine
  split
  · refine forEach_keeps (·.conf.childSeq) fun e y => ?_
    unfold when
    split
    · exact childSeq_feedTemplate
    · rfl
  · exact congrArg (·.childSeq) (touches_absentAt.conf (by decide))

theorem childSeq_plazaSeries {missing : List Nat} :
    tget 0 rcd.die (plazaSeries rcd missing c s).conf.childSeq = max (tget 0 rcd.die s.conf.childSeq) (rcd.seq + 1) := by
  have hlate : ∀ (l : List LateEntry) (z : SeriesRecord) (y : State),
      (forEach l (plazaLate z) y).conf.childSeq = y.conf.childSeq := fun l z y =>
    forEach_keeps (·.conf.childSeq) fun _ _ => conf_plazaLate (p := (·.childSeq)) (fun _ _ _ => rfl) fun _ _ _ _ => rfl
  have hclose : ∀ (fuel : Nat) (y : State), (closeComplete .plaza fuel y).conf.childSeq = y.conf.childSeq := fun fuel y =>
    conf_closeComplete (p := (·.childSeq)) (fun _ _ => rfl) (fun _ _ _ => rfl) fun _ _ _ _ => rfl
  unfold plazaSeries arrived
  dsimp -zeta only
  extract_lets lateOff ss ls next gap y z
  have hy : tget 0 rcd.die y.conf.childSeq = max next (rcd.seq + 1) :=
    tget_tput_ne (Nat.ne_of_gt (Nat.lt_of_lt_of_le (Nat.succ_pos _) (Nat.le_max_right _ _)))
  have hz : z.conf.childSeq = y.conf.childSeq := childSeq_feedTemplates
  refine Eq.trans (congrArg (tget 0 rcd.die) (Eq.trans ?_ hz)) hy
  unfold toEngine
  split
  · refine (hclose _ _).trans ?_
    unfold when
    split
    · exact hlate _ _ _
    · rfl
  · exact congrArg (·.childSeq) (touches_absentAt.conf (by decide))

/-- A series record at a Plaza that hears of its Leaf. -/
theorem seriesRecord_runs {missing : List Nat} (hp : s.rst.aonOk = true) (hpl : s.fuse.plaza = true)
    (hr : findRole .plaza s = some role) (hc : childOf rcd.die role = some c) :
    ∃ y, y.conf = s.conf ∧ exec (.seriesRecord .plaza rcd missing) s
      = .next (if missing.contains 0 then loseRecord rcd y else plazaSeries rcd missing c y) := by
  refine ⟨arcIngest 1 (mkEntry rcd.die (seriesBytes rcd).length (.series rcd) s) s, quiet_arcIngest.conf (by decide), ?_⟩
  have hroles : findRole .plaza (arcIngest 1 (mkEntry rcd.die (seriesBytes rcd).length (.series rcd) s) s) = some role :=
    (findRole_of_roles (quiet_arcIngest.roles (by decide))).trans hr
  show execSeriesRecord .plaza rcd missing s = _
  unfold execSeriesRecord
  rw [run_when hp (by rw [hpl]; rfl)]
  dsimp only
  rw [hroles, show (some role).bind (childOf rcd.die) = some c from hc]

/-! ## Notices -/

/-- A notice held with an occurrence. -/
def holdNotice (n : ThresholdNotice) (o : Occurrence) : Occurrence := { o with noticed := o.noticed ++ [n] }

theorem applyNotice_fresh (ho : findOcc .plaza n.job n.marker (n.occ % 2 ^ 32) s = some o)
    (hnew : (o.noticed.find? fun x => x.rule == n.rule && x.scope == n.scope) = none)
    (hrule : (o.rules.any fun r => r.rule == n.rule && r.scope == n.scope) = true) :
    applyNotice n s = settleVerdicts (onOcc .plaza o.job o.marker o.occ (holdNotice n) s) := by
  unfold applyNotice
  rw [ho]
  dsimp only
  rw [hnew]
  exact if_pos hrule

theorem findOcc_onOcc {f : Occurrence → Occurrence} (hf : ∀ o, isOcc k job marker occ (f o) = isOcc k job marker occ o) :
    findOcc k job marker occ (onOcc k job marker occ f s) = (findOcc k job marker occ s).map f := by
  have hsame : ∀ o, isOcc k job marker occ (if isOcc k job marker occ o then f o else o) = isOcc k job marker occ o := fun o => by
    split
    · exact hf o
    · rfl
  show (s.conf.occs.map _).find? _ = (s.conf.occs.find? _).map f
  rw [find_map_same hsame]
  cases ho : s.conf.occs.find? (isOcc k job marker occ) with
  | none => rfl
  | some o => exact congrArg some (if_pos (List.find?_some ho))

/-- Verdicts leave an occurrence with the notices that it holds. -/
theorem findOcc_giveVerdicts {fuel : Nat} (ho : findOcc k job marker occ s = some o) :
    ∃ x, findOcc k job marker occ (giveVerdicts fuel s) = some x ∧ unsettled x = unsettled o := by
  have hocc : ∀ y : State, (findOcc k job marker occ y).map unsettled = (unsettledOccs y.conf).find? (isOcc k job marker occ) := fun y => by
    unfold findOcc unsettledOccs
    rw [List.find?_map]
    rfl
  have hsame := conf_giveVerdicts (s := s) (fuel := fuel) unsettledOccs_sparesRuns unsettledOccs_sparesCounted unsettledOccs_sparesSettled
  have hmap := (hocc (giveVerdicts fuel s)).trans ((congrArg _ hsame).trans (hocc s).symm)
  rw [ho] at hmap
  exact Option.map_eq_some_iff.mp hmap

theorem find_filter_of {l : List Occurrence} {a b : Occurrence → Bool} (h : l.find? a = some x) (hb : b x = true) :
    (l.filter b).find? a = some x := by
  induction l with
  | nil => cases h
  | cons y l ih =>
    rw [List.find?_cons] at h
    cases ha : a y with
    | true =>
      rw [ha] at h
      obtain rfl : y = x := Option.some.inj h
      rw [List.filter_cons_of_pos hb, List.find?_cons, ha]
    | false =>
      rw [ha] at h
      cases hy : b y with
      | true => rw [List.filter_cons_of_pos hy, List.find?_cons, ha]; exact ih h
      | false => rw [List.filter_cons_of_neg (by rw [hy]; decide)]; exact ih h

/-- An occurrence that is open, or is held, stays with the notices that it holds (R195). -/
theorem findOcc_settleVerdicts (ho : findOcc k job marker occ s = some o) (hopen : o.closed = false ∨ o.holdUntil.isSome = true) :
    ∃ x, findOcc k job marker occ (settleVerdicts s) = some x ∧ unsettled x = unsettled o := by
  obtain ⟨x, hx, hu⟩ := findOcc_giveVerdicts (fuel := 4 * s.conf.occs.length + 4) ho
  refine ⟨x, find_filter_of (b := fun o => !finished o) hx ?_, hu⟩
  have hclosed : x.closed = o.closed := congrArg (·.closed) hu
  have hhold : x.holdUntil = o.holdUntil := congrArg (·.holdUntil) hu
  dsimp only [finished]
  rw [hclosed, hhold]
  rcases hopen with h | h
  · rw [h]
    simp
  · rw [Option.isSome_iff_ne_none] at h
    rw [Option.isNone_eq_false_iff.mpr (Option.isSome_iff_ne_none.mpr h)]
    simp

/-- The state in which a Plaza's own notice is applied, in what its verdict reads. -/
theorem thresholdNotice_runs (hp : s.rst.aonOk = true) (hpl : s.fuse.plaza = true) (hup : engineUp 6 s = true)
    (hq : findRole .quarter s = none) (hr : findRole .plaza s = some role) :
    ∃ y, y.conf = s.conf ∧ exec (.thresholdNotice n) s = .next (applyNotice n y) := by
  set y := arcIngest 1 (mkEntry n.source 64 (.notice n) s) s with hy
  have hquiet : Quiet [.arc] s y := quiet_arcIngest
  have hroles : y.roles = s.roles := hquiet.roles (by decide)
  refine ⟨y, hquiet.conf (by decide), ?_⟩
  have hup' : engineUp 6 y = true := (hquiet.engineUp (by decide)).trans hup
  show execThresholdNotice n s = _
  unfold execThresholdNotice
  rw [run_when hp hpl]
  dsimp only
  rw [← hy, (findRole_of_roles hroles).trans hq]
  dsimp only
  rw [(findRole_of_roles hroles).trans hr]
  exact congrArg _ (toEngine_up hup')

theorem giveVerdict_counts (hs : v.scope ≠ 0) (hn : noticeFor v o = some n) :
    (giveVerdict o v s).conf.judged + (giveVerdict o v s).conf.unjudged = s.conf.judged + s.conf.unjudged + 1 ∧
    (giveVerdict o v s).conf.occs
      = s.conf.occs.map fun x => if isOcc .plaza o.job o.marker o.occ x then { x with settled := x.settled ++ [(v.rule, v.scope)] } else x := by
  have hmem : ∀ (t : Nat) (y : State), (judgeMembers v t o.entries y).conf.judged = y.conf.judged ∧
      (judgeMembers v t o.entries y).conf.unjudged = y.conf.unjudged ∧ (judgeMembers v t o.entries y).conf.occs = y.conf.occs := fun t y =>
    ⟨conf_judgeMembers (p := (·.judged)) fun _ _ => rfl, conf_judgeMembers (p := (·.unjudged)) fun _ _ => rfl,
      conf_judgeMembers (p := (·.occs)) fun _ _ => rfl⟩
  unfold giveVerdict
  dsimp only
  rw [if_neg hs, hn]
  dsimp only
  split
  · split
    · exact ⟨rfl, rfl⟩
    · obtain ⟨hj, hu, ho⟩ := hmem _ _
      rw [hj, hu, ho]
      exact ⟨Nat.add_right_comm _ _ _, rfl⟩
  · exact ⟨rfl, rfl⟩

theorem giveVerdicts_none {fuel : Nat} (h : verdictDue s = none) : giveVerdicts fuel s = s := by
  cases fuel with
  | zero => rfl
  | succ fuel =>
    unfold giveVerdicts
    rw [h]

/-- The one rule of the one closed occurrence, of which a notice has come, is judged (R194, R195). -/
theorem settleVerdicts_one (ho : s.conf.occs = [o]) (hrole : o.role = .plaza) (hclosed : o.closed = true)
    (hn : o.noticed = [n]) (hr : o.rules = [v]) (hrule : v.rule = n.rule) (hscope : v.scope = n.scope) (hs : v.scope ≠ 0)
    (hcls : v.classMask.getLsbD o.cls = true) (hset : o.settled = []) :
    (settleVerdicts s).conf.judged + (settleVerdicts s).conf.unjudged = s.conf.judged + s.conf.unjudged + 1 := by
  have hcover : covering o = [v] := by
    unfold covering
    rw [hr, List.filter_cons_of_pos (p := fun r : CohortRule => r.classMask.getLsbD o.cls) hcls]
    rfl
  have hnotice : noticeFor v o = some n := by
    unfold noticeFor
    rw [hn, List.find?_cons_of_pos (by rw [hrule, hscope]; simp)]
  have hlow : lowestFor v o s = true := by
    unfold lowestFor
    rw [ho]
    simp
  have hdue : verdictDue s = some (o, v) := by
    unfold verdictDue
    rw [ho, List.findSome?_cons, hcover]
    rw [hrole, hclosed, if_neg (by decide), List.find?_cons_of_pos]
    · rfl
    · rw [hnotice, hlow]
      unfold isJudged
      rw [hset]
      simp
  obtain ⟨hcount, hoccs⟩ := giveVerdict_counts (s := s) hs hnotice
  rw [ho, List.map_cons, List.map_nil, if_pos (isOcc_iff.mpr ⟨hrole, rfl, rfl, rfl⟩), hset] at hoccs
  have hlast : verdictDue (giveVerdict o v s) = none := by
    unfold verdictDue
    rw [hoccs, List.findSome?_cons, List.findSome?_nil]
    dsimp only
    rw [hrole, hclosed, if_neg (by decide),
      show covering { o with role := .plaza, closed := true, settled := [] ++ [(v.rule, v.scope)] } = [v] from hcover]
    rw [List.find?_cons_of_neg]
    · rfl
    · unfold isJudged
      simp
  rw [settleVerdicts_eq, ho]
  show (giveVerdicts 8 s).conf.judged + (giveVerdicts 8 s).conf.unjudged = _
  rw [show giveVerdicts 8 s = giveVerdicts 7 (giveVerdict o v s) by
    conv_lhs => unfold giveVerdicts
    rw [hdue], giveVerdicts_none hlast]
  exact hcount

/-! ## The end of a hold -/

theorem no_occ {l : List Occurrence} (h : ∀ x ∈ l, isOcc k job marker occ x = false) (f : Occurrence → Occurrence)
    (hf : ∀ x, isOcc k job marker occ (f x) = isOcc k job marker occ x) : ∀ x ∈ l.map f, isOcc k job marker occ x = false := by
  intro x hx
  obtain ⟨y, hy, rfl⟩ := List.mem_map.mp hx
  exact (hf y).trans (h y hy)

/-- An occurrence that is let go stands no more (R195). -/
theorem endNoticeHold_gone (h : findOcc k job marker occ s = some o) : findOcc k job marker occ (endNoticeHold o s) = none := by
  obtain ⟨rfl, rfl, rfl, rfl⟩ := findOcc_names h
  unfold endNoticeHold
  extract_lets left y without
  set z := onConf (fun c => { c with
    unjudged := c.unjudged + without.length
    occs := c.occs.filter fun x => !isOcc o.role o.job o.marker o.occ x }) y with hz
  have hgone : findOcc o.role o.job o.marker o.occ z = none := List.find?_eq_none.mpr fun x hx hi => by
    have hne := (List.mem_filter.mp hx).2
    rw [hi] at hne
    exact Bool.false_ne_true hne
  have hgive : findOcc o.role o.job o.marker o.occ (giveVerdicts (4 * z.conf.occs.length + 4) z) = none := by
    have hsame := conf_giveVerdicts (s := z) (fuel := 4 * z.conf.occs.length + 4) unsettledOccs_sparesRuns unsettledOccs_sparesCounted
      unsettledOccs_sparesSettled
    refine List.find?_eq_none.mpr fun x hx hi => ?_
    obtain ⟨w, hw, he⟩ : ∃ w ∈ z.conf.occs, unsettled w = unsettled x :=
      List.mem_map.mp ((congrArg (unsettled x ∈ ·) hsame).mp (List.mem_map_of_mem hx))
    have hwi : isOcc o.role o.job o.marker o.occ w = true := by
      have : isOcc o.role o.job o.marker o.occ (unsettled w) = isOcc o.role o.job o.marker o.occ (unsettled x) := by rw [he]
      exact this.trans hi
    exact List.find?_eq_none.mp hgone w hw hwi
  rw [settleVerdicts_eq]
  exact List.find?_eq_none.mpr fun x hx => List.find?_eq_none.mp hgive x (List.mem_of_mem_filter hx)

/-! ## The obligation -/

/-- Settles O7: verdicts spare what a record's sequence, a shut occurrence and a held notice are read from. -/
theorem cohortEventsComplete : Obligations.CohortEventsComplete := by
  unfold Obligations.CohortEventsComplete
  refine ⟨?_, ?_, ?_, ?_, ?_, ?_, ?_, ?_⟩
  · intro rcd missing role k s hp hpl hr hc hm
    obtain ⟨y, hy, ht⟩ := seriesRecord_runs (missing := missing) hp hpl hr hc
    rw [if_neg (by rwa [List.contains_iff_mem])] at ht
    refine ⟨_, ht, childSeq_plazaSeries.trans ?_⟩
    rw [hy]
  · intro rcd missing role k s hp hpl hr hc hm
    obtain ⟨y, hy, ht⟩ := seriesRecord_runs (missing := missing) hp hpl hr hc
    rw [if_pos (List.contains_iff_mem.mpr hm)] at ht
    refine ⟨_, ht, ?_⟩
    rw [← hy]
    rfl
  · intro role h r s s' hp hpl hk hr hup
    show execHistogramRecord role h s = _
    unfold execHistogramRecord
    rw [run_when hp (by rw [hpl, bne_iff_ne.mpr hk]; rfl)]
    dsimp only
    rw [(findRole_of_roles (quiet_arcIngest.roles (by decide))).trans hr]
    exact congrArg _ (toEngine_up hup)
  · intro role job marker occ o r s hp hup hv ho hopen hr
    obtain ⟨rfl, rfl, rfl, rfl⟩ := findOcc_names ho
    refine ⟨closeOcc o (untilFt (closeFtOf o s) s), ?_, closeOcc_shut (q := r) ?_⟩
    · show execOccurrenceCloseTimeout o.role o.job o.marker o.occ s = _
      unfold execOccurrenceCloseTimeout
      rw [run_powered hp, ho]
      dsimp only
      rw [hopen, hup, hv]
      rfl
    · exact (findRole_of_roles (touches_untilFt.roles (by decide))).trans hr
  · intro n o role v s hp hpl hup hq hr ho hopen hnew hrule
    obtain ⟨y, hy, ht⟩ := thresholdNotice_runs (n := n) hp hpl hup hq hr
    have ho' : findOcc .plaza n.job n.marker (n.occ % 2 ^ 32) y = some o := by
      unfold findOcc
      rw [hy]
      exact ho
    have hany : (o.rules.any fun r => r.rule == n.rule && r.scope == n.scope) = true :=
      List.any_eq_true.mpr ⟨v, List.mem_of_find?_eq_some hrule, List.find?_some (p := fun x : CohortRule => x.rule == n.rule && x.scope == n.scope) hrule⟩
    obtain ⟨-, hj, hm, hk⟩ := findOcc_names ho
    rw [applyNotice_fresh ho' hnew hany, hj, hm, hk] at ht
    have hheld := findOcc_onOcc (f := holdNotice n) (s := y) (k := .plaza) (job := n.job) (marker := n.marker) (occ := n.occ % 2 ^ 32) fun _ => rfl
    rw [ho'] at hheld
    obtain ⟨x, hx, hu⟩ := findOcc_settleVerdicts hheld hopen
    refine ⟨_, x, ht, hx, ?_⟩
    rw [show x.noticed = (holdNotice n o).noticed from congrArg (·.noticed) hu]
    exact List.mem_append_right _ (List.mem_singleton.mpr rfl)
  · intro n o role v s hp hpl hup hq hr ho hone hclosed hnone hrules hrule hscope hs hcls hset
    obtain ⟨y, hy, ht⟩ := thresholdNotice_runs (n := n) hp hpl hup hq hr
    have ho' : findOcc .plaza n.job n.marker (n.occ % 2 ^ 32) y = some o := by
      unfold findOcc
      rw [hy]
      exact ho
    have hany : (o.rules.any fun r => r.rule == n.rule && r.scope == n.scope) = true := by
      rw [hrules, List.any_cons, hrule, hscope]
      simp
    obtain ⟨hrole, -, -, -⟩ := findOcc_names ho
    rw [applyNotice_fresh ho' (by rw [hnone]; rfl) hany] at ht
    have hoccs : (onOcc .plaza o.job o.marker o.occ (holdNotice n) y).conf.occs = [holdNotice n o] := by
      show y.conf.occs.map _ = _
      rw [hy, hone, List.map_cons, List.map_nil, if_pos (isOcc_iff.mpr ⟨hrole, rfl, rfl, rfl⟩)]
    refine ⟨_, ht, (settleVerdicts_one hoccs hrole hclosed (by rw [holdNotice, hnone]; rfl) hrules hrule hscope hs hcls hset).trans ?_⟩
    show y.conf.judged + y.conf.unjudged + 1 = _
    rw [hy]
  · intro n role k s hp hpl hr hkind hk
    have hroles : (arcIngest 1 (mkEntry n.source 64 (.notice n) s) s).roles = s.roles := quiet_arcIngest.roles (by decide)
    show ∃ t, execThresholdNotice n s = .next t ∧ _
    unfold execThresholdNotice
    refine ⟨_, run_when hp hpl, ?_⟩
    dsimp only
    rw [(findRole_of_roles hroles).trans hr]
    dsimp only
    rw [hkind]
    refine Queued.mono ?_ (kept_when (kept_toEngine kept_applyNotice))
    exact queued_forEach hk (fun _ => queued_sendControl) fun _ _ => kept_sendControl
  · intro job marker occ o h s hp ho hh
    refine ⟨endNoticeHold o (untilTimer h s), ?_, endNoticeHold_gone (k := .plaza) ?_⟩
    · show execThresholdHoldExpiry job marker occ s = _
      unfold execThresholdHoldExpiry
      rw [run_powered hp, ho]
      dsimp only
      rw [hh]
    · unfold findOcc
      rw [touches_untilTimer.conf (by decide)]
      exact ho

end Cohorts

end Sys2Proof.Machine
end

section
/-!
What a power-on leaves, up to what the reserved bits of some registers read: the manual leaves those open, and so does the
model. `PowerOnValues` (O46) says as much as that they read 0, so that neither it nor its negation follows from the model.
-/

namespace Sys2Proof.Machine

section PowerOn

set_option maxRecDepth 100000

variable {f : FuseMap} {k off : Nat} {s : State}

/-- The state after a power-on. -/
def onPower (f : FuseMap) (k : Nat) (s : State) : State :=
  hotJoin (poweredOn f k (if s.rst.aonOk then losePower s else s))

theorem powerOn_runs : exec (.powerOn f k) s = .next (onPower f k s) := rfl

/-- Offsets of the registers with reserved bits of which O46 names the whole value. -/
def reservedOffsets : List Nat := [0x00C, 0x028, 0x040, 0x044, 0x500, 0x700, 0x900, 0xB00]

/-- The reserved bits of those registers read 0. -/
def ReservedReadsZero : Prop := ∀ n, ∀ o ∈ reservedOffsets, Config.reservedRead o n &&& hrwOpenBits o = 0

/-- Offsets of the registers that O46 says read 0, whatever the fuse map. -/
def clearedOffsets : List Nat :=
  [0x018, 0x01C, 0x020, 0x024, 0x040, 0x044, 0x080, 0x084, 0x08C, 0x090, 0x094, 0x09C, 0x0A0, 0x0A4, 0x0A8, 0x0C0, 0x0C4, 0x500,
    0x700, 0x900, 0xB00]

theorem hrwRead_closed (h : Config.reservedRead off s.free &&& hrwOpenBits off = 0) : hrwRead off s = hrwValue off s := by
  unfold hrwRead
  rw [h, Nat.or_zero]

theorem hrwRead_whole (h : hrwOpenBits off = 0) : hrwRead off s = hrwValue off s :=
  hrwRead_closed (by rw [h, Nat.and_zero])

/-- A register whose value is 0 reads its reserved bits. -/
theorem reserved_of_read (h : hrwRead off s = 0) : Config.reservedRead off s.free &&& hrwOpenBits off = 0 :=
  (Nat.or_eq_zero_iff.mp h).2

/-- A block without power, whose free values are drawn from `n` on. -/
def unpowered (n : Nat) : State := { State.reset with rst := { ResetCtl.start with aonOk := false }, free := n }

theorem reservedReadsZero_of (h : Obligations.PowerOnValues) : ReservedReadsZero := by
  intro n
  obtain ⟨t, ht, -, -, -, hcfg, -, -, -, -, -, -, hzero, hsts, -⟩ := h { FuseMap.blank with crcOk := true, plaza := false } 0 (unpowered n)
  obtain rfl : onPower { FuseMap.blank with crcOk := true, plaza := false } 0 (unpowered n) = t := by injection ht
  have hclear : ∀ o ∈ [0x040, 0x044, 0x500, 0x700, 0x900, 0xB00], Config.reservedRead o n &&& hrwOpenBits o = 0 := fun o ho =>
    reserved_of_read (hzero o (by revert o; decide))
  exact List.forall_mem_cons.mpr ⟨reserved_of_read hcfg, List.forall_mem_cons.mpr ⟨reserved_of_read (hsts rfl), hclear⟩⟩

/-! ## What a power-on leaves -/

theorem classOf_onPower {c : Nat} :
    (classOf c (onPower f k s)).credit = 0 ∧ (classOf c (onPower f k s)).deficit = 0 ∧ (classOf c (onPower f k s)).f = 64 := by
  have hclass : classOf c (onPower f k s) = tget UplClass.zero c (Uplink.start f).classes := rfl
  rw [hclass]
  unfold Uplink.start
  simp only [tget]
  repeat' split
  all_goals exact ⟨rfl, rfl, rfl⟩

theorem hrwValue_onPower_zero {o : Nat} (ho : o ∈ clearedOffsets) : hrwValue o (onPower f k s) = 0 := by
  simp only [clearedOffsets, List.mem_cons, List.not_mem_nil, or_false] at ho
  rcases ho with rfl | rfl | rfl | rfl | rfl | rfl | rfl | rfl | rfl | rfl | rfl | rfl | rfl | rfl | rfl | rfl | rfl | rfl | rfl | rfl | rfl
  all_goals rfl

theorem hrwOpenBits_zero {o : Nat} (ho : o ∈ clearedOffsets) : hrwOpenBits o = 0 ∨ o ∈ reservedOffsets := by
  revert o
  decide

theorem hrwValue_onPower_vecPm {o : Nat} (ho : o ∈ [0x050, 0x054, 0x058, 0x05C]) :
    hrwOpenBits o = 0 ∧ hrwValue o (onPower f k s) = 0xFFFF := by
  simp only [List.mem_cons, List.not_mem_nil, or_false] at ho
  rcases ho with rfl | rfl | rfl | rfl
  all_goals exact ⟨rfl, rfl⟩

theorem blkSts_onPower (hc : f.crcOk = true) : hrwValue 0x028 (onPower f k s) = 0 := by
  have hv : hrwValue 0x028 (onPower f k s) = 256 * bnat (!f.crcOk) := Nat.zero_add _
  rw [hv, hc]
  rfl

/-- O46 holds exactly where the reserved bits read 0: the value of every other bit and field that it names is as it says. -/
theorem powerOnValues_iff : Obligations.PowerOnValues ↔ ReservedReadsZero := by
  refine ⟨reservedReadsZero_of, fun h f k s => ⟨onPower f k s, powerOn_runs, ?_⟩⟩
  have hopen : ∀ o ∈ reservedOffsets, hrwRead o (onPower f k s) = hrwValue o (onPower f k s) := fun o ho =>
    hrwRead_closed (h _ o ho)
  refine ⟨hrwRead_whole rfl, hrwRead_whole rfl, hrwRead_whole rfl, hopen _ (by decide), hrwRead_whole rfl, hrwRead_whole rfl,
    hrwRead_whole rfl, hrwRead_whole rfl, hrwRead_whole rfl, fun o ho => ?vecPm, fun o ho => ?zero,
    fun hc => (hopen _ (by decide)).trans (blkSts_onPower hc), rfl, rfl, rfl, rfl, rfl, rfl, rfl, fun _ => rfl, fun _ => rfl,
    fun _ => classOf_onPower, rfl, rfl, rfl, rfl, rfl, rfl, rfl⟩
  case vecPm =>
    obtain ⟨hwhole, hv⟩ := hrwValue_onPower_vecPm (f := f) (k := k) (s := s) ho
    exact (hrwRead_whole hwhole).trans hv
  case zero =>
    refine Eq.trans ?_ (hrwValue_onPower_zero (f := f) (k := k) (s := s) ho)
    rcases hrwOpenBits_zero ho with hwhole | hin
    · exact hrwRead_whole hwhole
    · exact hopen o hin

end PowerOn

end Sys2Proof.Machine
end
